-- ==== Sys2Proof/Word.lean ====
section
/-! DEFINITION. The plain word types of the model (R8, Table 04-1). -/

namespace Sys2Proof

/-- One byte of memory or of a message. -/
abbrev Byte := BitVec 8

/-- One 32-bit word: an FP32 encoding or a temper integer (R80, R110). -/
abbrev W32 := BitVec 32

/-- One element of a tile register or temporary: its 32 bits and its slag mark (R99). -/
abbrev Elem := W32 × Bool

end Sys2Proof
end

