-- ==== Sys2Proof/Syntax.lean ====
section
/-! DEFINITION. The commands of the block: one constructor per row of the spec's table of operations and events. -/

namespace Sys2Proof

/-- A pass sequencer's stream (R29). -/
inductive Sid where
  | fwd | bwd | upd
  deriving DecidableEq, Repr

/-- A source of hearth passes and temper launches (R62, R105). -/
inductive Src where
  | fwd | bwd | upd | coll
  deriving DecidableEq, Repr

/-- What a read of one ECC line or word finds (R304, R305); `split`: the two slag copies of an SRAM word disagree (R306). -/
inductive Ecc where
  | clean | corrected | uncorrectable | split
  deriving DecidableEq, Repr

/-- Resources whose control state carries parity (Table 14-1, Table 01-8). -/
inductive Ctl where
  | hearth (h : Nat)       -- hearth control state (R74)
  | temper (h : Nat)       -- temper control state (R119)
  | temperProgram (h : Nat) (src : Src) -- a source's program buffer on a temper engine (R119)
  | pyro (p : Nat)         -- sampler or controller (R141)
  | tongs (e : Nat)        -- a tongs engine (R157)
  | arena (p : Nat)        -- the arena unit (R157)
  | crucibleDie (c : Nat)  -- crucible die logic (Table 01-8)
  | coll (b : Nat)         -- a collective engine, by bellows die (R209)
  | bellows (b : Nat)      -- channel, grant or scheduler state (R237)
  | outer (b : Nat)        -- an outer-round engine (R270)
  | cipherReq (p : Nat)    -- request entry or suspension context (R286)
  | cipherSched            -- scheduler control state (R286)
  | link (p k : Nat)       -- on-package link `k` inside one partition's dies (Table 01-8, Table 14-7)
  | linkShared (k : Nat)   -- on-package link `k` between partitions or to the smith (Table 01-8, Table 14-7)
  | smithMem (double : Bool) -- an error in a smith memory, of one bit or of two (R331)
  deriving DecidableEq, Repr

/-- Errors that the local scrubber finds in SRAM that persists across steps (R141, R237, R286, R312); `double`: beyond correction. -/
inductive SramErr where
  | routing (p : Nat) (double : Bool)    -- a word of a partition's routing bank
  | pyro (p i : Nat) (double : Bool)     -- entry `i` of a partition's tracking table
  | counter (slot : Nat)                 -- a key slot's counter, corrected
  deriving DecidableEq, Repr

/-- What a key slot's storage check finds (R286), or the read-back after its zeroisation (R287). -/
inductive KeyErr where
  | keyOne | keyTwo | wordOne | wordNone | counterTwo | readBack
  deriving DecidableEq, Repr

/-- What the reads of a command find: the numbers of the 64-byte lines, by local address, that are corrected, and of those that are uncorrectable
(R304, R305). A line that the command does not read, or that only carries its mark, counts for nothing. -/
structure Found where
  fixed : List Nat := []
  bad : List Nat := []
  deriving DecidableEq, Repr

/-- A stream that takes its next word, and what reading the word, its descriptor and its source finds. -/
structure Fetch where
  sid : Sid
  found : Found := {}
  deriving DecidableEq, Repr

/-- A source whose program image is read, and what that finds. -/
structure ProgRead where
  src : Src
  found : Found := {}
  deriving DecidableEq, Repr

/-- The partition, update unit or segment that a command is about, and what its reads of memory find. -/
structure Reading where
  of : Nat
  found : Found := {}
  deriving DecidableEq, Repr

/-- Errors of on-die storage that an engine's run meets: words or elements of what it holds, elements of T28-T31, elements of temporaries, and words
whose slag copies disagree (R119, R209, R306). Of the errors of one list, those that are corrected, or those that are not. -/
structure HeldErrs where
  words : List Nat := []
  regs : List Nat := []
  temps : List Nat := []
  split : List Nat := []
  deriving DecidableEq, Repr

/-- A hall-transport packet as received: `HT_HDR` (Table 10-3), its payload, and what the outer
headers gave (R211, R218): the UDP checksum's outcome, the source address's locator, the CE mark, the plane and the VLAN ID of a tag (0: none, or
a priority tag). `loop`: it came over the bellows from a partition of this module, not through a port. `bufFixed` and `bufBad`: 64-byte lines of a MSG's or an answer's payload that show an error in the receive buffer (R237).
`found`: what the memory that a READ_REQ or an ATOMIC reads shows. -/
structure HtPkt where
  version : Nat := 1
  type : Nat := 0
  dstModule : Nat := 0
  srcModule : Nat := 0
  dstPart : Nat := 0
  srcPart : Nat := 0
  routeGen : Nat := 0
  psn : Nat := 0
  addr : Nat := 0
  length : Nat := 0
  mapId : Nat := 0
  slag : Bool := false
  op : Nat := 0
  aux : Nat := 0
  connGen : Nat := 0
  icrc : Nat := 0
  payload : List Byte := []
  udpOk : Bool := true
  locator : Nat := 0
  ce : Bool := false
  plane : Nat := 0
  vid : Nat := 0
  bufFixed : List Nat := []
  bufBad : List Nat := []
  found : Found := {}
  loop : Bool := false
  deriving DecidableEq, Repr

/-- An outer segment as received: `OUTER_SEG_HDR` (Table 11-6), ciphertext, tag, and what the outer
headers gave (R246). -/
structure OuterSeg where
  version : Nat := 1
  type : Nat := 0
  fmt : Nat := 0
  last : Bool := false
  blockCount : Nat := 0
  srcIsland : Nat := 0
  dstIsland : Nat := 0
  srcModule : Nat := 0
  dstModule : Nat := 0
  srcPart : Nat := 0
  dstPart : Nat := 0
  assumeGen : Nat := 0
  round : Nat := 0
  slab : Nat := 0
  segIndex : Nat := 0
  keyEpoch : Nat := 0
  sendCtr : Nat := 0
  rsv : Nat := 0
  cipher : List Byte := []
  tag : List Byte := []
  udpOk : Bool := true
  locator : Nat := 0
  ce : Bool := false
  plane : Nat := 0
  vid : Nat := 0
  deriving DecidableEq, Repr

/-- The transport an SPDM request came on (R293): the sideband, or a device mailbox. -/
inductive Via where
  | sideband
  | mailbox (m : Nat)
  deriving DecidableEq, Repr

/-- What a CM request for a queue pair carries beside its binding: the source's address, the port it came by, the path MTU and whether it asks
for Reliable Connected transport (R216). -/
structure CmReq where
  source : Nat
  port : Nat
  mtu : Nat
  reliable : Bool
  deriving DecidableEq, Repr

/-- The queue pair or the sub-interface that a frame of the host path came to, and the VLAN ID of its tag (0: none, or a priority tag; R211). -/
structure Framed where
  of : Nat
  vid : Nat := 0
  deriving DecidableEq, Repr

/-- A received segment, and the 64-byte lines of its payload in which reading it from the engine's storage finds an error: corrected, and
uncorrectable (R209). -/
structure HeldPkt where
  pkt : HtPkt
  fixed : List Nat := []
  bad : List Nat := []
  deriving DecidableEq, Repr

/-- The operation whose DIRECT stage closes short, and the errors that reading its accumulators finds (R209). -/
structure Closing where
  insn : Nat
  fixed : HeldErrs := {}
  bad : HeldErrs := {}
  deriving DecidableEq, Repr

/-- A home that fills its frame, or a partition whose arena writes one back, and the lines of the 2 MiB read whose errors are found
uncorrectable and corrected, each by its number (R157, R305). -/
structure FrameRead where
  of : Nat
  bad : List Nat := []
  fixed : List Nat := []
  deriving DecidableEq, Repr

/-- The power of a millisecond, W: of the blade, and of the regulator outputs of the dies in the order of Table 16-17 from index 8: forge dies, base
dies, bellows dies, crucible dies, smith and cipher die (R353). -/
structure CapIn where
  blade : Nat
  dies : List Nat := []
  deriving DecidableEq, Repr

/-- An instruction loaded through the TAP, and the level of TRST_N meanwhile (R302, R357). -/
structure TapIn where
  instr : Nat
  trstN : Bool := true
  deriving DecidableEq, Repr

/-- The commands: host commands, stream instructions, engine events, received packets, timers and pins. -/
inductive Instr where
  -- host writes to space 4
  | mbxOwnWrite (qp : Framed) (m : Nat) (v : W32)
  | registerWrite (qp : Framed) (off : Nat) (data : List Byte)
  | apertureWrite (qp : Framed) (p x : Nat) (data : List Byte)
  -- mailbox commands: the smith dispatches mailbox m
  | unitQuery (m : Nat)
  | idAssign (m : Nat)
  | partCreate (m : Nat)
  | scrubConfig (m : Nat)
  | jobLoad (m : Nat)
  | jobStart (m : Nat)
  | jobStop (m : Nat)
  | accSet (m : Nat)
  | inputPost (m : Nat)
  | apertureSet (m : Nat)
  | memSend (m : Nat)
  | jobUnload (m : Nat)
  | portConfig (m : Nat)
  | hostTarget (m : Nat)
  | routeLoad (m : Nat)
  | spareAssume (m : Nat)
  | roundConfig (m : Nat)
  | layoutSet (m : Nat)
  | layoutSetForced (m : Nat)
  | ingotEmit (m : Nat)
  | keyInstall (m : Nat)
  | keyZero (m : Nat)
  | keyStatus (m : Nat)
  | keyOffer (m : Nat)
  | keyWrap (m : Nat)
  | keyUnwrap (m : Nat)
  | spdmMsg (m : Nat)
  | fwStage (m : Nat)
  | fwCommit (m : Nat)
  | lcAdvance (m : Nat)
  | debugNonce (m : Nat)
  | debugEnter (m : Nat)
  | debugExit (m : Nat)
  | telemConfig (m : Nat)
  | faultAck (m : Nat)
  | powerCap (m : Nat)
  | powerState (m : Nat)
  -- stream instructions: the sequencer of partition p issues the next word of stream t
  | ctrlNop (p : Nat) (t : Fetch)
  | loopBegin (p : Nat) (t : Fetch)
  | loopEnd (p : Nat) (t : Fetch)
  | groupBegin (p : Nat) (t : Fetch)
  | blockEnd (p : Nat) (t : Fetch)
  | readyBlockSelect (p : Nat) (t : Fetch)
  | passEnd (p : Nat) (t : Fetch)
  | stepEnd (p : Nat) (t : Fetch)
  | hearthPass (p : Nat) (t : Fetch)
  | temperRunInsn (p : Nat) (t : Fetch)
  | copy (p : Nat) (t : Fetch)
  | tongsGather (p : Nat) (t : Fetch)
  | fill (p : Nat) (t : Fetch)
  | prefetch (p : Nat) (t : Fetch)
  | evict (p : Nat) (t : Fetch)
  | reduce (p : Nat) (t : Fetch)
  | collGather (p : Nat) (t : Fetch)
  | collFlag (p : Nat) (t : Fetch)
  | commit (p : Nat) (t : Fetch)
  | push (p : Nat) (t : Fetch)
  | pop (p : Nat) (t : Fetch)
  | release (p : Nat) (t : Fetch)
  | track (p : Nat) (t : Fetch)
  | sample (p : Nat) (t : Fetch)
  | scaleFlag (p : Nat) (t : Fetch)
  -- completions: instruction n of stream t, by its issue number
  | hearthPassDone (p : Nat) (t : Sid) (n : Nat)
  | temperLaunchDone (p : Nat) (t : Sid) (n : Nat)
  | tongsDone (p : Nat) (t : Sid) (n : Nat)
  | collDone (p : Nat) (t : Sid) (n : Nat)
  | pushDone (p : Nat) (t : Sid) (n : Nat)
  | streamHang (p : Nat) (t : Sid)
  -- the step boundary
  | stepBoundary (p : Nat)
  | imageRefreshDone (p : Nat)
  | anchorTimeout (p : Nat)
  | outerBoundaryWorkDone (p : Reading)
  | heldStepStart (p : Nat)
  | drainTimeout (p : Nat)
  -- hearths and temper engines, by hearth index; `bad`, `fixed` and `split` are word numbers with errors that reads find;
  -- `par` of a pass lists the anvils whose accumulators show a parity error; a run's words are 512 x register + element / 2, and its `par` lists
  -- (program word, temporary, element); the split words of a run stand in its `fixed`
  | passAccept (h : Nat) (bad fixed split par : List Nat)
  | billetTransfer (h : Nat)
  | billetStall (h : Nat)
  | temperProgramLoad (h : Nat) (src : ProgRead)
  | temperInputLoad (h : Nat) (src : Src) (bad fixed split : List Nat)
  | temperRun (h : Nat) (bad : List Nat) (fixed : HeldErrs) (par : List (Nat × Nat × Nat))
  | temperStarve (h : Nat) (src : Src)
  -- tongs, arena, activation queues; `ecc` is what the read of the piece's first line finds; `bad` and `fixed` are lines of a 2 MiB frame in which its
  -- move finds errors
  | tongsPiece (e p : Nat) (ecc : Ecc)
  | backgroundPieceFeed (p k : Nat) (ecc : Ecc)
  | arenaFill (p : Nat) (home : FrameRead)
  | arenaWriteback (p : FrameRead)
  | arenaStall (p : Nat)
  | arenaLendTimeout (p : Nat)
  | pairingConfirm (pkt : HtPkt) (base : Nat)
  | actqCredit (pkt : HtPkt) (queue epoch : Nat)
  | actqFullNotice (pkt : HtPkt) (queue epoch : Nat)
  -- update units, by unit index
  | commitOpen (u : Reading)
  | commitDecision (u : Nat)
  | commitComplete (u : Nat)
  | updateUnitRetired (u : Nat)
  -- pyrometer and collective engine
  | stepFlagTaken (p : Nat)
  | reduceRelease (p : Reading)
  | samplePositionCheck (p : Reading)
  -- `fixed` and `bad`: elements of the accumulators or the carry, or of the registers and temporaries of the adding run, in which an error shows (R119, R209)
  | contrib (pkt : HtPkt) (fixed bad : HeldErrs)
  | directStageTimeout (p : Nat) (n : Closing)
  | result (pkt : HeldPkt)
  | gatherSegment (pkt : HtPkt)
  -- `fixed` and `bad` of a RESULT, a STAT or a FLAG: errors in the staging storage that the segment is kept in (R209)
  | stat (pkt : HeldPkt)
  | flagSegment (pkt : HeldPkt)
  | flagRootTimeout (p n : Nat)
  | decide (pkt : HtPkt)
  | decideTimeout (p : Nat)
  | abort (pkt : HtPkt)
  | barrier (pkt : HtPkt)
  | barrierAnswer (pkt : HtPkt)
  | groupCfg (p g : Nat)
  -- hall transport
  -- `fixed` and `bad`: 64-byte lines, from the first that the WRITE covers, whose buffered payload shows an error (R237)
  | htWrite (pkt : HtPkt) (fixed bad : List Nat)
  | readReq (pkt : HtPkt)
  | readResp (pkt : HtPkt)
  | fetchAdd (pkt : HtPkt)
  | cmpSwap (pkt : HtPkt)
  | swap (pkt : HtPkt)
  | atomicResp (pkt : HtPkt)
  | htAck (pkt : HtPkt)
  | htAckTimer (p mod part : Nat)
  | request (pkt : HtPkt)
  | grant (pkt : HtPkt)
  | returnGrant (pkt : HtPkt)
  | grantIdleTimeout (p mod part : Nat)
  | packetTimeout (p mod part psn : Nat)
  | heartbeatTimer (p : Nat)
  | heartbeat (pkt : HtPkt)
  | planeDown (p id plane : Nat)
  | peerLost (p id : Nat)
  | isolationTimeout (p : Nat)
  | loss (pkt : HtPkt) (ids : List Nat)
  | rollback (pkt : HtPkt) (round : Nat) (ids : List Nat)
  | fence (pkt : HtPkt)
  | announce (pkt : HtPkt) (lost : Nat)
  | routeUpd (pkt : HtPkt) (lost gen locator spare : Nat)
  | routeAck (pkt : HtPkt)
  | resume (pkt : HtPkt)
  | lossHold (p : Nat)
  | linkDown (port sub : Nat)
  | linkUp (port sub : Nat)
  | linkHoldExpiry (port sub : Nat)
  -- host path
  | hostCmRequest (qp : Framed) (source : CmReq) (bind : Option Nat)
  | hostRdmaWrite (qp : Framed) (off : Nat) (data : List Byte)
  | hostRdmaRead (qp : Framed) (off len : Nat)
  | hostInvalidRequest (qp : Framed)
  | cnp (qp : Framed)
  | hostCeMark (qp : Framed)
  | hostRateRecover (qp : Nat)
  | hostWriteFail (qp : Nat)
  -- outer rounds
  | outerSend (p isl slab : Nat) (seg : Reading)
  | outerDataSegment (seg : OuterSeg)
  | outerAck (seg : OuterSeg)
  | probe (seg : OuterSeg)
  | hello (seg : OuterSeg)
  | outerAckTimer (p mod slab round : Nat)
  | reorderLoss (p isl slab round seg : Nat)
  | outerRtoExpiry (p isl slab round seg : Nat)
  | helloTimer (p isl slab : Nat)
  | graceWindowClose (p isl : Nat)
  | roundWordAdd (p round : Nat)
  | roundWordPoll (p : Nat)
  | roundHold (p : Nat)
  -- cipher engine
  | gcmSeal (req : Nat)
  | gcmOpen (req : Nat)
  | xtsEncrypt (req : Nat)
  | xtsDecrypt (req : Nat)
  | cipherRequestStart (p : Nat)
  | cipherRequestDone (core : Nat) (mismatch : Bool)
  | cipherPromote (p : Nat)
  | keyFault (slot : Nat) (e : KeyErr)
  | keyOfferExpiry (p id : Nat)
  -- SPDM requests
  | getVersion (via : Via) (msg : List Byte)
  | getCapabilities (via : Via) (msg : List Byte)
  | negotiateAlgorithms (via : Via) (msg : List Byte)
  | getDigests (via : Via) (msg : List Byte)
  | getCertificate (via : Via) (msg : List Byte)
  | challenge (via : Via) (msg : List Byte)
  | getMeasurements (via : Via) (msg : List Byte)
  | keyExchange (via : Via) (msg : List Byte)
  | finish (via : Via) (msg : List Byte)
  | spdmHeartbeat (via : Via) (msg : List Byte)
  | endSession (via : Via) (msg : List Byte)
  | spdmUnsupportedRequest (via : Via) (msg : List Byte)
  -- sideband
  | setEndpointId (eid : Nat)
  | setTid (tid : Nat)
  | getPdr (record : Nat)
  | getSensorReading (sensor : Nat)
  | getStateSensorReadings (sensor : Nat)
  | setNumericEffecterValue (effecter value : Nat)
  | getNumericEffecterValue (effecter : Nat)
  | setStateEffecterStates (effecter state : Nat)
  | getStateEffecterStates (effecter : Nat)
  | pldmFirmwareUpdate (component : Nat) (last : Bool) (offset : Nat) (piece : List Byte)
  | setNetId (planes : List Nat) (locator port : Nat)
  | setHostAllow (entries : List (Nat × Nat))
  | pldmUnsupportedCmd (mctp : Bool)
  -- faults, audits, scrubbing
  | booksRestored (p : Nat)
  | discardTimeout (p : Nat)
  | controlParity (c : Ctl)
  | scrubRead (crucible : Bool) (unit : Nat) (ecc : Ecc)
  | localScrub (found : List SramErr)
  | correctedWriteback (line : Nat)
  -- telemetry and timers
  | telemBatch (stream : Nat)
  | capTick (watts : CapIn)
  | thermalTick (temps : List (Nat × Option Int))
  | clockCheck (ppm : Nat) (edge vcoLock : Bool)
  | phyPll (unit : Nat)
  | phyPllRelock (die : Nat) (locked : Bool)
  -- power, pins and start-up
  | slotIdLatch (straps : Nat)
  | halt (p : Nat)
  | inputUnstable (pin : Nat)
  | inputUnstableRelease (pin : Nat) (level : Bool)
  | inputBandChange (millivolts : Nat)
  | regulator (die : Nat)
  | holdupMeasure (microfarad millivolts : Nat)
  | hostTransferAck (p k : Nat)
  | hostRetransmit (qp : Nat)
  | remapDone (die page : Nat)
  | selftestDone (hearth : Bool) (unit : Nat) (pass : Bool)
  | neighborSolicitation (port : Nat) (sub : Framed) (target : Nat)
  | routerAdvertisement (port : Nat) (sub : Framed) (router : Nat)
  | pauseFrame (port sub : Nat)
  | i3cDynamicAddress (addr : Nat)
  | inBandInterruptEnable (on : Bool)
  | jtagInstruction (instr : TapIn)
  | strapChange (straps : Nat)
  -- commands without operands
  | debugNonceExpiry
  | debugFillDone
  | getEndpointId
  | getEndpointUuid
  | getMctpVersionSupport
  | getMessageTypeSupport
  | getTid
  | getPldmVersion
  | getPldmTypes
  | getPldmCommands
  | getPdrRepositoryInfo
  | getFruRecordTableMetadata
  | getFruRecordTable
  | activateFirmware
  | getNetId
  | getHostAllow
  | faultRecord
  | faultDispatch
  | bookAudit
  | countRec
  | powerRec
  | thermalTrip
  | watchdogExpiry
  | standbyUp
  | pwrEnAssert
  | pwrEnDeassert
  | resetNAssert
  | resetNDeassert
  | haltNAssert
  | haltNDeassert
  | breakerOpen
  | pstoreRetry
  | wearCounterWrite
  | idleEntry
  | powerTransitionDone
  deriving DecidableEq, Repr

end Sys2Proof
end

