-- ==== Sys2Proof/Decode.lean ====
section
/-! DEFINITION. Commands from table bits: spec/opcode_table.json gives no row any bits. -/

namespace Sys2Proof

/-- The command a word spells by the table's bits: none, since every row has an empty field list. -/
def decodeTableWord (_nbits _w : Nat) : Option Instr := none

end Sys2Proof
end

