-- ==== Sys2Proof/Machine/Bits.lean ====
section
/-! DEFINITION. Bit fields, little-endian byte strings, checksums and list helpers (R8, R132, R218). -/

namespace Sys2Proof.Machine

/-- The field `[hi:lo]` of a structure read as one number (the manual's `field[msb:lsb]`). -/
def bits (n hi lo : Nat) : Nat := (n >>> lo) % 2 ^ (hi + 1 - lo)

/-- One bit of a structure. -/
def bit (n k : Nat) : Bool := n.testBit k

/-- A `w`-bit field read as a two's-complement integer. -/
def sext (w n : Nat) : Int := if n % 2 ^ w < 2 ^ (w - 1) then ((n % 2 ^ w : Nat) : Int) else ((n % 2 ^ w : Nat) : Int) - ((2 ^ w : Nat) : Int)

/-- An integer written as a `w`-bit two's-complement field. -/
def field (w : Nat) (z : Int) : Nat := (z % ((2 ^ w : Nat) : Int)).toNat

/-- A Boolean as a one-bit field. -/
def b01 (b : Bool) : Nat := if b then 1 else 0

/-- A structure's number from its fields, most significant first: (width, value). -/
def pack : List (Nat × Nat) → Nat
  | [] => 0
  | (w, v) :: fs => (v % 2 ^ w) * 2 ^ ((fs.map (·.1)).sum) + pack fs

/-- An element put into a list that is in order of a key, before its equals. -/
def insertBy {α : Type} (key : α → Nat) (x : α) : List α → List α
  | [] => [x]
  | y :: ys => if key x ≤ key y then x :: y :: ys else y :: insertBy key x ys

/-- A list in order of a key; equals keep their order. -/
def sortBy {α : Type} (key : α → Nat) (l : List α) : List α := l.foldr (insertBy key) []

/-- Bytes of a number, least significant first (R8). -/
def leBytes : Nat → Nat → List Byte
  | 0, _ => []
  | k + 1, n => BitVec.ofNat 8 n :: leBytes k (n / 256)

/-- The number a little-endian byte string spells (R8). -/
def leNat : List Byte → Nat
  | [] => 0
  | b :: bs => b.toNat + 256 * leNat bs

/-- The number a big-endian byte string spells (published standards only, R8). -/
def beNat (bs : List Byte) : Nat := leNat bs.reverse

/-- Bytes of a number, most significant first. -/
def beBytes (k n : Nat) : List Byte := (leBytes k n).reverse

/-- ⌈a ÷ b⌉. -/
def ceilDiv (a b : Nat) : Nat := (a + b - 1) / b

/-- `a` rounded up to a multiple of `b`. -/
def roundUp (a b : Nat) : Nat := b * ceilDiv a b

/-- A value held at its field's limit. -/
def satTo (w n : Nat) : Nat := min n (2 ^ w - 1)

/-- A list's elements with their positions. -/
def enum {α : Type} (l : List α) : List (Nat × α) := (List.range l.length).zip l

/-- The list with its entry `i` changed by `f`; a list without that entry is unchanged. -/
def updAt {α : Type} : List α → Nat → (α → α) → List α
  | [], _, _ => []
  | x :: xs, 0, f => f x :: xs
  | x :: xs, i + 1, f => x :: updAt xs i f

/-- The first entry satisfying `q`, with its index. -/
def findIdxFrom {α : Type} (q : α → Bool) : Nat → List α → Option (Nat × α)
  | _, [] => none
  | i, x :: xs => if q x then some (i, x) else findIdxFrom q (i + 1) xs

/-- The first entry satisfying `q`, with its index. -/
def firstWith {α : Type} (q : α → Bool) (l : List α) : Option (Nat × α) := findIdxFrom q 0 l

/-- A strictly rising list with `x` added (a set of numbers). -/
def setIns (x : Nat) : List Nat → List Nat
  | [] => [x]
  | y :: ys => if x < y then x :: y :: ys else if x = y then y :: ys else y :: setIns x ys

/-- A set of numbers with `x` taken out. -/
def setDel (x : Nat) (l : List Nat) : List Nat := l.filter (· != x)

/-- Value of `k` in an association list, `d` where it has none. -/
def assocGet {α : Type} (k : Nat) (d : α) : List (Nat × α) → α
  | [] => d
  | (j, v) :: r => if j = k then v else assocGet k d r

/-- An association list with `k` set to `v`. -/
def assocSet {α : Type} (k : Nat) (v : α) : List (Nat × α) → List (Nat × α)
  | [] => [(k, v)]
  | (j, w) :: r => if j = k then (k, v) :: r else (j, w) :: assocSet k v r

/-- One count of a sparse table raised by `n`, held at `2^w - 1`. -/
def countUp (w k n : Nat) (l : List (Nat × Nat)) : List (Nat × Nat) := assocSet k (satTo w (assocGet k 0 l + n)) l

/-- The pieces of a list, `n` entries each (the last may be shorter); `fuel` bounds their number. -/
def chunksFuel {α : Type} : Nat → Nat → List α → List (List α)
  | 0, _, _ => []
  | _ + 1, _, [] => []
  | f + 1, n, l => l.take n :: chunksFuel f n (l.drop n)

/-- The pieces of a list, `n` entries each. -/
def chunks {α : Type} (n : Nat) (l : List α) : List (List α) := chunksFuel (l.length + 1) n l

/-- A list padded at its end to length `n`. -/
def padTo {α : Type} (n : Nat) (d : α) (l : List α) : List α := l ++ List.replicate (n - l.length) d

/-- One bit step of a reflected CRC-32 with polynomial `poly`. -/
def crcStep (poly c : Nat) : Nat := if c % 2 = 1 then (c >>> 1) ^^^ poly else c >>> 1

/-- One byte of a reflected CRC-32. -/
def crcByte (poly c : Nat) (b : Byte) : Nat := (List.range 8).foldl (fun c _ => crcStep poly c) (c ^^^ b.toNat)

/-- A reflected CRC-32 with initial value and final complement all ones. -/
def crcWith (poly : Nat) (bs : List Byte) : Nat := (bs.foldl (crcByte poly) 0xFFFFFFFF) ^^^ 0xFFFFFFFF

/-- CRC-32 of IEEE 802.3 (R132, R185, R246). -/
def crc32 (bs : List Byte) : Nat := crcWith 0xEDB88320 bs

/-- CRC-32C (R218). -/
def crc32c (bs : List Byte) : Nat := crcWith 0x82F63B78 bs

/-- Serial-number comparison modulo 2^16: is `a` older than `b`? More than 32,767 behind is stale as well (Table 00-3), so of the two halves
only 1 to 32,767 ahead is ahead. -/
def epochOlder (a b : Nat) : Bool := a % 65536 != b % 65536 && (b % 65536 + 65536 - a % 65536) % 65536 ≤ 32768

end Sys2Proof.Machine
end

