-- ==== Sys2Proof/Machine/Crypto.lean ====
section
/-! DEFINITION. AES-256 with GCM and XTS, and SHAKE256, as the standards that the manual names define them
(R155, R274, R285; FIPS 197, SP 800-38D, IEEE 1619, FIPS 202; PRESUMED, log entry 9). -/

namespace Sys2Proof.Machine

/-! ## AES-256 -/

/-- Multiplication by x in GF(2^8). -/
def xtime (a : Nat) : Nat := if 128 ≤ a then (2 * a) ^^^ 0x11B else 2 * a

/-- Multiplication in GF(2^8). -/
def gmul (a b : Nat) : Nat :=
  ((List.range 8).foldl (fun (x : Nat × Nat) i => (if b.testBit i then x.1 ^^^ x.2 else x.1, xtime x.2)) (0, a)).1

/-- The inverse in GF(2^8), x^254; 0 for 0. -/
def ginv (x : Nat) : Nat :=
  let x2 := gmul x x
  ((List.range 6).foldl (fun (p : Nat × Nat) _ => let y := gmul p.2 p.2; (gmul p.1 y, y)) (x2, x2)).1

def rotl8 (x k : Nat) : Nat := (x * 2 ^ k ||| x >>> (8 - k)) % 256

def sboxOf (x : Nat) : Nat := let b := ginv x; b ^^^ rotl8 b 1 ^^^ rotl8 b 2 ^^^ rotl8 b 3 ^^^ rotl8 b 4 ^^^ 0x63
def invSboxOf (x : Nat) : Nat := ginv (rotl8 x 1 ^^^ rotl8 x 3 ^^^ rotl8 x 6 ^^^ 0x05)

def sboxTable : Array Nat := ((List.range 256).map sboxOf).toArray
def invSboxTable : Array Nat := ((List.range 256).map invSboxOf).toArray
def sbox (x : Nat) : Nat := sboxTable.getD x 0
def invSbox (x : Nat) : Nat := invSboxTable.getD x 0

def xorList (a b : List Nat) : List Nat := (a.zip b).map fun (x, y) => x ^^^ y

/-- The next word of the key schedule from the words so far, latest first. -/
def nextWord (i : Nat) (ws : List (List Nat)) : List Nat :=
  let t := ws.headD []
  let back := ws.getD 7 []
  if i % 8 = 0 then
    let r := (t.drop 1 ++ t.take 1).map sbox
    let rc := (List.range (i / 8 - 1)).foldl (fun c _ => xtime c) 1
    xorList back (xorList r [rc, 0, 0, 0])
  else if i % 8 = 4 then xorList back (t.map sbox)
  else xorList back t

/-- The fifteen round keys of AES-256, 16 bytes each. -/
def roundKeys (key : List Nat) : List (List Nat) :=
  let ws := (List.range 52).foldl (fun ws i => nextWord (i + 8) ws :: ws) (chunks 4 key).reverse
  (chunks 4 ws.reverse).map List.flatten

def shiftRows (s : List Nat) : List Nat := (List.range 16).map fun i => s.getD ((i + 4 * (i % 4)) % 16) 0
def invShiftRows (s : List Nat) : List Nat := (List.range 16).map fun i => s.getD ((i + 16 - 4 * (i % 4)) % 16) 0

/-- Each column multiplied by the circulant matrix of `m`. -/
def mixWith (m s : List Nat) : List Nat :=
  (chunks 4 s).flatMap fun c => (List.range 4).map fun r => (List.range 4).foldl (fun x k => x ^^^ gmul (m.getD ((k + 4 - r) % 4) 0) (c.getD k 0)) 0

def aesEnc (rk : List (List Nat)) (b : List Nat) : List Nat :=
  let s := xorList b (rk.headD [])
  let s := ((rk.drop 1).take 13).foldl (fun s k => xorList (mixWith [2, 3, 1, 1] (shiftRows (s.map sbox))) k) s
  xorList (shiftRows (s.map sbox)) (rk.getD 14 [])

def aesDec (rk : List (List Nat)) (b : List Nat) : List Nat :=
  let s := (invShiftRows (xorList b (rk.getD 14 []))).map invSbox
  let s := (((rk.drop 1).take 13).reverse).foldl (fun s k => (invShiftRows (mixWith [14, 11, 13, 9] (xorList s k))).map invSbox) s
  xorList s (rk.headD [])

def toNats (bs : List Byte) : List Nat := bs.map (·.toNat)
def toBytes (ns : List Nat) : List Byte := ns.map (BitVec.ofNat 8)
def beOf (ns : List Nat) : Nat := ns.foldl (fun a b => 256 * a + b) 0
def beTo (k n : Nat) : List Nat := ((List.range k).map fun i => n / 256 ^ (k - 1 - i) % 256)

/-! ## GCM -/

/-- Multiplication in the GHASH field, most significant bit first. -/
def ghMul (x y : Nat) : Nat :=
  ((List.range 128).foldl (fun (z : Nat × Nat) i =>
    (if x.testBit (127 - i) then z.1 ^^^ z.2 else z.1, if z.2 % 2 = 1 then z.2 / 2 ^^^ (0xE1 <<< 120) else z.2 / 2)) (0, y)).1

def pad16 (l : List Nat) : List Nat := padTo (roundUp l.length 16) 0 l

def ghash (h : Nat) (l : List Nat) : Nat := (chunks 16 l).foldl (fun y b => ghMul (y ^^^ beOf b) h) 0

/-- Counter-mode encryption from the counter after `j0`. -/
def ctr32 (rk : List (List Nat)) (j0 : Nat) (d : List Nat) : List Nat :=
  ((List.range (chunks 16 d).length).zip (chunks 16 d)).flatMap fun (i, b) =>
    xorList b (aesEnc rk (beTo 16 (j0 / 2 ^ 32 * 2 ^ 32 + (j0 + i + 1) % 2 ^ 32)))

/-- The tag over AAD and ciphertext. -/
def gcmTag (rk : List (List Nat)) (j0 : Nat) (aad c : List Nat) : List Nat :=
  let h := beOf (aesEnc rk (List.replicate 16 0))
  let s := ghash h (pad16 aad ++ pad16 c ++ beTo 8 (8 * aad.length) ++ beTo 8 (8 * c.length))
  xorList (beTo 16 s) (aesEnc rk (beTo 16 j0))

/-- AES-256-GCM seal under a 12-byte IV: ciphertext and tag. -/
def gcmSealBytes (key iv aad d : List Byte) : List Byte × List Byte :=
  let rk := roundKeys (toNats key)
  let j0 := beOf (toNats iv) * 2 ^ 32 + 1
  let c := ctr32 rk j0 (toNats d)
  (toBytes c, toBytes (gcmTag rk j0 (toNats aad) c))

/-- AES-256-GCM open: the plaintext where the tag verifies. -/
def gcmOpenBytes (key iv aad c tag : List Byte) : Option (List Byte) :=
  let rk := roundKeys (toNats key)
  let j0 := beOf (toNats iv) * 2 ^ 32 + 1
  if toBytes (gcmTag rk j0 (toNats aad) (toNats c)) = tag then some (toBytes (ctr32 rk j0 (toNats c))) else none

/-! ## XTS -/

/-- Multiplication of a tweak by alpha, the tweak read as a little-endian number. -/
def xtsAlpha (t : Nat) : Nat := if t.testBit 127 then (2 * t) % 2 ^ 128 ^^^ 0x87 else 2 * t

/-- One data unit of whole blocks under AES-256-XTS; `f` is the block cipher. -/
def xtsWith (f : List (List Nat) → List Nat → List Nat) (key : List Byte) (unit : Nat) (d : List Byte) : List Byte :=
  let rk := roundKeys (toNats (key.take 32))
  let rk2 := roundKeys (toNats (key.drop 32))
  let t0 := leNat (toBytes (aesEnc rk2 (toNats (leBytes 16 unit))))
  toBytes ((chunks 16 (toNats d)).foldl (fun (p : Nat × List Nat) b =>
    let t := toNats (leBytes 16 p.1)
    (xtsAlpha p.1, p.2 ++ xorList (f rk (xorList b t)) t)) (t0, [])).2

def xtsEnc (key : List Byte) (unit : Nat) (d : List Byte) : List Byte := xtsWith aesEnc key unit d
def xtsDec (key : List Byte) (unit : Nat) (d : List Byte) : List Byte := xtsWith aesDec key unit d

/-! ## SHAKE256 -/

def rotl64 (x k : Nat) : Nat := let k := k % 64; ((x <<< k) ||| (x >>> (64 - k))) % 2 ^ 64
def not64 (x : Nat) : Nat := x ^^^ (2 ^ 64 - 1)

/-- Rotation of lane (x, y): t (t + 1) / 2 on the t-th lane of the walk from (1, 0). -/
def rhoOffset (x y : Nat) : Nat :=
  let w := (List.range 24).foldl (fun (p : Nat × Nat × Nat) t =>
    let (a, b, r) := p
    (b, (2 * a + 3 * b) % 5, if a = x ∧ b = y then (t + 1) * (t + 2) / 2 else r)) (1, 0, 0)
  w.2.2

/-- The bit stream of the round constants. -/
def rcBit (t : Nat) : Bool :=
  ((List.range (t % 255)).foldl (fun r _ => let r := 2 * r; if 256 ≤ r then r ^^^ 0x171 else r) 1) % 2 = 1

def roundConst (i : Nat) : Nat := ((List.range 7).map fun j => if rcBit (j + 7 * i) then 2 ^ (2 ^ j - 1) else 0).sum

def keccakRound (a : List Nat) (i : Nat) : List Nat :=
  let g := fun (l : List Nat) (x y : Nat) => l.getD (x % 5 + 5 * (y % 5)) 0
  let c := (List.range 5).map fun x => (List.range 5).foldl (fun v y => v ^^^ g a x y) 0
  let d := (List.range 5).map fun x => c.getD ((x + 4) % 5) 0 ^^^ rotl64 (c.getD ((x + 1) % 5) 0) 1
  let t := (List.range 25).map fun k => a.getD k 0 ^^^ d.getD (k % 5) 0
  let b := (List.range 25).map fun k => let x := k % 5; let y := k / 5; rotl64 (g t (x + 3 * y) x) (rhoOffset ((x + 3 * y) % 5) x)
  let e := (List.range 25).map fun k => let x := k % 5; let y := k / 5; g b x y ^^^ ((not64 (g b (x + 1) y)) &&& g b (x + 2) y)
  updAt e 0 (· ^^^ roundConst i)

def keccakF (a : List Nat) : List Nat := (List.range 24).foldl keccakRound a

/-- SHAKE256 of a byte string, `n` bytes of output (n ≤ 136 a squeeze). -/
def shake256 (m : List Byte) (n : Nat) : List Byte :=
  let l := toNats m
  let q := 136 - l.length % 136
  let p := if q = 1 then [0x9F] else [0x1F] ++ List.replicate (q - 2) 0 ++ [0x80]
  let st := (chunks 136 (l ++ p)).foldl (fun a blk =>
    keccakF (((List.range 25).zip a).map fun (i, v) => if i < 17 then v ^^^ leNat (toBytes ((blk.drop (8 * i)).take 8)) else v)) (List.replicate 25 0)
  let out := (List.range (n / 136 + 1)).foldl (fun (p : List Nat × List Byte) _ => (keccakF p.1, p.2 ++ (p.1.take 17).flatMap (leBytes 8))) (st, [])
  out.2.take n

end Sys2Proof.Machine
end

