-- ==== Sys2Proof/Config.lean ====
section
/-! DEFINITION. What an implementation fixes and the free values: opaque constants, of which nothing can be proved. -/

namespace Sys2Proof.Config

/-- Draw `k` of the module's random source (R289, R285, R299; free value, log entry 8). -/
opaque random : Nat → Nat

/-- The syndrome that memory error number `k` reports (note a of Table 14-6; free value, log entry 8). -/
opaque syndrome : Nat → Nat

/-- The fault code of a record whose rule, number `k`, names no entry of Table 14-8 (free value, log entry 8). -/
opaque faultCode : Nat → Nat

/-- act_hwm of `STAGE_STATS` record number `n`: which bytes of HBM are stored activations only the program knows (R55; free value, log
entry 8). -/
opaque stageFigure : Nat → Nat

/-- Ticks of a step that a hearth's passes stalled on SRAM bank conflicts, at `HEARTH_STATS` record number `n`: only the cycles of an implementation
show them (R79; free value, log entry 8). -/
opaque conflictStall : Nat → Nat

/-- Which of a partition's collective temper engines takes run number `n` (R108, R184; free value, log entry 99). -/
opaque collEngine : Nat → Nat

/-- HBM on-die corrections of stack `k` that its base die reads in second number `n` (R304; free value, log entry 8). -/
opaque onDie : Nat → Nat → Nat

/-- Whether the bank of an HBM row still has a spare row at repair number `n` (R315; free value, log entry 8). -/
opaque rowSpare : Nat → Nat → Bool

/-- Reading `n` of the standby oscillator's time (R378; free value, log entry 8). -/
opaque standbyTime : Nat → Nat

/-- The hash of a channel (partition, module, its partition) and a psn that a hall packet carries in its flow label, and the one in its UDP
source port; the hash of slab and segment of an outer segment (R218, R246; free values, log entry 107). -/
opaque labelHash : Nat → Nat → Nat → Nat → Nat
opaque portHash : Nat → Nat → Nat → Nat → Nat
opaque outerHash : Nat → Nat → Nat

/-- The serial number that the fuse map holds, as ASCII bytes of a number (R352; free value, log entry 8). -/
opaque serial : Nat

/-- The first of the 64 MAC addresses of the fuse map (R211; free value, log entry 8). -/
opaque macBase : Nat

/-! ## Root of trust (chapter 13): computations of published standards, and layouts, that the manual names and does not give (free values,
log entry 49) -/

/-- ML-DSA-65 verification for a purpose (1 "DX40-FW", 2 "DX40-MF", 3 "DX40-DBG", 4 "DX40-LC") under the key whose digest is held, 0 standing for
the vendor's in the fuses: digest, message, signature (R289). -/
opaque verify : Nat → Nat → List Byte → List Byte → Bool

/-- ML-DSA-65 verification under a public key presented: key, message, signature (R285). -/
opaque verifyKey : List Byte → List Byte → List Byte → Bool

/-- The unique device secret that the fuses hold, 256 bits (R289). -/
opaque uds : Nat

/-- ML-DSA-65: the public key of a seed, 1,952 bytes as a number, and signature number `n` of a message under a seed's key, 3,309 bytes as a
number (R285, R292). -/
opaque dsaPublic : List Byte → Nat
opaque signature : List Byte → Nat → List Byte → Nat

/-- ML-KEM-1024: the encapsulation key of a seed, the ciphertext and secret for a key and randomness, the secret of a seed and ciphertext (R285,
R293). -/
opaque kemPublic : Nat → Nat
opaque kemEncap : Nat → Nat → Nat × Nat
opaque kemDecap : Nat → Nat → Nat

/-- Install fields of fresh key material, by draw (R285). -/
opaque wrapFields : Nat → Nat

/-- Digest of a measurement index: the ROM's, the fuse map's, and those of the images that the model has at reset (R291). -/
opaque digest : Nat → Nat

/-- Certificates of slot 0: the vendor CA's, the DeviceID's under it, and that of an Alias key with its measurements (R292, R293). -/
opaque vendorCert : List Byte
opaque deviceCert : List Byte
opaque aliasCert : Nat → List Byte → List Byte

/-- Application key of a session, from its secret and draw; opening and sealing of its messages, by key (and message number) (R293). -/
opaque sessionKey : Nat → Nat → Nat
opaque secOpen : Nat → List Byte → Option (List Byte)
opaque secSeal : Nat → Nat → List Byte → List Byte

/-- Does FINISH prove a session's key? -/
opaque finishOk : Nat → List Byte → Bool

/-- Fields of an SPDM response that the manual does not fix, by response code (R293). -/
opaque spdmField : Nat → Nat

/-- Class, version and SVN that an image's header gives, the SHAKE256-256 digest of the public key that it presents, and whether its length agrees
with the bytes there are (R289, R290, R296). -/
opaque imageFields : List Byte → Nat × Nat × Nat
opaque imageKey : List Byte → Nat
opaque imageForm : List Byte → Bool

/-- Digests that the fuse bank holds: of the vendor firmware key, of the vendor debug key, and of the vendor certificate authority, under which
`deviceCert` stands (R289). -/
opaque vfkDigest : Nat
opaque vdkDigest : Nat
opaque caDigest : Nat

/-- Did instructions that nothing ordered overlap in their writes, in a step in which some were outstanding together (R37, R70, R95, R147)? No
unit is told to look for it (log entry 122). -/
opaque unordered : Nat → Bool

/-- Global address of the state of a shard that a layout moves here (R205): no manifest names it (log entry 29). -/
opaque moveSource : Nat → Nat

/-- Bits [47:6] of the I3C provisional ID (R358). -/
opaque i3cBase : Nat

/-- Where a member that owns no slab finds its coordinator's round words: their local address, or none where its island takes part in no exchange
(log entry 132). -/
opaque roundWords : Nat → Option Nat

/-- Sideband data that the manual does not give: by message and record (R352). -/
opaque sideData : Nat → Nat → Nat

end Sys2Proof.Config
end

