-- ==== Sys2Proof/Machine/State.lean ====
section
/-! DEFINITION. The state of the module as plain data, and the state after reset. Each field's comment gives its width, the
rules that name it and its reset value; "model" marks a field of the model's own bookkeeping (NOTES.md, Assumptions).
Descriptors that the manual lays out bit by bit are held as the number their little-endian bytes spell. -/

namespace Sys2Proof.Machine

/-- Unit states (Table 01-3). -/
inductive UnitSt where
  | absent | reset | ready | active | draining | recovering | offline | limited
  deriving DecidableEq, Repr

/-- Power states (Table 16-8). -/
inductive PState where
  | p0 | p1 | p2 | p3 | p4
  deriving DecidableEq, Repr

/-- Lifecycle states (Table 13-3). -/
inductive Life where
  | blank | provisioned | operational | returned | retired
  deriving DecidableEq, Repr

/-- Latched or latest cause of a power-fail (R366). -/
inductive PfCause where
  | input | breaker | regulator | thermal
  deriving DecidableEq, Repr

/-- Persistent stores (Table 16-5, in its order). -/
inductive Store where
  | faultHistory | counters | lifecycle | repairLog | wear
  deriving DecidableEq, Repr

/-- One fault record (`FAULT_REC`, Table 14-6). -/
structure FaultRec where
  seq : Nat := 0
  time : Nat := 0
  step : Nat := 0
  round : Nat := 0
  unit : Nat := 0
  module : Nat := 0
  resClass : Nat := 0
  resIndex : Nat := 0
  code : Nat := 0
  sev : Nat := 1
  part : Nat := 0
  nest : Nat := 0
  overflow : Bool := false
  preempt : Bool := false
  layer : Nat := 0
  hist : Bool := false
  addr : Nat := 0
  detail : Nat := 0
  deriving DecidableEq, Repr

/-- A telemetry record formed and not yet written (Table 15-10). -/
structure TRec where
  type : Nat
  unit : Nat
  part : Nat
  module : Nat
  time : Nat
  len : Nat
  data : Nat
  deriving DecidableEq, Repr

/-- A packet for a port: a hall packet with its destination's locator, an outer segment with its destination's IPv6 address, or a packet of the
host path (R215). -/
inductive Pkt where
  | hall (dst : Nat) (pkt : HtPkt)
  | outer (dst : Nat) (seg : OuterSeg)
  | hostWrite (qp rkey va : Nat) (data : List Byte) (tag : Option Nat)
  | hostReadData (qp : Nat) (data : List Byte)
  | nak (qp : Nat) (remoteAccess : Bool)
  | cmReply (qp : Nat) (accepted : Bool)
  | cnp (qp : Nat)
  deriving DecidableEq, Repr

/-- Fields of the outer headers beside the addresses: IPv6 hop limit and flow label, UDP ports; none where no rule states one (R218, R246). -/
structure Heads where
  hop : Option Nat := none
  label : Option Nat := none
  srcPort : Option Nat := none
  dstPort : Option Nat := none
  deriving DecidableEq, Repr

/-- A packet on its way out of a port: its class (0 transport control, 1 hall data, 2 outer rounds, 3 host path), the partition that sends it,
its sub-interface, its bytes of line time, its headers (R215, R26). -/
structure Egr where
  cls : Nat
  part : Option Nat
  sub : Nat
  bytes : Nat
  heads : Heads
  frame : Pkt
  deriving DecidableEq, Repr

/-- Where and how a packet leaves: port, sub-interface, DSCP, ECN (2: ECT(0)) and headers (R215). -/
structure Wire where
  port : Nat
  sub : Nat
  dscp : Nat
  ecn : Nat
  heads : Heads
  deriving DecidableEq, Repr

/-- What leaves the module on its ports and pins (R1): the observable output, oldest first. -/
inductive Out where
  | frame (w : Wire) (x : Pkt)
  | loopback (pkt : HtPkt)              -- to a partition of this module, over the bellows
  | sideband (cc : Nat) (data : List Byte)
  | spdm (via : Via) (data : List Byte)
  | platformEvent (sensor value : Nat)
  | inBandInterrupt
  | neighborAdvert (port sub addr : Nat)
  | jtag (register : Nat)
  | i3cId (provisional : Nat)
  deriving DecidableEq, Repr

/-- Counts kept of things dropped or refused (R190, R204, R211, R216, R219, R247, R333, R344, R345). -/
inductive Ctr where
  | spaceWrite | apertureWrite | pauseFrame | badTag | invalidRequest
  | check (n : Nat) | collBad | staleEpoch | aheadEpoch | lateFlag | lateDropped | staleNotice
  | unsolicited | inP3 | fallback | outerCheck (n : Nat) | outerExpired | telemLost | heartbeatState
  | borrowWait
  deriving DecidableEq, Repr

/-- One billet: 1,024 FP32 words and the fields of `BILLET_HDR` (Table 03-8), with the source and issue number of its pass (R107). -/
structure Billet where
  data : List W32 := []
  slag : Bool := false
  last : Bool := false
  rows : Nat := 32
  cols : Nat := 32
  index : Nat := 0
  split : Nat := 0
  problem : Nat := 0
  tensor : Nat := 0xFFFF
  seq : Nat := 0
  src : Src := .fwd
  insn : Nat := 0
  deriving DecidableEq, Repr

/-- A queued pass (R62): its `HEARTH_PASS`, tensor, layer and issue number. -/
structure PassEnt where
  desc : Nat
  tensor : Nat
  layer : Nat
  insn : Nat
  deriving DecidableEq, Repr

/-- One hearth (R60-R79). -/
structure Hearth where
  st : UnitSt := .reset             -- 8; R13,R15; reset RESET (READY after R77)
  queues : List (List PassEnt) := [[], [], []] -- 3 x 4 entries, coll/bwd/fwd; R62; reset empty
  chain : Option (Nat × PassEnt) := none -- open chain: source and first pass; R67; reset none
  accum : List (List W32) := []     -- 16 x 1024 x 32, accumulator set in use; R61; reset zero
  accSlag : List Bool := []         -- 16; R74; reset 0
  outSets : List (List Billet) := [] -- accumulator sets being transferred, oldest first; R61; reset none
  bq : List Billet := []            -- 16 slots, the full ones; R72; reset empty
  free : Nat := 16                  -- 5; R72; reset 16
  xin : Nat := 0                    -- 5; R72; reset 0
  xout : Nat := 0                   -- 5; R72; reset 0
  seq : Nat := 0                    -- 8; R71; reset 0
  pages : List Nat := []            -- 1024 page-valid bits (the set ones); R45; reset none
  passes : Nat := 0                 -- 32; R79; reset 0
  macValid : Nat := 0               -- useful MAC slots of the step; R79; reset 0
  macAll : Nat := 0                 -- all MAC slots of the step; R79; reset 0
  stallFrom : Option Nat := none    -- tick since which the queue has been stuck; R73; reset none
  active : Nat := 0                 -- array cycles with an anvil active in the step; R79; reset 0
  throttle : Nat := 0               -- array cycles inserted in the step by the duty; R78; reset 0
  accStall : Nat := 0               -- ticks of the step that passes waited for a set held by a full queue; R79; reset 0
  accFrom : Option Nat := none      -- tick since which a pass so waits; R79; reset none
  ctlFaults : Nat := 0              -- control-state faults in the step; R75; reset 0
  testing : Bool := false           -- self-test running; R75; reset 0
  testDue : Bool := false           -- self-test after a control-state fault is due; R75; reset 0
  deriving DecidableEq, Repr

/-- A queued temper launch (R105): its `TEMPER_LAUNCH`, tensor, layer, issue number and launch scale (Table 05-3 note b). -/
structure LaunchEnt where
  desc : Nat
  tensor : Nat
  layer : Nat
  insn : Nat
  scale : Int
  deriving DecidableEq, Repr

/-- A launch in progress (R105, R106). -/
structure Launch where
  ent : LaunchEnt
  prog : List Nat                   -- program buffer, 64 x 8 B (R109)
  run : Nat                         -- next run
  input : Option (List Elem)        -- input loaded for the next run (R106)
  waitFrom : Nat                    -- tick since which it waits for its billet (R107)
  deriving DecidableEq, Repr

/-- One temper engine (Table 05-1). -/
structure Temper where
  queues : List (List LaunchEnt) := [[], [], [], []] -- 4 x 4 entries, fwd/bwd/upd/coll; R105; reset empty
  cur : List (Option Launch) := [none, none, none, none] -- launches in progress; R105; reset none
  tregs : List (Nat × List Elem) := [] -- T0-T31, 1024 x 33; R99; reset +0.0 (unlisted)
  temps : List (List Elem) := []    -- t0-t15 of the last run, 1024 x 33; R99; reset +0.0
  flags : List Nat := [0, 0, 0, 0]  -- 4 x 8 sticky flags; R116; reset 0
  source : Nat := 0                 -- 2; R118; reset 0
  pc : Nat := 0                     -- 6; R118; reset 0
  run : Nat := 0                    -- 16; R118; reset 0
  failed : List Nat := []           -- issue numbers of launches dropped at their image or abandoned by a trap; R105,R109,R116; reset none
  deriving DecidableEq, Repr

/-- An instruction issued and not complete (R32). -/
structure OutInsn where
  id : Nat
  cls : Nat
  op : Nat
  sig : Option Nat
  layer : Nat
  tensor : Nat
  operand : Nat
  desc : Nat
  word : Nat := 0                   -- the word's upper half, as an R31 record names it
  at_ : Nat := 0                    -- the word's address
  deriving DecidableEq, Repr

/-- An open ready-first group (R36). -/
structure Group where
  heads : List Nat                  -- program index of each block's head
  ran : List Nat                    -- blocks that have run
  cur : Option Nat                  -- block running
  next : Nat                        -- program index after the group
  deriving DecidableEq, Repr

/-- Conditions under which a stream is blocked with a wait limit (R35). -/
inductive Block where
  | token | credit | slot | full | stat
  deriving DecidableEq, Repr

/-- One pass sequencer (R29-R36). -/
structure Seq where
  pc : Nat := 0                     -- program index; R29; reset 0
  loops : List (Nat × Nat) := []    -- open loops (start, iterations left); R31; reset none
  group : Option Group := none      -- open group; R36; reset none
  out : List OutInsn := []          -- outstanding, at most 32; R32; reset none
  passEnded : Bool := false         -- PASS_END retired; R39; reset 0
  ended : Bool := false             -- STEP_END retired; R42; reset 0
  stopped : Bool := false           -- stopped on malformed input; R31; reset 0
  blocked : Option (Block × Nat) := none -- condition and the tick since which it holds; R35; reset none
  deriving DecidableEq, Repr

/-- A pending input post (R340). -/
structure Post where
  token : Nat
  count : Nat
  step : Nat
  deriving DecidableEq, Repr

/-- The island's decision for a step (R201). -/
structure Decision where
  word : Nat
  reason : Nat
  received : Nat
  accNext : Nat
  newEpoch : Nat
  deriving DecidableEq, Repr

/-- Reasons for which a partition stays at action 8 (Table 02-5). -/
inductive Hold where
  | halt        -- HALT_N asserted (R49)
  | p2          -- power state P2 wanted (R371)
  | refresh     -- image refresh or anchor reduction outstanding (R173)
  | outerWork   -- boundary work outstanding (R243)
  | roundWord   -- waiting for the round word (R261)
  | sealAck     -- waiting for a replica's acknowledgement of a seal (R258)
  | reshard     -- re-shard barrier outstanding (R206)
  | confirm     -- group confirmations of the first step outstanding (R185)
  | pairing     -- lend or mirror confirmations outstanding (R152, R171)
  | limit       -- the step or round number is at its limit (Table 00-3)
  | rollback    -- held at the round start by a rollback (R233)
  | rejoin      -- waiting for the rejoin announcement (R203)
  | gather      -- all-gather of the working copies after a restore outstanding (R174)
  deriving DecidableEq, Repr

/-- Step state of a partition (chapter 02). -/
structure Run where
  step : Nat := 0                   -- 48; R7,R44; reset 0
  round : Nat := 0                  -- 32; R7,R48; reset 0
  epoch : Nat := 0                  -- 16; R7,R205; reset 0
  acc : Nat := 1                    -- 16 accumulation count; R47; reset DESIGN CHOICE 1
  accStep : Nat := 1                -- 16 count read at step start; R47; reset DESIGN CHOICE 1
  startTick : Nat := 0              -- 64; R348; reset 0
  endTick : Option Nat := none      -- 64 tick of the last STEP_END; R43; reset none
  seqs : List Seq := [{}, {}, {}]   -- the three sequencers; R29; reset idle
  tokens : List Nat := List.replicate 128 0 -- 128 x 16; R33; reset 0
  nextInsn : Nat := 0               -- issue counter; model; reset DESIGN CHOICE 0
  posts : List Post := []           -- 16 pending posts; R340; reset none
  stopArmed : Bool := false         -- job stop pending; R49; reset 0
  accArmed : Option Nat := none     -- accumulation-count change pending; R47; reset none
  layoutArmed : Option (List (Nat × List Nat) × Bool) := none -- LAYOUT.SET pending: the manifest read, forced; R205,R206; reset none
  newEpoch : Option Nat := none     -- epoch of a forced re-shard; R206; reset none
  rbw : Nat := 0                    -- 32 read-before-write count of the step; R45; reset 0
  arenaMoves : Nat := 0             -- 32; Table 15-12; R153; reset 0
  fallback : Nat := 0               -- 32; R224; reset 0
  repro : Bool := false             -- step counted under R96; R96; reset 0
  reproRound : Bool := false        -- every step of the round counts under R96; R175,R265; reset 0
  reproNext : Bool := false         -- the next step counts under R96; R206; reset 0
  accHeard : Option Nat := none     -- 16 acc_next of the latest DECIDE of the round; R208; reset none
  reproCount : Nat := 0             -- 32; R96; reset 0
  skipCount : Nat := 0              -- 32; R41; reset 0
  ingotSkips : Nat := 0             -- 16; R178; reset 0
  flagWord : Nat := 0               -- 16 STEP_FLAG being formed; R135; reset 0
  passAt : Nat := 0                 -- issue number at PASS_END; R136; reset DESIGN CHOICE 0
  lastSkip : Bool := false          -- the step before was skipped; R195; reset 0
  mbFwd : Nat := 0                  -- micro-batches of the step begun by the forward stream; Table 02-7; reset 0
  mbBwd : Nat := 0                  -- micro-batches of the step ended by the backward stream; Table 02-7; reset 0
  mbHwm : Nat := 0                  -- most begun and not ended; Table 02-7; reset 0
  mixed : Bool := false             -- asynchronous instructions of the step were outstanding together, or ran in a group; R95,R96; reset 0
  actHwm : Nat := 0                 -- 48 most bytes held at once in arena frames and filled activation slots; Table 02-7; reset 0
  recDue : Option (Nat × Nat) := none -- 512 STEP_REC of the boundary under way, its boundary field zero, and 64 tick of its last STEP_END; R44; reset none
  stalls : List Nat := [0, 0, 0]    -- 3 x 32 ticks blocked: PUSH forward, PUSH backward, POP; R55; reset 0
  flagTaken : Option Nat := none    -- 16 STEP_FLAG word taken; R136; reset none
  roundStep : Nat := 0              -- 48 first step of the current round; R4,R174; reset 0
  roundOpen : Bool := false         -- the current round's first step has started; R173; reset 0
  redo : Bool := false              -- discarded after an apply decision with every gradient complete; R169; reset 0
  driftNext : Bool := false         -- drift deferred to the next word; R139; reset 0
  driftDue : Bool := false          -- a discarded step had sent its word with drift; R139; reset 0
  decision : Option Decision := none -- decision of the step; R201; reset none
  holds : List Hold := []           -- holds at action 8; R49; reset none
  atAction8 : Bool := false         -- drained at action 8; R49; reset 0
  haltTick : Nat := 0               -- tick of the last HALT notice; R49; reset 0
  holdTick : Nat := 0               -- tick of the last ROUND_HOLD notice; R262; reset 0
  holdFrom : Nat := 0               -- tick at which the present hold began; R269; reset 0
  stranded : Bool := false          -- a discard left declared state that only a rollback mends; R169; reset 0
  passed : Option Nat := none       -- 48 first step whose boundary the island passed while the partition was to rejoin; R177,R203; reset none
  firstStep : Bool := true          -- the job's first step has not started; R51; reset 1
  deriving DecidableEq, Repr

/-- A loaded job: what the manifest supplied (R341, Tables 15-6, 15-7). -/
structure Job where
  streams : List (Nat × Nat) := []  -- entry address and words of the three programs (R29)
  params : Nat := 0                 -- JOB_PARAMS (Table 15-7)
  own : Nat := 0xF000000_0FFF000_0000FFF -- TEMPER_OWN (Table 05-2)
  arena : Option Nat := none        -- SPILL_ARENA (Table 07-5)
  lends : List Nat := []            -- SPILL_LEND (Table 07-6)
  shards : List Nat := []           -- UPDATE_DESC list (Table 08-2)
  opts : List Nat := []             -- OPT_PARAMS (Table 08-3)
  mirrors : List Nat := []          -- MIRROR_DESC (Table 08-7)
  groups : List Nat := []           -- COLL_GROUP (Table 09-1)
  staging : Nat × Nat := (0, 0)     -- collective staging (R210)
  noise : Option Nat := none        -- NOISE_CFG (Table 09-11)
  layers : Nat := 0                 -- layers that the three programs name: layer_count (R55, R56)
  deriving DecidableEq, Repr

/-- One end of an activation queue (R52-R54). -/
structure ActQ where
  desc : Nat                        -- ACTQ_DESC (Table 02-6)
  credits : Nat                     -- credits at the producer
  writing : Nat := 0                -- slots being written
  full : Nat := 0                   -- slots full and not popped
  popped : Nat := 0                 -- slots popped and not released
  returning : Nat := 0              -- credits returning
  pushes : Nat := 0                 -- PUSHes of the step
  pops : Nat := 0                   -- POPs of the step
  releases : Nat := 0               -- RELEASEs of the step
  hwm : Nat := 0                    -- most full slots seen
  stale : Nat := 0                  -- notices dropped for a stale epoch
  deriving DecidableEq, Repr

/-- State of a pool frame holding a home frame (R153); a frame not listed is free. -/
inductive FrameSt where
  | clean | dirty | filling | writeback
  deriving DecidableEq, Repr

/-- A pool frame in use (R153). -/
structure Frame where
  pool : Nat
  home : Nat                        -- arena frame: home global address divided by 2 MiB
  st : FrameSt
  used : Nat                        -- least-recently-used order
  next : Nat := 0                   -- pages asked for or sent in the move in progress
  wait : Option Nat := none         -- tick since which its write-back waits for a key (R156)
  deriving DecidableEq, Repr

/-- The spill arena at run time (R151-R156). -/
structure Arena where
  frames : List Frame := []         -- pool frames not free; R153; reset none
  free : Nat := 0                   -- free pool frames; R154; reset 0
  written : List Nat := []          -- home frames written in this step; R153; reset none
  clock : Nat := 0                  -- use order; model; reset DESIGN CHOICE 0
  altKey : Bool := false            -- the alternate key slot is active; R156; reset 0
  otherKey : List Nat := []         -- homes whose pages went out in this step under the key slot that is not active; R156; reset none
  confirmed : List Nat := []        -- pairings confirmed, by base address; R152,R171; reset none
  peerTraffic : Nat := 0            -- cipher units of peer pages in the step; R156; reset 0
  deriving DecidableEq, Repr

/-- Kinds of background job (R150). -/
inductive BgKind where
  | memSend | ingotCapture | ingotSend
  deriving DecidableEq, Repr

/-- A background job held by the smith (R150). -/
structure Bg where
  kind : BgKind
  id : Nat                          -- issue number: model
  src : Nat                         -- global address
  dst : Nat                         -- global address or host handle
  len : Nat
  fed : Nat := 0                    -- bytes fed; of a capture, shards captured
  part : Nat := 0                   -- bytes of the present shard captured (R150, R178)
  engine : Option Nat := none       -- tongs engine of the last piece (R144)
  head : Nat × Nat × Nat := (0, 0, 0) -- step, round and layout epoch captured (R179)
  hist : List Nat := []             -- SCALE_HIST entries captured (R179)
  renew : Bool := false             -- a capture that starts again names the state it then finds (R179, R183)
  cookie : Nat := 0
  tag : Nat := 0                    -- transfer tag of R350
  slag : Nat := 0                   -- marked lines met
  first : Option Nat := none        -- first marked address
  sent : Bool := false              -- last byte sent, acknowledgement awaited
  retryStep : Option Nat := none    -- waits for this step before retrying (R182)
  deriving DecidableEq, Repr

/-- One tracking entry of the pyrometer (R122-R140). -/
structure Track where
  cfg : Nat                         -- SCALE_TRACK (Table 06-1)
  next : Option Nat := none         -- configuration from the next controller pass (R137)
  e : Int := 0                      -- installed exponent (R128)
  eNext : Int := 0                  -- next copy (R128)
  est : W32 := 0#32                 -- running estimate (R129)
  hold : Nat := 0
  quenches : Nat := 0
  clamps : Nat := 0
  elements : Nat := 0               -- counters of the step (R125)
  zeros : Nat := 0
  sat : Nat := 0
  nonfinite : Nat := 0
  underflow : Nat := 0
  slag : Nat := 0
  amax : W32 := 0#32
  amaxFinal : W32 := 0#32
  escapes : Nat := 0
  quench : Bool := false            -- quench flag delivered (R131)
  used : Bool := false              -- a REDUCE of this step named it (R132)
  last : Nat := 0                   -- latest PYRO_REC (R127)
  lost : Bool := false              -- re-seeded in this step after an uncorrectable error (R141)
  deriving DecidableEq, Repr

/-- A SAMPLE check in progress (R138): its `SCALE_SAMPLE` and the next sample. -/
structure SampleJob where
  desc : Nat
  next : Nat
  insn : Nat                        -- issue number: model
  deriving DecidableEq, Repr

/-- The partition's pyrometer and controller (chapter 06). -/
structure Pyro where
  tracks : List Track := []         -- up to 4096 entries; R122; reset empty
  partials : List (Nat × Track) := [] -- samplers' partial counters, up to 8 tensors each, oldest first: sampler, counters of an entry; R126; reset none
  samples : List SampleJob := []    -- checks in progress; R138; reset none
  repairs : List Nat := []          -- slabs awaiting local repair; R139; reset none
  repairsNext : List Nat := []      -- slabs whose drift goes into the next step's word; R139; reset none
  repaired : List Nat := []         -- shards repaired in this round; R139; reset none
  snapshot : List Nat := []         -- round-start SCALE_HIST entries; R140; reset none
  reseed : List Nat := []           -- groups whose digest differed in the step; R132; reset none
  deriving DecidableEq, Repr

/-- One stage of a collective operation (R188). -/
structure Stage where
  axis : Nat
  result : Bool
  deriving DecidableEq, Repr

/-- A RING reduce stage whose own part is final at this member, while other members' parts still pass through it (R188). -/
structure Passing where
  axis : Nat
  cur : List Elem                   -- local values of the stage
  base : Nat
  flagged : Bool
  inQuench : Bool
  inNorm : W32 × W32
  got : List (Nat × Nat)            -- blocks that have come, by part
  deriving DecidableEq, Repr

/-- A COLL instruction in the collective engine (R184-R199). -/
structure CollOp where
  insn : Nat
  kind : Nat                        -- Table 09-2 op
  desc : Nat                        -- COLL_DESC (Table 09-3)
  group : Nat                       -- COLL_GROUP (Table 09-1)
  occ : Nat                         -- occurrence (R387)
  released : Bool := false          -- R39
  releaseTick : Nat := 0
  reserved : Nat := 0               -- staging bytes reserved (R210)
  exp : Int := 0                    -- installed exponent (R128)
  flagged : Bool := false           -- own STEP_FLAG word nonzero (R189)
  stages : List Stage := []         -- stages not yet ended
  base : Nat := 0                   -- first element of the current range
  len : Nat := 0                    -- elements of the current range
  cur : List Elem := []             -- values held over the current range
  accum : List (W32 × W32 × Nat) := [] -- FP32 pairs of the owned part, with bit 0 a slag mark and bit 1 out of range (R193)
  got : List (Nat × Nat) := []      -- blocks received of the owned part, by sender coordinate
  heard : List (Nat × Nat × W32 × W32) := [] -- contributions ended: coordinate, 0 payload or 1 empty, norm pair
  stageTick : Option Nat := none    -- tick at which the stage's first input became final (R194)
  quench : Bool := false
  normS : W32 := 0#32
  normC : W32 := 0#32
  inQuench : Bool := false          -- quench and norm pair that the present stage began with (R190, R191, R199)
  inNorm : W32 × W32 := (0#32, 0#32)
  emptyIn : Bool := false           -- the RING part arrived empty (R189)
  flagCount : Nat := 0
  expected : Nat := 0               -- books of the owned parts (R196)
  received : Nat := 0
  late : Nat := 0
  dropped : Nat := 0
  lastBooks : Nat × Nat × Nat := (0, 0, 0) -- received, late, dropped of the last reduce stage
  carried : Nat := 0
  staleN : Nat := 0
  escapes : Nat := 0
  close : Nat := 0
  rangeErr : Nat := 0
  stats : List (Nat × Nat) := []    -- COLL_STAT records by rank (R199)
  pieces : List (Nat × Nat) := []   -- GATHER pieces written: part rank, piece
  passing : List Passing := []      -- RING stages that parts of other members still pass (R188)
  sentTo : List Nat := []           -- parts of the next reduce stage that went out while the present RING stage ran (R188)
  ahead : List (Nat × Nat) := []    -- blocks of the next RING stage that passed meanwhile: part, block (R188)
  nextTick : Option Nat := none     -- tick at which the next stage's first input became final here (R188, R194)
  final : Bool := false             -- COLL_REC written
  done : Bool := false
  abandoned : Bool := false
  sent : Bool := false              -- FLAG: word sent; REDUCE: COLL_STAT sent
  buf : List (Nat × List Byte) := [] -- segments of contributions not yet whole: coordinate, bytes
  deriving DecidableEq, Repr

/-- Late contributions carried into the next step (R195). -/
structure Carry where
  group : Nat
  tensor : Nat
  axis : Nat
  part : Nat
  exp : Int
  step : Nat
  occ : Nat
  pairs : List (W32 × W32 × Nat)
  count : Nat                       -- whole contributions in the pairs
  buf : List (Nat × List Byte) := [] -- segments of contributions not yet whole: coordinate, bytes
  deriving DecidableEq, Repr

/-- One member's flag word as its root holds it (R199, R200): rank, word, class, digest, and its pairs. -/
structure FlagWord where
  rank : Nat
  word : Nat
  cls : Nat
  digest : Nat
  pairs : List (W32 × W32)
  slag : Bool := false              -- its pairs carry a mark (R308)
  deriving DecidableEq, Repr

/-- A flag reduction at its root (R200). -/
structure RootFlag where
  group : Nat
  step : Nat
  occ : Nat
  words : List FlagWord             -- words received
  taken : Option Nat                -- tick at which the root's own word was taken
  closed : Bool
  reason : Nat := 0                 -- reason and new epoch of the DECIDE last sent (R201, R206)
  newEpoch : Nat := 0
  deriving DecidableEq, Repr

/-- A barrier at its root (R203). -/
structure Barrier where
  group : Nat
  sub : Nat
  epoch : Nat                       -- epoch of its segments (R206)
  heard : List Nat
  deriving DecidableEq, Repr

/-- The collective engine of a partition (chapter 09). -/
structure Coll where
  ops : List CollOp := []           -- at most 16; R184; reset none
  early : List (Nat × List Byte) := [] -- segments waiting for their operation or stage: sender code (`senderOf`), bytes; R188; reset none
  carries : List Carry := []        -- R195; reset none
  roots : List RootFlag := []       -- R200; reset none
  barriers : List Barrier := []     -- R203; reset none
  confirmed : List Nat := []        -- groups confirmed; R185; reset none
  confirmFrom : Nat := 0            -- tick at which confirmation began; R185; reset 0
  counts : List (Nat × Nat) := []   -- occurrences issued; R387; reset none
  recs : List (Nat × Nat) := []     -- COLL_REC of the step by instruction, for R207; reset none
  anchorFrom : Option Nat := none   -- tick at which the anchor reduction began; R173; reset none
  aborts : List (Nat × Nat × Option Nat) := [] -- steps that a member, or the root itself, gave up before their decision: group, step, sender; R202; reset none
  rejoins : List (Nat × Nat) := []  -- rejoin requests to answer at the next step; R203; reset none
  num : W32 := 0#32                 -- 32 noise numerator; R207; reset 0
  den : W32 := 0#32                 -- 32 noise denominator; R207; reset 0
  bnoise : W32 := 0#32              -- 32 noise estimate; R207; reset 0
  accNext : Nat := 1                -- 16 acc_next of this round; R208; reset DESIGN CHOICE 1
  deciding : Option (Nat × Nat) := none -- group and occurrence of the deciding FLAG; R201; reset none
  deriving DecidableEq, Repr

/-- What waits for a packet's acknowledgement or answer (R147, R153, R173, R255, R258, R261; the model's own tag). -/
inductive Owner where
  | none
  | tongs (e : Nat) (src : Option Sid) (insn : Nat)          -- a remote write of a tongs descriptor
  | tongsRead (e : Nat) (src : Option Sid) (insn row off : Nat) -- a remote read of one piece
  | push (queue insn : Nat)                                  -- one page of a PUSH
  | arenaOut (home : Nat)                                    -- one page of a write-back to a lender
  | arenaIn (home page : Nat)                                -- one page of a fill from a lender
  | bg (id : Nat)                                            -- a piece of a background job
  | image                                                    -- a page of a buddy image
  | restore (page : Nat)                                     -- a page of an image read back
  | seal (slab : Nat)                                        -- a SEAL_REC at a replica
  | fwd (isl mod slab round : Nat)                           -- a forwarded outer segment
  | roundAdd (round : Nat)                                   -- FETCH_ADD of a round word
  | roundRead                                                -- read of a round word
  | loss (ids : List Nat)                                    -- a LOSS to the coordinator
  | rollback                                                 -- a ROLLBACK to a member or a spare
  | credit (queue : Nat)                                     -- a credit on its way back
  deriving DecidableEq, Repr

/-- A reliable packet sent and not yet covered (R222, R223). -/
structure TxPkt where
  pkt : HtPkt
  attempts : Nat
  plane : Nat
  sub : Nat := 0                    -- sub-interface of the port that it was last sent on (R223)
  deadline : Nat                    -- tick of its timeout
  owner : Owner                     -- what completes on it: model
  unsol : Bool := false             -- sent without a grant (R227)
  deriving DecidableEq, Repr

/-- Result of an executed atomic (R221). -/
structure Atomic where
  psn : Nat
  old : Nat
  slag : Bool
  deriving DecidableEq, Repr

/-- One channel pair to another partition (R222, R226, R227). -/
structure Chan where
  mod : Nat
  part : Nat
  connGen : Nat := 0                -- 8 incarnation
  psn : Nat := 0                    -- 32 next psn
  win : Nat := 64                   -- current window; W - win or more tokens are withheld (R226, R228)
  out : List TxPkt := []            -- outstanding
  waiting : List (HtPkt × Owner) := [] -- packets not sent yet, with their owner
  halved : Nat := 0                 -- tick of the last halving
  clean : Nat := 0                  -- acknowledgements without CE since the last rise
  cum : Nat := 0                    -- receive: every lower psn has arrived
  got : List Nat := []              -- receive: psn at or above cum that have arrived
  unacked : Nat := 0                -- receive: packets not yet acknowledged
  oldest : Option Nat := none       -- receive: tick of the oldest unacknowledged arrival
  ceCount : Nat := 0                -- receive: CE marks since the last ACK
  atomics : List Atomic := []       -- receive: replay entries, at most 256
  grant : Nat := 0                  -- bytes of grant held as sender
  grantTick : Nat := 0              -- tick of its last use
  asked : Nat := 0                  -- bytes asked for by REQUEST
  issued : Nat := 0                 -- bytes granted to that sender as receiver
  want : Nat := 0                   -- bytes that sender has asked for
  closing : Bool := false           -- a ROLLBACK stands unacknowledged, whose ACK the renewal of R233 awaits
  deriving DecidableEq, Repr

/-- Hall transport and routing of a partition (chapter 10). -/
structure Fabric where
  idBase : Nat := 0                 -- 20; R229; reset 0
  count : Nat := 0                  -- 18 entries of the table, 0 none loaded; R229; reset 0
  banks : List (List (Nat × Nat)) := [[], []] -- 2 banks of ROUTE_ENT by index (unlisted 0); R229; reset empty
  maps : List (List Nat) := [[], []] -- 2 x 16 ROUTE_MAP; R229; reset empty
  root : List Nat := [0, 0, 0]      -- 3 copies of the root pointer; R229,R317; reset DESIGN CHOICE 0
  window : Nat := 64                -- W; Table 10-8; R222; reset 64
  rto0 : Nat := 16                  -- us; Table 10-8; R223; reset 16
  retryMax : Nat := 8               -- Table 10-8; R223; reset 8
  hb : Nat := 10                    -- heartbeat interval in 100 us; Table 10-8; R231; reset 10
  dead : List (Nat × Nat) := []     -- live bits cleared: index, plane; R229; reset none
  planeTo : List (Nat × Nat) := []  -- consecutive timeouts, by 8 x destination module + plane; R223; reset none
  held : List HtPkt := []           -- acknowledgements and answers waiting for a usable plane; R224; reset none
  chans : List Chan := []           -- R222; reset none
  poolIssued : Nat := 0             -- receive pool issued bytes; R228; reset 0
  rr : Nat := 0                     -- round-robin pointer of the grant server; R227; reset DESIGN CHOICE 0
  heardAt : List (Nat × Nat × Nat) := [] -- last heartbeat: id, plane, tick; R231; reset none
  hbTick : Nat := 0                 -- tick of the last heartbeat sent; R231; reset 0
  peers : List (Nat × Nat × Nat × Nat) := [] -- heartbeat contents heard: id, step, round, state; R231; reset none
  lostList : List Nat := []         -- IDs that were ACTIVE and have been lost since the last resumption; R233; reset none
  spareHeld : Bool := false         -- without a job: a rollback heard, its channels reset; R222; reset 0
  rolling : Bool := false           -- as coordinator: a rollback is in progress; R233; reset 0
  rollRound : Nat := 0              -- its round; R233; reset 0
  lossTick : Nat := 0               -- tick of the last LOSS_HOLD notice; R233; reset 0
  assumed : List (Nat × Nat × Nat) := [] -- announced spares: lost ID, locator, spare index; R234; reset none
  acksDue : List Nat := []          -- IDs whose ROUTE_ACK is awaited; R234; reset none
  assuming : Option (Nat × Nat) := none -- as spare: the lost ID and its job manifest; R234; reset none
  nodeUp : Bool := true             -- a usable plane is up; R233; reset 1
  noPlane : Option Nat := none      -- tick since which no usable plane is up; R233; reset none
  deriving DecidableEq, Repr

/-- A DATA segment sent and not acknowledged (R250-R252). -/
structure OutSeg where
  isl : Nat
  slab : Nat
  round : Nat
  seg : Nat
  first : Nat                       -- tick first sent
  last : Nat                        -- tick last sent
  timer : Nat                       -- tick of expiry
  rto : Nat                         -- last timer value
  laterAck : Option Nat := none     -- tick of an ACK covering a later segment
  plane : Nat := 0
  deriving DecidableEq, Repr

/-- Delivery state toward one destination (R250, R253). -/
structure Dest where
  isl : Nat
  mod : Nat
  part : Nat
  srtt : Nat                        -- ticks
  rttvar : Nat
  far : Nat := 0
  reseeds : Nat := 0
  win : Nat := 64
  grown : Nat := 0
  halved : Nat := 0
  heard : Nat := 0                  -- tick of the last accepted segment
  plane : Nat := 0
  gen : Nat := 0                    -- assume_gen held
  moved : Bool := false             -- gen has risen since the last HELLO accepted (R265)
  loc : Option Nat := none          -- locator learned (R266)
  sends : List (Nat × Nat) := []    -- copies sent: counter, tick (R249)
  probes : List (Nat × Nat × Nat) := [] -- probes sent: slab, counter, tick (R251)
  helloAt : Option Nat := none      -- tick of the last HELLO sent (R247)
  greeted : Bool := false           -- a HELLO of this partition awaits its answer (R247)
  deriving DecidableEq, Repr

/-- Receive state of one source module, slab and round (R249, R255). -/
structure OuterRx where
  isl : Nat
  mod : Nat
  part : Nat
  slab : Nat
  round : Nat
  got : List Nat := []              -- segments placed
  total : Option Nat := none        -- segments of the term, once the last is seen
  unacked : Nat := 0
  oldest : Option Nat := none
  lastCtr : Nat := 0
  lastTick : Nat := 0
  fwdPend : Nat := 0                -- forwarding WRITEs not acknowledged
  rejected : Bool := false          -- term rejected (R257)
  doneAt : Option Nat := none       -- order in which the term became complete
  deriving DecidableEq, Repr

/-- Outer state of one owned slab (R240, R257). -/
structure SlabSt where
  desc : Nat                        -- OUTER_SLAB (Table 11-4)
  hasCorr : Bool := false
  seals : List Nat := []            -- SEAL_REC held
  sealPend : Nat := 0               -- replica acknowledgements of a seal awaited
  noted : Option Nat := none        -- round whose fold has recorded a marked element (R270)
  since : Nat := 0                  -- first round whose own term is sent and whose seal is folded here (R265)
  deriving DecidableEq, Repr

/-- Outer-round engine state of a partition (chapter 11). -/
structure Outer where
  cfg : Option Nat := none          -- ROUND_CFG; R241; reset none
  next : Option Nat := none         -- configuration from the next boundary; R241; reset none
  islands : List Nat := []          -- OUTER_ISLAND entries in force; R241; reset none
  nextIslands : List Nat := []      -- entries from the next boundary; R241; reset none
  since : Nat := 0                  -- first round that cfg and islands govern; R241; reset 0
  prior : Option (Nat × List Nat) := none -- ROUND_CFG and entries that govern earlier rounds; R241; reset none
  slabs : List SlabSt := []         -- R240; reset none
  outs : List OutSeg := []          -- R250; reset none
  acked : List (Nat × Nat × Nat × Nat) := [] -- segments acknowledged: island, slab, round, segment; R251; reset none
  again : List (Nat × Nat × Nat × Nat) := [] -- segments sent before and to be sent again: island, slab, round, segment; R265,R269; reset none
  dests : List Dest := []           -- R250,R253; reset none
  rxs : List OuterRx := []          -- R249; reset none
  grace : List (Nat × Nat × Nat × Nat) := [] -- open grace windows: island, opened tick, accepted, previous slot; R248; reset none
  mute : List Nat := []             -- islands whose HELLO digest differs; R247; reset none
  keyStop : List Nat := []          -- islands whose send key is exhausted; R248; reset none
  added : List Nat := []            -- rounds for which 1 was added; R261; reset none
  word : Option Nat := none         -- last round word read; R261; reset none
  stats : List (Nat × Nat) := []    -- ROUND_REC counts of the round, by field; R269; reset none
  order : Nat := 0                  -- order of term completion; model; reset DESIGN CHOICE 0
  island : Option Nat := none       -- 13 island number of the last ROUND.CONFIG; R17; reset none
  donor : Option Nat := none        -- island of the ingot restarted from; R263; reset none
  deriving DecidableEq, Repr

/-- Power management of a partition (R353, R354). -/
structure Duty where
  avg : Nat := 0                    -- W, 1 ms average; R353; reset 0
  n : Nat := 16                     -- 5 duty n/16; R354; reset 16 (DEDUCED)
  low : Nat := 0                    -- 7; R354; reset 0
  overs : Nat := 0                   -- ticks over budget at n = 1; R354; reset 0
  deriving DecidableEq, Repr

/-- A restore of the round start from a buddy image (R174). -/
structure Restore where
  base : Nat                        -- global address of the image
  header : Nat := 0                 -- its MIRROR_HDR
  total : Nat                       -- pages of the image
  next : Nat := 1                   -- next page to ask for
  landed : Nat := 0                 -- pages landed
  hist : List Nat := []             -- SCALE_HIST entries landed
  bad : List Nat := []              -- shards with a marked page
  own : Bool := true                -- the owner survives (R175)
  peer : Bool := false              -- the working copies come from a peer (R175)
  moved : List Nat := []            -- shards that a layout moves here, instead of an image (R205)
  copies : List (Nat × Nat × Nat) := [] -- outer state to copy after the image: source, destination, bytes (R265)
  deriving DecidableEq, Repr

/-- An UPDATE queued at a unit (R166). -/
structure UEnt where
  part : Nat
  stream : Sid
  insn : Nat
  desc : Nat
  begun : Bool := false             -- its commit was open on a unit that was lost (R166)
  deriving DecidableEq, Repr

/-- One partition (R22). -/
structure Part where
  st : UnitSt := .absent            -- 8; R15,Table 01-3; reset RESET (READY after row 11)
  depth : Nat := 0                  -- 2 nesting depth; R324; reset 0
  fenced : Bool := false            -- fence of a discard; R326; reset 0
  discardFrom : Option Nat := none  -- tick of step 1 of the discard; R326; reset none
  handled : Nat := 0                -- seq of the record that opened the handling; R324; reset 0
  aperture : Option Nat := none     -- 64 aperture base; R345; reset none
  job : Option Job := none          -- R341; reset none
  run : Run := {}
  actqs : List ActQ := []           -- up to 256; R52; reset none
  arena : Arena := {}
  bgs : List Bg := []               -- background jobs; R150; reset none
  ingot : Option Nat := none        -- INGOT_CFG armed; R177; reset none
  ingotNext : Option Nat := none    -- INGOT_CFG replacing it at the next boundary; R177; reset none
  ingotHeld : List (Nat × Nat) := [] -- staging ranges that hold an unsent part: global address, bytes; R178; reset none
  captured : List (Nat × Nat) := [] -- shards that running captures still guard: job, shard; R178; reset none
  imageValid : Bool := false        -- this partition's image copies are valid; R173; reset 0
  imagePend : Nat := 0              -- image writes not acknowledged; R173; reset 0
  imageStage : Nat := 0             -- 2 stage of the image refresh; R173; reset 0
  restore : Option Restore := none  -- restore from an image in progress; R174; reset none
  idle : Bool := false              -- no step was running at the discard; R326; reset 0
  halfFlips : List Nat := []        -- generation words whose flip a unit loss or a discard interrupted; R167,R169; reset none
  redo : List UEnt := []            -- commits of a retired unit that wait for a queue entry; R166; reset none
  pyro : Pyro := {}
  coll : Coll := {}
  fab : Fabric := {}
  outer : Outer := {}
  duty : Duty := {}
  discardFlags : List Nat := [0, 0, 0, 0] -- 4 x 8 sticky flags of each source, ORed over the engines, copied by the last discard; R121; reset 0
  offers : List (Nat × Nat × Nat × Nat) := [] -- open offers: identifier, slot, decapsulation seed, tick; R285; reset none
  deriving DecidableEq, Repr

/-- A tongs descriptor entry (R147). -/
structure TEnt where
  part : Nat
  src : Option Sid                  -- none: background
  insn : Nat
  op : Nat
  desc : Nat
  tensor : Nat
  row : Nat := 0
  off : Nat := 0                    -- source bytes done in the row
  dest : Nat := 0                   -- GATHER destination
  pend : Nat := 0                   -- remote writes or reads not answered
  issued : Bool := false            -- every piece issued
  dead : Bool := false              -- dropped by a discard; only its pieces in flight are left (R157)
  deriving DecidableEq, Repr

/-- An open commit (Table 08-5). -/
structure Open where
  ent : UEnt
  step : Nat
  gen : Nat                         -- inactive generation i
  buf : List Nat                    -- working-value buffer: codes
  bad : Bool                        -- shard hold (R165)
  redo : Bool                       -- step already committed: rows 6-7 only
  flipped : Bool
  flips : Nat := 0                  -- SHARD_GEN copies written
  merged : Bool := false            -- folds a seal of a quorum, or with a late term (R95)
  decided : Bool := false           -- row 4 or 6 done
  deriving DecidableEq, Repr

/-- One update unit (R166). -/
structure UUnit where
  offline : Bool := false           -- R166; reset 0
  queue : List UEnt := []           -- 4 entries; R166; reset empty
  opn : List Open := []             -- open commits, in order of opening; R166, R168; reset none
  deriving DecidableEq, Repr

/-- A key slot (Table 12-6). -/
structure Slot where
  words : List Nat := [0, 0, 0]     -- 3 x 48 state word copies; R281; reset EMPTY
  key : Nat := 0                    -- 512; R281; reset 0
  used : Nat := 0                   -- 48; R281; reset 0
  limit : Nat := 0                  -- 48; R281; reset 0
  sendCtr : Nat := 0                -- 64; R281; reset 0
  deriving DecidableEq, Repr

/-- A cipher request in the scheduler (R273-R278). -/
structure CReq where
  raw : Nat                         -- CIPHER_REQ (Table 12-2)
  queued : Nat                      -- tick queued
  cls : Nat                         -- class, after promotion
  slot : Option Nat := none         -- bound slot (R275)
  ctr : Option Nat := none          -- counter drawn (R274)
  done : Nat := 0                   -- blocks completed at the last suspension (R278)
  seq : Nat := 0                    -- order in which it entered the scheduler: model
  started : Nat := 0                -- tick at which a core last took it up
  deriving DecidableEq, Repr

/-- One AES core (R272, R278). -/
structure Core where
  offline : Bool := false           -- R279; reset 0
  testing : Bool := false           -- known-answer tests are due; R288; reset 0
  run : Option CReq := none         -- R277; reset none
  susp : List CReq := []            -- 3 suspension contexts; R278; reset empty
  deriving DecidableEq, Repr

/-- The cipher engine (chapter 12). -/
structure Cipher where
  slots : List Slot := List.replicate 512 {} -- 512; R281; reset EMPTY
  cores : List Core := List.replicate 16 {} -- 16; R272; reset idle
  queue : List CReq := []           -- 128 entries; R277; reset empty
  free : Nat := 128                 -- free entries; Table 14-10 row 12; R328; reset 128
  waiting : List CReq := []         -- requests waiting in their own units, oldest first; R277; reset none
  nextSeq : Nat := 0                -- entry counter; model; reset DESIGN CHOICE 0
  done : List (Nat × Nat × Nat × Nat) := [] -- completions: partition, requester, tag, status; R276; reset none
  deriving DecidableEq, Repr

/-- One firmware bank (R290): image class, version, SVN, verified, and bytes staged. -/
structure Image where
  cls : Nat
  ver : Nat
  svn : Nat
  ok : Bool
  body : List Byte
  dig : Option Nat := none          -- SHAKE256 digest of the whole image; R291; reset none (the factory's, Config.digest)
  deriving DecidableEq, Repr

/-- The four images of a bank as the model has them at reset: class, version 0, SVN 0, and a manifest whose one entry matches
them (R290, R294; DESIGN CHOICE, log entry 2). -/
def factoryImages : List Image := [⟨1, 0, 0, true, [], none⟩, ⟨2, 0, 0, true, [], none⟩, ⟨3, 0, 0, true, [], none⟩, ⟨4, 0, 0, true, List.replicate 16 0#8, none⟩]

/-- An SPDM session (R293). -/
structure Session where
  id : Nat
  via : Via
  key : Nat                         -- application key
  open_ : Bool                      -- FINISH done
  deriving DecidableEq, Repr

/-- Root of trust, lifecycle and debug (chapter 13). -/
structure Sec where
  life : Life := .operational       -- 3 fuse state; R297; reset DESIGN CHOICE OPERATIONAL
  lifeCopies : List Life := [.operational, .operational, .operational] -- flash copy; R290,R317; reset as the fuses
  lifeNote : Nat := 0               -- record code due for the flash copy: 0 none, 9 rewritten, 10 no two agreed; R317; reset 0
  returns : Nat := 0                -- 8; R297; reset DESIGN CHOICE 0
  debug : Nat := 0                  -- 2; R300; reset 0
  debugged : Bool := false          -- R301; reset 0
  verdict : List Nat := [0, 0, 0]   -- 3 copies of the verdict word, 0 = OK, else LIMITED; R294,R317; reset OK (DESIGN CHOICE)
  bank : Bool := false              -- bank booted; R291; reset A (DESIGN CHOICE)
  prefBank : Bool := false          -- preferred bank; R296; reset A (DESIGN CHOICE)
  fallback : Bool := false          -- R291; reset 0
  images : List (List Image) := [factoryImages, []] -- two banks; R290; reset bank A the factory images, bank B empty (DESIGN CHOICE)
  running : List Image := factoryImages -- measured running images; R291; reset those of bank A (DESIGN CHOICE)
  arb : List Nat := [0, 0, 0, 0]    -- anti-rollback counters; R296; reset DESIGN CHOICE 0
  staging : Option Nat := none      -- class whose FW.STAGE is in progress; R296; reset none
  stagePart : List Byte := []       -- bytes of the image being staged; R296; reset none
  nonce : Option (Nat × Nat) := none -- 256-bit nonce and its tick; R299; reset none
  fill : Option Bool := none        -- zero-fill running; R301; reset none
  sessions : List Session := []     -- at most 8; R293; reset none
  negotiated : Bool := false        -- algorithms agreed; R293; reset 0
  odk : Nat := 0                    -- 256 ODK digest; R289; reset DESIGN CHOICE 0
  aliasOk : Bool := true            -- Alias key formed; R292; reset 1
  draws : Nat := 0                  -- draws from the random source: model (free-value counter); reset DESIGN CHOICE 0
  romRecovery : Bool := false       -- ROM recovery; R290; reset 0
  chain : Nat := 1                  -- device certificate stored; R297; reset DESIGN CHOICE 1
  deriving DecidableEq, Repr

/-- The fault hub (chapter 14). -/
structure Hub where
  queue : List (Option FaultRec) := List.replicate 64 none -- 64 entries; R320; reset empty
  free : Nat := 64                  -- Table 14-10 row 11; R328; reset 64
  arriving : List FaultRec := []    -- records raised and not yet at the hub; R326; reset none
  dispatch : List FaultRec := []    -- records waiting for handling; R323; reset none
  seq : Nat := 0                    -- 32; R319; reset 0
  uncounted : List (Nat × Nat) := [] -- counted, not queued, by code; R320; reset none
  evicted : Nat := 0                -- queue evictions; R320; reset 0
  lost : Bool := false              -- next queued record carries overflow; R320; reset 0
  ceTick : List (Nat × Nat) := []   -- last CE record of a resource and code: key, tick; R321; reset none
  history : List FaultRec := []     -- flash fault history awaiting replay; R320; reset empty
  heldHist : List FaultRec := []    -- FATAL records and chains whose write is deferred; Table 16-5; reset empty
  alert : Bool := false             -- ALERT_N asserted; R322; reset 0
  worst : Nat := 0                  -- last value of sensor 0x0200; R352; reset 0
  auditTick : Nat := 0              -- tick of the last audit; R328; reset 0
  countTick : Nat := 0              -- tick of the last count records; R348; reset 0
  row9 : Bool := false              -- Table 14-10 row 9 was out of balance at the last audit; R328; reset 0
  resetAt : List Nat := []          -- FATAL resets not followed by row 11: ticks from each to the last reset; R376; reset none
  deriving DecidableEq, Repr

/-- A crucible remap entry (R313). -/
structure Remap where
  page : Nat
  spare : Nat
  st : Nat                          -- 1 pending, 2 active, 3 retired
  deriving DecidableEq, Repr

/-- Scrubbing and repair (R311-R315). -/
structure Scrub where
  cfg : Nat := 24 <<< 22 ||| 24 <<< 12 ||| 1 <<< 11 ||| 1 <<< 10 -- SCRUB_CFG; R311; reset 0x0601_8C00
  hbm : List Nat := List.replicate 16 0 -- next line of each stack; R311; reset 0
  cru : List Nat := List.replicate 2 0 -- next line of each crucible die; R311; reset 0
  remaps : List (List Remap) := [[], []] -- 2 x 64 entries; R313; reset reloaded from flash (DESIGN CHOICE empty)
  freeEnts : List Nat := [64, 64]   -- free entries; Table 14-10 row 7; R313; reset 64
  ceLines : List (Nat × Nat) := []  -- corrected lines and ticks; R313,R315; reset none
  wbacks : List Nat := []           -- corrected lines awaiting write-back; R312; reset none
  rows : List Nat := []             -- logged HBM rows; R315; reset from flash (DESIGN CHOICE none)
  full : List Bool := [false, false] -- REMAP_FULL written; R313; reset 0
  logRemaps : List (List Remap) := [[], []] -- the remap tables as flash holds them; R314; reset DESIGN CHOICE empty
  logRows : List Nat := []          -- the logged HBM rows as flash holds them; R314; reset DESIGN CHOICE none
  walkTick : Nat := 0               -- tick of the last SRAM walk; R312; reset 0
  deriving DecidableEq, Repr

/-- One telemetry stream (R347-R349). -/
structure TStream where
  cfg : Nat := 0                    -- TELEM_CFG, 0 unconfigured; R347; reset 0
  queue : List TRec := []           -- formed, not written; R349; reset none
  count : Nat := 0                  -- 64 bytes written; R349; reset 0
  lost : Nat := 0                   -- 10; R349; reset 0
  seq : Nat := 0                    -- 8; R348; reset 0
  batches : Nat := 0                -- 28 batch count; R350; reset 0
  flying : Nat := 0                 -- records of batches not yet acknowledged; R217; reset 0
  deriving DecidableEq, Repr

/-- A host queue pair (R216). -/
structure Qp where
  st : Nat := 0                     -- 0 none, 1 connected, 2 error; R216; reset 0
  source : Nat := 0                 -- 128 source address; R216; reset 0
  dev : Bool := false               -- bound to the device; R216; reset 0
  part : Nat := 0                   -- bound partition; R216; reset 0
  rate : Nat := 256                 -- rate in 1/256 of line rate; R216; reset 256 (DESIGN CHOICE)
  cnpTick : Nat := 0                -- tick of the last CNP or recovery; R216; reset 0
  inflight : List (Nat × Nat × Nat) := [] -- module-initiated transfers in flight: target index, partition (4: telemetry), job or stream; R216,R217; reset none
  unacked : List ((Nat × Nat) × Pkt) := [] -- RDMA WRITE packets not acknowledged, oldest first, each with its transfer's partition and number; R216; reset none
  port : Nat := 0                   -- 3 port that the connection came by; R144; reset DESIGN CHOICE 0
  mtu : Nat := 1024                 -- path MTU; R216; reset DESIGN CHOICE 1024
  deriving DecidableEq, Repr

/-- A port sub-interface (R211, R236). -/
structure Sub where
  up : Bool := false                -- link up; R211; reset 0
  flaps : List Nat := []            -- ticks of recent flaps; R236; reset none
  holds : List Nat := []            -- ticks of recent hold-downs; R236; reset none
  heldAt : Option Nat := none       -- hold-down in progress; R236; reset none
  router : Nat := 0                 -- 128 first-hop router; R214; reset 0 (DESIGN CHOICE)
  queue : List Egr := []            -- packets waiting for the line; R215; reset none
  deficit : List Nat := [0, 0, 0]   -- deficits of hall data, outer rounds and host path; R215; reset 0
  turn : Nat := 0                   -- class whose turn it is, 0 hall data; R215; reset DESIGN CHOICE 0
  due : Nat := 0                    -- bytes that the line still has to clock out; R215; reset 0
  deriving DecidableEq, Repr

/-- One Ethernet port (R211, R212). -/
structure Port where
  cfg : Nat := 0x0D82160D1497F800 -- 64 PORT_CFG; R211; reset Table 10-1
  subs : List Sub := List.replicate 8 {} -- up to 8 sub-interfaces; R211; reset dark
  pllLost : Bool := false           -- bellows PHY PLL unlocked; R369; reset 0
  rot : Nat := 0                    -- 3 sub-interface that the next packet prefers; R224; reset DESIGN CHOICE 0
  spent : List Nat := [0, 0, 0, 0]  -- bytes missing in the token bucket of each partition that borrows; R26; reset 0
  held : List Egr := []             -- packets beyond a borrowed share; R26; reset none
  deriving DecidableEq, Repr

/-- Network identity and host path (R214, R216, R217, R352). -/
structure Net where
  planes : List Nat := []           -- 8 x 64 plane addresses' upper halves; R214; reset none
  locator : Nat := 0                -- 32; R214; reset 0 (none)
  udpPort : Nat := 0xD6E0           -- 16; R214; reset 0xD6E0
  allow : List (Nat × Nat) := []    -- host allow list; R216; reset empty
  badAt : List (Nat × Nat) := []    -- last PACKET_BAD record of a sender: module, tick; R219; reset none
  qps : List Qp := List.replicate 64 {} -- 64; R216; reset none
  targets : List Nat := List.replicate 256 0 -- 256 x 256 HOST_TARGET; R217; reset 0
  deadTargets : List Nat := []      -- entries whose QP failed since they were written; R217; reset none
  ports : List Port := List.replicate 8 {} -- 8; R211; reset Table 10-1
  deriving DecidableEq, Repr

/-- Sideband endpoint state (R352, R379). -/
structure Side where
  addr : Nat := 0                   -- 7 I3C dynamic address; R379; reset 0 (DESIGN CHOICE)
  eid : Nat := 0                    -- 8 MCTP endpoint ID; R379; reset 0 (DESIGN CHOICE)
  tid : Nat := 0                    -- 8 PLDM TID; R352; reset 0 (DESIGN CHOICE)
  ibi : Bool := false               -- in-band interrupts enabled; R352; reset 0 (DESIGN CHOICE)
  capEffecter : Nat := 4400         -- 16 effecter 0x0400; R353,R355; reset 4400 (DESIGN CHOICE)
  held : List FaultRec := []        -- records held in standby; R378; reset none
  deriving DecidableEq, Repr

/-- Power, clocks, pins and start-up (chapter 16). -/
structure Power where
  millivolts : Nat := 44000         -- input voltage; R359; reset DESIGN CHOICE 44000
  standby : Bool := true            -- standby domain on; R359; reset 1
  row : Nat := 11                   -- start-up row reached; R373; reset 11
  pwrEn : Bool := true              -- filtered PWR_EN; R377; reset asserted
  resetN : Bool := true             -- filtered RESET_N level; R377; reset deasserted
  haltN : Bool := true              -- filtered HALT_N level; R377; reset deasserted
  trstN : Bool := true              -- TRST_N level, as the TAP last had it; R357; reset DESIGN CHOICE deasserted
  raw : List Bool := [true, true, true] -- levels of PWR_EN, RESET_N and HALT_N that have held for 100 us; R377; reset as the filtered levels
  edgeHold : List Nat := [0, 0, 0]  -- ticks for which each filtered level is still held after an accepted edge; R377; reset 0
  standbyLeft : Nat := 0            -- ticks left of the 100 ms between row 1 and row 2; R373; reset 0
  forced : List Bool := [false, false, false] -- inputs forced to their safe level; R378; reset 0
  straps : Nat := 0                 -- 6 SLOT_ID latched; R358; reset DESIGN CHOICE 0
  latched : Bool := true            -- SLOT_ID latched; R358; reset 1
  strapNoted : Bool := false        -- strap change to record after the next boot; R358; reset 0
  pstate : PState := .p1            -- R370; reset P1
  target : Nat := 1                 -- 2; R371; reset 1
  busyTick : Nat := 0               -- last tick at which a partition was ACTIVE, DRAINING or RECOVERING; R371; reset 0
  moving : Option PState := none    -- transition in progress; R371; reset none
  moveMbx : Option Nat := none      -- mailbox waiting for it; R371; reset none
  cause : Option PfCause := none    -- latched power-fail cause; R366; reset none
  tripN : Bool := true              -- THERM_TRIP_N level; R383; reset deasserted
  loopStop : Bool := false          -- start-up stopped by RESET_LOOP; R376; reset 0
  vco : Bool := true                -- root VCO locked; R368; reset 1
  lostMem : List Nat := []          -- memory PHYs out of lock, which cannot be reached: 4-5 crucible dies, 6-21 base dies; R369; reset none
  cmeas : Option Nat := none        -- C_meas in uF; R362; reset none
  vbank : Nat := 48000              -- bank voltage in mV; R362; reset DESIGN CHOICE 48000
  holdTick : Nat := 0               -- tick of the last C_meas measurement; R362; reset 0
  deferred : List Store := []       -- persistent writes deferred; R363; reset none
  retryTick : Nat := 0              -- tick of the last retry of the second; R363; reset 0
  hours : Nat := 0                  -- wear and operating-hours count; R363; reset DESIGN CHOICE 0
  flashHours : Nat := 0             -- the count as flash holds it; Table 16-5; reset DESIGN CHOICE 0
  hoursTick : Nat := 0              -- tick of the last count; R363; reset 0
  inputTicks : List (Nat × Nat) := [] -- ticks of the last INPUT_LOW and INPUT_HIGH, by code; R359; reset none
  cap : Nat := 4400                 -- 16 POWER.CAP value; R353,R355; reset 4400
  blade : Nat := 0                  -- W, blade power of the last millisecond; R353; reset 0
  bladeSum : Nat := 0               -- sum of the period; Table 15-14; R347; reset 0
  bladeMax : Nat := 0               -- largest of the period; Table 15-14; R347; reset 0
  bladeN : Nat := 0                 -- milliseconds of the period; R347; reset 0
  throttleTicks : Nat := 0          -- 32; Table 15-14; R347; reset 0
  recTick : Nat := 0                -- tick of the last POWER_REC; R347; reset 0
  thermal : List Nat := List.replicate 16 16 -- thermal duty of each forge die; R382; reset 16 (DEDUCED)
  cool : List Nat := List.replicate 16 0 -- ms below 97 C of each forge die; R382; reset 0
  temps : List (Nat × Option Int) := [] -- last sensor readings; R382; reset none
  warned : List Nat := []           -- sensors in a warm episode; R382; reset none
  grants : List Nat := List.replicate 16 0 -- W of power-budget grant that each forge die holds; Table 14-10 row 9; R329; reset DESIGN CHOICE 275 each
  leaving : List Nat := List.replicate 16 0 -- W withdrawn from each forge die and not acknowledged by it; R329; reset 0
  freeGrant : Nat := 0              -- W of power-budget grants free; Table 14-10 row 9; R329; reset DESIGN CHOICE 0
  deriving DecidableEq, Repr

/-- The state of the module. -/
structure State where
  pending : List Instr := []        -- waiting commands, first in first out; model
  tick : Nat := 0                   -- 64 tick counter; R368; reset 0
  free : Nat := 0                   -- free-value counter; model; reset DESIGN CHOICE 0
  moduleId : Nat := 0               -- 20; R15,R338; reset 0x0_0000
  idValid : Bool := false           -- R15,R20; reset 0
  partCfg : List Nat := [0, 0, 0]   -- 3 copies of PART_CFG; R23,R339; reset 0
  parts : List Part := [{}, {}, {}, {}] -- partitions 0-3; R22; reset partition 0 READY
  hearths : List Hearth := List.replicate 256 {} -- 256; R60; reset READY after R77
  tempers : List Temper := List.replicate 256 {} -- 256; R99; reset R121
  tongs : List (List TEnt) := List.replicate 22 [] -- 22 engines; R144; reset empty
  units : List UUnit := List.replicate 8 {} -- 8; R166; reset empty
  mem : List Host.Cell := []        -- spaces 0-3 and the stored bytes of space 4, by local address; R18; reset unlisted
  marks : List Nat := []            -- marked 64 B lines of spaces 0-2; R305,R307; reset none
  wmarks : List Nat := []           -- marked 8 B words of space 3; R306; reset none
  observed : List Nat := []         -- mailboxes observed POSTED, in order; R334; reset none
  smithOwns : List Nat := []        -- the smith's record of the mailboxes it owns; Table 14-10 row 8; R328; reset none
  cipher : Cipher := {}
  sec : Sec := {}
  hub : Hub := {}
  scrub : Scrub := {}
  streams : List TStream := List.replicate 5 {} -- 5; R347; reset unconfigured
  net : Net := {}
  side : Side := {}
  power : Power := {}
  counts : List (Ctr × Nat) := []   -- counts of things dropped; reset none
  out : List Out := []              -- what has left the module, oldest first; model
  deriving DecidableEq, Repr

/-- Faults: the command names a unit that the module does not have, so nothing is defined for it. -/
inductive Fault where
  /-- An operand names a mailbox, partition, hearth, engine, unit, port, queue pair, slot or stream index that no
  table of the manual gives the module. Raised by every meaning on its own operands. Safe: the model stops. -/
  | noSuchUnit
  deriving DecidableEq, Repr

/-- Refusals. -/
inductive Refusal where
  /-- The command has no meaning in the model. Raised by exec's arms only. Safe: the model stops. -/
  | notModelled (mnemonic : String)
  deriving DecidableEq, Repr

/-- The module right after reset: start-up has reached row 11 of Table 16-10 with the input at 44 V, partition 0 READY with
no job, no module ID, no network identity (R23, R51, R238, R288, R330, R355, R373). -/
def State.reset : State :=
  { parts := [{ st := .ready }, {}, {}, {}]
    hearths := List.replicate 256 { st := .ready }
    power := { grants := List.replicate 16 275 } }

end Sys2Proof.Machine
end

