-- ==== Sys2Proof/Machine/Ops.lean ====
section
/-! DEFINITION. The named operations over memory, marks, partitions, fault records and telemetry that every meaning uses. -/

namespace Sys2Proof.Machine

/-! ## Outcomes -/

/-- A meaning's outcome: the next state, or the fault of a command that names a unit the module does not have (log entry 6). -/
def answer (ok : Bool) (t : State) : Host.Outcome State Fault Refusal := if ok then .next t else .fault .noSuchUnit

/-- Ticks of the 100 MHz reference (R368). -/
def ticksUs (n : Nat) : Nat := 100 * n
def ticksMs (n : Nat) : Nat := 100000 * n
def ticksSec (n : Nat) : Nat := 100000000 * n

/-! ## Memory -/

/-- The canonical form: addresses strictly rising, and no entry equal to what an unlisted address reads as. -/
abbrev Memory.wf (m : List Host.Cell) : Prop := m.Pairwise (fun a b => a.1 < b.1) ∧ ∀ c ∈ m, c.2 ≠ 0#8

/-- What an unlisted address reads as (DESIGN CHOICE, log entry 7). -/
def Memory.blank : Byte := 0#8

/-- One byte of memory. -/
def Memory.read (m : List Host.Cell) (a : Nat) : Byte :=
  match m.find? (fun c => c.1 == a) with
  | some c => c.2
  | none => Memory.blank

/-- `n` bytes from address `a`, given the cells at or above `a` in order. -/
def Memory.fillFrom : Nat → Nat → List Host.Cell → List Byte
  | 0, _, _ => []
  | n + 1, a, [] => Memory.blank :: fillFrom n (a + 1) []
  | n + 1, a, c :: cs => if c.1 = a then c.2 :: fillFrom n (a + 1) cs else Memory.blank :: fillFrom n (a + 1) (c :: cs)

/-- `n` bytes from address `a`. -/
def Memory.readN (m : List Host.Cell) (a n : Nat) : List Byte := Memory.fillFrom n a (m.filter fun c => a ≤ c.1 && c.1 < a + n)

/-- The cells that a byte string makes from address `a`. -/
def Memory.cells : Nat → List Byte → List Host.Cell
  | _, [] => []
  | a, b :: bs => if b = Memory.blank then cells (a + 1) bs else (a, b) :: cells (a + 1) bs

/-- Bytes written from address `a`; the canonical form is kept. -/
def Memory.writeBytes (m : List Host.Cell) (a : Nat) (bs : List Byte) : List Host.Cell :=
  m.filter (fun c => c.1 < a) ++ (Memory.cells a bs ++ m.filter (fun c => a + bs.length ≤ c.1))

/-- Bytes `[a, a + n)` cleared. -/
def Memory.clear (m : List Host.Cell) (a n : Nat) : List Host.Cell := m.filter fun c => c.1 < a || a + n ≤ c.1

/-! ## Addresses (Tables 01-4, 01-5) -/

/-- Local address of an offset in a space. -/
def localAddr (space off : Nat) : Nat := space * 2 ^ 41 + off

def gModule (g : Nat) : Nat := bits g 63 44
def gSpace (g : Nat) : Nat := bits g 43 41
def gOffset (g : Nat) : Nat := bits g 40 0
def gLocal (g : Nat) : Nat := bits g 43 0

/-- The global address of a local address of this module (R18). -/
def State.global (s : State) (la : Nat) : Nat := s.moduleId * 2 ^ 44 + la

/-- Bytes of a space that exist (Table 01-5); space 4 is reached only by the host path (R21). -/
def spaceBytes (space : Nat) : Nat := if space ≤ 2 then 2 ^ 41 else if space = 3 then 2 ^ 30 else 0

/-! ## Voted words and the partition count (R23, R317) -/

/-- The majority of three copies: the value, and whether all agree. None when no two agree. -/
def vote3 {α : Type} [DecidableEq α] (l : List α) : Option (α × Bool) :=
  match l with
  | [a, b, c] => if a = b then some (a, b = c) else if a = c then some (a, false) else if b = c then some (b, false) else none
  | _ => none

/-- A voted word written: all three copies (R317). -/
def copies3 {α : Type} (a : α) : List α := [a, a, a]

/-- The module's partition configuration, by vote; without two equal copies one partition (R23). -/
def State.cfgWord (s : State) : Nat := match vote3 s.partCfg with
  | some (w, _) => w
  | none => 0

/-- Partitions of a configuration word (Table 15-5). -/
def countOf (cfg : Nat) : Nat := if bits cfg 255 254 = 0 then 1 else if bits cfg 255 254 = 1 then 2 else 4

/-- The present partition count. -/
def State.nparts (s : State) : Nat := countOf s.cfgWord

def State.part (s : State) (p : Nat) : Part := s.parts.getD p {}
def State.modPart (s : State) (p : Nat) (f : Part → Part) : State := { s with parts := updAt s.parts p f }
def State.modRun (s : State) (p : Nat) (f : Run → Run) : State := s.modPart p fun q => { q with run := f q.run }
def State.modArena (s : State) (p : Nat) (f : Arena → Arena) : State := s.modPart p fun q => { q with arena := f q.arena }
def State.modPyro (s : State) (p : Nat) (f : Pyro → Pyro) : State := s.modPart p fun q => { q with pyro := f q.pyro }
def State.modColl (s : State) (p : Nat) (f : Coll → Coll) : State := s.modPart p fun q => { q with coll := f q.coll }
def State.modFab (s : State) (p : Nat) (f : Fabric → Fabric) : State := s.modPart p fun q => { q with fab := f q.fab }
def State.modOuter (s : State) (p : Nat) (f : Outer → Outer) : State := s.modPart p fun q => { q with outer := f q.outer }
def State.modDuty (s : State) (p : Nat) (f : Duty → Duty) : State := s.modPart p fun q => { q with duty := f q.duty }
def State.modHearth (s : State) (h : Nat) (f : Hearth → Hearth) : State := { s with hearths := updAt s.hearths h f }
def State.modTemper (s : State) (h : Nat) (f : Temper → Temper) : State := { s with tempers := updAt s.tempers h f }
def State.modUnit (s : State) (u : Nat) (f : UUnit → UUnit) : State := { s with units := updAt s.units u f }
def State.modTongs (s : State) (e : Nat) (f : List TEnt → List TEnt) : State := { s with tongs := updAt s.tongs e f }
def State.modCipher (s : State) (f : Cipher → Cipher) : State := { s with cipher := f s.cipher }
def State.modSec (s : State) (f : Sec → Sec) : State := { s with sec := f s.sec }
def State.modHub (s : State) (f : Hub → Hub) : State := { s with hub := f s.hub }
def State.modScrub (s : State) (f : Scrub → Scrub) : State := { s with scrub := f s.scrub }
def State.modNet (s : State) (f : Net → Net) : State := { s with net := f s.net }
def State.modSide (s : State) (f : Side → Side) : State := { s with side := f s.side }
def State.modPower (s : State) (f : Power → Power) : State := { s with power := f s.power }
def State.modStream (s : State) (k : Nat) (f : TStream → TStream) : State := { s with streams := updAt s.streams k f }
def State.hearth (s : State) (h : Nat) : Hearth := s.hearths.getD h {}
def State.temper (s : State) (h : Nat) : Temper := s.tempers.getD h {}
def State.slot (s : State) (k : Nat) : Slot := s.cipher.slots.getD k {}
def State.uunit (s : State) (u : Nat) : UUnit := s.units.getD u {}

/-- One more thing leaves the module. -/
def State.emit (s : State) (o : Out) : State := { s with out := s.out ++ [o] }

/-- One thing dropped or refused is counted. -/
def ctrUp (c : Ctr) : List (Ctr × Nat) → List (Ctr × Nat)
  | [] => [(c, 1)]
  | (d, n) :: r => if d = c then (d, n + 1) :: r else (d, n) :: ctrUp c r

def State.count (s : State) (c : Ctr) : State := { s with counts := ctrUp c s.counts }

/-! ## Counts of `ROUND_REC` (Table 11-10) -/

def rsSent : Nat := 0
def rsResent : Nat := 1
def rsProbes : Nat := 2
def rsReseeds : Nat := 3
def rsRejected : Nat := 4
def rsEarly : Nat := 5
def rsAbandoned : Nat := 6
def rsLate : Nat := 7
def rsTerms : Nat := 8
def rsClamped : Nat := 9
def rsNonfinite : Nat := 10
def rsHold : Nat := 11
def rsQuorum : Nat := 12
def rsUnderflow : Nat := 13

/-- A count of the round raised; each saturates at its field's width when the record is formed. -/
def State.roundCount (s : State) (p k n : Nat) : State := if n = 0 then s else s.modOuter p fun o => { o with stats := countUp 32 k n o.stats }

/-- A fresh number for the free values of Config. -/
def State.fresh (s : State) : Nat × State := (s.free, { s with free := s.free + 1 })

/-- A state folded over a list. -/
def State.each {α : Type} (s : State) (l : List α) (f : State → α → State) : State := l.foldl f s

/-- A frame of the host path, or of neighbour discovery, is taken untagged or with a priority tag; with any other tag it is dropped and counted (R211). -/
def State.untagged (s : State) (vid : Nat) (act : State → State) : State := if vid = 0 then act s else s.count .badTag

/-- Is a partition busy: ACTIVE, DRAINING or RECOVERING? -/
def Part.busy (q : Part) : Bool := q.st == .active || q.st == .draining || q.st == .recovering

/-! ## Ownership (Table 01-6) -/

/-- Whether partition index `p` exists. -/
def State.hasPart (s : State) (p : Nat) : Bool := p < s.nparts

/-- Partition owning a forge die, of `n` partitions. -/
def diePart (n d : Nat) : Nat := d / (16 / n)
def hearthPart (n h : Nat) : Nat := diePart n (h / 16)
/-- First hearth and number of hearths of partition `p`. -/
def hearthBase (n p : Nat) : Nat := 256 / n * p
def hearthCount (n : Nat) : Nat := 256 / n
/-- Bellows dies are owned as forge dies are, four to the module. -/
def bellowsPart (n b : Nat) : Nat := b / (4 / n)
def portPart (n q : Nat) : Nat := q / (8 / n)
def corePart (n c : Nat) : Nat := c / (16 / n)
def slotPart (n k : Nat) : Nat := k / (512 / n)
def slotBase (n p : Nat) : Nat := 512 / n * p
def unitPart (n u : Nat) : Nat := u / (8 / n)
def unitBase (n p : Nat) : Nat := 8 / n * p
def unitCount (n : Nat) : Nat := 8 / n
def stackPart (n k : Nat) : Nat := k / (16 / n)
def packPart (n k : Nat) : Nat := k / (32 / n)

/-- The partition owning a mailbox; none for the device mailboxes. -/
def mbxPart (n m : Nat) : Option Nat := if m < 4 then none else some (min (n - 1) ((m - 4) / (60 / n)))

/-- Partitions served by a crucible die (note a of Table 01-6). -/
def diePartsCru (n c : Nat) : List Nat := (List.range n).filter fun p => packPart n (16 * c) ≤ p && p ≤ packPart n (16 * c + 15)

/-- The partition whose range holds byte `off` of `space`. -/
def byteOwner (n space off : Nat) : Option Nat :=
  if space = 0 then (if off < 2 ^ 41 then some (off / (2 ^ 41 / n)) else none)
  else if space = 1 ∨ space = 2 then (if off < 2 ^ 41 then some (((space - 1) * 2 ^ 41 + off) / (2 ^ 42 / n)) else none)
  else if space = 3 then (if off < 2 ^ 30 then some (off / (2 ^ 30 / n)) else none)
  else none

/-- The partition whose ranges hold all `len` bytes of an access; none if it spans two owners or leaves its space (R21). -/
def rangeOwner (n space off len : Nat) : Option Nat :=
  match byteOwner n space off, byteOwner n space (off + (len - 1)) with
  | some p, some q => if p = q then some p else none
  | _, _ => none

/-! ## Placement (R143) -/

/-- Crucible byte of a local address of space 1 or 2. -/
def cruByte (la : Nat) : Nat := la - 2 ^ 41

/-- The HBM stack holding a local address of space 0. -/
def State.stackOf (s : State) (la : Nat) : Nat :=
  let n := s.nparts
  let r := 2 ^ 41 / n
  16 / n * (la / r) + la % r / 4096 % (16 / n)

/-- The crucible package holding a local address of space 1 or 2. -/
def State.packOf (s : State) (la : Nat) : Nat :=
  let n := s.nparts
  let r := 2 ^ 42 / n
  32 / n * (cruByte la / r) + cruByte la % r / 4096 % (32 / n)

/-- The crucible die of a local address. -/
def State.cruDieOf (s : State) (la : Nat) : Nat := s.packOf la / 16

/-- The memory PHY behind a local address, as PHY_PLL numbers it: base die or crucible die; 0 for hearth SRAM. -/
def State.phyOf (s : State) (la : Nat) : Nat := if la / 2 ^ 41 = 0 then 6 + s.stackOf la else if la / 2 ^ 41 = 3 then 0 else 4 + s.cruDieOf la

/-- Does a local range touch memory whose PHY is out of lock, which cannot be reached (R369)? Pages go round at most 32 packages. -/
def State.unreached (s : State) (la n : Nat) : Bool :=
  !s.power.lostMem.isEmpty && (List.range (min ((la + n - 1) / 4096 + 1 - la / 4096) 32)).any fun i => s.power.lostMem.contains (s.phyOf (la + 4096 * i))

/-- Whether a global range lies in partition `p`'s own ranges of one of the spaces named, and can be reached (R21, R369). -/
def State.ownRange (s : State) (p g len : Nat) (spaces : List Nat) : Bool :=
  gModule g == s.moduleId && spaces.contains (gSpace g) && 0 < len && rangeOwner s.nparts (gSpace g) (gOffset g) len == some p && !s.unreached (gLocal g) len

/-! ## Slag marks (R305-R308) -/

/-- Is the line or word holding a local address marked? -/
def State.markedAt (s : State) (la : Nat) : Bool := if la / 2 ^ 41 = 3 then s.wmarks.contains (la / 8) else s.marks.contains (la / 64)

/-- The units (lines or words) that a local range touches. -/
def unitsOf (la len : Nat) : List Nat :=
  let u := if la / 2 ^ 41 = 3 then 8 else 64
  if len = 0 then [] else (List.range ((la + len - 1) / u + 1 - la / u)).map (la / u + ·)

/-- Is any line or word of a local range marked? -/
def State.marked (s : State) (la len : Nat) : Bool :=
  if la / 2 ^ 41 = 3 then s.wmarks.any (fun u => la < 8 * u + 8 && 8 * u < la + len)
  else s.marks.any (fun u => la < 64 * u + 64 && 64 * u < la + len)

/-- The first marked local address of a range (R310). -/
def State.firstMarked (s : State) (la len : Nat) : Option Nat :=
  if la / 2 ^ 41 = 3 then (s.wmarks.find? (fun u => la < 8 * u + 8 && 8 * u < la + len)).map fun u => max la (8 * u)
  else (s.marks.find? (fun u => la < 64 * u + 64 && 64 * u < la + len)).map fun u => max la (64 * u)

/-- A set of unit marks after a write of `[la, la + len)` with mark `mk`, `u` bytes to a unit: whole units take `mk`,
units partly written keep or take a mark (R308). -/
def markUnits (u : Nat) (set : List Nat) (la len : Nat) (mk : Bool) : List Nat :=
  if len = 0 then set
  else if mk then ((List.range ((la + len - 1) / u + 1 - la / u)).map (la / u + ·)).foldl (fun t k => setIns k t) set
  else set.filter fun k => !(la ≤ u * k && u * k + u ≤ la + len)

/-- Bytes stored at a local address with a mark (R308); a write to a line cancels its pending write-back (R312). -/
def State.store (s : State) (la : Nat) (bs : List Byte) (mk : Bool) : State :=
  let s := { s with mem := Memory.writeBytes s.mem la bs }
  if la / 2 ^ 41 = 3 then { s with wmarks := markUnits 8 s.wmarks la bs.length mk }
  else { s with
    marks := markUnits 64 s.marks la bs.length mk
    scrub := { s.scrub with wbacks := s.scrub.wbacks.filter fun l => !(la < 64 * l + 64 && 64 * l < la + bs.length) } }

/-- `n` stored bytes of a local address. -/
def State.bytes (s : State) (la n : Nat) : List Byte := Memory.readN s.mem la n

/-- A structure of `n` bytes read as one number. -/
def State.word (s : State) (la n : Nat) : Nat := leNat (s.bytes la n)

/-- A structure of `n` bytes at a local address and whether any of its bytes carry a mark. -/
def State.struct (s : State) (la n : Nat) : Nat × Bool := (s.word la n, s.marked la n)

/-- Bytes of space 4 stored by the module itself (mailboxes, control block); space 4 has no marks of its own. -/
def State.put4 (s : State) (off : Nat) (bs : List Byte) : State := { s with mem := Memory.writeBytes s.mem (localAddr 4 off) bs }
def State.get4 (s : State) (off n : Nat) : List Byte := Memory.readN s.mem (localAddr 4 off) n

/-! ## Hearth SRAM (R45) -/

def sramBytes : Nat := 0x400000

/-- Local address of an SRAM offset of hearth `h`. -/
def sramAddr (h off : Nat) : Nat := localAddr 3 (h * sramBytes + off)

/-- A byte range cut at 4 KiB page boundaries: (address, length) pieces. -/
def pagePieces : Nat → Nat → Nat → List (Nat × Nat)
  | 0, _, _ => []
  | f + 1, a, n => if n = 0 then [] else let k := min n (4096 - a % 4096); (a, k) :: pagePieces f (a + k) (n - k)

def piecesOf (a n : Nat) : List (Nat × Nat) := pagePieces (n / 4096 + 2) a n

/-- Is the SRAM page holding a local address of space 3 valid? -/
def State.pageValid (s : State) (la : Nat) : Bool :=
  let off := la % 2 ^ 41
  (s.hearth (off / sramBytes)).pages.contains (off % sramBytes / 4096)

/-- The page of a local address of space 3 made valid: its unwritten bytes read as zero, unmarked (R45). -/
def State.openPage (s : State) (la : Nat) : State :=
  if s.pageValid la then s
  else
    let base := la / 4096 * 4096
    let off := la % 2 ^ 41
    let s := { s with mem := Memory.clear s.mem base 4096, wmarks := s.wmarks.filter fun w => w < base / 8 || base / 8 + 512 ≤ w }
    s.modHearth (off / sramBytes) fun h => { h with pages := setIns (off % sramBytes / 4096) h.pages }

/-- Bytes stored at any local address with a mark; space 3 opens the pages it touches. -/
def State.save (s : State) (la : Nat) (bs : List Byte) (mk : Bool) : State :=
  if la / 2 ^ 41 = 3 then ((piecesOf la bs.length).foldl (fun s (a, _) => s.openPage a) s).store la bs mk
  else s.store la bs mk

/-- Bytes of any local address; an invalid SRAM page reads zero. -/
def State.load (s : State) (la n : Nat) : List Byte :=
  if la / 2 ^ 41 = 3 then (piecesOf la n).flatMap fun (a, k) => if s.pageValid a then s.bytes a k else List.replicate k 0#8
  else s.bytes la n

/-- Marks of a load; an invalid SRAM page carries none. -/
def State.loadMark (s : State) (la n : Nat) : Bool :=
  if la / 2 ^ 41 = 3 then (piecesOf la n).any fun (a, k) => s.pageValid a && s.marked a k
  else s.marked la n

/-- 64-byte lines of a load that lie in invalid SRAM pages: what the load adds to the read-before-write count (R45). -/
def State.rbwLines (s : State) (la n : Nat) : Nat :=
  if la / 2 ^ 41 = 3 then ((piecesOf la n).map fun (a, k) => if s.pageValid a then 0 else (a + k - 1) / 64 + 1 - a / 64).sum else 0

/-- The mark of every byte of a load. -/
def State.byteMarks (s : State) (la n : Nat) : List Bool :=
  if s.loadMark la n then (List.range n).map fun i => s.loadMark (la + i) 1 else List.replicate n false

/-- Element flags of an array of `k`-byte elements: which carry a mark. -/
def State.elemMarks (s : State) (la k n : Nat) : List Bool :=
  if s.marked la (k * n) then (List.range n).map fun i => s.marked (la + k * i) k else List.replicate n false

/-- Bytes stored with the marks of their bytes: each line or word written takes a mark where any byte written to it has one (R308). -/
def State.saveMarked (s : State) (la : Nat) (bs : List Byte) (mk : List Bool) : State :=
  if mk.any id then
    let u := if la / 2 ^ 41 = 3 then 8 else 64
    s.each (List.range ((la % u + bs.length + u - 1) / u)) fun s g =>
      let lo := u * g - la % u
      let hi := min bs.length (u * (g + 1) - la % u)
      s.save (la + lo) ((bs.take hi).drop lo) (((mk.take hi).drop lo).any id)
  else s.save la bs false

/-- Bytes and marks of a range as an engine of the module reads it: of memory that cannot be reached a load does not perform, and gives zeros with a
mark (R21, R369). -/
def State.tryLoad (s : State) (la n : Nat) : List Byte × List Bool :=
  if s.unreached la n then (List.replicate n 0#8, List.replicate n true) else (s.load la n, s.byteMarks la n)

/-- Such bytes written; a store to memory that cannot be reached is dropped. -/
def State.trySave (s : State) (la : Nat) (bs : List Byte) (mk : List Bool) : State := if s.unreached la bs.length then s else s.saveMarked la bs mk

/-- Reads before writes counted for partition `p` (R45). -/
def State.addRbw (s : State) (p n : Nat) : State := if n = 0 then s else s.modRun p fun r => { r with rbw := satTo 32 (r.rbw + n) }

/-! ## Fault records (R319, Table 14-6) -/

/-- Severities (Table 14-5). -/
def sevCE : Nat := 1
def sevDef : Nat := 2
def sevPart : Nat := 3
def sevDev : Nat := 4
def sevFatal : Nat := 5

/-- Unit IDs (Table 01-1). -/
def unitHearth (h : Nat) : Nat := 0x2000 + h
def unitDie (d : Nat) : Nat := 0x4000 + d
def unitPartId (p : Nat) : Nat := 0x6000 + p
def unitDevice : Nat := 0x8000

/-- A record as formed now: its time, and the step, round, module and depth of the partition named (R319). -/
def State.stamp (s : State) (r : FaultRec) : FaultRec :=
  let q := s.part r.part
  { r with time := s.tick, step := q.run.step, round := q.run.round, module := if s.idValid then s.moduleId else 0, nest := q.depth }

/-- A record is formed; it waits to reach the hub (R319, R326). -/
def State.raise (s : State) (r : FaultRec) : State := s.modHub fun h => { h with arriving := h.arriving ++ [s.stamp r] }

/-- A record of a memory code: its syndrome (note a of Table 14-6) is a free value (log entry 8). -/
def State.raiseMem (s : State) (r : FaultRec) : State :=
  { s.raise { r with detail := Config.syndrome s.free } with free := s.free + 1 }

/-- A record about partition `p` itself. -/
def recPart (p sev code : Nat) : FaultRec := { unit := unitPartId p, part := p, sev := sev, code := code }

/-- A record about the device. -/
def recDev (sev code : Nat) : FaultRec := { unit := unitDevice, sev := sev, code := code }

/-- A record about hearth `h` of partition `p`. -/
def recHearth (p h sev code : Nat) : FaultRec := { unit := unitHearth h, part := p, sev := sev, code := code }

/-- Malformed stream input (R31): UCE_PART in partition `p`, naming the address read. -/
def State.malformed (s : State) (p addr : Nat) : State := s.raise { recPart p sevPart 0x20 with addr := addr }

/-- An access that does not perform (R21). -/
def State.addrErr (s : State) (p addr : Nat) : State := s.raise { recPart p sevDef 0x10 with addr := addr }

/-- A mark that bites (R309, R310). -/
def State.slagBite (s : State) (p addr : Nat) : State := s.raise { recPart p sevDef 0x11 with addr := addr }

/-! ## Telemetry (R347, R348) -/

def TStream.ring (t : TStream) : Nat := bits t.cfg 255 192
def TStream.ringBytes (t : TStream) : Nat := bits t.cfg 191 160
def TStream.prod (t : TStream) : Nat := bits t.cfg 159 96
def TStream.mask (t : TStream) : Nat := bits t.cfg 95 64
def TStream.powerMs (t : TStream) : Nat := bits t.cfg 63 48
def TStream.configured (t : TStream) : Bool := t.ring != 0

/-- A record of a type formed for a stream: its own when configured, else stream 0; dropped and counted when both are
unconfigured; not formed when the stream's mask disables its type (R347). -/
def State.record (s : State) (own : Nat) (type unit part len data : Nat) : State :=
  let k := if (s.streams.getD own {}).configured then own else 0
  let t := s.streams.getD k {}
  if !t.configured then s.count .telemLost
  else if !t.mask.testBit type then s
  else s.modStream k fun t => { t with queue := t.queue ++ [⟨type, unit, part, if s.idValid then s.moduleId else 0, s.tick, len, data⟩] }

/-- A partition's record. -/
def State.recordPart (s : State) (p type len data : Nat) : State := s.record (1 + p) type (unitPartId p) p len data

/-- A NOTICE of partition `p` (Table 15-13): code [255:240], detail [239:0]. -/
def State.notice (s : State) (p code detail : Nat) : State := s.recordPart p 0x08 2 (pack [(16, code), (240, detail)])

/-- A record of the device, on stream 0 only. -/
def State.recordDev (s : State) (type unit len data : Nat) : State := s.record 0 type unit 0 len data

/-! ## `ACTQ_DESC` (Table 02-6) -/

def aqBase (d : Nat) : Nat := bits d 255 192
def aqPages (d : Nat) : Nat := bits d 191 172
def aqCount (d : Nat) : Nat := bits d 171 160
def aqMod (d : Nat) : Nat := bits d 159 140
def aqPart (d : Nat) : Nat := bits d 139 138
def aqConsumer (d : Nat) : Bool := bit d 137
def aqKind (d : Nat) : Nat := bits d 136 136
def aqId (d : Nat) : Nat := bits d 135 128
def aqStage (d : Nat) : Nat := bits d 127 112

end Sys2Proof.Machine
end

