-- ==== Sys2Proof/Machine/MemErr.lean ====
section
/-! DEFINITION. Memory errors, repairs and writes to the persistent stores (R304-R315, R362, R363). -/

namespace Sys2Proof.Machine

/-! ## The hold-up bank and the persistent stores (R362, R363) -/

/-- Usable hold-up energy at a bank voltage, in units of 10^-16 J; 0 until the first measurement (R362). -/
def holdEnergy (cmeas : Option Nat) (mv : Nat) : Nat := match cmeas with
  | some c => 4275 * c * (mv ^ 2 - 24000 ^ 2)
  | none => 0

/-- Energy that a store's write must find, 1.5 x E_w (E_p is 0: a write completes in its step, log entry 4; Table 16-5). -/
def storeNeed : Store → Nat
  | .lifecycle => 9900 * 10 ^ 12
  | _ => 1350 * 10 ^ 12

/-- Row of Table 16-5 of a store. -/
def storeRow : Store → Nat
  | .faultHistory => 0
  | .counters => 1
  | .lifecycle => 2
  | .repairLog => 3
  | .wear => 4

/-- Does the hold-up check let a store be written (R363)? -/
def State.canStore (s : State) (k : Store) : Bool := storeNeed k ≤ holdEnergy s.power.cmeas s.power.vbank

/-- The record of a deferred write (R363). -/
def State.deferRec (s : State) (k : Store) : State := s.raise { recDev sevDef 0x9B with resClass := 14, resIndex := 2, detail := storeRow k }

/-- What flash holds once a store is written (Table 16-5). -/
def State.flash (s : State) (k : Store) : State := match k with
  | .faultHistory => s.modHub fun h => { h with history := h.history ++ h.heldHist, heldHist := [] }
  | .repairLog => s.modScrub fun x => { x with logRemaps := x.remaps.map fun t => t.filter (·.st != 1), logRows := x.rows }
  | .wear => s.modPower fun w => { w with flashHours := w.hours }
  | .counters => s
  | .lifecycle => s

/-- A store is written, or its write deferred and retried (R314, R320, R363). -/
def State.persist (s : State) (k : Store) : State :=
  if s.canStore k then (s.flash k).modPower fun w => { w with deferred := w.deferred.filter (· != k) }
  else if s.power.deferred.contains k then s
  else (s.modPower fun w => { w with deferred := w.deferred ++ [k] }).deferRec k

/-- Deferred writes tried again, in the order of Table 16-5 (R363, R365). -/
def State.retryStores (s : State) : State :=
  s.each ([Store.faultHistory, .repairLog, .wear].filter fun k => s.power.deferred.contains k && s.canStore k) fun s k => s.persist k

/-! ## Remap and row log (R313-R315) -/

/-- Ticks of 24 hours. -/
def dayTicks : Nat := ticksSec 86400

/-- A physical page of a crucible die is due for a remap: its entry goes to pending, and the spare page starts with no errors (R313). -/
def State.remap (s : State) (die page : Nat) : State :=
  let t := s.scrub.remaps.getD die []
  if t.any (fun r => r.page == page && r.st == 1) then s
  else if s.scrub.freeEnts.getD die 0 = 0 then
    if s.scrub.full.getD die false then s
    else (s.modScrub fun x => { x with full := updAt x.full die fun _ => true }).raise
      { recDev sevDef 0x08 with resClass := 3, resIndex := die, addr := s.global page }
  else
    s.modScrub fun x => { x with
      ceLines := x.ceLines.filter fun y => y.1 / 64 != page / 4096
      remaps := updAt x.remaps die fun t => t.map (fun r => if r.page == page && r.st == 2 then { r with st := 3 } else r) ++ [⟨page, t.length, 1⟩]
      freeEnts := updAt x.freeEnts die (· - 1) }

/-- An HBM row is logged for repair at the next reset (R315); a row is named by its 4 KiB page (log entry 10). -/
def State.logRow (s : State) (row : Nat) : State :=
  if s.scrub.rows.contains row then s else (s.modScrub fun x => { x with rows := x.rows ++ [row] }).persist .repairLog

/-- The repair that a page's errors call for. -/
def State.repair (s : State) (la : Nat) : State := if la / 2 ^ 41 = 0 then s.logRow (la / 4096) else s.remap (s.cruDieOf la) (la / 4096 * 4096)

/-- The partition charged for a memory line. -/
def State.lineOwner (s : State) (la : Nat) : Nat := (byteOwner s.nparts (la / 2 ^ 41) (la % 2 ^ 41)).getD 0

/-- A record about a memory line (R14, Table 14-7). -/
def State.memRec (s : State) (la sev code : Nat) : FaultRec :=
  let c := if la / 2 ^ 41 = 0 then (1, s.stackOf la) else (2, s.packOf la)
  { recPart (s.lineOwner la) sev code with resClass := c.1, resIndex := c.2, addr := s.global (la / 64 * 64) }

/-- Does a line's row of HBM or page of the crucible meet the correctable-error trigger: two distinct lines within a day (R315), or of a page 8 errors
on one line (R313)? -/
def ceTrigger (l : List (Nat × Nat)) (now line : Nat) : Bool :=
  let here := (l.filter fun x => x.1 / 64 == line / 64 && now < x.2 + dayTicks).map (·.1)
  2 ≤ here.eraseDups.length || (line * 64 / 2 ^ 41 != 0 && 8 ≤ (here.filter (· == line)).length)

/-- A read corrects a line (R304, R312, R313): a CE record, a write-back to come, and one error more in the day's count. A
correction before the write-back is no further error. `rewritten` says that the corrector rewrites the line at once (R311). -/
def State.memCorrected (s : State) (la : Nat) (rewritten : Bool) : State :=
  let line := la / 64
  let s := s.raiseMem (s.memRec la sevCE 0x01)
  if s.scrub.wbacks.contains line then s
  else
    let s := s.modScrub fun x => { x with ceLines := x.ceLines.filter (fun y => s.tick < y.2 + dayTicks) ++ [(line, s.tick)], wbacks := if rewritten then x.wbacks else x.wbacks ++ [line] }
    if ceTrigger s.scrub.ceLines s.tick line then s.repair la else s

/-- A read finds a line uncorrectable: it is rewritten marked with the bytes stored, recorded and due for repair, also where it carried a mark before
(R305, R307, R313, R315). A line that merely carries its mark reads without an error. -/
def State.memUncorrectable (s : State) (la code : Nat) : State :=
  (({ s with marks := setIns (la / 64) s.marks } : State).raiseMem (s.memRec la sevDef code)).repair la

/-- A word of hearth SRAM read with an error (Table 14-1); slag copies that disagree read as marked (R306). -/
def State.sramRead (s : State) (la : Nat) (ecc : Ecc) : State :=
  let off := la % 2 ^ 41
  let h := off / sramBytes
  let r := { recHearth (hearthPart s.nparts h) h sevCE 0x03 with addr := s.global (la / 8 * 8) }
  match ecc with
  | .clean => s
  | .corrected => s.raiseMem r
  | .uncorrectable =>
    if s.wmarks.contains (la / 8) then s
    else { s with wmarks := setIns (la / 8) s.wmarks }.raiseMem { r with sev := sevDef, code := 0x04 }
  | .split => { s with wmarks := setIns (la / 8) s.wmarks }.raiseMem r

/-- A piece that reads a line which carries a mark: one record, naming the engine (R157, log entry 19). -/
def State.markedPiece (s : State) (p cls idx g : Nat) : State :=
  s.raise { recPart p sevDef (Config.faultCode 157) with resClass := cls, resIndex := idx, addr := g }

/-- What reading the line or word at a local address finds: a line corrected before is corrected at every read until its write-back (R312). A line of
HBM or the crucible has no slag copies to disagree. -/
def State.readEcc (s : State) (la : Nat) (ecc : Ecc) : State :=
  if la / 2 ^ 41 = 3 then s.sramRead la ecc
  else match (if ecc = .clean ∧ s.scrub.wbacks.contains (la / 64) then .corrected else ecc) with
    | .clean => s
    | .split => s
    | .corrected => s.memCorrected la false
    | .uncorrectable => s.memUncorrectable la 0x02

/-- Does a 64-byte line lie in one of these ranges, each a local address and a number of bytes? -/
def lineIn (rs : List (Nat × Nat)) (l : Nat) : Bool := rs.any fun r => r.2 != 0 && r.1 / 64 ≤ l && l ≤ (r.1 + r.2 - 1) / 64

/-- The errors that a command's reads of these ranges meet: a line corrected before whose write-back is still to come is corrected again, then the
lines newly corrected, then the uncorrectable ones (R304, R305, R307, R312). -/
def State.meet (s : State) (rs : List (Nat × Nat)) (e : Found) : State :=
  let bad := e.bad.eraseDups.filter (lineIn rs)
  let again := s.scrub.wbacks.filter fun l => lineIn rs l && !bad.contains l
  let fixed := e.fixed.eraseDups.filter fun l => lineIn rs l && !bad.contains l && !again.contains l
  (s.each (again ++ fixed) fun s l => s.readEcc (64 * l) .corrected).each bad fun s l => s.readEcc (64 * l) .uncorrectable

end Sys2Proof.Machine
end

