-- ==== Sys2Proof/Machine/Reach.lean ====
section
/-! DEFINITION. What of its memory a partition's units may reach: lent ranges and the homes of the spill arena (R151, R152). -/

namespace Sys2Proof.Machine

/-! ## `SPILL_ARENA` and `SPILL_LEND` (Tables 07-5, 07-6) -/

def saList (a : Nat) : Nat := bits a 255 192
def saPool0 (a : Nat) : Nat := bits a 191 172
def saPool (a : Nat) : Nat := bits a 171 152
def saHome0 (a : Nat) : Nat := bits a 151 131
def saHomes (a : Nat) : Nat := bits a 130 110
def saLends (a : Nat) : Nat := bits a 109 102
def saXts (a : Nat) : Bool := bit a 101
def saKey (a : Nat) : Nat := bits a 100 92
def saKeyAlt (a : Nat) : Nat := bits a 91 83
def slBase (l : Nat) : Nat := bits l 127 64
def slFrames (l : Nat) : Nat := bits l 63 44
def slMod (l : Nat) : Nat := bits l 43 24
def slPart (l : Nat) : Nat := bits l 23 22
def slLent (l : Nat) : Bool := bit l 21

def frameBytes : Nat := 0x200000

/-- Does a lend range meet the global range `[g, g + n)`? -/
def slMeets (l g n : Nat) : Bool := slBase l < g + n && g < slBase l + slFrames l * frameBytes

/-- Does it hold all of the range? -/
def slHolds (l g n : Nat) : Bool := slBase l ≤ g && g + n ≤ slBase l + slFrames l * frameBytes

/-- The role-1 entry of partition `p` that a range of its memory meets (R152). -/
def State.lentAt (s : State) (p g n : Nat) : Option Nat := ((s.part p).job.map (·.lends)).getD [] |>.find? fun l => slLent l && slMeets l g n

/-- The homes of an arena as global ranges, start and end: those of the partition's own crucible, and the ranges it borrows (R151). -/
def State.homeRanges (s : State) (p : Nat) : List (Nat × Nat) :=
  match (s.part p).job with
  | some j => match j.arena with
    | some a =>
      (s.global (2 ^ 41 + saHome0 a * frameBytes), s.global (2 ^ 41 + (saHome0 a + saHomes a) * frameBytes)) ::
        (j.lends.filter fun l => !slLent l).map fun l => (slBase l, slBase l + slFrames l * frameBytes)
    | none => []
  | none => []

/-- The end of the run of ranges, joined where they adjoin, that holds an address; the address where none does. -/
def runEnd (l : List (Nat × Nat)) : Nat → Nat → Nat
  | 0, a => a
  | f + 1, a => match l.find? fun r => r.1 ≤ a && a < r.2 with
    | some r => runEnd l f r.2
    | none => a

/-- Does a range meet an arena home (R151)? -/
def State.arenaMeets (s : State) (p g n : Nat) : Bool := (s.homeRanges p).any fun r => r.1 < g + n && g < r.2

/-- Is every byte of a range an arena address? -/
def State.arenaHolds (s : State) (p g n : Nat) : Bool := let l := s.homeRanges p; g + n ≤ runEnd l l.length g

/-- A range of the partition's own memory that its units other than the tongs may reach: neither lent nor arena (R151, R152). -/
def State.reach (s : State) (p g n : Nat) (spaces : List Nat) : Bool :=
  s.ownRange p g n spaces && (s.lentAt p g n).isNone && !s.arenaMeets p g n

end Sys2Proof.Machine
end

