-- ==== Sys2Proof/WellFormed.lean ====
section
/-! DEFINITION. Well-formed commands: every operand that names a unit names one that the manual gives the module
(Tables 01-1, 01-6; R60, R144, R166, R211, R216, R272, R281, R332, R347). -/

namespace Sys2Proof

def okMbx (m : Nat) : Bool := m < 64
def okPart (p : Nat) : Bool := p < 4
def okHearth (h : Nat) : Bool := h < 256
def okTongs (e : Nat) : Bool := e < 22
def okUnit (u : Nat) : Bool := u < 8
def okQp (q : Nat) : Bool := q < 64
def okStream (k : Nat) : Bool := k < 5
def okCore (c : Nat) : Bool := c < 16
def okSlot (k : Nat) : Bool := k < 512
def okPort (q : Nat) : Bool := q < 8
def okSub (k : Nat) : Bool := k < 8
def okBellows (b : Nat) : Bool := b < 4
def okCru (c : Nat) : Bool := c < 2
/-- The three filtered pins: 0 PWR_EN, 1 RESET_N, 2 HALT_N (R377). -/
def okPin (k : Nat) : Bool := k < 3
/-- Dies with a rail group of their own: 16 forge, 16 base, 4 bellows, 2 crucible, the smith and the cipher die (R366). -/
def okRail (d : Nat) : Bool := d < 40
/-- PHYs with a PLL: 4 bellows dies, 2 crucible dies, 16 HBM base dies (R369). -/
def okPhy (k : Nat) : Bool := k < 22
def okScrub (cru : Bool) (k : Nat) : Bool := if cru then k < 2 else k < 16
def okSelf (hearth : Bool) (k : Nat) : Bool := if hearth then k < 256 else k < 16

def Via.ok : Via → Bool
  | .sideband => true
  | .mailbox m => m < 4

def SramErr.ok : SramErr → Bool
  | .routing p _ => okPart p
  | .pyro p _ _ => okPart p
  | .counter k => okSlot k

def Ctl.ok : Ctl → Bool
  | .hearth h => okHearth h
  | .temper h => okHearth h
  | .temperProgram h _ => okHearth h
  | .pyro p => okPart p
  | .tongs e => okTongs e
  | .arena p => okPart p
  | .crucibleDie c => okCru c
  | .coll b => okBellows b
  | .bellows b => okBellows b
  | .outer b => okBellows b
  | .cipherReq p => okPart p
  | .cipherSched => true
  | .link p k => okPart p && k < 64
  | .linkShared k => k < 64
  | .smithMem _ => true

/-- Is every unit that the command names one the module can have? -/
def Instr.wf : Instr → Bool
  | .mbxOwnWrite qp m _ => okQp qp.of && okMbx m
  | .registerWrite qp _ _ => okQp qp.of
  | .apertureWrite qp p _ _ => okQp qp.of && okPart p
  | .unitQuery m => okMbx m
  | .idAssign m => okMbx m
  | .partCreate m => okMbx m
  | .scrubConfig m => okMbx m
  | .jobLoad m => okMbx m
  | .jobStart m => okMbx m
  | .jobStop m => okMbx m
  | .accSet m => okMbx m
  | .inputPost m => okMbx m
  | .apertureSet m => okMbx m
  | .memSend m => okMbx m
  | .jobUnload m => okMbx m
  | .portConfig m => okMbx m
  | .hostTarget m => okMbx m
  | .routeLoad m => okMbx m
  | .spareAssume m => okMbx m
  | .roundConfig m => okMbx m
  | .layoutSet m => okMbx m
  | .layoutSetForced m => okMbx m
  | .ingotEmit m => okMbx m
  | .keyInstall m => okMbx m
  | .keyZero m => okMbx m
  | .keyStatus m => okMbx m
  | .keyOffer m => okMbx m
  | .keyWrap m => okMbx m
  | .keyUnwrap m => okMbx m
  | .spdmMsg m => okMbx m
  | .fwStage m => okMbx m
  | .fwCommit m => okMbx m
  | .lcAdvance m => okMbx m
  | .debugNonce m => okMbx m
  | .debugEnter m => okMbx m
  | .debugExit m => okMbx m
  | .telemConfig m => okMbx m
  | .faultAck m => okMbx m
  | .powerCap m => okMbx m
  | .powerState m => okMbx m
  | .ctrlNop p _ => okPart p
  | .loopBegin p _ => okPart p
  | .loopEnd p _ => okPart p
  | .groupBegin p _ => okPart p
  | .blockEnd p _ => okPart p
  | .readyBlockSelect p _ => okPart p
  | .passEnd p _ => okPart p
  | .stepEnd p _ => okPart p
  | .hearthPass p _ => okPart p
  | .temperRunInsn p _ => okPart p
  | .copy p _ => okPart p
  | .tongsGather p _ => okPart p
  | .fill p _ => okPart p
  | .prefetch p _ => okPart p
  | .evict p _ => okPart p
  | .reduce p _ => okPart p
  | .collGather p _ => okPart p
  | .collFlag p _ => okPart p
  | .commit p _ => okPart p
  | .push p _ => okPart p
  | .pop p _ => okPart p
  | .release p _ => okPart p
  | .track p _ => okPart p
  | .sample p _ => okPart p
  | .scaleFlag p _ => okPart p
  | .hearthPassDone p _ _ => okPart p
  | .temperLaunchDone p _ _ => okPart p
  | .tongsDone p _ _ => okPart p
  | .collDone p _ _ => okPart p
  | .pushDone p _ _ => okPart p
  | .streamHang p _ => okPart p
  | .stepBoundary p => okPart p
  | .imageRefreshDone p => okPart p
  | .anchorTimeout p => okPart p
  | .outerBoundaryWorkDone p => okPart p.of
  | .heldStepStart p => okPart p
  | .drainTimeout p => okPart p
  | .passAccept h _ _ _ _ => okHearth h
  | .billetTransfer h => okHearth h
  | .billetStall h => okHearth h
  | .temperProgramLoad h _ => okHearth h
  | .temperInputLoad h _ _ _ _ => okHearth h
  | .temperRun h _ _ _ => okHearth h
  | .temperStarve h _ => okHearth h
  | .tongsPiece e p _ => okTongs e && okPart p
  | .backgroundPieceFeed p _ _ => okPart p
  | .arenaFill p home => okPart p && (home.bad ++ home.fixed).all (· < 32768)
  | .arenaWriteback p => okPart p.of && (p.bad ++ p.fixed).all (· < 32768)
  | .arenaStall p => okPart p
  | .arenaLendTimeout p => okPart p
  | .pairingConfirm _ _ => true
  | .actqCredit _ _ _ => true
  | .actqFullNotice _ _ _ => true
  | .commitOpen u => okUnit u.of
  | .commitDecision u => okUnit u
  | .commitComplete u => okUnit u
  | .updateUnitRetired u => okUnit u
  | .stepFlagTaken p => okPart p
  | .reduceRelease p => okPart p.of
  | .samplePositionCheck p => okPart p.of
  | .contrib _ _ _ => true
  | .directStageTimeout p _ => okPart p
  | .result _ => true
  | .gatherSegment _ => true
  | .stat _ => true
  | .flagSegment _ => true
  | .flagRootTimeout p _ => okPart p
  | .decide _ => true
  | .decideTimeout p => okPart p
  | .abort _ => true
  | .barrier _ => true
  | .barrierAnswer _ => true
  | .groupCfg p _ => okPart p
  | .htWrite _ _ _ => true
  | .readReq _ => true
  | .readResp _ => true
  | .fetchAdd _ => true
  | .cmpSwap _ => true
  | .swap _ => true
  | .atomicResp _ => true
  | .htAck _ => true
  | .htAckTimer p _ _ => okPart p
  | .request _ => true
  | .grant _ => true
  | .returnGrant _ => true
  | .grantIdleTimeout p _ _ => okPart p
  | .packetTimeout p _ _ _ => okPart p
  | .heartbeatTimer p => okPart p
  | .heartbeat _ => true
  | .planeDown p _ _ => okPart p
  | .peerLost p _ => okPart p
  | .isolationTimeout p => okPart p
  | .loss _ _ => true
  | .rollback _ _ _ => true
  | .fence _ => true
  | .announce _ _ => true
  | .routeUpd _ _ _ _ _ => true
  | .routeAck _ => true
  | .resume _ => true
  | .lossHold p => okPart p
  | .linkDown port sub => okPort port && okSub sub
  | .linkUp port sub => okPort port && okSub sub
  | .linkHoldExpiry port sub => okPort port && okSub sub
  | .hostCmRequest qp source _ => okQp qp.of && source.port < 8
  | .hostRdmaWrite qp _ _ => okQp qp.of
  | .hostRdmaRead qp _ _ => okQp qp.of
  | .hostInvalidRequest qp => okQp qp.of
  | .cnp qp => okQp qp.of
  | .hostCeMark qp => okQp qp.of
  | .hostRateRecover qp => okQp qp
  | .hostWriteFail qp => okQp qp
  | .outerSend p _ _ _ => okPart p
  | .outerDataSegment _ => true
  | .outerAck _ => true
  | .probe _ => true
  | .hello _ => true
  | .outerAckTimer p _ _ _ => okPart p
  | .reorderLoss p _ _ _ _ => okPart p
  | .outerRtoExpiry p _ _ _ _ => okPart p
  | .helloTimer p _ _ => okPart p
  | .graceWindowClose p _ => okPart p
  | .roundWordAdd p _ => okPart p
  | .roundWordPoll p => okPart p
  | .roundHold p => okPart p
  | .gcmSeal _ => true
  | .gcmOpen _ => true
  | .xtsEncrypt _ => true
  | .xtsDecrypt _ => true
  | .cipherRequestStart p => okPart p
  | .cipherRequestDone core _ => okCore core
  | .cipherPromote p => okPart p
  | .keyFault slot _ => okSlot slot
  | .keyOfferExpiry p _ => okPart p
  | .getVersion via _ => Via.ok via
  | .getCapabilities via _ => Via.ok via
  | .negotiateAlgorithms via _ => Via.ok via
  | .getDigests via _ => Via.ok via
  | .getCertificate via _ => Via.ok via
  | .challenge via _ => Via.ok via
  | .getMeasurements via _ => Via.ok via
  | .keyExchange via _ => Via.ok via
  | .finish via _ => Via.ok via
  | .spdmHeartbeat via _ => Via.ok via
  | .endSession via _ => Via.ok via
  | .spdmUnsupportedRequest via _ => Via.ok via
  | .setEndpointId _ => true
  | .setTid _ => true
  | .getPdr _ => true
  | .getSensorReading _ => true
  | .getStateSensorReadings _ => true
  | .setNumericEffecterValue _ _ => true
  | .getNumericEffecterValue _ => true
  | .setStateEffecterStates _ _ => true
  | .getStateEffecterStates _ => true
  | .pldmFirmwareUpdate _ _ _ _ => true
  | .setNetId _ _ _ => true
  | .setHostAllow _ => true
  | .pldmUnsupportedCmd _ => true
  | .booksRestored p => okPart p
  | .discardTimeout p => okPart p
  | .controlParity c => Ctl.ok c
  | .scrubRead cru unit _ => okScrub cru unit
  | .localScrub found => found.all SramErr.ok
  | .correctedWriteback _ => true
  | .telemBatch stream => okStream stream
  | .capTick _ => true
  | .thermalTick _ => true
  | .clockCheck _ _ _ => true
  | .phyPll unit => okPhy unit
  | .phyPllRelock die _ => okBellows die
  | .slotIdLatch _ => true
  | .halt p => okPart p
  | .inputUnstable pin => okPin pin
  | .inputUnstableRelease pin _ => okPin pin
  | .inputBandChange _ => true
  | .regulator die => okRail die
  | .holdupMeasure _ _ => true
  | .hostTransferAck p _ => p < 5
  | .hostRetransmit qp => okQp qp
  | .remapDone die _ => okCru die
  | .selftestDone hearth unit _ => okSelf hearth unit
  | .neighborSolicitation port sub _ => okPort port && okSub sub.of
  | .routerAdvertisement port sub _ => okPort port && okSub sub.of
  | .pauseFrame port sub => okPort port && okSub sub
  | .i3cDynamicAddress _ => true
  | .inBandInterruptEnable _ => true
  | .jtagInstruction _ => true
  | .strapChange _ => true
  | .debugNonceExpiry => true
  | .debugFillDone => true
  | .getEndpointId => true
  | .getEndpointUuid => true
  | .getMctpVersionSupport => true
  | .getMessageTypeSupport => true
  | .getTid => true
  | .getPldmVersion => true
  | .getPldmTypes => true
  | .getPldmCommands => true
  | .getPdrRepositoryInfo => true
  | .getFruRecordTableMetadata => true
  | .getFruRecordTable => true
  | .activateFirmware => true
  | .getNetId => true
  | .getHostAllow => true
  | .faultRecord => true
  | .faultDispatch => true
  | .bookAudit => true
  | .countRec => true
  | .powerRec => true
  | .thermalTrip => true
  | .watchdogExpiry => true
  | .standbyUp => true
  | .pwrEnAssert => true
  | .pwrEnDeassert => true
  | .resetNAssert => true
  | .resetNDeassert => true
  | .haltNAssert => true
  | .haltNDeassert => true
  | .breakerOpen => true
  | .pstoreRetry => true
  | .wearCounterWrite => true
  | .idleEntry => true
  | .powerTransitionDone => true

end Sys2Proof
end

