-- ==== Sys2Proof/Machine/CipherUnit.lean ====
section
/-! DEFINITION. The cipher engine: requests, scheduling, key slots and their use (chapter 12). -/

namespace Sys2Proof.Machine

/-! ## Key slots (Table 12-6) -/

def swState (w : Nat) : Nat := bits w 47 45
def swMode (w : Nat) : Nat := bits w 44 43
def swDir (w : Nat) : Nat := bits w 42 41
def swPair (w : Nat) : Nat := bits w 40 32
def swEpoch (w : Nat) : Nat := bits w 31 0
/-- The state word with its state changed. -/
def swWith (w st : Nat) : Nat := pack [(3, st), (2, swMode w), (2, swDir w), (9, swPair w), (32, swEpoch w)]

/-- The voted state word; a slot whose copies all differ reads FAULTED (R281, R286). -/
def Slot.word (k : Slot) : Nat := match vote3 k.words with
  | some (w, _) => w
  | none => 4 <<< 45

def Slot.state (k : Slot) : Nat := swState k.word
def Slot.setState (k : Slot) (st : Nat) : Slot := { k with words := copies3 (swWith k.word st) }
def Slot.remaining (k : Slot) : Nat := k.limit - k.used

/-- A slot zeroised: EMPTY, every key bit and counter zero (R287). -/
def Slot.zeroised : Slot := {}

/-- A slot that faulted: zeroised and FAULTED (R286). -/
def Slot.faulted : Slot := { Slot.zeroised with words := copies3 (4 <<< 45) }

def Cipher.modSlot (c : Cipher) (k : Nat) (f : Slot → Slot) : Cipher := { c with slots := updAt c.slots k f }

/-- `KEY_SLOT_INFO` of a slot. -/
def Slot.info (k : Slot) : Nat := pack [(48, k.word), (16, 0), (48, k.used), (48, k.limit), (64, k.sendCtr), (32, 0)]

/-- Use of the smallest request of a slot's mode (R281). -/
def Slot.unitUse (k : Slot) : Nat := if swMode k.word = 0 then 2 else 1

/-- Use charged at a first start; a slot left with less than a one-block request's use is EXHAUSTED (R281). -/
def Slot.charge (k : Slot) (use : Nat) : Slot :=
  let k := { k with used := k.used + use }
  if k.remaining < k.unitUse then k.setState 3 else k

/-- Does a slot hold a key? -/
def Slot.keyed (k : Slot) : Bool := k.state == 1 || k.state == 2 || k.state == 3

/-- The partner of a slot: the one that its key's install named, or, of a slot that holds no key, the slot whose key's install named
it (DEDUCED, log entry 113). -/
def Cipher.partner (c : Cipher) (k : Nat) : Nat :=
  let a := c.slots.getD k {}
  if a.keyed then swPair a.word
  else ((List.range 512).find? fun q => q != k && (c.slots.getD q {}).keyed && swPair (c.slots.getD q {}).word == k).getD k

/-- The current slot of a pair: the ACTIVE one with the higher epoch (R275, R283). -/
def Cipher.current (c : Cipher) (k : Nat) : Option Nat :=
  let a := c.slots.getD k {}
  let q := c.partner k
  let b := c.slots.getD q {}
  if a.state = 1 ∧ (b.state ≠ 1 ∨ swEpoch b.word ≤ swEpoch a.word) then some k else if b.state = 1 then some q else none

/-- Does a send pair stop: the key of its newest epoch is EXHAUSTED, or a slot of it is FAULTED, until one is installed again (R248, R282,
R286)? -/
def Cipher.stopped (c : Cipher) (k : Nat) : Bool :=
  let a := c.slots.getD k {}
  let b := c.slots.getD (c.partner k) {}
  a.state == 4 || b.state == 4 ||
    (if a.keyed && (!b.keyed || swEpoch b.word ≤ swEpoch a.word) then a.state == 3 else b.state == 3)

/-- The 32 bytes of a GCM key, and the 64 of an XTS key. -/
def Slot.gcmKey (k : Slot) : List Byte := leBytes 32 k.key
def Slot.xtsKey (k : Slot) : List Byte := leBytes 64 k.key

/-- The IV of R246: module, partition and epoch, then the counter, most significant first. -/
def gcmIv (m p epoch ctr : Nat) : List Byte := beBytes 12 (pack [(20, m), (2, p), (10, epoch), (64, ctr)])

/-! ## `CIPHER_REQ` (Table 12-2) -/

def cqSrc (r : Nat) : Nat := bits r 511 448
def cqDst (r : Nat) : Nat := bits r 447 384
def cqAad (r : Nat) : Nat := bits r 383 320
def cqTag (r : Nat) : Nat := bits r 319 256
def cqIv (r : Nat) : Nat := bits r 255 128
def cqLen (r : Nat) : Nat := bits r 127 112
def cqAadLen (r : Nat) : Nat := bits r 111 104
def cqSlot (r : Nat) : Nat := bits r 103 95
def cqOp (r : Nat) : Nat := bits r 94 92
def cqClass (r : Nat) : Nat := bits r 91 90
def cqPart (r : Nat) : Nat := bits r 89 88
def cqReq (r : Nat) : Nat := bits r 87 86
def cqId (r : Nat) : Nat := bits r 85 70
def cqIns (r : Nat) : Nat := bits r 69 59
def cqCur (r : Nat) : Bool := bit r 58

/-- Use of a request in units (R281). -/
def cqUse (r : Nat) : Nat := ceilDiv (cqLen r) 16 + (if cqOp r ≤ 1 then 1 else 0)

/-- Does a held slot's mode and direction match an op? An EMPTY slot holds none (R273, Table 12-3). -/
def Slot.fits (k : Slot) (op : Nat) : Bool :=
  k.state == 0 || k.state == 4 || (swMode k.word == op / 2 && (swDir k.word == op % 2 || (swDir k.word == 2 && 2 ≤ op)))

/-- The checks of R273; neither an arena address nor a range lent out is the engine's to reach (R151, R152). -/
def State.reqOk (s : State) (r : Nat) : Bool :=
  let p := cqPart r
  let op := cqOp r
  let own := fun g n => n == 0 || s.reach p g n [0, 1, 2, 3]
  op ≤ 3 && cqReq r != 3 && p < s.nparts && bits r 57 0 == 0 && slotPart s.nparts (cqSlot r) == p && (s.slot (cqSlot r)).fits op &&
  own (cqSrc r) (cqLen r) && own (cqDst r) (cqLen r) &&
  (if op ≤ 1 then own (cqAad r) (cqAadLen r) && own (cqTag r) 16
   else cqLen r % 16 == 0 && 16 ≤ cqLen r && cqLen r ≤ 4096 && cqAad r == 0 && cqTag r == 0 && cqAadLen r == 0) &&
  (if op = 0 then cqIv r == 0 && cqIns r + 96 ≤ 8 * cqAadLen r else cqIns r == 0) && (op != 1 || bits (cqIv r) 31 0 == 0)

/-- A request's completion (R276). -/
def State.finish (s : State) (r status : Nat) : State := s.modCipher fun c => { c with done := c.done ++ [(cqPart r, cqReq r, cqId r, status)] }

/-- Every request of a partition held anywhere in the scheduler. -/
def Cipher.held (c : Cipher) (p : Nat) : List CReq :=
  (c.queue ++ c.cores.flatMap fun k => k.run.toList ++ k.susp).filter fun x => cqPart x.raw == p

/-- May a requester take one more entry (R277)? -/
def Cipher.room (c : Cipher) (n p req : Nat) : Bool :=
  let l := c.held p
  let used := fun k => (l.filter fun x => cqReq x.raw == k).length
  l.length + (([0, 1, 2].filter (· != req)).map fun k => 8 - used k).sum < 128 / n

/-- A request enters the scheduler. -/
def Cipher.enter (c : Cipher) (now : Nat) (x : CReq) : Cipher :=
  { c with free := c.free - 1, queue := c.queue ++ [{ x with queued := now, seq := c.nextSeq }], nextSeq := c.nextSeq + 1 }

/-- Requests that wait in their own units enter, the oldest first, where their unit may take one more entry (R26, R277). -/
def Cipher.letIn (n now : Nat) (c : Cipher) : Cipher :=
  c.waiting.foldl (fun c x => if c.room n (cqPart x.raw) (cqReq x.raw) then c.enter now x else { c with waiting := c.waiting ++ [x] }) { c with waiting := [] }

def State.letIn (s : State) : State := s.modCipher (Cipher.letIn s.nparts s.tick)

/-- A request is submitted: refused as MALFORMED, DROPPED where its partition is being discarded, queued, or held by its unit until an entry
is free (R273, R277, R287). -/
def doSubmit (op r : Nat) (s : State) : State :=
  if cqOp r ≤ 3 ∧ cqOp r ≠ op then s
  else if !s.reqOk r then s.finish r 5
  else if (s.part (cqPart r)).fenced then s.finish r 4
  else
    let x : CReq := { raw := r, queued := s.tick, cls := cqClass r }
    if s.cipher.room s.nparts (cqPart r) (cqReq r) then s.modCipher fun c => c.enter s.tick x
    else s.modCipher fun c => { c with waiting := c.waiting ++ [x] }

def execGcmSeal (req : Nat) (s : State) : Host.Outcome State Fault Refusal := answer true (doSubmit 0 req s)
def execGcmOpen (req : Nat) (s : State) : Host.Outcome State Fault Refusal := answer true (doSubmit 1 req s)
def execXtsEncrypt (req : Nat) (s : State) : Host.Outcome State Fault Refusal := answer true (doSubmit 2 req s)
def execXtsDecrypt (req : Nat) (s : State) : Host.Outcome State Fault Refusal := answer true (doSubmit 3 req s)

/-! ## CIPHER_REQUEST_START (R274, R275, R277, R278, R281) -/

/-- Cores of a partition that are not OFFLINE. -/
def State.coresOf (s : State) (p : Nat) : List Nat :=
  (List.range 16).filter fun k => corePart s.nparts k == p && !(s.cipher.cores.getD k {}).offline && !(s.cipher.cores.getD k {}).testing

/-- Does a partition still have a core that is not retired? -/
def State.coreLeft (s : State) (p : Nat) : Bool := (List.range 16).any fun k => corePart s.nparts k == p && !(s.cipher.cores.getD k {}).offline

/-- The oldest of a list of requests with their places. -/
def oldestReq (l : List (Nat × CReq)) : Option (Nat × CReq) :=
  l.foldl (fun b y => match b with
    | none => some y
    | some x => if y.2.seq < x.2.seq then some y else some x) none

/-- The queued request that starts next: the oldest of the highest class (R277). -/
def Cipher.nextReq (c : Cipher) (p : Nat) : Option (Nat × CReq) :=
  let l := (enum c.queue).filter fun x => cqPart x.2.raw == p
  (List.range 4).findSome? fun k => oldestReq (l.filter fun x => x.2.cls == k)

def Cipher.modCore (c : Cipher) (k : Nat) (f : Core → Core) : Cipher := { c with cores := updAt c.cores k f }

/-- A queued request taken out of the queue. -/
def Cipher.unqueue (c : Cipher) (i : Nat) : Cipher := { c with queue := c.queue.eraseIdx i }

/-- The outcome of binding a slot and charging the use: a status other than DONE, or the bound request (R274, R275, R281). -/
def Cipher.bind (c : Cipher) (x : CReq) : Nat ⊕ (Cipher × CReq) :=
  match x.slot with
  | some _ => .inr (c, x)
  | none =>
    match (if cqCur x.raw then c.current (cqSlot x.raw) else some (cqSlot x.raw)) with
    | none => .inl 3
    | some k =>
      let a := c.slots.getD k {}
      if a.state = 3 then .inl 2
      else if !(a.state = 1 ∨ (a.state = 2 ∧ cqOp x.raw = 1)) then .inl 3
      else if a.remaining < cqUse x.raw then .inl 2
      else
        let isSeal := cqOp x.raw = 0
        .inr (c.modSlot k fun a => { a.charge (cqUse x.raw) with sendCtr := if isSeal then (a.sendCtr + 1) % 2 ^ 64 else a.sendCtr },
          { x with slot := some k, ctr := if isSeal then some a.sendCtr else none })

/-- Data blocks that a running request has taken in at a tick: the engine starts in 24 cycles of 1.125 GHz, then takes the AAD once and one
block per cycle (Table 12-1; DEDUCED, log entry 114). Blocks in the pipelines finish (R278). -/
def CReq.taken (x : CReq) (now : Nat) : Nat :=
  let head := 24 + (if cqOp x.raw ≤ 1 ∧ x.done = 0 then ceilDiv (cqAadLen x.raw) 16 else 0)
  min (ceilDiv (cqLen x.raw) 16) (x.done + (45 * (now - x.started) / 4 - head))

/-- When every core of the partition runs a request of a class above `cls`, the core whose request a ready one suspends: the
lowest priority, the oldest first; one with fewer than 64 blocks left, or whose core has three suspended, is not (R278). -/
def State.victim (s : State) (p cls : Nat) : Option Nat :=
  if !(s.coresOf p).all fun k => match (s.cipher.cores.getD k {}).run with
    | some r => decide (cls < r.cls)
    | none => false then none
  else
  let l := (s.coresOf p).filterMap fun k =>
    let x := s.cipher.cores.getD k {}
    match x.run with
    | some r => if cls < r.cls ∧ x.susp.length < 3 ∧ 64 ≤ ceilDiv (cqLen r.raw) 16 - r.taken s.tick then some (k, r) else none
    | none => none
  ((List.range 4).reverse.findSome? fun c => oldestReq (l.filter fun y => y.2.cls == c)).map (·.1)

/-- A core's request suspended, with the blocks it has taken in done (R278). -/
def Core.suspend (q : Core) (now : Nat) : Core := { q with run := none, susp := q.susp ++ q.run.toList.map fun x => { x with done := x.taken now } }

/-- The suspended request that a core resumes before it starts one of class `cls`: of the highest class, none below `cls` (R278). -/
def Core.resumable (q : Core) (cls : Nat) : Option (Nat × CReq) :=
  (List.range (cls + 1)).findSome? fun c => oldestReq ((enum q.susp).filter fun y => y.2.cls == c)

/-- A core takes up one of its suspended requests. -/
def Core.resume (q : Core) (now j : Nat) (y : CReq) : Core := { q with run := some { y with started := now }, susp := q.susp.eraseIdx j }

/-- A core starts a request: a suspended one of its class or a higher one first, else the queued one (R278). -/
def State.startOn (s : State) (k i : Nat) (x : CReq) : State :=
  match (s.cipher.cores.getD k {}).resumable x.cls with
  | some (j, y) => s.modCipher fun c => c.modCore k fun q => q.resume s.tick j y
  | none =>
    match s.cipher.bind x with
    | .inl st => ((s.modCipher fun c => { c.unqueue i with free := c.free + 1 }).finish x.raw st).letIn
    | .inr (c', y) => s.modCipher fun _ => (c'.unqueue i).modCore k fun q => { q with run := some { y with started := s.tick } }

/-- The oldest request of the highest class starts on the free core of lowest index, suspending another where R278 says so; a
core with nothing queued for it resumes what it suspended. In P3 the die is power-gated (Table 16-8). -/
def doCipherRequestStart (p : Nat) (s : State) : State :=
  let free := (s.coresOf p).filter fun k => (s.cipher.cores.getD k {}).run.isNone
  if s.power.pstate = .p3 then s
  else match s.cipher.nextReq p with
  | none =>
    match free.findSome? fun k => ((s.cipher.cores.getD k {}).resumable 3).map fun y => (k, y) with
    | some (k, j, y) => s.modCipher fun c => c.modCore k fun q => q.resume s.tick j y
    | none => s
  | some (i, x) =>
    if !s.coreLeft p then ((s.modCipher fun c => { c.unqueue i with free := c.free + 1 }).finish x.raw 3).letIn
    else match free with
      | k :: _ => s.startOn k i x
      | [] =>
        match s.victim p x.cls with
        | none => s
        | some k => (s.modCipher fun c => c.modCore k fun q => q.suspend s.tick).startOn k i x

def execCipherRequestStart (p : Nat) (s : State) : Host.Outcome State Fault Refusal :=
  answer (Instr.cipherRequestStart p).wf (doCipherRequestStart p s)

/-- Class-2 requests that have waited 1 ms become class 1 (R277). -/
def doCipherPromote (p : Nat) (s : State) : State :=
  s.modCipher fun c => { c with queue := c.queue.map fun x => if cqPart x.raw == p && x.cls == 2 && ticksMs 1 ≤ s.tick - x.queued then { x with cls := 1 } else x }

def execCipherPromote (p : Nat) (s : State) : Host.Outcome State Fault Refusal :=
  answer (Instr.cipherPromote p).wf (doCipherPromote p s)

/-! ## What a request does (R274, R276) -/

/-- AAD bytes with key_epoch and send_ctr written at ins_bit (R274). -/
def insertCtr (aad : List Byte) (ins epoch ctr : Nat) : List Byte :=
  let n := leNat aad
  let hi := n >>> (ins + 96)
  leBytes aad.length (hi <<< (ins + 96) ||| (pack [(32, epoch), (64, ctr)]) <<< ins ||| n % 2 ^ ins)

/-- The request's output, and its status (Table 12-3). -/
def State.cipherWork (s : State) (x : CReq) : State × Nat :=
  let r := x.raw
  let k := s.slot (x.slot.getD (cqSlot r))
  let src := gLocal (cqSrc r)
  let dst := gLocal (cqDst r)
  let d := s.load src (cqLen r)
  let mk := s.loadMark src (cqLen r)
  let aad := s.load (gLocal (cqAad r)) (cqAadLen r)
  if k.state = 0 ∨ k.state = 4 then (s, 3)
  else if cqOp r = 0 then
    let ctr := x.ctr.getD 0
    let aad := insertCtr aad (cqIns r) (swEpoch k.word) ctr
    let (c, t) := gcmSealBytes k.gcmKey (gcmIv s.moduleId (cqPart r) (swEpoch k.word) ctr) aad d
    (((s.save (gLocal (cqAad r)) aad (s.loadMark (gLocal (cqAad r)) (cqAadLen r))).save dst c mk).save (gLocal (cqTag r)) t mk, 0)
  else if cqOp r = 1 then
    match gcmOpenBytes k.gcmKey (beBytes 12 (bits (cqIv r) 127 32)) aad d (s.load (gLocal (cqTag r)) 16) with
    | some m => (s.save dst m mk, 0)
    | none => (s, 1)
  else (s.save dst ((if cqOp r = 2 then xtsEnc else xtsDec) k.xtsKey (cqIv r) d) mk, 0)

/-- An open whose tag does not verify is counted under check 6 of R247 (Table 12-3), a segment of the outer-round engine in its
round's count of dropped segments too (Table 11-10). -/
def State.authFail (s : State) (x : CReq) : State := (s.count (.outerCheck 6)).roundCount (cqPart x.raw) rsRejected (b01 (cqReq x.raw == 0))

/-- A core finishes its request; the entry that it frees may take one that waits. -/
def State.coreDone (s : State) (k : Nat) (x : CReq) : State :=
  let (s, st) := s.cipherWork x
  let s := if st = 1 then s.authFail x else s
  ((s.modCipher fun c => { c.modCore k fun q => { q with run := none } with free := c.free + 1 }).finish x.raw st).letIn

/-- A core whose pipelines disagree is retired; its requests are redone elsewhere from their first block, each as old as it was (R279). -/
def State.retireCore (s : State) (k : Nat) : State :=
  let q := s.cipher.cores.getD k {}
  let p := corePart s.nparts k
  (s.modCipher fun c => { c.modCore k fun _ => { offline := true } with queue := c.queue ++ (q.run.toList ++ q.susp).map fun x => { x with done := 0 } }).raise
    { recPart p sevDef 0x70 with resClass := 10, resIndex := k }

/-! ## Use outside the queue: whole events of the arena and outer-round engines (log entry 11) -/

/-- Use charged to a slot for one page or segment: none where the slot cannot serve it, or no core of its partition is left (R280). -/
def State.takeUse (s : State) (k use : Nat) : Option State :=
  if s.coreLeft (slotPart s.nparts k) ∧ (s.slot k).state = 1 ∧ use ≤ (s.slot k).remaining then some (s.modCipher fun c => c.modSlot k fun a => a.charge use) else none

/-- One seal under the current slot of a pair: the header with its counter, ciphertext and tag (R274, R275). -/
def State.sealNow (s : State) (p pair ins : Nat) (aad d : List Byte) : Option (State × List Byte × List Byte × List Byte) :=
  (s.cipher.current pair).bind fun k =>
    let a := s.slot k
    (s.takeUse k (ceilDiv d.length 16 + 1)).map fun s =>
      let aad := insertCtr aad ins (swEpoch a.word) a.sendCtr
      let (c, t) := gcmSealBytes a.gcmKey (gcmIv s.moduleId p (swEpoch a.word) a.sendCtr) aad d
      (s.modCipher fun c => c.modSlot k fun a => { a with sendCtr := (a.sendCtr + 1) % 2 ^ 64 }, aad, c, t)

/-! ## Faults of the key slots (R286) -/

/-- A slot's record. -/
def slotRec (p k sev code : Nat) : FaultRec := { recPart p sev code with resClass := 11, detail := k }

/-- What an error in a slot's storage does (Table 12-9); a zeroised slot that does not read back as zero is FATAL (R287). -/
def doKeyFault (k : Nat) (e : KeyErr) (s : State) : State :=
  let p := slotPart s.nparts k
  let fault := (s.modCipher fun c => c.modSlot k fun _ => Slot.faulted).raise (slotRec p k sevDef 0x71)
  match e with
  | .keyOne => s.raiseMem (slotRec p k sevCE 0x03)
  | .wordOne => (s.modCipher fun c => c.modSlot k fun a => { a with words := copies3 a.word }).raise (slotRec p k sevCE 0x09)
  | .keyTwo => fault
  | .wordNone => fault
  | .counterTwo => fault
  | .readBack => if (s.slot k).state = 0 ∨ (s.slot k).state = 4 then s.raise (slotRec p k sevFatal (Config.faultCode 287)) else s

def execKeyFault (slot : Nat) (e : KeyErr) (s : State) : Host.Outcome State Fault Refusal :=
  answer (Instr.keyFault slot e).wf (doKeyFault slot e s)

/-! ## Discard and reset (R287, R288) -/

/-- Every request of a partition completes DROPPED, those that wait in their units too (R287). -/
def State.dropRequests (s : State) (p : Nat) : State :=
  let l := s.cipher.held p
  let w := s.cipher.waiting.filter fun x => cqPart x.raw == p
  let s := s.modCipher fun c => { c with
    waiting := c.waiting.filter fun x => cqPart x.raw != p
    queue := c.queue.filter fun x => cqPart x.raw != p
    cores := c.cores.map fun k => { k with run := k.run.filter fun x => cqPart x.raw != p, susp := k.susp.filter fun x => cqPart x.raw != p }
    free := c.free + l.length }
  s.each (l ++ w) fun s x => s.finish x.raw 4

/-- A partition's slots zeroised. -/
def State.zeroSlots (s : State) (ks : List Nat) : State := s.modCipher fun c => ks.foldl (fun c k => c.modSlot k fun _ => Slot.zeroised) c

/-- Slots of a partition. -/
def State.slotsOf (s : State) (p : Nat) : List Nat := (List.range (512 / s.nparts)).map (slotBase s.nparts p + ·)

/-- The engine after a module reset, PART.CREATE or a scheduler fault: slots EMPTY, queue and contexts empty; retired cores stay
OFFLINE until their test passes (R288). -/
def Cipher.cleared (c : Cipher) : Cipher := { cores := c.cores.map fun k => { offline := k.offline } }

/-- Request entries, free and in use, and their book (Table 14-10 row 12). -/
def Cipher.entries (c : Cipher) : Nat := c.free + c.queue.length + (c.cores.map fun k => k.run.toList.length + k.susp.length).sum
def Cipher.book (c : Cipher) : Bool := c.entries == 128

end Sys2Proof.Machine
end

