-- ==== Sys2Proof/Machine/Egress.lean ====
section
/-! DEFINITION. Ports and their sub-interfaces, the egress scheduler and the borrowed shares, and the idle tick that serves them (R26, R211,
R215, R224). -/

namespace Sys2Proof.Machine

/-! ## `PORT_CFG` (Table 10-1) -/

def pcBreakout (c : Nat) : Nat := bits c 63 62
def pcAdmin (c : Nat) : Bool := bit c 58
def pcSubEn (c : Nat) : Nat := bits c 18 11

/-- Egress shares in sixteenths of hall data, outer rounds and host path. -/
def pcShares (c : Nat) : List Nat := [bits c 57 53, bits c 52 48, bits c 47 43]

/-- DSCP of a class. -/
def pcDscp (c cls : Nat) : Nat := [bits c 42 37, bits c 36 31, bits c 30 25, bits c 24 19].getD cls 0

/-- Sub-interfaces of a breakout mode (R211). -/
def subCount (c : Nat) : Nat := if pcBreakout c = 0 then 1 else if pcBreakout c = 1 then 2 else 8

/-- Bytes that a sub-interface clocks out in one tick of the reference: 1.6 Tb/s over the sub-interfaces (R211). -/
def lineRate (c : Nat) : Nat := 2000 / subCount c

def State.modPort (s : State) (q : Nat) (f : Port → Port) : State := s.modNet fun n => { n with ports := updAt n.ports q f }
def State.port (s : State) (q : Nat) : Port := s.net.ports.getD q {}
def Port.modSub (x : Port) (k : Nat) (f : Sub → Sub) : Port := { x with subs := updAt x.subs k f }
def Port.sub (x : Port) (k : Nat) : Sub := x.subs.getD k {}

/-- Is the plane of a port locally up (R236)? -/
def Port.up (q : Port) : Bool := !q.pllLost && pcAdmin q.cfg && q.subs.any (·.up)

/-- Sixteenths of a port's egress that a partition borrows (Table 15-5). -/
def borrowOf (cfg q p : Nat) : Nat := bits cfg (16 * q + 4 * p + 3) (16 * q + 4 * p)

/-- Ports that a partition may use: owned, or borrowed (R224). -/
def State.usable (s : State) (p q : Nat) : Bool := portPart s.nparts q == p || borrowOf s.cfgWord q p != 0

/-- Planes that are usable and up for partition `p`. -/
def State.upPlanes (s : State) (p : Nat) : List Nat := (List.range 8).filter fun q => s.usable p q && (s.net.ports.getD q {}).up

/-! ## Queues -/

/-- Bytes that wait in a list of packets, and on a port. -/
def queued (l : List Egr) : Nat := (l.map (·.bytes)).sum
def Port.queued (x : Port) : Nat := (x.subs.map fun k => Machine.queued k.queue).sum + Machine.queued x.held

/-- The sub-interface that the next packet takes: in rotation over the up ones (R224); the first where none is up. -/
def Port.nextSub (x : Port) : Nat :=
  let ups := (List.range 8).filter fun k => (x.sub k).up
  ((ups.find? fun k => x.rot ≤ k).orElse fun _ => ups.head?).getD 0

/-- A packet joins the queue of its sub-interface. -/
def Port.push (x : Port) (e : Egr) : Port := x.modSub e.sub fun k => { k with queue := k.queue ++ [e] }

/-- Bytes of the token bucket of a borrowed share (DESIGN CHOICE, log entry 107). -/
def bucketBytes : Nat := 65536

/-- Has a bucket the tokens for a packet? A packet longer than the bucket waits until it is full. -/
def bucketHas (spent bytes : Nat) : Bool := spent + bytes ≤ bucketBytes || spent == 0

/-- The partition whose token bucket a packet passes: its sender, on a port of another partition (R26). -/
def State.borrower (s : State) (q : Nat) (e : Egr) : Option Nat := match e.part with
  | some p => if portPart s.nparts q = p then none else some p
  | none => none

/-- A packet passes its sender's bucket, or waits behind the sender's earlier ones (R26). -/
def Port.letIn (b : Option Nat) (e : Egr) (x : Port) : Port := match b with
  | none => x.push e
  | some p =>
    if bucketHas (x.spent.getD p 0) e.bytes && !x.held.any (fun y => y.part == some p) then ({ x with spent := updAt x.spent p (· + e.bytes) } : Port).push e
    else { x with held := x.held ++ [e] }

/-- A packet handed to a port: over its sub-interfaces in turn; one that waits for a borrowed share is counted (R26, R215, R224). -/
def State.egress (s : State) (q cls : Nat) (part : Option Nat) (bytes : Nat) (h : Heads) (x : Pkt) : State :=
  let e : Egr := { cls := cls, part := part, sub := (s.port q).nextSub, bytes := bytes, heads := h, frame := x }
  let y := ({ s.port q with rot := e.sub + 1 } : Port).letIn (s.borrower q e) e
  let t := s.modPort q fun _ => y
  if (s.port q).held.length < y.held.length then t.count .borrowWait else t

/-! ## The scheduler (R215) -/

/-- Bytes of deficit that a share of one sixteenth earns in each turn (DESIGN CHOICE, log entry 107). -/
def quantum : Nat := 1024

/-- The first packet of a class, and the queue without it. -/
def takeClass (c : Nat) : List Egr → Option (Egr × List Egr)
  | [] => none
  | e :: l => if e.cls = c then some (e, l) else (takeClass c l).map fun x => (x.1, e :: x.2)

/-- A packet of a queue sent: the line is taken for its bytes. -/
def Sub.sent (k : Sub) (e : Egr) (l : List Egr) : Sub := { k with queue := l, due := k.due + e.bytes }

/-- The turn passes to the next class, which earns its share; a class with nothing queued keeps no deficit. -/
def Sub.nextTurn (w : List Nat) (k : Sub) : Sub :=
  let t := (k.turn + 1) % 3
  { k with turn := t, deficit := updAt k.deficit t fun d => if k.queue.any (·.cls == t + 1) then d + quantum * w.getD t 0 else 0 }

/-- Deficit round robin over hall data, outer rounds and host path: the turn moves on until the class has the deficit for its first packet. -/
def Sub.robin (w : List Nat) : Nat → Sub → Option (Egr × Sub)
  | 0, _ => none
  | n + 1, k => match takeClass (k.turn + 1) k.queue with
    | some (e, l) =>
      if e.bytes ≤ k.deficit.getD k.turn 0 then some (e, { k.sent e l with deficit := updAt k.deficit k.turn fun d => d - e.bytes })
      else robin w n (k.nextTurn w)
    | none => robin w n (k.nextTurn w)

/-- Turns within which the round robin reaches a packet, where a class with a share has one. -/
def Sub.turns (k : Sub) : Nat := 3 * (queued k.queue / quantum + 2)

/-- The next packet of a sub-interface: transport control with strict priority, then the round robin; classes without a share go when no
class with a share has a packet (R215). -/
def Sub.pick (w : List Nat) (k : Sub) : Option (Egr × Sub) :=
  match takeClass 0 k.queue with
  | some (e, l) => some (e, k.sent e l)
  | none => match k.robin w k.turns with
    | some x => some x
    | none => match k.queue with
      | e :: l => some (e, k.sent e l)
      | [] => none

/-- Packets that leave while the line has room in this tick. -/
def Sub.drain (w : List Nat) (rate : Nat) : Nat → Sub → List Egr → List Egr × Sub
  | 0, k, l => (l, k)
  | n + 1, k, l =>
    if rate ≤ k.due then (l, k)
    else match k.pick w with
      | some (e, k) => drain w rate n k (l ++ [e])
      | none => (l, k)

/-- One tick of a sub-interface: what its line has clocked out, then the packets that start. -/
def Sub.tick (w : List Nat) (rate : Nat) (k : Sub) : List Egr × Sub :=
  let k := { k with due := k.due - rate }
  if k.up then k.drain w rate k.queue.length [] else ([], k)

/-- Held packets in order: each passes when its sender's bucket has the tokens and no earlier one of that sender is left. -/
def Port.release (x : Port) : Port :=
  let l := x.held
  l.foldl (fun y e => y.letIn e.part e) { x with held := [] }

/-- One tick of a port: the buckets fill, held packets pass, every sub-interface is served. -/
def Port.tick (cfg q : Nat) (x : Port) : List Out × Port :=
  let x := { x with spent := (enum x.spent).map fun (p, n) => n - lineRate 0 / 16 * borrowOf cfg q p }
  let x := if x.held.isEmpty then x else x.release
  if x.pllLost then ([], x)
  else
    let l := x.subs.map (Sub.tick (pcShares x.cfg) (lineRate x.cfg))
    let outs := (enum l).flatMap fun (k, es, _) => es.map fun e => Out.frame ⟨q, k, pcDscp x.cfg e.cls, 2, e.heads⟩ e.frame
    (outs, { x with subs := l.map (·.2) })

/-- Every port served for one tick. -/
def State.serveEgress (s : State) : State :=
  let l := (enum s.net.ports).map fun (q, x) => x.tick s.cfgWord q
  { s.modNet fun n => { n with ports := l.map (·.2) } with out := s.out ++ l.flatMap (·.1) }

/-- One tick of the reference while the root VCO is locked, in which the ports send (R215, R368; DESIGN CHOICE, log entry 4). -/
def State.clockTick (s : State) : State :=
  if !s.power.vco then s
  else
    let now := (s.tick + 1) % 2 ^ 64
    { s.serveEgress with tick := now, power := { s.power with busyTick := if s.parts.any Part.busy then now else s.power.busyTick } }

/-- Packets of sub-interfaces without a link, and of held ones bound for them, move to the sub-interfaces that have one (R224). -/
def Port.rehome (x : Port) : Port :=
  if !x.subs.any (·.up) then x
  else
    let lost := (x.subs.filter fun k => !k.up).flatMap (·.queue)
    let x := { x with subs := x.subs.map fun k => if k.up then k else { k with queue := [] } }
    let x := lost.foldl (fun y e => let k := y.nextSub; ({ y with rot := k + 1 } : Port).push { e with sub := k }) x
    { x with held := x.held.map fun e => if (x.sub e.sub).up then e else { e with sub := x.nextSub } }

/-- Is a queued packet a reliable hall packet, which its channel sends again (R223)? -/
def Egr.reliable (e : Egr) : Bool := match e.frame with
  | .hall _ k => [0, 1, 3, 6, 7, 8, 9, 0x0B].contains k.type
  | _ => false

/-- The reliable packets of sub-interface `k` taken off a port, whose channels send them again (R223). -/
def Port.strip (k : Nat) (x : Port) : Port :=
  let keep := fun (e : Egr) => !(e.sub == k && e.reliable)
  { x.modSub k (fun z => { z with queue := z.queue.filter keep }) with held := x.held.filter keep }

end Sys2Proof.Machine
end

