-- ==== Sys2Proof/Machine/Float.lean ====
section
/-! DEFINITION. Number formats, conversions and FP32 arithmetic (R57-R58, R80-R93, R129). -/

namespace Sys2Proof.Machine

/-- A value read from an encoding: NaN, an infinity, or (-1)^neg * m * 2^e exactly (R80, R81). -/
inductive Fp where
  | nan
  | inf (neg : Bool)
  | fin (neg : Bool) (m : Nat) (e : Int)
  deriving DecidableEq, Repr

/-- Which codes of a format are special (Table 04-1). -/
inductive Special where
  | ieee   -- infinities and NaNs at the top exponent
  | e4m3   -- only the all-ones mantissa of the top exponent is NaN
  | plain  -- no special code
  deriving DecidableEq, Repr

/-- One floating format of Table 04-1. -/
structure Fmt where
  eb : Nat
  mb : Nat
  bias : Nat
  sp : Special
  deriving DecidableEq, Repr

def fmtF32 : Fmt := ⟨8, 23, 127, .ieee⟩
def fmtBF16 : Fmt := ⟨8, 7, 127, .ieee⟩
def fmtFP16 : Fmt := ⟨5, 10, 15, .ieee⟩
def fmtE4M3 : Fmt := ⟨4, 3, 7, .e4m3⟩
def fmtE5M2 : Fmt := ⟨5, 2, 15, .ieee⟩
def fmtE3M2 : Fmt := ⟨3, 2, 3, .plain⟩
def fmtE2M3 : Fmt := ⟨2, 3, 1, .plain⟩
def fmtE2M1 : Fmt := ⟨2, 1, 1, .plain⟩

/-- Element format of an operand code (Table 03-5). -/
def fmtOf (code : Nat) : Fmt :=
  match code with
  | 0 => fmtE4M3 | 1 => fmtE5M2 | 2 => fmtE4M3 | 3 => fmtE5M2 | 4 => fmtE2M3
  | 5 => fmtE3M2 | 6 => fmtE2M1 | 7 => fmtBF16 | 8 => fmtFP16 | _ => fmtF32

/-- Bits of one element of an operand code (Table 03-5). -/
def fmtBits (code : Nat) : Nat :=
  match code with
  | 0 => 8 | 1 => 8 | 2 => 8 | 3 => 8 | 4 => 6 | 5 => 6 | 6 => 4 | 7 => 16 | 8 => 16 | _ => 32

/-- Is the code a microscaled format (Table 03-5)? -/
def fmtMX (code : Nat) : Bool := 2 ≤ code && code ≤ 6

/-- Magnitude code of a format's infinity slot: the first code above its largest finite value (R80). -/
def Fmt.overCode (f : Fmt) : Nat :=
  match f.sp with
  | .ieee => (2 ^ f.eb - 1) * 2 ^ f.mb
  | .e4m3 => 2 ^ (f.eb + f.mb) - 1
  | .plain => 2 ^ (f.eb + f.mb)

/-- Largest finite magnitude code (Table 04-1). -/
def Fmt.maxCode (f : Fmt) : Nat := f.overCode - 1

/-- The format's sign bit. -/
def Fmt.sign (f : Fmt) : Nat := 2 ^ (f.eb + f.mb)

/-- Canonical NaN code (Table 04-1); a format without NaN has none and its all-ones code stands. -/
def Fmt.nanCode (f : Fmt) : Nat :=
  match f.sp with
  | .ieee => f.overCode + 2 ^ (f.mb - 1)
  | .e4m3 => f.overCode
  | .plain => f.maxCode

/-- The value of an encoding (R80). -/
def Fmt.dec (f : Fmt) (c : Nat) : Fp :=
  let mag := c % f.sign
  let neg := c / f.sign % 2 = 1
  if f.sp = .ieee ∧ mag = f.overCode then .inf neg
  else if f.sp ≠ .plain ∧ f.overCode ≤ mag then .nan
  else
    let ef := mag / 2 ^ f.mb
    let mf := mag % 2 ^ f.mb
    if ef = 0 then .fin neg mf (1 - (f.bias : Int) - f.mb)
    else .fin neg (mf + 2 ^ f.mb) ((ef : Int) - f.bias - f.mb)

/-- Rounding modes of `CVT_MODE`.rnd; SR carries the 16 bits of R86 (Table 04-2, R84). -/
inductive Rnd where
  | rne
  | rtz
  | sr (r : Nat)
  deriving DecidableEq, Repr

/-- What a conversion counts: a saturation, underflow or non-finite event (R83). -/
inductive CvtEv where
  | none
  | sat
  | udf
  | nonfin
  deriving DecidableEq, Repr

/-- Does rounding raise the kept magnitude `k` whose discarded part is `rem` of `2^sh` (R83, R84)?
`sticky` says that the true value lies above what is written. -/
def roundsUp (rnd : Rnd) (k rem sh : Nat) (sticky : Bool) : Bool :=
  match rnd with
  | .rtz => false
  | .rne =>
    if sh = 0 then false
    else if 2 ^ (sh - 1) < rem then true
    else if rem = 2 ^ (sh - 1) then sticky || k % 2 = 1
    else false
  | .sr r => 65536 ≤ rem * 65536 / 2 ^ sh + r % 65536

/-- Magnitude code of m * 2^e rounded to the format's precision with no upper exponent bound (R83 steps 1, 3). -/
def Fmt.roundMag (f : Fmt) (rnd : Rnd) (m : Nat) (e : Int) (sticky : Bool) : Nat :=
  if m = 0 then 0
  else
    let low : Int := 1 - (f.bias : Int) - f.mb
    let q : Int := max ((m.log2 : Int) + e - f.mb) low
    let k0 : Nat := if q ≤ e then m * 2 ^ (e - q).toNat else m / 2 ^ (q - e).toNat
    let sh : Nat := (q - e).toNat
    let k := if roundsUp rnd k0 (m % 2 ^ sh) sh sticky then k0 + 1 else k0
    (q - low).toNat * 2 ^ f.mb + k

/-- Conversion of a finite magnitude to a code with its event (R83): `sat` is `CVT_MODE`.sat. -/
def Fmt.encFin (f : Fmt) (rnd : Rnd) (sat : Bool) (neg : Bool) (m : Nat) (e : Int) (sticky : Bool) : Nat × CvtEv :=
  let s := if neg then f.sign else 0
  let c := f.roundMag rnd m e sticky
  if f.maxCode < c then
    if sat || rnd = .rtz then (s + f.maxCode, .sat)
    else if f.sp = .e4m3 then (f.nanCode, .sat)
    else (s + f.overCode, .sat)
  else if c = 0 ∧ (m ≠ 0 ∨ sticky) then (s, .udf)
  else (s + c, .none)

/-- Conversion of any value to a code with its event (R83). -/
def Fmt.enc (f : Fmt) (rnd : Rnd) (sat : Bool) (x : Fp) : Nat × CvtEv :=
  match x with
  | .nan => (f.nanCode, .nonfin)
  | .inf neg => (if f.sp = .ieee then (if neg then f.sign else 0) + f.overCode else f.nanCode, .nonfin)
  | .fin neg m e => f.encFin rnd sat neg m e false

/-- Is the value finite? -/
def Fp.isFin : Fp → Bool
  | .fin _ _ _ => true
  | _ => false

/-- Is the value a zero? -/
def Fp.isZero : Fp → Bool
  | .fin _ 0 _ => true
  | _ => false

/-- The value with its sign changed. -/
def Fp.neg : Fp → Fp
  | .nan => .nan
  | .inf s => .inf (!s)
  | .fin s m e => .fin (!s) m e

/-- The magnitude. -/
def Fp.abs : Fp → Fp
  | .nan => .nan
  | .inf _ => .inf false
  | .fin _ m e => .fin false m e

/-- The exact product of two values (R81). -/
def Fp.mul : Fp → Fp → Fp
  | .nan, _ => .nan
  | _, .nan => .nan
  | .inf s, .inf t => .inf (s != t)
  | .inf s, .fin t m _ => if m = 0 then .nan else .inf (s != t)
  | .fin s m _, .inf t => if m = 0 then .nan else .inf (s != t)
  | .fin s m e, .fin t n f => .fin (s != t) (m * n) (e + f)

/-- A magnitude as a signed integer in units of 2^q, for q at or below its exponent. -/
def signedAt (s : Bool) (m : Nat) (e q : Int) : Int :=
  let v : Int := ((m * 2 ^ (e - q).toNat : Nat) : Int)
  if s then -v else v

/-- The exact sum of two values; an exact zero sum of opposite signs is +0 (R81). -/
def Fp.add : Fp → Fp → Fp
  | .nan, _ => .nan
  | _, .nan => .nan
  | .inf s, .inf t => if s = t then .inf s else .nan
  | .inf s, .fin _ _ _ => .inf s
  | .fin _ _ _, .inf t => .inf t
  | .fin s m e, .fin t n f =>
    if m = 0 ∧ n = 0 then .fin (s && t) 0 0
    else
      let q := min e f
      let z := signedAt s m e q + signedAt t n f q
      if z = 0 then .fin false 0 0 else .fin (z < 0) z.natAbs q

/-- a - b. -/
def Fp.sub (a b : Fp) : Fp := a.add b.neg

/-- a < b on values that are not NaN; infinities compare as usual. -/
def Fp.lt (a b : Fp) : Bool :=
  match a, b with
  | .nan, _ => false
  | _, .nan => false
  | .inf s, .inf t => s && !t
  | .inf s, .fin _ _ _ => s
  | .fin _ _ _, .inf t => !t
  | .fin s m e, .fin t n f => let q := min e f; signedAt s m e q < signedAt t n f q

/-- a ≤ b, false with a NaN. -/
def Fp.le (a b : Fp) : Bool :=
  match a, b with
  | .nan, _ => false
  | _, .nan => false
  | _, _ => !(b.lt a)

/-- Exact scaling by 2^k. -/
def Fp.scale (k : Int) : Fp → Fp
  | .fin s m e => .fin s m (e + k)
  | x => x

/-- The value of an FP32 word. -/
def f32 (w : W32) : Fp := fmtF32.dec w.toNat

/-- A value rounded once to FP32 by RNE (R81). -/
def toF32 (x : Fp) : W32 := BitVec.ofNat 32 (fmtF32.enc .rne false x).1

def f32Nan : W32 := 0x7FC00000#32
def f32Zero : W32 := 0#32
def f32One : W32 := 0x3F800000#32

/-- FP32 operations, one RNE rounding each (R92, Table 04-4). -/
def fadd (a b : W32) : W32 := toF32 ((f32 a).add (f32 b))
def fsub (a b : W32) : W32 := toF32 ((f32 a).sub (f32 b))
def fmul (a b : W32) : W32 := toF32 ((f32 a).mul (f32 b))
def ffma (a b c : W32) : W32 := toF32 (((f32 a).mul (f32 b)).add (f32 c))
def fabs (a : W32) : W32 := if f32 a = .nan then f32Nan else a &&& 0x7FFFFFFF#32
def fneg (a : W32) : W32 := if f32 a = .nan then f32Nan else a ^^^ 0x80000000#32
def fscale (k : Int) (a : W32) : W32 := toF32 ((f32 a).scale k)
def isFinite (a : W32) : Bool := (f32 a).isFin

/-- FP32 of a natural number (one RNE rounding). -/
def f32OfNat (n : Nat) : W32 := toF32 (.fin false n 0)

/-- Minimum and maximum: NaN with any NaN, -0 below +0 (R81). -/
def fmin (a b : W32) : W32 :=
  match f32 a, f32 b with
  | .nan, _ => f32Nan
  | _, .nan => f32Nan
  | x, y => if x.lt y then a else if y.lt x then b else if a.getLsbD 31 then a else b

def fmax (a b : W32) : W32 :=
  match f32 a, f32 b with
  | .nan, _ => f32Nan
  | _, .nan => f32Nan
  | x, y => if x.lt y then b else if y.lt x then a else if a.getLsbD 31 then b else a

/-- Floor square root by bits, from bit `k` down. -/
def isqrtFrom : Nat → Nat → Nat → Nat
  | 0, n, r => if (r + 1) * (r + 1) ≤ n then r + 1 else r
  | k + 1, n, r => let c := r + 2 ^ (k + 1); isqrtFrom k n (if c * c ≤ n then c else r)

/-- Floor square root. -/
def isqrt (n : Nat) : Nat := isqrtFrom (n.log2 / 2 + 1) n 0

/-- FP32 of the positive value (m + sticky) * 2^e by RNE. -/
def f32Sticky (neg : Bool) (m : Nat) (e : Int) (sticky : Bool) : W32 :=
  BitVec.ofNat 32 (fmtF32.encFin .rne false neg m e sticky).1

/-- sqrt, correctly rounded (Table 04-4). -/
def fsqrt (a : W32) : W32 :=
  match f32 a with
  | .nan => f32Nan
  | .inf s => if s then f32Nan else a
  | .fin s m e =>
    if m = 0 then a
    else if s then f32Nan
    else
      let e1 : Int := if (e - 80) % 2 = 0 then e - 80 else e - 81
      let n := m * 2 ^ (e - e1).toNat
      let r := isqrt n
      f32Sticky false r (e1 / 2) (r * r != n)

/-- 1/x, correctly rounded; rcp(±0) = ±∞ and rcp(±∞) = ±0 (Table 04-4). -/
def frcp (a : W32) : W32 :=
  match f32 a with
  | .nan => f32Nan
  | .inf s => if s then 0x80000000#32 else 0#32
  | .fin s m e =>
    if m = 0 then (if s then 0xFF800000#32 else 0x7F800000#32)
    else let n := 2 ^ 80; f32Sticky s (n / m) (-e - 80) (n % m != 0)

/-- Division, rounded once. -/
def fdiv (a b : W32) : W32 :=
  match f32 a, f32 b with
  | .nan, _ => f32Nan
  | _, .nan => f32Nan
  | .inf _, .inf _ => f32Nan
  | .inf s, .fin t _ _ => toF32 (.inf (s != t))
  | .fin s _ _, .inf t => toF32 (.fin (s != t) 0 0)
  | .fin s m e, .fin t n k =>
    if n = 0 then (if m = 0 then f32Nan else toF32 (.inf (s != t)))
    else f32Sticky (s != t) (m * 2 ^ 64 / n) (e - k - 64) (m * 2 ^ 64 % n != 0)

/-- 1/sqrt(x), correctly rounded, with the special operands of Table 04-4. -/
def frsqrt (a : W32) : W32 :=
  match f32 a with
  | .nan => f32Nan
  | .inf s => if s then f32Nan else 0#32
  | .fin s m e =>
    if m = 0 then (if s then 0xFF800000#32 else 0x7F800000#32)
    else if s then f32Nan
    else
      let m1 := if e % 2 = 0 then m else 2 * m
      let e1 : Int := if e % 2 = 0 then e else e - 1
      let q := 2 ^ 160 / m1
      let r := isqrt q
      f32Sticky false r (-80 - e1 / 2) (r * r * m1 != 2 ^ 160)

/-- Fractional bits carried by the series of EXP2 and LOG2. -/
def trPrec : Nat := 300

/-- Product over the bits of the fraction `f` (of `k` bits, most significant first) of the roots
2^(1/2), 2^(1/4), ..., in fixed point with `trPrec` fractional bits; `root` is the next root. -/
def exp2Bits : Nat → Nat → Nat → Nat → Nat
  | 0, _, _, acc => acc
  | k + 1, f, root, acc =>
    let acc' := if f.testBit k then acc * root / 2 ^ trPrec else acc
    exp2Bits k f (isqrt (root * 2 ^ trPrec)) acc'

/-- exp2, correctly rounded (Table 04-4). -/
def fexp2 (a : W32) : W32 :=
  match f32 a with
  | .nan => f32Nan
  | .inf s => if s then 0#32 else 0x7F800000#32
  | .fin s m e =>
    if (Fp.fin false 128 0).le (.fin s m e) then 0x7F800000#32
    else if (Fp.fin s m e).lt (.fin true 150 0) then 0#32
    else if m = 0 then f32One
    else
      -- x = n + fr / 2^149 with n the floor
      let x : Int := signedAt s m e (-149)
      let n : Int := x / ((2 ^ 149 : Nat) : Int)
      let fr : Nat := (x % ((2 ^ 149 : Nat) : Int)).toNat
      let v := exp2Bits 149 fr (isqrt (2 ^ (2 * trPrec + 1))) (2 ^ trPrec)
      f32Sticky false v (n - (trPrec : Int)) (fr != 0)

/-- Bits of log2 of the fixed-point value `v` in [1, 2), most significant first, by repeated squaring. -/
def log2Bits : Nat → Nat → Nat → Nat
  | 0, _, acc => acc
  | k + 1, v, acc =>
    let w := v * v / 2 ^ 600
    if 2 ^ 601 ≤ w then log2Bits k (w / 2) (2 * acc + 1) else log2Bits k w (2 * acc)

/-- log2, correctly rounded, with the special operands of Table 04-4. -/
def flog2 (a : W32) : W32 :=
  match f32 a with
  | .nan => f32Nan
  | .inf s => if s then f32Nan else a
  | .fin s m e =>
    if m = 0 then 0xFF800000#32
    else if s then f32Nan
    else
      let l := m.log2
      let x : Int := (l : Int) + e
      if m = 2 ^ l then toF32 (.fin (x < 0) x.natAbs 0)
      else
        let fr := log2Bits 200 (m * 2 ^ 600 / 2 ^ l) 0
        let z : Int := x * ((2 ^ 200 : Nat) : Int) + (fr : Int)
        if 0 ≤ z then f32Sticky false z.natAbs (-200) true
        else f32Sticky true (z.natAbs - 1) (-200) true

/-- One step of the compensated sum (R93). -/
def neuAdd (s c x : W32) : W32 × W32 :=
  let t := fadd s x
  let big := (f32 (fabs x)).le (f32 (fabs s))
  (t, if big then fadd c (fadd (fsub s t) x) else fadd c (fadd (fsub x t) s))

/-- The IEEE sum of the non-finite values of a list, as FP32 (R93). -/
def nonfinSum (l : List W32) : Option W32 :=
  match l.filter (fun w => !isFinite w) with
  | [] => none
  | x :: xs => some (xs.foldl fadd (fadd x f32Zero))

/-- A pair combined with another under step 2 of R93, non-finite pairs by their rule. -/
def pairAdd (a b : W32 × W32) : W32 × W32 :=
  match nonfinSum [a.1, a.2, b.1, b.2] with
  | some v => (v, f32Zero)
  | none =>
    let r := neuAdd a.1 (fadd a.2 b.2) b.1
    if isFinite r.1 then r else (r.1, f32Zero)

/-- A value added to a running pair; an overflow of s gives its infinity with c = +0 (R93). -/
def pairStep (p : W32 × W32) (x : W32) : W32 × W32 :=
  if !isFinite p.1 then (p.1, f32Zero)
  else
    let r := neuAdd p.1 p.2 x
    if isFinite r.1 then r else (r.1, f32Zero)

/-- One level of the balanced tree: pair 2m with pair 2m + 1. -/
def pairLevel : List (W32 × W32) → List (W32 × W32)
  | a :: b :: r => pairAdd a b :: pairLevel r
  | l => l

/-- `n` levels of the balanced tree. -/
def pairTree : Nat → List (W32 × W32) → W32 × W32
  | 0, l => l.headD (f32Zero, f32Zero)
  | n + 1, l => pairTree n (pairLevel l)

/-- The elements of a list whose index is ≡ j mod m. -/
def strided {α : Type} (m j : Nat) (l : List α) : List α :=
  ((List.range l.length).zip l).filterMap fun (i, x) => if i % m = j then some x else none

/-- The compensated sum's pair (R93): 128 lanes, then seven levels; non-finite inputs by their rule. -/
def csumPair (l : List W32) : W32 × W32 :=
  match nonfinSum l with
  | some v => (v, f32Zero)
  | none => pairTree 7 ((List.range 128).map fun j => (strided 128 j l).foldl pairStep (f32Zero, f32Zero))

/-- The compensated sum's result s + c (R93 step 3). -/
def csum (l : List W32) : W32 :=
  let p := csumPair l
  if isFinite p.1 then fadd p.1 p.2 else p.1

/-- Combination of pairs by a balanced tree padded to a power of two with (0, 0) (R199). -/
def treePairs (l : List (W32 × W32)) : W32 × W32 :=
  let lv := if l.length ≤ 1 then 0 else (l.length - 1).log2 + 1
  pairTree lv (padTo (2 ^ lv) (f32Zero, f32Zero) l)

/-- mix of R86. -/
def mix64 (z : Nat) : Nat :=
  let z := ((z ^^^ (z >>> 30)) * 0xBF58476D1CE4E5B9) % 2 ^ 64
  let z := ((z ^^^ (z >>> 27)) * 0x94D049BB133111EB) % 2 ^ 64
  z ^^^ (z >>> 31)

/-- The r of R84 for one element (R85, R86). -/
def srBits (seed tensor step occ elem : Nat) : Nat :=
  let x := (seed ^^^ ((tensor % 2 ^ 16) <<< 48) ^^^ (step % 2 ^ 48)) % 2 ^ 64
  let idx := ((occ % 2 ^ 24) <<< 40) ||| (elem % 2 ^ 40)
  mix64 ((x + (idx + 1) * 0x9E3779B97F4A7C15) % 2 ^ 64) % 65536

/-- Position of element `j` of a SAMPLE check (R138). -/
def samplePos (seed tensor step j n : Nat) : Nat :=
  let x := (((2 ^ 64 - 1) ^^^ (seed % 2 ^ 64)) ^^^ ((tensor % 2 ^ 16) <<< 48) ^^^ (step % 2 ^ 48)) % 2 ^ 64
  mix64 ((x + (j + 1) * 0x9E3779B97F4A7C15) % 2 ^ 64) % n

/-- Least k with a ≤ b * 2^k, for positive magnitudes (R129, R244; an exact integer test). -/
def leastK (m : Nat) (e : Int) (bm : Nat) (be : Int) : Int :=
  let d : Int := ((m.log2 : Int) + e) - ((bm.log2 : Int) + be)
  if (Fp.fin false m e).le (.fin false bm (be + d)) then d else d + 1

/-- Exponent of the element format's largest normal and its largest finite value (R87). -/
def mxEmax (code : Nat) : Int :=
  match code with
  | 2 => 8 | 3 => 15 | 5 => 4 | 4 => 2 | _ => 2

/-- The scale exponent X of an MX block before its clamp (R87 step 3). -/
def mxScaleExp (code : Nat) (rule1 : Bool) (m : Nat) (e : Int) : Int :=
  match (fmtOf code).dec (fmtOf code).maxCode with
  | .fin _ bm be => if rule1 then leastK m e bm be else (m.log2 : Int) + e - mxEmax code
  | _ => 0

/-- The largest magnitude of a list of finite values. -/
def amaxOf (l : List Fp) : Fp := l.foldl (fun a x => if a.lt x.abs then x.abs else a) (.fin false 0 0)

/-- An FP32 block converted to an MX block (R87): the scale byte, and each element's code and event.
`rnds` gives each element's rounding. -/
def mxBlock (code : Nat) (rule1 : Bool) (rnds : List Rnd) (xs : List Fp) : Nat × List (Nat × CvtEv) :=
  if xs.any (fun x => !x.isFin) then
    (0xFF, (List.range xs.length).map fun i => (0, if i = 0 then .nonfin else .none))
  else
    match amaxOf xs with
    | .fin _ m e =>
      if m = 0 then
        (0, xs.map fun x => match x with
          | .fin s _ _ => ((if s then (fmtOf code).sign else 0), .none)
          | _ => (0, .none))
      else
        let x0 := mxScaleExp code rule1 m e
        let x1 := max (-127) (min 127 x0)
        ((x1 + 127).toNat, (xs.zip rnds).map fun (x, r) => (fmtOf code).enc r true (x.scale (-x1)))
    | _ => (0, [])

/-- The value of an MX element under its block's scale code (R88). -/
def mxDec (code scale elem : Nat) : Fp :=
  if scale = 0xFF then .nan else ((fmtOf code).dec elem).scale ((scale : Int) - 127)

/-- AS8 quantisation under exponent e: the byte and its event (R89). -/
def as8Quant (e : Int) (x : W32) : Nat × CvtEv :=
  match f32 x with
  | .fin s m xe =>
    let q : Int := (fun (k : Nat) => if s then -(k : Int) else (k : Int))
      (let sh := (e - xe).toNat
       if e ≤ xe then m * 2 ^ (xe - e).toNat
       else if roundsUp .rne (m / 2 ^ sh) (m % 2 ^ sh) sh false then m / 2 ^ sh + 1 else m / 2 ^ sh)
    if 127 < q.natAbs then (0x80, .sat)
    else (field 8 q, if q = 0 ∧ m ≠ 0 then .udf else .none)
  | _ => (0x80, .nonfin)

/-- The value of an AS8 byte under exponent e (R89). -/
def as8Dec (e : Int) (b : Byte) : Fp := let q := sext 8 b.toNat; .fin (q < 0) q.natAbs e

/-- A value rounded by RNE to a multiple of 2^e (R193). -/
def roundToMultiple (e : Int) (x : Fp) : Fp :=
  match x with
  | .fin s m xe =>
    if e ≤ xe then .fin s m xe
    else
      let sh := (e - xe).toNat
      let k := if roundsUp .rne (m / 2 ^ sh) (m % 2 ^ sh) sh false then m / 2 ^ sh + 1 else m / 2 ^ sh
      .fin s k e
  | x => x

/-- BF16 truncation of a finite value toward zero, its subnormal range included (R57). -/
def bf16Rtz (x : Fp) : Fp := fmtBF16.dec (fmtBF16.enc .rtz true x).1

/-- The three BF16 pieces of an FP32 operand (R57). -/
def pieces (x : Fp) : Fp × Fp × Fp :=
  let hi := bf16Rtz x
  let mid := bf16Rtz (x.sub hi)
  let lo := bf16Rtz ((x.sub hi).sub mid)
  (hi, mid, lo)

/-- The FP32-class contribution of one k-step: the exact sum of eight cross products (R57, R58). -/
def f32Contrib (a b : Fp) : Fp :=
  if a.isFin && b.isFin then
    let pa := pieces a
    let pb := pieces b
    let sum := ((pa.1.mul pb.1).add (pa.1.mul pb.2.1)).add (pa.2.1.mul pb.1)
    let sum := ((sum.add (pa.1.mul pb.2.2)).add (pa.2.2.mul pb.1)).add (pa.2.1.mul pb.2.1)
    (sum.add (pa.2.1.mul pb.2.2)).add (pa.2.2.mul pb.2.1)
  else a.mul b

/-- One accumulation: the contribution added with one rounding (R58). -/
def accAdd (acc : W32) (x : Fp) : W32 := toF32 ((f32 acc).add x)

/-- FP32 to int32 by RNE with its INTCVT flag (R110). -/
def cvti (a : W32) : W32 × Bool :=
  match f32 a with
  | .nan => (0#32, true)
  | .inf s => (if s then 0x80000000#32 else 0x7FFFFFFF#32, true)
  | .fin s m e =>
    match roundToMultiple 0 (.fin s m e) with
    | .fin _ k ke =>
      let v : Int := signedAt s k ke 0
      if v < -2147483648 then (0x80000000#32, true)
      else if 2147483647 < v then (0x7FFFFFFF#32, true)
      else (BitVec.ofInt 32 v, false)
    | _ => (0#32, true)

/-- int32 to FP32 by RNE (R110). -/
def cvtf (a : W32) : W32 := let z := a.toInt; toF32 (.fin (z < 0) z.natAbs 0)

end Sys2Proof.Machine
end

