-- ==== Sys2Proof/Machine/Pyro.lean ====
section
/-! DEFINITION. Pyrometer and scale controller: sampling, counters, exponents, digests and drift (chapter 06). -/

namespace Sys2Proof.Machine

/-! ## `SCALE_TRACK` (Table 06-1) -/

def trTensor (c : Nat) : Nat := bits c 255 240
def trFmt (c : Nat) : Nat := bits c 239 236
def trDomain (c : Nat) : Nat := bits c 235 234
def trSrcA (c : Nat) : Nat := bits c 233 218
def trSrcB (c : Nat) : Nat := bits c 217 202
def trInitE (c : Nat) : Int := sext 9 (bits c 201 193)
def trHeadroom (c : Nat) : Nat := bits c 192 190
def trDownMax (c : Nat) : Nat := bits c 189 187
def trQuenchStep (c : Nat) : Nat := bits c 186 183
def trHold (c : Nat) : Nat := bits c 182 176
def trDecay (c : Nat) : W32 := BitVec.ofNat 32 (bits c 175 144)
def trSatLimit (c : Nat) : Nat := bits c 143 128
def trFlagEn (c : Nat) : Bool := bit c 127
def trReportEn (c : Nat) : Bool := bit c 126
def trFreeze (c : Nat) : Bool := bit c 125

/-- Is the format's exponent controlled (Table 06-2)? -/
def fmtControlled (f : Nat) : Bool := f == 0 || f == 1 || f == 8 || f == 15

/-- Exponent range of a format (Table 06-2). -/
def fmtLo (f : Nat) : Int := if f = 15 then -133 else if fmtControlled f then -127 else 0
def fmtHi (f : Nat) : Int := if f = 15 then 120 else if fmtControlled f then 127 else 0

/-- Largest element the controller uses (Table 06-2). -/
def fmtMaxel (f : Nat) : Nat := if f = 0 then 448 else if f = 1 then 57344 else if f = 8 then 65504 else 127

/-- Ranges of Table 06-1 and R122. -/
def trackOk (c : Nat) : Bool :=
  let f := trFmt c
  trTensor c != 0xFFFF && (f ≤ 9 || f == 15) && trDomain c != 3 && (f != 15 || trDomain c == 0) &&
  (trDomain c == 2 || (trSrcA c == 0 && trSrcB c == 0)) && (fmtLo f ≤ trInitE c && trInitE c ≤ fmtHi f) &&
  trQuenchStep c != 0 && (f32 0x3F000000#32).le (f32 (trDecay c)) && (f32 (trDecay c)).le (f32 f32One) &&
  (f != 15 || trSatLimit c == 0) && bits c 124 0 == 0

/-! ## `SCALE_HIST` (Table 06-6) -/

def histTensor (h : Nat) : Nat := bits h 127 112
def histE (h : Nat) : Int := sext 9 (bits h 79 71)

/-- A new entry: est = 0, e = init_e, hold = 0 (R140). -/
def Track.fresh (c : Nat) : Track := { cfg := c, e := trInitE c, eNext := trInitE c }

/-- The exponent brought into the range of the entry's format, 0 where it is held (Table 06-2; log entry 100). -/
def Track.inRange (t : Track) : Track :=
  let e := min (max t.e (fmtLo (trFmt t.cfg))) (fmtHi (trFmt t.cfg))
  { t with e := e, eNext := e }

/-- An entry with a supplied history; a frozen exponent stays at init_e (R140, Table 06-1). -/
def Track.withHist (t : Track) (h : Nat) : Track :=
  let e := if trFreeze t.cfg then trInitE t.cfg else min (max (histE h) (fmtLo (trFmt t.cfg))) (fmtHi (trFmt t.cfg))
  { t with e := e, eNext := e, est := BitVec.ofNat 32 (bits h 111 80), hold := bits h 70 64, quenches := bits h 63 32, clamps := bits h 31 16 }

/-- The entry's history as `SCALE_HIST`. -/
def Track.hist (t : Track) : Nat :=
  pack [(16, trTensor t.cfg), (32, t.est.toNat), (9, field 9 t.e), (7, t.hold), (32, t.quenches), (16, t.clamps), (16, 0)]

/-- Index and entry of a tensor. -/
def Pyro.find (q : Pyro) (tensor : Nat) : Option (Nat × Track) := firstWith (fun t => trTensor t.cfg == tensor) q.tracks

/-- Installed exponent of a tensor; 0 for 0xFFFF and for a tensor with no entry (Table 05-3). -/
def Pyro.expOf (q : Pyro) (tensor : Nat) : Int := match q.find tensor with
  | some (_, t) => t.e
  | none => 0

def Pyro.modTrack (q : Pyro) (i : Nat) (f : Track → Track) : Pyro := { q with tracks := updAt q.tracks i f }

/-! ## Sampling (R124, R125) -/

/-- One sampled value: the FP32 value presented, whether it or its result is ±0, its conversion event and its mark. -/
structure Samp where
  val : W32
  zero : Bool
  ev : CvtEv
  slag : Bool
  deriving DecidableEq, Repr

/-- A value counted with no conversion (a billet element). -/
def Samp.plain (v : W32) (slag : Bool) : Samp := ⟨v, (f32 v).isZero, if isFinite v then .none else .nonfin, slag⟩

/-- Exponents added to take an entry's samples into the real domain (R125). -/
def Pyro.shift (q : Pyro) (t : Track) : Int :=
  if trDomain t.cfg = 1 then t.e else if trDomain t.cfg = 2 then q.expOf (trSrcA t.cfg) + q.expOf (trSrcB t.cfg) else 0

/-- A magnitude taken into the real domain, held at the FP32 maximum (R125). One that falls below FP32's subnormal grid is rounded to nearest
even, as no rule says how amax holds it (DESIGN CHOICE, log entry 125). -/
def realMag (k : Int) (v : W32) : W32 := let r := fscale k (fabs v); if isFinite r then r else 0x7F7FFFFF#32

/-- Counters after one sample. -/
def Track.sample (k : Int) (t : Track) (x : Samp) : Track :=
  { t with
    elements := satTo 40 (t.elements + 1)
    zeros := satTo 32 (t.zeros + b01 x.zero)
    sat := satTo 32 (t.sat + b01 (x.ev == .sat))
    nonfinite := satTo 32 (t.nonfinite + b01 (x.ev == .nonfin))
    underflow := satTo 32 (t.underflow + b01 (x.ev == .udf))
    slag := satTo 32 (t.slag + b01 x.slag)
    amax := if isFinite x.val && !x.slag then fmax t.amax (realMag k x.val) else t.amax }

/-- Bits that one sample of a flag_en tensor sets in the flag word (Table 06-7). -/
def flagBits (bound : Nat) (k : Int) (x : Samp) : Nat :=
  b01 (!isFinite x.val) ||| (b01 x.slag <<< 1) |||
  (b01 (isFinite x.val && !x.slag && (Fp.fin false 1 bound).le ((f32 (fabs x.val)).scale k)) <<< 2)

/-- flag_bound_log2 in force (Table 15-7). -/
def Job.flagBound (j : Job) : Nat := if bits j.params 269 263 = 0 then 100 else bits j.params 269 263

/-- Counters of a partial added to an entry's. -/
def Track.merge (t d : Track) : Track :=
  { t with
    elements := satTo 40 (t.elements + d.elements), zeros := satTo 32 (t.zeros + d.zeros), sat := satTo 32 (t.sat + d.sat)
    nonfinite := satTo 32 (t.nonfinite + d.nonfinite), underflow := satTo 32 (t.underflow + d.underflow), slag := satTo 32 (t.slag + d.slag)
    escapes := satTo 16 (t.escapes + d.escapes), amax := fmax t.amax d.amax }

/-- A partial reaches the table. -/
def Pyro.put (q : Pyro) (d : Track) : Pyro := match q.find (trTensor d.cfg) with
  | some (i, _) => q.modTrack i fun t => t.merge d
  | none => q

/-- Every partial reaches the table (R126). -/
def Pyro.flush (q : Pyro) : Pyro := { q.partials.foldl (fun y x => y.put x.2) q with partials := [] }

/-- A sampler's partial of an entry changed; a ninth tensor evicts the oldest to the table (R126). -/
def Pyro.note (q : Pyro) (sampler : Nat) (t : Track) (f : Track → Track) : Pyro :=
  let is := fun (x : Nat × Track) => x.1 == sampler && trTensor x.2.cfg == trTensor t.cfg
  if q.partials.any is then { q with partials := q.partials.map fun x => if is x then (x.1, f x.2) else x }
  else
    let mine := q.partials.filter fun x => x.1 == sampler
    let q := match mine with
      | x :: _ => if 8 ≤ mine.length then { q.put x.2 with partials := q.partials.erase x } else q
      | [] => q
    { q with partials := q.partials ++ [(sampler, f { cfg := t.cfg })] }

/-- Samplers (Table 06-3): the billet queues are 0 to 255, then temper engines, tongs engines, update units, collective engines by
partition, the smith's own commits, and the checks of R138. -/
def samplerTemper (h : Nat) : Nat := 256 + h
def samplerTongs (e : Nat) : Nat := 512 + e
def samplerUnit (u : Nat) : Nat := 534 + u
def samplerColl (p : Nat) : Nat := 542 + p
def samplerSmith : Nat := 546
def samplerCheck : Nat := 547

/-- What a sampler counts of one tensor, and its bits of the flag word; a tensor with no entry is not counted (R122, R126, R136). -/
def State.sampleWith (s : State) (p sampler tensor : Nat) (f : Track → Track) (bits : Nat) : State :=
  match (s.part p).pyro.find tensor with
  | none => s
  | some (_, t) =>
    let s := s.modPyro p fun y => y.note sampler t f
    if trFlagEn t.cfg && (s.part p).run.flagTaken.isNone then s.modRun p fun r => { r with flagWord := r.flagWord ||| bits } else s

/-- Values of one tensor sampled (R124, R125, R136). -/
def State.sample (s : State) (p sampler tensor : Nat) (l : List Samp) : State :=
  let q := s.part p
  let k := match q.pyro.find tensor with
    | some (_, t) => q.pyro.shift t
    | none => 0
  s.sampleWith p sampler tensor (fun t => l.foldl (Track.sample k) t) (l.foldl (fun w x => w ||| flagBits ((q.job.map Job.flagBound).getD 100) k x) 0)

/-- `n` marked values counted under a tensor (R90, Table 06-3). -/
def State.sampleSlag (s : State) (p sampler tensor n : Nat) : State :=
  s.sampleWith p sampler tensor (fun t => { t with slag := satTo 32 (t.slag + n) }) 2

/-! ## The controller (R128-R134) -/

/-- Least k with est ≤ maxel * 2^k (R129). -/
def leastKFor (est : W32) (maxel : Nat) : Int :=
  match f32 est with
  | .fin _ m e => leastK m e maxel 0
  | _ => 0

/-- Is a quench due (R133)? -/
def Track.quenchDue (t : Track) : Bool :=
  if trFmt t.cfg = 15 then t.quench else trSatLimit t.cfg * t.elements < t.sat * 65536

/-- What the controller does to an entry: the entry, and whether it quenched and clamped. -/
structure CtlOut where
  t : Track
  quenched : Bool
  clamped : Bool
  limit : Bool                      -- a quench at the upper limit (R134)

/-- An exponent wanted, clamped into the entry's range (R129, last lines). -/
def Track.settle (t : Track) (want : Int) (quenched : Bool) : CtlOut :=
  let lo := fmtLo (trFmt t.cfg)
  let hi := fmtHi (trFmt t.cfg)
  let cl := want < lo || hi < want
  { t := { t with eNext := min (max want lo) hi, clamps := if cl then satTo 16 (t.clamps + 1) else t.clamps }
    quenched := quenched
    clamped := cl
    limit := quenched && t.e == hi }

/-- Input of the controller: amax_final for an AS8 entry, else amax (R129). -/
def Track.amaxIn (t : Track) : W32 := if trFmt t.cfg = 15 then t.amaxFinal else t.amax

/-- The exponent of the next step for one entry (R129). -/
def Track.nextE (t : Track) : CtlOut :=
  let est := fmax t.amaxIn (fmul t.est (trDecay t.cfg))
  let want0 : Int := if (f32 est).isZero then t.e else leastKFor est (fmtMaxel (trFmt t.cfg)) + trHeadroom t.cfg
  let t := { t with est := est }
  if t.quenchDue then
    { t with hold := trHold t.cfg, quenches := satTo 32 (t.quenches + 1) }.settle (max want0 (t.e + trQuenchStep t.cfg)) true
  else if 0 < t.hold then { t with hold := t.hold - 1 }.settle (max want0 t.e) false
  else t.settle (max want0 (t.e - trDownMax t.cfg)) false

/-- A re-seed after a digest mismatch (R132). -/
def Track.reseed (t : Track) : CtlOut :=
  let t := { t with est := t.amaxFinal, hold := 0 }
  if (f32 t.est).isZero then { t := { t with eNext := trInitE t.cfg }, quenched := false, clamped := false, limit := false }
  else t.settle (leastKFor t.est 127 + trHeadroom t.cfg) false

/-- The controller pass for one entry: a pending configuration first (R137), then R129, R130 or R132. `digest` says that a
digest mismatch re-seeds the entries the step's reductions named. -/
def Track.control (digest : Bool) (t : Track) : CtlOut :=
  let t := { t with cfg := t.next.getD t.cfg, next := none }
  let still : CtlOut := { t := { t with eNext := t.e }, quenched := false, clamped := false, limit := false }
  if !fmtControlled (trFmt t.cfg) then { still with t := { t with eNext := 0 } }
  else if trFreeze t.cfg then { still with t := { t with eNext := trInitE t.cfg } }
  else if digest && trFmt t.cfg == 15 && t.used then t.reseed
  else if t.lost then { still with t := { t with eNext := trInitE t.cfg } }
  else if t.elements = 0 then still
  else t.nextE

/-- `PYRO_REC` of an entry (Table 06-4): its counters and exponents `e` used and next. -/
def Track.pyroRec (t : Track) (step : Nat) (c : CtlOut) (skipped : Bool) : Nat :=
  pack [(48, step), (16, trTensor t.cfg), (40, t.elements), (32, t.zeros), (32, t.sat), (32, t.nonfinite), (32, t.underflow), (32, t.slag),
    (32, t.amax.toNat), (32, t.amaxFinal.toNat), (16, t.escapes), (9, field 9 t.e), (9, field 9 c.t.eNext),
    (1, b01 c.quenched), (1, b01 c.clamped), (1, b01 skipped), (19, 0)]

/-- Counters cleared for the next step and the two exponent copies swapped (R127, R128). -/
def Track.install (t : Track) (last : Nat) : Track :=
  { t with e := t.eNext, elements := 0, zeros := 0, sat := 0, nonfinite := 0, underflow := 0, slag := 0, amax := f32Zero,
           amaxFinal := f32Zero, escapes := 0, quench := false, used := false, last := last, lost := false }

/-- Action 3 of the boundary for one entry: controller, record, install. -/
def closeTrack (p step : Nat) (skipped digest : Bool) (s : State) (i : Nat) : State :=
  match (s.part p).pyro.tracks[i]? with
  | none => s
  | some t =>
    let c := t.control digest
    let w := t.pyroRec step c skipped
    let s := s.modPyro p fun y => y.modTrack i fun _ => c.t.install w
    let s := if trReportEn t.cfg then s.recordPart p 0x04 3 w else s
    if c.limit then s.raise { recPart p sevDef 0x43 with detail := trTensor t.cfg } else s

/-- The scale table and pyrometer of a step closed (R126-R134). -/
def closePyro (p : Nat) (skipped : Bool) (s : State) : State :=
  let s := s.modPyro p Pyro.flush
  let q := s.part p
  let s := s.each (List.range q.pyro.tracks.length) (closeTrack p q.run.step skipped (!q.pyro.reseed.isEmpty))
  s.modPyro p fun y => { y with reseed := [] }

/-- The digest of R132 over the AS8 entries that the step's REDUCEs named. -/
def Pyro.digest (q : Pyro) : Nat :=
  let l := sortBy (fun t => trTensor t.cfg) (q.tracks.filter fun t => t.used && trFmt t.cfg == 15)
  crc32 (l.flatMap fun t => leBytes 2 (field 16 t.e))

/-- A round-start copy of every history (R140). -/
def Pyro.snap (q : Pyro) : Pyro := { q with snapshot := q.tracks.map Track.hist }

/-- Histories restored to the round start, the step's counters dropped (R130, R140). -/
def Pyro.restore (q : Pyro) : Pyro :=
  { q with
    partials := [], repairs := [], repairsNext := []
    tracks := q.tracks.map fun t =>
      let t := { t.install t.last with next := none }
      match q.snapshot.find? (fun h => histTensor h == trTensor t.cfg) with
      | some h => t.withHist h
      | none => { t with eNext := t.e } }

/-- A discard drops the step's counters, checks and pending configurations (R130, R137). -/
def Pyro.discard (q : Pyro) : Pyro :=
  { q with tracks := q.tracks.map fun t => { t with eNext := if t.lost then trInitE t.cfg else t.e, next := none }.install t.last, samples := [], reseed := [], partials := [] }

/-- An uncorrectable error in an entry re-seeds it; in a step the installed exponent stands until the boundary (R128, R141). -/
def Track.reseeded (t : Track) (inStep : Bool) : Track :=
  let e := trInitE t.cfg
  { t with est := f32Zero, hold := 0, eNext := e, e := if inStep then t.e else e, lost := inStep }

end Sys2Proof.Machine
end

