-- ==== Sys2Proof/Machine/Fabric.lean ====
section
/-! DEFINITION. Routing tables, planes, channels, windows and grants of the hall fabric (R211-R231). -/

namespace Sys2Proof.Machine

/-! ## Routing (Tables 10-6, 10-7) -/

def reLocator (e : Nat) : Nat := bits e 127 96
def reGen (e : Nat) : Nat := bits e 95 80
def reState (e : Nat) : Nat := bits e 79 77
def rePartMask (e : Nat) : Nat := bits e 76 73
def rePartCount (e : Nat) : Nat := if bits e 72 71 = 0 then 1 else if bits e 72 71 = 1 then 2 else 4

/-- An entry with its locator, gen and state changed. -/
def reWith (e loc gen st : Nat) : Nat := pack [(32, loc), (16, gen), (3, st), (4, rePartMask e), (2, bits e 72 71), (71, 0)]

/-- The active bank, by the voted root pointer (R229). Without two equal copies bank 0 is read, and the access that finds it so raises UCE_PART
(`State.voteRoot`). -/
def Fabric.activeBank (f : Fabric) : Nat := match vote3 f.root with
  | some (k, _) => k % 2
  | none => 0

def Fabric.bank (f : Fabric) : List (Nat × Nat) := f.banks.getD f.activeBank []
def Fabric.entAt (f : Fabric) (i : Nat) : Nat := assocGet i 0 f.bank

/-- Index and entry of a module ID, when it is in the table (R229). -/
def Fabric.entry (f : Fabric) (id : Nat) : Option (Nat × Nat) :=
  if f.count ≠ 0 ∧ f.idBase ≤ id ∧ id < f.idBase + f.count then some (id - f.idBase, f.entAt (id - f.idBase)) else none

def Fabric.entryState (f : Fabric) (id : Nat) : Nat := match f.entry id with
  | some (_, e) => reState e
  | none => 0

/-- IDs in a state of Table 10-6. -/
def Fabric.idsIn (f : Fabric) (sts : List Nat) : List Nat :=
  sortBy id ((f.bank.filter fun x => x.1 < f.count && sts.contains (reState x.2)).map fun x => f.idBase + x.1)

/-- A table changed by a write of the inactive bank and a flip of the root pointer (R230). -/
def Fabric.update (f : Fabric) (g : List (Nat × Nat) → List (Nat × Nat)) : Fabric :=
  let k := 1 - f.activeBank
  { f with banks := updAt f.banks k fun _ => g f.bank, maps := updAt f.maps k fun _ => f.maps.getD f.activeBank [], root := copies3 k }

/-- One entry of the table changed (R230). -/
def Fabric.setEntry (f : Fabric) (i e : Nat) : Fabric := f.update (assocSet i e)

/-- `ROUTE_MAP` in force. -/
def Fabric.mapping (f : Fabric) (k : Nat) : Nat := (f.maps.getD f.activeBank []).getD k 0xFF00000000000000

/-! ## Planes (R224) -/

/-- Is a network identity set (R214)? -/
def State.hasNet (s : State) : Bool := s.net.locator != 0

/-- Candidate planes for a destination under a mapping, and whether they are a fallback (R224). -/
def State.candidates (s : State) (p id map : Nat) : List Nat × Bool :=
  let f := (s.part p).fab
  let idx := id - f.idBase
  let live := (s.upPlanes p).filter fun q => !f.dead.contains (idx, q)
  let c := live.filter fun q => (bits (f.mapping map) 63 56).testBit q
  if c.isEmpty then (live, true) else (c, false)

/-- The plane with the fewest bytes queued on its port, the lowest of equals. -/
def State.leastQueued (s : State) (l : List Nat) : Option Nat :=
  l.foldl (fun a q => match a with
    | some b => if (s.port q).queued < (s.port b).queued then some q else a
    | none => some q) none

/-- The plane a packet takes: pinned by destination index, or sprayed to the candidate with the fewest bytes queued; another than `avoid` where
one exists (R223, R224). None waits. A packet to this module loops back. -/
def State.planeFor (s : State) (p id map : Nat) (avoid : Option Nat) : Option (Nat × Bool) :=
  if id = s.moduleId then some (0, false)
  else
    let f := (s.part p).fab
    let (c, fb) := s.candidates p id map
    let c' := match avoid with
      | some q => let d := c.filter (· != q); if d.isEmpty then c else d
      | none => c
    match s.leastQueued c' with
    | none => none
    | some q => if bit (f.mapping map) 55 then some (c'.getD ((id - f.idBase) % c'.length) q, fb) else some (q, fb)

/-! ## Packets (Table 10-3) -/

/-- `HT_HDR` as a number, icrc as given. -/
def htHeader (k : HtPkt) (icrc : Nat) : Nat :=
  pack [(4, k.version), (6, k.type), (20, k.dstModule), (20, k.srcModule), (2, k.dstPart), (2, k.srcPart), (16, k.routeGen), (32, k.psn),
    (64, k.addr), (13, k.length), (4, k.mapId), (1, b01 k.slag), (8, k.op), (24, k.aux), (8, k.connGen), (32, icrc)]

/-- The code of a segment's sender: module, partition, slag bit, and above them the 64-byte lines of the payload that show a receive-buffer error
(R237). -/
def senderOf (k : HtPkt) : Nat := k.srcModule * 8 + k.srcPart * 2 + b01 k.slag + 2 ^ 23 * ((k.bufBad.filter (· < 65)).eraseDups.map (2 ^ ·)).sum
def senderMod (c : Nat) : Nat := c / 8 % 2 ^ 20

/-- Which bytes of a body that starts at byte `off` of the payload lie in such lines, and which carry a mark. -/
def senderHits (c off n : Nat) : List Bool := (List.range n).map fun i => (c / 2 ^ 23).testBit ((off + i) / 64)
def senderMarks (c off n : Nat) : List Bool := (senderHits c off n).map fun b => c % 2 == 1 || b

/-- CRC-32C over the header with icrc zero and the payload (R218). -/
def htIcrc (k : HtPkt) : Nat := crc32c (leBytes 32 (htHeader k 0) ++ k.payload)

def htReliable (t : Nat) : Bool := t == 0 || t == 1 || t == 3 || t == 6 || t == 7 || t == 8 || t == 9 || t == 0x0B
def htData (t : Nat) : Bool := t == 0 || t == 6

/-- Egress class of a packet: transport control, or hall data (R215). -/
def htClass (t : Nat) : Nat := if t == 5 || t == 8 || t == 9 || t == 0x0A || t == 0x0B then 0 else 1

/-- Outer headers of a hall packet: hop limit 64, hashes of the channel and the psn (R218). -/
def State.htHeads (s : State) (k : HtPkt) : Heads :=
  { hop := some 64, label := some (Config.labelHash k.srcPart k.dstModule k.dstPart k.psn % 2 ^ 20)
    srcPort := some (0xC000 + Config.portHash k.srcPart k.dstModule k.dstPart k.psn % 2 ^ 14), dstPort := some s.net.udpPort }

/-- Line bytes of a hall packet (R218): 4,214 for a full 4,096-byte write. -/
def htBytes (k : HtPkt) : Nat := k.payload.length + 118

/-- The root pointer of a routing table is voted where it is read: a copy that disagrees is corrected with a CE record, and where no two agree the
partition has a UCE_PART fault (R229, R317). The records name the partition's first bellows die (Table 14-7). -/
def State.voteRoot (s : State) (p : Nat) : State :=
  let f := (s.part p).fab
  match vote3 f.root with
  | some (_, true) => s
  | some (w, false) => (s.modFab p fun f => { f with root := copies3 w }).raise { recPart p sevCE 0x09 with resClass := 6, resIndex := 4 / s.nparts * p }
  | none => (s.modFab p fun f => { f with root := copies3 0 }).raise { recPart p sevPart 0x0A with resClass := 6, resIndex := 4 / s.nparts * p }

/-- May a partition whose own entry is SPARE source a packet? CONTROL, and the acknowledgement of what it receives (R229). -/
def Fabric.sources (f : Fabric) (self : Nat) (t : Nat) : Bool := f.entryState self != 3 || t == 0x0B || t == 5

/-- A packet leaves with its icrc and this module's source fields: over the bellows to a partition of this module, or out of its plane's port. -/
def State.emitHall (s : State) (p : Nat) (k : HtPkt) (plane : Nat) : State :=
  let f := (s.part p).fab
  if !s.idValid ∨ (!s.hasNet ∧ k.dstModule ≠ s.moduleId) ∨ !f.sources s.moduleId k.type then s
  else
    let k := { k with version := 1, srcModule := s.moduleId, srcPart := p, length := k.payload.length, locator := s.net.locator, plane := plane, udpOk := true, ce := false }
    let k := { k with icrc := htIcrc k }
    if k.dstModule = s.moduleId then s.emit (.loopback { k with loop := true })
    else (s.voteRoot p).egress plane (htClass k.type) (some p) (htBytes k) (s.htHeads k) (.hall ((f.entry k.dstModule).elim 0 fun x => reLocator x.2) k)

/-! ## Channels (R222-R228) -/

def Fabric.chan (f : Fabric) (m p : Nat) : Chan :=
  match f.chans.find? (fun c => c.mod == m && c.part == p) with
  | some c => c
  | none => { mod := m, part := p, win := f.window }

def Fabric.modChan (f : Fabric) (m p : Nat) (g : Chan → Chan) : Fabric :=
  if f.chans.any (fun c => c.mod == m && c.part == p) then { f with chans := f.chans.map fun c => if c.mod == m && c.part == p then g c else c }
  else { f with chans := f.chans ++ [g { mod := m, part := p, win := f.window }] }

/-- Window tokens: outstanding, free and withheld; their sum is W (Table 10-5). -/
def Chan.outstanding (c : Chan) : Nat := c.out.length
def Chan.free (c : Chan) : Nat := c.win - c.out.length
def Chan.withheld (w : Nat) (c : Chan) : Nat := w - c.outstanding - c.free

/-- Grant bytes that a payload takes, in the 64-byte units of REQUEST and GRANT (R227). -/
def grantNeed (k : HtPkt) : Nat := roundUp k.payload.length 64

/-- Can a waiting packet be sent now: a token, and for data a grant or the one unsolicited packet (R222, R227)? A channel that a ROLLBACK still
has to cross carries that packet only. -/
def Chan.canSend (c : Chan) (k : HtPkt) : Bool :=
  0 < c.free && (!c.closing || (k.type == 0x0B && k.op == 1 && c.out.isEmpty)) && (!htData k.type || grantNeed k ≤ c.grant || (c.grant == 0 && !c.out.any (·.unsol)))

/-- A packet's first send: psn, token, grant and timer (R222, R223, R227). -/
def Chan.firstSend (now rto gen : Nat) (c : Chan) (k : HtPkt) (o : Owner) : Chan :=
  let need := grantNeed k
  let under := htData k.type && need ≤ c.grant && 0 < c.grant
  let k := { k with psn := c.psn, connGen := c.connGen, routeGen := gen }
  { c with
    psn := (c.psn + 1) % 2 ^ 32
    grant := if under then c.grant - need else c.grant
    grantTick := if under then now else c.grantTick
    out := c.out ++ [{ pkt := k, attempts := 0, plane := 0, deadline := now + ticksUs rto, owner := o, unsol := htData k.type && !under }] }

/-- The waiting packets in order, each sent if it can be; a data packet that cannot be sent holds the data behind it. -/
def Chan.pass (now rto gen : Nat) : List (HtPkt × Owner) → Bool → Chan → List (HtPkt × Owner) → Chan
  | [], _, c, kept => { c with waiting := kept.reverse }
  | (k, o) :: rest, held, c, kept =>
    if !(held && htData k.type) && c.canSend k then pass now rto gen rest held (c.firstSend now rto gen k o) kept
    else pass now rto gen rest (held || htData k.type) c ((k, o) :: kept)

/-- Bytes of data waiting on a channel. -/
def Chan.pending (c : Chan) : Nat := (c.waiting.filterMap fun x => if htData x.1.type then some x.1.payload.length else none).sum

/-- A packet to a channel's other end. -/
def Chan.packet (c : Chan) (type op aux : Nat) (payload : List Byte) : HtPkt :=
  { type := type, dstModule := c.mod, dstPart := c.part, op := op, aux := aux, payload := payload }

/-- REQUEST when more than 4,160 bytes wait with none asked for; RETURN when none waits and a grant is held (R227). -/
def Chan.steer (c : Chan) : Chan :=
  if 4160 < c.pending ∧ c.asked = 0 then
    { c with asked := c.pending, waiting := (c.packet 0x07 0 (min (ceilDiv c.pending 64) (2 ^ 24 - 1)) [], .none) :: c.waiting }
  else if c.pending = 0 ∧ 0 < c.grant then
    { c with grant := 0, asked := 0, waiting := c.waiting ++ [(c.packet 0x09 0 (c.grant / 64) [], .none)] }
  else c

/-- Sends what can be sent. -/
def Chan.flow (now rto gen : Nat) (c : Chan) : Chan :=
  let c := Chan.pass now rto gen c.waiting false c []
  let c := c.steer
  Chan.pass now rto gen c.waiting false c []

/-- The route generation of a module's entry. -/
def Fabric.genOf (f : Fabric) (m : Nat) : Nat := match f.entry m with
  | some (_, e) => reGen e
  | none => 0

/-- A packet that goes by a fallback plane is counted in the step (R224); the loopback is none. -/
def State.fellBack (s : State) (p m : Nat) (fb : Bool) : State :=
  if fb && m ≠ s.moduleId then s.modRun p fun r => { r with fallback := satTo 32 (r.fallback + 1) } else s

/-- A sent packet's plane and sub-interface recorded and the packet put on the wire (R224). -/
def State.launch (s : State) (p m q : Nat) (x : TxPkt) (avoid : Option Nat) : State :=
  match s.planeFor p m x.pkt.mapId avoid with
  | none => s
  | some (pl, fb) =>
    let s := s.fellBack p m fb
    let s := s.modFab p fun f => f.modChan m q fun c => { c with out := c.out.map fun y => if y.pkt.psn == x.pkt.psn then { y with plane := pl, sub := (s.port pl).nextSub } else y }
    s.emitHall p x.pkt pl

/-- An unreliable packet, or an answer, sent at once with the psn given; where no plane is usable it waits unsent (R224). -/
def State.sendNow (s : State) (p : Nat) (k : HtPkt) : State :=
  let f := (s.part p).fab
  match s.planeFor p k.dstModule k.mapId none with
  | none => s.modFab p fun f => { f with held := f.held ++ [k] }
  | some (pl, fb) => (s.fellBack p k.dstModule fb).emitHall p { k with connGen := (f.chan k.dstModule k.dstPart).connGen, routeGen := f.genOf k.dstModule } pl

/-- Answers that waited for a plane toward a module leave, in order (R224). -/
def State.sendHeld (s : State) (p m : Nat) : State :=
  let l := (s.part p).fab.held.filter fun k => k.dstModule == m
  (s.modFab p fun f => { f with held := f.held.filter fun k => k.dstModule != m }).each l fun s k => s.sendNow p k

/-- A credit that has left is in flight: its consumer no longer counts it as returning (R54). -/
def State.creditSent (s : State) (p : Nat) (o : Owner) : State := match o with
  | .credit q => s.modPart p fun y => { y with actqs := y.actqs.map fun x => if aqConsumer x.desc && aqId x.desc == q then { x with returning := x.returning - 1 } else x }
  | _ => s

/-- A channel's waiting packets move as tokens, grants and planes allow (R222, R224, R227). -/
def State.pump (s : State) (p m q : Nat) : State :=
  let f := (s.part p).fab
  let c := f.chan m q
  if (s.planeFor p m 0 none).isNone then s
  else
    let s := s.sendHeld p m
    let c' := c.flow s.tick f.rto0 (f.genOf m)
    let s := s.modFab p fun f => f.modChan m q fun _ => c'
    s.each (c'.out.drop c.out.length) fun s x => (s.launch p m q x none).creditSent p x.owner

/-- A reliable packet queued on its channel and sent as soon as it can be (R222). -/
def State.send (s : State) (p : Nat) (k : HtPkt) (o : Owner) : State :=
  (s.modFab p fun f => f.modChan k.dstModule k.dstPart fun c => { c with waiting := c.waiting ++ [(k, o)] }).pump p k.dstModule k.dstPart

/-! ## Acknowledgement (R222, R226) -/

/-- Distance of psn `a` ahead of `b`, modulo 2^32. -/
def psnAhead (a b : Nat) : Nat := (a + 2 ^ 32 - b % 2 ^ 32) % 2 ^ 32

/-- Has a psn been received on the channel? -/
def Chan.hasGot (c : Chan) (psn : Nat) : Bool := 2 ^ 31 ≤ psnAhead psn c.cum || c.got.contains psn

/-- The cumulative count moved past every psn in hand. -/
def Chan.advance : Nat → Chan → Chan
  | 0, c => c
  | n + 1, c => if c.got.contains c.cum then advance n { c with cum := (c.cum + 1) % 2 ^ 32, got := c.got.filter (· != c.cum) } else c

/-- A reliable packet accepted on the channel. -/
def Chan.accept (now psn : Nat) (ce : Bool) (c : Chan) : Chan :=
  let c := { c with got := c.got ++ [psn], unacked := c.unacked + 1, oldest := some (c.oldest.getD now), ceCount := c.ceCount + b01 ce }
  c.advance (c.got.length + 1)

/-- The ACK payload: cumulative psn (the next one expected, DESIGN CHOICE, log entry 21), bitmap of the 64 from it, CE count. -/
def Chan.ackPayload (c : Chan) : List Byte :=
  leBytes 4 c.cum ++ leBytes 8 (((List.range 64).filterMap fun i => if c.got.contains ((c.cum + i) % 2 ^ 32) then some (2 ^ i) else none).sum) ++
    leBytes 2 (satTo 16 c.ceCount) ++ leBytes 2 0

/-- An ACK is sent for everything received; replay entries that it passes are dropped (R221, R222). -/
def State.sendAck (s : State) (p m q : Nat) : State :=
  let c := (s.part p).fab.chan m q
  let s := s.modFab p fun f => f.modChan m q fun c => { c with unacked := 0, oldest := none, ceCount := 0, atomics := c.atomics.filter fun a => psnAhead a.psn c.cum < 2 ^ 31 }
  s.sendNow p (c.packet 0x05 0 0 c.ackPayload)

/-! ## Receiving (R219) -/

def htOpOk (k : HtPkt) : Bool :=
  if k.type = 3 then k.op ≤ 2 else if k.type = 6 then k.op ≤ 2 else if k.type = 0x0B then k.op ≤ 6 else true

/-- Does a range of a WRITE or READ_REQ keep inside one 4 KiB page? -/
def inPage (a n : Nat) : Bool := a % 4096 + n ≤ 4096

/-- The payload that Table 10-4 gives a type, its zero bytes included; of CONTROL, the payloads of log entry 35. -/
def htBodyOk (k : HtPkt) : Bool :=
  if k.type = 0 then inPage k.addr k.length
  else if k.type = 1 then k.length == 0 && 1 ≤ k.aux && k.aux ≤ 4096 && inPage k.addr k.aux
  else if k.type = 3 then k.length == 16
  else if k.type = 4 then k.length == 8
  else if k.type = 5 then k.length == 16 && k.payload.drop 14 == [0#8, 0#8]
  else if k.type = 0x0A then k.length == 12 && [2, 3, 4, 5, 0x80].contains ((k.payload.getD 10 0#8).toNat) && k.payload.getD 11 0#8 == 0#8
  else if k.type = 0x0B then
    if k.op = 0 then k.length % 4 == 0
    else if k.op = 1 then 4 ≤ k.length && k.length % 4 == 0
    else if k.op = 2 then k.length == 4
    else if k.op = 3 then k.length == 16 && (k.payload.drop 6).take 2 == [0#8, 0#8]
    else k.length == 0
  else true

/-- Check 2: version, type, op and lengths that Table 10-4 allows (the lengths: DEDUCED, log entry 30). -/
def htFormOk (k : HtPkt) : Bool :=
  k.version == 1 && k.type ≤ 0x0B && htOpOk k && k.length == k.payload.length && k.length ≤ 4160 && (k.type ≤ 1 || k.type == 3 || k.addr == 0) && htBodyOk k

/-- A PACKET_BAD record for checks 2 and 4, at most one per sender per second (R219). -/
def State.packetBad (s : State) (p src : Nat) : State :=
  let last := assocGet src 0 s.net.badAt
  if last ≠ 0 ∧ s.tick < last - 1 + ticksSec 1 then s
  else (s.modNet fun n => { n with badAt := assocSet src (s.tick + 1) n.badAt }).raise { recPart p sevDef 0x53 with addr := src }

/-- Check 4: the sender is an ACTIVE entry at the locator it sends from, or a sibling partition by the bellows; an ANNOUNCE may come from a SPARE
(R219), and so may the acknowledgement of what a SPARE is sent (R229, R234; log entry 115). -/
def Fabric.senderOk (f : Fabric) (self : Nat) (k : HtPkt) : Bool := match f.entry k.srcModule with
  | some (_, e) => (reLocator e == k.locator || (k.loop && k.srcModule == self)) && (reState e == 1 || (reState e == 3 && ((k.type == 0x0B && k.op == 2) || k.type == 5)))
  | none => false

/-- Check 6: a packet received before is dropped and acknowledged; an atomic whose result is kept is answered again (R219, R221). -/
def State.duplicate (s : State) (p : Nat) (k : HtPkt) : State :=
  let c := (s.part p).fab.chan k.srcModule k.srcPart
  let s := s.count (.check 6)
  let s := match k.type, c.atomics.find? fun a => a.psn == k.psn with
    | 3, some a => s.sendNow p { type := 4, dstModule := k.srcModule, dstPart := k.srcPart, psn := k.psn, slag := a.slag, payload := leBytes 8 a.old }
    | _, _ => s
  s.sendAck p k.srcModule k.srcPart

/-- Bytes of a partition's unsolicited buffer, and those that held segments of other partitions occupy (R227, R228; log entry 107). -/
def unsolBytes (n : Nat) : Nat := 2 ^ 20 * (4 / n)
def State.unsolHeld (s : State) (p : Nat) : Nat :=
  (((s.part p).coll.early.filter fun e => e.1 / 2 % 2 ^ 22 != s.moduleId * 4 + p).map (·.2.length)).sum

/-- Is a packet data that came under no grant of its channel (R227)? -/
def Chan.unsolicited (c : Chan) (k : HtPkt) : Bool := htData k.type && decide (c.issued < grantNeed k)

/-- The types that a partition whose own entry is SPARE receives: CONTROL, and ACK of what it sends (R229). -/
def Fabric.takes (f : Fabric) (self t : Nat) : Bool := f.entryState self != 3 || t == 0x0B || t == 5

/-! ## Reset of channels (R222, R233) -/

/-- A channel reset: everything in flight is forgotten and the incarnation advances. -/
def Chan.reset (w : Nat) (c : Chan) : Chan := { mod := c.mod, part := c.part, connGen := (c.connGen + 1) % 256, win := w }

/-- Packets not sent yet that are given up: landing space reserved for reads among them returns (R227). -/
def Fabric.strip (f : Fabric) (drop : Chan → HtPkt × Owner → Bool) : Fabric :=
  let gone := f.chans.flatMap fun c => c.waiting.filter (drop c)
  { f with
    chans := f.chans.map fun c => { c with waiting := c.waiting.filter fun x => !drop c x }
    poolIssued := f.poolIssued - (gone.filterMap fun x => if x.1.type = 1 then some (roundUp x.1.aux 64) else none).sum }

def isRollback (o : Owner) : Bool := o == .rollback

/-- Writes of the outer engine to replicas, which a reset does not give up (R264, R270). -/
def isForward (o : Owner) : Bool := match o with
  | .fwd _ _ _ _ => true
  | .seal _ => true
  | _ => false

/-- The forwarding and seal writes of a channel that have not been acknowledged, to be sent again. -/
def Chan.forwards (c : Chan) : List (HtPkt × Owner) :=
  ((c.out.filter fun x => isForward x.owner).map fun x => (x.pkt, x.owner)) ++ c.waiting.filter fun x => isForward x.2

/-- A channel reset at a rollback: one that the ROLLBACK still has to cross keeps it, and is reset when it is acknowledged (R222, R233). What a
replica that stays in the island has not acknowledged waits to be sent again (R264). -/
def Chan.renew (w : Nat) (keep : Bool) (c : Chan) : Chan :=
  let out := c.out.filter fun x => isRollback x.owner
  let waiting := c.waiting.filter fun x => isRollback x.2
  let again := if keep then c.forwards else []
  if out.isEmpty && waiting.isEmpty then { c.reset w with waiting := again }
  else { c with out := out, waiting := waiting ++ again, closing := true, win := w, grant := 0, asked := 0, issued := 0, want := 0, atomics := [] }

/-- The reset that a ROLLBACK held back; what has been queued since then goes on under the new incarnation. -/
def Chan.closeUp (w : Nat) (c : Chan) : Chan := { c.reset w with waiting := c.waiting }

def Fabric.resetChannels (f : Fabric) : Fabric := { f with chans := f.chans.map fun c => c.renew f.window (f.entryState c.mod == 1), poolIssued := 0, rr := 0, planeTo := [], held := [] }

/-- A channel whose ROLLBACK has been acknowledged, or has ended, is reset. -/
def Fabric.endRollback (f : Fabric) (m q : Nat) : Fabric :=
  let c := f.chan m q
  if c.closing && c.out.isEmpty then f.modChan m q (Chan.closeUp f.window) else f

/-- A packet of the next incarnation says that the other end has acted on the ROLLBACK: the channel is reset too. -/
def State.renewChan (s : State) (p : Nat) (k : HtPkt) : State :=
  let f := (s.part p).fab
  let c := f.chan k.srcModule k.srcPart
  if c.closing && k.connGen == (c.connGen + 1) % 256 && !c.out.isEmpty then s.modFab p fun f => f.modChan k.srcModule k.srcPart (Chan.closeUp f.window) else s

/-! ## The checks (R219) -/

/-- The checks of R219 in order, for a row that takes the types given: the state with the drop counted, and the partition
that accepts. A type of another row is no event of this one. In P3 and P4 hall packets are dropped and counted (R371), and no hall
traffic is accepted without a network identity (R214). A tagged frame is dropped and counted before them (R211). A psn beyond the 256 that the
replay entries cover is dropped, neither counted nor acknowledged (DESIGN CHOICE, log entry 116: R222 gives it no counter and no answer). -/
def State.receive (s : State) (types : List Nat) (k : HtPkt) : State × Option Nat :=
  if k.type ≤ 0x0B ∧ !types.contains k.type then (s, none)
  else if k.vid ≠ 0 then (s.count .badTag, none)
  else if s.power.pstate = .p3 ∨ s.power.pstate = .p4 then (s.count .inP3, none)
  else if !s.hasNet ∧ !(k.loop && k.srcModule == s.moduleId) then (s, none)
  else if !k.udpOk ∨ k.icrc ≠ htIcrc k then (s.count (.check 1), none)
  else if !htFormOk k then ((s.count (.check 2)).packetBad 0 k.srcModule, none)
  else if !s.idValid ∨ k.dstModule ≠ s.moduleId ∨ s.nparts ≤ k.dstPart then (s.count (.check 3), none)
  else
    let p := k.dstPart
    let s := (s.voteRoot p).renewChan p k
    let f := (s.part p).fab
    if !f.senderOk s.moduleId k then ((s.count (.check 4)).packetBad p k.srcModule, none)
    else
      let c := f.chan k.srcModule k.srcPart
      if k.routeGen ≠ f.genOf s.moduleId ∨ k.connGen ≠ c.connGen then (s.count (.check 5), none)
      else if !f.takes s.moduleId k.type then (s, none)
      else if !htReliable k.type then (s, some p)
      else if c.hasGot k.psn then (s.duplicate p k, none)
      else if 256 < psnAhead k.psn c.cum then (s, none)
      else if c.unsolicited k && decide (unsolBytes s.nparts < s.unsolHeld p + k.payload.length) then (s.count .unsolicited, none)
      else
        (s.modFab p fun f => f.modChan k.srcModule k.srcPart (Chan.accept s.tick k.psn k.ce), some p)

/-- Errors that the receive buffer shows in the lines of an answer or a MSG: corrected with a CE record, or the line marked with a DEFERRED one (R237;
those of a WRITE are operands of its row). -/
def State.bufErrors (s : State) (p : Nat) (k : HtPkt) : State :=
  if k.type ≠ 2 ∧ k.type ≠ 3 ∧ k.type ≠ 6 then s
  else
    let n := ceilDiv k.payload.length 64
    let r : FaultRec := { recPart p sevCE 0x03 with resClass := 6, resIndex := k.plane / 2 }
    let s := s.each (k.bufFixed.filter (· < n)) fun s _ => s.raiseMem r
    s.each (k.bufBad.filter (· < n)) fun s _ => s.raiseMem { r with sev := sevDef, code := 0x04 }

/-- An ACK after eight packets (R222). -/
def State.ackIfDue (s : State) (p m q : Nat) : State := if 8 ≤ ((s.part p).fab.chan m q).unacked then s.sendAck p m q else s

/-! ## Grants at the receiver (R227) -/

/-- Bytes of a partition's receive pool. -/
def poolBytes (n : Nat) : Nat := 4 * 2 ^ 20 * (4 / n)

/-- Bytes that one channel may be granted now. -/
def Chan.grantNow (c : Chan) (free : Nat) : Nat := min (min (roundUp c.want 64) 0x40000) (min (0x100000 - c.issued) free) / 64 * 64

/-- One requester served. -/
def State.grantOne (s : State) (p i : Nat) : State :=
  let f := (s.part p).fab
  match f.chans[i]? with
  | none => s
  | some c =>
    let g := c.grantNow (poolBytes s.nparts - f.poolIssued)
    if c.want = 0 ∨ g = 0 then s
    else
      let s := s.modFab p fun f => { f.modChan c.mod c.part fun c => { c with want := c.want - g, issued := c.issued + g } with poolIssued := f.poolIssued + g, rr := i + 1 }
      s.send p (c.packet 0x08 0 (g / 64) []) .none

/-- Requesters served round robin from the pointer (R227). -/
def State.serveGrants (s : State) (p : Nat) : State :=
  let f := (s.part p).fab
  let n := f.chans.length
  s.each (List.range n) fun s i => s.grantOne p ((f.rr + i) % n)

/-- Data that arrived under a grant gives its bytes back to the pool (R228). -/
def State.dataArrived (s : State) (p : Nat) (k : HtPkt) : State :=
  if !htData k.type then s
  else
    let c := (s.part p).fab.chan k.srcModule k.srcPart
    let g := grantNeed k
    if c.unsolicited k ∨ g = 0 then s
    else (s.modFab p fun f => { f.modChan k.srcModule k.srcPart fun c => { c with issued := c.issued - g } with poolIssued := f.poolIssued - g }).serveGrants p

/-- Is every hall-transport book of a partition closed (Table 10-5)? -/
def Fabric.booksClosed (f : Fabric) : Bool :=
  f.poolIssued == 0 && f.chans.all fun c => c.out.isEmpty && c.waiting.isEmpty && c.grant == 0 && c.issued == 0 && c.atomics.isEmpty

end Sys2Proof.Machine
end

