-- ==== Sys2Proof/Machine/HearthUnit.lean ====
section
/-! DEFINITION. Hearths: passes, accumulators, billets and the billet queue (chapter 03). -/

namespace Sys2Proof.Machine

/-! ## `HEARTH_PASS` (Table 03-4) -/

def hpAOff (d : Nat) : Nat := bits d 255 234
def hpBOff (d : Nat) : Nat := bits d 233 212
def hpAPitch (d : Nat) : Nat := bits d 211 190
def hpBPitch (d : Nat) : Nat := bits d 189 168
def hpASOff (d : Nat) : Nat := bits d 167 146
def hpBSOff (d : Nat) : Nat := bits d 145 124
def hpK (d : Nat) : Nat := bits d 123 108
def hpAFmt (d : Nat) : Nat := bits d 107 104
def hpBFmt (d : Nat) : Nat := bits d 103 100
def hpSplit (d : Nat) : Nat := bits d 99 98
def hpM (d : Nat) : Nat := bits d 97 90
def hpN (d : Nat) : Nat := bits d 89 82
def hpAcc (d : Nat) : Nat := bits d 81 80
def hpEmit (d : Nat) : Bool := bit d 79
def hpFirst (d : Nat) : Nat := bits d 78 71
def hpCount (d : Nat) : Nat := bits d 70 62
def hpMask (d : Nat) : Nat := bits d 61 46

/-- Bytes of one 32-element vector of a format (Table 03-5). -/
def vecBytes (f : Nat) : Nat := 4 * fmtBits f

/-- Operand class of a format: 0 8-bit, 1 4-bit, 2 BF16, 3 FP16, 4 FP32 (Table 03-5). -/
def fmtClass (f : Nat) : Nat := if f ≤ 5 then 0 else if f = 6 then 1 else if f = 7 then 2 else if f = 8 then 3 else 4

/-- Rows (and columns) of one problem, and problems of a pass, of a split mode (Table 03-6). -/
def problemSize (split : Nat) : Nat := if split = 0 then 128 else if split = 1 then 64 else 32
def problemCount (split : Nat) : Nat := if split = 0 then 1 else if split = 1 then 4 else 16

/-- Problem of the anvil at (r, c) (Table 03-6). -/
def anvilProblem (split r c : Nat) : Nat := if split = 0 then 0 else if split = 1 then 2 * (r / 2) + c / 2 else 4 * r + c

/-- Slice of the problem that an anvil row or column holds, and its sub-panel (Table 03-6). -/
def sliceOf (split r : Nat) : Nat := if split = 0 then r else if split = 1 then r % 2 else 0
def panelOf (split q r : Nat) : Nat := if split = 0 then r else if split = 1 then 2 * q + r % 2 else q

/-- Valid lanes of slice `j` when `v` rows or columns of the problem are valid (R68). -/
def lanesOf (v j : Nat) : Nat := min 32 (v - 32 * j)

/-- Sub-panels that the active problems read, `r` ranging over anvil rows (or columns) (Table 03-6). -/
def panelsOf (split mask : Nat) : List (Nat × Nat) :=
  if split = 0 then (if mask.testBit 0 then [(0, 0), (1, 1), (2, 2), (3, 3)] else [])
  else if split = 1 then (List.range 4).flatMap fun q => if mask.testBit q then [(2 * q, 0), (2 * q + 1, 1)] else []
  else (List.range 16).flatMap fun q => if mask.testBit q then [(q, 0)] else []

/-- Does every sub-panel and scale range end at or below 4 MiB, with a pitch that fits (R65)? -/
def operandFits (d off pitch soff f : Nat) : Bool :=
  let len := hpK d * vecBytes f
  let sl := roundUp (hpK d) 64
  off % 64 == 0 && pitch % 64 == 0 && soff % 64 == 0 && roundUp len 64 ≤ pitch && (fmtMX f || soff == 0) &&
  (panelsOf (hpSplit d) (hpMask d)).all fun (j, _) => off + j * pitch + len ≤ sramBytes && (!fmtMX f || soff + j * sl + sl ≤ sramBytes)

/-- The checks of Table 03-4, R59 and R65 on a descriptor of a partition with `n` hearths of which `off` lists the OFFLINE ones. -/
def passOk (d n : Nat) (off : List Nat) : Bool :=
  let af := hpAFmt d
  let bf := hpBFmt d
  af ≤ 9 && bf ≤ 9 && fmtClass af == fmtClass bf && hpK d != 0 && (!(fmtMX af || fmtMX bf) || hpK d % 32 == 0) &&
  hpSplit d != 3 && 1 ≤ hpM d && hpM d ≤ problemSize (hpSplit d) && 1 ≤ hpN d && hpN d ≤ problemSize (hpSplit d) && hpAcc d ≤ 1 &&
  1 ≤ hpCount d && hpFirst d + hpCount d ≤ n && hpMask d != 0 && hpMask d < 2 ^ problemCount (hpSplit d) && bits d 45 0 == 0 &&
  operandFits d (hpAOff d) (hpAPitch d) (hpASOff d) af && operandFits d (hpBOff d) (hpBPitch d) (hpBSOff d) bf &&
  off.all fun h => h < hpFirst d || hpFirst d + hpCount d ≤ h

/-- Fields that every pass of a chain shares (R67). -/
def chainKey (d : Nat) : Nat × Nat × Nat × Nat × Nat × Nat × Nat × Nat :=
  (hpAFmt d, hpBFmt d, hpSplit d, hpM d, hpN d, hpMask d, hpFirst d, hpCount d)

/-! ## Operands (R64) -/

/-- Elements of `b` bits packed from the low end of a number. -/
def unpackFrom : Nat → Nat → Nat → List Nat
  | 0, _, _ => []
  | k + 1, b, n => n % 2 ^ b :: unpackFrom k b (n / 2 ^ b)

/-- Codes of the elements of a byte string of one format (Table 03-5). -/
def codesOf (f : Nat) (bs : List Byte) : List Nat :=
  match fmtBits f with
  | 8 => bs.map (·.toNat)
  | 6 => (chunks 3 bs).flatMap fun c => unpackFrom 4 6 (leNat c)
  | 4 => bs.flatMap fun b => [b.toNat % 16, b.toNat / 16]
  | 16 => (chunks 2 bs).map leNat
  | _ => (chunks 4 bs).map leNat

/-- A sub-panel: for every k-step its 32 values, block scales applied, lanes at or beyond `lanes` zero (R64, R68, R88). -/
def panelValues (f k lanes : Nat) (data scales : List Byte) : List (List Fp) :=
  let vs := chunks 32 (codesOf f data)
  let sc := (chunks 32 scales).map fun c => c.map (·.toNat)
  ((List.range k).zip vs).map fun (i, v) =>
    ((List.range 32).zip v).map fun (e, c) =>
      if lanes ≤ e then Fp.fin false 0 0
      else if fmtMX f then mxDec f ((sc.getD (i / 32) []).getD e 0) c else (fmtOf f).dec c

/-- Ranges one operand reads: (start, bytes to a vector, vectors, words of a vector that hold valid lanes), data then scales. -/
def operandRanges (d off pitch soff f j lanes : Nat) : List (Nat × Nat × Nat × Nat) :=
  let v := vecBytes f
  (off + j * pitch, v, hpK d, ceilDiv (lanes * fmtBits f) 64) ::
    (if fmtMX f then [(soff + j * roundUp (hpK d) 64, 32, hpK d / 32, ceilDiv lanes 8)] else [])

/-- Does SRAM word `w` lie in a valid lane of one of the ranges? -/
def wordIn (l : List (Nat × Nat × Nat × Nat)) (w : Nat) : Bool :=
  l.any fun (st, v, k, n) => st ≤ 8 * w && 8 * w < st + k * v && (8 * w - st) % v / 8 < n

/-- One accumulator position after one contribution of a k-step, or of a pair in the 4-bit class (R58). -/
def stepAcc (cls : Nat) (acc : W32) (a b : List Fp) : W32 :=
  match a, b with
  | [x], [y] => accAdd acc (if cls = 4 then f32Contrib x y else x.mul y)
  | [x, x'], [y, y'] => accAdd acc ((x.mul y).add (x'.mul y'))
  | _, _ => acc

/-- k-steps that enter together: pairs in the 4-bit class, else single steps (R58). -/
def stepGroups (cls : Nat) (l : List (List Fp)) : List (List (List Fp)) := chunks (if cls = 1 then 2 else 1) l

/-- The accumulators of one anvil after the pass, from its operand panels (R57, R58). -/
def anvilRun (cls : Nat) (acc : List W32) (a b : List (List Fp)) : List W32 :=
  ((stepGroups cls a).zip (stepGroups cls b)).foldl (fun acc (ga, gb) =>
    ((List.range 1024).zip acc).map fun (e, w) =>
      stepAcc cls w (ga.map fun v => v.getD (e / 32) (.fin false 0 0)) (gb.map fun v => v.getD (e % 32) (.fin false 0 0))) acc

/-- A billet's data: masked positions +0.0 (R68). -/
def maskBillet (rows cols : Nat) (acc : List W32) : List W32 :=
  ((List.range 1024).zip acc).map fun (e, w) => if e / 32 < rows && e % 32 < cols then w else f32Zero

/-! ## PASS_ACCEPT -/

/-- Arbitration order of pass queues: collective, backward, forward (R38, R62). -/
def srcOfQueue (i : Nat) : Src := if i = 0 then .coll else if i = 1 then .bwd else .fwd
def queueOfSrc : Src → Nat
  | .coll => 0
  | .bwd => 1
  | .fwd => 2
  | .upd => 3

/-- The queue whose head the hearth takes next: the open chain's source only, else the first non-empty (R62, R67). -/
def Hearth.pick (h : Hearth) : Option (Nat × PassEnt) :=
  match h.chain with
  | some (i, _) => ((h.queues.getD i []).head?).map fun e => (i, e)
  | none => (firstWith (fun q => !q.isEmpty) h.queues).bind fun (i, q) => q.head?.map fun e => (i, e)

/-- Does a pass break the chain rules (R67)? -/
def chainBreaks (h : Hearth) (e : PassEnt) : Bool :=
  match h.chain with
  | none => hpAcc e.desc == 1
  | some (_, f) => hpAcc e.desc == 0 || chainKey e.desc != chainKey f.desc

/-- Everything a pass reads on one side: for each panel used, its values and whether a mark reached it. -/
structure PanelRead where
  panel : Nat
  vals : List (List Fp)
  slag : Bool
  rbw : Nat
  bad : List Nat                    -- double-bit words read in valid lanes
  fixed : List Nat                  -- corrected words read in valid lanes

/-- One side's panels read from the hearth's SRAM (R64, R69, R74). -/
def readSide (s : State) (h : Nat) (d off pitch soff f valid : Nat) (bad fixed : List Nat) : List PanelRead :=
  (panelsOf (hpSplit d) (hpMask d)).map fun (j, sl) =>
    let lanes := lanesOf valid sl
    let rs := operandRanges d off pitch soff f j lanes
    let len := hpK d * vecBytes f
    let sOff := soff + j * roundUp (hpK d) 64
    let data := s.load (sramAddr h (off + j * pitch)) len
    let sc := if fmtMX f then s.load (sramAddr h sOff) (hpK d) else []
    let mine := s.wmarks.filterMap fun w => let la := 8 * w; if la / 2 ^ 41 = 3 ∧ la % 2 ^ 41 / sramBytes = h ∧ s.pageValid la then some (la % 2 ^ 41 % sramBytes / 8) else none
    let hit := bad.filter (wordIn rs)
    { panel := j
      vals := panelValues f (hpK d) lanes data sc
      slag := !hit.isEmpty || mine.any (wordIn rs)
      rbw := s.rbwLines (sramAddr h (off + j * pitch)) len + (if fmtMX f then s.rbwLines (sramAddr h sOff) (hpK d) else 0)
      bad := hit
      fixed := fixed.filter (wordIn rs) }

/-- Records of SRAM errors met by a read of hearth `h`: CE for a corrected word, DEFERRED and a marked word for a
double-bit one (R74, Table 14-1). -/
def sramErrors (p h : Nat) (bad fixed : List Nat) (s : State) : State :=
  let s := s.each fixed fun s w => s.raiseMem { recHearth p h sevCE 0x03 with addr := s.global (sramAddr h (8 * w)) }
  s.each bad fun s w =>
    { s with wmarks := setIns (sramAddr h (8 * w) / 8) s.wmarks }.raiseMem { recHearth p h sevDef 0x04 with addr := s.global (sramAddr h (8 * w)) }

/-- Words whose slag copies disagree read as marked, with a CE record each (R306). -/
def splitCopies (p h : Nat) (split : List Nat) (s : State) : State :=
  s.each split fun s w => { s with wmarks := setIns (sramAddr h (8 * w) / 8) s.wmarks }.raiseMem { recHearth p h sevCE 0x03 with addr := s.global (sramAddr h (8 * w)) }

/-- Ranges that every panel of one side reads (R64). -/
def sideRanges (d off pitch soff f valid : Nat) : List (Nat × Nat × Nat × Nat) :=
  (panelsOf (hpSplit d) (hpMask d)).flatMap fun (j, sl) => operandRanges d off pitch soff f j (lanesOf valid sl)

/-- Does a pass read SRAM word `w` in a valid lane? -/
def passReads (d w : Nat) : Bool :=
  wordIn (sideRanges d (hpAOff d) (hpAPitch d) (hpASOff d) (hpAFmt d) (hpM d) ++ sideRanges d (hpBOff d) (hpBPitch d) (hpBSOff d) (hpBFmt d) (hpN d)) w

/-- Active anvils of a pass among those listed (R66). -/
def activeAnvils (d : Nat) (l : List Nat) : List Nat := (List.range 16).filter fun b => l.contains b && (hpMask d).testBit (anvilProblem (hpSplit d) (b / 4) (b % 4))

/-- Accumulator parity errors: the anvil's billet is marked, with a record naming the anvil (R74). -/
def parityErrors (p h : Nat) (l : List Nat) (s : State) : State := s.each l fun s b => s.raise { recHearth p h sevDef 0x05 with unit := 16 * h + b }

/-- Accumulator and mark of every anvil after a pass: inactive anvils stay at zero (R57, R58, R66, R74). -/
def passAnvils (d : Nat) (acc : List (List W32)) (accSlag : List Bool) (as bs : List PanelRead) : List (List W32 × Bool) :=
  (List.range 16).map fun b =>
    let r := b / 4
    let c := b % 4
    let q := anvilProblem (hpSplit d) r c
    let zero := List.replicate 1024 f32Zero
    if (hpMask d).testBit q then
      match as.find? (fun x => x.panel == panelOf (hpSplit d) q r), bs.find? (fun x => x.panel == panelOf (hpSplit d) q c) with
      | some x, some y => (anvilRun (fmtClass (hpAFmt d)) (acc.getD b zero) x.vals y.vals, accSlag.getD b false || x.slag || y.slag)
      | _, _ => (zero, false)
    else (zero, false)

/-- The billets that a pass emits, in ascending b (R66, R68, R71). -/
def passBillets (e : PassEnt) (src : Src) (seq : Nat) (l : List (List W32 × Bool)) : List Billet :=
  let d := e.desc
  let all := (List.range 16).filterMap fun b =>
    let r := b / 4
    let c := b % 4
    let q := anvilProblem (hpSplit d) r c
    let rows := lanesOf (hpM d) (sliceOf (hpSplit d) r)
    let cols := lanesOf (hpN d) (sliceOf (hpSplit d) c)
    if (hpMask d).testBit q && 0 < rows && 0 < cols then
      some { data := maskBillet rows cols (l.getD b ([], false)).1, slag := (l.getD b ([], false)).2, rows := rows, cols := cols, index := b,
             split := hpSplit d, problem := q, tensor := e.tensor, seq := seq % 256, src := src, insn := e.insn : Billet }
    else none
  updAt all (all.length - 1) fun x => { x with last := true }

/-- Useful and total multiply-accumulate slots of a pass (R79). -/
def passMacs (d : Nat) : Nat × Nat :=
  let used := ((List.range 16).map fun b =>
    let q := anvilProblem (hpSplit d) (b / 4) (b % 4)
    if (hpMask d).testBit q then lanesOf (hpM d) (sliceOf (hpSplit d) (b / 4)) * lanesOf (hpN d) (sliceOf (hpSplit d) (b % 4)) else 0).sum
  (used * hpK d, 16384 * hpK d)

/-- Array cycles of a pass: its k-steps over the k-steps per cycle of its class (Table 03-1). -/
def passCycles (d : Nat) : Nat :=
  let k := hpK d
  let c := fmtClass (hpAFmt d)
  if c = 0 then k else if c = 1 then ceilDiv k 2 else if c = 4 then 16 * k else 2 * k

/-- Duty of a forge die: the lower of its partition's cap duty and its thermal duty (R382). -/
def State.dieDuty (s : State) (d : Nat) : Nat := min (s.part (diePart s.nparts d)).duty.n (s.power.thermal.getD d 16)

/-- A pass timed: its cycles, the idle cycles that duty `n` of 16 inserts, and the wait for its accumulator set (R78, R79; log entry 96). -/
def Hearth.timed (h : Hearth) (tick n : Nat) (d : Nat) : Hearth :=
  let t := passCycles d
  { h with active := h.active + t, throttle := h.throttle + t * (16 - n) / n, accStall := h.accStall + (match h.accFrom with | some k => tick - k | none => 0), accFrom := none }

/-- The hearth after it has run a pass: emitting closes the chain and hands the set over; otherwise the chain stays open. -/
def Hearth.ran (h : Hearth) (i : Nat) (e : PassEnt) (l : List (List W32 × Bool)) : Hearth :=
  let macs := passMacs e.desc
  let h := { h with queues := updAt h.queues i (·.drop 1), seq := h.passes % 256, passes := h.passes + 1, macValid := h.macValid + macs.1, macAll := h.macAll + macs.2 }
  if hpEmit e.desc then
    { h with chain := none, accum := [], accSlag := [], outSets := h.outSets ++ [passBillets e (srcOfQueue i) h.seq l] }
  else { h with chain := some (i, (h.chain.map (·.2)).getD e), accum := l.map (·.1), accSlag := l.map (·.2) }

/-- The hearth takes the head of its highest-priority pass queue when an accumulator set is free, and forms the pass; array work waits for
P0 (R61, R62, R371). A pass whose set a full queue holds waits, and its wait is timed (R73, R79). A pass that breaks the chain rules is
recorded and dropped, and an open chain stays open (DESIGN CHOICE, log entry 97). -/
def doPassAccept (h : Nat) (bad fixed split par : List Nat) (s : State) : State :=
  let x := s.hearth h
  if x.st = .offline ∨ s.power.pstate ≠ .p0 then s
  else if 2 ≤ x.outSets.length then (if x.free = 0 ∧ x.pick.isSome then s.modHearth h fun x => { x with accFrom := some (x.accFrom.getD s.tick) } else s)
  else match x.pick with
    | none => s
    | some (i, e) =>
      let p := hearthPart s.nparts h
      if chainBreaks x e then
        (s.modHearth h fun x => { x with queues := updAt x.queues i (·.drop 1) }).raise { recHearth p h sevPart 0x28 with layer := e.layer }
      else
        let d := e.desc
        let s := splitCopies p h (split.filter (passReads d)).eraseDups s
        let as := readSide s h d (hpAOff d) (hpAPitch d) (hpASOff d) (hpAFmt d) (hpM d) bad fixed
        let bs := readSide s h d (hpBOff d) (hpBPitch d) (hpBSOff d) (hpBFmt d) (hpN d) bad fixed
        let first := hpAcc d = 0
        let l := passAnvils d (if first then [] else x.accum) (if first then [] else x.accSlag) as bs
        let all := as ++ bs
        let s := s.addRbw p (all.map (·.rbw)).sum
        let s := sramErrors p h (all.flatMap (·.bad)).eraseDups (all.flatMap (·.fixed)).eraseDups s
        let hit := activeAnvils d par
        let s := parityErrors p h hit s
        s.modHearth h fun x => (x.timed s.tick (s.dieDuty (h / 16)) d).ran i e (((List.range l.length).zip l).map fun (b, a, m) => (a, m || hit.contains b))

def execPassAccept (h : Nat) (bad fixed split par : List Nat) (s : State) : Host.Outcome State Fault Refusal :=
  answer (Instr.passAccept h bad fixed split par).wf (doPassAccept h bad fixed split par s)

/-! ## BILLET_TRANSFER, BILLET_STALL -/

/-- The valid elements of a billet as the pyrometer samples them (R71, R124). -/
def Billet.samples (b : Billet) : List Samp :=
  ((List.range b.data.length).zip b.data).filterMap fun (e, w) => if e / 32 < b.rows && e % 32 < b.cols then some (Samp.plain w b.slag) else none

/-- The queue has no free slot and none in transfer out (R73). -/
def Hearth.stuck (h : Hearth) : Bool := h.free == 0 && h.xout == 0

/-- The tick since which a queue is stuck, kept while it stays so. -/
def Hearth.watch (t : Nat) (h : Hearth) : Hearth := { h with stallFrom := if h.stuck then some (h.stallFrom.getD t) else none }

/-- The oldest set's next billet moves into a free slot (R61, R71, R72); with no free slot it waits (R73). -/
def doBilletTransfer (h : Nat) (s : State) : State :=
  let x := s.hearth h
  match x.outSets with
  | (b :: rest) :: sets =>
    if x.free = 0 then s
    else
      let s := s.modHearth h fun x => ({ x with outSets := if rest.isEmpty then sets else rest :: sets, free := x.free - 1, bq := x.bq ++ [b] } : Hearth).watch s.tick
      if b.tensor = 0xFFFF then s else s.sample (hearthPart s.nparts h) h b.tensor b.samples
  | _ => s

def execBilletTransfer (h : Nat) (s : State) : Host.Outcome State Fault Refusal :=
  answer (Instr.billetTransfer h).wf (doBilletTransfer h s)

/-- Ticks of the job's wait limit (R35, Table 15-7). -/
def State.waitLimit (s : State) (p : Nat) : Nat :=
  let ms := ((s.part p).job.map fun j => bits j.params 351 332).getD 0
  ticksMs (if ms = 0 then 30000 else ms)

/-- A queue stuck for longer than the wait limit is a fault naming the oldest full billet's tensor (R73). -/
def doBilletStall (h : Nat) (s : State) : State :=
  let x := s.hearth h
  let p := hearthPart s.nparts h
  match x.stallFrom with
  | some t =>
    if x.stuck && s.waitLimit p < s.tick - t then
      (s.modHearth h fun x => { x with stallFrom := some s.tick }).raise { recHearth p h sevPart 0x25 with detail := (x.bq.head?.map (·.tensor)).getD 0xFFFF }
    else s
  | none => s

def execBilletStall (h : Nat) (s : State) : Host.Outcome State Fault Refusal :=
  answer (Instr.billetStall h).wf (doBilletStall h s)

/-! ## Boundary, discard and reset (R45, R67, R75, R77, R79) -/

/-- Does the hearth still hold anything of an instruction (R62)? -/
def Hearth.holds (h : Hearth) (insn : Nat) : Bool :=
  h.queues.any (fun q => q.any (·.insn == insn)) || h.outSets.any (fun l => l.any (·.insn == insn)) || h.bq.any (·.insn == insn)

/-- Ticks of the reference that array cycles take, begun ones counted (2.25 GHz; log entry 96). -/
def cycleTicks (c : Nat) : Nat := satTo 32 (ceilDiv (2 * c) 45)

/-- `HEARTH_STATS` of a hearth (Table 03-10): bank conflicts are a free value (log entry 8), and lane_util is truncated, 0 where no slot was
active (DESIGN CHOICE, log entry 96). -/
def Hearth.stats (h : Hearth) (step id conflict : Nat) : Nat :=
  pack [(48, step), (16, id), (32, satTo 32 h.passes), (32, cycleTicks h.active), (32, satTo 32 conflict), (32, satTo 32 h.accStall), (32, cycleTicks h.throttle),
    (16, if h.macAll = 0 then 0 else satTo 16 (h.macValid * 65536 / h.macAll)), (16, 0)]

/-- A step's counts cleared. -/
def Hearth.newStep (h : Hearth) : Hearth := { h with passes := 0, seq := 0, macValid := 0, macAll := 0, active := 0, throttle := 0, accStall := 0, accFrom := none }

/-- Action 2 on a hearth: pages invalid, an open chain discarded, the step's counts cleared. -/
def Hearth.boundary (h : Hearth) : Hearth := { h.newStep with pages := [], chain := none, accum := [], accSlag := [] }

/-- A discard empties the hearth; what it counted belongs to the step given up (R75, R79). -/
def Hearth.discard (h : Hearth) : Hearth :=
  { h.newStep with queues := [[], [], []], chain := none, accum := [], accSlag := [], outSets := [], bq := [], free := 16, xin := 0, xout := 0, pages := [], stallFrom := none }

/-- `BILLET_Q_STATUS` (Table 03-9). -/
def Hearth.qStatus (h : Hearth) : Nat :=
  pack [(5, h.free), (5, h.bq.length), (5, h.xin), (5, h.xout), (8, h.seq), (1, b01 h.chain.isSome), (3, 0)]

/-- The conserved billet-queue book: 16 = free + full + in + out (R72). -/
def Hearth.slots (h : Hearth) : Nat := h.free + h.bq.length + h.xin + h.xout
def Hearth.book (h : Hearth) : Bool := h.slots == 16

end Sys2Proof.Machine
end

