-- ==== Sys2Proof/Machine/Arena.lean ====
section
/-! DEFINITION. Remote access by packets, and the spill arena: pool frames, fills and write-backs (R151-R156). -/

namespace Sys2Proof.Machine

/-! ## Remote access by packets (R19, R21, R220) -/

/-- The partition of another module that owns an offset, by the part_count of its entry (R19); none where the access does
not perform. A sibling partition must be named in this module's own entry (R21). Of another module no rule says what becomes of an
access to a partition that its entry's part_mask does not name: here it does not perform either (DESIGN CHOICE, log entry 120). -/
def State.remotePart (s : State) (p g n : Nat) : Option Nat :=
  let f := (s.part p).fab
  match f.entry (gModule g) with
  | none => none
  | some (_, e) =>
    let cnt := if gModule g = s.moduleId then s.nparts else rePartCount e
    match rangeOwner cnt (gSpace g) (gOffset g) n with
    | some q => if (rePartMask e).testBit q then some q else none
    | none => none

/-- Is a module held LOST? -/
def State.lostMod (s : State) (p m : Nat) : Bool := (s.part p).fab.entryState m == 2

/-- The WRITE packets of a byte range, cut at 4 KiB boundaries, with the marks of their bytes. -/
def writePackets (g q : Nat) (bs : List Byte) (mk : List Bool) : List HtPkt :=
  (piecesOf g bs.length).map fun (a, k) =>
    { type := 0, dstModule := gModule g, dstPart := q, addr := a, slag := (((mk.drop (a - g)).take k).any id), payload := (bs.drop (a - g)).take k }

/-- Bytes written to another partition: the state and the packets now awaiting acknowledgement; an access that does not perform
is dropped and recorded, and a LOST module takes nothing (R21, R157). -/
def State.remoteWrite (s : State) (p g : Nat) (bs : List Byte) (mk : List Bool) (o : Owner) : State × Nat :=
  if s.lostMod p (gModule g) then (s.addrErr p g, 0)
  else match s.remotePart p g bs.length with
    | none => (s.addrErr p g, 0)
    | some q =>
      let l := writePackets g q bs mk
      (s.each l fun s k => s.send p k o, l.length)

/-- Free bytes of the partition's receive pool (R227). -/
def State.poolFree (s : State) (p : Nat) : Nat := poolBytes s.nparts - (s.part p).fab.poolIssued

/-- A read request of at most 4 KiB, its landing space reserved (R227). -/
def State.remoteRead (s : State) (p q g n : Nat) (o : Owner) : State :=
  (s.modFab p fun f => { f with poolIssued := f.poolIssued + roundUp n 64 }).send p { type := 1, dstModule := gModule g, dstPart := q, addr := g, aux := n } o

/-- Is anything that an owner tag names still on its way from partition `p`? -/
def State.awaits (s : State) (p : Nat) (f : Owner → Bool) : Bool :=
  (s.part p).fab.chans.any fun c => c.out.any (fun x => f x.owner) || c.waiting.any fun x => f x.2

/-! ## Pool frames (R153) -/

/-- Local address of a pool frame. -/
def poolAddr (a k : Nat) : Nat := localAddr 0 ((saPool0 a + k) * frameBytes)

def Arena.find (r : Arena) (home : Nat) : Option Frame := r.frames.find? fun f => f.home == home
def Arena.modFrame (r : Arena) (home : Nat) (g : Frame → Frame) : Arena := { r with frames := r.frames.map fun f => if f.home == home then g f else f }
/-- A frame becomes free. -/
def Arena.release (r : Arena) (home : Nat) : Arena := { r with frames := r.frames.filter (fun f => f.home != home), free := r.free + (r.frames.filter fun f => f.home == home).length }
/-- A frame used now. -/
def Arena.touch (r : Arena) (home : Nat) : Arena := { r.modFrame home fun f => { f with used := r.clock } with clock := r.clock + 1 }

/-- The free pool frame of lowest index takes a home. -/
def Arena.take (r : Arena) (pool home : Nat) (st : FrameSt) : Option (Arena × Nat) :=
  ((List.range pool).find? fun k => !(r.frames.any fun f => f.pool == k)).map fun k =>
    ({ r with frames := r.frames ++ [{ pool := k, home := home, st := st, used := r.clock }], free := r.free - 1, clock := r.clock + 1 }, k)

/-- The arena of a partition's job. -/
def State.arenaOf (s : State) (p : Nat) : Option Nat := (s.part p).job.bind (·.arena)

/-- A pool frame zeroed: the bytes not written in the step read zero and unmarked (R153). -/
def State.zeroFrame (s : State) (a k : Nat) : State :=
  let la := poolAddr a k
  { s with mem := Memory.clear s.mem la frameBytes, marks := s.marks.filter fun m => !(la / 64 ≤ m && m < (la + frameBytes) / 64) }

/-- A frame moved between pool and home (Table 15-12). -/
def State.arenaMoved (s : State) (p : Nat) : State := s.modRun p fun r => { r with arenaMoves := satTo 32 (r.arenaMoves + 1) }

/-- Stored activations that the module itself holds in a partition's HBM: the arena's frames and the filled or popped slots of the forward
activation queues that it consumes (Table 02-7, R153, R53). -/
def Part.actBytes (q : Part) : Nat :=
  frameBytes * q.arena.frames.length +
    ((q.actqs.filter fun x => aqConsumer x.desc && aqKind x.desc == 0).map fun x => 4096 * aqPages x.desc * (x.full + x.popped)).sum

/-- The most of them held at once in the step. -/
def State.actMark (s : State) (p : Nat) : State := s.modRun p fun r => { r with actHwm := max r.actHwm (s.part p).actBytes }

/-- A fill begins: the frame is filling from the issue of its first piece (R154). -/
def State.beginFill (s : State) (p home : Nat) : State :=
  match s.arenaOf p with
  | none => s
  | some a => match (s.part p).arena.take (saPool a) home .filling with
    | some (r, _) => (s.modArena p fun _ => r).actMark p
    | none => s

/-- What an arena access finds. -/
inductive ArenaAt where
  | zero                            -- a read of a home not written in this step (R153)
  | pool (la : Nat)                 -- local address in the pool
  | wait                            -- a fill, or a free frame, comes first
  deriving DecidableEq, Repr

/-- A read of an arena address (R153). -/
def State.arenaRead (s : State) (p g : Nat) : State × ArenaAt :=
  match s.arenaOf p with
  | none => (s, .wait)
  | some a =>
    let home := g / frameBytes
    let r := (s.part p).arena
    if !r.written.contains home then (s, .zero)
    else match r.find home with
      | none => (s.beginFill p home, .wait)
      | some f => match f.st with
        | .filling => (s, .wait)
        | .writeback => (s, .wait)
        | .clean => (s.modArena p fun r => r.touch home, .pool (poolAddr a f.pool + g % frameBytes))
        | .dirty => (s.modArena p fun r => r.touch home, .pool (poolAddr a f.pool + g % frameBytes))

/-- A write to an arena address: its frame becomes dirty (R153). -/
def State.arenaWrite (s : State) (p g : Nat) : State × ArenaAt :=
  match s.arenaOf p with
  | none => (s, .wait)
  | some a =>
    let home := g / frameBytes
    let r := (s.part p).arena
    let fresh := !r.written.contains home
    match r.find home with
    | none =>
      if fresh then
        match r.take (saPool a) home .dirty with
        | none => (s, .wait)
        | some (r, k) => (((s.modArena p fun _ => { r with written := setIns home r.written }).actMark p).zeroFrame a k, .pool (poolAddr a k + g % frameBytes))
      else (s.beginFill p home, .wait)
    | some f =>
      if f.st = .filling ∨ f.st = .writeback then (s, .wait)
      else
        let s := s.modArena p fun r => (({ r with written := setIns home r.written } : Arena).modFrame home fun f => { f with st := .dirty }).touch home
        (if fresh then s.zeroFrame a f.pool else s, .pool (poolAddr a f.pool + g % frameBytes))

/-! ## ARENA_FILL -/

/-- Is a home in the partition's own crucible? -/
def State.homeLocal (s : State) (home : Nat) : Bool := gModule (home * frameBytes) == s.moduleId

/-- The XTS slot in use (R156). -/
def activeKey (a : Nat) (r : Arena) : Nat := if r.altKey then saKeyAlt a else saKey a

/-- The slot that the pages of a home are under: the active one, or the other where they went out when the active one had too little use left
(R156, log entry 101). -/
def homeKey (a : Nat) (r : Arena) (home : Nat) : Nat := if r.otherKey.contains home then activeKey a { r with altKey := !r.altKey } else activeKey a r

/-- Errors that the reads of a frame's lines find, each by its number in the frame. -/
def State.frameErrors (s : State) (src : Nat) (bad fixed : List Nat) : State :=
  (s.each fixed fun s k => s.readEcc (src + 64 * k) .corrected).each bad fun s k => s.readEcc (src + 64 * k) .uncorrectable

/-- A 2 MiB block of local memory copied with its marks, a piece of which that reads a marked line is recorded (R157); memory behind a lost PLL is
neither read nor written (R369). -/
def State.copyFrame (s : State) (p src dst : Nat) (bad fixed : List Nat) : State :=
  let pages := ((s.marks.filter fun m => src / 64 ≤ m && m < (src + frameBytes) / 64).map (· / 64)).eraseDups
  let s := (s.each pages fun s k => s.markedPiece p 0 0 (s.global (4096 * k))).frameErrors src bad fixed
  if s.unreached src frameBytes then s.trySave dst (List.replicate frameBytes 0#8) (List.replicate frameBytes true)
  else if s.unreached dst frameBytes then s
  else
    let bs := s.bytes src frameBytes
    let mk := s.marks.filter fun m => src / 64 ≤ m && m < (src + frameBytes) / 64
    let s := s.store dst bs false
    { s with marks := mk.foldl (fun t m => setIns (m - src / 64 + dst / 64) t) s.marks }

/-- A page of a lender's home arrives: deciphered where the arena is under XTS, and written to its frame (R155). A page whose
key has no use left arrives as zeros with a mark (log entry 12). -/
def State.landArena (s : State) (p home page : Nat) (bs : List Byte) (mk : List Bool) : State :=
  match s.arenaOf p, (s.part p).arena.find home with
  | some a, some f =>
    let la := poolAddr a f.pool + 4096 * page
    let s := if mk.any id then s.markedPiece p 0 0 (home * frameBytes + 4096 * page) else s
    if saXts a then
      let k := homeKey a (s.part p).arena home
      match s.takeUse k 256 with
      | some s1 => (s1.modArena p fun r => { r with peerTraffic := r.peerTraffic + 256 }).saveMarked la (xtsDec (s.slot k).xtsKey (home * frameBytes / 4096 + page) bs) mk
      | none => s.store la (List.replicate 4096 0#8) true
    else s.saveMarked la bs mk
  | _, _ => s

/-- Bytes of one element of a tongs format; raw bytes count as one. -/
def tdSize (f : Nat) : Nat := if f = 0 ∨ f = 1 then 1 else if f = 7 ∨ f = 8 then 2 else if f = 9 then 4 else 1

/-- The arena frame that a piece on its way takes up: of a page moved to or from a lender, and of a remote read still to land in one (a piece lies in
one frame). -/
def State.flightHome (s : State) (p : Nat) (o : Owner) : Option Nat := match o with
  | .arenaOut h => some h
  | .arenaIn h _ => some h
  | .tongsRead e src insn row off =>
    match ((s.tongs.getD e []).find? fun t => t.part == p && t.src == src && t.insn == insn) with
    | some t =>
      let g := bits t.desc 447 384 + row * bits t.desc 287 248 + off / tdSize (bits t.desc 247 244) * tdSize (bits t.desc 243 240)
      if s.arenaMeets p g 1 then some (g / frameBytes) else none
    | none => none
  | _ => none

/-- Arena pieces of a partition on their way (R153). -/
def State.arenaFlight (s : State) (p : Nat) : Nat :=
  let is := fun (o : Owner) => (s.flightHome p o).isSome
  ((s.part p).fab.chans.map fun c => (c.out.filter fun x => is x.owner).length + (c.waiting.filter fun x => is x.2).length).sum

/-- Is a home's frame in use (R153)? -/
def State.frameBusy (s : State) (p home : Nat) : Bool := s.awaits p fun o => s.flightHome p o == some home

/-- Pages of a lender's home asked for while landing space lasts, at most 32 on their way (R153). -/
def State.askPages (p home q : Nat) : Nat → State → State
  | 0, s => s
  | n + 1, s =>
    match (s.part p).arena.find home with
    | some f =>
      if 512 ≤ f.next ∨ s.poolFree p < 4096 ∨ 32 ≤ s.arenaFlight p then s
      else askPages p home q n ((s.modArena p fun r => r.modFrame home fun f => { f with next := f.next + 1 }).remoteRead p q (home * frameBytes + 4096 * f.next) 4096 (.arenaIn home f.next))
    | none => s

/-- A filling frame is filled from its home: a crucible home at once, a lender's home page by page; a lost lender gives zeros
with marks (R153, R157). The frame is clean when its last piece completes (R154). -/
def doArenaFill (p home : Nat) (bad fixed : List Nat) (s : State) : State :=
  match s.arenaOf p, (s.part p).arena.find home with
  | some a, some f =>
    if f.st ≠ .filling then s
    else
      let clean := fun (s : State) => (s.modArena p fun r => r.modFrame home fun f => { f with st := .clean, next := 0 }).arenaMoved p
      let dst := poolAddr a f.pool
      if s.homeLocal home then clean (s.copyFrame p (gLocal (home * frameBytes)) dst bad fixed)
      else if s.lostMod p (gModule (home * frameBytes)) then
        if s.awaits p (fun o => match o with | .arenaIn h _ => h == home | _ => false) then s
        else clean ((s.store dst (List.replicate frameBytes 0#8) true).addrErr p (home * frameBytes))
      else if f.next < 512 then
        match s.remotePart p (home * frameBytes) frameBytes with
        | some q => State.askPages p home q 512 s
        | none => clean ((s.store dst (List.replicate frameBytes 0#8) true).addrErr p (home * frameBytes))
      else if s.awaits p (fun o => match o with | .arenaIn h _ => h == home | _ => false) then s
      else clean s
  | _, _ => s

def execArenaFill (p : Nat) (home : FrameRead) (s : State) : Host.Outcome State Fault Refusal :=
  answer (Instr.arenaFill p home).wf (doArenaFill p home.of home.bad home.fixed s)

/-! ## ARENA_WRITEBACK -/

/-- The least recently used frame that is clean or dirty and not in use. -/
def State.oldest (s : State) (p : Nat) : Option Frame :=
  ((s.part p).arena.frames.filter fun f => (f.st == .clean || f.st == .dirty) && !s.frameBusy p f.home).foldl (fun b f => match b with
    | none => some f
    | some g => if f.used < g.used then some f else some g) none

/-- Has a slot use enough for a frame? -/
def State.keyReady (s : State) (k : Nat) : Bool := (s.slot k).state == 1 && 512 * 256 ≤ (s.slot k).remaining

/-- A page of a frame goes out to its lender's address `g`; the frame goes on to its next one. -/
def State.pageOut (s : State) (p home g : Nat) (bs : List Byte) (mk : List Bool) : State :=
  ((s.modArena p fun r => r.modFrame home fun f => { f with next := f.next + 1 }).remoteWrite p g bs mk (.arenaOut home)).1

/-- The record of a page read with a mark (R157). -/
def State.pageMark (s : State) (p la : Nat) : State := if s.marked la 4096 then s.markedPiece p 0 0 (s.global la) else s

/-- A home's pages go out under the slot that is not active, or under the active one (log entry 101). -/
def Arena.setOther (r : Arena) (home : Nat) (alt : Bool) : Arena := { r with otherKey := if alt then setIns home r.otherKey else r.otherKey.filter (· != home) }

/-- A write-back finds no use under either key: it waits from now, if it does not wait already (R156). -/
def State.keyWait (s : State) (p home : Nat) : State := s.modArena p fun r => r.modFrame home fun f => { f with wait := some (f.wait.getD s.tick) }

/-- A write-back whose key has run out or faulted starts again under the other key, its pages under the first having arrived; where the other has
too little use left as well, it waits (R156; DESIGN CHOICE, log entry 117). -/
def State.changeKey (s : State) (p home : Nat) : State :=
  match s.arenaOf p with
  | none => s
  | some a =>
    let alt := !(s.part p).arena.otherKey.contains home
    let k := homeKey a ((s.part p).arena.setOther home alt) home
    if !s.keyReady k then s.keyWait p home
    else if s.awaits p (· == .arenaOut home) then s
    else s.modArena p fun r => (r.modFrame home fun f => { f with next := 0, wait := none }).setOther home alt

/-- A page under XTS: the key's use is charged, and counted as peer traffic (R155, R156). -/
def State.pageSealed (s : State) (p home k g la : Nat) : State := match s.takeUse k 256 with
  | some t => (t.modArena p fun r => { r.modFrame home fun f => { f with wait := none } with peerTraffic := r.peerTraffic + 256 }).pageOut p home g
      (xtsEnc (s.slot k).xtsKey (g / 4096) (s.bytes la 4096)) (s.byteMarks la 4096)
  | none => s.changeKey p home

/-- The next page of a frame sent to its lender while fewer than 32 pieces are on their way, under XTS where set (R153, R155). -/
def State.sendPage (s : State) (p home : Nat) : State :=
  match s.arenaOf p, (s.part p).arena.find home with
  | some a, some f =>
    if 512 ≤ f.next ∨ 32 ≤ s.arenaFlight p then s
    else
      let la := poolAddr a f.pool + 4096 * f.next
      let g := home * frameBytes + 4096 * f.next
      let t := s.pageMark p la
      if saXts a then t.pageSealed p home (homeKey a (s.part p).arena home) g la else t.pageOut p home g (s.bytes la 4096) (s.byteMarks la 4096)
  | _, _ => s

/-- Every page of a frame that may go now. -/
def State.sendPages (s : State) (p home : Nat) : State := s.each (List.range 512) fun s _ => s.sendPage p home

/-- A dirty frame written back: to a crucible home at once; to a lender, page by page, under the active key or, where that has too little use
left, under the other; where neither has enough it waits (R153, R155, R156). -/
def State.writeBack (s : State) (p : Nat) (f : Frame) (bad fixed : List Nat) : State :=
  match s.arenaOf p with
  | none => s
  | some a =>
    let src := poolAddr a f.pool
    let g := f.home * frameBytes
    let freed := fun (s : State) => (s.modArena p fun r => r.release f.home).arenaMoved p
    if s.homeLocal f.home then freed (s.copyFrame p src (gLocal g) bad fixed)
    else if s.lostMod p (gModule g) then freed (s.addrErr p g)
    else
      let r := (s.part p).arena
      let other := activeKey a { r with altKey := !r.altKey }
      let go := fun (alt : Bool) => ((s.frameErrors src bad fixed).modArena p fun r =>
        (r.modFrame f.home fun f => { f with st := .writeback, next := 0, wait := none }).setOther f.home alt).sendPages p f.home
      if !saXts a || s.keyReady (activeKey a r) then go false
      else if s.keyReady other then go true
      else s.keyWait p f.home

/-- The arena unit keeps 16 pool frames free: a write-back whose last page is acknowledged frees its frame, one with pages left sends them; else
the least recently used frame not in use is freed or written back (R153). -/
def doArenaWriteback (p : Nat) (bad fixed : List Nat) (s : State) : State :=
  match s.arenaOf p with
  | none => s
  | some _ =>
    let r := (s.part p).arena
    match r.frames.find? fun f => f.st == .writeback && 512 ≤ f.next && !s.awaits p (fun o => match o with | .arenaOut h => h == f.home | _ => false) with
    | some f => (s.modArena p fun r => r.release f.home).arenaMoved p
    | none =>
      match r.frames.find? fun f => f.st == .writeback && f.next < 512 with
      | some f => s.sendPages p f.home
      | none =>
        if 16 ≤ r.free then s
        else match s.oldest p with
          | none => s
          | some f => if f.st = .clean then s.modArena p fun r => r.release f.home else s.writeBack p f bad fixed

def execArenaWriteback (p : FrameRead) (s : State) : Host.Outcome State Fault Refusal :=
  answer (Instr.arenaWriteback p).wf (doArenaWriteback p.of p.bad p.fixed s)

/-- The tick since which the write-back that has waited longest waits for a key. -/
def Arena.waitFrom (r : Arena) : Option Nat := (r.frames.filterMap (·.wait)).min?

/-- A write-back waits for a key beyond the wait limit (R156); each that waits is timed anew. -/
def doArenaStall (p : Nat) (s : State) : State :=
  match (s.part p).arena.waitFrom with
  | some t =>
    if s.waitLimit p < s.tick - t then
      (s.modArena p fun r => { r with frames := r.frames.map fun f => { f with wait := f.wait.map fun _ => s.tick } }).raise (recPart p sevPart (Config.faultCode 156))
    else s
  | none => s

def execArenaStall (p : Nat) (s : State) : Host.Outcome State Fault Refusal :=
  answer (Instr.arenaStall p).wf (doArenaStall p s)

/-! ## Boundary (R154, R156) -/

/-- Every pool frame free with no write-back, every home not written. -/
def Arena.emptied (r : Arena) : Arena := { r with frames := [], free := r.free + r.frames.length, written := [], otherKey := [] }

/-- Is no frame filling or writing back? -/
def Arena.still (r : Arena) : Bool := r.frames.all fun f => f.st == .clean || f.st == .dirty

/-- The book of pool frames (R154). -/
def Arena.book (r : Arena) (a : Nat) : Bool := r.free + r.frames.length == saPool a

/-- Action 2 on the arena: emptied, and its key switched where the active one has less than twice the step's peer traffic left
(R154, R156). -/
def State.arenaBoundary (s : State) (p : Nat) : State :=
  match s.arenaOf p with
  | none => s
  | some a =>
    let r := (s.part p).arena
    let k := activeKey a r
    let switch := saXts a && saKey a != saKeyAlt a && (s.slot k).remaining < 2 * r.peerTraffic
    let s := s.modArena p fun r => { r.emptied with altKey := if switch then !r.altKey else r.altKey, peerTraffic := 0 }
    if switch then s.notice p 4 (if r.altKey then saKey a else saKeyAlt a) else s

end Sys2Proof.Machine
end

