-- ==== Sys2Proof/Machine/TemperUnit.lean ====
section
/-! DEFINITION. Temper engines: launches, programs, runs, stores and flags (chapter 05). -/

namespace Sys2Proof.Machine

/-- Hearths of a partition. -/
def State.hearthsOf (s : State) (p : Nat) : List Nat := (List.range (hearthCount s.nparts)).map (hearthBase s.nparts p + ·)

/-! ## `TEMPER_LAUNCH` (Table 05-3) -/

def tlProg (d : Nat) : Nat := bits d 511 448
def tlLen (d : Nat) : Nat := bits d 447 441
def tlVL (d : Nat) : Nat := bits d 440 430
def tlSeg (d : Nat) : Nat := bits d 429 426
def tlIn (d : Nat) : Nat := bits d 425 424
def tlInReg (d : Nat) : Nat := bits d 423 419
def tlInFmt (d : Nat) : Nat := bits d 418 415
def tlInOff (d : Nat) : Nat := bits d 414 393
def tlInPitch (d : Nat) : Nat := bits d 392 371
def tlRuns (d : Nat) : Nat := bits d 370 355
def tlFirst (d : Nat) : Nat := bits d 354 347
def tlCount (d : Nat) : Nat := bits d 346 338
def tlScaleA (d : Nat) : Nat := bits d 337 322
def tlScaleB (d : Nat) : Nat := bits d 321 306
def tlElem (d : Nat) : Nat := bits d 305 266
def tlTrap (d : Nat) : Nat := bits d 265 258
def tlOcc (d : Nat) : Nat := bits d 91 68

/-- One output's fields. -/
structure OutCfg where
  en : Bool
  fmt : Nat
  cvt : Nat
  rule : Bool
  off : Nat
  pitch : Nat
  soff : Nat

def tlOut (d : Nat) (k : Nat) : OutCfg :=
  if k = 0 then ⟨bit d 257, bits d 256 253, bits d 252 250, bit d 249, bits d 248 227, bits d 226 205, bits d 204 183⟩
  else ⟨bit d 182, bits d 181 178, bits d 177 175, bit d 174, bits d 173 152, bits d 151 130, bits d 129 108⟩

/-- Tensor ID of an output (note a of Table 05-3). -/
def outTensor (d tensor k : Nat) : Nat := if k = 0 then tensor else bits d 107 92

/-- Rounding of a `CVT_MODE` with the 16 bits `r` (Table 04-2). -/
def cvtRnd (cvt r : Nat) : Rnd := if cvt / 2 = 0 then .rne else if cvt / 2 = 1 then .rtz else .sr r

/-- Modes that a format accepts (R82, Table 04-3). -/
def cvtOk (fmt cvt : Nat) : Bool := cvt / 2 != 3 && (fmt != 9 || cvt == 0) && (!fmtMX fmt || cvt % 2 == 1)

/-- Segments of a launch (R101). -/
def segCount (d : Nat) : Nat := ceilDiv (tlVL d) (2 ^ tlSeg d)

/-- Is a tile register in a source's mask (R102)? -/
def ownsReg (own : Nat) (src : Src) (k : Nat) : Bool :=
  match src with
  | .fwd => k < 28 && (bits own 27 0).testBit k
  | .bwd => k < 28 && (bits own 55 28).testBit k
  | .upd => k < 28 && (bits own 83 56).testBit k
  | .coll => 28 ≤ k && k < 32

/-- One output's own checks (R104). -/
def outOk (d : Nat) (o : OutCfg) : Bool :=
  let mx := fmtMX o.fmt
  o.fmt ≤ 9 && cvtOk o.fmt o.cvt && (mx || (!o.rule && o.soff == 0)) && o.off % 64 == 0 && o.pitch % (if mx then 64 else 4) == 0 &&
  (!o.en || !mx || (tlVL d % 32 == 0 && o.soff + 32 * (tlRuns d - 1) + tlVL d / 32 ≤ sramBytes))

/-- The checks of R104 on a launch of source `src`, in a partition with `n` hearths of which `off` are OFFLINE. -/
def launchOk (d own : Nat) (src : Src) (n : Nat) (off : List Nat) : Bool :=
  let k := tlIn d
  1 ≤ tlLen d && tlLen d ≤ 64 && 1 ≤ tlVL d && tlVL d ≤ 1024 && tlSeg d ≤ 10 && k != 3 && tlRuns d != 0 && tlProg d % 64 == 0 &&
  tlInOff d % 64 == 0 && tlInPitch d % 64 == 0 && (k != 0 || tlInReg d == 0) &&
  (k == 0 || (tlInReg d % 2 == 0 && ownsReg own src (tlInReg d) && (tlRuns d == 1 || ownsReg own src (tlInReg d + 1)))) &&
  (if k = 2 then (tlInFmt d ≤ 1 || (7 ≤ tlInFmt d && tlInFmt d ≤ 9)) && tlInOff d + (tlRuns d - 1) * tlInPitch d + tlVL d * (fmtBits (tlInFmt d) / 8) ≤ sramBytes
   else tlInFmt d == 0) &&
  1 ≤ tlCount d && tlFirst d + tlCount d ≤ n && outOk d (tlOut d 0) && outOk d (tlOut d 1) && bits d 67 0 == 0 &&
  off.all fun h => h < tlFirst d || tlFirst d + tlCount d ≤ h

/-! ## `TEMPER_INSN` (Table 05-4) -/

def tiOp (w : Nat) : Nat := bits w 63 58
def tiDst (w : Nat) : Nat := bits w 57 52
def tiA (w : Nat) : Nat := bits w 51 46
def tiB (w : Nat) : Nat := bits w 45 40
def tiC (w : Nat) : Nat := bits w 39 34
def tiUseImm (w : Nat) : Bool := bit w 33
def tiImm (w : Nat) : Nat := bits w 31 0

/-- Operands that an op uses: dst, a, b, c, and its control bits of imm; none for a reserved code (Table 05-5). SCALE has imm[31] and
imm[15:0] whichever of the two it then reads (DESIGN CHOICE, log entry 98). -/
def opUses (op : Nat) : Option (Bool × Bool × Bool × Bool × Nat) :=
  if op = 0x00 then some (false, false, false, false, 0)
  else if op ≤ 0x03 then some (true, true, true, false, 0)
  else if op = 0x04 then some (true, true, true, true, 0)
  else if op ≤ 0x06 then some (true, true, true, false, 0)
  else if op ≤ 0x0D then some (true, true, false, false, 0)
  else if op = 0x0E then some (true, true, false, false, 0x8000FFFF)
  else if op = 0x0F then none
  else if op ≤ 0x12 then some (true, true, true, false, 0)
  else if op = 0x13 then some (true, true, true, true, 0)
  else if op ≤ 0x17 then none
  else if op ≤ 0x1E then some (true, true, true, false, 0)
  else if op = 0x1F then some (true, false, false, false, 3)
  else if op ≤ 0x21 then some (true, true, false, false, 0)
  else if op ≤ 0x27 then none
  else if op ≤ 0x29 then some (true, true, true, false, 0)
  else if op = 0x2A then some (true, true, false, false, 0)
  else if op ≤ 0x2F then none
  else if op ≤ 0x32 then some (true, true, false, false, 0)
  else if op = 0x33 then some (true, true, false, false, 1)
  else if op = 0x34 then some (true, true, true, false, 0)
  else if op = 0x38 then some (false, true, false, false, 3)
  else none

/-- Is an operand code legal for the source (R102, R106, note a of Table 05-4)? -/
def codeOk (own : Nat) (src : Src) (inKind : Nat) (dest : Bool) (c : Nat) : Bool :=
  if c < 0x10 then true else if c < 0x30 then ownsReg own src (c - 0x10) else c == 0x30 && !dest && inKind != 0

/-- Is one word of a program legal (R109)? PADD has no imm in place of its pair src_b (DESIGN CHOICE, log entry 98). -/
def insnOk (d own : Nat) (src : Src) (w : Nat) : Bool :=
  let op := tiOp w
  match opUses op with
  | none => false
  | some (ud, ua, ub, uc, ctl) =>
    let imm := tiImm w
    !bit w 32 && (!tiUseImm w || (ub && tiB w == 0 && op != 0x34)) &&
    (if tiUseImm w then true else imm &&& ctl == imm) &&
    (if ud then codeOk own src (tlIn d) true (tiDst w) else tiDst w == 0) &&
    (if ua then codeOk own src (tlIn d) false (tiA w) else tiA w == 0) &&
    (if ub && !tiUseImm w then codeOk own src (tlIn d) false (tiB w) else tiB w == 0) &&
    (if uc then codeOk own src (tlIn d) false (tiC w) else tiC w == 0) &&
    (op != 0x33 || imm.testBit 0 || (tiDst w != 0x0F && codeOk own src (tlIn d) true (tiDst w + 1))) &&
    (op != 0x34 || (tiDst w % 2 == 0 && tiDst w < 15 && tiA w % 2 == 0 && tiA w < 15 && tiB w % 2 == 0 && tiB w < 15)) &&
    (op != 0x29 || (0x10 ≤ tiA w && tiA w < 0x30)) && (op != 0x2A || tlVL d == 1024) &&
    (op != 0x38 || ((tlOut d (imm % 2)).en && !(imm.testBit 1 && fmtMX (tlOut d (imm % 2)).fmt)))

/-- Does output `k` keep the extent its stores write within 4 MiB (R109)? -/
def extentOk (d : Nat) (prog : List Nat) (k : Nat) : Bool :=
  let sts := prog.filter fun w => tiOp w == 0x38 && tiImm w % 2 == k
  let o := tlOut d k
  let ext := if sts.any (fun w => !(tiImm w).testBit 1) then tlVL d else segCount d
  sts.isEmpty || o.off + (tlRuns d - 1) * o.pitch + ceilDiv (ext * fmtBits o.fmt) 8 ≤ sramBytes

/-! ## The vector machine (R100, R106, R110-R113) -/

/-- Sticky flag bits (Table 05-7). -/
def flInvalid : Nat := 1
def flDivz : Nat := 2
def flOver : Nat := 4
def flUnder : Nat := 8
def flRange : Nat := 16
def flSat : Nat := 32
def flInt : Nat := 64
def flSlag : Nat := 128

def isNan (w : W32) : Bool := f32 w == .nan
def isInf (w : W32) : Bool := match f32 w with | .inf _ => true | _ => false
def isZero (w : W32) : Bool := (f32 w).isZero

/-- INVALID and OVERFLOW from the operands and results of an arithmetic op (Table 05-7). -/
def fpFlags (ins outs : List W32) : Nat :=
  if outs.any isNan && !ins.any isNan then flInvalid
  else if outs.any isInf && ins.all isFinite then flOver
  else 0

/-- A result with its flags: `nz` says that the exact result is nonzero. -/
def fpOut (ins : List W32) (r : W32) (nz : Bool) : W32 × Nat := (r, fpFlags ins [r] ||| (if nz && isZero r then flUnder else 0))

def b32 (b : Bool) : W32 := if b then 1#32 else 0#32

def nonzeroFin (x : Fp) : Bool := match x with | .fin _ m _ => m != 0 | _ => false

/-- One elementwise op (Table 05-5): operands, launch scale, element and run number. -/
def elemOp (op imm : Nat) (scale : Int) (a b c : W32) (e n : Nat) : W32 × Nat :=
  match op with
  | 0x01 => fpOut [a, b] (fadd a b) false
  | 0x02 => fpOut [a, b] (fsub a b) false
  | 0x03 => fpOut [a, b] (fmul a b) (nonzeroFin ((f32 a).mul (f32 b)))
  | 0x04 => fpOut [a, b, c] (ffma a b c) (nonzeroFin (((f32 a).mul (f32 b)).add (f32 c)))
  | 0x05 => (fmin a b, 0)
  | 0x06 => (fmax a b, 0)
  | 0x07 => (fabs a, 0)
  | 0x08 => (fneg a, 0)
  | 0x09 => fpOut [a] (fsqrt a) false
  | 0x0A => if isZero a then (frcp a, flDivz) else fpOut [a] (frcp a) (isFinite a)
  | 0x0B => if isZero a then (frsqrt a, flDivz) else fpOut [a] (frsqrt a) false
  | 0x0C => fpOut [a] (fexp2 a) (isFinite a)
  | 0x0D => if isZero a then (flog2 a, flDivz) else fpOut [a] (flog2 a) false
  | 0x0E => let k := if imm.testBit 31 then scale else sext 16 imm
            fpOut [a] (fscale k a) (nonzeroFin (f32 a))
  | 0x10 => (b32 ((f32 a).lt (f32 b)), 0)
  | 0x11 => (b32 ((f32 a).le (f32 b)), 0)
  | 0x12 => (b32 ((f32 a).le (f32 b) && (f32 b).le (f32 a)), 0)
  | 0x13 => (if a = 0#32 then c else b, 0)
  | 0x18 => (a + b, 0)
  | 0x19 => (a - b, 0)
  | 0x1A => (a &&& b, 0)
  | 0x1B => (a ||| b, 0)
  | 0x1C => (a ^^^ b, 0)
  | 0x1D => (a <<< (b.toNat % 32), 0)
  | 0x1E => (a >>> (b.toNat % 32), 0)
  | 0x1F => (BitVec.ofNat 32 (match imm % 4 with | 0 => e | 1 => e / 32 | 2 => e % 32 | _ => n), 0)
  | 0x20 => let r := cvti a; (r.1, if r.2 then flInt else 0)
  | 0x21 => (cvtf a, 0)
  | _ => (a, 0)

/-- Plain sum of a segment in the lane and tree order of R93 (R112). -/
def rsum (l : List W32) : W32 :=
  let lanes := (List.range 128).map fun j => ((strided 128 j l).foldl fadd f32Zero, f32Zero)
  let lvl := fun (q : List (W32 × W32)) => (chunks 2 q).map fun c => (fadd (c.getD 0 (f32Zero, f32Zero)).1 (c.getD 1 (f32Zero, f32Zero)).1, f32Zero)
  (((List.range 7).foldl (fun q _ => lvl q) lanes).headD (f32Zero, f32Zero)).1

/-- INVALID and OVERFLOW of one addition. -/
def addFlags (x y : W32) : Nat := fpFlags [x, y] [fadd x y]

/-- Flags of the additions inside neu_add of R93. -/
def neuFlags (s c x : W32) : Nat :=
  let t := fadd s x
  let (u, v) := if (f32 (fabs x)).le (f32 (fabs s)) then (s, x) else (x, s)
  let d := fsub u t
  addFlags s x ||| (if isFinite t then fpFlags [u, t] [d] ||| addFlags d v ||| addFlags c (fadd d v) else 0)

/-- Flags of the IEEE sum of a list's non-finite values (R93). -/
def nonfinFlags (l : List W32) : Nat :=
  match l.filter (fun w => !isFinite w) with
  | [] => 0
  | x :: xs => (xs.foldl (fun (a, f) y => (fadd a y, f ||| addFlags a y)) (fadd x f32Zero, 0)).2

/-- Flags of a value added to a running pair, and of a pair combined with another (R93). -/
def stepFlags (p : W32 × W32) (x : W32) : Nat := if isFinite p.1 then neuFlags p.1 p.2 x else 0
def pairFlags (a b : W32 × W32) : Nat :=
  match nonfinSum [a.1, a.2, b.1, b.2] with
  | some _ => nonfinFlags [a.1, a.2, b.1, b.2]
  | none => addFlags a.2 b.2 ||| neuFlags a.1 (fadd a.2 b.2) b.1

/-- Flags of one level, and of `n` levels, of the balanced tree. -/
def levelFlags : List (W32 × W32) → Nat
  | a :: b :: r => pairFlags a b ||| levelFlags r
  | _ => 0
def treeFlags : Nat → List (W32 × W32) → Nat
  | 0, _ => 0
  | n + 1, l => levelFlags l ||| treeFlags n (pairLevel l)

/-- Flags of a running pair over a list. -/
def runFlags (p : W32 × W32) (l : List W32) : Nat := (l.foldl (fun (q, f) x => (pairStep q x, f ||| stepFlags q x)) (p, 0)).2

/-- Flags of every addition of the compensated sum's pair (R93). -/
def csumFlags (l : List W32) : Nat :=
  match nonfinSum l with
  | some _ => nonfinFlags l
  | none =>
    let lanes := (List.range 128).map fun j => strided 128 j l
    (lanes.map (runFlags (f32Zero, f32Zero))).foldl (· ||| ·) 0 ||| treeFlags 7 (lanes.map fun x => x.foldl pairStep (f32Zero, f32Zero))

/-- Flags of every addition of the plain sum. -/
def rsumFlags (l : List W32) : Nat :=
  let lanes := (List.range 128).map fun j => (strided 128 j l).foldl (fun (a, f) x => (fadd a x, f ||| addFlags a x)) (f32Zero, 0)
  let lvl := fun (q : List (W32 × Nat)) => (chunks 2 q).map fun c =>
    let a := c.getD 0 (f32Zero, 0)
    let b := c.getD 1 (f32Zero, 0)
    (fadd a.1 b.1, a.2 ||| b.2 ||| addFlags a.1 b.1)
  (((List.range 7).foldl (fun q _ => lvl q) lanes).headD (f32Zero, 0)).2

/-- One segment's reduction: its result, the pair's second word, the flags of every addition in it, and its mark (R112, R93). -/
def segReduce (op imm : Nat) (xs : List Elem) : W32 × W32 × Nat × Bool :=
  let v := xs.map (·.1)
  let m := xs.any (·.2)
  match op with
  | 0x30 => (rsum v, f32Zero, rsumFlags v, m)
  | 0x31 => let r := v.foldl fmax (v.headD f32Zero); (r, f32Zero, 0, m)
  | 0x32 => let r := v.foldl fmin (v.headD f32Zero); (r, f32Zero, 0, m)
  | _ =>
    let p := csumPair v
    if imm.testBit 0 then (csum v, f32Zero, csumFlags v ||| (if isFinite p.1 then addFlags p.1 p.2 else 0), m)
    else (p.1, p.2, csumFlags v, m)

/-- State of one run. -/
structure TRun where
  temps : List (List Elem)
  tregs : List (Nat × List Elem)
  flags : Nat := 0
  trap : Option (Nat × Nat × Nat) := none -- flag, instruction index, lowest element
  stores : List (Nat × List Byte × List Bool) := [] -- SRAM offset, bytes, mark of each byte
  samples : List (Nat × List Samp) := []
  repro : Bool := false
  parity : Nat := 0                        -- parity errors of temporaries met

def blankVec : List Elem := List.replicate 1024 (f32Zero, false)
def tregOf (l : List (Nat × List Elem)) (k : Nat) : List Elem := assocGet k blankVec l

/-- The vector that an operand code names, `inReg` standing for IN. -/
def TRun.reg (r : TRun) (inReg c : Nat) : List Elem :=
  if c < 0x10 then r.temps.getD c blankVec else if c < 0x30 then tregOf r.tregs (c - 0x10) else tregOf r.tregs inReg

/-- The first elements of a destination written (R100). -/
def TRun.put (r : TRun) (c : Nat) (v : List Elem) : TRun :=
  if c < 0x10 then { r with temps := updAt r.temps c fun o => v ++ o.drop v.length }
  else { r with tregs := assocSet (c - 0x10) (v ++ (tregOf r.tregs (c - 0x10)).drop v.length) r.tregs }

/-- Flags of an instruction, (element, mask) pairs in element order, made sticky; an enabled one traps with the lowest element that raised it
(R116). Where one instruction raises several enabled flags, no rule says which the record names: the lowest-numbered (DESIGN CHOICE, log entry
123). -/
def TRun.raiseFlags (r : TRun) (trapEn idx : Nat) (l : List (Nat × Nat)) : TRun :=
  let all := l.foldl (fun m x => m ||| x.2) 0
  let hit := (List.range 8).find? fun k => (all &&& trapEn).testBit k
  { r with flags := r.flags ||| all,
           trap := match r.trap, hit with
             | none, some k => some (k, idx, ((l.find? fun x => x.2.testBit k).map (·.1)).getD 0)
             | t, _ => t }

/-- Codes of `w` bits packed into bytes from the low end (Table 03-5). -/
def packCodes (w : Nat) (cs : List Nat) : List Byte :=
  if w = 8 then cs.map (BitVec.ofNat 8)
  else if w = 16 then cs.flatMap (leBytes 2)
  else if w = 32 then cs.flatMap (leBytes 4)
  else if w = 4 then (chunks 2 cs).map fun c => BitVec.ofNat 8 (c.getD 0 0 + 16 * c.getD 1 0)
  else (chunks 4 cs).flatMap fun c => (leBytes 3 (c.getD 0 0 + 64 * c.getD 1 0 + 4096 * c.getD 2 0 + 262144 * c.getD 3 0)).take (ceilDiv (6 * c.length) 8)

/-- Conversion of a list of FP32 values to a format: scale bytes, and each value's code and event (R83, R87). -/
def convertAll (fmt cvt : Nat) (rule : Bool) (rnds : List Rnd) (xs : List W32) : List Nat × List (Nat × CvtEv) :=
  if fmtMX fmt then
    let bl := ((chunks 32 xs).zip (chunks 32 rnds)).map fun (b, r) => mxBlock fmt rule r (b.map f32)
    (bl.map (·.1), bl.flatMap (·.2))
  else if fmt = 9 then ([], xs.map fun x => ((if isNan x then f32Nan else x).toNat, if isFinite x then .none else .nonfin))
  else ([], (xs.zip rnds).map fun (x, r) => (fmtOf fmt).enc r (cvt % 2 == 1) (f32 x))

/-- The rounding of each element of a store, and whether any fell back from SR (R85, R86). -/
def srRnds (cvt seed tensor step occ pos0 n : Nat) : List Rnd × Bool :=
  if cvt / 2 = 2 then
    ((List.range n).map fun g => if 2 ^ 40 ≤ pos0 + g then .rne else .sr (srBits seed tensor step occ (pos0 + g)), 2 ^ 40 < pos0 + n)
  else (List.replicate n (cvtRnd cvt 0), false)

/-- A value's zero count: the value, or its converted result, is ±0 (R125). -/
def convZero (fmt : Nat) (scale : Option Nat) (x : W32) (code : Nat) : Bool := isZero x || (scale != some 0xFF && ((fmtOf fmt).dec code).isZero)

/-- Job seed and step that SR draws from (R85). -/
structure SrCtx where
  seed : Nat
  step : Nat

/-- A store (R113). -/
def TRun.store (r : TRun) (ctx : SrCtx) (d tensor n idx imm : Nat) (a : List Elem) : TRun :=
  let k := imm % 2
  let o := tlOut d k
  let head := imm.testBit 1
  let vl := tlVL d
  let es : List (Nat × Elem) := (enum (a.take vl)).filter fun (e, _) => !head || e % 2 ^ tlSeg d == 0
  let xs := es.map (·.2.1)
  let mks : List Bool := es.map (·.2.2)
  let cnt := es.length
  let t := outTensor d tensor k
  let (rnds, fb) := srRnds o.cvt ctx.seed t ctx.step (tlOcc d) (tlElem d + n * cnt) cnt
  let (scs, cds) := convertAll o.fmt o.cvt o.rule rnds xs
  let w := fmtBits o.fmt
  let bytes := packCodes w (cds.map (·.1))
  let bmark := (List.range bytes.length).map fun i => ((mks.drop (8 * i / w)).take ((8 * i + 7) / w + 1 - 8 * i / w)).any id
  let fl := ((es.zip cds).map fun ((e, _, m), (_, (ev : CvtEv))) => (e, (if ev = CvtEv.sat then flSat else if ev = CvtEv.udf then flUnder else 0) ||| (if m then flSlag else 0)))
  let smp := (enum (es.zip cds)).map fun (g, (_, x, m), (c, ev)) => ({ val := x, zero := convZero o.fmt (if fmtMX o.fmt then scs[g / 32]? else none) x c, ev := ev, slag := m } : Samp)
  let r := { r with
    stores := r.stores ++ [(o.off + n * o.pitch, bytes, bmark)] ++
      (if fmtMX o.fmt then [(o.soff + 32 * n, scs.map (BitVec.ofNat 8), (chunks 32 mks).map (fun (l : List Bool) => l.any id))] else [])
    samples := if t = 0xFFFF then r.samples else r.samples ++ [(t, smp)]
    repro := r.repro || fb }
  r.raiseFlags (tlTrap d) idx fl

/-- One instruction of a run. A flag that the arithmetic of a reduction raises counts as raised at the first element of its segment, as no rule
names the element (DESIGN CHOICE, log entry 123). -/
def TRun.insn (r : TRun) (ctx : SrCtx) (d tensor : Nat) (scale : Int) (n inReg idx w : Nat) : TRun :=
  let op := tiOp w
  let imm := tiImm w
  let vl := tlVL d
  let a := r.reg inReg (tiA w)
  let b : List Elem := if tiUseImm w then List.replicate 1024 (BitVec.ofNat 32 imm, false) else r.reg inReg (tiB w)
  let c := r.reg inReg (tiC w)
  match opUses op with
  | none => r
  | some (_, ua, ub, uc, _) =>
    if op = 0x00 then r
    else if op = 0x38 then r.store ctx d tensor n idx imm a
    else if op = 0x34 then
      let a2 := r.reg inReg (tiA w + 1)
      let b2 := r.reg inReg (tiB w + 1)
      let l := (enum (a.take vl)).map fun (e, x) =>
        let x2 := a2.getD e (f32Zero, false)
        let y := b.getD e (f32Zero, false)
        let y2 := b2.getD e (f32Zero, false)
        let p := pairAdd (x.1, x2.1) (y.1, y2.1)
        let m := x.2 || x2.2 || y.2 || y2.2
        (p, m, pairFlags (x.1, x2.1) (y.1, y2.1) ||| (if m then flSlag else 0))
      ((r.put (tiDst w) (l.map fun x => (x.1.1, x.2.1))).put (tiDst w + 1) (l.map fun x => (x.1.2, x.2.1))).raiseFlags (tlTrap d) idx (enum (l.map (·.2.2)))
    else if op = 0x28 ∨ op = 0x29 then
      let lim := if op = 0x28 then vl else 1024
      let l := (enum (b.take vl)).map fun (_, x) =>
        if x.1.toNat < lim then let y := a.getD x.1.toNat (f32Zero, false); (y, if y.2 || x.2 then flSlag else 0)
        else ((f32Zero, false), flRange ||| (if x.2 then flSlag else 0))
      (r.put (tiDst w) (l.map (·.1))).raiseFlags (tlTrap d) idx (enum (l.map (·.2)))
    else if op = 0x2A then
      let l := (List.range vl).map fun e => a.getD (32 * (e % 32) + e / 32) (f32Zero, false)
      (r.put (tiDst w) l).raiseFlags (tlTrap d) idx (enum (l.map fun x => if x.2 then flSlag else 0))
    else if 0x30 ≤ op then
      let segs := chunks (2 ^ tlSeg d) (a.take vl)
      let l := segs.map fun xs => (xs, segReduce op imm xs)
      let v1 : List Elem := l.flatMap fun (xs, x) => List.replicate xs.length (x.1, x.2.2.2)
      let v2 : List Elem := l.flatMap fun (xs, x) => List.replicate xs.length (x.2.1, x.2.2.2)
      let fl := enum (l.flatMap fun (xs, x) => (enum xs).map fun (i, y) => (if i = 0 then x.2.2.1 else 0) ||| (if y.2 then flSlag else 0))
      let r := r.put (tiDst w) v1
      let r := if op = 0x33 && !imm.testBit 0 then r.put (tiDst w + 1) v2 else r
      r.raiseFlags (tlTrap d) idx fl
    else
      let l := (List.range vl).map fun e =>
        let x := a.getD e (f32Zero, false)
        let y := b.getD e (f32Zero, false)
        let z := c.getD e (f32Zero, false)
        let m := (ua && x.2) || (ub && y.2) || (uc && z.2)
        let o := elemOp op imm scale x.1 y.1 z.1 e n
        ((o.1, m), o.2 ||| (if m then flSlag else 0))
      (r.put (tiDst w) (l.map (·.1))).raiseFlags (tlTrap d) idx (enum (l.map (·.2)))

/-- Operand codes that a word reads (Table 05-5). -/
def insnReads (w : Nat) : List Nat :=
  match opUses (tiOp w) with
  | none => []
  | some (_, ua, ub, uc, _) =>
    (if ua then [tiA w] else []) ++ (if ub && !tiUseImm w then [tiB w] else []) ++ (if uc then [tiC w] else []) ++
      (if tiOp w = 0x34 then [tiA w + 1, tiB w + 1] else [])

/-- Elements of the temporaries that a word reads with a parity error become marked (R119). -/
def TRun.parityHits (r : TRun) (vl w : Nat) (l : List (Nat × Nat)) : TRun :=
  let hit := l.filter fun (t, e) => t < 16 && e < vl && (insnReads w).contains t
  { r with temps := hit.foldl (fun ts (t, e) => updAt ts t fun v => updAt v e fun x => (x.1, true)) r.temps, parity := r.parity + hit.length }

/-- A whole program, up to the instruction that traps (R109, R116). -/
def TRun.program (ctx : SrCtx) (d tensor : Nat) (scale : Int) (n inReg : Nat) (prog : List Nat) (par : List (Nat × Nat × Nat)) (r : TRun) : TRun :=
  (enum prog).foldl (fun r (i, w) =>
    if r.trap.isSome then r
    else (r.parityHits (tlVL d) w (par.filterMap fun x => if x.1 = i then some x.2 else none)).insn ctx d tensor scale n inReg i w) r

/-- Does a program read the tile-register word `k`: two elements of a register (R119)? -/
def regRead (d inReg : Nat) (prog : List Nat) (k : Nat) : Bool :=
  prog.any fun w => ((insnReads w).contains (0x10 + k / 512) && k / 512 < 32 || (k / 512 == inReg && (insnReads w).contains 0x30)) &&
    (2 * (k % 512) < tlVL d || tiOp w == 0x29 || tiOp w == 0x2A)

/-- Both elements of each listed register word marked. -/
def markRegs (bad : List Nat) (l : List (Nat × List Elem)) : List (Nat × List Elem) :=
  bad.foldl (fun l k =>
    assocSet (k / 512) (updAt (updAt (tregOf l (k / 512)) (2 * (k % 512)) fun x => (x.1, true)) (2 * (k % 512) + 1) fun x => (x.1, true)) l) l

/-- Records of register and parity errors of a run (R119). -/
def runErrors (p h : Nat) (bad fixed : List Nat) (parity : Nat) (s : State) : State :=
  let s := s.each fixed fun s _ => s.raiseMem (recHearth p h sevCE 0x03)
  let s := s.each bad fun s _ => s.raiseMem (recHearth p h sevDef 0x04)
  s.each (List.range parity) fun s _ => s.raise (recHearth p h sevDef 0x05)

/-! ## The engine's commands -/

def srcIx : Src → Nat
  | .fwd => 0
  | .bwd => 1
  | .upd => 2
  | .coll => 3

def sidOfSrc : Src → Option Sid
  | .fwd => some .fwd
  | .bwd => some .bwd
  | .upd => some .upd
  | .coll => none

def sidIx : Sid → Nat
  | .fwd => 0
  | .bwd => 1
  | .upd => 2

/-- Stops a stream of partition `p` (R31). -/
def State.stopStream (s : State) (p : Nat) (t : Sid) : State := s.modRun p fun r => { r with seqs := updAt r.seqs (sidIx t) fun q => { q with stopped := true } }

/-- Tile-register ownership in force (R102). -/
def State.ownWord (s : State) (p : Nat) : Nat := match (s.part p).job with
  | some j => j.own
  | none => 0xF0000000FFF0000000FFF

/-- The next launch's program image is read and checked (R109). -/
def doTemperProgramLoad (h : Nat) (src : Src) (found : Found) (s : State) : State :=
  let x := s.temper h
  let i := srcIx src
  let p := hearthPart s.nparts h
  match x.cur.getD i none, (x.queues.getD i []).head? with
  | none, some e =>
    let la := gLocal (tlProg e.desc)
    let n := tlLen e.desc
    let prog := (chunks 8 (s.bytes la (8 * n))).map leNat
    let open_ := s.reach p (tlProg e.desc) (8 * n) [0]
    let s := if open_ then s.meet [(la, 8 * n)] found else s.addrErr p (tlProg e.desc)
    let bad := (enum prog).find? fun (k, w) => !open_ || s.marked (la + 8 * k) 8 || !insnOk e.desc (s.ownWord p) src w
    let s := s.modTemper h fun x => { x with queues := updAt x.queues i (·.drop 1) }
    let fail := fun (w : Nat) =>
      let s := s.modTemper h fun x => { x with failed := x.failed ++ [e.insn] }
      let s := match sidOfSrc src with | some t => s.stopStream p t | none => s
      s.raise { recHearth p h sevPart 0x20 with layer := e.layer, addr := tlProg e.desc, detail := w }
    match bad with
    | some (_, w) => fail w
    | none =>
      if extentOk e.desc prog 0 && extentOk e.desc prog 1 then
        s.modTemper h fun x => { x with cur := updAt x.cur i fun _ => some { ent := e, prog := prog, run := 0, input := none, waitFrom := s.tick } }
      else
        let k := if extentOk e.desc prog 0 then 1 else 0
        fail ((prog.find? fun w => tiOp w == 0x38 && tiImm w % 2 == k).getD 0)
  | _, _ => s

def execTemperProgramLoad (h : Nat) (src : ProgRead) (s : State) : Host.Outcome State Fault Refusal :=
  answer (Instr.temperProgramLoad h src).wf (doTemperProgramLoad h src.src src.found s)

/-- The input register that run `n` fills (Table 05-3). -/
def inputReg (d n : Nat) : Nat := tlInReg d + n % 2

/-- A launch's next input in place: its register filled and the run ready (R106). -/
def Temper.filled (x : Temper) (i : Nat) (l : Launch) (v : List Elem) : Temper :=
  let k := inputReg l.ent.desc l.run
  { x with tregs := assocSet k (v ++ (tregOf x.tregs k).drop v.length) x.tregs
           cur := updAt x.cur i fun _ => some { l with input := some v } }

/-- The input of a launch's next run is loaded: a billet of its source, or a vector of SRAM (R106, R107). -/
def doTemperInputLoad (h : Nat) (src : Src) (bad fixed split : List Nat) (s : State) : State :=
  let x := s.temper h
  let i := srcIx src
  let p := hearthPart s.nparts h
  match x.cur.getD i none with
  | none => s
  | some l =>
    let d := l.ent.desc
    if l.input.isSome ∨ tlRuns d ≤ l.run ∨ tlIn d = 0 then s
    else if tlIn d = 1 then
      match (s.hearth h).bq with
      | b :: rest =>
        if b.src = src then
          let m := b.slag || !bad.isEmpty || !split.isEmpty
          let s := s.modHearth h fun y => ({ y with bq := rest, free := y.free + 1 } : Hearth).watch s.tick
          let s := s.each (fixed ++ split) fun s _ => s.raiseMem (recHearth p h sevCE 0x03)
          let s := if bad.isEmpty then s else s.raiseMem (recHearth p h sevDef 0x04)
          s.modTemper h fun x => x.filled i l (b.data.map fun w => (w, m))
        else s
      | [] => s
    else
      let sz := fmtBits (tlInFmt d) / 8
      let off := tlInOff d + l.run * tlInPitch d
      let len := tlVL d * sz
      let bs := s.load (sramAddr h off) len
      let inR := fun (w : Nat) => off < 8 * w + 8 && 8 * w < off + len
      let hit := bad.filter inR
      let s := splitCopies p h (split.filter inR) s
      let s1 := sramErrors p h hit (fixed.filter inR) (s.addRbw p (s.rbwLines (sramAddr h off) len))
      let v := (enum (codesOf (tlInFmt d) bs)).map fun (e, c) =>
        ((if tlInFmt d = 9 then BitVec.ofNat 32 c else toF32 ((fmtOf (tlInFmt d)).dec c)), s1.loadMark (sramAddr h (off + e * sz)) sz)
      s1.modTemper h fun x => x.filled i l v

def execTemperInputLoad (h : Nat) (src : Src) (bad fixed split : List Nat) (s : State) : Host.Outcome State Fault Refusal :=
  answer (Instr.temperInputLoad h src bad fixed split).wf (doTemperInputLoad h src bad fixed split s)

/-- Arbitration order of an engine: collective, update, backward, forward (R105). -/
def temperOrder : List Nat := [3, 2, 1, 0]

/-- The launch whose next run starts: the highest-priority source with a ready run (R105, R106). -/
def Temper.ready (x : Temper) : Option (Nat × Launch) :=
  temperOrder.findSome? fun i => match x.cur.getD i none with
    | some l => if (tlIn l.ent.desc = 0 ∨ l.input.isSome) ∧ l.run < tlRuns l.ent.desc then some (i, l) else none
    | none => none

/-- What a finished program leaves: its stores, samples, flags and registers (R113, R116); a trap abandons the launch. The places of the source,
the flag, the instruction index, the run and the element in the trap record's detail, and of the source and the run in that of TEMPER_STARVE
(`doTemperStarve`), are the model's (DESIGN CHOICE, log entry 124). -/
def applyRun (p h i n : Nat) (l : Launch) (r : TRun) (s : State) : State :=
  let s := s.each r.stores fun s (off, bs, mk) => s.saveMarked (sramAddr h off) bs mk
  let s := s.each r.samples fun s (t, xs) => s.sample p (samplerTemper h) t xs
  let s := if r.repro then s.modRun p fun q => { q with repro := true } else s
  let last := n + 1 = tlRuns l.ent.desc
  let s := s.modTemper h fun x => { x with
    failed := if r.trap.isSome then x.failed ++ [l.ent.insn] else x.failed, tregs := r.tregs, temps := r.temps, flags := updAt x.flags i (· ||| r.flags), source := i, run := n
    pc := match r.trap with | some (_, k, _) => k | none => l.prog.length - 1
    cur := updAt x.cur i fun _ => if last || r.trap.isSome then none else some { l with run := n + 1, input := none, waitFrom := s.tick } }
  match r.trap with
  | some (k, idx, e) => s.raise { recHearth p h sevPart 0x27 with layer := l.ent.layer, detail := pack [(4, i), (4, k), (8, idx), (16, n), (32, e)] }
  | none => s

/-- The next ready run executes its whole program, in P0 (R105, R109, R116, R371); register and parity errors that it reads are met, and words whose slag
copies disagree (R119, R306). -/
def doTemperRun (h : Nat) (bad : List Nat) (fixed : HeldErrs) (par : List (Nat × Nat × Nat)) (s : State) : State :=
  let x := s.temper h
  let p := hearthPart s.nparts h
  match (if s.power.pstate = .p0 then x.ready else none) with
  | none => s
  | some (i, l) =>
    let d := l.ent.desc
    let q := s.part p
    let ctx : SrCtx := ⟨(q.job.map fun j => bits j.params 511 448).getD 0, q.run.step⟩
    let inR := inputReg d l.run
    let read := fun (l' : List Nat) => l'.filter (regRead d inR l.prog)
    let hit := read bad
    let split := read fixed.split
    let r0 : TRun := { temps := List.replicate 16 (List.replicate (tlVL d) (f32Zero, false)), tregs := markRegs (hit ++ split) x.tregs }
    let r := r0.program ctx d l.ent.tensor l.ent.scale l.run inR l.prog par
    applyRun p h i l.run l r (runErrors p h hit (read fixed.words ++ split) r.parity s)

def execTemperRun (h : Nat) (bad : List Nat) (fixed : HeldErrs) (par : List (Nat × Nat × Nat)) (s : State) : Host.Outcome State Fault Refusal :=
  answer (Instr.temperRun h bad fixed par).wf (doTemperRun h bad fixed par s)

/-- A billet launch that has waited beyond the wait limit is a fault (R107). -/
def doTemperStarve (h : Nat) (src : Src) (s : State) : State :=
  let i := srcIx src
  let p := hearthPart s.nparts h
  match (s.temper h).cur.getD i none with
  | some l =>
    if tlIn l.ent.desc = 1 ∧ l.input.isNone ∧ s.waitLimit p < s.tick - l.waitFrom then
      (s.modTemper h fun x => { x with cur := updAt x.cur i fun _ => some { l with waitFrom := s.tick } }).raise
        { recHearth p h sevPart 0x26 with layer := l.ent.layer, detail := pack [(4, i), (16, l.run)] }
    else s
  | none => s

def execTemperStarve (h : Nat) (src : Src) (s : State) : Host.Outcome State Fault Refusal :=
  answer (Instr.temperStarve h src).wf (doTemperStarve h src s)

/-! ## Boundary, discard and status (R118, R120, R121) -/

/-- Does the engine still hold anything of an instruction, or has it given its launch up (R105, R116)? -/
def Temper.holds (x : Temper) (insn : Nat) : Bool :=
  x.failed.contains insn || x.queues.any (fun q => q.any (·.insn == insn)) || x.cur.any fun l => match l with | some l => l.ent.insn == insn | none => false

/-- Registers, temporaries, flags and program buffers cleared (R120). -/
def Temper.boundary (x : Temper) : Temper := { x with tregs := [], temps := [], flags := [0, 0, 0, 0], cur := [none, none, none, none], failed := [] }

/-- A discard drops every launch too (R121). -/
def Temper.discard (x : Temper) : Temper := { x.boundary with queues := [[], [], [], []] }

/-- `TEMPER_STATUS` (Table 05-8). -/
def Temper.status (x : Temper) : Nat :=
  pack [(8, x.flags.getD 3 0), (8, x.flags.getD 2 0), (8, x.flags.getD 1 0), (8, x.flags.getD 0 0), (2, x.source), (1, 0), (6, x.pc),
    (5, (x.queues.map (·.length)).sum), (2, 0), (16, x.run)]

end Sys2Proof.Machine
end

