-- ==== Sys2Proof/Machine/Tongs.lean ====
section
/-! DEFINITION. Tongs descriptors: their checks, the engine of each, and the pieces they are carried out in (R144-R149). -/

namespace Sys2Proof.Machine

/-! ## `TONGS_DESC` (Table 07-4) -/

def tdSrc (d : Nat) : Nat := bits d 511 448
def tdDst (d : Nat) : Nat := bits d 447 384
def tdLen (d : Nat) : Nat := bits d 383 344
def tdRows (d : Nat) : Nat := bits d 343 328
def tdSPitch (d : Nat) : Nat := bits d 327 288
def tdDPitch (d : Nat) : Nat := bits d 287 248
def tdSFmt (d : Nat) : Nat := bits d 247 244
def tdDFmt (d : Nat) : Nat := bits d 243 240
def tdCvt (d : Nat) : Nat := bits d 239 237
def tdTensor (d : Nat) : Nat := bits d 236 221
def tdElem (d : Nat) : Nat := bits d 220 181
def tdOcc (d : Nat) : Nat := bits d 180 157
def tdList (d : Nat) : Nat := bits d 156 139

def tdFmtOk (f : Nat) : Bool := [0, 1, 7, 8, 9, 15].contains f
/-- Does the descriptor convert? -/
def tdConv (d : Nat) : Bool := tdSFmt d != tdDFmt d
/-- Bytes of one destination row. -/
def tdDLen (d : Nat) : Nat := tdLen d / tdSize (tdSFmt d) * tdSize (tdDFmt d)

/-- Is an end remote: on another module, or in a sibling partition's range (R146)? -/
def State.remoteEnd (s : State) (p g : Nat) : Bool :=
  gModule g != s.moduleId || (match byteOwner s.nparts (gSpace g) (gOffset g) with | some q => q != p | none => false)

/-- A local end: every row in the partition's own ranges, not lent, and wholly in the arena or wholly out of it (R146, R152). -/
def State.localEnd (s : State) (p g rows pitch n : Nat) : Bool :=
  (List.range rows).all fun r =>
    let a := g + r * pitch
    s.ownRange p a n [0, 1, 2, 3] && (s.lentAt p a n).isNone && (!s.arenaMeets p a n || s.arenaHolds p a n)

/-- One end: an arena address, a remote end, or a local one. -/
def State.endOk (s : State) (p g rows pitch n : Nat) : Bool :=
  if s.arenaMeets p g n then (List.range rows).all fun r => s.arenaHolds p (g + r * pitch) n
  else s.remoteEnd p g || s.localEnd p g rows pitch n

/-- Destinations of a GATHER: the list in own HBM. -/
def State.gatherList (s : State) (d : Nat) : List Nat := (chunks 8 (s.bytes (gLocal (tdDst d)) (8 * tdList d))).map leNat

/-- The checks of R146 on a descriptor. Alignment is asked of the addresses, not of the pitches (DESIGN CHOICE, log entry 118: the rule says only that
addresses are aligned). -/
def State.tongsOk (s : State) (p op d : Nat) : Bool :=
  let sf := tdSFmt d
  let df := tdDFmt d
  let rows := tdRows d
  let arenaOp := op == 3 || op == 4
  op ≤ 4 && tdFmtOk sf && tdFmtOk df && (sf == df || (sf == 9 && df != 15) || (df == 9 && sf != 15)) &&
  tdLen d != 0 && tdLen d % tdSize sf == 0 && rows != 0 && (rows != 1 || (tdSPitch d == 0 && tdDPitch d == 0)) &&
  (if sf == 9 && df != 9 then cvtOk df (tdCvt d) else tdCvt d == 0) && bits d 138 0 == 0 &&
  (if op == 1 then 1 ≤ tdList d && tdList d ≤ 131072 && sf == df && tdDst d % 8 == 0 else tdList d == 0 && tdDst d % tdSize df == 0) &&
  tdSrc d % tdSize sf == 0 && (op ≤ 1 || tdSrc d == 0) &&
  (if arenaOp then rows == 1 && tdLen d % frameBytes == 0 && s.arenaHolds p (tdDst d) (tdLen d) else true) &&
  (if op == 0 then s.endOk p (tdSrc d) rows (tdSPitch d) (tdLen d) && s.endOk p (tdDst d) rows (tdDPitch d) (tdDLen d) &&
      !(s.remoteEnd p (tdSrc d) && s.remoteEnd p (tdDst d))
   else if op == 1 then
      (List.range rows).all (fun r => s.reach p (tdSrc d + r * tdSPitch d) (tdLen d) [0]) && s.reach p (tdDst d) (8 * tdList d) [0] &&
      (s.gatherList d).all fun g => s.remoteEnd p g || s.localEnd p g rows (tdDPitch d) (tdLen d)
   else if op == 2 then s.endOk p (tdDst d) rows (tdDPitch d) (tdDLen d)
   else true)

/-! ## Engine selection (Table 07-2) -/

/-- The bellows dies of a partition. -/
def bellowsOf (n p : Nat) : List Nat := (List.range (4 / n)).map (4 / n * p + ·)

/-- The engines a descriptor runs on: one, or for a GATHER one to a bellows die that has a destination. -/
def State.enginesFor (s : State) (p op d : Nat) : List Nat :=
  let n := s.nparts
  let bs := bellowsOf n p
  let die := fun (i : Nat) => 18 + bs.getD (i % bs.length) 0
  if op = 1 then (bs.take (tdList d)).map (18 + ·)
  else if s.remoteEnd p (tdDst d) ∨ (op = 0 ∧ s.remoteEnd p (tdSrc d)) then [die (gModule (tdDst d))]
  else
    let la := gLocal (tdDst d)
    if gSpace (tdDst d) = 3 then [la % 2 ^ 41 / sramBytes / 16]
    else if gSpace (tdDst d) = 0 then [s.stackOf la]
    else [16 + s.cruDieOf la]

/-- Entries that one engine holds for one stream of one partition (R147, note b of Table 07-2). -/
def engineRoom (n e : Nat) : Nat := if e = 16 ∨ e = 17 then (if n = 4 then 8 else 16) else 16

/-- Has an engine a free entry for a stream? -/
def State.tongsFree (s : State) (p : Nat) (t : Sid) (e : Nat) : Bool :=
  ((s.tongs.getD e []).filter fun x => x.part == p && x.src == some t && !x.dead).length < engineRoom s.nparts e

/-- A descriptor placed on its engines. -/
def State.tongsPlace (s : State) (p : Nat) (t : Sid) (insn op d : Nat) : State :=
  s.each ((List.range 4).zip (s.enginesFor p op d)) fun s (j, e) =>
    s.modTongs e fun l => l ++ [{ part := p, src := some t, insn := insn, op := op, desc := d, tensor := tdTensor d, dest := j }]

/-! ## Reading and writing an end -/

/-- What a piece of engine `e` read: its bytes and marks, or that it must wait (R153, R157). -/
def State.readEnd (s : State) (e p g n : Nat) (ecc : Ecc) : State × Option (List Byte × List Bool) :=
  let note := fun (s : State) (la : Nat) => if s.loadMark la n then s.markedPiece p 5 e g else s
  if s.arenaHolds p g n then
    match s.arenaRead p g with
    | (s, .zero) => (s.addRbw p 1, some (List.replicate n 0#8, List.replicate n false))
    | (s, .pool la) => let s := (note s la).readEcc la ecc; (s, some (s.load la n, s.byteMarks la n))
    | (s, .wait) => (s, none)
  else if s.ownRange p g n [0, 1, 2, 3] && (s.lentAt p g n).isNone then
    let la := gLocal g
    let s := ((note s la).readEcc la ecc).addRbw p (s.rbwLines la n)
    (s, some (s.load la n, s.byteMarks la n))
  else (s.addrErr p g, some (List.replicate n 0#8, List.replicate n true))

/-- A local write of a piece; false when it must wait. -/
def State.writeEnd (s : State) (p g : Nat) (bs : List Byte) (ms : List Bool) : State × Bool :=
  let n := bs.length
  if s.arenaHolds p g n then
    match s.arenaWrite p g with
    | (s, .pool la) => (s.saveMarked la bs ms, true)
    | (s, _) => (s, false)
  else if s.ownRange p g n [0, 1, 2, 3] && (s.lentAt p g n).isNone then (s.saveMarked (gLocal g) bs ms, true)
  else (s.addrErr p g, true)

/-! ## Conversion (R148) -/

/-- The exponent that scales a conversion: that of a domain-1 entry whose controlled format is the narrower format (R148). -/
def Pyro.copyExp (q : Pyro) (d : Nat) : Int :=
  let narrow := if tdSFmt d = 9 then tdDFmt d else tdSFmt d
  match q.find (tdTensor d) with
  | some (_, t) => if trDomain t.cfg = 1 ∧ trFmt t.cfg = narrow ∧ fmtControlled narrow then t.e else 0
  | none => 0

/-- A piece converted: its bytes and marks at the destination, sampled under the descriptor's tensor (R124, R148). -/
def State.convertPiece (s : State) (eng p d row off : Nat) (bs : List Byte) (ms : List Bool) : State × List Byte × List Bool :=
  if !tdConv d then (s, bs, ms)
  else
    let q := s.part p
    let e := q.pyro.copyExp d
    let ss := tdSize (tdSFmt d)
    let ds := tdSize (tdDFmt d)
    let cs := (chunks ss bs).map leNat
    let em := (chunks ss ms).map fun l => l.any id
    let pos := tdElem d + row * (tdLen d / ss) + off / ss
    if tdSFmt d = 9 then
      let xs := cs.map fun c => let w := BitVec.ofNat 32 c; if e = 0 then w else fscale (-e) w
      let (rnds, fb) := srRnds (tdCvt d) ((q.job.map fun j => bits j.params 511 448).getD 0) (tdTensor d) q.run.step (tdOcc d) pos cs.length
      let (_, out) := convertAll (tdDFmt d) (tdCvt d) false rnds xs
      let smp := (xs.zip (out.zip em)).map fun (x, (c, ev), m) => ({ val := x, zero := convZero (tdDFmt d) none x c, ev := ev, slag := m } : Samp)
      let s := if tdTensor d = 0xFFFF then s else s.sample p (samplerTongs eng) (tdTensor d) smp
      let s := if fb then s.modRun p fun r => { r with repro := true } else s
      (s, out.flatMap (fun x => leBytes ds x.1), em.flatMap (List.replicate ds))
    else
      let xs := cs.map fun c => toF32 ((fmtOf (tdSFmt d)).dec c)
      let s := if tdTensor d = 0xFFFF then s else s.sample p (samplerTongs eng) (tdTensor d) ((xs.zip em).map fun (x, m) => Samp.plain x m)
      (s, xs.flatMap (fun x => leBytes 4 (if e = 0 then x else fscale e x).toNat), em.flatMap (List.replicate 4))

/-! ## TONGS_PIECE (R147) -/

/-- Destination address of an entry's present row and offset. -/
def TEnt.dstAddr (s : State) (x : TEnt) : Nat :=
  let base := if x.op = 1 then (s.gatherList x.desc).getD x.dest 0 else tdDst x.desc
  base + x.row * tdDPitch x.desc + x.off / tdSize (tdSFmt x.desc) * tdSize (tdDFmt x.desc)

def TEnt.srcAddr (x : TEnt) : Nat := tdSrc x.desc + x.row * tdSPitch x.desc + x.off

/-- Bytes of the next piece: up to 4 KiB of the row, inside one arena frame at each end, inside one page of a remote source. -/
def TEnt.pieceLen (s : State) (x : TEnt) : Nat :=
  let d := x.desc
  let ss := tdSize (tdSFmt d)
  let ds := tdSize (tdDFmt d)
  let dst := x.dstAddr s
  let k := min 4096 (tdLen d - x.off)
  let k := if s.arenaMeets x.part dst 1 then min k ((frameBytes - dst % frameBytes) / ds * ss) else k
  if x.op = 2 then k
  else
    let k := if s.arenaMeets x.part x.srcAddr 1 then min k (frameBytes - x.srcAddr % frameBytes) else k
    if s.remoteEnd x.part x.srcAddr then min k (4096 - x.srcAddr % 4096) else k

/-- The entry after a piece of `k` source bytes; `stride` destinations of a GATHER lie on other dies. -/
def TEnt.advance (x : TEnt) (k stride : Nat) : TEnt :=
  let d := x.desc
  if x.off + k < tdLen d then { x with off := x.off + k }
  else if x.row + 1 < tdRows d then { x with off := 0, row := x.row + 1 }
  else if x.op = 1 ∧ x.dest + stride < tdList d then { x with off := 0, row := 0, dest := x.dest + stride }
  else { x with issued := true }

/-- One entry of an engine changed, named by its stream and issue number. -/
def State.modEnt (s : State) (e p : Nat) (src : Option Sid) (insn : Nat) (f : TEnt → TEnt) : State :=
  s.modTongs e fun l => l.map fun x => if x.part == p && x.src == src && x.insn == insn then f x else x

/-- The entry that an engine serves next for a partition: update, then backward, then forward (R147). -/
def nextEnt (l : List TEnt) (p : Nat) : Option TEnt :=
  [Sid.upd, Sid.bwd, Sid.fwd].findSome? fun t => l.find? fun x => x.part == p && x.src == some t && !x.issued

/-- One frame of a PREFETCH or EVICT: the state, and whether the frame is done with. -/
def State.framePiece (s : State) (p op g : Nat) (ecc : Ecc) : State × Bool :=
  let home := g / frameBytes
  match (s.part p).arena.find home with
  | none => if op = 3 then (s.beginFill p home, false) else (s, true)
  | some f =>
    if f.st = .filling ∨ f.st = .writeback then (s, false)
    else if op = 3 then (s, true)
    else if s.frameBusy p home then (s, false)
    else if f.st = .clean then (s.modArena p fun r => r.release home, true)
    else let s := s.writeBack p f (if ecc = .uncorrectable then [0] else []) (if ecc = .corrected then [0] else []); (s, ((s.part p).arena.find home).isNone)

/-- An engine carries out the next piece of up to 4 KiB of the entry it serves (R147, R148, R149, R153, R157). -/
def doTongsPiece (e p : Nat) (ecc : Ecc) (s : State) : State :=
  let n := s.nparts
  match nextEnt (s.tongs.getD e []) p with
  | none => s
  | some x =>
    let d := x.desc
    let stride := (bellowsOf n p).length
    let step := fun (s : State) (k sent : Nat) => s.modEnt e p x.src x.insn fun x => { x.advance k stride with pend := x.pend + sent }
    if x.op = 3 ∨ x.op = 4 then
      let g := tdDst d + x.off
      let (s, ok) := s.framePiece p x.op g ecc
      if ok then step s (frameBytes - g % frameBytes) 0 else s
    else
      let k := x.pieceLen s
      let dst := x.dstAddr s
      let put := fun (s : State) (bs : List Byte) (ms : List Bool) =>
        if s.remoteEnd p dst && !s.arenaHolds p dst bs.length then
          let (t, sent) := s.remoteWrite p dst bs ms (.tongs e x.src x.insn)
          (step t k sent, true)
        else
          let (t, ok) := s.writeEnd p dst bs ms
          (if ok then step t k 0 else t, ok)
      if x.op = 2 then (put s (List.replicate (k / tdSize (tdSFmt d) * tdSize (tdDFmt d)) 0#8) (List.replicate (k / tdSize (tdSFmt d) * tdSize (tdDFmt d)) false)).1
      else if s.remoteEnd p x.srcAddr && !s.arenaHolds p x.srcAddr k then
        -- a remote source: the piece is asked for, its destination frame taken first
        let (t, ready) := if s.arenaMeets p dst 1 then (if 32 ≤ s.arenaFlight p then (s, false) else match s.arenaWrite p dst with | (t, .pool _) => (t, true) | (t, _) => (t, false)) else (s, true)
        if !ready then t
        else if t.lostMod p (gModule x.srcAddr) then
          let (t, bs, ms) := (t.addrErr p x.srcAddr).convertPiece e p d x.row x.off (List.replicate k 0#8) (List.replicate k true)
          step (t.writeEnd p dst bs ms).1 k 0
        else match t.remotePart p x.srcAddr k with
          | none =>
            let (t, bs, ms) := (t.addrErr p x.srcAddr).convertPiece e p d x.row x.off (List.replicate k 0#8) (List.replicate k true)
            step (t.writeEnd p dst bs ms).1 k 0
          | some q => if t.poolFree p < k then t else step (t.remoteRead p q x.srcAddr k (.tongsRead e x.src x.insn x.row x.off)) k 1
      else
        match s.readEnd e p x.srcAddr k ecc with
        | (t, none) => t
        | (t, some (bs, ms)) =>
          let (t, bs, ms) := t.convertPiece e p d x.row x.off bs ms
          match put t bs ms with
          | (u, true) => u
          | (_, false) => (s.arenaWrite p dst).1

def execTongsPiece (e p : Nat) (ecc : Ecc) (s : State) : Host.Outcome State Fault Refusal :=
  answer (Instr.tongsPiece e p ecc).wf (doTongsPiece e p ecc s)

/-- One piece fewer of an entry is on its way; of a dropped entry the last piece ends it. -/
def State.pieceEnded (s : State) (e p : Nat) (src : Option Sid) (insn : Nat) : State :=
  (s.modEnt e p src insn fun x => { x with pend := x.pend - 1 }).modTongs e fun l => l.filter fun x => !(x.dead && x.pend == 0)

/-- A remote read's answer is converted and written at the destination of its row and offset (R147, R148). What comes for an entry that a discard
dropped is written outside the arena, whose pool the discard empties, and sampled nowhere (R157). -/
def State.landTongs (s : State) (p e : Nat) (src : Option Sid) (insn row off : Nat) (bs : List Byte) (mk : List Bool) : State :=
  match (s.tongs.getD e []).find? fun x => x.part == p && x.src == src && x.insn == insn with
  | none => s
  | some x =>
    let y := { x with row := row, off := off }
    let s := if mk.any id then s.markedPiece p 5 e y.srcAddr else s
    let (t, bs, ms) := s.convertPiece e p y.desc row off bs mk
    let dst := y.dstAddr s
    (if !x.dead then (t.writeEnd p dst bs ms).1 else if s.arenaMeets p dst 1 then s else (s.writeEnd p dst bs ms).1).pieceEnded e p src insn

/-- What waited for a packet that does not complete goes on: a tongs piece or an arena move, a read with zeros and a mark (R149, R157). -/
def State.ownerLost (s : State) (p : Nat) (k : HtPkt) (o : Owner) : State :=
  let zero := List.replicate k.aux 0#8
  let mark := List.replicate k.aux true
  match o with
  | .tongs e src insn => s.pieceEnded e p src insn
  | .tongsRead e src insn row off => (s.addrErr p k.addr).landTongs p e src insn row off zero mark
  | .arenaIn home page => (s.addrErr p k.addr).landArena p home page zero mark
  | .arenaOut _ => s.addrErr p k.addr
  | _ => s

/-- Is every part of a descriptor done: all pieces issued and every remote one answered (Table 07-3)? -/
def State.tongsIdle (s : State) (p : Nat) (t : Sid) (insn : Nat) : Bool :=
  s.tongs.all fun l => l.all fun x => !(x.part == p && x.src == some t && x.insn == insn) || (x.issued && x.pend == 0)

/-- A completed descriptor leaves its engines. -/
def State.tongsDrop (s : State) (p : Nat) (t : Sid) (insn : Nat) : State :=
  { s with tongs := s.tongs.map fun l => l.filter fun x => !(x.part == p && x.src == some t && x.insn == insn) }

/-- Remote reads of an entry that are on the wire. -/
def State.readsOut (s : State) (p e : Nat) (x : TEnt) : Nat :=
  ((s.part p).fab.chans.map fun c => (c.out.filter fun y => match y.owner with
    | .tongsRead e' src insn _ _ => e' == e && src == x.src && insn == x.insn
    | _ => false).length).sum

/-- A partition's descriptors dropped with their pieces not issued; reads on the wire complete or time out (R157). -/
def State.tongsDiscard (s : State) (p : Nat) : State :=
  { s with tongs := (enum s.tongs).map fun (e, l) => l.filterMap fun x =>
      if x.part != p then some x
      else let n := s.readsOut p e x; if n = 0 then none else some { x with issued := true, dead := true, pend := n } }

/-- A partition's entries gone: its channels carry nothing that could still come for them. -/
def State.tongsClear (s : State) (p : Nat) : State := { s with tongs := s.tongs.map fun l => l.filter fun x => x.part != p }

end Sys2Proof.Machine
end

