-- ==== Sys2Proof/Machine/Operands.lean ====
section
/-! DEFINITION. Operand fields of stream words, job parameters and descriptors named by several chapters (Tables 02-1, 02-6, 08-2,
08-3, 15-7). -/

namespace Sys2Proof.Machine

/-! ## `STREAM_INSN` (Table 02-1) -/

def siClass (w : Nat) : Nat := bits w 127 124
def siOp (w : Nat) : Nat := bits w 123 118
def siWaitEn (w : Nat) : Bool := bit w 117
def siWaitTok (w : Nat) : Nat := bits w 116 110
def siWaitCnt (w : Nat) : Nat := bits w 109 104
def siSigEn (w : Nat) : Bool := bit w 103
def siSigTok (w : Nat) : Nat := bits w 102 96
def siLayer (w : Nat) : Nat := bits w 95 80
def siTensor (w : Nat) : Nat := bits w 79 64
def siOperand (w : Nat) : Nat := bits w 63 0

/-! ## `JOB_PARAMS` (Table 15-7) -/

def jpSeed (j : Nat) : Nat := bits j 511 448
def jpStep0 (j : Nat) : Nat := bits j 447 400
def jpRound0 (j : Nat) : Nat := bits j 399 368
def jpEpoch0 (j : Nat) : Nat := bits j 367 352
def jpDrainMs (j : Nat) : Nat := if bits j 331 318 = 0 then 100 else bits j 331 318
def jpAcc (j : Nat) : Nat := bits j 317 302
def jpAccLo (j : Nat) : Nat := bits j 301 286
def jpAccHi (j : Nat) : Nat := bits j 285 270
def jpBgShare (j : Nat) : Nat := if bits j 262 259 = 0 then 2 else bits j 262 259
def jpHearthStats (j : Nat) : Bool := bit j 258
def jpHLocal (j : Nat) : Nat := if bits j 257 241 = 0 then 1024 else bits j 257 241

/-- Parameters of the loaded job; 0 without one. -/
def State.params (s : State) (p : Nat) : Nat := ((s.part p).job.map (·.params)).getD 0

/-! ## `UPDATE_DESC` (Table 08-2) -/

def udState (d : Nat) : Nat := bits d 511 448
def udStride (d : Nat) : Nat := bits d 447 408
def udWork (d : Nat) : Nat := bits d 407 344
def udGrad (d : Nat) : Nat := bits d 343 280
def udCount (d : Nat) : Nat := bits d 279 248
def udCols (d : Nat) : Nat := bits d 247 228
def udKind (d : Nat) : Nat := bits d 227 226
def udFmt (d : Nat) : Nat := bits d 225 222
def udTensor (d : Nat) : Nat := bits d 221 206
def udGen (d : Nat) : Nat := bits d 205 142
def udSet (d : Nat) : Nat := bits d 141 134
def udMul (d : Nat) : W32 := BitVec.ofNat 32 (bits d 133 102)
def udElem (d : Nat) : Nat := bits d 101 62

/-- Bytes of one record, and where ρ, κ and the end of a generation lie (R160). -/
def udRec (d : Nat) : Nat := if udKind d = 1 then 4 else 8
def udRows (d : Nat) : Nat := if udCols d = 0 then 0 else udCount d / udCols d
def udRho (d : Nat) : Nat := roundUp (udCount d * udRec d) 64
def udKap (d : Nat) : Nat := roundUp (udRho d + 4 * udRows d) 64
def udEnd (d : Nat) : Nat := if udKind d = 0 then udCount d * udRec d else udKap d + 4 * udCols d

/-- Local address of generation `g`. -/
def udBase (d g : Nat) : Nat := gLocal (udState d) + g * udStride d

/-- Ranges of Table 08-2 (R160, R163). -/
def udOk (d : Nat) : Bool :=
  1 ≤ udCount d && udCount d ≤ 2097152 && udKind d != 3 && (udFmt d == 7 || udFmt d == 8) && isFinite (udMul d) && bits d 61 0 == 0 &&
  udState d % 4096 == 0 && udStride d % 4096 == 0 && roundUp (udEnd d) 4096 ≤ udStride d && udWork d % 64 == 0 && udGrad d % 64 == 0 && udGen d % 8 == 0 &&
  (if udKind d = 0 then udCols d == 0 else udCols d != 0 && udCount d % udCols d == 0)

/-! ## `OPT_PARAMS` (Table 08-3) -/

def opSched (o : Nat) : Nat := bits o 255 192
def opLen (o : Nat) : Nat := bits o 191 176
def opStep0 (o : Nat) : Nat := bits o 175 128
def opBeta1 (o : Nat) : W32 := BitVec.ofNat 32 (bits o 127 96)
def opBeta2 (o : Nat) : W32 := BitVec.ofNat 32 (bits o 95 64)
def opEps (o : Nat) : W32 := BitVec.ofNat 32 (bits o 63 32)
def opWd (o : Nat) : W32 := BitVec.ofNat 32 (bits o 31 0)

/-- FP32 values of a byte string. -/
def w32s (bs : List Byte) : List W32 := (chunks 4 bs).map fun c => BitVec.ofNat 32 (leNat c)
/-- 16-bit codes of a byte string. -/
def w16s (bs : List Byte) : List Nat := (chunks 2 bs).map leNat
/-- Bytes of FP32 values. -/
def bytesOf32 (l : List W32) : List Byte := l.flatMap fun w => leBytes 4 w.toNat

end Sys2Proof.Machine
end

