-- ==== Sys2Proof/Machine/Flags.lean ====
section
/-! DEFINITION. Token counters, completions and the flag and status words of a step (R33, R34, R135, R201, R322). -/

namespace Sys2Proof.Machine

/-! ## Tokens and completions (R32-R34) -/

/-- One more on a token counter; at 65,535 it stays there and faults (R34). -/
def State.signal (s : State) (p k : Nat) : State :=
  if 65535 ≤ (s.part p).run.tokens.getD k 0 then s.raise { recPart p sevPart 0x21 with detail := k }
  else s.modRun p fun r => { r with tokens := updAt r.tokens k (· + 1) }

/-- Adds a posted count to a counter (R34, R340). -/
def State.signalN (s : State) (p k n : Nat) : State :=
  if 65535 < (s.part p).run.tokens.getD k 0 + n then
    (s.modRun p fun r => { r with tokens := updAt r.tokens k fun _ => 65535 }).raise { recPart p sevPart 0x21 with detail := k }
  else s.modRun p fun r => { r with tokens := updAt r.tokens k (· + n) }

def State.seq (s : State) (p : Nat) (t : Sid) : Seq := (s.part p).run.seqs.getD (sidIx t) {}
def State.modSeq (s : State) (p : Nat) (t : Sid) (f : Seq → Seq) : State := s.modRun p fun r => { r with seqs := updAt r.seqs (sidIx t) f }

/-- An outstanding instruction of a stream. -/
def State.outInsn (s : State) (p : Nat) (t : Sid) (n : Nat) : Option OutInsn := (s.seq p t).out.find? fun o => o.id == n

/-- An instruction completes: its partial counters have reached the pyrometer's table, it is no longer outstanding, and it signals its token
(R32, R33, R126). -/
def State.complete (s : State) (p : Nat) (t : Sid) (n : Nat) : State :=
  match s.outInsn p t n with
  | none => s
  | some o =>
    let s := (s.modPyro p Pyro.flush).modSeq p t fun q => { q with out := q.out.filter fun x => x.id != n }
    match o.sig with
    | some k => s.signal p k
    | none => s

/-! ## The step's decision (R201) and flag word (Table 06-7) -/

/-- Does the decision say skip? -/
def Decision.skip (d : Decision) : Bool := d.word != 0 || d.reason != 0

/-- Is the decision final and apply? -/
def State.applied (s : State) (p : Nat) : Bool := match (s.part p).run.decision with
  | some d => !d.skip
  | none => false

/-- The flag word as it stands, or as taken. -/
def Run.flag (r : Run) : Nat := r.flagTaken.getD r.flagWord

/-! ## Fault-hub status (R320, R322, R328) -/

/-- Open records of the queue. -/
def Hub.open_ (h : Hub) : List FaultRec := h.queue.filterMap id

/-- ALERT_N is held by an open record of UCE_PART or above, or by fewer than 8 free entries (R322). -/
def Hub.wantAlert (h : Hub) : Bool := h.open_.any (fun r => sevPart ≤ r.sev) || h.free < 8

/-- Worst severity among open records. -/
def Hub.worstOpen (h : Hub) : Nat := h.open_.foldl (fun m r => max m r.sev) 0

/-- The book of the record queue (Table 14-10 row 11). -/
def Hub.book (h : Hub) : Bool := h.free + h.open_.length == 64

/-- ALERT_N brought into line, with an in-band interrupt as it asserts, and a platform event on a change of the worst severity
(R322, R352). -/
def State.alertUpdate (s : State) : State :=
  let w := s.hub.wantAlert
  let v := s.hub.worstOpen
  let s := if w ∧ !s.hub.alert ∧ s.side.ibi then s.emit .inBandInterrupt else s
  let s := if v ≠ s.hub.worst then s.emit (.platformEvent 0x0200 v) else s
  s.modHub fun h => { h with alert := w, worst := v }

/-! ## Boundary holds (R49) -/

def State.hold (s : State) (p : Nat) (k : Hold) : State := s.modRun p fun r => if r.holds.contains k then r else { r with holds := r.holds ++ [k] }

/-- Did an event of R95 occur in the step? Of overlapping writes that nothing ordered a free value says it (log entry 122). -/
def Run.exempt (r : Run) (k : Nat) : Bool := r.repro || r.reproRound || (r.mixed && Config.unordered k)

/-- Do only the holds of action 8 stand, so that the boundary's work is over? -/
def Run.atRest (r : Run) : Bool := r.holds.all fun h => h == .halt || h == .p2 || h == .limit

/-- The `STEP_REC` that is due goes out, with the boundary's whole time (R44). -/
def State.stepRecEnd (s : State) (p : Nat) : State := match (s.part p).run.recDue with
  | some (w, e) => (s.modRun p fun r => { r with recDue := none }).recordPart p 1 4 (w + satTo 16 (s.tick - e) * 2 ^ 416)
  | none => s

/-- The same, once the boundary's work is over. -/
def State.stepRecOut (s : State) (p : Nat) : State := if (s.part p).run.atRest then s.stepRecEnd p else s

/-- A hold ends. -/
def State.unhold (s : State) (p : Nat) (k : Hold) : State := (s.modRun p fun r => { r with holds := r.holds.filter (· != k) }).stepRecOut p

/-- HALT_N holds the partition, and reports it (R49). -/
def State.haltHold (s : State) (p : Nat) : State :=
  ((s.hold p .halt).modRun p fun r => { r with haltTick := s.tick }).notice p 1 (s.part p).run.step

end Sys2Proof.Machine
end

