-- ==== Sys2Proof/Machine/CollCore.lean ====
section
/-! DEFINITION. Collectives: groups, descriptors, segments, blocks and the issue of COLL instructions (R184-R190, R387). -/

namespace Sys2Proof.Machine

/-! ## `COLL_GROUP` (Table 09-1) -/

def cgList (g : Nat) : Nat := bits g 255 192
def cgDim (g a : Nat) : Nat := if a = 0 then bits g 191 174 else if a = 1 then bits g 173 156 else bits g 155 138
def cgRank (g : Nat) : Nat := bits g 137 121
def cgDirect (g a : Nat) : Bool := bit g (118 + a)
def cgMap (g a : Nat) : Nat := bits g (106 + 4 * a + 3) (106 + 4 * a)
def cgMiss (g : Nat) : Nat := bits g 105 89
def cgFlagMiss (g : Nat) : Nat := bits g 88 72
def cgWait (g : Nat) : Nat := bits g 71 40
def cgCarry (g : Nat) : Bool := bit g 39
def cgRescale (g : Nat) : Bool := bit g 38
def cgId (g : Nat) : Nat := bits g 37 32
def cgN (g : Nat) : Nat := cgDim g 0 * cgDim g 1 * cgDim g 2

/-- Coordinate of a rank on an axis, and a rank with that coordinate changed (R185). -/
def cgCoord (g r a : Nat) : Nat := if a = 0 then r % cgDim g 0 else if a = 1 then r / cgDim g 0 % cgDim g 1 else r / (cgDim g 0 * cgDim g 1)
def cgMove (g r a c : Nat) : Nat :=
  let x := fun b => if b = a then c else cgCoord g r b
  x 0 + cgDim g 0 * (x 1 + cgDim g 1 * x 2)

/-- Range checks of R185 on a group. -/
def cgOk (g : Nat) : Bool :=
  [0, 1, 2].all (fun a => 1 ≤ cgDim g a && cgDim g a ≤ 131072) && cgN g ≤ 131072 && cgRank g < cgN g && bits g 31 0 == 0 && cgList g % 4 == 0 &&
  ([0, 1, 2].any (cgDirect g) || (cgMiss g == 0 && cgFlagMiss g == 0 && cgWait g == 0)) && cgMiss g < cgN g && cgFlagMiss g < cgN g

/-- A group of the partition's job. -/
def State.group (s : State) (p id : Nat) : Option Nat := ((s.part p).job.map (·.groups)).getD [] |>.find? fun g => cgId g == id

/-- Module and partition of a rank. -/
def State.member (s : State) (g r : Nat) : Nat × Nat := let w := s.word (gLocal (cgList g) + 4 * r) 4; (bits w 31 12, bits w 11 10)

/-- The rank of a module's partition in a group. -/
def State.rankOf (s : State) (g m q : Nat) : Option Nat := (List.range (cgN g)).find? fun r => s.member g r == (m, q)

/-- CRC-32 of the member list (R185). -/
def State.groupCrc (s : State) (g : Nat) : Nat := crc32 (s.bytes (gLocal (cgList g)) (4 * cgN g))

/-! ## `COLL_DESC` (Table 09-3) -/

def cdSrc (d : Nat) : Nat := bits d 255 192
def cdDst (d : Nat) : Nat := bits d 191 128
def cdCount (d : Nat) : Nat := bits d 127 96
def cdTensor (d : Nat) : Nat := bits d 95 80
def cdGroup (d : Nat) : Nat := bits d 79 74
def cdScatter (d a : Nat) : Bool := bit d (71 + a)
def cdFmt (d : Nat) : Nat := bits d 70 67
def cdPairs (d : Nat) : Nat := bits d 66 62
def cdClass (d : Nat) : Nat := bits d 61 46

/-- Bytes of an element. -/
def cdSize (d : Nat) : Nat := tdSize (cdFmt d)

/-- Part `k` of a range of `len` elements cut for `d` coordinates: first element and count (R188). -/
def cutPart (len d k : Nat) : Nat × Nat := let c := 256 * ceilDiv len (256 * d); (min (k * c) len, min c (len - k * c))

/-- This member's part of the whole range, split along its scattered axes in ascending order (R188). -/
def ownPart (g d : Nat) : Nat × Nat :=
  [0, 1, 2].foldl (fun (b, l) a => if cdScatter d a then let (x, n) := cutPart l (cgDim g a) (cgCoord g (cgRank g) a); (b + x, n) else (b, l)) (0, cdCount d)

/-- The sequencer's checks (R187) on op 0 REDUCE, 1 GATHER, 2 FLAG. -/
def State.collOk (s : State) (p op d : Nat) : Bool :=
  match s.group p (cdGroup d) with
  | none => false
  | some g =>
    let n := cdCount d
    let sz := cdSize d
    let part := (ownPart g d).2
    let own := fun a k => k == 0 || s.reach p a k [0]
    bits d 45 0 == 0 &&
    (if op = 2 then
      n == 0 && cdTensor d == 0 && bits d 73 71 == 0 && cdFmt d == 0 && cdPairs d ≤ 16 && own (cdSrc d) (8 * cdPairs d) && own (cdDst d) (12 + 8 * cdPairs d)
    else
      1 ≤ n && cdPairs d == 0 && cdClass d == 0 && (ceilDiv n 256 < 2 ^ 24 || [0, 1, 2].any fun a => 1 < cgDim g a && (op == 0 || cdScatter d a)) &&
      (if op = 0 then
        cdFmt d == 9 && own (cdSrc d) (4 * n) && own (cdDst d) (4 * part) &&
        (match (s.part p).pyro.find (cdTensor d) with | some (_, t) => trFmt t.cfg == 15 | none => false)
      else [7, 8, 9, 15].contains (cdFmt d) && own (cdSrc d) (sz * part) && own (cdDst d) (sz * n)))

/-! ## `COLL_SEG_HDR` (Table 09-4) -/

/-- One collective segment. -/
structure Seg where
  kind : Nat := 0
  tensor : Nat := 0
  epoch : Nat := 0
  step : Nat := 0
  rank : Nat := 0
  group : Nat := 0
  axis : Nat := 0
  part : Nat := 0
  first : Nat := 0
  count : Nat := 0
  last : Bool := false
  quenchIn : Bool := false
  norm : W32 × W32 := (f32Zero, f32Zero)
  flags : Nat := 0
  occ : Nat := 0
  body : List Byte := []

def Seg.bytes (x : Seg) : List Byte :=
  leBytes 32 (pack [(4, x.kind), (16, x.tensor), (16, x.epoch), (48, x.step), (17, x.rank), (6, x.group), (2, x.axis), (18, x.part), (24, x.first), (4, x.count),
    (1, b01 x.last), (1, b01 x.quenchIn), (32, x.norm.1.toNat), (32, x.norm.2.toNat), (18, x.flags), (16, x.occ), (1, 0)]) ++ x.body

def segOf (bs : List Byte) : Seg :=
  let h := leNat (bs.take 32)
  { kind := bits h 255 252, tensor := bits h 251 236, epoch := bits h 235 220, step := bits h 219 172, rank := bits h 171 155, group := bits h 154 149
    axis := bits h 148 147, part := bits h 146 129, first := bits h 128 105, count := bits h 104 101, last := bit h 100, quenchIn := bit h 99
    norm := (BitVec.ofNat 32 (bits h 98 67), BitVec.ofNat 32 (bits h 66 35)), flags := bits h 34 17, occ := bits h 16 1, body := bs.drop 32 }

/-- A segment sent to a rank of a group along an axis's mapping (R185, R190). -/
def State.sendSeg (s : State) (p g r a : Nat) (x : Seg) (slag : Bool) : State :=
  let (m, q) := s.member g r
  s.send p { type := 6, dstModule := m, dstPart := q, op := 0, mapId := cgMap g a, slag := slag, payload := x.bytes } .none

/-! ## Blocks (Table 09-6, R89, R90, R191) -/

/-- One block of a segment: 256 values, their marks, whether it travelled as BF16, and its quench bit. -/
structure Blk where
  vals : List Fp
  slag : Bool
  bf : Bool
  quench : Bool

/-- A block of FP32 values quantised under `e`: its bytes, whether it escaped, and the events of its quantisation (R89, R191). -/
def quantBlock (e : Int) (force qin : Bool) (xs : List Elem) : List Byte × Bool × List CvtEv :=
  let xs := padTo 256 (f32Zero, false) xs
  let qs := xs.map fun x => as8Quant e x.1
  let esc := force || qs.any fun x => x.1 == 0x80
  let hdr := pack [(1, b01 esc), (1, b01 (esc || qin)), (1, b01 (xs.any (·.2))), (29, 0)]
  let body := if esc then xs.flatMap fun x => leBytes 2 (fmtBF16.enc .rne false (f32 x.1)).1 else qs.map fun x => BitVec.ofNat 8 x.1
  (leBytes 4 hdr ++ body, esc, qs.map (·.2))

/-- A received block decoded; a 0x80 in an AS8 payload makes the whole block zeros with a mark: the last component (R90). -/
def decBlock (e : Int) (bs : List Byte) : Blk × Bool :=
  let h := leNat (bs.take 4)
  let body := bs.drop 4
  if bit h 31 then ({ vals := (chunks 2 body).map fun c => fmtBF16.dec (leNat c), slag := bit h 29, bf := true, quench := bit h 30 }, false)
  else if body.any (· == 0x80#8) then ({ vals := List.replicate 256 (.fin false 0 0), slag := true, bf := false, quench := bit h 30 }, true)
  else ({ vals := body.map (as8Dec e), slag := bit h 29, bf := false, quench := bit h 30 }, false)

/-- The blocks of a payload, each by its own header. -/
def cutBlocks : Nat → List Byte → List (List Byte)
  | 0, _ => []
  | n + 1, bs =>
    let k := if bit (leNat (bs.take 4)) 31 then 516 else 260
    bs.take k :: cutBlocks n (bs.drop k)

/-- Values as marked FP32 elements. -/
def Blk.elems (b : Blk) : List Elem := b.vals.map fun v => (toF32 v, b.slag)

/-! ## Issue (R184, R387) -/

def Coll.op (c : Coll) (insn : Nat) : Option CollOp := c.ops.find? fun o => o.insn == insn
def Coll.modOp (c : Coll) (insn : Nat) (f : CollOp → CollOp) : Coll := { c with ops := c.ops.map fun o => if o.insn == insn then f o else o }
def State.modOp (s : State) (p insn : Nat) (f : CollOp → CollOp) : State := s.modColl p fun c => c.modOp insn f

/-- Key of an operation's occurrence count. -/
def occKey (op group tensor : Nat) : Nat := (op * 64 + group) * 65536 + tensor

/-- The next occurrence of an operation in the step (R387). -/
def Coll.occ (c : Coll) (op d : Nat) : Nat := assocGet (occKey op (cdGroup d) (cdTensor d)) 0 c.counts

/-- A COLL instruction enters the engine. -/
def State.collPlace (s : State) (p insn op d g : Nat) (deciding : Bool) : State :=
  let e := (s.part p).pyro.expOf (cdTensor d)
  let s := s.modColl p fun c => { c with
    ops := c.ops ++ [{ insn := insn, kind := op, desc := d, group := g, occ := c.occ op d, exp := e }]
    counts := assocSet (occKey op (cdGroup d) (cdTensor d)) (c.occ op d + 1) c.counts
    deciding := if deciding then some (cdGroup d, c.occ op d) else c.deciding }
  if op = 0 ∧ (s.part p).run.flagTaken.isNone then
    s.modPyro p fun q => match q.find (cdTensor d) with
      | some (i, _) => q.modTrack i fun t => { t with used := true }
      | none => q
  else s

end Sys2Proof.Machine
end

