-- ==== Sys2Proof/Machine/CollEngine.lean ====
section
/-! DEFINITION. The collective engine: stages, sums, results, statistics, flag reduction, decisions and barriers (R188-R203). -/

namespace Sys2Proof.Machine

def pair0 : W32 × W32 := (f32Zero, f32Zero)

/-! ## Geometry (R188) -/

/-- Axes of an operation in stage order: the scattered ones, then the others; an axis of extent 1 has no stage. -/
def cgAxes (g d : Nat) : List Nat :=
  ([0, 1, 2].filter fun a => cdScatter d a && 1 < cgDim g a) ++ ([0, 1, 2].filter fun a => !cdScatter d a && 1 < cgDim g a)

/-- Part `k` of a range along an axis, by first element and count. -/
def cgCut (g : Nat) (x : Nat × Nat) (a k : Nat) : Nat × Nat := let (y, n) := cutPart x.2 (cgDim g a) k; (x.1 + y, n)

/-- This member's range after the first `n` axes. -/
def cgRange (g d n : Nat) : Nat × Nat := ((cgAxes g d).take n).foldl (fun x a => cgCut g x a (cgCoord g (cgRank g) a)) (0, cdCount d)

/-- Place of an axis in the stage order. -/
def cgIndex (g d a : Nat) : Nat := ((cgAxes g d).takeWhile (· != a)).length

/-- Part `k` of the range that a stage on axis `a` cuts. -/
def cgPart (g d a k : Nat) : Nat × Nat := cgCut g (cgRange g d (cgIndex g d a)) a k

/-- This member's coordinate on an axis. -/
def cgMine (g a : Nat) : Nat := cgCoord g (cgRank g) a

def blocksOf (n : Nat) : Nat := ceilDiv n 256

/-- Stages of a REDUCE and of a GATHER (R188, R198). -/
def reduceStages (g d : Nat) : List Stage :=
  (cgAxes g d).map (⟨·, false⟩) ++ (((cgAxes g d).filter fun a => !cdScatter d a).reverse.map (⟨·, true⟩))
def gatherStages (g d : Nat) : List Stage := ((cgAxes g d).filter (cdScatter d)).reverse.map (⟨·, true⟩)

/-- The stage's axis has ended its reduce stage in the operation. -/
def CollOp.reduced (o : CollOp) (a : Nat) : Bool := !o.stages.any fun x => x.axis == a && !x.result

/-! ## Runs on the temper engines (R108, R184) -/

/-- Hearths whose temper engines do a forge die's collective arithmetic: 0, 5 and 10 of the die, the next higher usable one not taken for each
that is OFFLINE (R184). -/
def State.dieEngines (s : State) (d : Nat) : List Nat :=
  let ok := fun (k : Nat) => (s.hearth (16 * d + k)).st != .offline
  let own := [0, 5, 10].filter ok
  (([0, 5, 10].filter fun k => !ok k).foldl (fun l k => match (List.range 16).find? (fun j => k < j && ok j && !l.contains j) with
    | some j => l ++ [j]
    | none => l) own).map (16 * d + ·)

/-- Engines of a partition's collective engine. -/
def State.collEngines (s : State) (p : Nat) : List Nat := ((s.hearthsOf p).filter (· % 16 == 0)).flatMap fun h => s.dieEngines (h / 16)

/-- Runs of the collective source over elements with these flags, up to 1,024 elements each: sticky flags and status of the engines that do
them (R108, R116, R118). Which engine takes a run is free (log entry 99). -/
def State.collRuns (s : State) (p : Nat) (fl : List Nat) : State :=
  let es := s.collEngines p
  if es.isEmpty then s
  else s.each (enum (chunks 1024 fl)) fun s (i, c) =>
    let h := es.getD (Config.collEngine s.free % es.length) 0
    { s.modTemper h fun x => { x with flags := updAt x.flags 3 fun f => c.foldl (· ||| ·) f, source := 3, run := i } with free := s.free + 1 }

/-- The SLAG flag of an element read. -/
def slagFlag (m : Bool) : Nat := if m then flSlag else 0

/-! ## Norms and quantised blocks (R89, R191, R199) -/

/-- Compensated squared norm, one running pair in ascending element order: whether R93's lanes apply to it no rule says (DESIGN CHOICE, log
entry 128). -/
def sqNorm (xs : List Elem) : W32 × W32 := xs.foldl (fun q x => pairStep q (fmul x.1 x.1)) pair0

/-- Flags of a product. -/
def mulFlags (x y : W32) : Nat := (fpOut [x, y] (fmul x y) (nonzeroFin ((f32 x).mul (f32 y)))).2

/-- Flags of a compensated squared norm, by element. -/
def sqFlags (xs : List Elem) : List Nat :=
  (xs.foldl (fun (q, l) x => let v := fmul x.1 x.1; (pairStep q v, (mulFlags x.1 x.1 ||| stepFlags q v ||| slagFlag x.2) :: l)) (pair0, [])).2.reverse

/-- Flags of the balanced tree over pairs. -/
def normFlags (l : List (W32 × W32)) : Nat :=
  let lv := if l.length ≤ 1 then 0 else (l.length - 1).log2 + 1
  treeFlags lv (padTo (2 ^ lv) pair0 l)

/-- A quantised block: its bytes, whether it escaped, and the samples of its values (R124). -/
structure QBlk where
  bytes : List Byte
  esc : Bool
  samp : List Samp
  flags : List Nat := []

def quantOne (e : Int) (force : Bool) (xs : List Elem) : QBlk :=
  let (bs, esc, evs) := quantBlock e force force xs
  { bytes := bs, esc := esc
    samp := if force then [] else (xs.zip evs).map fun (x, ev) => ⟨x.1, (f32 x.1).isZero || (as8Quant e x.1).1 == 0, ev, x.2⟩
    flags := (xs.zip evs).map fun (x, ev) => (if ev = CvtEv.sat then flSat else if ev = CvtEv.udf then flUnder else 0) ||| slagFlag x.2 }

/-- Blocks of a list of values; entry j of `force` makes block j BF16. -/
def quantAll (e : Int) (force : List Bool) (xs : List Elem) : List QBlk :=
  (enum (chunks 256 xs)).map fun (i, c) => quantOne e (force.getD i false) c

/-- Escaped blocks and samples of blocks this member formed are counted, and the runs that quantised them (R108, R127, R199). -/
def State.countBlocks (s : State) (p : Nat) (o : CollOp) (qs : List QBlk) : State :=
  let n := (qs.filter (·.esc)).length
  let t := cdTensor o.desc
  let s := s.modOp p o.insn fun q => { q with escapes := satTo 16 (q.escapes + n) }
  let s := if n = 0 then s else s.sampleWith p (samplerColl p) t (fun x => { x with escapes := satTo 16 (x.escapes + n) }) 0
  (s.collRuns p (qs.flatMap (·.flags))).sample p (samplerColl p) t (qs.flatMap (·.samp))

/-! ## Segments -/

/-- Header of a segment of an operation. -/
def State.segHead (s : State) (p : Nat) (o : CollOp) (kind axis part : Nat) : Seg :=
  { kind := kind, tensor := cdTensor o.desc, epoch := (s.part p).run.epoch, step := (s.part p).run.step, rank := cgRank o.group
    group := cgId o.group, axis := axis, part := part, occ := o.occ }

/-- Ready blocks sent in segments of up to eight to each rank named; the pair travels in the last (R190). -/
def State.sendBlocks (s : State) (p : Nat) (o : CollOp) (h : Seg) (dests : List Nat) (first : Nat) (last : Bool) (qs : List QBlk) : State :=
  let cs := chunks 8 qs
  s.each (enum cs) fun s (i, c) =>
    let fin := last && i + 1 == cs.length
    s.each dests fun s r =>
      s.sendSeg p o.group r h.axis { h with first := first + 8 * i, count := c.length, last := fin, norm := if fin then h.norm else pair0, body := c.flatMap (·.bytes) } false

/-- An empty contribution (R189). -/
def State.sendEmpty (s : State) (p : Nat) (o : CollOp) (h : Seg) (r flags : Nat) : State :=
  s.sendSeg p o.group r h.axis { h with first := 0, count := 0, last := true, flags := flags, norm := pair0 } false

/-- A segment that fails the checks of R190. -/
def State.badSeg (s : State) (p m : Nat) : State := (s.count .collBad).raise { recPart p sevDef 0x53 with addr := m }

/-! ## Sums (R193) -/

/-- One value added to an accumulator. -/
def addOne (e : Int) (bf slag : Bool) (v : Fp) (x : W32 × W32 × Nat) : W32 × W32 × Nat :=
  let w := if bf then roundToMultiple e v else v
  let m := x.2.2 ||| b01 slag
  if bf && (!w.isFin || (Fp.fin false 1 (e + 13)).le w.abs) then (x.1, x.2.1, m ||| 3)
  else let (t, c) := neuAdd x.1 x.2.1 (toF32 w); (t, c, m)

/-- Flags of the additions of one value. -/
def addOneFlags (e : Int) (bf slag : Bool) (v : Fp) (x : W32 × W32 × Nat) : Nat :=
  let w := if bf then roundToMultiple e v else v
  slagFlag slag ||| (if bf && (!w.isFin || (Fp.fin false 1 (e + 13)).le w.abs) then 0 else neuFlags x.1 x.2.1 (toF32 w))

/-- A block added to a part's accumulators, at block index `j`. -/
def addBlk (e : Int) (acc : List (W32 × W32 × Nat)) (j : Nat) (b : Blk) : List (W32 × W32 × Nat) :=
  let mid := (acc.drop (256 * j)).take 256
  acc.take (256 * j) ++ ((mid.zip b.vals).map fun (x, v) => addOne e b.bf b.slag v x) ++ acc.drop (256 * j + mid.length)

/-- Flags of a block's additions, by element. -/
def addBlkFlags (e : Int) (acc : List (W32 × W32 × Nat)) (j : Nat) (b : Blk) : List Nat :=
  (((acc.drop (256 * j)).take 256).zip b.vals).map fun (x, v) => addOneFlags e b.bf b.slag v x

/-- Blocks of a contribution, with their index in the part. -/
def blocksAt (segs : List Seg) : List (Nat × List Byte) := segs.flatMap fun x => (enum (cutBlocks x.count x.body)).map fun (i, b) => (x.first + i, b)

/-- A contribution's blocks added: accumulators, whether any carried a quench, and the blocks found to hold 0x80. -/
def addContribution (e : Int) (acc : List (W32 × W32 × Nat)) (bs : List (Nat × List Byte)) : List (W32 × W32 × Nat) × Bool × Nat :=
  bs.foldl (fun (a, q, n) (j, b) => let (k, bad) := decBlock e b; (addBlk e a j k, q || k.quench, n + b01 bad)) (acc, false, 0)

/-- Flags of a contribution's additions, by element. -/
def contribFlags (e : Int) (acc : List (W32 × W32 × Nat)) (bs : List (Nat × List Byte)) : List Nat :=
  (bs.foldl (fun (a, l) (j, b) => let k := (decBlock e b).1; (addBlk e a j k, addBlkFlags e a j k :: l)) (acc, [])).2.reverse.flatten

/-- Blocks received with 0x80: marked values, and for each block a record naming the sender (R90). No rule gives that record's code: it is that
of a bad segment, 0x53 (DESIGN CHOICE, log entry 121). -/
def State.badBlocks (s : State) (p tensor m n : Nat) : State :=
  if n = 0 then s else (s.sampleSlag p (samplerColl p) tensor (256 * n)).each (List.range n) fun s _ => s.raise { recPart p sevDef 0x53 with addr := m }

/-- A received block as a member sends it on: unchanged, but that no sender transmits 0x80 in AS8: what it decodes as, zeros with a mark, goes
on instead (R90). -/
def cleanBlock (b : List Byte) : List Byte :=
  let h := leNat (b.take 4)
  if !bit h 31 && (b.drop 4).any (· == 0x80#8) then leBytes 4 (pack [(1, 0), (1, b01 (bit h 30)), (1, 1), (29, 0)]) ++ List.replicate 256 0#8 else b

/-- The blocks of a body as they are sent on. -/
def cleanBody (n : Nat) (bs : List Byte) : List Byte := (cutBlocks n bs).flatMap cleanBlock

/-- d ÷ k rounded once to FP32 (R194). -/
def ratio32 (d k : Nat) : W32 := f32Sticky false (d * 2 ^ 40 / k) (-40) (d * 2 ^ 40 % k != 0)

/-- A carried accumulator resolved to one addend of the new exponent (R195). -/
def carryAdd (e : Int) (x : W32 × W32 × Nat) (y : W32 × W32 × Nat) : W32 × W32 × Nat :=
  addOne e true (y.2.2 != 0) (f32 (fadd y.1 y.2.1)) x

/-- The carries of a group, tensor, axis and occurrence from a step. -/
def Carry.is (k : Carry) (g t a occ step : Nat) : Bool := k.group == g && k.tensor == t && k.axis == a && k.occ == occ && k.step == step

/-- Carried contributions of the step before are added to the stage open at axis `a` (R195). -/
def State.resolveCarry (s : State) (p insn a : Nat) : State :=
  let c := (s.part p).coll
  match c.op insn with
  | none => s
  | some o =>
    let hit := fun (k : Carry) => k.is (cgId o.group) (cdTensor o.desc) a o.occ ((s.part p).run.step - 1) && k.count != 0 && 0 < (s.part p).run.step
    let ks := c.carries.filter hit
    if ks.isEmpty then s
    else
      let s := s.collRuns p (ks.flatMap fun k => (o.accum.zip k.pairs).map fun (x, y) => addFlags y.1 y.2.1 ||| addOneFlags o.exp true (y.2.2 != 0) (f32 (fadd y.1 y.2.1)) x)
      let s := s.modOp p insn fun q => { q with
        accum := ks.foldl (fun acc k => (acc.zip k.pairs).map fun (x, y) => carryAdd o.exp x y) q.accum
        carried := satTo 16 (q.carried + (ks.map (·.count)).sum) }
      let s := s.modColl p fun c => { c with carries := c.carries.map fun k => if hit k then { k with count := 0, pairs := k.pairs.map fun _ => (f32Zero, f32Zero, 0) } else k }
      s.modRun p fun r => { r with repro := true }

/-! ## Reduce stages -/

/-- The pair this member brings to a part of a stage (R199). -/
def CollOp.normOf (o : CollOp) (a k : Nat) (vals : List Elem) : W32 × W32 :=
  if cgIndex o.group o.desc a = 0 then (if o.flagged then pair0 else sqNorm vals) else if k = 0 then o.inNorm else pair0

/-- Flags of forming that pair. -/
def CollOp.normRuns (o : CollOp) (a : Nat) (vals : List Elem) : List Nat := if cgIndex o.group o.desc a = 0 && !o.flagged then sqFlags vals else []

/-- Values of part `k` of a stage's range. -/
def CollOp.valsOf (o : CollOp) (a k : Nat) : List Elem :=
  let (x, n) := cgPart o.group o.desc a k
  (o.cur.drop (x - o.base)).take n

/-- This member's own contribution to its DIRECT part. -/
def State.ownDirect (s : State) (p : Nat) (o : CollOp) (a c : Nat) : State :=
  let vs := o.valsOf a c
  if o.flagged then s.modOp p o.insn fun q => { q with heard := q.heard ++ [(c, 1, pair0)] }
  else
    let qs := quantAll o.exp [] vs
    let s := ((s.countBlocks p o qs).collRuns p (o.normRuns a vs)).collRuns p (contribFlags o.exp o.accum (enum (qs.map (·.bytes))))
    s.modOp p o.insn fun q =>
      let (acc, qu, _) := addContribution o.exp q.accum (enum (qs.map (·.bytes)))
      { q with accum := acc, quench := q.quench || qu, heard := q.heard ++ [(c, 0, o.normOf a c vs)] }

/-- A contribution sent to one rank: quantised, or empty where the member withholds its values (R189). -/
def State.sendContribution (s : State) (p : Nat) (o : CollOp) (a k r : Nat) : State :=
  let vs := o.valsOf a k
  let h := { s.segHead p o 0 a k with quenchIn := o.inQuench, norm := o.normOf a k vs }
  if vs.isEmpty then s
  else if o.flagged then s.sendEmpty p o h r 1
  else
    let qs := quantAll o.exp [] vs
    ((s.countBlocks p o qs).collRuns p (o.normRuns a vs)).sendBlocks p o h [r] 0 true qs

/-- The reduce stage that follows the RING stage at the head (R188). -/
def CollOp.nextReduce (o : CollOp) : Option Nat := match o.stages with
  | ⟨a, false⟩ :: ⟨b, false⟩ :: _ => if cgDirect o.group a then none else some b
  | _ => none

/-- Are `n` elements from `x` on of the own part of the RING stage at the head final: have their blocks come (R188)? -/
def CollOp.ownFinal (o : CollOp) (x n : Nat) : Bool := match o.stages with
  | ⟨a, _⟩ :: _ =>
    let c := cgMine o.group a
    let b := (cgPart o.group o.desc a c).1
    (List.range (blocksOf (x - b + n))).all fun j => j < (x - b) / 256 || o.got.contains (c, j)
  | [] => false

/-- The operation as the stage after the RING stage at the head sees it: the own part as far as it has come (R188). -/
def CollOp.aheadOf (o : CollOp) : CollOp := match o.stages with
  | ⟨a, _⟩ :: _ =>
    let (b, n) := cgPart o.group o.desc a (cgMine o.group a)
    { o with cur := o.accum.map fun v => (v.1, v.2.2 != 0), base := b, len := n, flagged := false, inQuench := o.quench, inNorm := (o.normS, o.normC), got := o.ahead }
  | [] => o

/-- Is part `k` of the next stage final at this member, its norm pair, which part 0 alone carries, included (R188, R199)? -/
def CollOp.partFinal (o : CollOp) (b k : Nat) : Bool :=
  let (x, n) := cgPart o.group o.desc b k
  o.ownFinal x n && (k != 0 || (match o.stages with
    | ⟨a, _⟩ :: _ => let (y, m) := cgPart o.group o.desc a (cgMine o.group a); o.ownFinal y m
    | [] => false))

/-- The next reduce stage begins for every part whose input has become final (R188). -/
def State.sendAhead (s : State) (p insn : Nat) : State :=
  match (s.part p).coll.op insn with
  | none => s
  | some o => match o.nextReduce with
    | none => s
    | some b =>
      let g := o.group
      let d := cgDim g b
      let c := cgMine g b
      let to_ := if cgDirect g b then ((List.range d).filter (· != c)).map fun k => (k, cgMove g (cgRank g) b k) else [((c + d - 1) % d, cgMove g (cgRank g) b ((c + 1) % d))]
      let s := s.each (to_.filter fun x => !o.sentTo.contains x.1 && o.partFinal b x.1) fun s (k, r) =>
        (s.sendContribution p o.aheadOf b k r).modOp p insn fun q => { q with sentTo := q.sentTo ++ [k] }
      let (x, n) := cgPart g o.desc b c
      if o.nextTick.isNone && n != 0 && o.ownFinal x (min n 256) then s.modOp p insn fun q => { q with nextTick := some s.tick } else s

/-- A reduce stage starts, for the parts that have not gone out yet (R188, R191, R193). -/
def State.startReduce (s : State) (p : Nat) (o : CollOp) (a : Nat) : State :=
  let g := o.group
  let d := cgDim g a
  let c := cgMine g a
  let n := (cgPart g o.desc a c).2
  let o := { o with inQuench := o.quench, inNorm := (o.normS, o.normC) }
  let s := s.modOp p o.insn fun q => { q with
    accum := List.replicate n (f32Zero, f32Zero, 0), got := q.ahead, heard := [], buf := [], stageTick := some (q.nextTick.getD s.tick), sentTo := [], ahead := [], nextTick := none, emptyIn := false, inQuench := q.quench, inNorm := (q.normS, q.normC) }
  if cgDirect g a then
    let s := s.each (List.range d) fun s k => if k = c then (if n = 0 then s else s.ownDirect p o a c) else if o.sentTo.contains k then s else s.sendContribution p o a k (cgMove g (cgRank g) a k)
    s.resolveCarry p o.insn a
  else if o.sentTo.contains ((c + d - 1) % d) then s
  else s.sendContribution p o a ((c + d - 1) % d) (cgMove g (cgRank g) a ((c + 1) % d))

/-- A segment of a DIRECT stage at its owner (R193). -/
def State.takeDirect (s : State) (p m : Nat) (o : CollOp) (x : Seg) : State :=
  let g := o.group
  let a := x.axis
  let c := cgMine g a
  let k := cgCoord g x.rank a
  let n := (cgPart g o.desc a c).2
  if x.part ≠ c ∨ blocksOf n < x.first + x.count then s.badSeg p m
  else if o.heard.any (fun h => h.1 == k) then s
  else if x.count = 0 then s.modOp p o.insn fun q => { q with heard := q.heard ++ [(k, 1, pair0)] }
  else
    let buf := o.buf ++ [(k, x.bytes)]
    let segs := (buf.filter fun b => b.1 == k).map fun b => segOf b.2
    if (segs.map (·.count)).sum < blocksOf n then s.modOp p o.insn fun q => { q with buf := buf }
    else
      let fin := ((segs.find? (·.last)).map (·.norm)).getD pair0
      let (acc, qu, bad) := addContribution o.exp o.accum (blocksAt segs)
      let s := s.collRuns p (contribFlags o.exp o.accum (blocksAt segs))
      let s := s.badBlocks p (cdTensor o.desc) m bad
      s.modOp p o.insn fun q => { q with
        buf := buf.filter fun b => b.1 != k, accum := acc, quench := q.quench || qu || segs.any (·.quenchIn), heard := q.heard ++ [(k, 0, fin)] }

/-- A DIRECT stage closes: books, result, norm pair, and the carry for what is missing (R194-R196, R199). -/
def State.closeDirect (s : State) (p : Nat) (o : CollOp) (a code : Nat) : State :=
  let g := o.group
  let d := cgDim g a
  let c := cgMine g a
  let (b, n) := cgPart g o.desc a c
  let step := (s.part p).run.step
  let k := (o.heard.filter fun h => h.2.1 == 0).length
  let empties := (o.heard.filter fun h => h.2.1 == 1).length
  let missing := d - o.heard.length
  let late := if cgCarry g then missing else 0
  let drop := empties + (missing - late)
  let oor := (o.accum.filter fun x => x.2.2.testBit 1).length
  let scale := if cgRescale g && k < d then ratio32 d k else f32One
  let res : List Elem := o.accum.map fun x =>
    (if x.2.2.testBit 1 ∨ k = 0 then f32Zero else if cgRescale g && k < d then fmul (fadd x.1 x.2.1) scale else fadd x.1 x.2.1, x.2.2 != 0)
  let prs := (List.range d).map fun j => match o.heard.find? (fun h => h.1 == j) with
    | some (_, 0, q) => q
    | _ => pair0
  let pr := treePairs prs
  let fl := o.accum.map fun x =>
    if x.2.2.testBit 1 || k == 0 then 0 else addFlags x.1 x.2.1 ||| (if cgRescale g && k < d then mulFlags (fadd x.1 x.2.1) scale else 0) ||| slagFlag (x.2.2 != 0)
  if n = 0 then s.modOp p o.insn fun q => { q with cur := [], base := b, len := 0, flagged := false, stages := q.stages.drop 1, lastBooks := (0, 0, 0), normS := f32Zero, normC := f32Zero }
  else
    let s := (s.collRuns p fl).collRuns p [normFlags prs]
    let s := s.modOp p o.insn fun q => { q with
      cur := res, base := b, len := n, flagged := false, stages := q.stages.drop 1, normS := pr.1, normC := pr.2
      expected := q.expected + d, received := q.received + k, late := q.late + late, dropped := q.dropped + drop, lastBooks := (k, late, drop)
      close := max q.close code, rangeErr := q.rangeErr + oor, quench := q.quench || oor != 0, accum := [], buf := [], stageTick := none }
    let s := s.modColl p fun q => { q with
      carries := (q.carries.filter fun y => !y.is (cgId g) (cdTensor o.desc) a o.occ (step - 1)) ++
        (if late = 0 then [] else [{ group := cgId g, tensor := cdTensor o.desc, axis := a, part := c, exp := o.exp, step := step, occ := o.occ,
                                     pairs := List.replicate n (f32Zero, f32Zero, 0), count := 0, buf := o.buf }]) }
    let s := if 0 < missing then s.modRun p fun r => { r with repro := true } else s
    if oor = 0 then s else s.raise { recPart p sevDef 0x56 with detail := oor }

/-- Does a late contribution name blocks outside its part: the part of another coordinate, or past the end of the part where that is known, from
its carry or from the step's own operation (R190)? -/
def State.lateBad (s : State) (p g : Nat) (x : Seg) : Bool :=
  let c := (s.part p).coll
  let past := fun (n : Nat) => decide (blocksOf n < x.first + x.count)
  x.part != cgMine g x.axis || (match c.carries.find? (fun k => k.is x.group x.tensor x.axis x.occ x.step) with
    | some k => past k.pairs.length
    | none => x.step == (s.part p).run.step && c.ops.any fun o =>
        o.kind == 0 && cgId o.group == x.group && cdTensor o.desc == x.tensor && o.occ == x.occ && past (cgPart o.group o.desc x.axis x.part).2)

/-- A late contribution: a bad segment where its blocks lie outside its part (R190); carried when its carry is open and it is not empty,
otherwise dropped (R195). -/
def State.takeLate (s : State) (p m : Nat) (x : Seg) : State :=
  match s.group p x.group, (s.part p).coll.carries.find? (fun k => k.is x.group x.tensor x.axis x.occ x.step) with
  | none, _ => s.count .lateDropped
  | some g, carry =>
    if s.lateBad p g x then s.badSeg p m
    else match carry with
    | none => s.count .lateDropped
    | some k =>
      let c := cgCoord g x.rank x.axis
      if x.count = 0 then s.count .lateDropped
      else
        let upd := fun (f : Carry → Carry) => s.modColl p fun q => { q with carries := q.carries.map fun y => if y.is x.group x.tensor x.axis x.occ x.step then f y else y }
        let buf := k.buf ++ [(c, x.bytes)]
        let segs := (buf.filter fun b => b.1 == c).map fun b => segOf b.2
        if (segs.map (·.count)).sum < blocksOf k.pairs.length then upd fun y => { y with buf := buf }
        else
          let (acc, _, bad) := addContribution k.exp k.pairs (blocksAt segs)
          let s := ((s.collRuns p (contribFlags k.exp k.pairs (blocksAt segs))).modColl p fun q => { q with carries := q.carries.map fun y => if y.is x.group x.tensor x.axis x.occ x.step then
            { y with buf := buf.filter fun b => b.1 != c, pairs := acc, count := y.count + 1 } else y }).badBlocks p x.tensor m bad
          match (s.part p).coll.ops.find? (fun o => o.kind == 0 && cgId o.group == x.group && cdTensor o.desc == x.tensor && o.occ == x.occ) with
          | some o => if x.step < (s.part p).run.step && ((o.stages.head?.map fun t => t.axis == x.axis && !t.result) == some true) && o.stageTick.isSome then s.resolveCarry p o.insn x.axis else s
          | none => s

/-- An operation as a RING stage on an axis sees it: as it stands, as it stood when that stage's own part became final, or, of the next stage,
as far as its input has come (R188). -/
def CollOp.at (o : CollOp) (a : Nat) : CollOp := match o.passing.find? (·.axis == a) with
  | some y => { o with cur := y.cur, base := y.base, flagged := y.flagged, inQuench := y.inQuench, inNorm := y.inNorm, got := y.got }
  | none => if o.nextReduce = some a then o.aheadOf else o

/-- May a segment of the next RING stage pass on already: is the part final here that it adds to, and not this member's own (R188)? -/
def CollOp.passesAhead (o : CollOp) (x : Seg) : Bool :=
  o.nextReduce == some x.axis && !cgDirect o.group x.axis && x.part < cgDim o.group x.axis && x.part != cgMine o.group x.axis && x.count != 0 && o.partFinal x.axis x.part

/-- Have all parts that pass this member on a RING axis passed it? -/
def CollOp.passed (o : CollOp) (a : Nat) (got : List (Nat × Nat)) : Bool :=
  let d := cgDim o.group a
  let c := cgMine o.group a
  (List.range d).all fun k => k == c || k == (c + d - 1) % d || (List.range (blocksOf (cgPart o.group o.desc a k).2)).all fun j => got.contains (k, j)

/-- Blocks of a RING stage noted as received; a stage that all parts have passed is forgotten (R188). -/
def CollOp.note (o : CollOp) (a : Nat) (l : List (Nat × Nat)) : CollOp :=
  if o.passing.any (·.axis == a) then
    { o with passing := (o.passing.map fun y => if y.axis == a then { y with got := y.got ++ l } else y).filter fun y => !o.passed y.axis y.got }
  else if o.nextReduce = some a then { o with ahead := o.ahead ++ l }
  else { o with got := o.got ++ l }

/-- A segment of a RING stage: added and sent on, or kept by the owner (R189, R191). -/
def State.takeRing (s : State) (p m : Nat) (o : CollOp) (x : Seg) : State :=
  let o := o.at x.axis
  let g := o.group
  let a := x.axis
  let d := cgDim g a
  let c := cgMine g a
  let k := x.part
  let (b, n) := cgPart g o.desc a k
  let next := cgMove g (cgRank g) a ((c + 1) % d)
  let own := k == c
  let nb := blocksOf n
  if d ≤ k ∨ k = (c + d - 1) % d ∨ cgCoord g x.rank a ≠ (c + d - 1) % d ∨ nb < x.first + x.count then s.badSeg p m
  else if o.got.contains (k, x.first) then s
  else
    let loc := o.valsOf a k
    let mine := o.normOf a k loc
    let pr := pairAdd x.norm mine
    let empty := x.count == 0
    let first := if empty then 0 else x.first
    let cnt := if empty then nb else x.count
    let blks := (cutBlocks x.count x.body).map (decBlock o.exp)
    let inc : List Elem := if empty then List.replicate n (f32Zero, false) else (blks.flatMap fun y => y.1.elems).take (n - 256 * first)
    let sl := (loc.drop (256 * first)).take inc.length
    let vals : List Elem := if o.flagged then inc else (inc.zip sl).map fun (u, v) => (fadd u.1 v.1, u.2 || v.2)
    let flags := x.flags + b01 o.flagged
    let qu := blks.any (·.1.quench) || x.quenchIn
    let s := s.badBlocks p (cdTensor o.desc) m ((blks.filter (·.2)).length)
    let s := (s.collRuns p (if o.flagged then inc.map fun u => slagFlag u.2 else (inc.zip sl).map fun (u, v) => addFlags u.1 v.1 ||| slagFlag (u.2 || v.2))).collRuns p
      (o.normRuns a sl ++ if x.last then [pairFlags x.norm mine] else [])
    let s := s.modOp p o.insn fun q => q.note a ((List.range cnt).map fun j => (k, first + j))
    if own then
      let s := s.modOp p o.insn fun q => { q with
        accum := q.accum.take (256 * first) ++ vals.map (fun v => (v.1, f32Zero, b01 v.2)) ++ q.accum.drop (256 * first + vals.length)
        quench := q.quench || qu, flagCount := max q.flagCount flags
        normS := if x.last then pr.1 else q.normS, normC := if x.last then pr.2 else q.normC
        emptyIn := q.emptyIn || empty }
      s.sendAhead p o.insn
    else
      let h := { s.segHead p o 0 a k with quenchIn := x.quenchIn || o.inQuench, norm := if x.last then pr else pair0, flags := flags }
      if o.flagged then
        if empty then s.sendEmpty p o h next flags
        else
          let s := s.countBlocks p o (blks.filterMap fun y => if y.1.bf then some ⟨[], true, [], []⟩ else none)
          s.sendSeg p g next a { h with first := first, count := cnt, last := x.last, body := cleanBody x.count x.body } false
      else
        let qs := quantAll o.exp (blks.map fun y => y.1.bf) vals
        let _ := b
        (s.countBlocks p o qs).sendBlocks p o h [next] first x.last qs

/-- A RING stage ends at its owner (R191, R196). -/
def State.closeRing (s : State) (p : Nat) (o : CollOp) (a : Nat) : State :=
  let d := cgDim o.group a
  let (b, n) := cgPart o.group o.desc a (cgMine o.group a)
  let f := min o.flagCount d
  let (e, r, x) := if n = 0 then (0, 0, 0) else (d, d - f, f)
  s.modOp p o.insn fun q => { q with
    passing := if q.passed a q.got then q.passing else q.passing ++ [{ axis := a, cur := q.cur, base := q.base, flagged := q.flagged, inQuench := q.inQuench, inNorm := q.inNorm, got := q.got }]
    cur := q.accum.map fun v => (v.1, v.2.2 != 0), base := b, len := n, flagged := false, stages := q.stages.drop 1, flagCount := 0
    normS := if n = 0 then f32Zero else q.normS, normC := if n = 0 then f32Zero else q.normC
    expected := q.expected + e, received := q.received + r, dropped := q.dropped + x, lastBooks := (r, 0, x), accum := [], stageTick := none }

/-! ## The owner's part, result stages and GATHER (R197, R198) -/

/-- Local address of element `i` of an operation's range, counted from its destination's first element. -/
def CollOp.dstAt (o : CollOp) (i : Nat) : Nat := gLocal (cdDst o.desc) + cdSize o.desc * (if o.kind = 0 then i - (ownPart o.group o.desc).1 else i)

/-- Elements written as FP32 with their marks. -/
def State.writeElems (s : State) (la : Nat) (xs : List Elem) : State :=
  s.trySave la (xs.flatMap fun x => leBytes 4 x.1.toNat) (xs.flatMap fun x => [x.2, x.2, x.2, x.2])

/-- Elements read as FP32 with their marks. -/
def State.readElems (s : State) (la n : Nat) : List Elem :=
  let (bs, ms) := s.tryLoad la (4 * n)
  ((chunks 4 bs).zip (chunks 4 ms)).map fun (b, m) => (BitVec.ofNat 32 (leNat b), m.any id)

/-- Decoded blocks as elements. -/
def decodeElems (e : Int) (bs : List (List Byte)) : List Elem := bs.flatMap fun b => (decBlock e b).1.elems

/-- A result or gather stage starts: this member's part goes out along the axis. -/
def State.startResult (s : State) (p : Nat) (o : CollOp) (a : Nat) : State :=
  let g := o.group
  let d := cgDim g a
  let c := cgMine g a
  let (x, n) := cgPart g o.desc a c
  let dests := if cgDirect g a then ((List.range d).filter (· != c)).map (cgMove g (cgRank g) a) else [cgMove g (cgRank g) a ((c + 1) % d)]
  let s := s.modOp p o.insn fun q => { q with got := [], stageTick := some s.tick }
  if n = 0 then s
  else if o.kind = 0 then
    let qs := (quantAll o.exp [] (s.readElems (o.dstAt x) n)).map fun q => { q with samp := [] }
    (s.countBlocks p o qs).sendBlocks p o { s.segHead p o 1 a c with quenchIn := o.quench } dests 0 true qs
  else
    let len := cdSize o.desc * n
    s.each (enum (List.range (ceilDiv len 4096))) fun s (i, _) =>
      let la := o.dstAt x + 4096 * i
      let k := min 4096 (len - 4096 * i)
      s.each dests fun s r =>
        s.sendSeg p g r a { s.segHead p o 2 a c with first := i, last := 4096 * (i + 1) ≥ len, body := s.load la k } (s.loadMark la k)

/-- A RESULT or GATHER segment: written, and sent on around a ring. -/
def State.takeResult (s : State) (p m : Nat) (mk : List Bool) (o : CollOp) (x : Seg) : State :=
  let g := o.group
  let a := x.axis
  let d := cgDim g a
  let c := cgMine g a
  let (b, n) := cgPart g o.desc a x.part
  let len := cdSize o.desc * n
  let next := (c + 1) % d
  let cnt := if x.kind = 1 then x.count else 1
  if d ≤ x.part ∨ x.part = c ∨ (x.kind = 1 ∧ (x.count = 0 ∨ blocksOf n < x.first + x.count)) ∨ (x.kind = 2 ∧ (len ≤ 4096 * x.first ∨ x.body.length ≠ min 4096 (len - 4096 * x.first))) then s.badSeg p m
  else if o.got.contains (x.part, x.first) then s
  else
    let s := s.modOp p o.insn fun q => { q with got := q.got ++ (List.range cnt).map fun j => (x.part, x.first + j) }
    let s := if x.kind = 1 then
        let bs := cutBlocks x.count x.body
        let s := s.badBlocks p (cdTensor o.desc) m ((bs.filter fun y => (decBlock o.exp y).2).length)
        let xs := (decodeElems o.exp bs).take (n - 256 * x.first)
        (s.collRuns p (xs.map fun y => slagFlag y.2)).writeElems (o.dstAt (b + 256 * x.first)) xs
      else s.saveMarked (o.dstAt b + 4096 * x.first) x.body mk
    if cgDirect g a ∨ next = x.part then s
    else
      let s := if x.kind = 1 then s.countBlocks p o ((cutBlocks x.count x.body).filterMap fun y => if bit (leNat (y.take 4)) 31 then some ⟨[], true, [], []⟩ else none) else s
      s.sendSeg p g (cgMove g (cgRank g) a next) a { x with rank := cgRank g, body := if x.kind = 1 then cleanBody x.count x.body else x.body } (x.kind != 1 && mk.any id)

/-- Is the stage at the head of an operation complete at this member: is its own part final? Parts that still pass a RING stage go on while the
next stage runs (R188). -/
def CollOp.stageDone (o : CollOp) (t : Stage) : Bool :=
  let g := o.group
  let a := t.axis
  let d := cgDim g a
  let c := cgMine g a
  let all := fun (k units : Nat) => (List.range units).all fun j => o.got.contains (k, j)
  if t.result then
    (List.range d).all fun k => k == c || all k (let n := (cgPart g o.desc a k).2; if o.kind = 0 then blocksOf n else ceilDiv (cdSize o.desc * n) 4096)
  else if cgDirect g a then (cgPart g o.desc a c).2 == 0 || d - cgMiss g ≤ o.heard.length
  else all c (blocksOf (cgPart g o.desc a c).2)

/-! ## Statistics (R199) -/

/-- `COLL_STAT` fields (Table 09-8). -/
def stOwner (w : Nat) : Nat := bits w 319 303
def stQuench (w : Nat) : Bool := bit w 302
def stAmax (w : Nat) : W32 := BitVec.ofNat 32 (bits w 301 270)
def stLoc (w : Nat) : W32 × W32 := (BitVec.ofNat 32 (bits w 215 184), BitVec.ofNat 32 (bits w 183 152))
def stSum (w : Nat) : W32 × W32 := (BitVec.ofNat 32 (bits w 151 120), BitVec.ofNat 32 (bits w 119 88))

/-- The record a final owner forms from its sums. -/
def CollOp.statRec (o : CollOp) (step : Nat) (quench : Bool) : Nat :=
  let good := o.cur.filter fun x => isFinite x.1 && !x.2
  let am := good.foldl (fun m x => fmax m (fabs x.1)) f32Zero
  let sm := sqNorm good
  pack [(48, step), (16, cdTensor o.desc), (17, cgRank o.group), (1, b01 quench), (32, am.toNat), (18, o.lastBooks.1), (18, o.lastBooks.2.1), (18, o.lastBooks.2.2),
    (32, o.normS.toNat), (32, o.normC.toNat), (32, sm.1.toNat), (32, sm.2.toNat), (16, o.occ), (72, 0)]

/-- A record sent along one axis and, from there, the axes below it (the paths of GATHER, which takes its axes in descending order, R199):
direct, or around a ring. -/
def State.spreadStat (s : State) (p : Nat) (o : CollOp) (rec owner : Nat) (from_ : Option Nat) : State :=
  let g := o.group
  let me := cgRank g
  let along := fun (s : State) (a : Nat) =>
    let d := cgDim g a
    let c := cgMine g a
    let x := { s.segHead p o 3 a (cgCoord g owner a) with body := leBytes 48 rec }
    if d ≤ 1 then s
    else if cgDirect g a then
      (if from_ = some a then s else s.each ((List.range d).filter (· != c)) fun s k => s.sendSeg p g (cgMove g me a k) a x false)
    else if (c + 1) % d = cgCoord g owner a then s
    else s.sendSeg p g (cgMove g me a ((c + 1) % d)) a x false
  s.each ([2, 1, 0].filter fun a => match from_ with | some b => a ≤ b | none => true) along

/-- Every record in hand: the bucket's combined statistics reach the pyrometer and telemetry (R131, R199). -/
def State.combineStats (s : State) (p : Nat) (o : CollOp) : State :=
  let n := cgN o.group
  if o.final || o.kind != 0 || !o.done || (o.stats.length < n && !o.abandoned) then s
  else
    let rs := (List.range n).map fun r => assocGet r 0 o.stats
    let am := rs.foldl (fun m w => fmax m (stAmax w)) f32Zero
    let qu := rs.any stQuench
    let lc := treePairs (rs.map stLoc)
    let sm := treePairs (rs.map stSum)
    let tk := (s.part p).run.step
    let w := pack [(48, tk), (16, cdTensor o.desc), (18, o.expected), (18, o.received), (18, o.late), (18, o.dropped), (16, o.staleN), (16, o.carried), (16, o.escapes), (32, am.toNat),
      (32, (fadd lc.1 lc.2).toNat), (32, (fadd sm.1 sm.2).toNat), (32, satTo 32 (s.tick - o.releaseTick)), (1, b01 qu), (2, if o.abandoned then 3 else o.close), (16, o.occ), (181, 0)]
    let s := if o.abandoned then s else s.modPyro p fun y => match y.find (cdTensor o.desc) with
      | some (i, _) => y.modTrack i fun t => { t with amaxFinal := fmax t.amaxFinal am, quench := t.quench || qu }
      | none => y
    let s := s.collRuns p [normFlags (rs.map stLoc) ||| normFlags (rs.map stSum) ||| addFlags lc.1 lc.2 ||| addFlags sm.1 sm.2]
    let s := s.modOp p o.insn fun q => { q with final := true }
    (s.modColl p fun c => { c with recs := c.recs ++ [(o.insn, w)] }).recordPart p 0x05 4 w

/-! ## Progress of an operation -/

/-- The final owner's part: dequantised once where a result stage follows, and written; its record goes out (R197, R199). -/
def State.finishOwner (s : State) (p : Nat) (o : CollOp) : State :=
  let more := !o.stages.isEmpty
  let qs := quantAll o.exp [] o.cur
  let esc := more && qs.any (·.esc)
  let rec_ := o.statRec (s.part p).run.step (o.quench || esc)
  let s := s.collRuns p (sqFlags (o.cur.filter fun x => isFinite x.1 && !x.2))
  let s := if more then (s.collRuns p (qs.flatMap (·.flags))).sample p (samplerColl p) (cdTensor o.desc) (qs.flatMap (·.samp)) else s
  let vals := if more then (decodeElems o.exp (qs.map (·.bytes))).take o.len else o.cur
  let s := if o.len = 0 then s else s.writeElems (o.dstAt o.base) vals
  let s := s.modOp p o.insn fun q => { q with sent := true, quench := q.quench || esc, cur := [], stats := assocSet (cgRank o.group) rec_ q.stats }
  s.spreadStat p o rec_ (cgRank o.group) none

/-- The next stage of an operation starts, or the operation completes. -/
def State.nextStage (s : State) (p insn : Nat) : State :=
  match (s.part p).coll.op insn with
  | none => s
  | some o =>
    match o.stages with
    | ⟨a, false⟩ :: _ => s.startReduce p o a
    | rest =>
      let s := if o.kind = 0 && !o.sent then s.finishOwner p o else s
      match rest, (s.part p).coll.op insn with
      | ⟨a, _⟩ :: _, some o => s.startResult p o a
      | [], some o => let s := s.modOp p insn fun q => { q with done := true }; s.combineStats p { o with done := true }
      | _, none => s

/-- Ends the stage at the head if it is complete, and starts what follows. -/
def State.advanceOp (p insn : Nat) : Nat → State → State
  | 0, s => s
  | n + 1, s =>
    match (s.part p).coll.op insn with
    | some o =>
      if o.done || !o.released || o.abandoned then s
      else match o.stages with
        | t :: _ =>
          if !o.stageDone t then s
          else
            let s := if t.result then s.modOp p insn fun q => let (b, l) := cgRange o.group o.desc (cgIndex o.group o.desc t.axis); { q with stages := q.stages.drop 1, base := b, len := l }
              else if cgDirect o.group t.axis then s.closeDirect p o t.axis (if o.heard.length < cgDim o.group t.axis && (cgPart o.group o.desc t.axis (cgMine o.group t.axis)).2 != 0 then 1 else 0)
              else s.closeRing p o t.axis
            advanceOp p insn n (s.nextStage p insn)
        | [] => s
    | none => s

/-! ## Flag reduction and decision (R200-R202) -/

/-- A segment that this member addresses to itself, or holds until it can be used (R188). -/
def State.holdSeg (s : State) (p : Nat) (sender : Nat) (bs : List Byte) : State := s.modColl p fun c => { c with early := c.early ++ [(sender, bs)] }

/-- This partition as a sender. -/
def State.self (s : State) (p : Nat) : Nat := s.moduleId * 8 + p * 2

/-- A segment to one rank; the member's own is kept (R200, R203). -/
def State.sendTo (s : State) (p g r : Nat) (x : Seg) (slag : Bool) : State :=
  if r = cgRank g then s.holdSeg p (s.self p + b01 slag) x.bytes else s.sendSeg p g r 0 x slag

/-- Payload of a DECIDE (Table 09-5). -/
def decideBody (d : Decision) (pairs : List (W32 × W32)) : List Byte :=
  leBytes 2 d.word ++ leBytes 1 d.reason ++ leBytes 1 0 ++ leBytes 4 d.received ++ leBytes 2 d.accNext ++ leBytes 2 d.newEpoch ++
    pairs.flatMap fun q => leBytes 4 q.1.toNat ++ leBytes 4 q.2.toNat

/-- Two words of one class carry different digests. -/
def digestsDiffer (ws : List FlagWord) : Bool := ws.any fun a => ws.any fun b => a.cls == b.cls && a.digest != b.digest

def RootFlag.is (r : RootFlag) (g step occ : Nat) : Bool := r.group == g && r.step == step && r.occ == occ

/-- Has a step been given up at its root by an ABORT or by the root's own discard (R202)? -/
def Coll.aborted (c : Coll) (g step : Nat) : Bool := c.aborts.any fun a => a.1 == cgId g && a.2.1 == step

/-- The root closes a flag reduction: every member hears the decision, which is to skip with reason 2 where the step has been given up (R200-R202). -/
def State.rootClose (s : State) (p g step occ reason newEpoch : Nat) : State :=
  let c := (s.part p).coll
  let reason := if reason = 0 ∧ c.aborted g step then 2 else reason
  match c.roots.find? (·.is (cgId g) step occ) with
  | none => s
  | some r =>
    if r.closed then s
    else
      let word := r.words.foldl (fun a w => a ||| w.word) 0 ||| (if digestsDiffer r.words then 16 else 0)
      let k := (r.words.map fun w => w.pairs.length).foldl max 0
      let prs := (List.range k).map fun j => treePairs ((List.range (cgN g)).map fun q => match r.words.find? (fun w => w.rank == q) with
        | some w => w.pairs.getD j pair0
        | none => pair0)
      let d : Decision := ⟨word, reason, r.words.length, c.accNext, newEpoch⟩
      let s := if prs.isEmpty then s else s.collRuns p ((List.range k).map fun j => normFlags ((List.range (cgN g)).map fun q => ((r.words.find? fun w => w.rank == q).map fun w => w.pairs.getD j pair0).getD pair0))
      let x : Seg := { kind := 5, epoch := (s.part p).run.epoch, step := step, rank := cgRank g, group := cgId g, occ := occ, body := decideBody d prs }
      let s := s.modColl p fun c => { c with roots := c.roots.map fun y => if y.is (cgId g) step occ then { y with closed := true, reason := reason, newEpoch := newEpoch } else y }
      s.each (List.range (cgN g)) fun s q => s.sendTo p g q x (r.words.any (·.slag))

/-- A flag word reaches the root (R200). -/
def State.rootAdd (s : State) (p g step occ : Nat) (w : FlagWord) (own : Bool) : State :=
  let c := (s.part p).coll
  match c.roots.find? (·.is (cgId g) step occ) with
  | some r =>
    if r.closed then s.count .lateFlag
    else if r.words.any (fun y => y.rank == w.rank) then s
    else
      let f := fun (y : RootFlag) => if y.is (cgId g) step occ then { y with words := y.words ++ [w], taken := if own then some s.tick else y.taken } else y
      let s := s.modColl p fun c => { c with roots := c.roots.map f }
      if cgN g - cgFlagMiss g ≤ r.words.length + 1 then s.rootClose p g step occ 0 0 else s
  | none =>
    let s := s.modColl p fun c => { c with roots := c.roots ++ [{ group := cgId g, step := step, occ := occ, words := [w], taken := if own then some s.tick else none, closed := false }] }
    if cgN g - cgFlagMiss g ≤ 1 then s.rootClose p g step occ 0 0 else s

/-- The held FLAG sends its word; norm pairs read with a mark go out marked (R39, R136, R200, R308). -/
def State.flagSend (s : State) (p : Nat) (o : CollOp) (word : Nat) : State :=
  let g := o.group
  let prs := (List.range (cdPairs o.desc)).map fun j =>
    let w := s.word (gLocal (cdSrc o.desc) + 8 * j) 8
    (BitVec.ofNat 32 (bits w 31 0), BitVec.ofNat 32 (bits w 63 32))
  let slag := s.loadMark (gLocal (cdSrc o.desc)) (8 * cdPairs o.desc)
  let dg := (s.part p).pyro.digest
  let step := (s.part p).run.step
  let s := s.modOp p o.insn fun q => { q with sent := true, released := true, releaseTick := s.tick }
  if cgRank g = 0 then s.rootAdd p g step o.occ ⟨0, word, cdClass o.desc, dg, prs, slag⟩ true
  else s.sendSeg p g 0 0 { s.segHead p o 4 0 0 with body := leBytes 2 word ++ leBytes 2 (cdClass o.desc) ++ leBytes 4 dg ++ prs.flatMap fun q => leBytes 4 q.1.toNat ++ leBytes 4 q.2.toNat } slag

/-- Reductions and gathers of the epoch are abandoned and complete; carries are cleared (Table 09-10 row 3). -/
def State.abandonOps (s : State) (p : Nat) : State :=
  let s := s.modColl p fun c => { c with
    carries := []
    ops := c.ops.map fun o =>
      if o.done || o.kind = 2 then o
      else
        let open_ := o.kind == 0 && o.released && (o.stages.head?.map fun t => !t.result) == some true
        let a := (o.stages.head?.map (·.axis)).getD 0
        let n := (cgPart o.group o.desc a (cgMine o.group a)).2
        let d := if open_ && n != 0 then cgDim o.group a else 0
        let k := if cgDirect o.group a then (o.heard.filter fun h => h.2.1 == 0).length else 0
        { o with abandoned := true, done := true, stages := [], cur := [], accum := [], buf := [], passing := []
                 expected := o.expected + d, received := o.received + min k d, dropped := o.dropped + (d - min k d) } }
  s.each (s.part p).coll.ops fun s o => s.combineStats p o

/-- A decision reaches a member: the record is written with the marks it came with, and the deciding FLAG's is the step's decision (R132, R201, R206). -/
def State.takeDecide (s : State) (p : Nat) (mk : List Bool) (o : CollOp) (x : Seg) : State :=
  let w := leNat (x.body.take 12)
  let d : Decision := ⟨bits w 15 0, bits w 23 16, bits w 63 32, bits w 79 64, bits w 95 80⟩
  let s := s.saveMarked (gLocal (cdDst o.desc)) (x.body.take (12 + 8 * cdPairs o.desc)) mk
  let s := s.modOp p o.insn fun q => { q with done := true }
  let s := if d.word.testBit 4 then
      if (s.part p).pyro.reseed.contains (cgId o.group) then s
      else ((s.raise { recPart p sevDef 0x45 with detail := cdClass o.desc }).modPyro p fun y => { y with reseed := y.reseed ++ [cgId o.group] }).modRun p fun r => { r with repro := true }
    else s
  if (s.part p).coll.deciding ≠ some (cgId o.group, o.occ) then s
  else
    let s := s.modRun p fun r => { r with decision := some d, accHeard := some d.accNext, repro := r.repro || d.reason != 0, newEpoch := if d.reason = 1 then some d.newEpoch else r.newEpoch }
    if d.reason = 1 then s.abandonOps p else s

/-- Reason and new epoch of a DECIDE. -/
def decideEpoch (x : Seg) : Nat × Nat := let w := leNat (x.body.take 12); (bits w 23 16, bits w 95 80)

/-- A second DECIDE of the deciding FLAG with reason 1: the layout that replaces the first comes under its epoch (R206). -/
def State.decidedAgain (s : State) (p : Nat) (mk : List Bool) (o : CollOp) (x : Seg) : State :=
  if (decideEpoch x).1 ≠ 1 ∨ (s.part p).coll.deciding ≠ some (cgId o.group, o.occ) then s
  else
    let s := s.saveMarked (gLocal (cdDst o.desc)) (x.body.take (12 + 8 * cdPairs o.desc)) mk
    (s.modRun p fun r => { r with newEpoch := some (decideEpoch x).2 }).abandonOps p

/-- The same at a partition already held for the barrier of the first: the new epoch comes into force, its layout to follow (R206). -/
def State.heldAgain (s : State) (p : Nat) (x : Seg) : State :=
  let r := (s.part p).run
  if (decideEpoch x).1 = 1 ∧ r.holds.contains .reshard ∧ (decideEpoch x).2 ≠ r.epoch then s.modRun p fun r => { r with epoch := (decideEpoch x).2, newEpoch := some (decideEpoch x).2 }
  else s.count .lateDropped

/-- The root decides again, with reason 1 and a new epoch, the step that it has decided with reason 1 (R206). -/
def State.decideAgain (s : State) (p g step occ newEpoch : Nat) (own : Bool) : State :=
  let s := s.modColl p fun c => { c with roots := c.roots.map fun y => if y.is (cgId g) step occ then { y with reason := 1, newEpoch := newEpoch } else y }
  let d : Decision := ⟨((s.part p).run.decision.map (·.word)).getD 0, 1, ((s.part p).run.decision.map (·.received)).getD 0, (s.part p).coll.accNext, newEpoch⟩
  let x : Seg := { kind := 5, epoch := (s.part p).run.epoch, step := step, rank := cgRank g, group := cgId g, occ := occ, body := decideBody d [] }
  s.each ((List.range (cgN g)).filter fun q => own || q != cgRank g) fun s q => s.sendTo p g q x false

/-! ## Barriers (R185, R203) -/

/-- The payload of a BARRIER. -/
def barrierBody (sub value : Nat) : List Byte := leBytes 1 sub ++ leBytes 3 0 ++ leBytes 4 value

def State.barrierSeg (s : State) (p g sub value : Nat) : Seg :=
  { kind := 7, epoch := (s.part p).run.epoch, step := (s.part p).run.step, rank := cgRank g, group := cgId g, body := barrierBody sub value }

/-- Every group of the job is confirmed. -/
def State.allConfirmed (s : State) (p : Nat) : Bool := (((s.part p).job.map (·.groups)).getD []).all fun g => (s.part p).coll.confirmed.contains (cgId g)

/-- A barrier's answer reaches a member (R203). -/
def State.barrierAnswered (s : State) (p g sub : Nat) : State :=
  if sub = 0 then
    let s := s.modColl p fun c => { c with confirmed := setIns (cgId g) c.confirmed }
    if s.allConfirmed p then s.unhold p .confirm else s
  else if sub = 1 then (s.modColl p fun c => { c with anchorFrom := none }).unhold p .refresh
  else if sub = 2 then s.unhold p .reshard
  else s

/-- A member's barrier reaches the root; all heard under one epoch, and that the root's own, the root answers each (R203, R206). A wrong list is
a fault (R185). -/
def State.barrierHeard (s : State) (p g sub rank value epoch : Nat) : State :=
  if sub = 0 ∧ value ≠ s.groupCrc g then s.raise { recPart p sevPart 0x54 with detail := cgId g }
  else
    let same := fun (b : Barrier) => b.group == cgId g && b.sub == sub && b.epoch == epoch
    let heard := match (s.part p).coll.barriers.find? same with
      | some b => setIns rank b.heard
      | none => [rank]
    if heard.length < cgN g ∨ epoch ≠ (s.part p).run.epoch then
      s.modColl p fun c => { c with barriers := c.barriers.filter (fun b => !same b) ++ [⟨cgId g, sub, epoch, heard⟩] }
    else
      let s := s.modColl p fun c => { c with barriers := c.barriers.filter fun b => !same b }
      (s.each ((List.range (cgN g)).filter (· != cgRank g)) fun s r => s.sendSeg p g r 0 (s.barrierSeg p g sub value) false).barrierAnswered p g sub

/-- This member reaches a barrier. -/
def State.barrierReach (s : State) (p g sub value : Nat) : State :=
  if cgRank g = 0 then s.barrierHeard p g sub 0 value (s.part p).run.epoch else s.sendSeg p g 0 0 (s.barrierSeg p g sub value) false

/-- Group confirmation at a job's first step (R185). -/
def State.startConfirm (s : State) (p : Nat) : State :=
  let gs := ((s.part p).job.map (·.groups)).getD []
  if gs.isEmpty then s
  else
    let s := (s.hold p .confirm).modColl p fun c => { c with confirmed := [], confirmFrom := s.tick }
    s.each gs fun s g => s.barrierReach p g 0 (s.groupCrc g)

/-! ## Held segments (R188, R387) -/

/-- The operation that a segment names. -/
def Coll.forSeg (c : Coll) (x : Seg) : Option CollOp :=
  let k := if x.kind = 2 then 1 else if x.kind = 5 then 2 else 0
  c.ops.find? fun o => o.kind == k && cgId o.group == x.group && cdTensor o.desc == x.tensor && o.occ == x.occ

/-- A segment used now: the state after it, or none while it must wait. -/
def State.useSeg (s : State) (p sender : Nat) (x : Seg) : Option State :=
  let step := (s.part p).run.step
  let m := senderMod sender
  if step < x.step then none
  else if x.step < step then (if x.kind = 0 then some (s.takeLate p m x) else if x.kind = 5 then some (s.heldAgain p x) else some (s.count .lateDropped))
  else match (s.part p).coll.forSeg x with
    | none => none
    | some o =>
      if x.kind = 3 then
        some ((s.modOp p o.insn fun q => { q with stats := assocSet (stOwner (leNat x.body)) (leNat x.body) q.stats }).spreadStat p o (leNat x.body) (stOwner (leNat x.body)) (some x.axis))
      else if x.kind = 5 then (if o.sent && !o.done then some (s.takeDecide p (senderMarks sender 32 x.body.length) o x) else if o.done then some (s.decidedAgain p (senderMarks sender 32 x.body.length) o x) else none)
      else if o.abandoned then some s
      else if !o.released then none
      else if x.kind = 0 then
        (if o.reduced x.axis then (if cgDirect o.group x.axis then some (s.takeLate p m x) else if o.passing.any (·.axis == x.axis) then some (s.takeRing p m o x) else some s)
         else if o.passesAhead x then some (s.takeRing p m o x)
         else if o.stages.head? = some ⟨x.axis, false⟩ then some (if cgDirect o.group x.axis then s.takeDirect p m o x else s.takeRing p m o x)
         else none)
      else if o.stages.head? = some ⟨x.axis, true⟩ then some (s.takeResult p m (senderMarks sender 32 x.body.length) o x)
      else if o.stages.contains ⟨x.axis, true⟩ then none
      else some s

/-- One round over the held segments, and over the operations. -/
def State.settleOnce (s : State) (p : Nat) : State :=
  let l := (s.part p).coll.early
  let s := s.modColl p fun c => { c with early := [] }
  let s := s.each l fun s (snd, bs) =>
    match s.useSeg p snd (segOf bs) with
    | some t => match (t.part p).coll.forSeg (segOf bs) with
      | some o => let t := t.advanceOp p o.insn 8; match (t.part p).coll.op o.insn with
        | some o => t.combineStats p o
        | none => t
      | none => t
    | none => s.holdSeg p snd bs
  s.each ((s.part p).coll.ops.map (·.insn)) fun s n => s.advanceOp p n 8

/-- Held segments are used as far as they can be. -/
def State.settle (p : Nat) : Nat → State → State
  | 0, s => s
  | n + 1, s =>
    let s := s.settleOnce p
    if (s.part p).coll.early.isEmpty then s else settle p n s

/-- The all-gather after a restore has ended: its operations go, and the hold with them (R174). -/
def State.gatherEnd (s : State) (p : Nat) : State :=
  let q := s.part p
  if q.run.holds.contains .gather && q.restore.isNone && !q.run.holds.contains .rollback && !q.coll.ops.isEmpty && q.coll.ops.all (·.done) then
    (s.modColl p fun c => { c with ops := [], counts := [], recs := [] }).unhold p .gather
  else s

/-- Held segments are used as far as they can be. -/
def State.collSettle (s : State) (p : Nat) : State := (s.settle p ((s.part p).coll.early.length + 8)).gatherEnd p

/-- A GATHER starts at issue: this member's part to its place in the range, then its stages (R198). -/
def State.gatherStart (s : State) (p : Nat) (o : CollOp) : State :=
  let (b, n) := ownPart o.group o.desc
  let len := cdSize o.desc * n
  let a := gLocal (cdSrc o.desc)
  let (bs, ms) := s.tryLoad a len
  let s := s.trySave (o.dstAt b) bs ms
  let s := s.modOp p o.insn fun q => { q with released := true, releaseTick := s.tick, stages := gatherStages o.group o.desc, base := b, len := n }
  ((s.nextStage p o.insn).advanceOp p o.insn 8).collSettle p

/-- What issue starts at once: a GATHER, and a FLAG whose word is already taken (R39, R198, R200). Under a decision with reason 1 a REDUCE or a
GATHER, which would be one of the old epoch, is abandoned (R206). -/
def State.collStart (s : State) (p insn : Nat) : State :=
  match (s.part p).coll.op insn with
  | some o =>
    if o.kind ≠ 2 ∧ (s.part p).run.decision.any (·.reason == 1) then s.abandonOps p
    else if o.kind = 1 then s.gatherStart p o
    else if o.kind = 2 then (match (s.part p).run.flagTaken with
      | some w => (s.flagSend p o w).collSettle p
      | none => s)
    else s
  | none => s

/-- Has every REDUCE of the step all its records, or been abandoned (R199)? -/
def Coll.statsDone (c : Coll) : Bool := c.ops.all fun o => o.kind != 0 || o.abandoned || (o.done && o.stats.length == cgN o.group)

end Sys2Proof.Machine
end

