-- ==== Sys2Proof/Machine/OuterCore.lean ====
section
/-! DEFINITION. Outer rounds: configuration fields, staging, stream formats, seals and the fold correction (R240-R246, R257-R260, R268). -/

namespace Sys2Proof.Machine

/-! ## `ROUND_CFG`, `OUTER_ISLAND`, `OUTER_SLAB` (Tables 11-2 to 11-4) -/

def rcStaging (c : Nat) : Nat := bits c 511 448
def rcSlabList (c : Nat) : Nat := bits c 447 384
def rcIslList (c : Nat) : Nat := bits c 383 320
def rcSlabs (c : Nat) : Nat := bits c 319 296
def rcH (c : Nat) : Nat := bits c 295 279
def rcMerge (c : Nat) : Nat := bits c 278 263
def rcIslands (c : Nat) : Nat := bits c 262 258
def rcOwn (c : Nat) : Nat := bits c 257 254
def rcQuorum (c : Nat) : Nat := bits c 253 249
def rcFmt (c : Nat) : Nat := bits c 248 247
def rcResid (c : Nat) : Nat := bits c 246 246
def rcOpt (c : Nat) : Nat := bits c 245 245
def rcClamp (c : Nat) : W32 := BitVec.ofNat 32 (bits c 244 213)
def rcEta (c : Nat) : W32 := BitVec.ofNat 32 (bits c 212 181)
def rcMu (c : Nat) : W32 := BitVec.ofNat 32 (bits c 180 149)
def rcStale (c : Nat) : W32 := BitVec.ofNat 32 (bits c 148 117)
def rcRtt (c : Nat) : Nat := bits c 116 101
def rcWinMax (c : Nat) : Nat := bits c 100 88
def rcUdp (c : Nat) : Nat := bits c 87 72
def rcIsland (c : Nat) : Nat := bits c 71 59
def rcModel (c : Nat) : Nat := bits c 58 35

def oiSpeakers (i : Nat) : Nat := bits i 383 320
def oiLocs (i : Nat) : Nat := bits i 319 256
def oiPrefixes (i : Nat) : Nat := bits i 255 192
def oiWeight (i : Nat) : W32 := BitVec.ofNat 32 (bits i 191 160)
def oiFirst (i : Nat) : Nat := bits i 159 128
def oiIsland (i : Nat) : Nat := bits i 127 115
def oiBase (i : Nat) : Nat := bits i 114 95
def oiCount (i : Nat) : Nat := bits i 94 77
def oiTx (i : Nat) : Nat := bits i 76 68
def oiTxAlt (i : Nat) : Nat := bits i 67 59
def oiRx (i : Nat) : Nat := bits i 58 50
def oiRxAlt (i : Nat) : Nat := bits i 49 41
def oiEnabled (i : Nat) : Bool := bit i 40

def osWork (d : Nat) : Nat := bits d 511 448
def osResid (d : Nat) : Nat := bits d 447 384
def osSnap (d k : Nat) : Nat := if k % 2 = 0 then bits d 383 320 else bits d 319 256
def osMom (d : Nat) : Nat := bits d 255 192
def osReplicas (d : Nat) : Nat := bits d 191 128
def osSlab (d : Nat) : Nat := bits d 127 104
def osCount (d : Nat) : Nat := bits d 103 80
def osNRep (d : Nat) : Nat := bits d 79 62
def osSpeaker (d : Nat) : Bool := bit d 61

/-! ## Stream formats (Table 11-5) -/

def blockBytes (f : Nat) : Nat := if f = 0 then 260 else if f = 1 then 132 else 516
def segBlocks (f : Nat) : Nat := if f = 0 then 8 else if f = 1 then 16 else 4
def slabBytes (f : Nat) : Nat := if f = 0 then 8519680 else if f = 1 then 4325376 else 16908288
/-- Blocks and segments of a slab of `n` elements. -/
def slabBlocks (n : Nat) : Nat := ceilDiv n 256
def slabSegs (f n : Nat) : Nat := ceilDiv (slabBlocks n) (segBlocks f)

/-- Least k in -127..127 with amax ≤ qmax * 2^k, -127 for zero (R244). -/
def outerScale (f : Nat) (xs : List W32) : Int :=
  match amaxOf (xs.map f32) with
  | .fin _ m e => if m = 0 then -127 else max (-127) (min 127 (leastK m e (if f = 0 then 127 else 7) 0))
  | _ => 127

/-- rne(x * 2^-X) as an integer. -/
def outerQuant (k : Int) (x : W32) : Int := match roundToMultiple k (f32 x) with
  | .fin s m e => let n : Int := ((m * 2 ^ (e - k).toNat / 2 ^ (k - e).toNat : Nat) : Int); if s then -n else n
  | _ => 0

/-- One block of 256 values compressed, and how many nonzero ones became zero (R244). -/
def compressBlock (f : Nat) (xs : List W32) : List Byte × Nat :=
  let xs := padTo 256 f32Zero xs
  if f = 2 then (List.replicate 4 0#8 ++ xs.flatMap fun x => leBytes 2 (fmtBF16.enc .rne false (f32 x)).1, 0)
  else
    let k := outerScale f xs
    let qs := xs.map (outerQuant k)
    let udf := ((xs.zip qs).filter fun (x, q) => q == 0 && !isZero x).length
    let body := if f = 0 then qs.map fun q => BitVec.ofNat 8 (field 8 q)
      else (chunks 2 qs).map fun c => BitVec.ofNat 8 (field 4 (c.getD 0 0) + 16 * field 4 (c.getD 1 0))
    ([BitVec.ofNat 8 (k + 127).toNat, 0#8, 0#8, 0#8] ++ body, udf)

/-- A block's codes: the 256 values exactly, and whether it holds a forbidden code (R244, R257). -/
def decodeBlock (f : Nat) (bs : List Byte) : List Fp × Bool :=
  let body := bs.drop 4
  if f = 2 then
    let v := (chunks 2 body).map fun c => fmtBF16.dec (leNat c)
    (v, v.any fun x => !x.isFin)
  else
    let sc := (bs.headD 0#8).toNat
    let k : Int := (sc : Int) - 127
    let qs := if f = 0 then body.map fun b => b.toNat else body.flatMap fun b => [b.toNat % 16, b.toNat / 16]
    let w := if f = 0 then 8 else 4
    (qs.map fun q => let z := sext w q; Fp.fin (z < 0) z.natAbs k, sc == 255 || qs.any (· == 2 ^ (w - 1)))

/-- A value clamped to ±b as FP32. -/
def clampTo (b : W32) (x : Fp) : W32 :=
  let y := f32 b
  if y.lt x then b else if x.lt y.neg then fneg b else toF32 x

/-! ## Staging (R256, R268) -/

/-- Local address of a term: slot, island entry and index of the slab. -/
def termAddr (c slot t j : Nat) : Nat := gLocal (rcStaging c) + ((slot % 3 * rcIslands c + t) * rcSlabs c + j) * slabBytes (rcFmt c)

/-- Local address of the seal records: 3 slots of one `SEAL_REC` in the first 64 bytes of each record area. -/
def sealAddr (c slot j : Nat) : Nat :=
  gLocal (rcStaging c) + 3 * rcIslands c * rcSlabs c * slabBytes (rcFmt c) + (slot % 3 * rcSlabs c + j) * (64 + rcIslands c * 1024)

/-- Local address of a round word. -/
def roundWordAddr (c rho : Nat) : Nat :=
  gLocal (rcStaging c) + 3 * rcIslands c * rcSlabs c * slabBytes (rcFmt c) + 3 * rcSlabs c * (64 + rcIslands c * 1024) + 8 * (rho % 3)

/-- Local address of the arrival bitmap of an island's term: one bit for each segment placed (R268; the places within the record area are log entry
110). -/
def bitmapAddr (c slot t j : Nat) : Nat := sealAddr c slot j + 64 + 1024 * t

/-- Local address of copy `k` of a slab's progress word: in the record area of slot `k`, so that the copies lie in separate lines (R240, R317; log
entry 110). -/
def progressAddr (c j k : Nat) : Nat := sealAddr c k j + 32

/-- Bytes of the staging range (R268). -/
def stagingBytes (c : Nat) : Nat := 3 * rcIslands c * rcSlabs c * slabBytes (rcFmt c) + 3 * rcSlabs c * (64 + rcIslands c * 1024) + 4096

/-! ## `SEAL_REC` (Table 11-9) -/

def slRound (r : Nat) : Nat := bits r 255 224
def slFold (r : Nat) : Nat := bits r 223 176
def slOn (r : Nat) : Nat := bits r 175 160
def slLate (r : Nat) : Nat := bits r 159 144
def slWinv (r : Nat) : W32 := BitVec.ofNat 32 (bits r 143 112)
def mkSeal (round fold on late : Nat) (winv : W32) : Nat := pack [(32, round), (48, fold), (16, on), (16, late), (32, winv.toNat), (112, 0)]

/-- The configuration and the islands that govern a round: changes act from the round after the boundary at which they take effect (R241). -/
def Outer.governs (o : Outer) (rho : Nat) : Nat × List Nat := match o.prior with
  | some x => if rho < o.since then x else (o.cfg.getD 0, o.islands)
  | none => (o.cfg.getD 0, o.islands)

/-- Does a seal proceed without an enabled island that was due, or merge a late term (R95)? -/
def Outer.partialSeal (o : Outer) (r : Nat) : Bool :=
  slLate r != 0 || ((enum (o.governs (slRound r)).2).any fun (t, e) => oiEnabled e && oiFirst e ≤ slRound r && !(slOn r).testBit t)

/-- Index and state of an owned slab holding a working address. -/
def Outer.slabOf (o : Outer) (work : Nat) : Option (Nat × SlabSt) :=
  firstWith (fun (x : SlabSt) => osWork x.desc ≤ work && work < osWork x.desc + 2 * osCount x.desc) o.slabs

/-- The vote of a slab's progress word as a reader takes it, and whether all copies agree: a marked copy agrees with no other (R240, R270). -/
def State.progressVote (s : State) (c j : Nat) : Option (Nat × Bool) :=
  match vote3 ([0, 1, 2].map fun k => if s.marked (progressAddr c j k) 8 then none else some (s.word (progressAddr c j k) 8)) with
  | some (some w, same) => some (w, same)
  | _ => none

/-! ## The correction (R259) -/

/-- Decoded elements `[i, i + n)` of a term with their marks, a marked one as zero. -/
def State.termRange (s : State) (c slot t j i n : Nat) : List (Fp × Bool) :=
  let b0 := i / 256
  let b1 := ceilDiv (i + n) 256
  let bb := blockBytes (rcFmt c)
  let all := (List.range (b1 - b0)).flatMap fun k =>
    let la := termAddr c slot t j + (b0 + k) * bb
    let v := (decodeBlock (rcFmt c) (s.bytes la bb)).1
    if s.marked la bb then
      (List.range v.length).zip v |>.map fun (q, x) =>
        let off := if rcFmt c = 0 then 4 + q else if rcFmt c = 1 then 4 + q / 2 else 4 + 2 * q
        if s.marked (la + off) 1 || (rcFmt c != 2 && s.marked la 1) then (Fp.fin false 0 0, true) else (x, false)
    else v.map fun x => (x, false)
  (all.drop (i - 256 * b0)).take n

/-- Weights and terms of a seal: on-time then late, each in ascending island entry (R259). A round before the job's
first has no own term: a joiner's is empty (R263; log entry 13). -/
def sealTerms (c r0 : Nat) (isl : List Nat) (r : Nat) : List (W32 × Nat × Nat) :=
  let w := fun (t : Nat) => oiWeight (isl.getD t 0)
  ((List.range 16).filter fun t => (slOn r).testBit t && !(t == rcOwn c && slRound r < r0)).map (fun t => (w t, slRound r, t)) ++
  ((List.range 16).filter fun t => (slLate r).testBit t).map fun t => (fmul (w t) (rcStale c), slRound r + 2, t)

/-- dmean over a range, and whether a marked term was met (R259, R270). -/
def State.dmean (s : State) (c r0 : Nat) (isl : List Nat) (r j i n : Nat) : List (W32 × Bool) :=
  let init : List (W32 × Bool) := List.replicate n (f32Zero, false)
  let acc := (sealTerms c r0 isl r).foldl (fun (acc : List (W32 × Bool)) (w, slot, t) =>
    (acc.zip (s.termRange c slot t j i n)).map fun ((a, m), (x, y)) => (ffma w (clampTo (rcClamp c) x) a, m || y)) init
  acc.map fun (a, m) => (fmul a (slWinv r), m)

/-- Values of a working-format array widened. -/
def State.workVals (s : State) (fmt la n : Nat) : List W32 := (w16s (s.bytes la (2 * n))).map fun c => toF32 ((fmtOf fmt).dec c)

/-- Elements of a residual array (R240). -/
def residBytes (c : Nat) : Nat := if rcResid c = 0 then 4 else 2

/-- What the correction of `[i, i + n)` of a slab reads for a sealed round: the terms' blocks, m and the two snapshots (R259). -/
def State.corrReads (s : State) (p : Nat) (x : SlabSt) (j r i n : Nat) : List (Nat × Nat) :=
  let (c, isl) := (s.part p).outer.governs (slRound r)
  let bb := blockBytes (rcFmt c)
  let term := fun (slot t : Nat) => (termAddr c slot t j + i / 256 * bb, (ceilDiv (i + n) 256 - i / 256) * bb)
  let own := decide (slRound r < jpRound0 (s.params p))
  (sealTerms c (jpRound0 (s.params p)) isl r).map (fun (_, slot, t) => term slot t) ++
  (if rcOpt c = 1 then [(gLocal (osMom x.desc) + 4 * i, 4 * n)] else []) ++
  (match own, (firstWith (fun e => some (oiIsland e) == (s.part p).outer.donor) isl).map (·.1) with
    | true, some t => [term (slRound r) t]
    | _, _ => [(gLocal (osSnap x.desc (slRound r + 1)) + 2 * i, 2 * n), (gLocal (osSnap x.desc (slRound r)) + 2 * i, 2 * n)])

/-- corr over a range of a slab for a sealed round, and whether a mark was met (R259). An element of a term that is marked counts as zero; a marked
element of a snapshot or of m folds as zero (R270, Table 14-2). The joiner's missing own movement is its donor's term (R263). -/
def State.corr (s : State) (p : Nat) (x : SlabSt) (j r fmt i n : Nat) : List (W32 × Bool) :=
  let o := (s.part p).outer
  let rho := slRound r
  let (c, isl) := o.governs rho
  let r0 := jpRound0 (s.params p)
  let dm := s.dmean c r0 isl r j i n
  let mom := if rcOpt c = 1 then w32s (s.bytes (gLocal (osMom x.desc) + 4 * i) (4 * n)) else List.replicate n f32Zero
  let own := decide (rho < r0)
  let donor := (firstWith (fun e => some (oiIsland e) == o.donor) isl).map (·.1)
  let moved : List (W32 × Bool × Bool) := match own, donor with
    | true, some t => (s.termRange c rho t j i n).map fun (y, m) => (clampTo (rcClamp c) y, m, false)
    | _, _ =>
      let a := gLocal (osSnap x.desc (rho + 1)) + 2 * i
      let b := gLocal (osSnap x.desc rho) + 2 * i
      let mk := s.marked a (2 * n) || s.marked b (2 * n)
      (enum ((s.workVals fmt a n).zip (s.workVals fmt b n))).map fun (k, u, v) => (fsub u v, false, mk && (s.marked (a + 2 * k) 2 || s.marked (b + 2 * k) 2))
  let mmk := rcOpt c = 1 ∧ s.marked (gLocal (osMom x.desc) + 4 * i) (4 * n)
  (enum ((dm.zip mom).zip moved)).map fun (k, ((d, dm), m), (v, tm, vm)) =>
    let u := if rcOpt c = 0 then fmul (rcEta c) d else fmul (rcEta c) (ffma (rcMu c) (ffma (rcMu c) m d) d)
    let bad := vm || (decide mmk && s.marked (gLocal (osMom x.desc) + 4 * (i + k)) 4)
    (if bad then f32Zero else fsub u v, bad || dm || tm)

/-- The seal of a slab whose fold a shard commit for step `st` performs, given the step of its generation word: none below a
fresh word's rank (R260), none of a round that a degraded restore has left unmerged (R265). -/
def SlabSt.foldSeal (x : SlabSt) (st : Nat) (have_ : Option Nat) : Option Nat :=
  x.seals.find? fun r => x.since ≤ slRound r && slFold r ≤ st && (match have_ with | some g => g < slFold r | none => true)

end Sys2Proof.Machine
end

