-- ==== Sys2Proof/Machine/UpdateUnit.lean ====
section
/-! DEFINITION. Shards, generation words, the commit and its folds, and the update units (R159-R170, R260). -/

namespace Sys2Proof.Machine

/-! ## `SHARD_GEN` (Table 08-4, R167) -/

def sgStep (w : Nat) : Nat := bits w 63 16
def sgFresh (w : Nat) : Bool := bit w 1
def sgActive (w : Nat) : Nat := bits w 0 0
def mkGen (step active : Nat) (fresh : Bool) : Nat := pack [(48, step), (14, 0), (1, b01 fresh), (1, active)]

/-- Local address of copy `k`. -/
def genAddr (d k : Nat) : Nat := gLocal (udGen d) + 4096 * k

/-- The three copies. -/
def State.genCopies (s : State) (d : Nat) : List Nat := [0, 1, 2].map fun k => s.word (genAddr d k) 8

/-- The vote of the three copies as a reader takes them, and whether all agree: a copy read with a slag mark agrees with no other
(R167, Table 14-2). -/
def State.genVote (s : State) (d : Nat) : Option (Nat × Bool) :=
  match vote3 ((enum (s.genCopies d)).map fun (k, w) => if s.marked (genAddr d k) 8 then none else some w) with
  | some (some w, same) => some (w, same)
  | _ => none

/-- Copies 0, 1, 2 written; the flip is at copy 1 (R168). -/
def State.writeGen (s : State) (d w : Nat) : State := s.each [0, 1, 2] fun s k => s.store (genAddr d k) (leBytes 8 w) false

/-- One copy written. -/
def State.writeCopy (s : State) (d k w : Nat) : State := s.store (genAddr d k) (leBytes 8 w) false

/-- Declared state is unusable or undetermined: the record, and only the island rollback recovers the partition's state (R165, R167). -/
def State.lostState (s : State) (p : Nat) (r : FaultRec) : State := (s.modRun p fun r => { r with stranded := true }).raise r

/-- The voted word, a disagreeing copy rewritten with a CE record, or without one where an interrupted flip left it behind (R167); none
where no two copies agree. -/
def State.voteGen (s : State) (p d : Nat) : State × Option Nat := match s.genVote d with
  | some (w, true) => (s, some w)
  | some (w, false) =>
    if (s.part p).halfFlips.contains (udGen d) then ((s.writeGen d w).modPart p fun q => { q with halfFlips := q.halfFlips.filter (· != udGen d) }, some w)
    else ((s.writeGen d w).raise { recPart p sevCE 0x09 with addr := udGen d }, some w)
  | none => (s, none)

/-- The words of these shards voted by a reader: UCE_PART where no two copies agree, and whether every word is determined (R167). -/
def State.voteShards (s : State) (p : Nat) (ds : List Nat) : State × Bool :=
  ds.foldl (fun (a : State × Bool) d => match a.1.voteGen p d with
    | (s, some _) => (s, a.2)
    | (s, none) => (s.lostState p { recPart p sevPart 0x0A with addr := udGen d }, false)) (s, true)

/-- The step of a word where a rule compares it: none for a fresh one, which is below every step (R167). -/
def sgRank (w : Nat) : Option Nat := if sgFresh w then none else some (sgStep w)

/-! ## The arithmetic (R164) -/

/-- One element's inputs and hyperparameters. -/
structure UIn where
  g : W32
  w : W32
  m : W32
  rho : W32
  kap : W32

/-- element(): the new master and moment (R164). -/
def updElement (kind : Nat) (mul b1 wd eta inv : W32) (x : UIn) : W32 × W32 :=
  let g := fmul x.g mul
  let u := fmul g (frsqrt (fmul (fmul x.rho x.kap) inv))
  let m := if kind = 0 then ffma b1 x.m g else if kind = 2 then ffma b1 x.m (fmul (fsub f32One b1) u) else x.m
  let t := if kind = 1 then u else m
  (ffma (fneg eta) (ffma wd x.w t) x.w, m)

/-- One squared gradient with its floor. -/
def gradSq (mul eps g : W32) : W32 := let x := fmul g mul; fadd (fmul x x) eps

/-- factored_pass(): new ρ, new κ and inv_rbar (R164). -/
def factoredPass (mul b2 eps : W32) (rows cols : Nat) (g : List W32) (rho kap : List W32) : List W32 × List W32 × W32 :=
  let q := g.map (gradSq mul eps)
  let omb := fsub f32One b2
  let rowsOf := chunks cols q
  let rho' := (rho.zip rowsOf).map fun (r, xs) => ffma b2 r (fmul omb (fmul (csum xs) (frcp (f32OfNat cols))))
  let kap' := (enum kap).map fun (j, k) => ffma b2 k (fmul omb (fmul (csum (rowsOf.map fun r => r.getD j f32Zero)) (frcp (f32OfNat rows))))
  (rho', kap', frcp (fmul (csum rho') (frcp (f32OfNat rows))))

/-- The learning rate's schedule entry of a step (R162). -/
def schedAddr (o step : Nat) : Nat := gLocal (opSched o) + 4 * min (step - opStep0 o) (opLen o - 1)

/-! ## Commits -/

/-- May the update units reach a shard's state: neither lent nor an arena home (R21, R151, R152)? -/
def State.shardOpen (s : State) (p d : Nat) : Bool := s.reach p (udState d) (udStride d + udEnd d) [1, 2] && s.reach p (udGen d) 8200 [1, 2]

/-- May they reach its gradient, and its working copy? -/
def State.gradOpen (s : State) (p d : Nat) : Bool := s.reach p (udGrad d) (4 * udCount d) [0]
def State.workOpen (s : State) (p d : Nat) : Bool := s.reach p (udWork d) (2 * udCount d) [0]

/-- Everything a commit computes before its decision. -/
structure Formed where
  gen : List Byte                   -- records of the new generation
  stat : List Byte × List Byte      -- new ρ and κ
  masters : List W32
  moments : List W32
  codes : List (Nat × CvtEv)        -- RNE(master), sat = 1
  hold : Bool                       -- shard hold (R165)
  slag : Bool                       -- marked state (R165)
  foldMark : Bool                   -- a marked element met by the fold (R270)

/-- Records of a generation: masters, and moments where the kind has them. -/
def splitRecs (kind : Nat) (bs : List Byte) : List W32 × List W32 :=
  if kind = 1 then (w32s bs, [])
  else let l := (chunks 8 bs).map leNat; (l.map fun x => BitVec.ofNat 32 (x % 2 ^ 32), l.map fun x => BitVec.ofNat 32 (x / 2 ^ 32))

/-- Records of a generation from masters and moments. -/
def joinRecs (kind : Nat) (ws ms : List W32) : List Byte := if kind = 1 then bytesOf32 ws else (ws.zip ms).flatMap fun (w, m) => leBytes 4 w.toNat ++ leBytes 4 m.toNat

/-- Working codes of masters: RNE, sat = 1 (Table 08-5 row 3). -/
def workCodes (fmt : Nat) (ws : List W32) : List (Nat × CvtEv) := ws.map fun w => (fmtOf fmt).enc .rne true (f32 w)

/-- The seal that this shard's commit for step `st` folds, with its slab (R260). -/
def State.pendingFold (s : State) (p d st : Nat) (rank : Option Nat) : Option (Nat × SlabSt × Nat) :=
  ((s.part p).outer.slabOf (udWork d)).bind fun (j, x) => (x.foldSeal st rank).map fun r => (j, x, r)

/-- Passes 1 and 2 of a commit for step `st` from generation `a`; `grad` false omits the gradient term and keeps the moments
(R260, the correction-only commit). -/
def State.form (s : State) (p d st a : Nat) (rank : Option Nat) (grad : Bool) : Formed :=
  let n := udCount d
  let kind := udKind d
  let base := udBase d a
  let o := (((s.part p).job.map (·.opts)).getD []).getD (udSet d) 0
  let rows := udRows d
  let cols := udCols d
  let g := if grad then w32s (s.bytes (gLocal (udGrad d)) (4 * n)) else []
  let gMark := grad && (!s.gradOpen p d || s.marked (gLocal (udGrad d)) (4 * n) || s.marked (schedAddr o st) 4)
  let eta := BitVec.ofNat 32 (s.word (schedAddr o st) 4)
  let (ws, ms) := splitRecs kind (s.bytes base (n * udRec d))
  let rho := if kind = 0 then [] else w32s (s.bytes (base + udRho d) (4 * rows))
  let kap := if kind = 0 then [] else w32s (s.bytes (base + udKap d) (4 * cols))
  let slag := s.marked base (n * udRec d) || (kind != 0 && (s.marked (base + udRho d) (4 * rows) || s.marked (base + udKap d) (4 * cols)))
  let (rho', kap', inv) := if kind = 0 ∨ !grad then (rho, kap, f32One) else factoredPass (udMul d) (opBeta2 o) (opEps o) rows cols g rho kap
  let new : List (W32 × W32) :=
    if grad then
      (enum (g.zip ws)).map fun (k, x, w) =>
        updElement kind (udMul d) (opBeta1 o) (opWd o) eta inv
          { g := x, w := w, m := ms.getD k f32Zero, rho := if cols = 0 then f32Zero else rho'.getD (k / cols) f32Zero, kap := if cols = 0 then f32Zero else kap'.getD (k % cols) f32Zero }
    else (enum ws).map fun (k, w) => (w, ms.getD k f32Zero)
  let (new, fm) : List (W32 × W32) × Bool := match s.pendingFold p d st rank with
    | none => (new, false)
    | some (j, x, r) =>
      let c := s.corr p x j r (udFmt d) ((udWork d - osWork x.desc) / 2) n
      ((new.zip c).map fun ((w, m), (v, _)) => (fadd w v, m), c.any (·.2))
  let ws' := new.map (·.1)
  let ms' := new.map (·.2)
  { gen := joinRecs kind ws' ms', stat := (bytesOf32 rho', bytesOf32 kap'), masters := ws', moments := ms', codes := workCodes (udFmt d) ws'
    hold := gMark || ws'.any (fun w => !isFinite w) || (kind != 1 && ms'.any (fun m => !isFinite m)), slag := slag, foldMark := fm }

/-- The new state written to generation `i` (Table 08-5 rows 2 and 3). -/
def State.writeState (s : State) (d i : Nat) (f : Formed) : State :=
  let b := udBase d i
  let s := s.store b f.gen false
  if udKind d = 0 then s else (s.store (b + udRho d) f.stat.1 false).store (b + udKap d) f.stat.2 false

/-- The masters' conversion sampled under the weight tensor, with the moments' non-finite values counted (R124, R165). -/
def State.sampleCommit (s : State) (p k d : Nat) (f : Formed) : State :=
  let smp := (f.masters.zip f.codes).map fun (w, c, ev) => ({ val := w, zero := convZero (udFmt d) none w c, ev := ev, slag := false } : Samp)
  let bad := (f.moments.filter fun m => !isFinite m).length
  let s := s.sample p k (udTensor d) smp
  if bad = 0 then s else s.sampleWith p k (udTensor d) (fun t => { t with nonfinite := satTo 32 (t.nonfinite + bad) }) 0

/-- Masters' conversions sampled under the weight tensor, for values derived again (R124, R170). -/
def State.sampleMasters (s : State) (p k d : Nat) (ws : List W32) : State :=
  s.sample p k (udTensor d) ((ws.zip (workCodes (udFmt d) ws)).map fun (w, c, ev) => { val := w, zero := convZero (udFmt d) none w c, ev := ev, slag := false })

/-- Working values written from codes. -/
def State.writeWork (s : State) (d : Nat) (cs : List Nat) : State := s.store (gLocal (udWork d)) (cs.flatMap (leBytes 2)) false

/-- Working values written where the working copy may be reached; else the access does not perform (R21). -/
def State.putWork (s : State) (p d : Nat) (cs : List Nat) : State := if s.workOpen p d then s.writeWork d cs else s.addrErr p (udWork d)

/-- Masters of a generation. -/
def State.mastersOf (s : State) (d g : Nat) : List W32 := (splitRecs (udKind d) (s.bytes (udBase d g) (udCount d * udRec d))).1

/-- Working copy re-derived from the masters of a generation: the codes, and whether a master carries a mark (R170). -/
def State.derive (s : State) (d g : Nat) : List Nat × Bool :=
  ((workCodes (udFmt d) (s.mastersOf d g)).map (·.1), s.marked (udBase d g) (udCount d * udRec d))

/-- Marks of a generation's masters, by element. -/
def State.masterMarks (s : State) (d g : Nat) : List Bool :=
  (chunks (udRec d) (s.byteMarks (udBase d g) (udCount d * udRec d))).map fun c => (c.take 4).any id

/-- The working values of a generation's masters written at a local address, each marked where its master is (R139, R170, R308). -/
def State.rederive (s : State) (d g la : Nat) : State :=
  s.saveMarked la ((s.derive d g).1.flatMap (leBytes 2)) ((s.masterMarks d g).flatMap fun m => [m, m])

/-- A record about an update unit's commit. -/
def updRec (p u sev code : Nat) : FaultRec := { recPart p sev code with resClass := 4, resIndex := u }

/-- The fold's record for a marked element: one for each slab and round (R270). -/
def State.foldRec (s : State) (p : Nat) (f : Formed) (fold : Option (Nat × SlabSt × Nat)) : State := match f.foldMark, fold with
  | true, some (j, x, r) =>
    if x.noted = some (slRound r) then s
    else (s.modOuter p fun o => { o with slabs := updAt o.slabs j fun y => { y with noted := some (slRound r) } }).raise { recPart p sevDef 0x11 with addr := osWork x.desc, detail := osSlab x.desc }
  | _, _ => s

/-- Does a commit fold a seal that R95 puts outside the promise? -/
def State.foldsPartial (s : State) (p : Nat) (fold : Option (Nat × SlabSt × Nat)) : Bool := fold.any fun (_, _, r) => (s.part p).outer.partialSeal r

/-! ## COMMIT_OPEN -/

/-- Shards of the partition's list whose capture or refresh keeps a commit from opening (R173, R178). -/
def State.guarded (s : State) (p d : Nat) : Bool :=
  let q := s.part p
  0 < q.imagePend || q.captured.any fun i => ((q.job.map (·.shards)).getD []).getD i.2 0 == d

/-- Is another commit on the same generation word open in the partition (R166)? -/
def State.shardBusy (s : State) (p d : Nat) : Bool :=
  s.units.any fun u => u.opn.any fun o => o.ent.part == p && udGen o.ent.desc == udGen d

/-- Is one of the unit's two working-value buffers free? A commit holds one until its flip (R166, log entry 86). -/
def UUnit.bufferFree (x : UUnit) : Bool := (x.opn.filter fun o => !o.decided && !o.flipped).length < 2

/-- The owned unit with the fewest queued entries, lowest index first; none where every queue is full or retired (R166). -/
def State.pickUnit (s : State) (p : Nat) : Option Nat :=
  ((List.range 8).filter fun u => unitPart s.nparts u == p && !(s.uunit u).offline && (s.uunit u).queue.length < 4).foldl (fun b u => match b with
    | none => some u
    | some v => if (s.uunit u).queue.length < (s.uunit v).queue.length then some u else some v) none

/-- The first waiting commit of a retired unit takes an entry at the head of a queue that has one (R166). -/
def State.placeRedo (s : State) (p : Nat) : State :=
  match (s.part p).redo, s.pickUnit p with
  | e :: rest, some v => (s.modPart p fun q => { q with redo := rest }).modUnit v fun y => { y with queue := e :: y.queue }
  | _, _ => s

/-- What the opening of a commit reads: the copies of the generation word, the active generation and its moments, the gradient and the learning
rate's entry, and the terms of a fold (Table 08-5 rows 1-3, R260). -/
def State.commitReads (s : State) (p d : Nat) : List (Nat × Nat) :=
  let n := udCount d
  let o := (((s.part p).job.map (·.opts)).getD []).getD (udSet d) 0
  let st := (s.part p).run.step
  let gen := if s.reach p (udGen d) 8200 [1, 2] then [0, 1, 2].map fun k => (genAddr d k, 8) else []
  match s.genVote d with
  | none => gen
  | some (w, _) =>
    let state := if s.shardOpen p d then [(udBase d (sgActive w), udEnd d)] else []
    if sgRank w = some st then gen ++ state
    else
      let grad := if s.gradOpen p d then [(gLocal (udGrad d), 4 * n)] else []
      let fold := match s.pendingFold p d st (sgRank w) with
        | some (j, x, r) => s.corrReads p x j r ((udWork d - osWork x.desc) / 2) n
        | none => []
      gen ++ state ++ grad ++ [(schedAddr o st, 4)] ++ fold

/-- The head of a unit's queue opens: the word is voted, and passes 1 and 2 run into the inactive generation (Table 08-5 rows 1-3). -/
def doCommitOpen (u : Nat) (found : Found) (s : State) : State :=
  let x := s.uunit u
  match x.queue with
  | [] => s
  | e :: rest =>
    let p := e.part
    let d := e.desc
    if x.offline ∨ !x.bufferFree ∨ s.shardBusy p d ∨ s.guarded p d then s
    else
      let st := (s.part p).run.step
      let s := s.meet (s.commitReads p d) found
      let (s, v) := s.voteGen p d
      let s := (s.modUnit u fun y => { y with queue := rest }).placeRedo p
      if !s.shardOpen p d then (s.addrErr p (udState d)).lostState p { updRec p u sevPart 0x41 with addr := udState d }
      else match v with
      | none => s.lostState p { updRec p u sevPart 0x0A with addr := udGen d }
      | some w =>
        let a := sgActive w
        let put := fun (s : State) (o : Open) => s.modUnit u fun y => { y with opn := y.opn ++ [o] }
        if sgRank w = some st then
          let (cs, m) := s.derive d a
          if m then s.lostState p { updRec p u sevPart 0x41 with addr := udState d }
          else put (s.sampleMasters p (samplerUnit u) d (s.mastersOf d a)) { ent := e, step := st, gen := a, buf := cs, bad := false, redo := true, flipped := true }
        else if (match sgRank w with | some g => decide (st < g) | none => false) then s.raise { updRec p u sevPart 0x46 with addr := udGen d }
        else
          let f := s.form p d st a (sgRank w) true
          if f.slag then s.lostState p { updRec p u sevPart 0x41 with addr := udState d }
          else
            let s := if s.gradOpen p d then s else s.addrErr p (udGrad d)
            let fold := s.pendingFold p d st (sgRank w)
            let s := ((s.writeState d (1 - a) f).sampleCommit p (samplerUnit u) d f).foldRec p f fold
            put s { ent := e, step := st, gen := 1 - a, buf := f.codes.map (·.1), bad := f.hold, redo := false, flipped := false, merged := s.foldsPartial p fold }

def execCommitOpen (u : Reading) (s : State) : Host.Outcome State Fault Refusal :=
  answer (Instr.commitOpen u).wf (doCommitOpen u.of u.found s)

/-! ## COMMIT_DECISION, COMMIT_COMPLETE -/

/-- May an open commit go on: a redo at once, another once its step's decision is final (Table 08-5 rows 1 and 4)? -/
def State.decidable (s : State) (o : Open) : Bool := !o.decided && (o.redo || (s.part o.ent.part).run.decision.isSome)

/-- The next write of an applied commit: copies 0, 1 and 2 of the word one after another, the flip at copy 1, then the working copy (Table 08-5
rows 5 and 6, R168). -/
def State.flipNext (s : State) (u i : Nat) (o : Open) : State :=
  let set := fun (s : State) (o : Open) => s.modUnit u fun y => { y with opn := updAt y.opn i fun _ => o }
  let s := if o.merged then s.modRun o.ent.part fun r => { r with repro := true } else s
  if o.flips < 3 then set (s.writeCopy o.ent.desc o.flips (mkGen o.step o.gen false)) { o with flips := o.flips + 1, flipped := 1 ≤ o.flips }
  else set (s.putWork o.ent.part o.ent.desc o.buf) { o with decided := true }

/-- The first open commit that may go on abandons, holds its shard, or makes its next write (Table 08-5 rows 4-6, R165). -/
def doCommitDecision (u : Nat) (s : State) : State :=
  match firstWith s.decidable (s.uunit u).opn with
  | none => s
  | some (i, o) =>
    let p := o.ent.part
    let d := o.ent.desc
    let set := fun (s : State) (o : Open) => s.modUnit u fun y => { y with opn := updAt y.opn i fun _ => { o with decided := true } }
    if o.redo then set (s.putWork p d o.buf) o
    else match (s.part p).run.decision with
      | none => s
      | some k =>
        if k.skip then set s o
        else if o.bad then
          let s := (s.modRun p fun r => { r with repro := true }).raise { updRec p u sevDef 0x40 with addr := udElem d, detail := udTensor d }
          set s o
        else s.flipNext u i o

def execCommitDecision (u : Nat) (s : State) : Host.Outcome State Fault Refusal :=
  answer (Instr.commitDecision u).wf (doCommitDecision u s)

/-- The instruction completes and its token is signalled (Table 08-5 row 7). -/
def doCommitComplete (u : Nat) (s : State) : State :=
  match firstWith (·.decided) (s.uunit u).opn with
  | none => s
  | some (i, o) => (s.modUnit u fun y => { y with opn := y.opn.eraseIdx i }).complete o.ent.part o.ent.stream o.ent.insn

def execCommitComplete (u : Nat) (s : State) : Host.Outcome State Fault Refusal :=
  answer (Instr.commitComplete u).wf (doCommitComplete u s)

/-! ## Issue and discard (R166, R169) -/

/-- Generation words whose flip has begun and whose commit has not written its working copy. -/
def halfOf (l : List Open) (p : Nat) : List Nat := (l.filter fun o => o.ent.part == p && 0 < o.flips && !o.decided).map fun o => udGen o.ent.desc

/-- Queues and buffers emptied, open commits left under Table 08-6; interrupted flips are remembered. -/
def State.updateDiscard (s : State) (p : Nat) : State :=
  let s := s.modPart p fun q => { q with redo := [], halfFlips := (q.halfFlips ++ s.units.flatMap fun u => halfOf u.opn p).eraseDups }
  { s with units := s.units.map fun u => { u with queue := u.queue.filter (fun e => e.part != p), opn := u.opn.filter fun o => o.ent.part != p } }

/-- A commit done whole by the smith for step `st`: RECOVERING redoes, and correction-only commits (R169, R260). False where the
shard's state is unusable. -/
def State.smithCommit (s : State) (p d st : Nat) (grad : Bool) : State × Bool :=
  let (s, v) := s.voteGen p d
  if !s.shardOpen p d then ((s.addrErr p (udState d)).lostState p { recPart p sevPart 0x41 with addr := udState d }, false)
  else match v with
  | none => (s.lostState p { recPart p sevPart 0x0A with addr := udGen d }, false)
  | some w =>
    if (match sgRank w with | some g => decide (st ≤ g) | none => false) then (s, true)
    else
      let a := sgActive w
      let f := s.form p d st a (sgRank w) grad
      if f.slag then (s.lostState p { recPart p sevPart 0x41 with addr := udState d }, false)
      else
        let fold := s.pendingFold p d st (sgRank w)
        let s := (((s.writeState d (1 - a) f).sampleCommit p samplerSmith d f).modPyro p Pyro.flush).foldRec p f fold
        if f.hold then ((s.modRun p fun r => { r with repro := true }).raise { recPart p sevDef 0x40 with addr := udElem d, detail := udTensor d }, true)
        else
          let s := if s.foldsPartial p fold then s.modRun p fun r => { r with repro := true } else s
          ((s.writeGen d (mkGen st (1 - a) false)).putWork p d (f.codes.map (·.1)), true)

end Sys2Proof.Machine
end

