-- ==== Sys2Proof/Machine/Stream.lean ====
section
/-! DEFINITION. The pass sequencers: fetch, checks, waits, issue, groups, completions, and the activation queues (R29-R36, R52-R54). -/

namespace Sys2Proof.Machine

/-! ## Fetch and checks (R29-R31) -/

/-- The program of a stream: its local entry address and its words. -/
def State.program (s : State) (p : Nat) (t : Sid) : Nat × Nat := (((s.part p).job.map (·.streams)).getD []).getD (sidIx t) (0, 0)

/-- Can a word of a program be read: it lies neither in the arena nor in a lent range (R151, R152)? -/
def State.wordAtOk (s : State) (p : Nat) (t : Sid) (pc : Nat) : Bool := s.reach p ((s.program p t).1 + 16 * pc) 16 [0]

/-- One stream word, or none beyond the program's end (R29) or where the access does not perform. -/
def State.fetch (s : State) (p : Nat) (t : Sid) (pc : Nat) : Option Nat :=
  let (e, n) := s.program p t
  if pc < n ∧ s.wordAtOk p t pc then some (s.word (gLocal e + 16 * pc) 16) else none

/-- Is an op listed for its class and permitted in the stream (Table 02-2)? -/
def opPermitted (t : Sid) (c op : Nat) : Bool :=
  if c = 0 then op ≤ 6
  else if c = 1 then op == 0 && t != .upd
  else if c = 2 then op == 0
  else if c = 3 then op ≤ 4
  else if c = 4 then (op == 1 && t == .upd) || ((op == 0 || op == 2) && t == .bwd)
  else if c = 5 then op == 0 && t == .upd
  else if c = 6 then op ≤ 2 && t != .upd
  else c == 7 && op ≤ 2

/-- Reserved bits of an immediate operand (R30). -/
def immediateOk (c op x : Nat) : Bool :=
  if c = 0 then (if op = 1 then x < 2 ^ 16 else if op = 3 then x < 2 ^ 9 else x == 0)
  else if c = 6 then (if op = 0 then bits x 11 8 == 0 else x < 256)
  else if c = 7 && op = 2 then x == 32
  else true

/-- Bytes of the descriptor that an instruction names; 0 for an immediate. -/
def descBytes (c op : Nat) : Nat :=
  if c = 1 then 32 else if c = 2 then 64 else if c = 3 then 64 else if c = 4 then 32 else if c = 5 then 64 else if c = 7 && op ≤ 1 then 32 else 0

/-- The checks of R31 on one word, given the stream's open loops and whether a group is open. -/
def State.wordOk (s : State) (p : Nat) (t : Sid) (w : Nat) : Bool :=
  let c := siClass w
  let op := siOp w
  let x := siOperand w
  let q := s.seq p t
  let n := descBytes c op
  opPermitted t c op && immediateOk c op x &&
  (if siWaitEn w then siWaitCnt w != 0 else siWaitTok w == 0 && siWaitCnt w == 0) && (siSigEn w || siSigTok w == 0) &&
  (n == 0 || (x % n == 0 && s.reach p x n [0])) &&
  (if c = 0 then
    (op != 1 || q.loops.length < 4) && (op != 2 || !q.loops.isEmpty) && (op != 3 || (q.group.isNone && 1 ≤ x && x ≤ 256)) && (op != 4 || q.group.isSome) &&
    (op != 6 || q.loops.isEmpty)
   else true)

/-- A malformed word or descriptor stops the stream: the record carries the layer, the address and the word's upper half (R31). -/
def State.streamMalformed (s : State) (p : Nat) (t : Sid) (w addr : Nat) : State :=
  (s.stopStream p t).raise { recPart p sevPart 0x20 with layer := siLayer w, addr := addr, detail := w / 2 ^ 64 }

/-- Does a partition's sequencer run? -/
def State.seqRuns (s : State) (p : Nat) (t : Sid) : Bool :=
  let q := s.part p
  let x := s.seq p t
  q.st == .active && !q.fenced && !q.run.atAction8 && !x.ended && !x.stopped && s.idValid

/-! ## Waits and blocking (R32-R35) -/

/-- Tokens of a counter. -/
def State.tokens (s : State) (p k : Nat) : Nat := (s.part p).run.tokens.getD k 0

/-- Does a word's counter hold what it waits for? -/
def State.counted (s : State) (p w : Nat) : Bool := !siWaitEn w || siWaitCnt w ≤ s.tokens p (siWaitTok w)

/-- The lowest-numbered unrun block of a group whose head, as a word, satisfies `met` (R36). -/
def State.headBlock (s : State) (p : Nat) (t : Sid) (g : Group) (met : Nat → Bool) : Option (Nat × Nat) :=
  ((enum g.heads).filter fun x => !g.ran.contains x.1).find? fun (_, h) => match s.fetch p t h with
    | some w => met w
    | none => true

/-- The word that a stream issues next: at its index, or between blocks the head that its counter lets run. -/
def State.nextWord (s : State) (p : Nat) (t : Sid) : Option Nat :=
  let q := s.seq p t
  match q.group with
  | some g => if g.cur.isSome then s.fetch p t q.pc else (s.headBlock p t g (s.counted p)).bind fun x => s.fetch p t x.2
  | none => s.fetch p t q.pc

/-- What a stream takes first of the `left` tokens of a counter that it waits on. -/
def State.claim (s : State) (p k : Nat) (left : Nat) (t : Sid) : Nat :=
  if !s.seqRuns p t || 32 ≤ (s.seq p t).out.length then 0
  else match s.nextWord p t with
    | some w => if siWaitEn w && siWaitTok w == k && siWaitCnt w ≤ left then siWaitCnt w else 0
    | none => 0

/-- The streams that claim before a stream: update, then backward, then forward (R33). -/
def claimsBefore : Sid → List Sid
  | .upd => []
  | .bwd => [.upd]
  | .fwd => [.upd, .bwd]

/-- Tokens of a counter that the streams with an earlier claim leave to a stream (R33). -/
def State.tokensLeft (s : State) (p : Nat) (t : Sid) (k : Nat) : Nat := (claimsBefore t).foldl (fun n u => n - s.claim p k n u) (s.tokens p k)

/-- Is a word's wait satisfied for its stream: the counter holds enough, and enough is left after the earlier claims (R33)? -/
def State.waitMet (s : State) (p : Nat) (t : Sid) (w : Nat) : Bool := !siWaitEn w || siWaitCnt w ≤ s.tokensLeft p t (siWaitTok w)

/-- A stream stays blocked by a condition; the tick since which it holds is kept (R35). -/
def State.block (s : State) (p : Nat) (t : Sid) (b : Block) : State :=
  s.modSeq p t fun q => match q.blocked with
    | some (c, _) => if c = b then q else { q with blocked := some (b, s.tick) }
    | none => { q with blocked := some (b, s.tick) }

/-- Ticks that a PUSH or POP was blocked, added as it issues (R55). -/
def State.addStall (s : State) (p : Nat) (t : Sid) : State :=
  match (s.seq p t).blocked with
  | some (.credit, k) => s.modRun p fun r => { r with stalls := updAt r.stalls (sidIx t) fun x => satTo 32 (x + (s.tick - k)) }
  | some (.slot, k) => s.modRun p fun r => { r with stalls := updAt r.stalls 2 fun x => satTo 32 (x + (s.tick - k)) }
  | _ => s

/-- No condition of R35 holds a stream any more. -/
def State.unblock (s : State) (p : Nat) (t : Sid) : State := (s.addStall p t).modSeq p t fun q => { q with blocked := none }

/-- The instruction issues: its wait is consumed, and the stream goes on at `pc` (R33). -/
def State.consume (s : State) (p : Nat) (t : Sid) (w : Nat) : State :=
  let s := s.addStall p t
  let s := if siWaitEn w then s.modRun p fun r => { r with tokens := updAt r.tokens (siWaitTok w) (· - siWaitCnt w) } else s
  s.modSeq p t fun q => { q with pc := q.pc + 1, blocked := none }

/-- A completion at issue (Table 02-2). -/
def State.signalAtIssue (s : State) (p w : Nat) : State := if siSigEn w then s.signal p (siSigTok w) else s

/-- An asynchronous instruction, whose word the stream has passed, becomes outstanding under the partition's next issue number; beside others, or in a group, nothing need order
its writes and theirs (R37, R95). -/
def State.openInsn (s : State) (p : Nat) (t : Sid) (w d : Nat) : State :=
  let n := (s.part p).run.nextInsn
  let mixed := (s.seq p t).group.isSome || (s.part p).run.seqs.any fun x => !x.out.isEmpty
  (s.modRun p fun r => { r with nextInsn := n + 1, mixed := r.mixed || mixed }).modSeq p t fun q =>
    { q with out := q.out ++ [{ id := n, cls := siClass w, op := siOp w, sig := if siSigEn w then some (siSigTok w) else none, layer := siLayer w,
                                 tensor := siTensor w, operand := siOperand w, desc := d,
                                 word := w / 2 ^ 64, at_ := (s.program p t).1 + 16 * (q.pc - 1) }] }

/-- One stream row: the word of class `c` and op `op` is fetched, checked, waited for and held while 32 instructions are outstanding (R32);
then `act` issues it. A malformed word stops the stream under any row; another instruction is no event of this row. -/
def State.issue (s : State) (p : Nat) (t : Sid) (c op : Nat) (act : State → Nat → State) : State :=
  let q := s.seq p t
  if !s.seqRuns p t || (match q.group with | some g => g.cur.isNone | none => false) then s
  else
    let a := (s.program p t).1 + 16 * q.pc
    match s.fetch p t q.pc with
    | none => (if q.pc < (s.program p t).2 then s.addrErr p a else s).streamMalformed p t 0 a
    | some w =>
      if s.marked (gLocal a) 16 || !s.wordOk p t w then s.streamMalformed p t w a
      else if siClass w ≠ c ∨ siOp w ≠ op then s
      else if !s.waitMet p t w then s.block p t .token
      else if 32 ≤ q.out.length then s.block p t .full
      else act s w

/-- Program indices of the heads of a group's blocks, from index `i`, and the index after the group; none where the program ends
inside the group. -/
def State.scanGroup (s : State) (p : Nat) (t : Sid) : Nat → Nat → Nat → Nat → List Nat → Option (List Nat × Nat)
  | 0, _, _, _, _ => none
  | f + 1, i, head, left, acc =>
    if left = 0 then some (acc.reverse, i)
    else match s.fetch p t i with
      | none => none
      | some w => if siClass w = 0 ∧ siOp w = 4 then scanGroup s p t f (i + 1) (i + 1) (left - 1) (head :: acc) else scanGroup s p t f (i + 1) head left acc

/-- A queue of the partition by id, with its index. -/
def Part.actq (q : Part) (id : Nat) : Option (Nat × ActQ) := firstWith (fun (x : ActQ) => aqId x.desc == id) q.actqs

/-- What a stream reads to issue its next word: the word, its descriptor, the pages that a PUSH copies, the part that a GATHER brings, and after
a GROUP_BEGIN the words up to the group's end. -/
def State.streamReads (s : State) (p : Nat) (t : Sid) : List (Nat × Nat) :=
  let q := s.seq p t
  let at_ := fun (i : Nat) => gLocal ((s.program p t).1 + 16 * i)
  if !s.seqRuns p t then []
  else match s.fetch p t q.pc with
    | none => []
    | some w =>
      let n := descBytes (siClass w) (siOp w)
      let own := fun (g n : Nat) => if s.reach p g n [0] then [(gLocal g, n)] else []
      let d := s.word (gLocal (siOperand w)) n
      let more :=
        if siClass w = 6 ∧ siOp w = 0 then (match (s.part p).actq (siOperand w % 256) with
          | some (_, x) => own (siOperand w / 4096 * 4096) (aqPages x.desc * 4096)
          | none => [])
        else if siClass w = 4 ∧ siOp w = 1 ∧ s.reach p (siOperand w) n [0] then (match s.group p (cdGroup d) with
          | some g => own (cdSrc d) (cdSize d * (ownPart g d).2)
          | none => [])
        else if siClass w = 0 ∧ siOp w = 3 then (match s.scanGroup p t ((s.program p t).2 + 1) (q.pc + 1) (q.pc + 1) (siOperand w) [] with
          | some (_, next) => [(at_ (q.pc + 1), 16 * (next - q.pc - 1))]
          | none => [(at_ (q.pc + 1), 16 * ((s.program p t).2 - q.pc - 1))])
        else []
      (at_ q.pc, 16) :: own (siOperand w) n ++ more

/-- The words that a stream looks at between two blocks of a group: the heads of those still to run (R36). -/
def State.headReads (s : State) (p : Nat) (t : Sid) : List (Nat × Nat) :=
  if !s.seqRuns p t then []
  else ((s.seq p t).group.map fun g => ((enum g.heads).filter fun x => !g.ran.contains x.1).map fun x => (gLocal ((s.program p t).1 + 16 * x.2), 16)).getD []

/-- A stream's reads have met the errors that they find. -/
def State.fetched (s : State) (p : Nat) (t : Fetch) : State := s.meet (s.streamReads p t.sid) t.found

/-- A stream row: its reads, then the issue of the word. -/
def State.issueRow (s : State) (p : Nat) (t : Fetch) (c op : Nat) (act : Nat → Sid → State → Nat → State) : State :=
  (s.fetched p t).issue p t.sid c op (act p t.sid)

/-- A descriptor read for issue: none where it carries a mark, or lies in the arena or in a lent range (R31, R151, R152). -/
def State.readDesc (s : State) (p w : Nat) : Option Nat :=
  let n := descBytes (siClass w) (siOp w)
  let a := gLocal (siOperand w)
  if s.marked a n || !s.reach p (siOperand w) n [0] then none else some (s.word a n)

/-- Issue with a descriptor: checks, then room, then the effect under the new issue number. A stream that waits for room in an engine is in
none of the conditions of R35. -/
def State.issueDesc (s : State) (p : Nat) (t : Sid) (w : Nat) (ok room : Nat → Bool) (act : State → Nat → Nat → State) : State :=
  match s.readDesc p w with
  | none => s.streamMalformed p t w (siOperand w)
  | some d =>
    if !ok d then s.streamMalformed p t w (siOperand w)
    else if !room d then s.unblock p t
    else
      let n := (s.part p).run.nextInsn
      act ((s.consume p t w).openInsn p t w d) d n

/-! ## CTRL (R30, R36, R39, R42, R47) -/

/-- The lowest-numbered unrun block whose head's wait is satisfied (R36). -/
def State.readyBlock (s : State) (p : Nat) (t : Sid) (g : Group) : Option (Nat × Nat) := s.headBlock p t g (s.waitMet p t)

/-- A group's next block starts, or the group is left after its last; otherwise the stream waits for a head (R36). -/
def State.selectBlock (s : State) (p : Nat) (t : Sid) : State :=
  match (s.seq p t).group with
  | none => s
  | some g =>
    if g.cur.isSome then s
    else if g.ran.length = g.heads.length then s.modSeq p t fun q => { q with group := none, pc := g.next, blocked := none }
    else match s.readyBlock p t g with
      | some (i, h) => s.modSeq p t fun q => { q with group := some { g with cur := some i }, pc := h, blocked := none }
      | none => s.block p t .token

def actNop (p : Nat) (t : Sid) (s : State) (w : Nat) : State := (s.consume p t w).signalAtIssue p w

/-- The forward stream begins a micro-batch, or the backward stream ends one (Table 02-7; log entry 95). -/
def State.microBatch (s : State) (p : Nat) (t : Sid) (begins : Bool) : State := match t, begins with
  | .fwd, true => s.modRun p fun r => { r with mbFwd := r.mbFwd + 1, mbHwm := max r.mbHwm (r.mbFwd + 1 - r.mbBwd) }
  | .bwd, false => s.modRun p fun r => { r with mbBwd := r.mbBwd + 1 }
  | _, _ => s

/-- Does the loop that begins after index `a - 1` count micro-batches: is its count 0 (Table 02-2)? -/
def State.microLoop (s : State) (p : Nat) (t : Sid) (a : Nat) : Bool := (s.fetch p t (a - 1)).any fun w => siOperand w == 0

def actLoopBegin (p : Nat) (t : Sid) (s : State) (w : Nat) : State :=
  let n := if siOperand w = 0 then (s.part p).run.accStep else siOperand w
  let s := s.consume p t w
  let s := (s.modSeq p t fun q => { q with loops := (q.pc, n) :: q.loops }).signalAtIssue p w
  if siOperand w = 0 then s.microBatch p t true else s

def actLoopEnd (p : Nat) (t : Sid) (s : State) (w : Nat) : State :=
  let s := s.consume p t w
  let s := match (s.seq p t).loops with
    | (a, n) :: _ => if s.microLoop p t a then let s := s.microBatch p t false; if 1 < n then s.microBatch p t true else s else s
    | [] => s
  (s.modSeq p t fun q => match q.loops with
    | (a, n) :: r => if 1 < n then { q with pc := a, loops := (a, n - 1) :: r } else { q with loops := r }
    | [] => q).signalAtIssue p w

def actGroupBegin (p : Nat) (t : Sid) (s : State) (w : Nat) : State :=
  let i := (s.seq p t).pc + 1
  match s.scanGroup p t ((s.program p t).2 + 1) i i (siOperand w) [] with
  | none => s.streamMalformed p t w ((s.program p t).1 + 16 * (s.seq p t).pc)
  | some (heads, next) =>
    (((s.consume p t w).modSeq p t fun q => { q with group := some { heads := heads, ran := [], cur := none, next := next } }).signalAtIssue p w).selectBlock p t

def actBlockEnd (p : Nat) (t : Sid) (s : State) (w : Nat) : State :=
  let s := (s.consume p t w).modSeq p t fun q => { q with group := q.group.map fun g => { g with ran := g.ran ++ g.cur.toList, cur := none } }
  (s.signalAtIssue p w).selectBlock p t

/-- A pass with no micro-batch loop is one micro-batch. -/
def State.onePass (s : State) (p : Nat) (t : Sid) : State :=
  let r := (s.part p).run
  if t = .fwd ∧ r.mbFwd = 0 then s.microBatch p t true else if t = .bwd ∧ r.mbBwd = 0 then s.microBatch p t false else s

def actPassEnd (p : Nat) (t : Sid) (s : State) (w : Nat) : State :=
  let s := s.onePass p t
  let s := (s.consume p t w).modSeq p t fun q => { q with passEnded := true }
  (if t = .bwd then s.modRun p fun r => { r with passAt := r.nextInsn } else s).signalAtIssue p w

def actStepEnd (p : Nat) (t : Sid) (s : State) (w : Nat) : State :=
  if t = .upd ∧ !(s.part p).coll.statsDone then s.block p t .stat
  else
    let s := ((s.consume p t w).modSeq p t fun q => { q with ended := true }).signalAtIssue p w
    if (s.part p).run.seqs.all (·.ended) then s.modRun p fun r => { r with endTick := some s.tick } else s

def execCtrlNop (p : Nat) (t : Fetch) (s : State) : Host.Outcome State Fault Refusal :=
  answer (Instr.ctrlNop p t).wf (s.issueRow p t 0 0 actNop)
def execLoopBegin (p : Nat) (t : Fetch) (s : State) : Host.Outcome State Fault Refusal :=
  answer (Instr.loopBegin p t).wf (s.issueRow p t 0 1 actLoopBegin)
def execLoopEnd (p : Nat) (t : Fetch) (s : State) : Host.Outcome State Fault Refusal :=
  answer (Instr.loopEnd p t).wf (s.issueRow p t 0 2 actLoopEnd)
def execGroupBegin (p : Nat) (t : Fetch) (s : State) : Host.Outcome State Fault Refusal :=
  answer (Instr.groupBegin p t).wf (s.issueRow p t 0 3 actGroupBegin)
def execBlockEnd (p : Nat) (t : Fetch) (s : State) : Host.Outcome State Fault Refusal :=
  answer (Instr.blockEnd p t).wf (s.issueRow p t 0 4 actBlockEnd)
def execPassEnd (p : Nat) (t : Fetch) (s : State) : Host.Outcome State Fault Refusal :=
  answer (Instr.passEnd p t).wf (s.issueRow p t 0 5 actPassEnd)
def execStepEnd (p : Nat) (t : Fetch) (s : State) : Host.Outcome State Fault Refusal :=
  answer (Instr.stepEnd p t).wf (s.issueRow p t 0 6 actStepEnd)

/-- The sequencer, between blocks of a group, starts one whose head has become ready (R36). -/
def doReadyBlockSelect (p : Nat) (t : Fetch) (s : State) : State :=
  let s := s.meet (s.headReads p t.sid) t.found
  if s.seqRuns p t.sid then s.selectBlock p t.sid else s

def execReadyBlockSelect (p : Nat) (t : Fetch) (s : State) : Host.Outcome State Fault Refusal :=
  answer (Instr.readyBlockSelect p t).wf (doReadyBlockSelect p t s)

/-! ## HEARTH and TEMPER (R62-R65, R103-R105) -/

/-- OFFLINE hearths of a partition, by index in it. -/
def State.offlineHearths (s : State) (p : Nat) : List Nat :=
  (List.range (hearthCount s.nparts)).filter fun h => let x := (s.hearth (hearthBase s.nparts p + h)).st; x == .offline || x == .absent

def srcOfSid : Sid → Src
  | .fwd => .fwd
  | .bwd => .bwd
  | .upd => .upd

/-- Hearths that a descriptor names. -/
def State.named (s : State) (p first count : Nat) : List Nat := (List.range count).map (hearthBase s.nparts p + first + ·)

def actHearth (p : Nat) (t : Sid) (s : State) (w : Nat) : State :=
  let k := queueOfSrc (srcOfSid t)
  s.issueDesc p t w (fun d => passOk d (hearthCount s.nparts) (s.offlineHearths p))
    (fun d => (s.named p (hpFirst d) (hpCount d)).all fun h => ((s.hearth h).queues.getD k []).length < 4)
    fun s d n => s.each (s.named p (hpFirst d) (hpCount d)) fun s h =>
      s.modHearth h fun x => { x with queues := updAt x.queues k (· ++ [⟨d, siTensor w, siLayer w, n⟩]) }

def execHearthPass (p : Nat) (t : Fetch) (s : State) : Host.Outcome State Fault Refusal :=
  answer (Instr.hearthPass p t).wf (s.issueRow p t 1 0 actHearth)

def actTemper (p : Nat) (t : Sid) (s : State) (w : Nat) : State :=
  let k := srcIx (srcOfSid t)
  s.issueDesc p t w (fun d => launchOk d (s.ownWord p) (srcOfSid t) (hearthCount s.nparts) (s.offlineHearths p) && s.reach p (tlProg d) (8 * tlLen d) [0])
    (fun d => (s.named p (tlFirst d) (tlCount d)).all fun h => ((s.temper h).queues.getD k []).length < 4)
    fun s d n =>
      let q := (s.part p).pyro
      let sc := q.expOf (tlScaleA d) + q.expOf (tlScaleB d)
      s.each (s.named p (tlFirst d) (tlCount d)) fun s h =>
        s.modTemper h fun x => { x with queues := updAt x.queues k (· ++ [⟨d, siTensor w, siLayer w, n, sc⟩]) }

def execTemperRunInsn (p : Nat) (t : Fetch) (s : State) : Host.Outcome State Fault Refusal :=
  answer (Instr.temperRunInsn p t).wf (s.issueRow p t 2 0 actTemper)

/-! ## TONGS (R145-R147) -/

def actTongs (op p : Nat) (t : Sid) (s : State) (w : Nat) : State :=
  s.issueDesc p t w (s.tongsOk p op) (fun d => (s.enginesFor p op d).all (s.tongsFree p t)) fun s d n => s.tongsPlace p t n op d

def execCopy (p : Nat) (t : Fetch) (s : State) : Host.Outcome State Fault Refusal :=
  answer (Instr.copy p t).wf (s.issueRow p t 3 0 (actTongs 0))
def execTongsGather (p : Nat) (t : Fetch) (s : State) : Host.Outcome State Fault Refusal :=
  answer (Instr.tongsGather p t).wf (s.issueRow p t 3 1 (actTongs 1))
def execFill (p : Nat) (t : Fetch) (s : State) : Host.Outcome State Fault Refusal :=
  answer (Instr.fill p t).wf (s.issueRow p t 3 2 (actTongs 2))
def execPrefetch (p : Nat) (t : Fetch) (s : State) : Host.Outcome State Fault Refusal :=
  answer (Instr.prefetch p t).wf (s.issueRow p t 3 3 (actTongs 3))
def execEvict (p : Nat) (t : Fetch) (s : State) : Host.Outcome State Fault Refusal :=
  answer (Instr.evict p t).wf (s.issueRow p t 3 4 (actTongs 4))

/-! ## COLL and UPDATE (R161, R166, R184, R187) -/

def actColl (op p : Nat) (t : Sid) (s : State) (w : Nat) : State :=
  s.issueDesc p t w (fun d => s.collOk p op d && (s.part p).coll.occ op d < 65536)
    (fun _ => ((s.part p).coll.ops.filter fun o => !o.done).length < 16)
    fun s d n => (s.collPlace p n op d ((s.group p (cdGroup d)).getD 0) (op == 2 && !(s.seq p .bwd).passEnded)).collStart p n

def execReduce (p : Nat) (t : Fetch) (s : State) : Host.Outcome State Fault Refusal :=
  answer (Instr.reduce p t).wf (s.issueRow p t 4 0 (actColl 0))
def execCollGather (p : Nat) (t : Fetch) (s : State) : Host.Outcome State Fault Refusal :=
  answer (Instr.collGather p t).wf (s.issueRow p t 4 1 (actColl 1))
def execCollFlag (p : Nat) (t : Fetch) (s : State) : Host.Outcome State Fault Refusal :=
  answer (Instr.collFlag p t).wf (s.issueRow p t 4 2 (actColl 2))

def actCommit (p : Nat) (t : Sid) (s : State) (w : Nat) : State :=
  s.issueDesc p t w (fun d => udOk d && (((s.part p).job.map (·.shards)).getD []).contains d) (fun _ => (s.pickUnit p).isSome) fun s d n =>
    match s.pickUnit p with
    | some u => s.modUnit u fun x => { x with queue := x.queue ++ [{ part := p, stream := t, insn := n, desc := d }] }
    | none => s

def execCommit (p : Nat) (t : Fetch) (s : State) : Host.Outcome State Fault Refusal :=
  answer (Instr.commit p t).wf (s.issueRow p t 5 0 actCommit)

/-! ## QUEUE (R53) -/

def State.modActq (s : State) (p i : Nat) (f : ActQ → ActQ) : State := s.modPart p fun q => { q with actqs := updAt q.actqs i f }

/-- Global address of slot `k mod count`. -/
def slotAddr (d k : Nat) : Nat := aqBase d + k % aqCount d * aqPages d * 4096

/-- A queue operation of a stream: on a queue the partition has in that role, of the stream's kind (Table 02-6). Any other word is malformed
(DESIGN CHOICE, log entry 85). -/
def Part.queueFor (q : Part) (t : Sid) (consumer : Bool) (id : Nat) : Option (Nat × ActQ) :=
  (q.actq id).filter fun x => aqConsumer x.2.desc == consumer && (aqKind x.2.desc == 0) == (t == .fwd)

def actPush (p : Nat) (t : Sid) (s : State) (w : Nat) : State :=
  let src := siOperand w / 4096 * 4096
  match (s.part p).queueFor t false (siOperand w % 256) with
  | none => s.streamMalformed p t w (siOperand w)
  | some (i, x) =>
    let len := aqPages x.desc * 4096
    if !s.reach p src len [0] then s.streamMalformed p t w (siOperand w)
    else if x.credits = 0 then s.block p t .credit
    else
      let n := (s.part p).run.nextInsn
      let s := ((s.consume p t w).openInsn p t w 0).modActq p i fun y => { y with credits := y.credits - 1, writing := y.writing + 1, pushes := y.pushes + 1 }
      let dst := slotAddr x.desc x.pushes
      let bs := s.load (gLocal src) len
      let mk := s.byteMarks (gLocal src) len
      if s.ownRange p dst len [0] then s.saveMarked (gLocal dst) bs mk else (s.remoteWrite p dst bs mk (.push (aqId x.desc) n)).1

def execPush (p : Nat) (t : Fetch) (s : State) : Host.Outcome State Fault Refusal :=
  answer (Instr.push p t).wf (s.issueRow p t 6 0 actPush)

def actPop (p : Nat) (t : Sid) (s : State) (w : Nat) : State :=
  match (s.part p).queueFor t true (siOperand w) with
  | none => s.streamMalformed p t w (siOperand w)
  | some (i, x) =>
    if x.full = 0 then s.block p t .slot
    else ((s.consume p t w).modActq p i fun y => { y with full := y.full - 1, popped := y.popped + 1, pops := y.pops + 1 }).signalAtIssue p w

def execPop (p : Nat) (t : Fetch) (s : State) : Host.Outcome State Fault Refusal :=
  answer (Instr.pop p t).wf (s.issueRow p t 6 1 actPop)

/-- The message of an activation queue: aux holds the queue and, in bit 8, 1 for a full notice; the payload is the sender's
layout epoch (DESIGN CHOICE, log entry 14). -/
def queueMsg (d epoch : Nat) (full : Bool) : HtPkt :=
  { type := 6, op := 1, dstModule := aqMod d, dstPart := aqPart d, aux := aqId d + 256 * b01 full, payload := leBytes 2 epoch }

/-- A RELEASE with no slot popped frees nothing and signals (DESIGN CHOICE, log entry 85). -/
def actRelease (p : Nat) (t : Sid) (s : State) (w : Nat) : State :=
  match (s.part p).queueFor t true (siOperand w) with
  | none => s.streamMalformed p t w (siOperand w)
  | some (i, x) =>
    let s := s.consume p t w
    let s := if x.popped = 0 then s
      else (s.modActq p i fun y => { y with popped := y.popped - 1, returning := y.returning + 1, releases := y.releases + 1 }).send p (queueMsg x.desc (s.part p).run.epoch false) (.credit (aqId x.desc))
    s.signalAtIssue p w

def execRelease (p : Nat) (t : Fetch) (s : State) : Host.Outcome State Fault Refusal :=
  answer (Instr.release p t).wf (s.issueRow p t 6 2 actRelease)

/-! ## SCALE (R137, R138) -/

/-- Does a TRACK name an entry it may change (R137)? -/
def State.trackChange (s : State) (p d : Nat) : Bool :=
  trackOk d && (match (s.part p).pyro.find (trTensor d) with
    | some (_, t) => (trFmt d == 15) == (trFmt (t.next.getD t.cfg) == 15)
    | none => false)

def actTrack (p : Nat) (t : Sid) (s : State) (w : Nat) : State :=
  match s.readDesc p w with
  | some d =>
    if s.trackChange p d then
      ((s.consume p t w).modPyro p fun q => match q.find (trTensor d) with
        | some (i, _) => q.modTrack i fun x => { x with next := some d }
        | none => q).signalAtIssue p w
    else s.streamMalformed p t w (siOperand w)
  | none => s.streamMalformed p t w (siOperand w)

def execTrack (p : Nat) (t : Fetch) (s : State) : Host.Outcome State Fault Refusal :=
  answer (Instr.track p t).wf (s.issueRow p t 7 0 actTrack)

/-! `SCALE_SAMPLE` (Table 06-9) -/
def ssMaster (d : Nat) : Nat := bits d 255 192
def ssWork (d : Nat) : Nat := bits d 191 128
def ssCount (d : Nat) : Nat := bits d 127 88
def ssTensor (d : Nat) : Nat := bits d 87 72
def ssFmt (d : Nat) : Nat := bits d 71 68
def ssSamples (d : Nat) : Nat := bits d 67 52
def ssStride (d : Nat) : Nat := bits d 51 44

/-- Ranges of a SAMPLE (R138). -/
def State.sampleOk (s : State) (p d : Nat) : Bool :=
  1 ≤ ssCount d && (ssFmt d == 7 || ssFmt d == 8) && 1 ≤ ssSamples d && 4 ≤ ssStride d && ssStride d % 4 == 0 && bits d 43 0 == 0 &&
  ssMaster d % 4 == 0 && ssWork d % 2 == 0 && s.reach p (ssMaster d) ((ssCount d - 1) * ssStride d + 4) [1, 2] && s.reach p (ssWork d) (2 * ssCount d) [0]

def actSample (p : Nat) (t : Sid) (s : State) (w : Nat) : State :=
  match s.readDesc p w with
  | some d =>
    if s.sampleOk p d then
      let n := (s.part p).run.nextInsn
      (((s.consume p t w).modRun p fun r => { r with nextInsn := n + 1 }).modPyro p fun q => { q with samples := q.samples ++ [⟨d, 0, n⟩] }).signalAtIssue p w
    else s.streamMalformed p t w (siOperand w)
  | none => s.streamMalformed p t w (siOperand w)

def execSample (p : Nat) (t : Fetch) (s : State) : Host.Outcome State Fault Refusal :=
  answer (Instr.sample p t).wf (s.issueRow p t 7 1 actSample)

def actScaleFlag (p : Nat) (t : Sid) (s : State) (w : Nat) : State :=
  let s := s.consume p t w
  let s := if (s.part p).run.flagTaken.isNone then s.modRun p fun r => { r with flagWord := r.flagWord ||| 32 } else s
  s.signalAtIssue p w

def execScaleFlag (p : Nat) (t : Fetch) (s : State) : Host.Outcome State Fault Refusal :=
  answer (Instr.scaleFlag p t).wf (s.issueRow p t 7 2 actScaleFlag)

/-! ## Completions (R32, R53, R62, R105, R145, R186) -/

/-- Completion of an outstanding instruction of a class when its work is done. -/
def State.completeIf (s : State) (p : Nat) (t : Sid) (n c : Nat) (done : OutInsn → Bool) (after : State → OutInsn → State) : State :=
  match s.outInsn p t n with
  | some o => if o.cls = c && done o then after (s.complete p t n) o else s
  | none => s

/-- A pass with emit = 0 is done once it has been accumulated, whether or not its chain is open (R62). -/
def execHearthPassDone (p : Nat) (t : Sid) (n : Nat) (s : State) : Host.Outcome State Fault Refusal :=
  answer (Instr.hearthPassDone p t n).wf
    (s.completeIf p t n 1 (fun o => (s.hearthsOf p).all fun h => !(s.hearth h).holds o.id) fun s _ => s)

def execTemperLaunchDone (p : Nat) (t : Sid) (n : Nat) (s : State) : Host.Outcome State Fault Refusal :=
  answer (Instr.temperLaunchDone p t n).wf (s.completeIf p t n 2 (fun o => (s.hearthsOf p).all fun h => !(s.temper h).holds o.id) fun s _ => s)

def execTongsDone (p : Nat) (t : Sid) (n : Nat) (s : State) : Host.Outcome State Fault Refusal :=
  answer (Instr.tongsDone p t n).wf (s.completeIf p t n 3 (fun o => s.tongsIdle p t o.id) fun s o => s.tongsDrop p t o.id)

def execCollDone (p : Nat) (t : Sid) (n : Nat) (s : State) : Host.Outcome State Fault Refusal :=
  answer (Instr.collDone p t n).wf (s.completeIf p t n 4 (fun o => match (s.part p).coll.op o.id with | some k => k.done || k.abandoned | none => true) fun s _ => s)

/-- Is a PUSH written and acknowledged, and every earlier PUSH of its queue announced (R53, R225)? -/
def State.pushReady (s : State) (p : Nat) (t : Sid) (o : OutInsn) : Bool :=
  !s.awaits p (fun k => match k with | .push q n => q == o.operand % 256 && n == o.id | _ => false) &&
  (s.seq p t).out.all fun x => x.cls != 6 || x.operand % 256 != o.operand % 256 || o.id ≤ x.id

/-- Slots that the producer has announced and got no credit for: the full ones as it sees them (Table 02-7; log entry 95). -/
def ActQ.outFull (x : ActQ) : Nat := aqCount x.desc - x.credits - x.writing

/-- A PUSH's slot is announced full. -/
def State.announcePush (s : State) (p : Nat) (o : OutInsn) : State :=
  match (s.part p).actq (o.operand % 256) with
  | some (i, x) => (s.modActq p i fun y => let y := { y with writing := y.writing - 1 }; { y with hwm := max y.hwm y.outFull }).send p (queueMsg x.desc (s.part p).run.epoch true) .none
  | none => s

def execPushDone (p : Nat) (t : Sid) (n : Nat) (s : State) : Host.Outcome State Fault Refusal :=
  answer (Instr.pushDone p t n).wf (s.completeIf p t n 6 (s.pushReady p t) fun s o => s.announcePush p o)

/-- Does a condition that blocked a stream still hold? -/
def State.stillBlocked (s : State) (p : Nat) (t : Sid) (b : Block) : Bool :=
  let q := s.seq p t
  let word := fun (f : Nat → Bool) => (s.fetch p t q.pc).any f
  let queue := fun (f : ActQ → Bool) => word fun w => ((s.part p).actq (siOperand w % 256)).any fun x => f x.2
  match b with
  | .token => (match q.group with
    | some g => if g.cur.isNone then (s.readyBlock p t g).isNone else word fun w => !s.waitMet p t w
    | none => word fun w => !s.waitMet p t w)
  | .credit => queue fun x => x.credits == 0
  | .slot => queue fun x => x.full == 0
  | .full => 32 ≤ q.out.length
  | .stat => !(s.part p).coll.statsDone

/-- A stream that stays beyond the wait limit in one of the conditions of R35, or at a STEP_END that waits for statistics (R199), is a fault naming
the stream, the layer and the condition: in the record's detail the stream in bits 7:4 and the condition's number in bits 3:0 (DESIGN CHOICE, log
entry 119). Between the blocks of a group the layer is that of the word after the last BLOCK_END (DESIGN CHOICE, log entry 85). -/
def doStreamHang (p : Nat) (t : Sid) (s : State) : State :=
  let q := s.seq p t
  match q.blocked with
  | none => s
  | some (b, k) =>
    if !s.stillBlocked p t b then s.unblock p t
    else if s.seqRuns p t && s.waitLimit p < s.tick - k then
      let c : Nat := match b with | .token => 0 | .credit => 1 | .slot => 2 | .full => 3 | .stat => 4
      (s.modSeq p t fun q => { q with blocked := some (b, s.tick) }).raise
        { recPart p sevPart 0x22 with layer := siLayer ((s.fetch p t q.pc).getD 0), detail := pack [(4, sidIx t), (4, c)] }
    else s

def execStreamHang (p : Nat) (t : Sid) (s : State) : Host.Outcome State Fault Refusal :=
  answer (Instr.streamHang p t).wf (doStreamHang p t s)

/-! ## Messages of the activation queues (R53, R54) -/

/-- A message of a queue accepted by a partition: its end in the role given, stale epochs dropped and counted. -/
def State.queueEvent (s : State) (pkt : HtPkt) (queue epoch : Nat) (consumer : Bool) (f : ActQ → ActQ) : State :=
  if pkt.op ≠ 1 then s
  else match s.receive [6] pkt with
    | (s, none) => s
    | (s, some p) =>
      let s := ((s.dataArrived p pkt).bufErrors p pkt).ackIfDue p pkt.srcModule pkt.srcPart
      if !pkt.bufBad.isEmpty then s
      else match (s.part p).actq queue with
      | some (i, x) =>
        if aqConsumer x.desc ≠ consumer ∨ aqMod x.desc ≠ pkt.srcModule ∨ aqPart x.desc ≠ pkt.srcPart then s
        else if epochOlder epoch (s.part p).run.epoch then (s.modActq p i fun y => { y with stale := y.stale + 1 }).count .staleNotice
        else (s.modActq p i f).actMark p
      | none => s

def execActqCredit (pkt : HtPkt) (queue epoch : Nat) (s : State) : Host.Outcome State Fault Refusal :=
  answer true (s.queueEvent pkt queue epoch false fun y => if y.credits < aqCount y.desc then { y with credits := y.credits + 1 } else y)

def execActqFullNotice (pkt : HtPkt) (queue epoch : Nat) (s : State) : Host.Outcome State Fault Refusal :=
  answer true (s.queueEvent pkt queue epoch true fun y => if y.full + y.popped < aqCount y.desc then { y with full := y.full + 1, hwm := max y.hwm (y.full + 1) } else y)

end Sys2Proof.Machine
end

