-- ==== Sys2Proof/Machine/Mailbox.lean ====
section
/-! DEFINITION. Mailboxes: the header, completion, and the commands that a discard returns (R332-R335, R327). -/

namespace Sys2Proof.Machine

/-- A number with its field `[hi:lo]` set. -/
def setField (n hi lo v : Nat) : Nat := n - bits n hi lo * 2 ^ lo + v % 2 ^ (hi + 1 - lo) * 2 ^ lo

/-! ## `MBX_HDR` (Table 15-1) -/

def mbxBase (m : Nat) : Nat := m * 0x1000
def bulkBase (m : Nat) : Nat := 0x1200000 + 0x4000 * m

/-- The header of a mailbox. -/
def State.mbxHdr (s : State) (m : Nat) : Nat := leNat (s.get4 (mbxBase m) 64)
def State.putHdr (s : State) (m h : Nat) : State := s.put4 (mbxBase m) (leBytes 64 h)

def mhTarget (h : Nat) : Nat := bits h 399 384
def mhOpcode (h : Nat) : Nat := bits h 383 368
def mhVer (h : Nat) : Nat := bits h 367 360
def mhArgLen (h : Nat) : Nat := bits h 351 336
def mhArgBulk (h : Nat) : Bool := bit h 319
def mhOwn (h : Nat) : Nat := bits h 31 0

/-- The ownership word (Table 15-2). -/
def State.own (s : State) (m : Nat) : Nat := mhOwn (s.mbxHdr m)

/-- Does the smith own a mailbox by its word: POSTED or TAKEN? -/
def State.smithHas (s : State) (m : Nat) : Bool := s.own m == 1 || s.own m == 2

/-- Arguments of a mailbox's command: the inline bytes, or the bulk buffer. -/
def State.mbxArgs (s : State) (m : Nat) : List Byte :=
  let h := s.mbxHdr m
  let n := min (mhArgLen h) 16384
  if mhArgBulk h then s.get4 (bulkBase m) n else s.get4 (mbxBase m + 0x40) (min n 4032)

/-- Statuses (Table 15-3). -/
def stOK : Nat := 0
def stBUSY : Nat := 1
def stDISCARDED : Nat := 2
def stREJECTED : Nat := 3
def stDENIED : Nat := 4
def stUNSUPPORTED : Nat := 5
def stVERSION : Nat := 6

/-- The partition that a command in mailbox `m` applies to (R337). -/
def State.mbxFor (s : State) (m : Nat) : Nat := match mbxPart s.nparts m with
  | some p => p
  | none => let t := mhTarget (s.mbxHdr m); if 0x6000 ≤ t ∧ t < 0x6000 + s.nparts then t - 0x6000 else 0

/-- A command completes: its response, then status, resp_len and step_seen, and last the ownership word (R332, R335). -/
def State.finishMbx (s : State) (m status : Nat) (resp : List Byte) (errOff : Nat) : State :=
  let bulk := 4032 < resp.length
  let s := if resp.isEmpty then s else if bulk then s.put4 (bulkBase m) resp else s.put4 (mbxBase m + 0x40) resp
  let h := s.mbxHdr m
  let h := setField h 447 400 (s.part (s.mbxFor m)).run.step
  let h := setField h 359 352 status
  let h := setField h 335 320 resp.length
  let h := setField h 318 318 (b01 bulk)
  let h := setField h 317 302 errOff
  let h := setField h 31 0 3
  { s.putHdr m h with observed := s.observed.filter (· != m), smithOwns := s.smithOwns.filter (· != m) }

/-- Opcodes that the query path answers (R334). -/
def isQuery (op : Nat) : Bool := op == 0x0101 || op == 0x0503

/-- Commands of partition `p` that have not reached their commit point return DISCARDED; the query path goes on answering
(R325-R327, R334). -/
def State.discardMbx (s : State) (p : Nat) : State :=
  s.each ((List.range 64).filter fun m => mbxPart s.nparts m == some p && s.smithHas m && !isQuery (mhOpcode (s.mbxHdr m)) && s.power.moveMbx != some m)
    fun s m => s.finishMbx m stDISCARDED [] 0xFFFF

end Sys2Proof.Machine
end

