-- ==== Sys2Proof/Machine/Audit.lean ====
section
/-! DEFINITION. The audit of the device books (R28, R328, Table 14-10). -/

namespace Sys2Proof.Machine

/-- A BOOK_IMBALANCE record: the row, and the shortfall (note a of Table 14-6). -/
def bookRec (r : FaultRec) (row short : Nat) : FaultRec := { r with code := 0x80, detail := pack [(56, short % 2 ^ 56), (8, row)] }

/-- How far a sum is from its total. -/
def shortfall (total sum : Nat) : Nat := (total - sum) + (sum - total)

/-! ## The books -/

/-- Row 7: entries of a crucible die's remap table, free or in use. -/
def Scrub.book (x : Scrub) (c : Nat) : Nat := x.freeEnts.getD c 0 + (x.remaps.getD c []).length

/-- Row 8: does the smith's record agree with the ownership words? -/
def State.mbxBook (s : State) : Bool := (List.range 64).all fun m => s.smithHas m == s.smithOwns.contains m

/-- Power share of a partition in 1/4,096; all zero gives each an equal one (R339). -/
def shareOf (cfg p : Nat) : Nat := if bits cfg 191 128 = 0 then 4096 / countOf cfg else bits cfg (128 + 16 * p + 15) (128 + 16 * p)

/-- Forge dies of partition `p` of `n`. -/
def diesOf (n p : Nat) : List Nat := (List.range 16).filter fun d => diePart n d == p

/-- Row 9: grants held, being withdrawn and free make the module's limit, and those of a partition's dies do not exceed its share (log entry 39). -/
def State.grantSum (s : State) : Nat := s.power.grants.sum + s.power.leaving.sum + s.power.freeGrant
def State.grantOf (s : State) (p : Nat) : Nat := ((diesOf s.nparts p).map fun d => s.power.grants.getD d 0).sum
def State.grantOver (s : State) (p : Nat) : Bool := 4400 * shareOf s.cfgWord p < s.grantOf p * 4096
def State.grantBook (s : State) : Bool := s.grantSum == 4400 && (List.range s.nparts).all fun p => !s.grantOver p

/-- Row 9 out of balance: every die to its floor, and UCE_DEV at the second audit (Table 14-10). -/
def State.auditGrants (s : State) : State :=
  if s.grantBook then s.modHub fun h => { h with row9 := false }
  else
    let s := s.each (List.range s.nparts) fun s p => s.modDuty p fun d => { d with n := 1 }
    if s.hub.row9 then (s.raise (bookRec (recDev sevDev 0) 9 (shortfall 4400 s.grantSum))) else s.modHub fun h => { h with row9 := true }

/-- Row 2 out of balance: a logic fault of the hearth (R72). -/
def State.bookFault (s : State) (h : Nat) : State := s.raise (bookRec (recHearth (hearthPart s.nparts h) h sevPart 0) 2 (shortfall 16 (s.hearth h).slots))

/-- The partition's books that may never be out of balance, audited by the drain: rows 2 and 6 (R72, R281, R286, R328). -/
def State.auditPart (s : State) (p : Nat) : State :=
  let s := s.each ((s.hearthsOf p).filter fun h => !(s.hearth h).book) fun s h => s.bookFault h
  s.each ((enum s.cipher.slots).filter fun x => slotPart s.nparts x.1 == p && x.2.limit < x.2.used) fun s x => doKeyFault x.1 .counterTwo s

/-- The audit of rows 7, 8, 9, 11 and 12. -/
def State.audit (s : State) : State :=
  let s := s.each [0, 1] fun s c =>
    if s.scrub.book c = 64 then s
    else s.each (diePartsCru s.nparts c) fun s p => s.raise (bookRec { recPart p sevPart 0 with resClass := 3, resIndex := c } 7 (shortfall 64 (s.scrub.book c)))
  let s := if s.mbxBook then s
    else
      let own := (List.range 64).filter fun m => s.smithHas m
      { s.raise (bookRec { recDev sevDef 0 with resClass := 13 } 8 (shortfall own.length s.smithOwns.length)) with smithOwns := own }
  let s := s.auditGrants
  let s := if s.hub.book then s else s.raise (bookRec { recDev sevFatal 0 with resClass := 13, resIndex := 2 } 11 (shortfall 64 (s.hub.free + s.hub.open_.length)))
  if s.cipher.book then s else s.raise (bookRec { recDev sevDev 0 with resClass := 11 } 12 (shortfall 128 s.cipher.entries))

end Sys2Proof.Machine
end

