-- ==== Sys2Proof/Machine/Recover.lean ====
section
/-! DEFINITION. Discards, buddy images and restores, losses and rollbacks, leaving a job, and partition resets (R27, R50,
R171-R176, R202, R231-R235, R324-R327, R342). -/

namespace Sys2Proof.Machine

/-! ## Entries and control packets (R231-R233) -/

/-- Partitions that an entry's part_mask names. -/
def entParts (e : Nat) : List Nat := (List.range 4).filter fun q => (rePartMask e).testBit q

/-- Lowest partition that the entry of a module names. -/
def Fabric.lowPart (f : Fabric) (m : Nat) : Nat := match f.entry m with
  | some (_, e) => (entParts e).headD 0
  | none => 0

/-- The partitions of a module in this island. -/
def Fabric.partsOf (f : Fabric) (m : Nat) : List Nat := match f.entry m with
  | some (_, e) => entParts e
  | none => []

/-- The island coordinator: the lowest-index ACTIVE entry (R232). -/
def Fabric.coordinator (f : Fabric) : Option Nat := (f.idsIn [1]).head?

/-- Payload of a ROUTE_UPD: lost ID, its new gen, two zero bytes, locator, the spare's old ID (log entry 35). -/
def routeUpdBytes (lost gen locator spare : Nat) : List Byte := leBytes 4 lost ++ leBytes 2 gen ++ leBytes 2 0 ++ leBytes 4 locator ++ leBytes 4 spare

/-- Is this partition the island coordinator? -/
def State.isCoordinator (s : State) (p : Nat) : Bool :=
  let f := (s.part p).fab
  f.coordinator == some s.moduleId && f.lowPart s.moduleId == p

/-- A CONTROL packet sent reliably. -/
def State.control (s : State) (p op m q : Nat) (payload : List Byte) (o : Owner) : State :=
  s.send p { type := 0x0B, op := op, dstModule := m, dstPart := q, payload := payload } o

/-- Every partition of the entries in the states given, but this one. -/
def State.others (s : State) (p : Nat) (sts : List Nat) : List (Nat × Nat) :=
  let f := (s.part p).fab
  ((f.idsIn sts).flatMap fun m => match f.entry m with
    | some (_, e) => (entParts e).map fun q => (m, q)
    | none => []).filter (· != (s.moduleId, p))

/-- A CONTROL packet to all of them. -/
def State.controlAll (s : State) (p op : Nat) (sts : List Nat) (payload : List Byte) (o : Owner) : State :=
  s.each (s.others p sts) fun s (m, q) => s.control p op m q payload o

def idBytes (l : List Nat) : List Byte := l.flatMap (leBytes 4)

/-- An entry set LOST (R232). -/
def Fabric.markLost (f : Fabric) (m : Nat) : Fabric := match f.entry m with
  | some (i, e) =>
    if reState e = 2 then f
    else { f.setEntry i (reWith e (reLocator e) (reGen e) 2) with lostList := if reState e = 1 then (f.lostList ++ [m]).eraseDups else f.lostList }
  | none => f

/-- A module set LOST: what has not been sent to it is dropped, and what waited for that goes on (R21, R149, R157, R232). -/
def State.lose (s : State) (p m : Nat) : State :=
  let gone := (s.part p).fab.chans.flatMap fun c => if c.mod = m then c.waiting else []
  let s := s.modFab p fun f => { (f.markLost m).strip fun c _ => c.mod == m with held := f.held.filter fun k => k.dstModule != m }
  s.each gone fun s x => s.ownerLost p x.1 x.2

/-- Lost IDs whose LOSS a module has not acknowledged. -/
def Fabric.owed (f : Fabric) (m : Option Nat) : List Nat :=
  f.chans.flatMap fun c => if m.all (· == c.mod) then (c.out.map (·.owner) ++ c.waiting.map (·.2)).flatMap fun o => match o with | .loss l => l | _ => [] else []

/-! ## Heartbeats (R231) -/

/-- Watched entries: the two nearest ACTIVE ones below and above in ring order. -/
def Fabric.watched (f : Fabric) (self : Nat) : List Nat :=
  let l := (f.idsIn [1]).filter (· != self)
  let ring := l.filter (fun x => self < x) ++ l.filter (fun x => x < self)
  (ring.take 2 ++ (ring.drop (ring.length - 2))).eraseDups

/-- State code of a heartbeat. -/
def stateCode : UnitSt → Nat
  | .absent => 0
  | .reset => 1
  | .ready => 2
  | .active => 3
  | .draining => 4
  | .recovering => 5
  | .offline => 6
  | .limited => 7

/-- HEARTBEAT with a state code, on every usable, up plane, to every partition of every watched entry. -/
def State.heartbeats (s : State) (p code : Nat) : State :=
  let f := (s.part p).fab
  let r := (s.part p).run
  s.each (f.watched s.moduleId) fun s m => s.each (f.partsOf m) fun s d => s.each (s.upPlanes p) fun s q =>
    s.emitHall p { type := 0x0A, dstModule := m, dstPart := d, routeGen := f.genOf m, connGen := (f.chan m d).connGen
                   payload := leBytes 6 r.step ++ leBytes 4 r.round ++ leBytes 1 code ++ leBytes 1 0 } q

/-- LEFT sent where a plane is usable (R231). -/
def State.sendLeft (s : State) (p : Nat) : State := s.heartbeats p 0x80

/-! ## Groups and aborts (R201-R203) -/

/-- The group of the deciding FLAG; before one has issued, the first group of the job (log entry 22). -/
def State.flagGroup (s : State) (p : Nat) : Option Nat :=
  let first := (((s.part p).job.map (·.groups)).getD []).head?
  match (s.part p).coll.deciding with
  | some (g, _) => (s.group p g).orElse fun _ => first
  | none => first

/-- Occurrence of the deciding FLAG in its group. -/
def Coll.decidingOcc (c : Coll) (g : Nat) : Nat := match c.deciding with
  | some (k, o) => if k = cgId g then o else 0
  | none => 0

/-- Operations, carries and held segments cleared (R209). -/
def Coll.dropped (c : Coll) : Coll := { c with ops := [], carries := [], early := [], roots := [], counts := [], recs := [] }

/-! ## Buddy images (R171-R173) -/

def mdBase (m : Nat) : Nat := bits m 255 192
def mdBytes (m : Nat) : Nat := bits m 191 152
def mdMod (m : Nat) : Nat := bits m 151 132
def mdPart (m : Nat) : Nat := bits m 131 130
def mdRole (m : Nat) : Nat := bits m 129 128

/-- The mirror entry of a role. -/
def State.mirror (s : State) (p role : Nat) : Option Nat := (((s.part p).job.map (·.mirrors)).getD []).find? fun m => mdRole m == role

def State.shards (s : State) (p : Nat) : List Nat := ((s.part p).job.map (·.shards)).getD []

/-- Bytes of a shard in an image, and of a whole image (R172). -/
def shardImage (d : Nat) : Nat := roundUp (udEnd d) 4096
def imageSize (shards : List Nat) : Nat := 17 * 4096 + (shards.map shardImage).sum

/-- `MIRROR_HDR` (Table 08-8). -/
def mkMirrorHdr (round step epoch m q count : Nat) (valid : Bool) : Nat :=
  pack [(32, round), (48, step), (16, epoch), (20, m), (2, q), (17, count), (1, b01 valid), (120, 0)]

/-- The last step before the present round (R172). -/
def Run.before (r : Run) : Nat := r.roundStep - 1

/-- Page 0 of the partition's image. -/
def State.imageHead (s : State) (p : Nat) (valid : Bool) : List Byte :=
  let r := (s.part p).run
  leBytes 4096 (mkMirrorHdr r.round r.before r.epoch s.moduleId p (s.shards p).length valid)

/-- `SCALE_HIST` pages: the round-start entries in ascending tensor (R172). -/
def State.imageHist (s : State) (p : Nat) : List Byte :=
  let l := sortBy histTensor (s.part p).pyro.snapshot
  padTo 65536 0#8 (l.flatMap (leBytes 16))

/-- Active generation of a shard as voted; 0 where no two copies agree. -/
def State.activeGen (s : State) (d : Nat) : Nat := match s.genVote d with
  | some (w, _) => sgActive w
  | none => 0

/-- Local ranges of an image's shards: where each lies and its bytes. -/
def State.imageRanges (s : State) (p : Nat) : List (Nat × Nat) := (s.shards p).map fun d => (udBase d (s.activeGen d), shardImage d)

/-- Byte offset of each shard in an image. -/
def imageOffsets (shards : List Nat) : List Nat := (shards.foldl (fun (a : List Nat × Nat) d => (a.1 ++ [a.2], a.2 + shardImage d)) ([], 17 * 4096)).1

/-- The local copy refreshed: its header valid only at the end (R173). -/
def State.refreshLocal (s : State) (p : Nat) : State :=
  match s.mirror p 2 with
  | none => s
  | some m =>
    let base := gLocal (mdBase m)
    let s := s.trySave base (s.imageHead p false) []
    let s := s.trySave (base + 4096) (s.imageHist p) []
    let s := s.each ((s.imageRanges p).zip (imageOffsets (s.shards p))) fun s ((a, n), off) => let (bs, ms) := s.tryLoad a n; s.trySave (base + off) bs ms
    s.trySave base (s.imageHead p true) []

/-- Bytes of the hosted image written, their acknowledgements awaited. -/
def State.imageWrite (s : State) (p off : Nat) (bs : List Byte) (mk : List Bool) : State :=
  match s.mirror p 0 with
  | none => s
  | some m =>
    let (s, n) := s.remoteWrite p (mdBase m + off) bs mk .image
    s.modPart p fun q => { q with imagePend := q.imagePend + n }

/-- The refresh moves to its next stage when the writes of the last are acknowledged (R173). -/
def State.imageAdvance : Nat → Nat → State → State
  | 0, _, s => s
  | n + 1, p, s =>
    let q := s.part p
    if q.imagePend ≠ 0 ∨ q.imageStage = 0 ∨ 3 ≤ q.imageStage then s
    else
      let s := s.modPart p fun q => { q with imageStage := q.imageStage + 1 }
      let s := if q.imageStage = 1 then
          let s := s.imageWrite p 4096 (s.imageHist p) []
          s.each ((s.imageRanges p).zip (imageOffsets (s.shards p))) fun s ((a, k), off) => let (bs, ms) := s.tryLoad a k; s.imageWrite p off bs ms
        else s.imageWrite p 0 (s.imageHead p true) []
      imageAdvance n p s

/-- An image refresh starts: valid = 0 on every copy first (R173). Where a shard's generation is undetermined there is no image to make: the
refresh waits for what its record leads to (R167). -/
def State.startRefresh (s : State) (p : Nat) : State :=
  let s := (s.hold p .refresh).modColl p fun c => { c with anchorFrom := some s.tick }
  let s := s.modPart p fun q => { q with imageValid := false, imagePend := 0, imageStage := 1 }
  let (s, ok) := s.voteShards p (s.shards p)
  if !ok then s.modPart p fun q => { q with imageStage := 9 }
  else
  let s := s.refreshLocal p
  if (s.mirror p 0).isNone then s.modPart p fun q => { q with imageStage := 3 }
  else (s.imageWrite p 0 (s.imageHead p false) []).imageAdvance 3 p

/-! ## The all-gather after a restore (R174) -/

/-- GATHERs of weight tensors in the update stream's program, in order of their words: those that the end of a step makes (log entry 102). -/
def State.weightGathers (s : State) (p : Nat) : List Nat :=
  let (e, n) := ((((s.part p).job).map (·.streams)).getD []).getD 2 (0, 0)
  (((List.range n).map fun i => s.word (gLocal e + 16 * i) 16).filterMap fun w =>
    let d := s.word (gLocal (siOperand w)) 32
    if siClass w = 4 ∧ siOp w = 1 ∧ cdTensor d ≠ 0xFFFF ∧ s.collOk p 1 d then some d else none).eraseDups

/-- The restored working copies are all-gathered as at the end of a step (R174). -/
def State.startGather (s : State) (p : Nat) : State :=
  let ds := s.weightGathers p
  let s := s.modColl p fun c => { c with ops := [], counts := [], recs := [] }
  if ds.isEmpty then s.unhold p .gather
  else
    let s := s.each (enum ds) fun s (k, d) => match s.group p (cdGroup d) with
      | some g => s.collPlace p (2 ^ 48 + k) 1 d g false
      | none => s
    s.each (List.range ds.length) fun s k => s.collStart p (2 ^ 48 + k)

/-! ## Restores (R174, R175) -/

/-- Image header checks: valid, and round, epoch, owner and shard_count as expected. -/
def State.mirrorOk (s : State) (p h : Nat) : Bool :=
  let r := (s.part p).run
  bit h 120 && bits h 255 224 == r.round && bits h 175 160 == r.epoch && bits h 159 140 == s.moduleId && bits h 139 138 == p &&
    bits h 137 121 == (s.shards p).length

/-- The committed generation, as voted, kept in generation 1, so that generation 0 can take the round start (log entry 23). Where no two copies
agree it is undetermined, and the rollback that the record asks for is this one (R167). -/
def State.keepCommitted (s : State) (p d : Nat) : State := match s.voteGen p d with
  | (s, some w) => if sgActive w = 1 then s else s.saveMarked (udBase d 1) (s.bytes (udBase d 0) (udEnd d)) (s.byteMarks (udBase d 0) (udEnd d))
  | (s, none) => s.raise { recPart p sevPart 0x0A with addr := udGen d }

/-- Generation 0 made current for the step before the round, and the working copy re-derived (R167, R174; a round that starts at step 0:
log entry 24). -/
def State.adopt (s : State) (p d : Nat) : State :=
  let s := s.writeGen d (mkGen (s.part p).run.before 0 false)
  s.rederive d 0 (gLocal (udWork d))

/-- Where a shard's round-start working values lie: the working copy that a peer gave during the hold, else the owner's snapshot (R175). -/
def State.roundStart (s : State) (p d : Nat) (peer : Bool) : Option Nat :=
  let q := s.part p
  if peer then some (gLocal (udWork d))
  else match q.outer.cfg, q.outer.slabOf (udWork d) with
    | some _, some (_, x) => some (gLocal (osSnap x.desc q.run.round) + (udWork d - osWork x.desc))
    | _, _ => none

/-- A degraded restore of one shard: masters widened from the round-start working values, moments of the committed generation or zero, each
with the mark of what it comes from (R175, R308). Without such values the last component is false. -/
def State.degrade (s : State) (p d : Nat) (own peer : Bool) : State × Bool :=
  let s := (s.raise { recPart p sevDef (Config.faultCode 175) with addr := udElem d, detail := udTensor d }).modRun p fun r => { r with reproRound := true }
  match s.roundStart p d peer with
  | some la =>
    let ws := s.workVals (udFmt d) la (udCount d)
    let n := udCount d * udRec d
    let ms := if own then (splitRecs (udKind d) (s.bytes (udBase d 1) n)).2 else List.replicate (udCount d) f32Zero
    let tail := if own then s.bytes (udBase d 1 + n) (udEnd d - n) else List.replicate (udEnd d - n) 0#8
    let mk := (enum (s.elemMarks la 2 (udCount d))).flatMap fun (k, b) =>
      List.replicate 4 b ++ (if udKind d = 1 then [] else List.replicate 4 (own && s.marked (udBase d 1 + 8 * k + 4) 4))
    let s := s.saveMarked (udBase d 0) (joinRecs (udKind d) ws ms ++ tail) (mk ++ if own then s.byteMarks (udBase d 1 + n) (udEnd d - n) else [])
    (s.adopt p d, true)
  | none => (s, false)

/-- Degraded restores of the shards named; one that cannot be restored stops the job with UCE_DEV (R175; log entry 103). -/
def State.degradeAll (s : State) (p : Nat) (ds : List Nat) (own peer : Bool) : State :=
  let (s, ok) := ds.foldl (fun (a : State × Bool) d => let (t, b) := a.1.degrade p d own peer; (t, a.2 && b)) (s, true)
  if ok then s else s.raise (recPart p sevDev (Config.faultCode 175))

/-- The scale histories of an image (R174). -/
def Pyro.restoreFrom (q : Pyro) (l : List Nat) : Pyro :=
  l.foldl (fun q h => match q.find (histTensor h) with
    | some (i, _) => q.modTrack i fun t => t.withHist h
    | none => q) { q.restore with snapshot := l }

/-- A restore from the local copy (Table 08-9): shards with a mark are degraded. -/
def State.restoreLocal (s : State) (p base : Nat) : State :=
  let pairs := (s.shards p).zip (imageOffsets (s.shards p))
  let bad := pairs.filter fun x => s.marked (base + x.2) (shardImage x.1)
  let s := s.each (pairs.filter fun x => !s.marked (base + x.2) (shardImage x.1)) fun s (d, off) =>
    (s.store (udBase d 0) (s.bytes (base + off) (udEnd d)) false).adopt p d
  s.degradeAll p (bad.map (·.1)) true false

/-- Pages of an image, then the copies of outer state, asked for while landing space lasts (R227). -/
def State.askRestore : Nat → Nat → State → State
  | 0, _, s => s
  | n + 1, p, s =>
    match (s.part p).restore with
    | none => s
    | some r =>
      if r.header = 0 ∧ 0 < r.next then s
      else if s.poolFree p < 4096 then s
      else
        let go := fun (g k : Nat) => match s.remotePart p g k with
          | some q => (s.modPart p fun y => { y with restore := some { r with next := r.next + 1 } }).remoteRead p q g k (.restore r.next)
          | none => s.modPart p fun y => { y with restore := some { r with next := r.next + 1, landed := r.landed + 1 } }
        if r.next < r.total then askRestore n p (go (r.base + 4096 * r.next) 4096)
        else match r.copies[r.next - r.total]? with
          | some (g, _, k) => askRestore n p (go g k)
          | none => s

/-- Requests enough for a whole restore. -/
def Restore.fuel (r : Restore) : Nat := r.total + r.copies.length + 1

/-- A restore as it starts again from its first piece (R150). -/
def Restore.again (r : Restore) : Restore :=
  if r.total = 0 then { r with next := 0, landed := 0 } else { r with next := 0, landed := 0, header := 0, hist := [], bad := [] }

/-- A restore that a discard interrupted is asked for again (R150). -/
def State.redoRestore (s : State) (p : Nat) : State := match (s.part p).restore with
  | some r => if r.next = 0 then State.askRestore r.fuel p s else s
  | none => s

/-- A restore from the host of the image begins with its header (R174). -/
def State.restoreRemote (s : State) (p base : Nat) (own : Bool) (copies : List (Nat × Nat × Nat)) : State :=
  let r : Restore := { base := base, total := imageSize (s.shards p) / 4096, next := 0, own := own, copies := copies }
  State.askRestore r.fuel p (s.modPart p fun q => { q with restore := some r })

/-- Outer configuration of a partition: the fields, and the islands. -/
def State.roundCfg (s : State) (p : Nat) : Option Nat := (s.part p).outer.cfg

/-- Steps per round in force (R48). -/
def State.roundLen (s : State) (p : Nat) : Nat := match s.roundCfg p with
  | some c => rcH c
  | none => jpHLocal (s.params p)

/-- First step of a round of the job (R48). -/
def State.firstOf (s : State) (p r : Nat) : Nat :=
  let j := s.params p
  let h := s.roundLen p
  if r ≤ jpRound0 j then jpStep0 j else (jpStep0 j / h + (r - jpRound0 j)) * h

/-- Does a spare come to an island that was lost a member in the hold of R173: has a header named the round after the rolled-back one, or a
peer's heartbeat (R173, R175, R231; DEDUCED, log entry 130)? -/
def State.inHold (s : State) (p h : Nat) : Bool :=
  let f := (s.part p).fab
  bits h 255 224 == f.rollRound + 1 || f.peers.any fun x => x.2.2.1 == f.rollRound + 1

/-- Working copies of these shards as a peer holds them: source, destination, bytes. -/
def State.peerWork (s : State) (p : Nat) (ds : List Nat) : List (Nat × Nat × Nat) :=
  match ((s.part p).fab.idsIn [1]).find? (· != s.moduleId) with
  | some m => ds.flatMap fun d => (piecesOf (gLocal (udWork d)) (2 * udCount d)).map fun (la, k) => (m * 2 ^ 44 + la, la, k)
  | none => []

/-- Marked shards of a spare restored in the hold: the working copies of a peer are asked for (R175). -/
def State.askPeer (s : State) (p : Nat) (r : Restore) (ds : List Nat) : State :=
  let work := s.peerWork p ds
  let r := { r with copies := r.copies ++ work, peer := true }
  State.askRestore r.fuel p (s.modPart p fun q => { q with restore := some r })

/-- A restore that has all its pages ends: whole shards are adopted, marked ones degraded (R174). -/
def State.finishRestore (s : State) (p : Nat) : State :=
  match (s.part p).restore with
  | none => s
  | some r =>
    if r.landed < r.total + r.copies.length then s
    else if !r.moved.isEmpty then
      let s := s.each r.moved fun s d => (s.writeGen d (mkGen ((s.part p).run.step - 1) 0 false)).rederive d 0 (gLocal (udWork d))
      s.modPart p fun q => { q with restore := none }
    else
      let ds := s.shards p
      let isBad := fun (d : Nat) => r.bad.contains ((ds.takeWhile (· != d)).length)
      if ds.any isBad && !r.own && !r.peer && s.inHold p r.header && !(s.peerWork p (ds.filter isBad)).isEmpty then s.askPeer p r (ds.filter isBad)
      else
      let s := s.modPyro p fun y => if r.total ≠ 0 then y.restoreFrom r.hist else if r.own then y else y.snap
      let s := s.each (ds.filter fun d => !isBad d) fun s d => s.adopt p d
      let s := s.degradeAll p (ds.filter isBad) r.own r.peer
      s.modPart p fun q => { q with restore := none }

/-- An all-gather of the working copies that waits for the partition's own restore starts when that has ended (R174). -/
def State.gatherNext (s : State) (p : Nat) : State :=
  if (s.part p).restore.isNone && (s.part p).run.holds.contains .gather && !(s.part p).run.holds.contains .rollback && (s.part p).coll.ops.isEmpty then s.startGather p else s

/-- The refresh that follows a layout's moves (R205). -/
def State.refreshNext (s : State) (p : Nat) : State :=
  if (s.part p).restore.isSome then (s.hold p .refresh).modPart p fun q => { q with imageStage := 8 } else s.startRefresh p

/-- Moves over, the refresh that waits for them starts. -/
def State.refreshDue (s : State) (p : Nat) : State :=
  if (s.part p).restore.isNone ∧ (s.part p).imageStage = 8 then s.startRefresh p else s

/-- Shards new to the partition are read into generation 0 from where a free value says that their state lies (R205; log entry 29). -/
def State.startMoves (s : State) (p : Nat) (ds : List Nat) : State :=
  if ds.isEmpty then s
  else
    let src := (enum ds).flatMap fun (i, d) => (piecesOf (udBase d 0) (udEnd d)).map fun (la, k) => (Config.moveSource (s.free + i) + (la - udBase d 0), la, k)
    let r : Restore := { base := 0, header := 1, total := 0, next := 0, copies := src, moved := ds }
    (State.askRestore r.fuel p { s.modPart p (fun q => { q with restore := some r }) with free := s.free + ds.length }).finishRestore p

/-- A restore without an image: every shard degraded, at a spare once the copies of outer state have come, and during the hold of R173 the
working copy of a peer (R175; log entry 103). -/
def State.restoreDegraded (s : State) (p : Nat) (r : Restore) (hold : Bool) : State :=
  let ds := s.shards p
  let work := if hold then s.peerWork p ds else []
  let n := (s.part p).fab.rollRound + 1
  let s := if hold then s.modRun p fun x => { x with round := n, step := s.firstOf p n, roundStep := s.firstOf p n } else s
  let r : Restore := { r with header := 1, total := 0, next := 0, landed := 0, bad := List.range ds.length, copies := work ++ r.copies, peer := !work.isEmpty }
  (State.askRestore r.fuel p (s.modPart p fun q => { q with restore := some r })).finishRestore p

/-- One page of an image or of outer state arrives (R174, R265). -/
def State.landRestore (s : State) (p page : Nat) (bs : List Byte) (mk : List Bool) : State :=
  let slag := mk.any id
  match (s.part p).restore with
  | none => s
  | some r =>
    let put := fun (s : State) (r : Restore) => s.modPart p fun q => { q with restore := some { r with landed := r.landed + 1 } }
    if page = 0 ∧ 0 < r.total then
      let h := leNat (bs.take 32)
      if slag ∨ !s.mirrorOk p h then s.restoreDegraded p r (!r.own && s.inHold p (if slag then 0 else h))
      else (State.askRestore r.fuel p (put s { r with header := h })).finishRestore p
    else
      let s :=
        if page < 17 then put s { r with hist := r.hist ++ ((chunks 16 bs).map leNat).filter (· != 0) }
        else if page < r.total then
          match ((enum (s.shards p)).zip (imageOffsets (s.shards p))).find? (fun ((_, d), off) => off ≤ 4096 * page && 4096 * page < off + shardImage d) with
          | some ((i, d), off) =>
            if slag then put s { r with bad := setIns i r.bad }
            else put (s.store (udBase d 0 + (4096 * page - off)) (bs.take (udEnd d - (4096 * page - off))) false) r
          | none => put s r
        else match r.copies[page - r.total]? with
          | some (_, dst, _) => put (s.saveMarked dst bs mk) r
          | none => put s r
      (((State.askRestore r.fuel p s).finishRestore p).gatherNext p).refreshDue p

/-- The round start is restored (Table 08-9): a local copy, the image on the host, or a degraded restore. In the hold of R173 the
committed state is the round start. -/
def State.restoreRound (s : State) (p : Nat) : State :=
  let q := s.part p
  let s := s.modPyro p Pyro.restore
  if !q.run.roundOpen ∨ (s.shards p).isEmpty then s
  else
    let s := (s.each (s.shards p) fun s d => s.keepCommitted p d).modPart p fun q => { q with restore := none }
    match s.mirror p 2, s.mirror p 0 with
    | some m, _ =>
      if s.mirrorOk p (s.word (gLocal (mdBase m)) 32) && !s.marked (gLocal (mdBase m)) 32 then s.restoreLocal p (gLocal (mdBase m)) else s.degradeAll p (s.shards p) true false
    | none, some m => if s.lostMod p (mdMod m) then s.degradeAll p (s.shards p) true false else s.restoreRemote p (mdBase m) true []
    | none, none => s.degradeAll p (s.shards p) true false

/-! ## Discards (R50, R326, Table 14-9) -/

/-- An activation-queue end as it stands at step start (R51, R53). -/
def ActQ.fresh (d : Nat) (hwm stale : Nat) : ActQ := { desc := d, credits := if aqConsumer d then 0 else aqCount d, hwm := hwm, stale := stale }

/-- A background job restarted from its first piece (R150). -/
def Bg.restart (b : Bg) : Bg := { b with fed := 0, part := 0, slag := 0, first := none, sent := false, renew := b.kind == .ingotCapture }

/-- Does a packet not sent yet outlive a discard: work of the outer engine, a loss, a rollback (R183, R270)? -/
def outlives (o : Owner) : Bool := match o with | .fwd .. => true | .seal _ => true | .loss _ => true | .rollback => true | .roundAdd _ => true | .roundRead => true | _ => false

/-- Packets on the wire that nothing waits for after a discard: the pages of a refresh or of a restore are no longer counted (R150, R173). -/
def Chan.discard (c : Chan) : Chan :=
  { c with
    out := c.out.map fun x => match x.owner with | .image => { x with owner := .none } | .tongs .. => { x with owner := .none } | .push .. => { x with owner := .none } | .arenaOut _ => { x with owner := .none } | .credit _ => { x with owner := .none } | .bg _ => { x with owner := .none } | .restore _ => { x with owner := .none } | _ => x }

/-- Is a shard's reduced gradient complete: does a REDUCE that has ended hold it, or has the backward stream, which issues every REDUCE, ended
with none given up (R169)? -/
def State.gradDone (s : State) (p d : Nat) : Bool :=
  let c := (s.part p).coll
  let whole := fun (o : CollOp) => o.done && !o.abandoned
  ((s.seq p .bwd).ended && c.ops.all fun o => o.kind != 0 || whole o) ||
  c.ops.any fun o => o.kind == 0 && whole o && cdDst o.desc ≤ udGrad d && udGrad d + 4 * udCount d ≤ cdDst o.desc + 4 * (ownPart o.group o.desc).2

/-- Can every shard that has not committed the step commit it, under a final decision to apply (R169)? -/
def State.canRedo (s : State) (p : Nat) : Bool :=
  s.applied p && (s.shards p).all fun d => (match s.genVote d with | some (w, _) => sgRank w == some (s.part p).run.step | none => false) || s.gradDone p d

/-- The shards whose flip was interrupted: their words voted, and the working copy re-derived where the new generation stands (Table 08-6). -/
def State.mendFlips (s : State) (p : Nat) : State :=
  let s := s.each ((s.shards p).filter fun d => (s.part p).halfFlips.contains (udGen d)) fun s d => match s.voteGen p d with
    | (s, some w) => if sgRank w = some (s.part p).run.step then s.rederive d (sgActive w) (gLocal (udWork d)) else s
    | (s, none) => s.lostState p { recPart p sevPart 0x0A with addr := udGen d }
  s.modPart p fun q => { q with halfFlips := [] }

/-- Sticky flags ORed over a partition's engines, of one source. -/
def State.stickyOf (s : State) (p i : Nat) : Nat := (s.hearthsOf p).foldl (fun a h => a ||| (s.temper h).flags.getD i 0) 0

/-- Does the partition hold the step open: a job's step running and not drained? -/
def State.inStep (s : State) (p : Nat) : Bool := let q := s.part p; q.job.isSome && q.st == .active && !q.run.atAction8

/-- Step 4 of a discard: the partition's local work is dropped (R50, R75, R121, R130, R157, R169, R183, R209, R287). -/
def State.localDiscard (s : State) (p : Nat) : State :=
  let redo := (s.part p).run.redo || (s.inStep p && s.canRedo p)
  let strand := (s.part p).run.stranded || (s.inStep p && s.applied p && !redo)
  let sticky := (List.range 4).map (s.stickyOf p)
  let s := s.each (s.hearthsOf p) fun s h => (s.modHearth h Hearth.discard).modTemper h Temper.discard
  let s := ((s.tongsDiscard p).updateDiscard p).dropRequests p
  let s := ((s.modArena p Arena.emptied).modPyro p Pyro.discard).modColl p Coll.dropped
  let s := s.modRun p fun r => { r with
    seqs := [{}, {}, {}], tokens := List.replicate 128 0, redo := redo, stranded := strand, decision := none, flagTaken := none, flagWord := 0, endTick := none, stalls := [0, 0, 0]
    driftNext := r.driftNext || (r.flagTaken.isNone && r.flagWord.testBit 3), driftDue := r.driftDue || (r.flagTaken.getD 0).testBit 3 }
  let s := s.modFab p fun f => let f := f.strip fun _ x => !outlives x.2; { f with chans := f.chans.map Chan.discard }
  let s := s.modPart p fun q => { q with
    bgs := q.bgs.map Bg.restart, captured := (q.bgs.filter (·.kind == .ingotCapture)).flatMap fun b => (List.range (s.shards p).length).map fun j => (b.id, j), imagePend := 0, imageStage := if q.imageStage = 0 then 0 else 9, restore := q.restore.map Restore.again
    actqs := q.actqs.map fun x => ActQ.fresh x.desc 0 x.stale
    discardFlags := sticky }
  s

/-- No step that counts its hearths' control-state faults is open any more (R75). -/
def State.noFaults (s : State) (p : Nat) : State := s.each (s.hearthsOf p) fun s h => s.modHearth h fun x => { x with ctlFaults := 0 }

/-- A loss announced to the coordinator, which may be another partition of this module (R232). -/
def State.tellLoss (s : State) (p : Nat) (ids : List Nat) : State :=
  match (s.part p).fab.coordinator with
  | some m => if ids.isEmpty ∨ s.isCoordinator p then s else s.control p 0 m ((s.part p).fab.lowPart m) (idBytes ids) (.loss ids)
  | none => s

/-- The round number that R4 names: the previous one until the round opens (R173). -/
def Run.current (r : Run) : Nat := if r.roundOpen then r.round else r.round - 1

/-- ROLLBACK at a spare, or at another partition without a job: its channels are reset, once for each rollback, which is over when no listed ID is LOST any more (R222, R233; log entry
108). -/
def State.spareRollback (s : State) (p : Nat) : State :=
  if (s.part p).fab.spareHeld then s else s.modFab p fun f => { f.resetChannels with spareHeld := true }

/-- Acknowledgements of forwards and seals that are still awaited, counted from the channels (R255, R258, R264). -/
def State.recount (s : State) (p : Nat) : State :=
  let l := (s.part p).fab.chans.flatMap fun c => c.out.map (·.owner) ++ c.waiting.map (·.2)
  s.modOuter p fun o => { o with
    slabs := (enum o.slabs).map fun (j, x) => { x with sealPend := (l.filter (· == .seal j)).length }
    rxs := o.rxs.map fun x => { x with fwdPend := (l.filter (· == .fwd x.isl x.mod x.slab x.round)).length } }

/-- ROLLBACK at one member (R233): losses marked, work discarded, channels reset, round start restored, held. A member already held
only marks the list (R235). The rerun's first step counts under R96 (log entry 93). Forwards and seals not acknowledged are sent again (R264), and boundary work under way
stays to be done (R267). A loss that the list leaves out is told to the coordinator again (R232). -/
def State.doRollback (s : State) (p : Nat) (ids : List Nat) : State :=
  let owed := ((s.part p).fab.owed none).filter fun m => !ids.contains m
  let s := s.each ids fun s m => s.lose p m
  let q := s.part p
  if q.job.isNone then s.spareRollback p
  else if q.run.holds.contains .rollback then s
  else
    let s := (((s.stepRecEnd p).noFaults p).discardMbx p).localDiscard p
    let s := (s.modFab p Fabric.resetChannels).tongsClear p
    let s := (s.restoreRound p).modPyro p fun y => { y with repairs := [], repairsNext := [] }
    let s := s.modColl p fun c => { c with barriers := c.barriers.filter (·.sub == 0), aborts := [] }
    let s := (s.modOuter p fun o => { o with added := [], word := none }).recount p
    let seals := (s.part p).outer.slabs.any fun x => x.sealPend != 0
    let s := if q.run.holds.contains .roundWord then s.roundCount p rsHold (s.tick - q.run.holdFrom) else s
    let s := s.modRun p fun r => { r with
      step := r.roundStep, roundOpen := false, posts := [], accHeard := none, reproNext := true, driftNext := false, driftDue := false, redo := false, stranded := false, lastSkip := false, atAction8 := true
      holds := [.rollback, .refresh, .gather] ++ (if seals then [.sealAck] else []) ++ r.holds.filter (fun h => h == .halt || h == .p2 || h == .outerWork), holdFrom := s.tick }
    let s := (s.modPart p fun x => { x with
      halfFlips := [], st := if x.st = .ready then .ready else .recovering, idle := x.st == .ready, fenced := false, discardFrom := none, imageStage := 0 }).redoRestore p
    (s.each (s.part p).fab.chans fun s c => s.pump p c.mod c.part).tellLoss p owed

/-- FENCE to a lost module's partitions, on every plane, once and without retransmission (R233). -/
def State.fence (s : State) (p m : Nat) : State :=
  s.each ((s.part p).fab.partsOf m) fun s q => s.each (s.upPlanes p) fun s pl =>
    let c := (s.part p).fab.chan m q
    s.emitHall p { type := 0x0B, op := 5, dstModule := m, dstPart := q, psn := c.psn, connGen := c.connGen, routeGen := (s.part p).fab.genOf m } pl

/-- ROUTE_UPD of an assumption to every member and spare, with the acknowledgements awaited of the members and of the spare's new partitions (R234,
Table 10-10 rows 7 and 8). -/
def State.updateRoutes (s : State) (p lost gen locator spare : Nat) (to_ : List (Nat × Nat)) : State :=
  let s := s.each to_ fun s (m, q) => s.control p 3 m q (routeUpdBytes lost gen locator spare) .none
  s.modFab p fun f => { f with acksDue := (f.acksDue ++ (s.others p [1]).map (fun (m, q) => 4 * m + q) ++ (f.partsOf lost).map fun q => 4 * lost + q).eraseDups }

/-- A new coordinator goes on from the earliest unfinished row: the route updates that it knows of are sent again (R235). -/
def State.takeOver (s : State) (p : Nat) : State :=
  let f := (s.part p).fab
  s.each f.assumed fun s (lost, loc, i) => s.updateRoutes p lost (f.genOf lost) loc (f.idBase + i) (s.others p [1, 3])

/-- Lost IDs that the spare of old ID `m` is taking: it has not acknowledged its route update yet (R235). -/
def Fabric.taking (f : Fabric) (m : Nat) : List Nat :=
  (f.assumed.filter fun a => f.idBase + a.2.2 == m && f.acksDue.any fun k => k / 4 == a.1).map (·.1)

/-- Old IDs of the spares that were taking the IDs given. -/
def Fabric.spareOf (f : Fabric) (ids : List Nat) : List Nat :=
  (f.assumed.filter fun a => ids.contains a.1 && f.acksDue.any fun k => k / 4 == a.1).map fun a => f.idBase + a.2.2

/-- The coordinator acts on losses (R233, R235): FENCE on every plane, the three round words started again (R264), ROLLBACK with the round and every
LOST entry to all. A rollback under way keeps its round; one that another coordinator began is taken over. A spare lost before it has
acknowledged its route update leaves its own ID LOST too (R235). -/
def State.coordinatorLoss (s : State) (p : Nat) (ids : List Nat) : State :=
  let s := s.each (ids ++ (s.part p).fab.spareOf ids) fun s m => s.lose p m
  let s := s.each ids fun s m => s.fence p m
  let r := (s.part p).run
  let held := r.holds.contains .rollback
  let own := (s.part p).fab.rolling
  let round := if held then (s.part p).fab.rollRound else r.current
  let s := s.modFab p fun f => { f with
    rolling := true, rollRound := round, lossTick := s.tick
    assumed := f.assumed.filter fun a => !ids.contains a.1, acksDue := f.acksDue.filter fun k => !ids.contains (k / 4) }
  let s := match (s.part p).outer.cfg with
    | some c => if held then s else s.each ([round - 1, round, round + 1].eraseDups) fun s k => s.store (roundWordAddr c k) (leBytes 8 (k * 2 ^ 32)) false
    | none => s
  let all := (s.part p).fab.idsIn [2]
  let s := s.controlAll p 1 [1, 3] (leBytes 4 round ++ idBytes all) .rollback
  let s := s.doRollback p all
  if held && !own then s.takeOver p else s

/-- A module is declared lost (R232): marked, recorded, and told to the coordinator. A spare lost while it takes an ID becomes LOST, and the ID
with it (R235). -/
def State.declareLost (s : State) (p m : Nat) : State :=
  let q := s.part p
  let st := q.fab.entryState m
  let undone := q.fab.taking m
  if q.job.isNone ∨ m = s.moduleId ∨ (st ≠ 1 ∧ st ≠ 3 ∧ undone.isEmpty) then s
  else
    let ids := ((if st = 1 then [m] else undone) ++ q.fab.owed (some m)).eraseDups
    let s := (s.lose p m).raise { recPart p sevDef 0x50 with addr := m }
    if ids.isEmpty then s
    else if s.isCoordinator p then s.coordinatorLoss p ids else s.tellLoss p ids

/-- A partition whose ABORT comes after DECIDE is lost; of the root itself the other members are told (R202). -/
def State.abortLost (s : State) (p : Nat) (sender : Option Nat) : State := match sender with
  | some m => s.declareLost p m
  | none => match ((s.part p).fab.idsIn [1]).find? (· != s.moduleId) with
    | some m => s.control p 0 m ((s.part p).fab.lowPart m) (idBytes [s.moduleId]) (.loss [s.moduleId])
    | none => s

/-- A flag reduction closed with reason 2, whether or not a word of it has come (R202). -/
def State.abortClose (s : State) (p g step occ : Nat) : State :=
  let s := if (s.part p).coll.roots.any (·.is (cgId g) step occ) then s
    else s.modColl p fun c => { c with roots := c.roots ++ [{ group := cgId g, step := step, occ := occ, words := [], taken := none, closed := false }] }
  s.rootClose p g step occ 2 0

/-- Has the deciding FLAG of a step been decided without an abort? -/
def Coll.decided (c : Coll) (g step : Nat) : Bool := c.roots.any fun r => r.is (cgId g) step (c.decidingOcc g) && r.closed && r.reason != 2

/-- ABORT at the root of the deciding FLAG, for the running step or one to come (R202). After DECIDE the sender is lost; before it the step is
skipped with reason 2. Which FLAG decides is known once the backward stream has retired PASS_END; until then the step is noted as given up, and
its FLAGs close with reason 2 (DEDUCED, log entry 131). -/
def State.rootAbort (s : State) (p g step : Nat) (sender : Option Nat) : State :=
  let now := step = (s.part p).run.step
  let known := now ∧ ((s.seq p .bwd).passEnded ∨ sender.isNone)
  if known ∧ (s.part p).coll.decided g step then s.abortLost p sender
  else
    let s := s.modColl p fun c => { c with aborts := c.aborts ++ [(cgId g, step, sender)] }
    if known then s.abortClose p g step ((s.part p).coll.decidingOcc g) else s

/-- At PASS_END the deciding FLAG is known: a step given up before is skipped, or, where its decision had gone out already, the senders of its
ABORTs are lost (R202). -/
def State.abortsDue (s : State) (p : Nat) : State :=
  match s.flagGroup p with
  | none => s
  | some g =>
    let step := (s.part p).run.step
    let l := (s.part p).coll.aborts.filter fun a => a.1 == cgId g && a.2.1 == step
    if cgRank g ≠ 0 ∨ l.isEmpty then s
    else if (s.part p).coll.decided g step then
      s.each l fun s a => (s.modColl p fun c => { c with aborts := c.aborts.filter (· != a) }).abortLost p a.2.2
    else s.abortClose p g step ((s.part p).coll.decidingOcc g)

/-- A discarding partition tells the root, unless it has done all that its peers wait for (R169, R202; log entry 25). -/
def State.sendAbort (s : State) (p : Nat) : State :=
  let q := s.part p
  if !s.inStep p ∨ (q.run.decision.isSome && q.coll.ops.all (·.done) && (!s.applied p || s.canRedo p)) then s
  else match s.flagGroup p with
    | none => s
    | some g =>
      if cgRank g = 0 then s.rootAbort p g q.run.step none
      else s.sendSeg p g 0 0 { kind := 6, epoch := q.run.epoch, step := q.run.step, rank := cgRank g, group := cgId g } false

/-- A discard begins (R27, R326): fence, mailbox commands, local work. -/
def State.beginDiscard (s : State) (p seq : Nat) : State :=
  let q := s.part p
  let s := (s.discardMbx p).sendAbort p
  let s := s.localDiscard p
  s.modPart p fun x => { x with st := .draining, fenced := true, discardFrom := some s.tick, handled := seq, idle := q.st == .ready || (q.idle && q.st != .active) }

/-! ## Leaving a job and partition reset (R325, R342) -/

/-- What JOB.UNLOAD drops, abandons and releases (R342). -/
def Part.released (q : Part) : Part :=
  { q with
    job := none, actqs := [], arena := {}, bgs := q.bgs.filter (·.kind == .memSend), ingot := none, ingotNext := none, ingotHeld := [], captured := []
    imageValid := false, imagePend := 0, imageStage := 0, restore := none, idle := false, halfFlips := [], redo := [], pyro := {}, coll := {}, outer := { island := q.outer.island }
    run := { step := q.run.step, round := q.run.round, epoch := q.run.epoch, nextInsn := q.run.nextInsn }
    fab := { q.fab with lostList := [], rolling := false, spareHeld := false, assumed := [], acksDue := [], assuming := none, heardAt := [], peers := [] } }

/-- The partition leaves its job: its background jobs bound to it end, LEFT goes out, and it is READY with no job (R231, R342). -/
def State.leaveJob (s : State) (p : Nat) : State :=
  if (s.part p).job.isNone then s
  else
    let s := ((s.stepRecEnd p).noFaults p).sendLeft p
    s.modPart p fun q => { q.released with st := .ready, depth := 0, fenced := false, discardFrom := none }

/-- Leaving by a fault: the work in flight is discarded first (R75, R166, R233, R280). -/
def State.dropOut (s : State) (p : Nat) : State := (s.localDiscard p).leaveJob p

/-- A partition with no cipher core left whose job needs the cipher engine (outer state, or an arena under XTS) writes UCE_PART and leaves its
job (R280). -/
def State.cipherless (s : State) (p : Nat) : State :=
  let q := s.part p
  if !s.coreLeft p && q.job.isSome && (q.outer.cfg.isSome || (s.arenaOf p).any saXts) then (s.raise (recPart p sevPart (Config.faultCode 280))).dropOut p else s

/-- A SEND_FAIL notice of a background copy (Table 15-13). -/
def State.sendFail (s : State) (p : Nat) (b : Bg) : State := s.notice p 7 (pack [(64, b.cookie), (64, b.dst), (112, 0)])

/-- A partition reset (R325): commands, LEFT, keys, tables, then self-tests; it ends when the tests have. -/
def State.partitionReset (s : State) (p seq : Nat) : State :=
  let n := s.nparts
  let s := (s.stepRecEnd p).discardMbx p
  let s := if (s.part p).job.isSome then s.sendLeft p else s
  let s := s.each ((s.part p).bgs.filter (·.kind == .memSend)) fun s b => s.sendFail p b
  let s := s.localDiscard p
  let s := (s.zeroSlots (s.slotsOf p)).modNet fun x => { x with
    qps := x.qps.map fun q => if !q.dev && q.st != 0 && q.part == p then {} else q
    targets := x.targets.map fun t => if bits t 159 120 != 0 && !bit t 111 && bits t 113 112 == p then 0 else t }
  let s := s.each (s.hearthsOf p) fun s h => s.modHearth h fun x => if x.st = .offline then x else { x with st := .reset, testing := true, testDue := false, ctlFaults := 0 }
  let s := s.modCipher fun c => { c with cores := (enum c.cores).map fun (k, x) => if corePart n k == p then { x with run := none, susp := [], testing := !x.offline } else x }
  let s := s.modPart p fun q => { q.released with
    st := .reset, depth := 1, fenced := true, discardFrom := some s.tick, handled := seq, bgs := [], offers := []
    fab := { chans := q.fab.chans.map (Chan.reset 64) } }
  s.tongsClear p

end Sys2Proof.Machine
end

