-- ==== Sys2Proof/Machine/Collective.lean ====
section
/-! DEFINITION. Commands of the collective engine and of the pyrometer's checks (R39, R136, R138, R139, R185, R189-R204, R210). -/

namespace Sys2Proof.Machine

/-! ## The flag word and the release of held work (R39, R136, R189, R210) -/

/-- Has everything that the flag word waits for completed (R136)? The held COLL instructions themselves cannot (R39; log entry 26). A SAMPLE
issued before PASS_END has completed, for the word, once its checks have ended and not when the pyrometer accepts it (R137): the word carries
what they find (DEDUCED, log entry 126). -/
def State.flagDue (s : State) (p : Nat) : Bool :=
  let r := (s.part p).run
  (s.part p).st == .active && !(s.part p).fenced && !r.atAction8 && (s.seq p .bwd).passEnded && r.flagTaken.isNone &&
  [Sid.fwd, Sid.bwd].all (fun t => (s.seq p t).out.all fun o => o.cls == 4 || r.passAt ≤ o.id) &&
  (s.part p).pyro.samples.all fun x => r.passAt ≤ x.insn

/-- The flag word is taken, and the held flag reductions go (R136). -/
def doStepFlagTaken (p : Nat) (s : State) : State :=
  if !s.flagDue p then s
  else
    let w := (s.part p).run.flagWord
    let s := s.modRun p fun r => { r with flagTaken := some w }
    let s := s.each ((s.part p).coll.ops.filter fun o => o.kind == 2 && !o.sent) fun s o => s.flagSend p o w
    (s.abortsDue p).collSettle p

def execStepFlagTaken (p : Nat) (s : State) : Host.Outcome State Fault Refusal := answer (Instr.stepFlagTaken p).wf (doStepFlagTaken p s)

/-- Staging reserved for the job's flag roots (R210). -/
def State.flagRootBytes (s : State) (p : Nat) : Nat :=
  (((((s.part p).job.map (·.groups)).getD []).filter fun g => cgRank g == 0).map fun g => 136 * cgN g).sum

/-- Staging that a REDUCE reserves: accumulators of its DIRECT parts, records, and its RING stages (R210). -/
def CollOp.need (o : CollOp) : Nat :=
  let g := o.group
  let direct := ((cgAxes g o.desc).filter (cgDirect g)).map fun a => 16 * (cgPart g o.desc a (cgMine g a)).2
  let ring := ((cgAxes g o.desc).filter fun a => !cgDirect g a).length
  direct.sum + 48 * cgN g + 131072 * ring

/-- Is a carry kept in the space of a part that the operation reserves (R210)? -/
def CollOp.covers (o : CollOp) (k : Carry) : Bool := o.kind == 0 && cgId o.group == k.group && cdTensor o.desc == k.tensor && o.occ == k.occ

/-- Staging that an operation still holds: all it reserved while it is in flight, and after that the buffer of each RING stage that parts still
pass (R188, R210). -/
def CollOp.holds (o : CollOp) : Nat := if !o.released then 0 else if o.done then 131072 * o.passing.length else o.reserved

/-- Staging taken when `o` is to be released: operations in flight, and the parts of the carries held that are none of theirs nor of `o` (R195,
R210). -/
def Coll.taken (c : Coll) (o : CollOp) : Nat :=
  let live := c.ops.filter fun o => o.released && !o.done
  (c.ops.map (·.holds)).sum + ((c.carries.filter fun k => !(o :: live).any (·.covers k)).map fun k => 16 * k.pairs.length).sum

/-- A REDUCE released: its local values, its stages (R188, R189). -/
def State.releaseOp (s : State) (p : Nat) (o : CollOp) : State :=
  let fl := (s.part p).run.flagTaken.getD 0 != 0
  let xs := s.readElems (gLocal (cdSrc o.desc)) (cdCount o.desc)
  let st := reduceStages o.group o.desc
  let vals : List Elem := if fl && st.isEmpty then xs.map fun _ => (f32Zero, false) else xs
  let pr := if fl then pair0 else sqNorm xs
  let s := s.collRuns p (if fl || !st.isEmpty then [] else sqFlags xs)
  let s := s.modOp p o.insn fun q => { q with
    released := true, releaseTick := s.tick, reserved := o.need, flagged := fl, stages := st, base := 0, len := cdCount o.desc, cur := vals
    normS := if st.isEmpty then pr.1 else q.normS, normC := if st.isEmpty then pr.2 else q.normC }
  (State.advanceOp p o.insn 8 (s.nextStage p o.insn)).collSettle p

/-- A REDUCE whose reservation never fits is malformed: the backward stream stops, the record carrying its layer and its descriptor (R31,
R210). -/
def State.reduceNeverFits (s : State) (p : Nat) (o : CollOp) : State :=
  let i := (s.seq p .bwd).out.find? fun y => y.id == o.insn
  (s.stopStream p .bwd).raise { recPart p sevPart 0x20 with layer := (i.map (·.layer)).getD 0, addr := (i.map (·.at_)).getD 0, detail := (i.map (·.word)).getD 0 }

/-- The next REDUCE in order of issue is released once its staging fits; one that never could is malformed (R39, R210). -/
def doReduceRelease (p : Nat) (e : Found) (s : State) : State :=
  let q := s.part p
  if q.run.flagTaken.isNone || q.fenced || q.st != .active then s
  else match q.coll.ops.find? fun o => o.kind == 0 && !o.released && !o.abandoned && !o.done with
    | none => s
    | some o =>
      let room := ((q.job.map (·.staging.2)).getD 0) - s.flagRootBytes p
      if room < o.need then s.reduceNeverFits p o
      else if room < q.coll.taken o + o.need then s
      else (s.meet [(gLocal (cdSrc o.desc), 4 * cdCount o.desc)] e).releaseOp p o

def execReduceRelease (p : Reading) (s : State) : Host.Outcome State Fault Refusal :=
  answer (Instr.reduceRelease p).wf (doReduceRelease p.of p.found s)

/-! ## SAMPLE checks (R138, R139) -/

/-- The slab that a working element belongs to, by its first working address and its bytes: an owned outer slab, else the shard. -/
def State.slabRange (s : State) (p g : Nat) : Nat × Nat :=
  match (s.part p).outer.slabs.find? (fun x => osWork x.desc ≤ g && g < osWork x.desc + 2 * osCount x.desc) with
  | some x => (osWork x.desc, 2 * osCount x.desc)
  | none => match (s.shards p).find? (fun d => udWork d ≤ g && g < udWork d + 2 * udCount d) with
    | some d => (udWork d, 2 * udCount d)
    | none => (g, 2)

/-- A mismatch: its record, the drift bit, and one event per slab; a second after repair in the round is UCE_PART (R139). -/
def State.driftFound (s : State) (p d i conv work : Nat) : State :=
  let g := ssWork d + 2 * i
  let s := s.raise { recPart p sevDef 0x42 with addr := g, detail := pack [(16, ssTensor d), (16, conv), (16, work), (16, 0)] }
  let s := s.modRun p fun r => if r.flagTaken.isNone then { r with flagWord := r.flagWord ||| 8 } else { r with driftNext := true }
  let k := (s.slabRange p g).1
  let y := (s.part p).pyro
  if y.repairs.contains k || y.repairsNext.contains k then s
  else if y.repaired.contains k then s.raise { recPart p sevPart 0x42 with addr := g }
  else if (s.part p).run.flagTaken.isNone then s.modPyro p fun y => { y with repairs := y.repairs ++ [k] }
  else s.modPyro p fun y => { y with repairsNext := y.repairsNext ++ [k] }

/-- Is a commit short of row 7 on a shard that holds a working address: open, or begun on a unit that was lost (R138, R166, R168)? -/
def State.commitOn (s : State) (p g : Nat) : Bool :=
  let on := fun (e : UEnt) => e.part == p && udWork e.desc ≤ g && g < udWork e.desc + 2 * udCount e.desc
  (s.units.any fun u => u.opn.any (fun o => on o.ent) || u.queue.any fun e => e.begun && on e) || (s.part p).redo.any fun e => e.begun && on e

/-- One sampled position read, converted and compared (R138). -/
def doSamplePositionCheck (p : Nat) (e : Found) (s : State) : State :=
  match (s.part p).pyro.samples with
  | [] => s
  | x :: rest =>
    let d := x.desc
    let i := samplePos (jpSeed (s.params p)) (ssTensor d) (s.part p).run.step x.next (ssCount d)
    let g := ssWork d + 2 * i
    if s.commitOn p g then s
    else
      let ma := gLocal (ssMaster d) + i * ssStride d
      let next := if ssSamples d ≤ x.next + 1 then rest else { x with next := x.next + 1 } :: rest
      let s := (s.meet [(ma, 4), (gLocal g, 2)] e).modPyro p fun y => { y with samples := next }
      if s.unreached ma 4 || s.unreached (gLocal g) 2 || s.marked ma 4 || s.marked (gLocal g) 2 then (s.sampleSlag p samplerCheck (ssTensor d) 1).modPyro p Pyro.flush
      else
        let conv := ((fmtOf (ssFmt d)).enc .rne true (f32 (BitVec.ofNat 32 (s.word ma 4)))).1
        let work := s.word (gLocal g) 2
        if conv = work then s else s.driftFound p d i conv work

def execSamplePositionCheck (p : Reading) (s : State) : Host.Outcome State Fault Refusal :=
  answer (Instr.samplePositionCheck p).wf (doSamplePositionCheck p.of p.found s)

/-! ## Received segments (R190, R204, R209) -/

/-- Does a segment's payload have the length its kind gives it (Table 09-5)? -/
def Seg.lengthOk (x : Seg) : Bool :=
  let n := x.body.length
  if x.kind ≤ 1 then n == ((cutBlocks x.count x.body).map (·.length)).sum && (cutBlocks x.count x.body).all fun b => b.length == 260 || b.length == 516
  else if x.kind = 2 then n ≤ 4096
  else if x.kind = 3 then n == 48
  else if x.kind = 4 then 8 ≤ n && n % 8 == 0
  else if x.kind = 5 then 12 ≤ n && n % 8 == 4
  else if x.kind = 6 then n == 0
  else n == 8

/-- Are the reserved bits of a segment's payload zero: of block headers, of a COLL_STAT, of the `STEP_FLAG` word of a FLAG or a
DECIDE (Table 06-7), of a DECIDE, of a BARRIER (R9, R190)? -/
def Seg.reservedOk (x : Seg) : Bool :=
  if x.kind ≤ 1 then (cutBlocks x.count x.body).all fun b => bits (leNat (b.take 4)) 28 0 == 0
  else if x.kind = 3 then bits (leNat x.body) 71 0 == 0
  else if x.kind = 4 then bits (leNat (x.body.take 2)) 15 6 == 0
  else if x.kind = 5 then bits (leNat (x.body.take 2)) 15 6 == 0 && leNat ((x.body.drop 3).take 1) == 0
  else if x.kind = 7 then leNat ((x.body.drop 1).take 3) == 0
  else true

/-- The checks of R190 after the epoch rule. -/
def State.segOk (s : State) (p : Nat) (x : Seg) (raw : Nat) : Bool :=
  x.kind ≤ 7 && !bit raw 0 && x.axis ≤ 2 && x.reservedOk && x.lengthOk && (s.group p x.group).isSome

/-- A stale or early segment is counted, and booked on its operation (R199, R204). -/
def State.epochDrop (s : State) (p : Nat) (x : Seg) (older : Bool) : State :=
  let s := s.count (if older then .staleEpoch else .aheadEpoch)
  match older, (s.part p).coll.forSeg x with
  | true, some o => s.modOp p o.insn fun q => { q with staleN := satTo 16 (q.staleN + 1) }
  | _, _ => s

/-- Is a segment part of a rejoin announcement: the answer itself, or a piece of it? A partition that waits to rejoin takes it under the epoch that
it announces (R203; log entry 27). -/
def isRejoin (x : Seg) : Bool := (x.kind == 7 && x.body.headD 0#8 == 3#8) || (x.kind == 2 && x.tensor == 0xFFFF && x.flags == 1)

/-- Blocks of a CONTRIB or a RESULT that lie in lines with a receive-buffer error carry the slag bit (R237). -/
def Seg.marked (x : Seg) (sender : Nat) : Seg :=
  if 1 < x.kind ∨ sender < 2 ^ 23 then x
  else
    let bs := cutBlocks x.count x.body
    let offs := bs.foldl (fun (a : List Nat × Nat) b => (a.1 ++ [a.2], a.2 + b.length)) ([], 32)
    { x with body := (bs.zip offs.1).flatMap fun (b, o) =>
        if (senderHits sender o b.length).any id then leBytes 4 (leNat (b.take 4) ||| 2 ^ 29) ++ b.drop 4 else b }

/-- A collective segment received: the transport's checks, the epoch rule, the fence, the checks of R190; then `act`. -/
def State.segEvent (s : State) (pkt : HtPkt) (mine : Seg → State → Nat → Bool) (act : State → Nat → Nat → Seg → State) : State :=
  let x := segOf pkt.payload
  let other := pkt.type = 6 ∧ 1 ≤ pkt.op ∧ pkt.op ≤ 2
  if other ∨ (x.kind ≤ 7 ∧ !mine x s pkt.dstPart) then s
  else match s.receive [6] pkt with
    | (s, none) => s
    | (s, some p) =>
      let s := (s.dataArrived p pkt).bufErrors p pkt
      let x := x.marked (senderOf pkt)
      let e := (s.part p).run.epoch
      let exempt := (x.kind = 7 ∧ (x.body.headD 0#8).toNat = 2) ∨ ((s.part p).run.holds.contains .rejoin ∧ isRejoin x)
      let s :=
        if !exempt ∧ x.epoch ≠ e then s.epochDrop p x (epochOlder x.epoch e)
        else if (s.part p).fenced ∧ x.kind ≠ 4 ∧ x.kind ≠ 5 ∧ x.kind ≠ 6 ∧ x.kind ≠ 7 then s
        else if !s.segOk p x (leNat (pkt.payload.take 32)) then s.badSeg p pkt.srcModule
        else act s p (senderOf pkt) x
      s.ackIfDue p pkt.srcModule pkt.srcPart

/-- Is this a segment of the kind? -/
def ofKind (k : Nat) (x : Seg) (_ : State) (_ : Nat) : Bool := x.kind == k

/-- The segment is held for its operation, and used as soon as it can be (R188). -/
def State.keepSeg (s : State) (p sender : Nat) (x : Seg) : State := (s.holdSeg p sender x.bytes).collSettle p

/-- Record of an error in the collective engine's storage (R209). -/
def State.collStore (s : State) (p sev code : Nat) : FaultRec := { recPart p sev code with resClass := 8, resIndex := 4 / s.nparts * p }

/-- Errors found in the storage that a segment's use reads: corrected with a CE record, or a DEFERRED one (R209). -/
def State.storeErrors (s : State) (p fixed bad : Nat) : State :=
  let s := s.each (List.range fixed) fun s _ => s.raiseMem (s.collStore p sevCE 0x03)
  s.each (List.range bad) fun s _ => s.raiseMem (s.collStore p sevDef 0x04)

/-- The lines of a kept segment's payload that a list names. -/
def Seg.lines (x : Seg) (l : List Nat) : List Nat := l.eraseDups.filter (· < ceilDiv (32 + x.body.length) 64)

/-- Errors found in the staging storage that a segment is kept in (R209). -/
def State.heldErrors (s : State) (p : Nat) (x : Seg) (k : HeldPkt) : State := s.storeErrors p (x.lines k.fixed).length (x.lines k.bad).length

/-- The sender code of a segment whose lines in storage carry a mark beside those that the receive buffer marked. -/
def heldSender (k : HeldPkt) (sender : Nat) : Nat := sender % 2 ^ 23 + 2 ^ 23 * (sender / 2 ^ 23 ||| ((k.bad.filter (· < 65)).eraseDups.map (2 ^ ·)).sum)

/-- Elements of pairs marked. -/
def markPairs (hit : List Nat) (l : List (W32 × W32 × Nat)) : List (W32 × W32 × Nat) := hit.foldl (fun l k => updAt l k fun v => (v.1, v.2.1, v.2.2 ||| 1)) l

/-- Elements, of the first `n`, that errors mark: their storage, register or temporary beyond correction, or slag copies that disagree (R119,
R209, R306). -/
def markedBy (n : Nat) (fixed bad : HeldErrs) : List Nat := (bad.words ++ bad.regs ++ bad.temps ++ fixed.split).filter (· < n)

/-- Records of the errors that an addition to `n` elements meets: in the engine's storage (R209), and in T28-T31 and the temporaries of the run that
adds, whose hearth they name (R119). -/
def State.addErrors (s : State) (p n : Nat) (fixed bad : HeldErrs) : State :=
  let cut := fun (l : List Nat) => l.filter (· < n)
  let es := s.collEngines p
  let h := es.getD (Config.collEngine s.free % es.length) 0
  runErrors p h (cut bad.regs) (cut fixed.regs) (cut bad.temps).length (s.storeErrors p (cut (fixed.words ++ fixed.split)).length (cut bad.words).length)

/-- Errors met as a contribution is added: to the pairs of its carry once its stage has closed, else to the accumulators of its operation; corrected,
or the element marked (R195, R209). -/
def State.accErrors (s : State) (p : Nat) (x : Seg) (fixed bad : HeldErrs) : State :=
  let c := (s.part p).coll
  let is := fun (k : Carry) => k.is x.group x.tensor x.axis x.occ x.step
  match c.carries.find? is, (if x.step = (s.part p).run.step then c.forSeg x else none) with
  | some k, _ =>
    let n := k.pairs.length
    (s.addErrors p n fixed bad).modColl p fun c => { c with
      carries := c.carries.map fun y => if is y then { y with pairs := markPairs (markedBy n fixed bad) y.pairs } else y }
  | none, some o =>
    let n := o.accum.length
    (s.addErrors p n fixed bad).modOp p o.insn fun q => { q with accum := markPairs (markedBy n fixed bad) q.accum }
  | none, none => s

def execContrib (pkt : HtPkt) (fixed bad : HeldErrs) (s : State) : Host.Outcome State Fault Refusal :=
  answer true (s.segEvent pkt (ofKind 0) fun s p sender x => (s.accErrors p x fixed bad).keepSeg p sender x)
def execResult (pkt : HeldPkt) (s : State) : Host.Outcome State Fault Refusal :=
  answer true (s.segEvent pkt.pkt (ofKind 1) fun s p sender x => (s.heldErrors p x pkt).keepSeg p sender (x.marked (heldSender pkt sender)))
def execStat (pkt : HeldPkt) (s : State) : Host.Outcome State Fault Refusal :=
  answer true (s.segEvent pkt.pkt (ofKind 3) fun s p sender x => (s.heldErrors p x pkt).keepSeg p (heldSender pkt sender) x)

/-! ## Rejoining (R50, R140, R203) -/

/-- A rejoin announcement's payload: step (8 bytes), epoch (2), 6 zero bytes, then the AS8 histories (log entry 27). -/
def State.rejoinBody (s : State) (p : Nat) : List Byte :=
  let q := s.part p
  leBytes 8 q.run.step ++ leBytes 2 q.run.epoch ++ leBytes 6 0 ++
    ((q.pyro.tracks.filter fun t => trFmt t.cfg == 15).flatMap fun t => leBytes 16 t.hist)

/-- The announcement is taken once its answer and all its pieces have come. -/
def State.tryRejoin (s : State) (p : Nat) : State :=
  let l := ((s.part p).coll.early.map fun e => segOf e.2).filter isRejoin
  let ps := l.filter fun x => x.kind == 2
  match l.find? (fun x => x.kind == 7), ps.find? (·.last) with
  | some _, some z =>
    let body := (List.range (z.first + 1)).flatMap fun k => ((ps.find? fun x => x.first == k).map (·.body)).getD []
    if !(List.range (z.first + 1)).all (fun k => ps.any fun x => x.first == k) then s
    else
      let s := s.modColl p fun c => { c with early := c.early.filter fun e => !isRejoin (segOf e.2) }
      let old := (s.part p).run.step
      let s := s.modRun p fun r => { r with step := bits (leNat (body.take 8)) 47 0, epoch := leNat ((body.drop 8).take 2), redo := false, passed := some old }
      let s := s.modPyro p fun y => ((chunks 16 (body.drop 16)).map leNat).foldl (fun y h => match y.find (histTensor h) with
        | some (i, t) => if trFmt t.cfg = 15 then y.modTrack i fun t => t.withHist h else y
        | none => y) y
      s.unhold p .rejoin
  | _, _ => s

/-- A GATHER piece, or a piece of a rejoin announcement (R198, R203). -/
def State.takeGather (s : State) (p sender : Nat) (x : Seg) : State :=
  if isRejoin x ∧ (s.part p).run.holds.contains .rejoin then (s.holdSeg p sender x.bytes).tryRejoin p else s.keepSeg p sender x

def execGatherSegment (pkt : HtPkt) (s : State) : Host.Outcome State Fault Refusal := answer true (s.segEvent pkt (ofKind 2) State.takeGather)

/-- The rejoin requests answered as this member starts a step (R203). -/
def State.answerRejoins (s : State) (p : Nat) : State :=
  let l := (s.part p).coll.rejoins
  let s := s.modColl p fun c => { c with rejoins := [] }
  let body := s.rejoinBody p
  s.each l fun s (k, r) => match s.group p (k % 64) with
    | none => s
    | some g =>
      let h : Seg := { epoch := (s.part p).run.epoch, step := (s.part p).run.step, rank := cgRank g, group := cgId g }
      let s := s.sendSeg p g r 0 { h with kind := 7, body := barrierBody 3 ((s.part p).run.step % 2 ^ 32) } false
      let cs := chunks 4096 body
      s.each (enum cs) fun s (i, c) => s.sendSeg p g r 0 { h with kind := 2, tensor := 0xFFFF, flags := 1, first := i, last := i + 1 == cs.length, body := c } false

/-! ## FLAG, DECIDE and ABORT at the root and the members (R200-R202) -/

/-- A FLAG word at the root: one of a past step is late (R200), but of a step that the root itself gave up, which it answers with reason 2, as
the FLAG may be the one that decides (R202). -/
def State.takeFlag (s : State) (p sender : Nat) (x : Seg) : State :=
  match s.group p x.group with
  | none => s
  | some g =>
    if cgRank g ≠ 0 then s.badSeg p (senderMod sender)
    else if (s.part p).coll.aborts.contains (cgId g, x.step, none) then
      (if (s.part p).coll.roots.any fun r => r.is (cgId g) x.step x.occ && r.closed then s.count .lateFlag else s.abortClose p g x.step x.occ)
    else if x.step < (s.part p).run.step then s.count .lateFlag
    else
      let b := x.body
      let prs := (chunks 8 (b.drop 8)).map fun c => (BitVec.ofNat 32 (leNat (c.take 4)), BitVec.ofNat 32 (leNat (c.drop 4)))
      (s.rootAdd p g x.step x.occ ⟨x.rank, leNat (b.take 2), leNat ((b.drop 2).take 2), leNat ((b.drop 4).take 4), prs, (senderMarks sender 40 (b.length - 8)).any id⟩ false).collSettle p

def execFlagSegment (pkt : HeldPkt) (s : State) : Host.Outcome State Fault Refusal :=
  answer true (s.segEvent pkt.pkt (ofKind 4) fun s p sender x => (s.heldErrors p x pkt).takeFlag p (heldSender pkt sender) x)

/-- The root's wait limit expires (R200). -/
def doFlagRootTimeout (p n : Nat) (s : State) : State :=
  match s.group p n with
  | none => s
  | some g =>
    if cgWait g = 0 ∨ cgFlagMiss g = 0 then s
    else match (s.part p).coll.roots.find? (fun r => r.group == n && !r.closed && (match r.taken with | some t => cgWait g ≤ s.tick - t | none => false)) with
      | some r => (s.rootClose p g r.step r.occ 0 0).collSettle p
      | none => s

def execFlagRootTimeout (p n : Nat) (s : State) : Host.Outcome State Fault Refusal := answer (Instr.flagRootTimeout p n).wf (doFlagRootTimeout p n s)

def execDecide (pkt : HtPkt) (s : State) : Host.Outcome State Fault Refusal := answer true (s.segEvent pkt (ofKind 5) State.keepSeg)

/-- No DECIDE of a FLAG within the wait limit of its word's sending: that FLAG's root is lost (R201). -/
def doDecideTimeout (p : Nat) (s : State) : State :=
  s.each ((s.part p).coll.ops.filter fun o => o.kind == 2 && o.sent && !o.done && s.waitLimit p < s.tick - o.releaseTick) fun s o =>
    s.declareLost p (s.member o.group 0).1

def execDecideTimeout (p : Nat) (s : State) : Host.Outcome State Fault Refusal := answer (Instr.decideTimeout p).wf (doDecideTimeout p s)

/-- ABORT at the root: of a step already decided, its sender is lost (R202). -/
def State.takeAbort (s : State) (p sender : Nat) (x : Seg) : State :=
  match s.group p x.group with
  | none => s
  | some g =>
    if cgRank g ≠ 0 then s.badSeg p (senderMod sender)
    else if x.step < (s.part p).run.step then (if (s.part p).coll.aborted g x.step then s else s.declareLost p (senderMod sender))
    else (s.rootAbort p g x.step (some (senderMod sender))).collSettle p

def execAbort (pkt : HtPkt) (s : State) : Host.Outcome State Fault Refusal := answer true (s.segEvent pkt (ofKind 6) State.takeAbort)

/-! ## Stages closing short, barriers (R185, R194, R203) -/

/-- The owner's wait limit of a DIRECT stage expires (R194). -/
def doDirectStageTimeout (p : Nat) (e : Closing) (s : State) : State :=
  let n := e.insn
  match (s.part p).coll.op n with
  | none => s
  | some o => match o.stages, o.stageTick with
    | ⟨a, false⟩ :: _, some t =>
      if !o.released || o.done || !cgDirect o.group a || cgWait o.group == 0 || decide (s.tick - t < cgWait o.group) then s
      else
        let k := o.accum.length
        let s := (s.addErrors p k e.fixed e.bad).modOp p n fun q => { q with accum := markPairs (markedBy k e.fixed e.bad) q.accum }
        (State.advanceOp p n 8 ((s.closeDirect p { o with accum := markPairs (markedBy k e.fixed e.bad) o.accum } a 2).nextStage p n)).collSettle p
    | _, _ => s

def execDirectStageTimeout (p : Nat) (n : Closing) (s : State) : Host.Outcome State Fault Refusal :=
  answer (Instr.directStageTimeout p n).wf (doDirectStageTimeout p n s)

/-- Is a BARRIER an answer at this partition: from rank 0, or for subkind 3, to a partition that waits to rejoin, from the member that it asked,
with that member's step as its value; a request's value is 0 (R203, log entry 27)? -/
def isAnswer (x : Seg) (s : State) (p : Nat) : Bool :=
  if (x.body.headD 0#8).toNat = 3 then
    (s.part p).run.holds.contains .rejoin && leNat (x.body.drop 4) == x.step % 2 ^ 32 &&
      (match s.group p x.group with | some g => x.rank == (if cgRank g = 0 then 1 else 0) | none => true)
  else x.rank == 0

/-- A member's BARRIER: collected, or for subkind 3 kept until this member's next step (R203). -/
def State.takeBarrier (s : State) (p _sender : Nat) (x : Seg) : State :=
  match s.group p x.group with
  | none => s
  | some g =>
    let sub := (x.body.headD 0#8).toNat
    if sub = 3 then s.modColl p fun c => { c with rejoins := c.rejoins ++ [(cgId g + 64 * x.epoch, x.rank)] }
    else if sub ≤ 2 ∧ cgRank g = 0 then s.barrierHeard p g sub x.rank (leNat (x.body.drop 4)) x.epoch
    else s.badSeg p (senderMod _sender)

def execBarrier (pkt : HtPkt) (s : State) : Host.Outcome State Fault Refusal :=
  answer true (s.segEvent pkt (fun x s p => x.kind == 7 && !isAnswer x s p) State.takeBarrier)

/-- A barrier's answer at a member (R203). -/
def State.takeAnswer (s : State) (p sender : Nat) (x : Seg) : State :=
  match s.group p x.group with
  | none => s
  | some g =>
    let sub := (x.body.headD 0#8).toNat
    if sub = 3 then (s.holdSeg p sender x.bytes).tryRejoin p else if x.epoch ≠ (s.part p).run.epoch then s else s.barrierAnswered p g sub

def execBarrierAnswer (pkt : HtPkt) (s : State) : Host.Outcome State Fault Refusal :=
  answer true (s.segEvent pkt (fun x s p => x.kind == 7 && isAnswer x s p) State.takeAnswer)

/-- A member not heard from within the wait limit at the first step (R185). -/
def doGroupCfg (p g : Nat) (s : State) : State :=
  let q := s.part p
  if q.run.holds.contains .confirm ∧ (s.group p g).isSome ∧ !q.coll.confirmed.contains g ∧ s.waitLimit p < s.tick - q.coll.confirmFrom then
    (s.modColl p fun c => { c with confirmFrom := s.tick }).raise { recPart p sevPart 0x54 with detail := g }
  else s

def execGroupCfg (p g : Nat) (s : State) : Host.Outcome State Fault Refusal := answer (Instr.groupCfg p g).wf (doGroupCfg p g s)

end Sys2Proof.Machine
end

