-- ==== Sys2Proof/Machine/Rounds.lean ====
section
/-! DEFINITION. The round boundary of the outer engine: boundary work, seals, round words and records (R240, R243-R245, R256-R262, R267,
R269). -/

namespace Sys2Proof.Machine

/-- A count of the round as its record holds it. -/
def Outer.stat (o : Outer) (k w : Nat) : Nat := satTo w (assocGet k 0 o.stats)

/-- Working format of a slab: that of its shards; BF16 where it holds none. -/
def State.slabFmt (s : State) (p : Nat) (x : SlabSt) : Nat :=
  ((s.shards p).find? fun d => osWork x.desc ≤ udWork d && udWork d < osWork x.desc + 2 * osCount x.desc).elim 7 udFmt

def State.modSlab (s : State) (p j : Nat) (f : SlabSt → SlabSt) : State := s.modOuter p fun o => { o with slabs := updAt o.slabs j f }

/-- A progress word {round, phase}. -/
def progressWord (r phase : Nat) : Nat := r % 2 ^ 32 * 2 ^ 32 + phase

/-- The progress word of a slab written: copies 0, 1, 2 (R240, R317). -/
def State.setProgress (s : State) (p j w : Nat) : State :=
  s.each [0, 1, 2] fun s k => s.store (progressAddr (((s.part p).outer.cfg).getD 0) j k) (leBytes 8 w) false

/-- The progress word read where its round's work turns on it: a disagreeing copy is rewritten with a CE record, and no two equal copies write a
record (R270, R317). -/
def State.readProgress (s : State) (p j : Nat) (x : SlabSt) : State × Option Nat :=
  match s.progressVote (((s.part p).outer.cfg).getD 0) j with
  | some (w, true) => (s, some w)
  | some (w, false) => ((s.setProgress p j w).raise { recPart p sevCE 0x09 with addr := osWork x.desc }, some w)
  | none => (s.raise { recPart p sevDef 0x0A with addr := osWork x.desc }, none)

/-- Seal records and arrival bitmaps of a slab made empty: none is adopted from what the crucible keeps (R265, R271). -/
def State.clearRecords (s : State) (c j : Nat) : State :=
  s.each [0, 1, 2] fun s k =>
    let s := s.store (sealAddr c k j) (List.replicate 32 0#8) false
    let s := { s with mem := Memory.clear s.mem (bitmapAddr c k 0 j) (1024 * rcIslands c) }
    { s with marks := s.marks.filter fun l => 64 * l < bitmapAddr c k 0 j || bitmapAddr c k 0 j + 1024 * rcIslands c ≤ 64 * l }

/-! ## Boundary work (R243-R245, R267) -/

/-- The residual's values, and its bytes from values (R240). -/
def State.residVals (s : State) (c la n : Nat) : List W32 :=
  if rcResid c = 0 then w32s (s.bytes la (4 * n)) else (w16s (s.bytes la (2 * n))).map fun k => toF32 (fmtBF16.dec k)
def residOf (c : Nat) (l : List W32) : List Byte :=
  if rcResid c = 0 then bytesOf32 l else l.flatMap fun w => leBytes 2 (fmtBF16.enc .rne false (f32 w)).1

/-- v of R243 clamped, and what it counts: non-finite or marked, clamped (R245). -/
def clampV (b v : W32) (mk : Bool) : W32 × Bool × Bool :=
  if mk || !isFinite v then (f32Zero, true, false)
  else let x := clampTo b (f32 v); (x, false, (f32 b).abs.lt (f32 v).abs)

/-- What the work on slab `j` at the boundary that closes round `r` reads: the copies of its progress word, its working values, both snapshots, E, m and
the correction's terms (R240, R243). -/
def State.slabReads (s : State) (p r j : Nat) (x : SlabSt) : List (Nat × Nat) :=
  let o := (s.part p).outer
  let c := (o.governs r).1
  let d := x.desc
  let n := osCount d
  let prev : Option Nat := if x.hasCorr then x.seals.find? fun q => slRound q + 1 == r else none
  ([0, 1, 2].map fun k => (progressAddr (o.cfg.getD 0) j k, 8)) ++
  [(gLocal (osWork d), 2 * n), (gLocal (osSnap d r), 2 * n), (gLocal (osSnap d (r + 1)), 2 * n), (gLocal (osResid d), residBytes c * n)] ++
  (if rcOpt c = 1 then [(gLocal (osMom d), 4 * n)] else []) ++ (match prev with
    | some q => s.corrReads p x j q 0 n
    | none => [])

/-- The whole work on slab `j` at the boundary that closes round `r` (R243). A marked element of m stays marked (R308). -/
def State.slabWork (s : State) (p j r : Nat) (x : SlabSt) : State :=
  let o := (s.part p).outer
  let c := (o.governs r).1
  let d := x.desc
  let n := osCount d
  let fmt := s.slabFmt p x
  let wa := gLocal (osWork d)
  let cur := gLocal (osSnap d r)
  let old := gLocal (osSnap d (r + 1))
  let ea := gLocal (osResid d)
  let ma := gLocal (osMom d)
  let w := s.workVals fmt wa n
  let e := s.residVals c ea n
  let prev : Option Nat := if x.hasCorr then x.seals.find? fun q => slRound q + 1 == r else none
  let cr : List W32 := match prev with
    | some q => (s.corr p x j q fmt 0 n).map (·.1)
    | none => List.replicate n f32Zero
  let mks := (((s.elemMarks wa 2 n).zip (s.elemMarks cur 2 n)).zip ((s.elemMarks old 2 n).zip (s.elemMarks ea (residBytes c) n))).map fun ((a, b), (u, v)) => a || b || u || v
  let mks := if rcOpt c = 1 then (mks.zip (s.elemMarks ma 4 n)).map fun (a, b) => a || b else mks
  let vs : List W32 := ((w.zip (s.workVals fmt cur n)).zip (e.zip cr)).map fun ((a, b), (u, k)) => fsub (fadd (fsub a b) u) k
  let cl : List (W32 × Bool × Bool) := (vs.zip mks).map fun (v, m) => clampV (rcClamp c) v m
  let xs := cl.map (·.1)
  let nf := (cl.filter (·.2.1)).length
  let blks : List (List Byte × Nat) := (chunks 256 xs).map (compressBlock (rcFmt c))
  let s := s.store (termAddr c r (rcOwn c) j) (blks.flatMap (·.1)) false
  let s := s.setProgress p j (progressWord r 1)
  let dec := (blks.flatMap fun b => (decodeBlock (rcFmt c) b.1).1).take n
  let s := s.store ea (residOf c ((xs.zip dec).map fun (a, b) => fsub a (toF32 b))) false
  let s : State := match rcOpt c, prev with
    | 1, some q =>
      let (cq, isl) := o.governs (slRound q)
      let dm : List (W32 × Bool) := s.dmean cq (jpRound0 (s.params p)) isl q j 0 n
      s.saveMarked ma (bytesOf32 (((w32s (s.bytes ma (4 * n))).zip dm).map fun (m, dv, _) => ffma (rcMu cq) m dv)) ((s.elemMarks ma 4 n).flatMap fun b => [b, b, b, b])
    | _, _ => s
  let s := s.saveMarked old (s.bytes wa (2 * n)) (s.byteMarks wa (2 * n))
  let s := (s.setProgress p j (progressWord r 2)).modSlab p j fun y => { y with hasCorr := true }
  let s := ((s.roundCount p rsClamped (cl.filter (·.2.2)).length).roundCount p rsNonfinite nf).roundCount p rsUnderflow (blks.map (·.2)).sum
  if nf = 0 then s else s.raise { recPart p sevDef 0x60 with addr := osWork d, detail := nf }

/-- A slab whose work was interrupted: its staged term stands, E and m become zero, and the snapshot is re-derived from the masters
(R267). -/
def State.slabResume (s : State) (p j r : Nat) (x : SlabSt) : State :=
  let c := (s.roundCfg p).getD 0
  let d := x.desc
  let n := osCount d
  let s := s.store (gLocal (osResid d)) (List.replicate (residBytes c * n) 0#8) false
  let s := if rcOpt c = 1 then s.store (gLocal (osMom d)) (List.replicate (4 * n) 0#8) false else s
  let inSlab := (s.shards p).filter fun k => osWork d ≤ udWork k && udWork k < osWork d + 2 * osCount d
  let s := s.each inSlab fun s k => match s.voteShards p [k] with
    | (s, true) => s.rederive k (s.activeGen k) (gLocal (osSnap d (r + 1)) + (udWork k - osWork d))
    | (s, false) => s
  let s := (s.setProgress p j (progressWord r 2)).modSlab p j fun y => { y with hasCorr := true }
  s.raise { recPart p sevDef 0x60 with addr := osWork d }

/-- The work of one slab by its progress word; no two equal copies are phase 1 (R267, R270). -/
def State.slabBoundary (s : State) (p r : Nat) (found : Found) (j : Nat) : State :=
  match (s.part p).outer.slabs[j]? with
  | none => s
  | some x => match (s.meet (s.slabReads p r j x) found).readProgress p j x with
    | (s, none) => s.slabResume p j r x
    | (s, some w) => if w = progressWord r 2 then s else if w = progressWord r 1 then s.slabResume p j r x else s.slabWork p j r x

/-- Is an island's entry in a mask? -/
def Outer.inMask (o : Outer) (isl mask : Nat) : Bool := (enum o.islands).any fun x => oiIsland x.2 == isl && mask.testBit x.1

/-- Index of an owned slab by its number. -/
def Outer.slabIx (o : Outer) (slab : Nat) : Option Nat := ((enum o.slabs).find? fun x => osSlab x.2.desc == slab).map (·.1)

/-- Staging slots at the end of the boundary work at B(r): slot of round `r - 2` cleared, its segments abandoned, its unmerged terms counted (R256, Table 11-1 row 11). -/
def State.releaseSlot (s : State) (p r : Nat) : State :=
  let o := (s.part p).outer
  match o.cfg with
  | none => s
  | some c =>
    if r < 2 then s
    else
      let old := r - 2
      let nSlab := o.slabs.length
      let merged := fun (isl j : Nat) => (o.slabs[j]?).any fun x => x.seals.any fun q =>
        (slRound q == old && o.inMask isl (slOn q)) || (slRound q == old + 1 && o.inMask isl (slLate q))
      let unm := (o.rxs.filter fun x => x.round == old && (x.doneAt.isSome || x.rejected) && !merged x.isl ((o.slabIx x.slab).getD nSlab)).length
      let s := (s.roundCount p rsTerms unm).roundCount p rsAbandoned (o.outs.filter fun x => x.round ≤ old).length
      let bytes := rcIslands c * rcSlabs c * slabBytes (rcFmt c)
      let base := gLocal (rcStaging c) + (old % 3) * bytes
      let s := { s with mem := Memory.clear s.mem base bytes, marks := s.marks.filter fun k => 64 * k < base || base + bytes ≤ 64 * k }
      let s := s.each (List.range nSlab) fun s j =>
        let s := s.store (sealAddr c old j) (List.replicate 32 0#8) false
        { s with mem := Memory.clear s.mem (bitmapAddr c old 0 j) (1024 * rcIslands c) }
      s.modOuter p fun o => { o with
        rxs := o.rxs.filter fun x => old < x.round, outs := o.outs.filter fun x => old < x.round, acked := o.acked.filter (fun x => old < x.2.2.1), again := o.again.filter fun x => old < x.2.2.1
        slabs := o.slabs.map fun x => { x with seals := x.seals.filter fun q => old < slRound q } }

/-- Pending folds of the round before, as correction-only commits for the step just ended (R260). The record of that step is written: what they give
R96 to count goes to the next step. -/
def State.pendingFolds (s : State) (p st : Nat) : State :=
  if (s.roundCfg p).isNone then s
  else
    let was := (s.part p).run.repro
    let s := s.modRun p fun r => { r with repro := false }
    let s := s.each (s.shards p) fun s d =>
      let rank := match s.genVote d with
        | some (w, _) => sgRank w
        | none => none
      if (s.pendingFold p d st rank).isSome then (s.smithCommit p d st false).1 else s
    s.modRun p fun r => { r with repro := was, reproNext := r.reproNext || r.repro }

/-! ## Seals (R257, R258) -/

/-- Is a term of an island complete: every segment placed, every replica's write acknowledged (R255)? -/
def Outer.complete (o : Outer) (isl slab round : Nat) : Bool :=
  o.rxs.any fun x => x.isl == isl && x.slab == slab && x.round == round && x.doneAt.isSome && x.fwdPend == 0 && !x.rejected

/-- 1 ÷ the exact sum of the weights of a mask, rounded once (Table 11-9). -/
def winvOf (isl : List Nat) (mask : Nat) : W32 :=
  let k := ((enum isl).filter fun x => mask.testBit x.1).foldl (fun a x => a + (match f32 (oiWeight x.2) with | .fin _ m e => m * 2 ^ (e + 149).toNat | _ => 0)) 0
  if k = 0 then f32Zero else f32Sticky false (2 ^ 349 / k) (-200) (2 ^ 349 % k != 0)

/-- Global addresses of the other owners' staging ranges. -/
def State.replicas (s : State) (d : Nat) : List Nat := (chunks 8 (s.bytes (gLocal (osReplicas d)) (8 * osNRep d))).map leNat

/-- Seal records that this partition's staging holds, read by their owner (R258). A marked one is UCE_PART (R270). -/
def State.loadSeals (s : State) (p : Nat) : State :=
  let o := (s.part p).outer
  match o.cfg with
  | none => s
  | some c =>
    s.each (List.range o.slabs.length) fun s j =>
      let l := [0, 1, 2].map fun k => sealAddr c k j
      let good := l.filter fun a => !s.marked a 32 && slOn (s.word a 32) != 0
      let s := s.modSlab p j fun x => { x with seals := good.map fun a => s.word a 32 }
      if l.any fun a => s.marked a 32 then s.raise { recPart p sevPart 0x0A with addr := s.global (sealAddr c 0 j) } else s

/-- One slab sealed for round `rho`, its fold step `st` (R257, R258). -/
def State.writeSealRec (s : State) (p j rho st on late : Nat) (quorum : Bool) : State :=
  let o := (s.part p).outer
  match o.cfg, o.slabs[j]? with
  | some c, some x =>
    let r := mkSeal rho st on late (winvOf (o.governs rho).2 on)
    let s := s.store (sealAddr c rho j) (leBytes 32 r) false
    let s := s.modSlab p j fun y => { y with seals := y.seals.filter (fun q => slRound q != rho) ++ [r] }
    let s := (s.roundCount p rsLate ((List.range 16).filter fun t => late.testBit t).length).roundCount p rsQuorum (b01 quorum)
    let off := sealAddr c rho j - gLocal (rcStaging c)
    let (s, n) := (s.replicas x.desc).foldl (fun (a : State × Nat) g => let (t, k) := a.1.remoteWrite p (g + off) (leBytes 32 r) [] (.seal j); (t, a.2 + k)) (s, 0)
    if n = 0 then s else (s.modSlab p j fun y => { y with sealPend := y.sealPend + n }).hold p .sealAck
  | _, _ => s

/-- The seal test of one owned slab at the boundary before step `st` (R257). -/
def State.sealSlab (s : State) (p st j : Nat) : State :=
  let q := s.part p
  let o := q.outer
  match o.cfg, o.slabs[j]? with
  | some _, some x =>
    let rho := q.run.round - 1
    let (c, isl) := o.governs rho
    if q.run.round = 0 ∨ !osSpeaker x.desc ∨ x.seals.any (fun r => slRound r == rho) ∨ (rho < jpRound0 (s.params p) ∧ o.donor.isNone) then s
    else
      let slab := osSlab x.desc
      let done := fun (t i : Nat) => t == rcOwn c || (oiEnabled i && o.complete (oiIsland i) slab rho)
      let on := ((enum isl).filter fun (t, i) => done t i).foldl (fun a x => a + 2 ^ x.1) 0
      let all := (enum isl).all fun (t, i) => !oiEnabled i || rho < oiFirst i || done t i
      let n := ((enum isl).filter fun (t, i) => done t i).length
      let quorum := rcMerge c ≤ st - q.run.roundStep && rcQuorum c ≤ n
      if !all && !quorum then s
      else
        let prev := x.seals.find? fun r => slRound r + 1 == rho
        let late := match prev with
          | some r => ((enum isl).filter fun (t, i) => t != rcOwn c && oiEnabled i && !(slOn r).testBit t && o.complete (oiIsland i) slab (rho - 1)).foldl (fun a x => a + 2 ^ x.1) 0
          | none => 0
        s.writeSealRec p j rho st on late (!all)
  | _, _ => s

/-- The seal test of every owned slab at the boundary before step `st`. -/
def State.sealTest (s : State) (p st : Nat) : State := s.each (List.range (s.part p).outer.slabs.length) fun s j => s.sealSlab p st j

/-- While the end of a round is held, a term that becomes complete is tested at once (R257, R262). -/
def State.heldTest (s : State) (p : Nat) : State := if (s.part p).run.holds.contains .roundWord then s.sealTest p (s.part p).run.step else s

/-- Bytes that another owner has written: seal records among them are held from then on (R258). -/
def State.sealsLanded (s : State) (p la n : Nat) : State := match (s.part p).outer.cfg with
  | some c => if sealAddr c 0 0 < la + n && la < roundWordAddr c 0 then s.loadSeals p else s
  | none => s

/-! ## Round words (R261, R262, R264) -/

/-- The coordinator's round words for the rounds given, each {round, 0}. -/
def State.initWords (s : State) (p : Nat) (rounds : List Nat) : State :=
  match s.roundCfg p with
  | some c => if s.isCoordinator p then s.each rounds fun s k => s.store (roundWordAddr c k) (leBytes 8 (k * 2 ^ 32)) false else s
  | none => s

/-- Members of the island's flag group. -/
def State.islandSize (s : State) (p : Nat) : Nat := match s.flagGroup p with
  | some g => cgN g
  | none => 1

/-- Does a round word read {round, n}? -/
def State.wordFull (s : State) (p w rho : Nat) : Bool := w == rho * 2 ^ 32 + s.islandSize p

/-- The coordinator's round word, by global address: at the local address of this member's own configuration (log entry 28). -/
def State.wordAt (s : State) (p c rho : Nat) : Nat := (((s.part p).fab.coordinator).getD s.moduleId) * 2 ^ 44 + roundWordAddr c rho

/-- Where a member finds the round word of a round: one that owns no slab, and so has no configuration, knows the place of the words from outside the
spec, if its island takes part in an exchange (R261; DESIGN CHOICE, log entry 132). -/
def State.wordPlace (s : State) (p rho : Nat) : Option Nat := match (s.part p).outer.cfg with
  | some c => some (s.wordAt p c rho)
  | none => (Config.roundWords p).map fun a => (((s.part p).fab.coordinator).getD s.moduleId) * 2 ^ 44 + a % 2 ^ 44 + 8 * (rho % 3)

/-- The hold on a round word ends, its length counted (R269). -/
def State.wordReleased (s : State) (p : Nat) : State :=
  (s.roundCount p rsHold (s.tick - (s.part p).run.holdFrom)).unhold p .roundWord

/-- Does the partition hold the seal of a round for every owned slab? -/
def Outer.allSealed (o : Outer) (rho : Nat) : Bool := o.slabs.all fun x => x.seals.any fun r => slRound r == rho

/-- The word of the round whose end the partition waits for. -/
def Run.waitRound (r : Run) : Nat := r.round - 1

/-- The boundary after step (rho + 2)H - 2: the partition waits for the round word (R261). -/
def State.wordHold (s : State) (p : Nat) : State :=
  let q := s.part p
  if q.run.step = q.run.roundStep + s.roundLen p - 1 ∧ 0 < q.run.round ∧ (jpRound0 (s.params p) < q.run.round ∨ q.outer.donor.isSome) then
    if (s.wordPlace p q.run.waitRound).isSome then (s.hold p .roundWord).modRun p fun r => { r with holdFrom := s.tick, holdTick := s.tick } else s
  else s

/-! ## `ROUND_REC` (R269) -/

/-- Largest srtt held, in microseconds. -/
def Outer.srttMax (o : Outer) : Nat := (o.dests.map fun d => d.srtt / 100).foldl max 0

def State.roundRec (s : State) (p r : Nat) : State :=
  let o := (s.part p).outer
  if o.cfg.isNone then s
  else
    let s := s.recordPart p 6 4 (pack [(32, r), (32, o.stat rsSent 32), (32, o.stat rsResent 32), (16, o.stat rsProbes 16), (16, o.stat rsReseeds 16), (32, o.stat rsRejected 32),
      (16, o.stat rsEarly 16), (16, o.stat rsAbandoned 16), (16, o.stat rsLate 16), (16, o.stat rsTerms 16), (32, o.stat rsClamped 32), (32, o.stat rsNonfinite 32),
      (32, satTo 32 o.srttMax), (32, o.stat rsHold 32), (16, o.stat rsQuorum 16), (144, 0)])
    s.modOuter p fun o => { o with stats := [] }

end Sys2Proof.Machine
end

