-- ==== Sys2Proof/Machine/Manifest.lean ====
section
/-! DEFINITION. Job manifests: parsing, the checks of every array, ingot parts, and what loading a job sets (R29, R51, R52, R102, R122, R140,
R151, R152, R158, R159, R162, R167, R171, R179-R181, R185, R207, R210, R230, R240, R341). -/

namespace Sys2Proof.Machine

/-! ## The manifest (R341, Table 15-6) -/

/-- Bytes of one structure of a manifest kind. -/
def kindBytes (k : Nat) : Nat :=
  if k = 0x02 ∨ k = 0x09 then 64 else if k = 0x03 then 12 else if k = 0x04 ∨ k = 0x05 ∨ k = 0x07 ∨ (0x0A ≤ k ∧ k ≤ 0x0C) then 32 else if k = 0x0F ∨ k = 0x10 then 8 else 16

/-- The count that a kind fixes; none where it is free. -/
def kindCount (k : Nat) : Option Nat := if k = 0x01 then some 3 else if [0x02, 0x03, 0x07, 0x0D, 0x0E].contains k then some 1 else if k = 0x10 then some 16 else none

/-- Kinds that a LAYOUT.SET may carry. -/
def layoutKinds : List Nat := [0x05, 0x06, 0x09, 0x0A, 0x0B, 0x0C, 0x0D, 0x10]

/-- A manifest read: kind and structures of each entry. -/
abbrev Manifest := List (Nat × List Nat)

def Manifest.get (m : Manifest) (k : Nat) : List Nat := assocGet k [] m
def Manifest.has (m : Manifest) (k : Nat) : Bool := m.any fun x => x.1 == k
/-- The structures of a kind, or those in force where the manifest does not carry it. -/
def Manifest.orElse (m : Manifest) (k : Nat) (d : List Nat) : List Nat := if m.has k then m.get k else d

/-- An array of structures in own HBM, read; none outside it or with a mark. -/
def State.readArray (s : State) (p g k n : Nat) : Option (List Nat) :=
  if n = 0 then some []
  else if !s.ownRange p g (k * n) [0] || s.marked (gLocal g) (k * n) then none
  else some ((chunks k (s.bytes (gLocal g) (k * n))).map leNat)

/-- The manifest at a global address: header, entries, arrays, no kind twice. -/
def State.readManifest (s : State) (p g : Nat) : Option Manifest :=
  if g % 16 ≠ 0 then none
  else match s.readArray p g 16 1 with
    | some [h] =>
      if bits h 127 96 ≠ 0x4E414D4A ∨ bits h 95 80 ≠ 1 ∨ bits h 63 0 ≠ 0 then none
      else match s.readArray p (g + 16) 16 (bits h 79 64) with
        | none => none
        | some es =>
          let ks := es.map fun e => bits e 127 112
          if ks.eraseDups.length ≠ ks.length then none
          else es.mapM fun e =>
            let k := bits e 127 112
            let n := bits e 95 64
            if k = 0 ∨ 0x10 < k ∨ bits e 111 96 ≠ 0 ∨ ((kindCount k).any fun c => c != n) then none
            else (s.readArray p (bits e 63 0) (kindBytes k) n).map fun l => (k, l)
    | _ => none

/-! ## Ranges -/

/-- Pairwise disjoint ranges (start, bytes); empty ones count for nothing. -/
def apart (l : List (Nat × Nat)) : Bool :=
  let t := sortBy (·.1) (l.filter fun x => x.2 != 0)
  (t.zip (t.drop 1)).all fun (a, b) => a.1 + a.2 ≤ b.1

/-- Does a range meet any of a list? Empty ones meet nothing. -/
def meets (x : Nat × Nat) (l : List (Nat × Nat)) : Bool := x.2 != 0 && l.any fun y => y.2 != 0 && x.1 < y.1 + y.2 && y.1 < x.1 + x.2

/-- Does no range of one list meet a range of another of the lists? -/
def eachApart : List (List (Nat × Nat)) → Bool
  | [] => true
  | a :: l => l.all (fun b => a.all fun x => !meets x b) && eachApart l

/-- Local ranges of a shard's state and working copy. -/
def shardRanges (d : Nat) : List (Nat × Nat) :=
  [(udBase d 0, udEnd d), (udBase d 1, udEnd d), (gLocal (udWork d), 2 * udCount d)] ++ [0, 1, 2].map fun k => (genAddr d k, 8)

/-- Local ranges of an arena: pool and own homes. -/
def arenaRanges (a : Nat) : List (Nat × Nat) := [(localAddr 0 (saPool0 a * frameBytes), saPool a * frameBytes), (2 ^ 41 + saHome0 a * frameBytes, saHomes a * frameBytes)]

/-- Local ranges lent, and local mirror ranges. -/
def lentRanges (l : List Nat) : List (Nat × Nat) := (l.filter slLent).map fun x => (gLocal (slBase x), slFrames x * frameBytes)
def mirrorRanges (l : List Nat) : List (Nat × Nat) := (l.filter fun m => mdRole m != 0).map fun m => (gLocal (mdBase m), mdBytes m)

/-- Local ranges of an outer slab: arrays in the crucible. -/
def slabRanges (c d : Nat) : List (Nat × Nat) :=
  [(gLocal (osResid d), residBytes c * osCount d), (gLocal (osSnap d 0), 2 * osCount d), (gLocal (osSnap d 1), 2 * osCount d)] ++
    (if rcOpt c = 1 then [(gLocal (osMom d), 4 * osCount d)] else [])

def igDest (i : Nat) : Nat := bits i 255 192
def igStage (i : Nat) : Nat := bits i 191 128
def igInterval (i : Nat) : Nat := bits i 127 96
def igFirst (i : Nat) : Nat := bits i 95 48
def igPages (i : Nat) : Nat := bits i 47 18
def igMoments (i : Nat) : Bool := bit i 17
def ingotRange (i : Nat) : Nat × Nat := (gLocal (igStage i), 4096 * igPages i)

/-- Declared state of a job: shards, arena, lent ranges, mirrors, slots of its consumer ends, staging. -/
def Job.ranges (j : Job) (actqs : List Nat) : List (Nat × Nat) :=
  j.shards.flatMap shardRanges ++ (match j.arena with | some a => arenaRanges a | none => []) ++ lentRanges j.lends ++ mirrorRanges j.mirrors ++
    ((actqs.filter aqConsumer).map fun d => (gLocal (aqBase d), aqPages d * 4096 * aqCount d)) ++ [(gLocal j.staging.1, j.staging.2)]

/-- Declared state of the outer engine. -/
def Outer.ranges (o : Outer) : List (Nat × Nat) := match o.cfg with
  | some c => (gLocal (rcStaging c), stagingBytes c) :: o.slabs.flatMap fun x => slabRanges c x.desc
  | none => []

/-! ## Checks of the arrays -/

/-- `JOB_PARAMS` (Table 15-7). -/
def paramsOk (j : Nat) : Bool :=
  bits j 351 332 ≤ 600000 && bits j 331 318 ≤ 10000 && 1 ≤ jpAccLo j && jpAccLo j ≤ jpAccHi j && jpAccLo j ≤ jpAcc j && jpAcc j ≤ jpAccHi j &&
  (bits j 269 263 == 0 || (64 ≤ bits j 269 263 && bits j 269 263 ≤ 110)) && bits j 262 259 ≤ 8 &&
  (bits j 257 241 == 0 || (16 ≤ bits j 257 241 && bits j 257 241 ≤ 65536)) && bits j 240 0 == 0

/-- `TEMPER_OWN` (Table 05-2): the masks are disjoint. -/
def ownOk (w : Nat) : Bool :=
  let a := bits w 27 0
  let b := bits w 55 28
  let c := bits w 83 56
  bits w 95 84 == 0 && a &&& b == 0 && a &&& c == 0 && b &&& c == 0

/-- The other end of a queue, as this end's descriptor implies it; the kind must agree as well (DESIGN CHOICE, log entry 112). -/
def aqMatches (d e : Nat) : Bool := aqBase d == aqBase e && aqPages d == aqPages e && aqCount d == aqCount e && aqId d == aqId e && aqKind d == aqKind e && aqConsumer d != aqConsumer e

/-- `ACTQ_DESC` (R52): ranges, the slots in the consumer's HBM, another partition at the other end, and that end where a partition of this module
holds it. -/
def State.actqOk (s : State) (p d : Nat) : Bool :=
  let n := aqPages d * 4096 * aqCount d
  1 ≤ aqPages d && 1 ≤ aqCount d && aqCount d ≤ 1024 && bits d 111 0 == 0 && aqBase d % 4096 == 0 &&
  (if aqConsumer d then s.ownRange p (aqBase d) n [0]
   else gSpace (aqBase d) == 0 && gModule (aqBase d) == aqMod d && s.remotePart p (aqBase d) n == some (aqPart d)) &&
  (aqMod d != s.moduleId || (aqPart d != p && aqPart d < s.nparts)) &&
  (aqMod d != s.moduleId || (s.part (aqPart d)).job.isNone ||
    (s.part (aqPart d)).actqs.any fun x => aqMatches d x.desc && aqMod x.desc == s.moduleId && aqPart x.desc == p)

/-- The ends of a job: unique identifiers, slot ranges apart, and no end of a loaded sibling without its counterpart here (R52). -/
def State.actqsOk (s : State) (p : Nat) (l : List Nat) : Bool :=
  l.length ≤ 256 && (l.map aqId).eraseDups.length == l.length && l.all (s.actqOk p) && apart (l.map fun d => (aqBase d, aqPages d * 4096 * aqCount d)) &&
  (List.range s.nparts).all fun q => q == p || (s.part q).job.isNone || ((s.part q).actqs.filter fun x => aqMod x.desc == s.moduleId && aqPart x.desc == p).all fun x =>
    l.any fun d => aqMatches d x.desc && aqMod d == s.moduleId && aqPart d == q

/-- `SCALE_TRACK` and `SCALE_HIST` (R122, R140). -/
def tracksOk (l : List Nat) : Bool := l.length ≤ 4096 && (l.map trTensor).eraseDups.length == l.length && l.all trackOk
def histsOk (tracks l : List Nat) : Bool := l.all fun h => bits h 15 0 == 0 && (match tracks.find? (fun c => trTensor c == histTensor h) with
  | some c => decide (fmtLo (trFmt c) ≤ histE h) && decide (histE h ≤ fmtHi (trFmt c))
  | none => false)

/-- Tracking entries from descriptors and supplied histories. -/
def tracksOf (l hists : List Nat) : List Track := l.map fun c => match hists.find? (fun h => histTensor h == trTensor c) with
  | some h => (Track.fresh c).withHist h
  | none => Track.fresh c

/-- `SPILL_LEND` (R151, R152): a borrowed range lies on another module, a lent one in own memory. -/
def State.lendOk (s : State) (p l : Nat) : Bool :=
  bits l 20 0 == 0 && 1 ≤ slFrames l && slBase l % frameBytes == 0 && gSpace (slBase l) ≤ 2 &&
  (if slLent l then s.ownRange p (slBase l) (slFrames l * frameBytes) [0, 1, 2] else gModule (slBase l) != s.moduleId && gModule (slBase l) == slMod l)

/-- Does a slot of the partition hold an XTS key? -/
def State.xtsSlot (s : State) (p k : Nat) : Bool :=
  slotPart s.nparts k == p && swMode (s.slot k).word == 1 && [1, 2, 3].contains (s.slot k).state

/-- `SPILL_ARENA` (R151). -/
def State.arenaOk (s : State) (p a : Nat) (lends : List Nat) : Bool :=
  let declared := saHomes a != 0 || lends.any fun l => !slLent l
  bits a 82 0 == 0 && (saPool a == 0 || 64 ≤ saPool a) && (!declared || 64 ≤ saPool a) &&
  (saPool a == 0 || s.ownRange p (s.global (localAddr 0 (saPool0 a * frameBytes))) (saPool a * frameBytes) [0]) &&
  (saHomes a == 0 || (saHome0 a + saHomes a ≤ 2 ^ 21 &&
    (2 ^ 42 / s.nparts / frameBytes * p ≤ saHome0 a && saHome0 a + saHomes a ≤ 2 ^ 42 / s.nparts / frameBytes * (p + 1)))) &&
  (if saLends a = 0 then saList a == 0 else saList a % 16 == 0 && s.ownRange p (saList a) (16 * saLends a) [0]) &&
  (!saXts a || (s.xtsSlot p (saKey a) && s.xtsSlot p (saKeyAlt a)))

/-- Lend entries of a manifest: its own array, and the list that the arena names (R151). -/
def State.lendsOf (s : State) (p : Nat) (m : Manifest) : Option (List Nat) :=
  match m.get 0x07 with
  | a :: _ => (s.readArray p (saList a) 16 (saLends a)).map fun l => (l ++ m.get 0x08).eraseDups
  | [] => some (m.get 0x08)

/-- `OPT_PARAMS` (R162). -/
def State.optOk (s : State) (p o : Nat) : Bool :=
  let unit := fun (w : W32) => (f32 f32Zero).le (f32 w) && (f32 w).lt (f32 f32One)
  let pos := fun (w : W32) => isFinite w && (f32 f32Zero).le (f32 w)
  unit (opBeta1 o) && unit (opBeta2 o) && pos (opEps o) && pos (opWd o) && 1 ≤ opLen o && opSched o % 4 == 0 && s.ownRange p (opSched o) (4 * opLen o) [0]

/-- The shard list and its parameters (R159, R162, R163). -/
def State.shardsOk (s : State) (p : Nat) (l opts tracks : List Nat) : Bool :=
  l.length ≤ 65536 && opts.length ≤ 256 && opts.all (s.optOk p) && eachApart (l.map shardRanges) &&
  l.all fun d =>
    udOk d && s.ownRange p (udState d) (udStride d + udEnd d) [1, 2] && s.ownRange p (udGen d) 8200 [1, 2] &&
    s.ownRange p (udWork d) (2 * udCount d) [0] && s.ownRange p (udGrad d) (4 * udCount d) [0] &&
    udSet d < opts.length && (udKind d == 0 || !isZero (opEps (opts.getD (udSet d) 0))) &&
    (udCount d % 512 == 0 || l.all fun e => udTensor e != udTensor d || udElem e ≤ udElem d) &&
    (match tracks.find? (fun c => trTensor c == udTensor d) with | some c => trDomain c == 0 | none => true)

/-- `MIRROR_DESC` (R171): the pairings of a job with shards, and their ranges apart from other state. -/
def State.mirrorsOk (s : State) (p : Nat) (l shards : List Nat) (other : List (Nat × Nat)) : Bool :=
  let of := fun (k : Nat) => l.filter fun m => mdRole m == k
  l.all (fun m => bits m 127 0 == 0 && mdRole m != 3 && mdBytes m % 4096 == 0 && mdBase m % 4096 == 0 && (gSpace (mdBase m) == 1 || gSpace (mdBase m) == 2) &&
    (if mdRole m = 2 then mdMod m == 0 else mdMod m != s.moduleId) &&
    (if mdRole m = 0 then gModule (mdBase m) == mdMod m else s.ownRange p (mdBase m) (mdBytes m) [1, 2]) &&
    (mdRole m == 1 || imageSize shards ≤ mdBytes m)) &&
  (if shards.isEmpty then (of 0).length ≤ 1 && (of 1).length ≤ 1 else (of 0).length == 1 && (of 1).length == 1) && (of 2).length ≤ 1 &&
  apart (mirrorRanges l) && (mirrorRanges l).all fun x => !meets x other

/-- `COLL_GROUP` (R185): ranges, and a member list in own HBM that names no member twice. -/
def State.groupOk (s : State) (p g : Nat) : Bool :=
  cgOk g && (match s.readArray p (cgList g) 4 (cgN g) with
    | some l => l.all (fun w => bits w 9 0 == 0) && l.eraseDups.length == l.length
    | none => false)
def State.groupsOk (s : State) (p : Nat) (l : List Nat) : Bool := l.length ≤ 64 && (l.map cgId).eraseDups.length == l.length && l.all (s.groupOk p)

/-- Collective staging: in own HBM, holding the flag-root reservations and 128 KiB (R210). -/
def State.stagingOk (s : State) (p : Nat) (g : Nat × Nat) (groups : List Nat) : Bool :=
  (groups.isEmpty && g.2 == 0) ||
  (s.ownRange p g.1 g.2 [0] && ((groups.filter fun k => cgRank k == 0).map fun k => 136 * cgN k).sum + 131072 ≤ g.2)

def stagingOf (w : Nat) : Nat × Nat := (bits w 63 0, bits w 127 64)

/-- `NOISE_CFG` (Table 09-11). -/
def nzDecay (n : Nat) : W32 := BitVec.ofNat 32 (bits n 127 96)
def nzMin (n : Nat) : Nat := bits n 95 80
def nzMax (n : Nat) : Nat := bits n 79 64
def nzSamples (n : Nat) : Nat := bits n 63 32
def nzSteer (n : Nat) : Bool := bit n 31
def nzOn (n : Nat) : Bool := bit n 30
/-- `NOISE_CFG` (Table 09-11). Both bounds of its own lie within the job's; of acc_min no rule says it (DESIGN CHOICE, log entry 127). -/
def noiseOk (params n : Nat) : Bool :=
  (f32 0x3F000000#32).le (f32 (nzDecay n)) && (f32 (nzDecay n)).le (f32 f32One) && 1 ≤ nzMin n && nzMin n ≤ nzMax n && jpAccLo params ≤ nzMin n && nzMax n ≤ jpAccHi params &&
  1 ≤ nzSamples n && bits n 29 0 == 0

/-- `ROUTE_MAP` (Table 10-7). -/
def mapOk (m : Nat) : Bool := bits m 63 56 != 0 && bits m 54 0 == 0

/-! ## Ingot parts (R179, R181) -/

/-- `INGOT_HDR` (Table 08-11). -/
def ihStep (h : Nat) : Nat := bits h 471 424
def ihIsland (h : Nat) : Nat := bits h 353 341
def ihSections (h : Nat) : Nat := bits h 302 286
def ihFmt (h : Nat) : Nat := bits h 285 282
def ihMoments (h : Nat) : Bool := bit h 281
def ihSlag (h : Nat) : Nat := bits h 280 249
def mkIngotHdr (step round epoch m q island part parts sections fmt : Nat) (moments : Bool) (slag : Nat) : Nat :=
  pack [(32, 0x4F474E49), (8, 1), (48, step), (32, round), (16, epoch), (20, m), (2, q), (13, island), (19, part), (19, parts), (17, sections), (4, fmt), (1, b01 moments), (32, slag), (249, 0)]

/-- `INGOT_SECT` (Table 08-12). -/
def isType (x : Nat) : Nat := bits x 255 252
def isTensor (x : Nat) : Nat := bits x 251 236
def isElem (x : Nat) : Nat := bits x 235 196
def isCount (x : Nat) : Nat := bits x 195 164
def isCols (x : Nat) : Nat := bits x 163 144
def isKind (x : Nat) : Nat := bits x 143 142
def isOff (x : Nat) : Nat := bits x 141 102
def isLen (x : Nat) : Nat := bits x 101 62
def mkIngotSect (type tensor elem count cols kind off len : Nat) : Nat :=
  pack [(4, type), (16, tensor), (40, elem), (32, count), (20, cols), (2, kind), (40, off), (40, len), (62, 0)]

/-- Data bytes of a shard section: working values, then moments, ρ and κ in BF16 (R179). -/
def sectBytes (kind count cols : Nat) (moments : Bool) : Nat :=
  2 * count + (if moments then (if kind = 1 then 0 else 2 * count) + (if kind = 0 ∨ cols = 0 then 0 else 2 * (count / cols) + 2 * cols) else 0)

/-- A part read from its address: header and section table; none where its form, its length or its trailer is wrong, a line is
marked, or it was sent with slag lines (R180, R181). -/
def State.readPart (s : State) (p g : Nat) : Option (Nat × List Nat) :=
  let la := gLocal g
  if !s.ownRange p g 64 [0, 1, 2] then none
  else
    let h := s.word la 64
    let n := ihSections h
    if bits h 511 480 ≠ 0x4F474E49 ∨ bits h 479 472 ≠ 1 ∨ bits h 248 0 ≠ 0 ∨ ihSlag h ≠ 0 ∨ !s.ownRange p g (64 + 32 * n + 32) [0, 1, 2] then none
    else
      let secs := (chunks 32 (s.bytes (la + 64) (32 * n))).map leNat
      let stop := secs.foldl (fun a x => max a (isOff x + isLen x)) (64 + 32 * n)
      let ok := s.ownRange p g (stop + 32) [0, 1, 2] && !s.marked la (stop + 32) &&
        secs.all (fun x => isOff x % 64 == 0 && bits x 61 0 == 0 && (isType x == 1 || (isType x == 0 && isLen x == sectBytes (isKind x) (isCount x) (isCols x) (ihMoments h)))) &&
        s.bytes (la + stop) 32 == shake256 (s.bytes la stop) 32
      if ok then some (h, secs) else none

/-- A shard section with its part's local address and header. -/
structure Sect where
  base : Nat
  hdr : Nat
  sec : Nat

/-- All shard sections of a restart, of parts of one step; none where a part does not pass (R181). -/
def State.readIngot (s : State) (p : Nat) (parts : List Nat) : Option (List Sect) :=
  match parts.mapM fun g => (s.readPart p g).map fun x => (g, x) with
  | none => none
  | some l =>
    if (l.map fun x => ihStep x.2.1).eraseDups.length ≠ 1 then none
    else some (l.flatMap fun (g, h, secs) => (secs.filter fun x => isType x == 0).map fun x => ⟨gLocal g, h, x⟩)

/-- Sections that meet a shard. -/
def sectsFor (l : List Sect) (d : Nat) : List Sect :=
  l.filter fun x => isTensor x.sec == udTensor d && isElem x.sec < udElem d + udCount d && udElem d < isElem x.sec + isCount x.sec

/-- Is every element of the shard covered exactly once (R181)? -/
def covers (l : List Sect) (d : Nat) : Bool :=
  let t := sortBy (fun x => isElem x.sec) (sectsFor l d)
  let stop := t.foldl (fun (a : Option Nat) x => match a with
    | some k => if max (isElem x.sec) (udElem d) = k then some (isElem x.sec + isCount x.sec) else none
    | none => none) (some (udElem d))
  (match stop with | some k => decide (udElem d + udCount d ≤ k) | none => false) && t.all fun x => ihFmt x.hdr == udFmt d

/-- BF16 codes widened. -/
def widen16 (l : List Nat) : List W32 := l.map fun c => toF32 (fmtBF16.dec c)

/-- Elements of a section's array that the shard takes, and where they lie in the shard: (first element of the shard, codes). -/
def State.sectSlice (s : State) (x : Sect) (d arr : Nat) : Nat × List Nat :=
  let lo := max (isElem x.sec) (udElem d)
  let hi := min (isElem x.sec + isCount x.sec) (udElem d + udCount d)
  (lo - udElem d, w16s (s.bytes (x.base + isOff x.sec + 2 * (arr * isCount x.sec + (lo - isElem x.sec))) (2 * (hi - lo))))

/-- BF16 code `k` behind the working values and moments of a section with ρ and κ: ρ by row, then κ by column. -/
def State.sectStat (s : State) (x : Sect) (k : Nat) : W32 :=
  let n := isCount x.sec
  toF32 (fmtBF16.dec (s.word (x.base + isOff x.sec + 2 * (n + (if isKind x.sec = 1 then 0 else n) + k)) 2))

/-- The section that holds a row's first element, with that row in it; none where no section with ρ, κ and the shard's columns does. -/
def rowSect (l : List Sect) (d e : Nat) : Option (Sect × Nat) :=
  (l.find? fun x => ihMoments x.hdr && isKind x.sec != 0 && isCols x.sec == udCols d && 0 < udCols d && isElem x.sec ≤ e && e < isElem x.sec + isCount x.sec &&
    (e - isElem x.sec) % udCols d == 0).map fun x => (x, (e - isElem x.sec) / udCols d)

/-- ρ of the shard's rows, each from the section that holds the row; zero where the ingot carries none (R181). -/
def State.sectRho (s : State) (l : List Sect) (d : Nat) : List W32 :=
  (List.range (udRows d)).map fun i => match rowSect l d (udElem d + i * udCols d) with
    | some (x, r) => s.sectStat x r
    | none => f32Zero

/-- κ of the shard's columns, from the section that holds its first row (log entry 106); zero where the ingot carries none (R181). -/
def State.sectKap (s : State) (l : List Sect) (d : Nat) : List W32 :=
  (List.range (udCols d)).map fun j => match rowSect l d (udElem d) with
    | some (x, _) => s.sectStat x (isCount x.sec / udCols d + j)
    | none => f32Zero

/-- One shard restored from sections: masters, moments, both generations, its word and its working copy (R181). -/
def State.restart (s : State) (d step : Nat) (l : List Sect) : State :=
  let l := sortBy (fun x => isElem x.sec) (sectsFor l d)
  let codes := (l.map fun x => (s.sectSlice x d 0).2).flatten
  let ws := codes.map fun c => toF32 ((fmtOf (udFmt d)).dec c)
  let ms := (l.map fun x =>
    let n := (s.sectSlice x d 0).2.length
    if ihMoments x.hdr && isKind x.sec != 1 && udKind d != 1 then widen16 (s.sectSlice x d 1).2 else List.replicate n f32Zero).flatten
  let rho := s.sectRho l d
  let kap := s.sectKap l d
  let put := fun (s : State) (g : Nat) =>
    let b := udBase d g
    let s := s.store b (joinRecs (udKind d) ws ms) false
    if udKind d = 0 then s else (s.store (b + udRho d) (bytesOf32 rho) false).store (b + udKap d) (bytesOf32 kap) false
  ((put (put s 0) 1).writeGen d (mkGen step 0 false)).writeWork d codes

/-! ## Outer state at load (R240, R263) -/

/-- Outer state of every owned slab at the opening of the current round: S is the working copy, E and m are 0, no seal pending. -/
def State.initOuter (s : State) (p : Nat) : State :=
  match (s.part p).outer.cfg with
  | none => s
  | some c =>
    let rho := (s.part p).run.round
    let s := s.each (List.range (s.part p).outer.slabs.length) fun s j =>
      match (s.part p).outer.slabs[j]? with
      | none => s
      | some x =>
        let d := x.desc
        let n := osCount d
        let w := gLocal (osWork d)
        let s := s.saveMarked (gLocal (osSnap d rho)) (s.bytes w (2 * n)) (s.byteMarks w (2 * n))
        let s := s.store (gLocal (osResid d)) (List.replicate (residBytes c * n) 0#8) false
        let s := if rcOpt c = 1 then s.store (gLocal (osMom d)) (List.replicate (4 * n) 0#8) false else s
        ((s.clearRecords c j).setProgress p j 0).modSlab p j fun y => { y with hasCorr := false, seals := [], sealPend := 0, noted := none, since := 0 }
    s.initWords p [rho - 1, rho, rho + 1]

/-! ## JOB.LOAD (R51, R158, R167, R341) -/

/-- Layers that the words of three programs name (Table 02-1): layer_count (R55; log entry 95). -/
def State.layerCount (s : State) (streams : List (Nat × Nat)) : Nat :=
  (streams.flatMap fun (e, n) => (List.range n).map fun i => siLayer (s.word (gLocal e + 16 * i) 16)).eraseDups.length

/-- The job that a manifest describes; none where a check fails. -/
def State.jobOf (s : State) (p : Nat) (m : Manifest) : Option Job :=
  match m.get 0x01, m.get 0x02, s.lendsOf p m with
  | [a, b, c], [params], some lends =>
    let streams := [a, b, c].map fun x => (bits x 63 0, bits x 95 64)
    let own := (m.get 0x03).headD 0xF000000_0FFF000_0000FFF
    let j : Job := { streams := streams, params := params, own := own, arena := (m.get 0x07).head?, lends := lends, shards := m.get 0x09, opts := m.get 0x0A
                     mirrors := m.get 0x0B, groups := m.get 0x0C, staging := stagingOf ((m.get 0x0D).headD 0), noise := (m.get 0x0E).head? }
    let ok := [a, b, c].all (fun x => bits x 127 96 == 0 && (bits x 95 64 == 0 || s.ownRange p (bits x 63 0) (16 * bits x 95 64) [0])) && paramsOk params && ownOk own &&
      s.actqsOk p (m.get 0x04) && tracksOk (m.get 0x05) && histsOk (m.get 0x05) (m.get 0x06) && lends.all (s.lendOk p) && lends.length ≤ 510 &&
      (match j.arena with | some a => s.arenaOk p a lends | none => lends.all slLent) &&
      apart ((match j.arena with | some a => arenaRanges a | none => []) ++ lentRanges lends) && apart ((lends.filter fun l => !slLent l).map fun l => (slBase l, slFrames l * frameBytes)) &&
      s.shardsOk p j.shards j.opts (m.get 0x05) && s.mirrorsOk p j.mirrors j.shards (({ j with mirrors := [] } : Job).ranges (m.get 0x04) ++ (s.part p).outer.ranges) &&
      s.groupsOk p j.groups && s.stagingOk p j.staging j.groups && (match j.noise with | some n => noiseOk params n | none => true) && (m.get 0x10).all mapOk
    if ok then some { j with layers := s.layerCount streams } else none
  | _, _, _ => none

/-- The route maps of a manifest put into force (R230). -/
def Fabric.withMaps (f : Fabric) (l : List Nat) : Fabric := if l.isEmpty then f else let g := f.update id; { g with maps := updAt g.maps g.activeBank fun _ => l }

/-- A job that has passed its checks is loaded: the partition stays READY (R51). -/
def State.installJob (s : State) (p : Nat) (m : Manifest) (j : Job) (ing : Option (Nat × List Sect)) : State :=
  let s := s.modPart p fun q => { q with
    job := some j
    run := { step := jpStep0 j.params, round := jpRound0 j.params, epoch := jpEpoch0 j.params, acc := jpAcc j.params, accStep := jpAcc j.params, roundStep := jpStep0 j.params, nextInsn := q.run.nextInsn }
    actqs := (m.get 0x04).map fun d => ActQ.fresh d 0 0
    arena := { free := (j.arena.map saPool).getD 0 }
    pyro := Pyro.snap { tracks := tracksOf (m.get 0x05) (m.get 0x06) }
    coll := { accNext := jpAcc j.params }
    fab := q.fab.withMaps (m.get 0x10) }
  let s := match ing with
    | some (step, l) => (s.each j.shards fun s d => s.restart d step l).modOuter p fun o => { o with donor := (l.head?).map fun (x : Sect) => ihIsland x.hdr }
    | none => s.each j.shards fun s d => s.writeGen d (mkGen 0 0 true)
  s.initOuter p

/-- A manifest at an address loaded for a partition: none where it is REJECTED. -/
def State.loadJob (s : State) (p g : Nat) : Option State :=
  match s.readManifest p g with
  | none => none
  | some m => match s.jobOf p m with
    | none => none
    | some j =>
      if !m.has 0x0F then some (s.installJob p m j none)
      else match s.readIngot p (m.get 0x0F) with
        | none => none
        | some l => if j.shards.all (covers l) then some (s.installJob p m j (some ((l.head?.map fun (x : Sect) => ihStep x.hdr).getD 0, l))) else none

/-! ## LAYOUT.SET (R137, R140, R205) -/

/-- The job under a layout manifest, with its tracking descriptors; none where a check fails. -/
def State.layoutOf (s : State) (p : Nat) (m : Manifest) : Option (Job × List Nat) :=
  match (s.part p).job with
  | none => none
  | some j =>
    let tracks := m.orElse 0x05 ((s.part p).pyro.tracks.map fun t => t.cfg)
    let k : Job := { j with shards := m.orElse 0x09 j.shards, opts := m.orElse 0x0A j.opts, mirrors := m.orElse 0x0B j.mirrors, groups := m.orElse 0x0C j.groups
                            staging := match m.get 0x0D with | w :: _ => stagingOf w | [] => j.staging }
    let aq := (s.part p).actqs.map (·.desc)
    let ok := m.all (fun x => layoutKinds.contains x.1) && tracksOk tracks && histsOk tracks (m.get 0x06) && s.shardsOk p k.shards k.opts tracks &&
      s.mirrorsOk p k.mirrors k.shards (({ k with mirrors := [] } : Job).ranges aq ++ (s.part p).outer.ranges) && s.groupsOk p k.groups && s.stagingOk p k.staging k.groups && (m.get 0x10).all mapOk
    if ok then some ({ k with layers := s.layerCount k.streams }, tracks) else none

/-- Does a layout move shards: is the shard list another? -/
def State.layoutMoves (s : State) (p : Nat) (m : Manifest) : Bool := m.has 0x09 && m.get 0x09 != s.shards p

/-- A layout comes into force (action 5): surviving entries keep their history, dropped ones go, new ones start from the
history carried or from init_e (R140). Shards new to the list are moved here by boundary transfers (R205; log entry 29). -/
def State.applyLayout (s : State) (p : Nat) (m : Manifest) (epoch : Nat) : State :=
  match s.layoutOf p m with
  | none => s
  | some (k, tracks) =>
    let old := (s.part p).pyro
    let new : List Track := tracks.map fun c => match old.find (trTensor c) with
      | some (_, t) => if (m.get 0x06).any (fun h => histTensor h == trTensor c) && trFmt t.cfg != trFmt c then (tracksOf [c] (m.get 0x06)).headD t else { t with cfg := c, next := none }.inRange
      | none => (tracksOf [c] (m.get 0x06)).headD (Track.fresh c)
    let moved := k.shards.filter fun d => !(s.shards p).contains d
    let s := s.modPart p fun q => { q with
      job := some k, pyro := { q.pyro with tracks := new }, coll := { q.coll with confirmed := [], carries := [] }, fab := q.fab.withMaps (m.get 0x10) }
    (s.modRun p fun r => { r with epoch := epoch % 65536, layoutArmed := none, newEpoch := none }).startMoves p moved

/-- A forced layout comes into force: of the layouts only a planned one changes the routing maps (R230). -/
def State.applyForced (s : State) (p : Nat) (m : Manifest) (epoch : Nat) : State := s.applyLayout p (m.filter fun x => x.1 != 0x10) epoch

/-- A forced layout that waited for a rollback applies at the round start (R206). -/
def State.roundLayout (s : State) (p : Nat) : State := match (s.part p).run.layoutArmed with
  | some (m, true) => if (s.part p).restore.isNone then (s.applyForced p m ((s.part p).run.epoch + 1)).modPart p fun q => { q with imageValid := false } else s
  | _ => s

end Sys2Proof.Machine
end

