-- ==== Sys2Proof/Machine/HostPath.lean ====
section
/-! DEFINITION. The host path toward the host: targets, transfers, background copies and ingots (R150, R177-R182, R216, R217, R310, R346,
R350). -/

namespace Sys2Proof.Machine

/-! ## `HOST_TARGET` and handles (R217, Table 10-2) -/

def htVa (t : Nat) : Nat := bits t 255 192
def htKey (t : Nat) : Nat := bits t 191 160
def htLen (t : Nat) : Nat := bits t 159 120
def htQp (t : Nat) : Nat := bits t 119 114
def htPart (t : Nat) : Nat := bits t 113 112
def htDev (t : Nat) : Bool := bit t 111
def hhIndex (h : Nat) : Nat := bits h 55 48
def hhOff (h : Nat) : Nat := bits h 47 0

/-- The entry that a handle names, when its owner may use it: the device, or a partition. -/
def State.target (s : State) (owner : Option Nat) (h : Nat) : Option Nat :=
  let t := s.net.targets.getD (hhIndex h) 0
  if bits h 63 56 ≠ 0 ∨ htLen t = 0 then none
  else match owner with
    | none => if htDev t then some t else none
    | some p => if !htDev t && htPart t == p then some t else none

/-- Does a transfer of `n` bytes fit the entry that its handle names? -/
def State.handleOk (s : State) (owner : Option Nat) (h n : Nat) : Bool := match s.target owner h with
  | some t => hhOff h + n ≤ htLen t
  | none => false

def State.modQp (s : State) (k : Nat) (f : Qp → Qp) : State := s.modNet fun n => { n with qps := updAt n.qps k f }
def State.qp (s : State) (k : Nat) : Qp := s.net.qps.getD k {}

/-- Does a handle's entry carry transfers: its QP is connected, and has not failed since the entry was written (R217)? -/
def State.targetUp (s : State) (h t : Nat) : Bool := (s.qp (htQp t)).st == 1 && !s.net.deadTargets.contains (hhIndex h)

/-- A packet of the host path leaves by the port of its QP (R215). -/
def State.hostFrame (s : State) (k n : Nat) (x : Pkt) : State :=
  let q := s.qp k
  s.egress q.port 3 (if q.dev then none else some q.part) (n + 118) {} x

/-- The packets of a transfer, each of at most the path MTU: bytes at their addresses, and whether the packet is the last (R216). -/
def mtuCut (mtu va : Nat) (bs : List Byte) : List (Nat × List Byte × Bool) :=
  let n := max 1 (ceilDiv bs.length mtu)
  (List.range n).map fun i => (va + mtu * i, (bs.drop (mtu * i)).take mtu, i + 1 == n)

/-- A transfer under way, noted once. -/
def Qp.fly (q : Qp) (x : Nat × Nat × Nat) : Qp := { q with inflight := if q.inflight.contains x then q.inflight else q.inflight ++ [x] }

/-- An RDMA WRITE packet leaves by its QP. -/
def State.writeFrame (s : State) (k : Nat) (x : Pkt) : State := s.hostFrame k (match x with | .hostWrite _ _ _ c _ => c.length | _ => 0) x

/-- RDMA WRITEs toward a handle, the last one with a tag where given, for transfer `id` of a partition, or of telemetry (4); false where the target
does not carry transfers (R216, R217). -/
def State.hostWrite (s : State) (owner : Option Nat) (id : Nat × Nat) (h : Nat) (bs : List Byte) (tag : Option Nat) : State × Bool :=
  match s.target owner h with
  | some t =>
    if s.targetUp h t then
      let k := htQp t
      let l := (mtuCut (s.qp k).mtu (htVa t + hhOff h) bs).map fun (va, c, last) => Pkt.hostWrite k (htKey t) va c (if last then tag else none)
      let s := s.each l fun s x => s.writeFrame k x
      (s.modQp k fun q => { q.fly (hhIndex h, id) with unacked := q.unacked ++ l.map fun x => (id, x) }, true)
    else (s, false)
  | none => (s, false)

/-- Local bytes as a host sees them: each marked 64-byte line as zeros (R310). -/
def State.exported (s : State) (la n : Nat) : List Byte :=
  if s.marked la n then (List.range n).zip (s.bytes la n) |>.map fun (i, b) => if s.marked ((la + i) / 64 * 64) 64 then 0#8 else b
  else s.bytes la n

/-! ## Background jobs (R150) -/

def State.bg (s : State) (p id : Nat) : Option Bg := (s.part p).bgs.find? fun b => b.id == id
def State.modBg (s : State) (p id : Nat) (f : Bg → Bg) : State := s.modPart p fun q => { q with bgs := q.bgs.map fun b => if b.id == id then f b else b }
def State.dropBg (s : State) (p id : Nat) : State := s.modPart p fun q => { q with bgs := q.bgs.filter fun b => b.id != id }
/-- A new job's number. -/
def Part.nextBg (q : Part) : Nat := (q.bgs.map (·.id)).foldl max 0 + 1
def State.addBg (s : State) (p : Nat) (b : Bg) : State := s.modPart p fun q => { q with bgs := q.bgs ++ [{ b with id := q.nextBg }] }

/-- Does the smith feed background pieces of the partition now? Not from the last STEP_END to action 9, and not while it discards
or resets (R150). -/
def State.feeds (s : State) (p : Nat) : Bool :=
  let q := s.part p
  !q.fenced && (q.st == .ready || q.st == .recovering || (q.st == .active && !q.run.atAction8 && !q.run.seqs.all (·.ended)))

/-- The tongs engine of a transfer to a host handle: that of the bellows die which carries the port of the target's QP (Table 07-2). -/
def State.hostEngine (s : State) (h : Nat) : Nat := 18 + (s.qp (htQp (s.net.targets.getD (hhIndex h) 0))).port / 2

/-- Bytes of a piece as a host sees them, and the first marked address: a lent range or an arena home is not read (R21, R151, R152, R310). -/
def State.pieceBytes (s : State) (p la k : Nat) : State × List Byte × Option Nat :=
  if s.reach p (s.global la) k [0, 1, 2] then (s, s.exported la k, s.firstMarked la k)
  else (s.addrErr p (s.global la), List.replicate k 0#8, some la)

/-- Bytes of a job's next piece, and whether it is the last. -/
def Bg.pieceLen (b : Bg) : Nat := min 0x200000 (b.len - b.fed)
def Bg.lastPiece (b : Bg) : Bool := b.len ≤ b.fed + b.pieceLen

/-- A piece has gone out by an engine: the job goes on, and its last piece records the first marked address of the transfer (R144, R310). -/
def State.pieceSent (s : State) (p : Nat) (b : Bg) (e : Nat) (mk : Option Nat) : State :=
  let s := s.modBg p b.id fun x => { x with fed := x.fed + b.pieceLen, first := b.first.orElse fun _ => mk, sent := b.lastPiece, engine := some e }
  match b.first.orElse fun _ => mk with
  | some a => if b.lastPiece then s.slagBite p (s.global a) else s
  | none => s

/-- One piece of up to 2 MiB of local bytes sent to the host; the last one carries the transfer tag (R144, R310, R350). A QP that is not
connected fails the transfer: `fail`. -/
def State.sendPiece (s : State) (p : Nat) (b : Bg) (fail : State → State) : State :=
  let x := s.pieceBytes p (gLocal b.src + b.fed) b.pieceLen
  let y := x.1.hostWrite (some p) (p, b.id) (b.dst + b.fed) x.2.1 (if b.lastPiece then some b.tag else none)
  if y.2 then y.1.pieceSent p b (s.hostEngine b.dst) x.2.2 else fail y.1

/-! ## Ingots (R177-R182) -/

/-- Where a part's section data start and end: the offset of each section in order, and of the trailer. -/
def sectOffsets (n : Nat) (lens : List Nat) : List Nat × Nat :=
  lens.foldl (fun (a : List Nat × Nat) k => let off := roundUp a.2 64; (a.1 ++ [off], off + k)) ([], 64 + 32 * n)

/-- Data bytes of a partition's sections: its shards, then its scale histories. -/
def State.partLens (s : State) (p : Nat) (moments : Bool) : List Nat :=
  ((s.shards p).map fun d => sectBytes (udKind d) (udCount d) (udCols d) moments) ++ [16 * (s.part p).pyro.tracks.length]

/-- Bytes of a part (R179). -/
def State.partBytes (s : State) (p : Nat) (moments : Bool) : Nat := let l := s.partLens p moments; (sectOffsets l.length l).2 + 32

/-- Is emission due at the boundary after a step (R177)? -/
def igDue (i st : Nat) : Bool := igFirst i ≤ st && (if igInterval i = 0 then st == igFirst i else (st - igFirst i) % igInterval i == 0)

/-- Step, round and epoch of the state at the boundary after step `st` (R179). -/
def Run.captureHead (r : Run) (st : Nat) : Nat × Nat × Nat := (st, if r.step = r.roundStep then r.round - 1 else r.round, r.epoch)

/-- A capture that starts again after a discard or a rollback captures the state that stands then, and its header says so (R179, R183). -/
def State.renewCapture (s : State) (p : Nat) (b : Bg) : State :=
  if b.renew then
    let r := (s.part p).run
    s.modBg p b.id fun b => { b with renew := false, head := r.captureHead (r.step - 1), hist := (s.part p).pyro.tracks.map Track.hist }
  else s

/-- The armed boundary after step `st`: a capture starts, or is skipped while the staging holds an unsent part (R178). -/
def State.armedBoundary (s : State) (p st : Nat) : State :=
  let s := s.modPart p fun q => { q with ingot := q.ingotNext.orElse fun _ => q.ingot, ingotNext := none }
  match (s.part p).ingot with
  | none => s
  | some i =>
    if !igDue i st then s
    else
      let s := if igInterval i = 0 then s.modPart p fun q => { q with ingot := none } else s
      if (s.part p).ingotHeld.any fun h => !apart [h, (igStage i, s.partBytes p (igMoments i))] then (s.notice p 5 st).modRun p fun r => { r with ingotSkips := satTo 16 (r.ingotSkips + 1) }
      else
        let r := (s.part p).run
        let id := (s.part p).nextBg
        let b : Bg := { kind := .ingotCapture, id := 0, src := igStage i, dst := igDest i, len := s.partBytes p (igMoments i), cookie := b01 (igMoments i)
                        head := r.captureHead st, hist := (s.part p).pyro.tracks.map Track.hist }
        (s.modPart p fun q => { q with
          ingotHeld := q.ingotHeld ++ [(igStage i, b.len)], captured := q.captured ++ (List.range (s.shards p).length).map fun j => (id, j) }).addBg p b

/-- The latest step from `a` on and before `b` at whose boundary emission is due. -/
def igLast (i a b : Nat) : Option Nat :=
  let k := if igInterval i = 0 then igFirst i else igFirst i + (b - 1 - igFirst i) / igInterval i * igInterval i
  if igFirst i < b ∧ a ≤ k ∧ k < b then some k else none

/-- Boundaries that the island passed without the partition: an emission that fell due at one of them starts now, the latest where several did
(R177; DESIGN CHOICE, log entry 129). -/
def State.missedBoundary (s : State) (p a b : Nat) : State :=
  let s := if a < b then s.modPart p fun q => { q with ingot := q.ingotNext.orElse fun _ => q.ingot, ingotNext := none } else s
  match (s.part p).ingot.bind fun i => igLast i a b with
  | some k => s.armedBoundary p k
  | none => s

/-- A part's number and the parts of the ingot: the partition's rank and the members of its flag group. -/
def State.partIndex (s : State) (p : Nat) : Nat × Nat := match s.flagGroup p with
  | some g => (cgRank g, cgN g)
  | none => (0, 1)

/-- Data bytes of a captured part's sections. -/
def State.bgLens (s : State) (p : Nat) (b : Bg) : List Nat :=
  ((s.shards p).map fun d => sectBytes (udKind d) (udCount d) (udCols d) (b.cookie == 1)) ++ [16 * b.hist.length]

/-- Header and section table of a part: step, round, epoch and histories as they stood at the armed boundary (R179). -/
def State.partHead (s : State) (p : Nat) (b : Bg) (slag : Nat) : List Byte :=
  let moments := b.cookie == 1
  let ds := s.shards p
  let lens := s.bgLens p b
  let offs := (sectOffsets lens.length lens).1
  let (k, n) := s.partIndex p
  let hdr := mkIngotHdr b.head.1 b.head.2.1 b.head.2.2 s.moduleId p ((s.part p).outer.island.getD 0) k n lens.length ((ds.head?.map udFmt).getD 7) moments slag
  let secs := (enum (offs.zip lens)).map fun (i, off, len) => match ds[i]? with
    | some d => mkIngotSect 0 (udTensor d) (udElem d) (udCount d) (udCols d) (udKind d) off len
    | none => mkIngotSect 1 0 0 b.hist.length 0 0 off len
  leBytes 64 hdr ++ secs.flatMap (leBytes 32)

/-- BF16 by RNE with sat = 1 of FP32 values. -/
def narrow16 (l : List W32) : List Byte := l.flatMap fun w => leBytes 2 (fmtBF16.enc .rne true (f32 w)).1

/-- Data of a shard's section with the marks of its bytes: working values, then moments, ρ and κ in BF16 (R178, R179). -/
def State.sectData (s : State) (d : Nat) (moments : Bool) : List Byte × List Bool :=
  let n := udCount d
  let g := udBase d (s.activeGen d)
  let narrow := fun (ws : List W32) (la k : Nat) => (narrow16 ws, (chunks k (s.byteMarks la (k * ws.length))).flatMap fun c => [c.any id, c.any id])
  let ms := if !moments || udKind d == 1 then ([], []) else narrow (splitRecs (udKind d) (s.bytes g (n * udRec d))).2 g (udRec d)
  let st := if !moments || udKind d == 0 then ([], []) else
    let r := narrow (w32s (s.bytes (g + udRho d) (4 * udRows d))) (g + udRho d) 4
    let c := narrow (w32s (s.bytes (g + udKap d) (4 * udCols d))) (g + udKap d) 4
    (r.1 ++ c.1, r.2 ++ c.2)
  (s.bytes (gLocal (udWork d)) (2 * n) ++ ms.1 ++ st.1, s.byteMarks (gLocal (udWork d)) (2 * n) ++ ms.2 ++ st.2)

/-- A piece of up to 2 MiB of shard `i`'s section captured into the staging; the shard is guarded until its last one (R150, R178). -/
def State.captureShard (s : State) (p : Nat) (b : Bg) (i : Nat) : State :=
  match (s.shards p)[i]? with
  | none => s
  | some d =>
    let s := s.renewCapture p b
    let (s, ok) := if b.cookie = 1 then s.voteShards p [d] else (s, true)
    if !ok then s
    else
    let off := gLocal b.src + ((sectOffsets (s.bgLens p b).length (s.bgLens p b)).1).getD i 0 + b.part
    let (bs, mk1) := s.sectData d (b.cookie == 1)
    let s := s.saveMarked off ((bs.drop b.part).take 0x200000) ((mk1.drop b.part).take 0x200000)
    let last := bs.length ≤ b.part + 0x200000
    let s := s.modBg p b.id fun b => { b with
      fed := if last then b.fed + 1 else b.fed, part := if last then 0 else b.part + 0x200000, engine := some (16 + s.cruDieOf off) }
    if last then s.modPart p fun q => { q with captured := q.captured.filter (· != (b.id, i)) } else s

/-- A capture that guards a shard with a fold due at a round boundary runs on to the last of its pieces first (R178). -/
def State.finishCapture (s : State) (p st : Nat) : State :=
  let due := (s.shards p).any fun d => s.guarded p d && (s.pendingFold p d st (match s.genVote d with | some (w, _) => sgRank w | none => none)).isSome
  if !due then s
  else s.each ((s.part p).bgs.filter fun b => b.kind == .ingotCapture) fun s b =>
    s.each (List.range (((s.bgLens p b).map fun n => n / 0x200000 + 1).sum)) fun s _ => match s.bg p b.id with
      | some b => if b.fed < (s.shards p).length then s.captureShard p b b.fed else s
      | none => s

/-- Marked 64-byte lines of a local range. -/
def State.markedLines (s : State) (la n : Nat) : List Nat := s.marks.filter fun k => la < 64 * k + 64 && 64 * k < la + n

/-- The capture closes: histories, slag lines, header and trailer; the part's send follows (R179, R180, R182). -/
def State.sealPart (s : State) (p : Nat) (b : Bg) : State :=
  let la := gLocal b.src
  let lens := s.bgLens p b
  let (offs, stop) := sectOffsets lens.length lens
  let s := s.store (la + offs.getLastD 0) (b.hist.flatMap fun h => leBytes 16 h) false
  let bad := s.markedLines (la + 64) (stop - 64)
  let s := s.each bad fun s k => s.store (64 * k) (List.replicate 64 0#8) true
  let s := s.store la (s.partHead p b bad.length) false
  let s := s.store (la + stop) (shake256 (s.exported la stop) 32) false
  let s := match bad with
    | k :: _ => s.slagBite p (s.global (64 * k))
    | [] => s
  s.modBg p b.id fun b => { b with kind := .ingotSend, fed := 0, tag := 2 ^ 28 + (s.partIndex p).1 % 2 ^ 28 }

/-! ## BACKGROUND_PIECE_FEED -/

/-- The next piece of job `k`: bytes of a MEM.SEND or of an ingot part, or one shard of a capture (R150, R178, R182, R346). -/
def doBackgroundPieceFeed (p k : Nat) (ecc : Ecc) (s : State) : State :=
  match s.bg p k with
  | none => s
  | some b =>
    if !s.feeds p ∨ b.sent ∨ (b.retryStep.any fun n => decide ((s.part p).run.step < n)) then s
    else match b.kind with
      | .memSend => (s.readEcc (gLocal b.src + b.fed) ecc).sendPiece p b fun s => (s.sendFail p b).dropBg p k
      | .ingotSend =>
        (s.readEcc (gLocal b.src + b.fed) ecc).sendPiece p b fun s => s.modBg p k fun b => { b with fed := 0, first := none, retryStep := some ((s.part p).run.step + 1) }
      | .ingotCapture =>
        let n := (s.shards p).length
        let s := match (s.shards p)[b.fed]? with
          | some d => s.readEcc (gLocal (udWork d)) ecc
          | none => s
        if b.fed < n then s.captureShard p b b.fed else s.sealPart p b

def execBackgroundPieceFeed (p k : Nat) (ecc : Ecc) (s : State) : Host.Outcome State Fault Refusal :=
  answer (Instr.backgroundPieceFeed p k ecc).wf (doBackgroundPieceFeed p k ecc s)

/-! ## Acknowledgement and failure (R182, R216, R217) -/

/-- The QP of a job's target. -/
def State.qpOf (s : State) (b : Bg) : Nat := htQp (s.net.targets.getD (hhIndex b.dst) 0)

/-- A transfer is in flight on no QP any more. -/
def State.landed (s : State) (id : Nat × Nat) : State := s.modNet fun n => { n with qps := n.qps.map fun q => { q with inflight := q.inflight.filter (fun x => x.2 != id), unacked := q.unacked.filter fun x => x.1 != id } }

/-- The last byte of a transfer is acknowledged: the staging is free, or the MEM.SEND has ended; `p` = 4 is telemetry stream `k`. Other transfers of
the QP stay in flight. -/
def doHostTransferAck (p k : Nat) (s : State) : State :=
  match s.bg p k with
  | none => let s := s.landed (p, k); if p = 4 then s.modStream k fun t => { t with flying := 0 } else s
  | some b =>
    if !b.sent then s
    else
      let s := (s.dropBg p k).landed (p, k)
      if b.kind = .ingotSend then s.modPart p fun q => { q with ingotHeld := q.ingotHeld.filter fun h => h.1 != b.src } else s

def execHostTransferAck (p k : Nat) (s : State) : Host.Outcome State Fault Refusal :=
  answer (Instr.hostTransferAck p k).wf (doHostTransferAck p k s)

/-- A transfer fails: a MEM.SEND is abandoned, an ingot part is sent again at the next step (R182, R217). -/
def State.failTransfer (s : State) (p : Nat) (b : Bg) : State :=
  match b.kind with
  | .memSend => (s.sendFail p b).dropBg p b.id
  | .ingotSend => s.modBg p b.id fun b => { b with fed := 0, first := none, sent := false, retryStep := some ((s.part p).run.step + 1) }
  | .ingotCapture => s

/-- A QP goes to the error state: its entries stay and carry no transfer until they are rewritten, and the transfers under way on it
fail; the records of telemetry batches among them are lost (R216, R217, R349). -/
def State.qpError (s : State) (k : Nat) : State :=
  let s := s.each (((s.qp k).inflight.filter fun x => x.2.1 == 4).map (·.2.2)).eraseDups fun s j => s.modStream j fun t => { t with lost := satTo 10 (t.lost + t.flying), flying := 0 }
  let s := s.modQp k fun q => { q with st := if q.st = 1 then 2 else q.st, inflight := [], unacked := [] }
  let s := s.modNet fun n => { n with deadTargets := (List.range 256).filter fun i => n.deadTargets.contains i || (let t := n.targets.getD i 0; htLen t != 0 && htQp t == k) }
  s.each (List.range 4) fun s p => s.each ((s.part p).bgs.filter fun b => b.kind != .ingotCapture && s.qpOf b == k && (0 < b.fed || b.sent)) fun s b => s.failTransfer p b

def doHostWriteFail (qp : Nat) (s : State) : State := if (s.qp qp).st = 1 then s.qpError qp else s

def execHostWriteFail (qp : Nat) (s : State) : Host.Outcome State Fault Refusal :=
  answer (Instr.hostWriteFail qp).wf (doHostWriteFail qp s)

/-- The retransmission timer of a QP expires: its packets not acknowledged are sent again, in order (R216). -/
def doHostRetransmit (qp : Nat) (s : State) : State := if (s.qp qp).st = 1 then s.each (s.qp qp).unacked fun s x => s.writeFrame qp x.2 else s

def execHostRetransmit (qp : Nat) (s : State) : Host.Outcome State Fault Refusal :=
  answer (Instr.hostRetransmit qp).wf (doHostRetransmit qp s)

end Sys2Proof.Machine
end

