-- ==== Sys2Proof/Machine/Boundary.lean ====
section
/-! DEFINITION. The step boundary: drain conditions, the nine actions, holds, image refresh and anchor, step starts (R5-R7, R42-R51, R96,
R139, R152, R171, R173, R205-R208, R243, R257, R261). -/

namespace Sys2Proof.Machine

/-! ## Drain conditions (R42, R43, Table 02-4) -/

/-- Is one end of an activation queue closed? -/
def ActQ.closed (x : ActQ) : Bool := if aqConsumer x.desc then x.full == 0 && x.popped == 0 && x.returning == 0 else x.credits == aqCount x.desc && x.writing == 0

/-- Does an operation's book close? -/
def CollOp.bookClosed (o : CollOp) : Bool := o.done && o.passing.isEmpty && o.expected == o.received + o.late + o.dropped

def Hearth.idle (h : Hearth) : Bool := h.free == 16 && h.bq.isEmpty && h.outSets.isEmpty && h.xin == 0 && h.xout == 0

/-- Rows 7 and 9 of Table 14-10 closed for a partition: no page of a crucible die that serves it is being copied, no watt of its dies is being
withdrawn (R328). -/
def State.remapsStill (s : State) (p : Nat) : Bool := [0, 1].all fun c => !(diePartsCru s.nparts c).contains p || (s.scrub.remaps.getD c []).all (·.st != 1)
def State.grantsStill (s : State) (p : Nat) : Bool := (diesOf s.nparts p).all fun d => s.power.leaving.getD d 0 == 0

/-- The rows of Table 02-4, in order; then the device books that the drain closes beside them (R328). -/
def State.drainRows (s : State) (p : Nat) : List Bool :=
  let q := s.part p
  [ (s.hearthsOf p).all fun h => (s.hearth h).idle
    , q.run.seqs.all fun x => x.out.isEmpty
    , (s.tongs.all fun l => l.all fun t => t.part != p) && q.arena.still && (match s.arenaOf p with | some a => q.arena.book a | none => true)
    , q.fab.booksClosed && (q.coll.early.all fun e => q.run.step < (segOf e.2).step || isRejoin (segOf e.2) || e.1 / 2 % 2 ^ 22 == s.moduleId * 4 + p)
    , q.actqs.all ActQ.closed
    , q.coll.ops.all CollOp.bookClosed
    , s.units.all fun u => (u.queue.all fun e => e.part != p) && (u.opn.all fun o => o.ent.part != p)
    , q.pyro.samples.isEmpty
    , q.run.seqs.all fun x => x.group.isNone && x.loops.isEmpty
    , s.remapsStill p
    , s.grantsStill p ]

/-- Number of the first row that does not hold its closing value, from 1; none when all do. -/
def State.unbalanced (s : State) (p : Nat) : Option Nat := (firstWith (fun (b : Bool) => !b) (s.drainRows p)).map fun x => x.1 + 1

/-- Have all three streams of a running step retired STEP_END? -/
def State.allEnded (s : State) (p : Nat) : Bool :=
  let q := s.part p
  q.job.isSome && q.st == .active && !q.fenced && !q.run.atAction8 && q.run.seqs.all (·.ended)

/-- The drain limit expires with a quantity unbalanced (R43). -/
def doDrainTimeout (p : Nat) (s : State) : State :=
  if !s.allEnded p then s
  else match (s.part p).run.endTick, s.unbalanced p with
    | some t, some k =>
      if ticksMs (jpDrainMs (s.params p)) < s.tick - t then (s.modRun p fun r => { r with endTick := some s.tick }).raise { recPart p sevPart 0x23 with detail := k } else s
    | _, _ => s

def execDrainTimeout (p : Nat) (s : State) : Host.Outcome State Fault Refusal := answer (Instr.drainTimeout p).wf (doDrainTimeout p s)

/-! ## Records of the step (Tables 02-7, 15-12) -/

/-- `STEP_REC` of the step just drained; its boundary field, 0 here, is set as the boundary ends (R44). -/
def State.stepRec (s : State) (p : Nat) (skipped repro : Bool) : Nat :=
  let r := (s.part p).run
  let e := r.endTick.getD s.tick
  pack [(48, r.step), (32, satTo 32 (e - r.startTick)), (16, 0), (8, s.stickyOf p 0), (8, s.stickyOf p 1), (8, s.stickyOf p 2), (8, s.stickyOf p 3),
    (16, match r.decision with | some d => d.word | none => 0), (1, b01 skipped), (1, b01 repro), (16, r.accStep), (32, r.reproCount), (32, r.skipCount), (32, r.rbw),
    (16, r.ingotSkips), (32, r.fallback), (32, r.arenaMoves), (174, 0)]

/-- `STAGE_STATS`. The stored activations that the module itself places or receives are known: the arena's frames and the filled slots of
activation queues. What else of HBM the program stores activations in, only the program knows: a free value (log entry 8). -/
def State.stageStats (s : State) (p : Nat) : Nat :=
  let q := s.part p
  let hw := fun (c : Bool) => ((q.actqs.filter fun x => aqConsumer x.desc == c).map (·.hwm)).foldl max 0
  let k := s.free
  pack [(48, q.run.step), (16, (q.actqs.head?.map fun x => aqStage x.desc).getD 0), (16, satTo 16 ((q.job.map (·.layers)).getD 0)), (48, satTo 48 (q.run.actHwm + Config.stageFigure k)), (32, q.run.stalls.getD 0 0), (32, q.run.stalls.getD 1 0),
    (32, q.run.stalls.getD 2 0), (12, hw true), (12, hw false), (8, satTo 8 q.run.mbHwm)]

/-- Records of the boundary, with the step's counts raised (R55, R79, R96). -/
def State.boundaryRecords (s : State) (p : Nat) (skipped : Bool) : State :=
  let r := (s.part p).run
  let repro := r.exempt s.free
  let s := (s.modRun p fun r => { r with reproCount := satTo 32 (r.reproCount + b01 repro), skipCount := satTo 32 (r.skipCount + b01 skipped) }).fresh.2
  let s := if jpHearthStats (s.params p) then s.each (s.hearthsOf p) fun s h =>
      { s.record (1 + p) 3 (unitHearth h) p 2 ((s.hearth h).stats r.step (unitHearth h) (Config.conflictStall s.free)) with free := s.free + 1 } else s
  let s := if (s.part p).actqs.isEmpty then s else { s.recordPart p 2 2 (s.stageStats p) with free := s.free + 1 }
  s.modRun p fun r => { r with recDue := some (s.stepRec p skipped repro, r.endTick.getD s.tick) }

/-! ## Noise and the accumulation count (R47, R207, R208) -/

/-- Combined statistics of the step's REDUCEs, in order of issue: s_loc, s_sum and the close code; one without a record counts as abandoned. -/
def Coll.noiseRecs (c : Coll) : List (W32 × W32 × Nat) :=
  (c.ops.filter fun o => o.kind == 0).map fun o =>
    let w := ((c.recs.find? fun x => x.1 == o.insn).map (·.2)).getD (3 * 2 ^ 197)
    (BitVec.ofNat 32 (bits w 295 264), BitVec.ofNat 32 (bits w 263 232), bits w 198 197)

/-- noise_step: `n` members, `b` samples per member and step (R207). -/
def Coll.noiseStep (c : Coll) (decay : W32) (recs : List (W32 × W32 × Nat)) (n b : Nat) : Coll :=
  let sl := recs.foldl (fun a x => fadd a x.1) f32Zero
  let ss := recs.foldl (fun a x => fadd a x.2.1) f32Zero
  let num := fadd (fmul decay c.num) (fsub (fmul (f32OfNat n) sl) ss)
  let den := fadd (fmul decay c.den) (fsub ss sl)
  { c with num := num, den := den, bnoise := if (f32 f32Zero).lt (f32 den) then fdiv (fmul (f32OfNat b) num) den else c.bnoise }

/-- An FP32 value rounded to an integer, ties to even; nothing finite is 0. -/
def roundNat (w : W32) : Int := match roundToMultiple 0 (f32 w) with
  | .fin s m e => let k : Int := ((m * 2 ^ e.toNat / 2 ^ (-e).toNat : Nat) : Int); if s then -k else k
  | _ => 0

/-- acc_at_round_end (R207): a list of lower bounds, then of upper bounds. -/
def accAtRoundEnd (cfg : Nat) (bnoise : W32) (n cur : Nat) : Nat :=
  if !nzSteer cfg then cur
  else
    let want := roundNat (fdiv bnoise (fmul (f32OfNat n) (f32OfNat (nzSamples cfg))))
    (min (min (max (max want ((cur / 2 : Nat) : Int)) ((nzMin cfg : Nat) : Int)) ((2 * cur : Nat) : Int)) ((nzMax cfg : Nat) : Int)).toNat

/-- Is the partition the root of its deciding FLAG's group, and of how many members? -/
def State.rootOf (s : State) (p : Nat) : Option Nat := match s.flagGroup p with
  | some g => if cgRank g = 0 then some (cgN g) else none
  | none => none

/-- The noise estimate at the root, at every boundary of a job with noise_en = 1. -/
def State.noiseBoundary (s : State) (p : Nat) (skipped : Bool) : State :=
  match ((s.part p).job.bind (·.noise)), s.rootOf p with
  | some z, some n =>
    let c := (s.part p).coll
    let recs := c.noiseRecs
    if nzOn z && !skipped && 2 ≤ n && recs.all (fun x => x.2.2 == 0) then
      s.modColl p fun c => c.noiseStep (nzDecay z) recs n ((s.part p).run.accStep * nzSamples z)
    else s
  | _, _ => s

/-- The accumulation count at a round boundary: a change commanded (R47), else acc_next of the round's last DECIDE, which a member that
discarded that step applies as well (R208). -/
def State.accBoundary (s : State) (p : Nat) : State :=
  let r := (s.part p).run
  let j := s.params p
  let inBounds := fun (n : Nat) => jpAccLo j ≤ n && n ≤ jpAccHi j
  let acc := match r.accArmed, r.accHeard with
    | some n, _ => n
    | none, some n => if inBounds n then n else r.acc
    | none, none => r.acc
  let s := s.modRun p fun r => { r with acc := acc, accArmed := none, accHeard := none }
  match s.rootOf p with
  | none => s
  | some n =>
    let z := (s.part p).job.bind (·.noise)
    let b := (s.part p).coll.bnoise
    let next := match z with | some z => if nzOn z then accAtRoundEnd z b n acc else acc | none => acc
    let s := s.modColl p fun c => { c with accNext := next }
    if z.any nzOn then s.notice p 6 (pack [(32, r.round), (32, b.toNat), (176, 0)]) else s

/-! ## Layout (R205, R206) -/

/-- A forced layout, or its epoch alone where the layout has not come: held until the barrier of the new epoch (Table 09-10). -/
def State.forcedLayout (s : State) (p e : Nat) : State :=
  let armed := (s.part p).run.layoutArmed
  let s := match armed with
    | some (m, _) => s.applyForced p m e
    | none => s.modRun p fun r => { r with epoch := e % 65536, newEpoch := some e }
  let s := (s.hold p .reshard).modRun p fun r => { r with reproNext := true }
  match armed, s.flagGroup p with
  | some _, some g => s.barrierReach p g 2 0
  | some _, none => s.unhold p .reshard
  | none, _ => s

/-- Action 5: a planned layout advances the epoch; one that moves shards waits for a round boundary. -/
def State.layoutBoundary (s : State) (p : Nat) (round : Bool) : State :=
  let r := (s.part p).run
  match r.newEpoch, r.layoutArmed with
  | some e, _ => s.forcedLayout p e
  | none, some (m, _) => if s.layoutMoves p m && !round then s else s.applyLayout p m (r.epoch + 1)
  | none, none => s

/-! ## Pairings (R152, R171; the message's form is log entry 15) -/

/-- A confirmation message: the base of the range. -/
def pairingMsg (m q base : Nat) : HtPkt := { type := 6, op := 2, dstModule := m, dstPart := q, payload := leBytes 8 base }

/-- Ranges that this partition borrows, or its images' places, with the other side: base, module, partition. -/
def State.borrowed (s : State) (p : Nat) : List (Nat × Nat × Nat) :=
  let j := (s.part p).job
  (((j.map (·.lends)).getD []).filter fun l => !slLent l).map (fun l => (slBase l, slMod l, slPart l)) ++
    (((j.map (·.mirrors)).getD []).filter fun m => mdRole m == 0).map fun m => (mdBase m, mdMod m, mdPart m)

/-- Ranges that it lends, or hosts. -/
def State.lentOut (s : State) (p : Nat) : List (Nat × Nat × Nat) :=
  let j := (s.part p).job
  (((j.map (·.lends)).getD []).filter slLent).map (fun l => (slBase l, slMod l, slPart l)) ++
    (((j.map (·.mirrors)).getD []).filter fun m => mdRole m == 1).map fun m => (mdBase m, mdMod m, mdPart m)

/-- Is a range confirmed that was not? -/
def State.unconfirmed (s : State) (p : Nat) : List (Nat × Nat × Nat) := (s.borrowed p).filter fun x => !(s.part p).arena.confirmed.contains x.1

/-- A borrower's first step waits for its confirmations, and a lender sends them. -/
def State.startPairing (s : State) (p : Nat) : State :=
  let s := s.modArena p fun r => { r with confirmed := [] }
  let s := if (s.borrowed p).isEmpty then s else (s.hold p .pairing).modRun p fun r => { r with holdFrom := s.tick }
  s.each (s.borrowed p ++ s.lentOut p) fun s (b, m, q) => s.send p (pairingMsg m q b) .none

/-- A confirmation received: of a range borrowed it counts; of a range lent it is answered. -/
def State.pairingHeard (s : State) (p m q base : Nat) : State :=
  if (s.borrowed p).contains (base, m, q) then
    let s := s.modArena p fun r => { r with confirmed := setIns base r.confirmed }
    if (s.unconfirmed p).isEmpty then s.unhold p .pairing else s
  else if (s.lentOut p).contains (base, m, q) then s.send p (pairingMsg m q base) .none
  else s

def execPairingConfirm (pkt : HtPkt) (base : Nat) (s : State) : Host.Outcome State Fault Refusal :=
  answer true (if pkt.op ≠ 2 then s else match s.receive [6] pkt with
    | (s, none) => s
    | (s, some p) =>
      let s := ((s.dataArrived p pkt).bufErrors p pkt).ackIfDue p pkt.srcModule pkt.srcPart
      if !pkt.bufBad.isEmpty then s else s.pairingHeard p pkt.srcModule pkt.srcPart base)

/-- A confirmation is missing at the wait limit (R152). -/
def doArenaLendTimeout (p : Nat) (s : State) : State :=
  let r := (s.part p).run
  match s.unconfirmed p with
  | (_, m, _) :: _ => if r.holds.contains .pairing ∧ s.waitLimit p < s.tick - r.holdFrom then (s.modRun p fun r => { r with holdFrom := s.tick }).raise { recPart p sevPart 0x55 with addr := m } else s
  | [] => s

def execArenaLendTimeout (p : Nat) (s : State) : Host.Outcome State Fault Refusal := answer (Instr.arenaLendTimeout p).wf (doArenaLendTimeout p s)

/-! ## Step start (action 9) -/

/-- Operations, counts and records of the step closed; what belongs to later steps stays (R195, R200, R387). -/
def Coll.closed (c : Coll) (next : Nat) (skipped : Bool) : Coll :=
  { c with ops := [], counts := [], recs := [], deciding := c.deciding, roots := c.roots.filter (fun r => next ≤ r.step), aborts := c.aborts.filter fun a => next ≤ a.2.1 + 1
           carries := if skipped then c.carries.filter (fun k => next ≤ k.step) else c.carries.filter fun k => next ≤ k.step + 1
           early := c.early.filter fun e => next ≤ (segOf e.2).step }

/-- A queue end at step start: slots already announced stay full. -/
def ActQ.start (x : ActQ) : ActQ := let y := ActQ.fresh x.desc x.full x.stale; if aqConsumer x.desc then { y with full := x.full } else y

/-- Is nothing in the way of a step: identity, power, hearths tested? -/
def State.mayStart (s : State) (p : Nat) : Bool :=
  s.idValid && (s.part p).job.isSome && !(s.part p).fenced && (s.part p).restore.isNone && (s.power.pstate == .p0 || s.power.pstate == .p1) &&
  (s.hearthsOf p).all fun h => !(s.hearth h).testing

/-- Shards whose working copies lie in the range of a drift event. -/
def State.driftShards (s : State) (p k : Nat) : List Nat :=
  let (b, n) := s.slabRange p k
  (s.shards p).filter fun d => b ≤ udWork d && udWork d < b + n

/-- The local repairs that stand: working copies rewritten from the masters (R139). -/
def State.repairSlabs (s : State) (p : Nat) : State :=
  let l := (s.part p).pyro.repairs
  let s := s.each l fun s k => s.each (s.driftShards p k) fun s d => match s.voteShards p [d] with
    | (s, true) => s.rederive d (s.activeGen d) (gLocal (udWork d))
    | (s, false) => s
  s.modPyro p fun y => { y with repairs := [], repaired := y.repaired ++ l }

/-- At the boundary after a step that carried drift (R139). -/
def State.driftRepair (s : State) (p : Nat) : State := if (s.part p).run.flag.testBit 3 then s.repairSlabs p else s

/-- Before a step starts: the repairs of a step that carried drift and was discarded, and the slabs whose drift the new step's word
carries (R139, log entry 79). -/
def State.driftStart (s : State) (p : Nat) : State :=
  let s := if (s.part p).run.driftDue then s.repairSlabs p else s
  s.modPyro p fun y => { y with repairs := y.repairs ++ y.repairsNext, repairsNext := [] }

/-- P1 is left for P0: a job starts, or a partition rejoins (R371). -/
def State.wake (s : State) : State := if s.power.pstate = .p1 ∧ s.power.moving.isNone then s.modPower fun w => { w with moving := some .p0 } else s

/-- Action 9: the next step starts from the empty state (R5, R29, R33, R51, R340). -/
def State.startStep (s : State) (p : Nat) : State :=
  let s := ((s.wake.driftStart p).noFaults p).missedBoundary p ((s.part p).run.passed.getD (s.part p).run.step) (s.part p).run.step
  let s := s.modRun p fun r => { r with
    accStep := r.acc, startTick := s.tick, endTick := none, seqs := [{}, {}, {}], tokens := List.replicate 128 0, rbw := 0, fallback := 0, arenaMoves := 0
    repro := r.reproNext, reproNext := false, mixed := false, flagWord := if r.driftNext then 8 else 0, driftNext := false, driftDue := false, flagTaken := none, decision := none, stalls := [0, 0, 0], mbFwd := 0, mbBwd := 0, mbHwm := 0, actHwm := 0, passAt := 0
    atAction8 := false, roundOpen := true, redo := false, passed := none, firstStep := false, newEpoch := none }
  let s := s.modPart p fun q => { q with st := .active, depth := 0, idle := false, actqs := q.actqs.map ActQ.start }
  let due := (s.part p).run.posts.filter fun x => x.step == (s.part p).run.step
  let s := s.modRun p fun r => { r with posts := r.posts.filter fun x => x.step != r.step }
  let s := s.each due fun s x => s.signalN p x.token x.count
  (((s.actMark p).loadSeals p).answerRejoins p).collSettle p

/-- A job stop takes effect: READY, with its declared state and its job (R49). -/
def State.stopNow (s : State) (p : Nat) : State :=
  (s.modRun p fun r => { r with stopArmed := false }).modPart p fun q => { q with st := .ready, idle := true }

/-- Has a stopped partition reached action 8: is every hold but those of action 8 ended? -/
def Run.stops (r : Run) : Bool := r.atAction8 && r.stopArmed && r.holds.all fun h => h == .halt || h == .p2

/-- A held partition stops, or goes on once nothing holds it; HALT_N and a wanted P2 hold it again (R49, R371). -/
def State.goOn (s : State) (p : Nat) : State :=
  let q := s.part p
  if (q.st == .active || q.st == .recovering) && q.run.stops then s.stopNow p
  else if !q.run.atAction8 ∨ !(q.st == .active || q.st == .recovering) ∨ !q.run.holds.isEmpty ∨ !s.mayStart p then s
  else if !s.power.haltN then s.haltHold p
  else if s.power.target = 2 then s.hold p .p2
  else s.startStep p

def execHeldStepStart (p : Nat) (s : State) : Host.Outcome State Fault Refusal := answer (Instr.heldStepStart p).wf (s.goOn p)

/-! ## The boundary (R44) -/

/-- Action 1: token counters recorded and cleared. -/
def State.tokenAction (s : State) (p : Nat) : State :=
  let s := s.each (enum (s.part p).run.tokens) fun s (k, n) => if n = 0 then s else s.raise { recPart p sevDef 0x24 with detail := pack [(16, n), (8, k)] }
  s.modRun p fun r => { r with tokens := List.replicate 128 0 }

/-- Action 2: hearths, temper engines and the arena emptied. -/
def State.emptyAction (s : State) (p : Nat) : State :=
  let s := s.each ((s.hearthsOf p).filter fun h => (s.hearth h).chain.isSome) fun s h => s.raise (recHearth p h sevDef 0x28)
  (s.each (s.hearthsOf p) fun s h => (s.modHearth h Hearth.boundary).modTemper h Temper.boundary).arenaBoundary p

/-- The round boundary of action 6: pending folds, the new round, and its boundary work or image refresh (R48, R140, R173, R243). -/
def State.roundAction (s : State) (p st : Nat) : State :=
  let s := (s.finishCapture p st).pendingFolds p st
  let s := s.modRun p fun r => { r with round := r.round + 1, roundStep := r.step, roundOpen := false, reproRound := false }
  let s := s.modPyro p fun y => { y.snap with repaired := [] }
  if (s.part p).outer.cfg.isSome then s.hold p .outerWork else s.refreshNext p

/-- Action 8: stop, halt, or go on (R49). -/
def State.stopAction (s : State) (p : Nat) : State :=
  let s := s.modRun p fun r => { r with atAction8 := true, endTick := none }
  let s := s.stepRecOut p
  let s := if !s.power.haltN then s.haltHold p else s
  let s := if s.power.target = 2 then s.hold p .p2 else s
  s.goOn p

/-- A number is at its limit: the module stops at the boundary and records it (Table 00-3). The table names neither the record's severity nor
its code: DEFERRED and the code are the model's choice (log entry 89). -/
def State.limitStop (s : State) (p : Nat) : State := (((s.hold p .limit).modRun p fun r => { r with atAction8 := true }).stepRecOut p).raise (recPart p sevDef (Config.faultCode 7))

/-- The first actions: counters, records, engines emptied, pyrometer, drift, noise, audit and retried writes (Table 02-5, R328, R363). -/
def State.closeStep (s : State) (p : Nat) (skipped : Bool) : State :=
  let s := s.tokenAction p
  let s := s.boundaryRecords p skipped
  let s := s.emptyAction p
  let s := closePyro p skipped s
  let s := s.driftRepair p
  ((s.noiseBoundary p skipped).auditPart p).audit.retryStores

/-- Actions 4 and 5: the step number moves on, the operations of the step close, a planned layout comes into force. -/
def State.nextNumber (s : State) (p : Nat) (skipped : Bool) : State :=
  let st := (s.part p).run.step
  let s := s.modRun p fun r => { r with step := st + 1, lastSkip := skipped }
  let s := s.modColl p fun c => c.closed (st + 1) skipped
  s.layoutBoundary p ((st + 1) % s.roundLen p == 0)

/-- Actions 6 and 7 after step `st`, and an emission armed for it (R48, R177, R208, R257, R261). -/
def State.roundTest (s : State) (p st : Nat) : State :=
  let s := if (st + 1) % s.roundLen p = 0 then (s.roundAction p st).accBoundary p else (s.sealTest p (st + 1)).wordHold p
  s.armedBoundary p st

/-- The nine actions of Table 02-5, and the work attached to them: the audit of the device books and the deferred persistent writes
(R328, R363). -/
def State.boundary (s : State) (p : Nat) : State :=
  let r := (s.part p).run
  let st := r.step
  let skipped := match r.decision with | some d => d.skip | none => false
  let s := s.closeStep p skipped
  if st = 2 ^ 48 - 1 then s.limitStop p
  else
    let s := s.nextNumber p skipped
    if (st + 1) % s.roundLen p = 0 ∧ r.round = 2 ^ 32 - 1 then s.limitStop p else (s.roundTest p st).stopAction p

def execStepBoundary (p : Nat) (s : State) : Host.Outcome State Fault Refusal :=
  answer (Instr.stepBoundary p).wf (if s.allEnded p && (s.unbalanced p).isNone then s.boundary p else s)

/-! ## Holds from action 6 -/

/-- The refresh is acknowledged: the image is valid, and the partition reaches the anchor reduction (R173). -/
def doImageRefreshDone (p : Nat) (s : State) : State :=
  let q := s.part p
  if q.run.holds.contains .refresh ∧ q.imageStage = 3 ∧ q.imagePend = 0 ∧ q.restore.isNone ∧ !q.run.holds.contains .rollback ∧ !q.run.holds.contains .gather ∧ !q.fenced then
    let s := s.modPart p fun q => { q with imageStage := 0, imageValid := true }
    match s.flagGroup p with
    | some g => (if cgRank g = 0 then s else s.modColl p fun c => { c with anchorFrom := some s.tick }).barrierReach p g 1 0
    | none => (s.modColl p fun c => { c with anchorFrom := none }).unhold p .refresh
  else s

def execImageRefreshDone (p : Nat) (s : State) : Host.Outcome State Fault Refusal := answer (Instr.imageRefreshDone p).wf (doImageRefreshDone p s)

/-- Members not heard within the wait limit are lost: at the root of the anchor reduction those that have not contributed, at a member that
has contributed the root (R173; log entry 104). -/
def doAnchorTimeout (p : Nat) (s : State) : State :=
  match (s.part p).coll.anchorFrom, s.flagGroup p with
  | some t, some g =>
    if !(s.part p).run.holds.contains .refresh ∨ s.tick - t ≤ s.waitLimit p then s
    else if cgRank g ≠ 0 then
      (if (s.part p).imageStage = 0 then (s.modColl p fun c => { c with anchorFrom := some s.tick }).declareLost p (s.member g 0).1 else s)
    else
      let heard := match (s.part p).coll.barriers.find? fun b => b.group == cgId g && b.sub == 1 with
        | some b => b.heard
        | none => []
      let s := s.modColl p fun c => { c with anchorFrom := some s.tick }
      s.each ((List.range (cgN g)).filter fun r => !heard.contains r && r != 0) fun s r => s.declareLost p (s.member g r).1
  | _, _ => s

def execAnchorTimeout (p : Nat) (s : State) : Host.Outcome State Fault Refusal := answer (Instr.anchorTimeout p).wf (doAnchorTimeout p s)

/-- At B(r) a pending outer configuration comes into force for round r + 1 and later (R241). -/
def Outer.takeNext (o : Outer) (r : Nat) : Outer := match o.next with
  | some c => { o with cfg := some c, next := none, islands := o.nextIslands, nextIslands := [], since := r + 1, prior := some (o.cfg.getD 0, o.islands) }
  | none => o

/-- The boundary work of every owned slab is done: slots released, the round sealed where it can be, and the refresh proceeds
(Table 11-1, R243, R256, R257, R261). -/
def doOuterBoundaryWorkDone (p : Nat) (found : Found) (s : State) : State :=
  let q := s.part p
  if !q.run.holds.contains .outerWork ∨ q.run.holds.contains .rollback ∨ q.fenced then s
  else
    let r := q.run.round - 1
    let s := s.each (List.range q.outer.slabs.length) fun s j => s.slabBoundary p r found j
    let s := (s.releaseSlot p r).initWords p [r + 2]
    let s := (s.sealTest p q.run.step).modOuter p fun o => o.takeNext r
    ((s.roundRec p r).refreshNext p).unhold p .outerWork

def execOuterBoundaryWorkDone (p : Reading) (s : State) : Host.Outcome State Fault Refusal :=
  answer (Instr.outerBoundaryWorkDone p).wf (doOuterBoundaryWorkDone p.of p.found s)

/-! ## JOB.START (R49, R51) -/

/-- A READY partition starts: its first step waits for confirmations and the image refresh; a stopped one goes on at action 9. -/
def State.startJob (s : State) (p : Nat) : State :=
  let first := (s.part p).run.firstStep
  let s := (s.modPart p fun q => { q with st := .active, idle := false }).modRun p fun r => { r with atAction8 := true }
  let s := if first then
      let s := (s.startConfirm p).startPairing p
      if (s.shards p).isEmpty && (s.flagGroup p).isNone then s else s.startRefresh p
    else s
  s.goOn p

end Sys2Proof.Machine
end

