-- ==== Sys2Proof/Machine/UnitLoss.lean ====
section
/-! DEFINITION. Loss of an update unit (R166, R169, Table 01-8). -/

namespace Sys2Proof.Machine

/-- A faulty unit goes OFFLINE; its open and queued commits are redone on the other units as their queues have room (Table 08-6).
Without another unit the partition leaves its job (R166). -/
def doUpdateUnitRetired (u : Nat) (s : State) : State :=
  let x := s.uunit u
  if x.offline then s
  else
    let p := unitPart s.nparts u
    let l := x.opn.map (fun o => { o.ent with begun := true }) ++ x.queue
    let half := halfOf (x.opn.filter (·.flips < 3)) p
    let s := ((s.modUnit u fun _ => { offline := true }).modPart p fun q => { q with redo := l.reverse ++ q.redo, halfFlips := q.halfFlips ++ half }).raise (updRec p u sevDef 0x44)
    if (List.range 8).any fun v => unitPart s.nparts v == p && !(s.uunit v).offline then s.each l fun s _ => s.placeRedo p
    else (s.raise (updRec p u sevPart 0x44)).dropOut p

def execUpdateUnitRetired (u : Nat) (s : State) : Host.Outcome State Fault Refusal :=
  answer (Instr.updateUnitRetired u).wf (doUpdateUnitRetired u s)

end Sys2Proof.Machine
end

