-- ==== Sys2Proof/Machine/Transport.lean ====
section
/-! DEFINITION. Hall transport: one-sided accesses, acknowledgements, grants, timeouts, heartbeats and links (R219-R228, R231, R232, R236). -/

namespace Sys2Proof.Machine

/-- A packet of the types given that this row takes, received and acted on; an ACK follows when one is due (R219, R222). A packet
whose operation belongs to another row is no event of this one. -/
def State.packetEvent (s : State) (types : List Nat) (mine : HtPkt → Bool) (k : HtPkt) (act : State → Nat → State) : State :=
  if htFormOk k && !mine k then s
  else match s.receive types k with
    | (s, none) => s
    | (s, some p) =>
      let s := s.bufErrors p k
      if htReliable k.type then ((act s p).dataArrived p k).ackIfDue p k.srcModule k.srcPart else act s p

def anyPkt (_ : HtPkt) : Bool := true
/-- Packets of one operation. -/
def ofOp (n : Nat) (k : HtPkt) : Bool := k.op == n

/-! ## One-sided access (R220, R221) -/

/-- May partition `q` of module `m` reach a range of partition `p`: its own ranges in the spaces named, not its arena; a lent range
only for its borrower (R21, R152, R220)? -/
def State.targetOk (s : State) (p m q g n : Nat) (spaces : List Nat) : Bool :=
  s.ownRange p g n spaces && (match s.lentAt p g n with
    | some l => slMod l == m && slPart l == q && slHolds l g n
    | none => !s.arenaMeets p g n)

/-- Local addresses, one in each 64-byte line (word of SRAM: 8 bytes), of the lines of a write that a list names. -/
def linesHit (la n : Nat) (l : List Nat) : List Nat := ((List.range (ceilDiv (la % 64 + n) 64)).filter fun i => l.contains i).map fun i => la / 64 * 64 + 64 * i

/-- Marks set on the part of a written range that the lines given cover. -/
def lineMarks (la n : Nat) (slag : Bool) (hit : List Nat) : List Bool := (List.range n).map fun i => slag || hit.contains ((la + i) / 64 * 64)

/-- WRITE: the bytes and marks land in memory before the acknowledgement; a receive-buffer error of a line is corrected, or marks the line
(R237). -/
def State.takeWrite (s : State) (k : HtPkt) (fixed bad : List Nat) (p : Nat) : State :=
  if k.length = 0 then s
  else if s.targetOk p k.srcModule k.srcPart k.addr k.length [0, 1, 2, 3] then
    let la := gLocal k.addr
    let hit := linesHit la k.payload.length bad
    let r : FaultRec := { recPart p sevCE 0x03 with resClass := 6, resIndex := k.plane / 2 }
    let s := s.each (linesHit la k.payload.length fixed) fun s a => s.raiseMem { r with addr := s.global a }
    let s := s.each hit fun s a => s.raiseMem { r with sev := sevDef, code := 0x04, addr := s.global a }
    let s := if hit.isEmpty then s.save la k.payload k.slag else s.saveMarked la k.payload (lineMarks la k.payload.length k.slag hit)
    s.sealsLanded p la k.payload.length
  else s.addrErr p k.addr

def execHtWrite (pkt : HtPkt) (fixed bad : List Nat) (s : State) : Host.Outcome State Fault Refusal :=
  answer true (s.packetEvent [0] anyPkt pkt fun s p => s.takeWrite pkt fixed bad p)

/-- An answer to the sender of a request, with the request's psn. -/
def State.respond (s : State) (p type : Nat) (k : HtPkt) (bs : List Byte) (slag : Bool) : State :=
  s.sendNow p { type := type, dstModule := k.srcModule, dstPart := k.srcPart, psn := k.psn, slag := slag, payload := bs }

/-- READ_REQ: the bytes as read; zeros with slag where it does not perform. -/
def State.takeRead (s : State) (k : HtPkt) (p : Nat) : State :=
  if s.targetOk p k.srcModule k.srcPart k.addr k.aux [0, 1, 2, 3] then
    let la := gLocal k.addr
    let s := s.meet [(la, k.aux)] k.found
    (s.addRbw p (s.rbwLines la k.aux)).respond p 2 k (s.load la k.aux) (s.loadMark la k.aux)
  else (s.addrErr p k.addr).respond p 2 k (List.replicate k.aux 0#8) true

def execReadReq (pkt : HtPkt) (s : State) : Host.Outcome State Fault Refusal := answer true (s.packetEvent [1] anyPkt pkt (State.takeRead · pkt))

/-- New value of the word under an atomic (operands little-endian: DESIGN CHOICE, log entry 31). -/
def atomicNew (op old a b : Nat) : Nat := if op = 0 then (old + a) % 2 ^ 64 else if op = 1 then (if old = a then b else old) else a

/-- ATOMIC: executed once, its result kept and answered; a marked word gives zero with slag. -/
def State.takeAtomic (s : State) (k : HtPkt) (p : Nat) : State :=
  let keep := fun (s : State) (old : Nat) (slag : Bool) =>
    (s.modFab p fun f => f.modChan k.srcModule k.srcPart fun c => { c with atomics := (c.atomics ++ [({ psn := k.psn, old := old, slag := slag } : Atomic)]).drop (c.atomics.length + 1 - 256) }).respond p 4 k (leBytes 8 old) slag
  if k.addr % 8 ≠ 0 ∨ !s.targetOk p k.srcModule k.srcPart k.addr 8 [0, 1, 2] then keep (s.addrErr p k.addr) 0 true
  else
    let la := gLocal k.addr
    let s := s.meet [(la, 8)] k.found
    if s.marked la 8 ∨ !k.bufBad.isEmpty then keep (s.slagBite p k.addr) 0 true
    else
      let old := s.word la 8
      keep (s.store la (leBytes 8 (atomicNew k.op old (leNat (k.payload.take 8)) (leNat ((k.payload.drop 8).take 8)))) false) old false

def execFetchAdd (pkt : HtPkt) (s : State) : Host.Outcome State Fault Refusal := answer true (s.packetEvent [3] (ofOp 0) pkt (State.takeAtomic · pkt))
def execCmpSwap (pkt : HtPkt) (s : State) : Host.Outcome State Fault Refusal := answer true (s.packetEvent [3] (ofOp 1) pkt (State.takeAtomic · pkt))
def execSwap (pkt : HtPkt) (s : State) : Host.Outcome State Fault Refusal := answer true (s.packetEvent [3] (ofOp 2) pkt (State.takeAtomic · pkt))

/-! ## What completes on an acknowledgement or an answer -/

/-- The arrival bitmap of a term written to every replica, once all that it tells of is there (R265, R268; log entry 110). -/
def State.sendBitmap (s : State) (p isl slab round : Nat) : State :=
  let o := (s.part p).outer
  match o.cfg, firstWith (fun e => oiIsland e == isl) o.islands, o.slabIx slab with
  | some c, some (t, _), some j => match o.slabs[j]? with
    | some x =>
      let a := bitmapAddr c round t j
      s.each (s.replicas x.desc) fun s g => (s.remoteWrite p (g + (a - gLocal (rcStaging c))) (s.bytes a 1024) [] .none).1
    | none => s
  | _, _, _ => s

/-- A covered packet's effect on what waited for it. -/
def State.ownerDone (s : State) (p : Nat) (o : Owner) : State :=
  match o with
  | .tongs e src insn => s.pieceEnded e p src insn
  | .image => (s.modPart p fun y => { y with imagePend := y.imagePend - 1 }).imageAdvance 3 p
  | .seal j =>
    let s := s.modSlab p j fun x => { x with sealPend := x.sealPend - 1 }
    if (s.part p).outer.slabs.all fun x => x.sealPend == 0 then s.unhold p .sealAck else s
  | .fwd isl m slab round =>
    let is := fun (x : OuterRx) => x.isl == isl && x.mod == m && x.slab == slab && x.round == round
    let s := s.modOuter p fun o => { o with rxs := o.rxs.map fun x => if is x then { x with fwdPend := x.fwdPend - 1 } else x }
    if (s.part p).outer.rxs.any fun x => is x && x.fwdPend == 0 then (s.sendBitmap p isl slab round).heldTest p else s
  | _ => s

/-- A read's bytes land, with their marks, where they were asked for. -/
def State.landRead (s : State) (p : Nat) (o : Owner) (bs : List Byte) (mk : List Bool) : State :=
  let slag := mk.any id
  match o with
  | .tongsRead e src insn row off => s.landTongs p e src insn row off bs mk
  | .arenaIn home page => s.landArena p home page bs mk
  | .restore page => s.landRestore p page bs mk
  | .roundRead =>
    let s := s.modOuter p fun o => { o with word := some (leNat bs) }
    if !slag && s.wordFull p (leNat bs) (s.part p).run.waitRound && (s.part p).run.holds.contains .roundWord then s.wordReleased p else s
  | _ => s

/-- The outstanding packet of a channel with a psn and type. -/
def Chan.outAt (c : Chan) (type psn : Nat) : Option TxPkt := c.out.find? fun x => x.pkt.psn == psn && x.pkt.type == type

/-- A packet leaves a channel's outstanding list; a read gives back its landing space (R222, R227). -/
def Fabric.dropOut (f : Fabric) (m q : Nat) (x : TxPkt) : Fabric :=
  let f := { f.modChan m q fun c => { c with out := c.out.filter fun y => y.pkt.psn != x.pkt.psn } with planeTo := f.planeTo.filter fun y => y.1 != 8 * m + x.plane }
  if x.pkt.type = 1 then { f with poolIssued := f.poolIssued - roundUp x.pkt.aux 64 } else f

/-- READ_RESP and ATOMIC_RESP: the answer is used, its token and landing space return (R222, R227). -/
def State.takeAnswerPkt (s : State) (k : HtPkt) (p : Nat) : State :=
  match ((s.part p).fab.chan k.srcModule k.srcPart).outAt (k.type - 1) k.psn with
  | none => s
  | some x =>
    let s := s.modFab p fun f => f.dropOut k.srcModule k.srcPart x
    let s := if k.type = 2 then s.landRead p x.owner (padTo x.pkt.aux 0#8 (k.payload.take x.pkt.aux)) (senderMarks (senderOf k) 0 x.pkt.aux)
      else match x.owner, k.slag with
        | .roundAdd r, true => s.modOuter p fun o => { o with added := o.added.filter (· != r) }
        | _, _ => s
    (s.serveGrants p).pump p k.srcModule k.srcPart

def execAtomicResp (pkt : HtPkt) (s : State) : Host.Outcome State Fault Refusal := answer true (s.packetEvent [4] anyPkt pkt (State.takeAnswerPkt · pkt))

/-! ## Acknowledgements (R222, R226) -/

/-- Does an ACK of `cum` and `map` cover a packet, so that its token returns? -/
def ackCovers (cum map : Nat) (x : TxPkt) : Bool :=
  x.pkt.type != 1 && x.pkt.type != 3 && ((x.pkt.psn != cum && psnAhead cum x.pkt.psn < 2 ^ 31) || (psnAhead x.pkt.psn cum < 64 && map.testBit (psnAhead x.pkt.psn cum)))

/-- The window after an ACK that covers `n` packets and counts `ce` marks: halved at most once per 16 us, or one more per window's
worth of acknowledgements without CE (R226). -/
def Chan.steerWindow (now w n ce : Nat) (c : Chan) : Chan :=
  if 0 < ce then
    if c.halved = 0 ∨ c.halved + ticksUs 16 ≤ now then { c with win := max 8 (c.win / 2), halved := now, clean := 0 } else { c with clean := 0 }
  else if c.win ≤ c.clean + n then { c with clean := c.clean + n - c.win, win := min w (c.win + 1) }
  else { c with clean := c.clean + n }

def State.takeAck (s : State) (k : HtPkt) (p : Nat) : State :=
  let cum := leNat (k.payload.take 4)
  let map := leNat ((k.payload.drop 4).take 8)
  let ce := leNat ((k.payload.drop 12).take 2)
  let m := k.srcModule
  let q := k.srcPart
  let l := ((s.part p).fab.chan m q).out.filter (ackCovers cum map)
  let s := s.modFab p fun f => (l.foldl (fun (f : Fabric) x => f.dropOut m q x) f).modChan m q (Chan.steerWindow s.tick f.window l.length ce)
  let s := if l.isEmpty then s else s.modFab p fun f => f.endRollback m q
  (s.each l fun s x => s.ownerDone p x.owner).pump p m q

def execHtAck (pkt : HtPkt) (s : State) : Host.Outcome State Fault Refusal := answer true (s.packetEvent [5] anyPkt pkt (State.takeAck · pkt))

/-- An ACK goes out 2 us after the oldest arrival not acknowledged. -/
def doHtAckTimer (p m q : Nat) (s : State) : State :=
  match ((s.part p).fab.chan m q).oldest with
  | some t => if t + ticksUs 2 ≤ s.tick then s.sendAck p m q else s
  | none => s

def execHtAckTimer (p m q : Nat) (s : State) : Host.Outcome State Fault Refusal := answer (Instr.htAckTimer p m q).wf (doHtAckTimer p m q s)

/-! ## Grants (R227) -/

def State.takeRequest (s : State) (k : HtPkt) (p : Nat) : State :=
  (s.modFab p fun f => f.modChan k.srcModule k.srcPart fun c => { c with want := 64 * k.aux }).serveGrants p

def execRequest (pkt : HtPkt) (s : State) : Host.Outcome State Fault Refusal := answer true (s.packetEvent [7] anyPkt pkt (State.takeRequest · pkt))

def State.takeGrant (s : State) (k : HtPkt) (p : Nat) : State :=
  (s.modFab p fun f => f.modChan k.srcModule k.srcPart fun c => { c with grant := c.grant + 64 * k.aux, asked := c.asked - 64 * k.aux, grantTick := s.tick }).pump p k.srcModule k.srcPart

def execGrant (pkt : HtPkt) (s : State) : Host.Outcome State Fault Refusal := answer true (s.packetEvent [8] anyPkt pkt (State.takeGrant · pkt))

def State.takeReturn (s : State) (k : HtPkt) (p : Nat) : State :=
  let n := min (64 * k.aux) ((s.part p).fab.chan k.srcModule k.srcPart).issued
  (s.modFab p fun f => { f.modChan k.srcModule k.srcPart fun c => { c with issued := c.issued - n } with poolIssued := f.poolIssued - n }).serveGrants p

def execReturnGrant (pkt : HtPkt) (s : State) : Host.Outcome State Fault Refusal := answer true (s.packetEvent [9] anyPkt pkt (State.takeReturn · pkt))

def doGrantIdleTimeout (p m q : Nat) (s : State) : State :=
  let c := (s.part p).fab.chan m q
  if c.grant = 0 ∨ s.tick < c.grantTick + ticksUs 100 then s
  else (s.modFab p fun f => f.modChan m q fun c => { c with grant := 0, asked := 0 }).send p (c.packet 0x09 0 (c.grant / 64) []) .none

def execGrantIdleTimeout (p m q : Nat) (s : State) : Host.Outcome State Fault Refusal :=
  answer (Instr.grantIdleTimeout p m q).wf (doGrantIdleTimeout p m q s)

/-! ## Retransmission (R223) -/

/-- A timeout on a plane towards a module, on whichever channel: the second in a row clears the plane's live bit. -/
def Fabric.planeTimeout (f : Fabric) (self m pl : Nat) : Fabric :=
  let n := assocGet (8 * m + pl) 0 f.planeTo + 1
  let f := { f with planeTo := assocSet (8 * m + pl) n f.planeTo }
  if 2 ≤ n ∧ m ≠ self ∧ f.idBase ≤ m then { f with dead := if f.dead.contains (m - f.idBase, pl) then f.dead else f.dead ++ [(m - f.idBase, pl)] } else f

/-- The timer of one packet expires: resent on another plane with twice the time, or after `retry_max` the module is lost. -/
def doPacketTimeout (p m q psn : Nat) (s : State) : State :=
  match ((s.part p).fab.chan m q).out.find? fun x => x.pkt.psn == psn with
  | none => s
  | some x =>
    if s.tick < x.deadline then s
    else
      let s := s.modFab p fun f => f.planeTimeout s.moduleId m x.plane
      let f := (s.part p).fab
      if f.retryMax ≤ x.attempts then
        let s := s.declareLost p m
        if (((s.part p).fab.chan m q).out.any fun y => y == x) then (s.modFab p fun f => (f.dropOut m q x).endRollback m q).ownerLost p x.pkt x.owner else s
      else
        let x' := { x with attempts := x.attempts + 1, deadline := s.tick + ticksUs (f.rto0 * 2 ^ (x.attempts + 1)) }
        (s.modFab p fun f => f.modChan m q fun c => { c with out := c.out.map fun y => if y.pkt.psn == psn then x' else y }).launch p m q x' (some x.plane)

def execPacketTimeout (p m q psn : Nat) (s : State) : Host.Outcome State Fault Refusal :=
  answer (Instr.packetTimeout p m q psn).wf (doPacketTimeout p m q psn s)

/-! ## Heartbeats (R231, R232) -/

/-- Ticks of one heartbeat interval. -/
def Fabric.hbTicks (f : Fabric) : Nat := ticksUs (100 * f.hb)

/-- When a module was last heard on a plane. -/
def Fabric.heard (f : Fabric) (m pl : Nat) : Option Nat := (f.heardAt.find? fun x => x.1 == m && x.2.1 == pl).map (·.2.2)

def Fabric.setHeard (f : Fabric) (m pl t : Nat) : Fabric := { f with heardAt := f.heardAt.filter (fun x => !(x.1 == m && x.2.1 == pl)) ++ [(m, pl, t)] }

/-- Once per interval heartbeats go out; entries newly watched are timed from now. -/
def doHeartbeatTimer (p : Nat) (s : State) : State :=
  let q := s.part p
  if q.job.isNone ∨ s.tick < q.fab.hbTick + q.fab.hbTicks then s
  else
    let s := s.heartbeats p (stateCode q.st)
    let ups := s.upPlanes p
    s.modFab p fun f =>
      let w := f.watched s.moduleId
      let kept := f.heardAt.filter fun x => w.contains x.1
      let f := { f with hbTick := s.tick, heardAt := kept, noPlane := if ups.isEmpty then some (f.noPlane.getD s.tick) else none }
      (w.flatMap fun m => (List.range 8).map fun pl => (m, pl)).foldl (fun f (m, pl) => if (f.heard m pl).isNone then f.setHeard m pl s.tick else f) f

def execHeartbeatTimer (p : Nat) (s : State) : Host.Outcome State Fault Refusal := answer (Instr.heartbeatTimer p).wf (doHeartbeatTimer p s)

/-- A heartbeat brings its plane up for the sender; LEFT of a watched entry declares it lost. -/
def State.takeHeartbeat (s : State) (k : HtPkt) (p : Nat) : State :=
  let m := k.srcModule
  let step := leNat (k.payload.take 6)
  let round := leNat ((k.payload.drop 6).take 4)
  let code := (k.payload.getD 10 0#8).toNat
  let s := s.modFab p fun f => { f.setHeard m k.plane s.tick with
    dead := f.dead.filter fun x => !(x.1 + f.idBase == m && x.2 == k.plane), peers := f.peers.filter (fun x => x.1 != m) ++ [(m, step, round, code)] }
  let s := if code = 0x80 ∧ ((s.part p).fab.watched s.moduleId).contains m then s.declareLost p m else s
  s.pump p m k.srcPart

def execHeartbeat (pkt : HtPkt) (s : State) : Host.Outcome State Fault Refusal := answer true (s.packetEvent [0x0A] anyPkt pkt (State.takeHeartbeat · pkt))

/-- A watched entry's plane goes down after three silent intervals. -/
def doPlaneDown (p id pl : Nat) (s : State) : State :=
  let f := (s.part p).fab
  match f.heard id pl with
  | some t =>
    if (s.part p).job.isSome && (f.watched s.moduleId).contains id && decide (t + 3 * f.hbTicks ≤ s.tick) then
      s.modFab p fun f => { f with dead := if f.dead.contains (id - f.idBase, pl) then f.dead else f.dead ++ [(id - f.idBase, pl)] }
    else s
  | none => s

def execPlaneDown (p id pl : Nat) (s : State) : Host.Outcome State Fault Refusal := answer (Instr.planeDown p id pl).wf (doPlaneDown p id pl s)

/-- Has a watched entry been silent on every plane for `n` intervals? -/
def Fabric.silent (f : Fabric) (now m n : Nat) : Bool :=
  let l := f.heardAt.filter fun x => x.1 == m
  !l.isEmpty && l.all fun x => x.2.2 + n * f.hbTicks ≤ now

def doPeerLost (p id : Nat) (s : State) : State :=
  let f := (s.part p).fab
  if (f.watched s.moduleId).contains id && f.silent s.tick id 5 then s.declareLost p id else s

def execPeerLost (p id : Nat) (s : State) : Host.Outcome State Fault Refusal := answer (Instr.peerLost p id).wf (doPeerLost p id s)

/-! ## Links (R223, R236) -/

/-- A sub-interface without a link: what waits on it moves to the port's others, and every unacknowledged packet last sent on it is sent again at
once on other candidates, which counts as no attempt (R223, R224). -/
def State.resendSub (s : State) (pl k : Nat) : State :=
  let s := s.modPort pl fun x => (x.strip k).rehome
  s.each (List.range s.nparts) fun s p => s.each (s.part p).fab.chans fun s c =>
    if c.mod = s.moduleId then s else s.each (c.out.filter fun x => x.plane == pl && x.sub == k) fun s x => s.launch p c.mod c.part x (some pl)

/-- A flap counted: the third in 10 s holds the sub-interface dark, the third hold-down in 60 s keeps it down (R236). -/
def State.flap (s : State) (q k : Nat) : State :=
  let x := (s.port q).sub k
  let fl := x.flaps.filter (fun t => s.tick < t + ticksSec 10) ++ [s.tick]
  let rec_ : FaultRec := { recPart (portPart s.nparts q) sevCE 0x51 with resClass := 7, resIndex := 8 * q + k }
  if fl.length < 3 then s.modPort q fun y => y.modSub k fun z => { z with flaps := fl }
  else
    let hs := x.holds.filter (fun t => s.tick < t + ticksSec 60) ++ [s.tick]
    let s := s.raise rec_
    if hs.length < 3 then s.modPort q fun y => y.modSub k fun z => { z with flaps := [], holds := hs, heldAt := some s.tick }
    else (s.modPort q fun y => { y.modSub k fun z => { z with flaps := [], holds := [], heldAt := none } with cfg := y.cfg - (if bit y.cfg (11 + k) then 2 ^ (11 + k) else 0) }).raise
      { rec_ with sev := sevDef, code := 0x52 }

/-- A sub-interface loses its link. -/
def doLinkDown (q k : Nat) (s : State) : State :=
  if !((s.port q).sub k).up then s
  else ((s.modPort q fun y => y.modSub k fun z => { z with up := false }).resendSub q k).flap q k

def execLinkDown (port sub : Nat) (s : State) : Host.Outcome State Fault Refusal := answer (Instr.linkDown port sub).wf (doLinkDown port sub s)

/-- May a sub-interface carry light: released by start-up, enabled by its port's configuration, and not held? -/
def State.mayTrain (s : State) (q k : Nat) : Bool :=
  let x := s.port q
  s.power.row == 11 && s.power.pstate != .p4 && !x.pllLost && pcAdmin x.cfg && (pcSubEn x.cfg).testBit k && decide (k < subCount x.cfg) && (x.sub k).heldAt.isNone

/-- A sub-interface trains: waiting packets move again. -/
def doLinkUp (q k : Nat) (s : State) : State :=
  if !s.mayTrain q k then s
  else
    let s := s.modPort q fun y => (y.modSub k fun z => { z with up := true }).rehome
    s.each (List.range s.nparts) fun s p =>
      let s := if (s.upPlanes p).isEmpty then s else s.modFab p fun f => { f with noPlane := none }
      s.each (s.part p).fab.chans fun s c => s.pump p c.mod c.part

def execLinkUp (port sub : Nat) (s : State) : Host.Outcome State Fault Refusal := answer (Instr.linkUp port sub).wf (doLinkUp port sub s)

/-- The hold-down of 2 s ends. -/
def doLinkHoldExpiry (q k : Nat) (s : State) : State :=
  match ((s.port q).sub k).heldAt with
  | some t => if t + ticksSec 2 ≤ s.tick then s.modPort q fun y => y.modSub k fun z => { z with heldAt := none } else s
  | none => s

def execLinkHoldExpiry (port sub : Nat) (s : State) : Host.Outcome State Fault Refusal :=
  answer (Instr.linkHoldExpiry port sub).wf (doLinkHoldExpiry port sub s)

end Sys2Proof.Machine
end

