-- ==== Sys2Proof/Machine/Outer.lean ====
section
/-! DEFINITION. Outer segments: sealing and sending, the checks of reception, delivery over the wide area, speakers and round words
(R246-R256, R261, R262, R266). -/

namespace Sys2Proof.Machine

/-! ## `OUTER_SEG_HDR` (Table 11-6) -/

def ohHeader (x : OuterSeg) : Nat :=
  pack [(4, x.version), (4, x.type), (2, x.fmt), (1, b01 x.last), (5, x.blockCount), (13, x.srcIsland), (13, x.dstIsland), (20, x.srcModule), (20, x.dstModule),
    (2, x.srcPart), (2, x.dstPart), (16, x.assumeGen), (32, x.round), (24, x.slab), (16, x.segIndex), (32, x.keyEpoch), (64, x.sendCtr), (114, x.rsv)]

/-- The IPv6 address of a locator behind a plane's upper half (R214, R246). -/
def ip6 (upper loc : Nat) : Nat := upper * 2 ^ 64 + loc

/-- The round open at the wide-area engine: the new one only after its boundary work (R256). -/
def Run.openRound (r : Run) : Nat := if r.holds.contains .outerWork then r.round - 1 else r.round

/-- Index and entry of an island of the exchange. -/
def Outer.island_ (o : Outer) (isl : Nat) : Option (Nat × Nat) := firstWith (fun e => oiIsland e == isl) o.islands

/-- The speaker of a slab in an island: module and partition (Table 11-3). -/
def State.speaker (s : State) (e slab : Nat) : Nat × Nat := let w := s.word (gLocal (oiSpeakers e) + 4 * slab) 4; (bits w 31 12, bits w 11 10)

/-! ## Destinations (R250, R253) -/

def Outer.dest (o : Outer) (isl m q : Nat) : Dest :=
  match o.dests.find? fun d => d.isl == isl && d.mod == m && d.part == q with
  | some d => d
  | none =>
    let c := o.cfg.getD 0
    { isl := isl, mod := m, part := q, srtt := ticksMs (rcRtt c), rttvar := ticksMs (rcRtt c) / 2, win := min 64 (rcWinMax c) }

def State.modDest (s : State) (p isl m q : Nat) (f : Dest → Dest) : State := s.modOuter p fun o =>
  let d := f (o.dest isl m q)
  if o.dests.any fun d => d.isl == isl && d.mod == m && d.part == q then
    { o with dests := o.dests.map fun x => if x.isl == isl && x.mod == m && x.part == q then d else x }
  else { o with dests := o.dests ++ [d] }

/-- Timer value: srtt + 4 rttvar, from 2 ms to 4 s (R252). -/
def Dest.rto (d : Dest) : Nat := max (ticksMs 2) (min (ticksSec 4) (d.srtt + 4 * d.rttvar))

/-- Reorder allowance: max(srtt ÷ 4, 1 ms) (R251). -/
def Dest.reo (d : Dest) : Nat := max (d.srtt / 4) (ticksMs 1)

def absDiff (a b : Nat) : Nat := (a - b) + (b - a)

/-- One sample of the estimator (R253), in whole ticks, rounded down (DESIGN CHOICE, log entry 33); whether it re-seeded. -/
def Dest.sample (d : Dest) (r : Nat) : Dest × Bool :=
  let far := if max (d.srtt / 4) 200000 < absDiff r d.srtt then d.far + 1 else 0
  if far = 3 then ({ d with srtt := r, rttvar := r / 2, far := 0, reseeds := d.reseeds + 1 }, true)
  else ({ d with far := far, rttvar := (3 * d.rttvar + absDiff d.srtt r) / 4, srtt := (7 * d.srtt + r) / 8 }, false)

/-- The plane after the last one used, round robin over the usable, up planes (R250). -/
def nextPlane (ups : List Nat) (last : Nat) : Option Nat := (ups.find? fun q => last < q).orElse fun _ => ups.head?

/-! ## Sending (R246, R248) -/

/-- Do sends toward an island stop for want of a key: the newest key of its pair is EXHAUSTED, or a slot of it is FAULTED (R248, R282, R286)? -/
def State.sendStopped (s : State) (e : Nat) : Bool := s.cipher.stopped (oiTx e) || s.cipher.stopped (oiTxAlt e)

/-- A segment sealed under the current send key toward an island and sent; its counter, or none where nothing can be sent. A send pair
whose use left is below the segment's writes one record (R248, R282). -/
def State.sendOuter (s : State) (p e m q : Nat) (x : OuterSeg) (body : List Byte) : State × Option Nat :=
  let o := (s.part p).outer
  let isl := oiIsland e
  let d := o.dest isl m q
  match nextPlane (s.upPlanes p) d.plane with
  | none => (s, none)
  | some pl =>
    if !s.hasNet || !s.idValid || (s.coresOf p).isEmpty then (s, none)
    else
      let x := { x with version := 1, srcIsland := rcIsland (o.cfg.getD 0), dstIsland := isl, srcModule := s.moduleId, dstModule := m, srcPart := p, dstPart := q
                        assumeGen := (s.part p).fab.genOf s.moduleId }
      match if s.sendStopped e then none else s.sealNow p (oiTx e) 114 (leBytes 48 (ohHeader x)) body with
      | none =>
        let spent := s.sendStopped e || (match s.cipher.current (oiTx e) with
          | some k => decide ((s.slot k).remaining < ceilDiv body.length 16 + 1)
          | none => false)
        if spent && !o.keyStop.contains isl then
          ((s.modOuter p fun o => { o with keyStop := setIns isl o.keyStop }).raise { recPart p sevDef 0x61 with resClass := 11, detail := oiTx e }, none)
        else (s, none)
      | some (s, aad, c, t) =>
        let h := leNat aad
        let ctr := bits h 177 114
        let loc := d.loc.getD (s.word (gLocal (oiLocs e) + 4 * (m - oiBase e)) 4)
        let s := s.modOuter p fun o => { o with keyStop := setDel isl o.keyStop }
        let s := s.modDest p isl m q fun d => { d with plane := pl, sends := assocSet ctr s.tick d.sends }
        (s.egress pl 2 (some p) (body.length + 150) { srcPort := some (0xC000 + Config.outerHash x.slab x.segIndex % 2 ^ 14), dstPort := some (rcUdp (o.cfg.getD 0)) }
          (.outer (ip6 (s.word (gLocal (oiPrefixes e) + 8 * pl) 8) loc)
            { x with keyEpoch := bits h 209 178, sendCtr := ctr, cipher := c, tag := t, locator := s.net.locator, plane := pl }), some ctr)

/-- An ACK for a source module, slab and round (R249, Table 11-7): cumulative index, echoed counter, hold, bitmap of the 256 segments above
the cumulative index. -/
def State.sendOuterAck (s : State) (p e m q slab round ctr held : Nat) (got : List Nat) : State :=
  let cum := ((List.range (got.length + 1)).find? fun i => !got.contains i).getD 0
  let map := ((List.range 256).filterMap fun i => if got.contains (cum + 1 + i) then some (2 ^ i) else none).sum
  (s.sendOuter p e m q { type := 1, fmt := rcFmt (((s.part p).outer.cfg).getD 0), round := round, slab := slab, segIndex := cum } (leBytes 8 ctr ++ leBytes 4 (satTo 32 held) ++ leBytes 32 map)).1

/-- The receive state of a source, slab and round is acknowledged. -/
def State.ackRx (s : State) (p e : Nat) (r : OuterRx) : State :=
  let s := s.modOuter p fun o => { o with
    rxs := o.rxs.map fun y => if y.isl == r.isl && y.mod == r.mod && y.slab == r.slab && y.round == r.round then { y with unacked := 0, oldest := none } else y }
  s.sendOuterAck p e r.mod r.part r.slab r.round r.lastCtr (s.tick - r.lastTick) r.got

/-- HELLO payload: layout digest, current round, first_round of the own entry (Table 11-7). -/
def State.digest (s : State) (p j : Nat) : Nat :=
  let o := (s.part p).outer
  let c := o.cfg.getD 0
  let fmt := (o.slabs[j]?).elim 7 fun x => s.slabFmt p x
  crc32 (leBytes 4 (rcModel c) ++ leBytes 4 (rcH c) ++ leBytes 4 (rcFmt c) ++ leBytes 4 fmt)

def State.sendHello (s : State) (p j e m q : Nat) (greet : Bool) : State :=
  let o := (s.part p).outer
  let c := o.cfg.getD 0
  let r := (s.part p).run.openRound
  let slab := (o.slabs[j]?).elim 0 fun x => osSlab x.desc
  let (s, k) := s.sendOuter p e m q { type := 3, fmt := rcFmt c, round := r, slab := slab }
    (leBytes 4 (s.digest p j) ++ leBytes 4 r ++ leBytes 4 (oiFirst (o.islands.getD (rcOwn c) 0)))
  if k.isSome then s.modDest p (oiIsland e) m q fun d => { d with helloAt := some s.tick, greeted := greet } else s

/-! ## OUTER_SEND (R250, R256) -/

/-- Is the own term of a round staged? An undetermined progress word is phase 1: the staged term stands (R267, R270). -/
def State.staged (s : State) (c j : Nat) (x : SlabSt) (r : Nat) : Bool := x.since ≤ r && (match s.progressVote c j with
  | some (w, _) => progressWord r 1 ≤ w
  | none => true)

/-- Blocks of a segment of a slab of `n` elements. -/
def segCountOf (f n seg : Nat) : Nat := min (segBlocks f) (slabBlocks n - seg * segBlocks f)

/-- The staged bytes of a segment of the own term: a local address and a length. -/
def Outer.segRange (o : Outer) (j round seg : Nat) (x : SlabSt) : Nat × Nat :=
  let c := o.cfg.getD 0
  let f := rcFmt c
  (termAddr c round (rcOwn c) j + seg * segBlocks f * blockBytes f, segCountOf f (osCount x.desc) seg * blockBytes f)

/-- DATA of the own term: the staged bytes, a marked line as zeros. -/
def State.dataSegment (s : State) (p j e m q round seg : Nat) (x : SlabSt) : State × Option Nat :=
  let c := ((s.part p).outer.cfg).getD 0
  let f := rcFmt c
  let n := osCount x.desc
  let (la, len) := (s.part p).outer.segRange j round seg x
  let s := match s.firstMarked la len with
    | some a => s.slagBite p (s.global a)
    | none => s
  s.sendOuter p e m q { type := 0, fmt := f, last := seg + 1 == slabSegs f n, blockCount := segCountOf f n seg, round := round, slab := osSlab x.desc, segIndex := seg } (s.exported la len)

/-- The speaker sends one segment of the oldest round whose term is staged and whose segment is neither sent nor acknowledged, while the smith feeds
the reads of outer rounds (R150). -/
def doOuterSend (p isl slab seg : Nat) (found : Found) (s : State) : State :=
  let q := s.part p
  let o := q.outer
  match o.cfg, o.island_ isl, o.slabIx slab with
  | some c, some (t, e), some j =>
    match o.slabs[j]? with
    | none => s
    | some x =>
      let r := q.run.openRound
      let due := fun (k : Nat) => s.staged c j x k && jpRound0 (s.params p) ≤ k && oiFirst e ≤ k + 1 &&
        !(o.outs.any fun y => y.isl == isl && y.slab == slab && y.round == k && y.seg == seg) && !o.acked.contains (isl, slab, k, seg)
      let (m, d) := s.speaker e slab
      let inFlight := (o.outs.filter fun y => y.isl == isl && s.speaker e y.slab == (m, d)).length
      if !s.feeds p ∨ t = rcOwn c ∨ !oiEnabled e ∨ !osSpeaker x.desc ∨ slabSegs (rcFmt c) (osCount x.desc) ≤ seg ∨ (o.dest isl m d).win ≤ inFlight then s
      else match ([r - 2, r - 1].eraseDups.filter fun k => k + 1 ≤ r).find? due with
        | none => s
        | some k =>
          match (s.meet [o.segRange j k seg x] found).dataSegment p j e m d k seg x with
          | (s, none) => s
          | (s, some _) =>
            let z := (s.part p).outer.dest isl m d
            let key := (isl, slab, k, seg)
            (s.roundCount p (if o.again.contains key then rsResent else rsSent) 1).modOuter p fun o => { o with
              again := o.again.filter (· != key)
              outs := o.outs ++ [{ isl := isl, slab := slab, round := k, seg := seg, first := s.tick, last := s.tick, timer := s.tick + z.rto, rto := z.rto, plane := z.plane }] }
  | _, _, _ => s

def execOuterSend (p isl slab : Nat) (seg : Reading) (s : State) : Host.Outcome State Fault Refusal :=
  answer (Instr.outerSend p isl slab seg).wf (doOuterSend p isl slab seg.of seg.found s)

/-- An outstanding segment is sent again under the current key (R248, R251). -/
def State.resendOuter (s : State) (p : Nat) (y : OutSeg) : State :=
  let o := (s.part p).outer
  match o.island_ y.isl, o.slabIx y.slab with
  | some (_, e), some j =>
    match o.slabs[j]? with
    | none => s
    | some x =>
      let (m, q) := s.speaker e y.slab
      match s.dataSegment p j e m q y.round y.seg x with
      | (s, none) => s
      | (s, some _) =>
        let z := (s.part p).outer.dest y.isl m q
        (s.roundCount p rsResent 1).modOuter p fun o => { o with outs := o.outs.map fun w =>
          if w.isl == y.isl && w.slab == y.slab && w.round == y.round && w.seg == y.seg then { w with last := s.tick, timer := s.tick + z.rto, rto := z.rto, laterAck := none, plane := z.plane } else w }
  | _, _ => s

/-! ## Reception: the checks of R247 -/

/-- Payload bytes that a type and its block count give. -/
def outerLen (x : OuterSeg) : Nat := if x.type = 0 then x.blockCount * blockBytes x.fmt else if x.type = 1 then 44 else if x.type = 3 then 12 else 0

def outerFormOk (x : OuterSeg) : Bool :=
  x.version == 1 && x.type ≤ 3 && x.fmt ≤ 2 && x.rsv == 0 && (if x.type = 0 then 1 ≤ x.blockCount && x.blockCount ≤ segBlocks x.fmt else x.blockCount == 0 && !x.last) &&
  x.cipher.length == outerLen x && x.tag.length == 16

/-- A PACKET_BAD record of the wide area, at most one per source address, plane prefix and locator, per second. -/
def State.outerBad (s : State) (p : Nat) (x : OuterSeg) : State := s.packetBad p (2 ^ 32 * (1 + x.plane) + x.locator)

/-- Do format, block count and last flag of DATA agree with the configuration and the slab of the partition it names (check 2)? -/
def State.outerShapeOk (s : State) (x : OuterSeg) : Bool :=
  let o := (s.part x.dstPart).outer
  x.type != 0 || x.dstModule != s.moduleId || s.nparts ≤ x.dstPart || (match o.cfg with
    | none => true
    | some c => x.fmt == rcFmt c && (match (o.slabIx x.slab).bind fun j => o.slabs[j]? with
      | none => true
      | some sl => let n := osCount sl.desc; x.segIndex < slabSegs x.fmt n && x.blockCount == segCountOf x.fmt n x.segIndex && x.last == (x.segIndex + 1 == slabSegs x.fmt n)))

/-- The receive slot that a segment's epoch selects (R248, R283): a PENDING one, the current one, or the older one in its grace window. -/
def State.rxSlot (s : State) (o : Outer) (e epoch : Nat) : Option Nat :=
  let ok := fun (k : Nat) =>
    let a := s.slot k
    swMode a.word == 0 && swDir a.word == 1 && swEpoch a.word == epoch &&
      (a.state == 2 || (a.state == 1 && (s.cipher.current (oiRx e) == some k || o.grace.any fun g => g.1 == oiIsland e && g.2.2.2 == k)))
  [oiRx e, oiRxAlt e].find? ok

/-- Acceptance under a slot: the first under a PENDING one makes it ACTIVE and opens the grace window; later ones count in it. -/
def State.accepted (s : State) (p e k m q : Nat) : State :=
  let isl := oiIsland e
  let s := s.modDest p isl m q fun d => { d with heard := s.tick }
  if (s.slot k).state = 2 then
    let old := s.cipher.current (oiRx e)
    let s := s.modCipher fun c => c.modSlot k fun a => a.setState 1
    match old with
    | some j => s.modOuter p fun o => { o with grace := o.grace.filter (fun g => g.1 != isl) ++ [(isl, s.tick, 1, j)] }
    | none => s
  else s.modOuter p fun o => { o with grace := o.grace.map fun g => if g.1 == isl && g.2.2.2 != k then (g.1, g.2.1, g.2.2.1 + 1, g.2.2.2) else g }

/-- Drop under a check of R247: counted, and for checks 2-7 in the round's record (Table 11-10). -/
def State.outerDrop (s : State) (p n : Nat) : State := (s.count (.outerCheck n)).roundCount p rsRejected (if 2 ≤ n ∧ n ≤ 7 then 1 else 0)

/-- What checks 1-7 leave of a segment: partition, island entry, slot, plaintext. -/
structure OuterIn where
  p : Nat
  e : Nat
  k : Nat
  body : List Byte

/-- Checks 1-7, and the silence of an island whose layout differs (R247). A type of another row is no event of this one. -/
def State.outerReceive (s : State) (type : Nat) (x : OuterSeg) : State × Option OuterIn :=
  if !s.hasNet ∨ (x.type ≤ 3 ∧ x.type ≠ type) then (s, none)
  else if x.vid ≠ 0 then (s.count .badTag, none)
  else if !x.udpOk then (s.count (.outerCheck 1), none)
  else if !outerFormOk x || !s.outerShapeOk x then ((s.outerDrop x.dstPart 2).outerBad 0 x, none)
  else
    let p := x.dstPart
    let o := (s.part p).outer
    match o.cfg with
    | none => (s.count (.outerCheck 3), none)
    | some c =>
      if x.dstIsland ≠ rcIsland c ∨ x.dstModule ≠ s.moduleId ∨ !s.idValid ∨ s.nparts ≤ p then (s.outerDrop p 3, none)
      else match o.island_ x.srcIsland with
        | none => (s.outerDrop p 4, none)
        | some (t, e) =>
          if t = rcOwn c ∨ !oiEnabled e ∨ x.srcModule < oiBase e ∨ oiBase e + oiCount e ≤ x.srcModule then (s.outerDrop p 4, none)
          else match s.rxSlot o e x.keyEpoch with
            | none => (s.outerDrop p 5, none)
            | some k =>
              let use := ceilDiv x.cipher.length 16 + 1
              if (s.slot k).remaining < use ∨ (s.coresOf p).isEmpty then (s.outerDrop p 5, none)
              else
                let a := s.slot k
                let s := s.modCipher fun y => y.modSlot k fun a => a.charge use
                match gcmOpenBytes a.gcmKey (gcmIv x.srcModule x.srcPart x.keyEpoch x.sendCtr) (leBytes 48 (ohHeader x)) x.cipher x.tag with
                | none => ((s.outerDrop p 6).outerBad p x, none)
                | some body =>
                  let d := o.dest x.srcIsland x.srcModule x.srcPart
                  if x.assumeGen < d.gen then (s.outerDrop p 7, none)
                  else
                    let up := decide (d.gen < x.assumeGen)
                    let s := if up then s.modDest p x.srcIsland x.srcModule x.srcPart fun d => { d with gen := x.assumeGen, loc := some x.locator, moved := true } else s
                    if x.type ≠ 3 ∧ o.mute.contains x.srcIsland then (s, none)
                    else (s, some { p := p, e := e, k := k, body := body })

/-- Is a round held (R256)? -/
def State.holdsRound (s : State) (p r : Nat) : Bool := let n := (s.part p).run.openRound; r ≤ n && n ≤ r + 2

/-! ## DATA (R249, R255-R257) -/

/-- A segment noted in the arrival bitmap of its term (R268). -/
def State.noteArrival (s : State) (c round t j seg : Nat) : State :=
  let a := bitmapAddr c round t j + seg / 8
  s.store a (leBytes 1 (s.word a 1 ||| 2 ^ (seg % 8))) false

/-- A segment's plaintext is placed in staging and sent on to every replica. -/
def State.placeData (s : State) (p j e : Nat) (x : OuterSeg) (body : List Byte) (t : Nat) (sl : SlabSt) : State :=
  let c := ((s.part p).outer.cfg).getD 0
  let f := rcFmt c
  let la := termAddr c x.round t j + x.segIndex * segBlocks f * blockBytes f
  let bad := (chunks (blockBytes f) body).any fun b => (decodeBlock f b).2
  let mine := fun (y : OuterRx) => y.isl == x.srcIsland && y.mod == x.srcModule && y.slab == x.slab && y.round == x.round
  let o := (s.part p).outer
  let fresh : OuterRx := { isl := x.srcIsland, mod := x.srcModule, part := x.srcPart, slab := x.slab, round := x.round }
  let r := (o.rxs.find? mine).getD fresh
  let s := s.store la body false
  let s := if bad && !r.rejected then s.raise { recPart p sevDef 0x60 with addr := x.srcModule, detail := x.slab } else s
  let (s, n) := (s.replicas sl.desc).foldl (fun (a : State × Nat) g =>
    let (u, k) := a.1.remoteWrite p (g + (la - gLocal (rcStaging c))) body [] (.fwd x.srcIsland x.srcModule x.slab x.round); (u, a.2 + k)) (s, 0)
  let got := setIns x.segIndex r.got
  let total := if x.last then some (x.segIndex + 1) else r.total
  let full := (match total with | some k => got.length == k | none => false) && r.doneAt.isNone
  let r' := { r with
    got := got, total := total, unacked := r.unacked + 1, oldest := some (r.oldest.getD s.tick), lastCtr := x.sendCtr, lastTick := s.tick
    fwdPend := r.fwdPend + n, rejected := r.rejected || bad, doneAt := if full then some (s.part p).outer.order else r.doneAt }
  let s := s.modOuter p fun o => { o with
    order := o.order + b01 full, rxs := if o.rxs.any mine then o.rxs.map fun y => if mine y then r' else y else o.rxs ++ [r'] }
  let s := s.noteArrival c x.round t j x.segIndex
  (if 16 ≤ r'.unacked then s.ackRx p e r' else s).heldTest p

/-- A DATA segment: the round, the speakers, duplicates, then its place (checks 8-10, R256). -/
def State.takeOuterData (s : State) (x : OuterSeg) (v : OuterIn) : State :=
  let p := v.p
  let o := (s.part p).outer
  let n := (s.part p).run.openRound
  if n < x.round then if x.round = n + 1 then (s.outerDrop p 8).roundCount p rsEarly 1 else s.outerDrop p 8
  else if x.round + 2 < n then ((s.outerDrop p 8).count .outerExpired).sendOuterAck p v.e x.srcModule x.srcPart x.slab x.round x.sendCtr 0 (List.range (x.segIndex + 1))
  else match o.slabIx x.slab with
    | none => s.outerDrop p 9
    | some j => match o.slabs[j]? with
      | none => s
      | some sl =>
        if s.speaker v.e x.slab ≠ (x.srcModule, x.srcPart) ∨ !osSpeaker sl.desc ∨ x.round < oiFirst v.e then s.outerDrop p 9
        else
          match o.rxs.find? fun y => y.isl == x.srcIsland && y.mod == x.srcModule && y.slab == x.slab && y.round == x.round && y.got.contains x.segIndex with
          | some y => (s.outerDrop p 10).ackRx p v.e { y with lastCtr := x.sendCtr, lastTick := s.tick }
          | none => (s.accepted p v.e v.k x.srcModule x.srcPart).placeData p j v.e x v.body ((o.island_ x.srcIsland).elim 0 (·.1)) sl

def execOuterDataSegment (seg : OuterSeg) (s : State) : Host.Outcome State Fault Refusal :=
  answer true (match s.outerReceive 0 seg with
    | (s, none) => s
    | (s, some v) => s.takeOuterData seg v)

def doOuterAckTimer (p m slab round : Nat) (s : State) : State :=
  let o := (s.part p).outer
  match o.rxs.find? fun y => y.mod == m && y.slab == slab && y.round == round && y.oldest.isSome with
  | none => s
  | some y =>
    match y.oldest, o.island_ y.isl with
    | some t, some (_, e) => if t + ticksMs 1 ≤ s.tick then s.ackRx p e y else s
    | _, _ => s

def execOuterAckTimer (p mod slab round : Nat) (s : State) : Host.Outcome State Fault Refusal :=
  answer (Instr.outerAckTimer p mod slab round).wf (doOuterAckTimer p mod slab round s)

/-! ## ACK (R249-R253) -/

/-- Does an ACK cover a segment? -/
def outerCovers (x : OuterSeg) (map seg : Nat) : Bool := seg < x.segIndex || (x.segIndex < seg && seg - x.segIndex ≤ 256 && map.testBit (seg - x.segIndex - 1))

/-- Window after an ACK covering `n` segments; one that arrives with a CE mark halves it at most once per srtt (R250; log entry 34). -/
def Dest.steer (d : Dest) (now n wmax : Nat) (ce : Bool) : Dest :=
  if ce then (if d.halved = 0 ∨ d.halved + d.srtt ≤ now then { d with win := max 16 (d.win / 2), halved := now } else d)
  else if d.win ≤ d.grown + n then { d with grown := d.grown + n - d.win, win := min wmax (d.win + 1) }
  else { d with grown := d.grown + n }

/-- The sample of the delay an ACK gives: the segment or the probe it answers is struck off (R250). -/
def State.ackSample (s : State) (x : OuterSeg) (p ctr held : Nat) : State :=
  let d := (s.part p).outer.dest x.srcIsland x.srcModule x.srcPart
  match (d.sends.find? fun y => y.1 == ctr).map (·.2) with
  | some t =>
    let (d', re) := d.sample (s.tick - t - held)
    (s.modDest p x.srcIsland x.srcModule x.srcPart fun _ =>
      { d' with sends := d'.sends.filter (fun y => y.1 != ctr), probes := d'.probes.filter fun y => !(y.1 == x.slab && y.2.1 == ctr) }).roundCount p rsReseeds (b01 re)
  | none => s

/-- Whether a segment still uncovered is one of the round, the slab and the speaker that an ACK answers. -/
def State.ackHere (s : State) (x : OuterSeg) (e : Nat) (y : OutSeg) : Bool :=
  y.isl == x.srcIsland && y.slab == x.slab && y.round == x.round && s.speaker e y.slab == (x.srcModule, x.srcPart)

/-- The segments `cov` are covered by an ACK: they are struck off, the window steers, and those sent before the latest of them are marked. -/
def State.ackCover (s : State) (x : OuterSeg) (e : Nat) (p : Nat) (cov : List OutSeg) : State :=
  let isl := x.srcIsland
  let latest := (cov.map (·.first)).foldl max 0
  let mark := fun (y : OutSeg) =>
    if y.isl == isl && s.speaker e y.slab == (x.srcModule, x.srcPart) && y.first < latest then { y with laterAck := some (y.laterAck.getD s.tick) } else y
  (s.modDest p isl x.srcModule x.srcPart fun d => d.steer s.tick cov.length (rcWinMax ((s.part p).outer.cfg.getD 0)) x.ce).modOuter p fun o => { o with
    acked := o.acked ++ cov.map fun y => (isl, y.slab, y.round, y.seg)
    outs := (o.outs.filter fun y => !cov.contains y).map mark }

/-- An ACK: a sample, what it covers, and the losses that it shows (R251). -/
def State.takeOuterAck (s : State) (x : OuterSeg) (v : OuterIn) : State :=
  let p := v.p
  if !s.holdsRound p x.round then s.outerDrop p 8
  else
    let s := s.accepted p v.e v.k x.srcModule x.srcPart
    let ctr := leNat (v.body.take 8)
    let d := (s.part p).outer.dest x.srcIsland x.srcModule x.srcPart
    let probe := d.probes.find? fun y => y.1 == x.slab && y.2.1 == ctr
    let cov := (s.part p).outer.outs.filter fun y => s.ackHere x v.e y && outerCovers x (leNat (v.body.drop 12)) y.seg
    let s := (s.ackSample x p ctr (leNat ((v.body.drop 8).take 4))).ackCover x v.e p cov
    match probe with
    | none => s
    | some (_, _, t) =>
      let reo := ((s.part p).outer.dest x.srcIsland x.srcModule x.srcPart).reo
      s.each ((s.part p).outer.outs.filter fun y => s.ackHere x v.e y && decide (y.last + reo < t)) fun s y => s.resendOuter p y

def execOuterAck (seg : OuterSeg) (s : State) : Host.Outcome State Fault Refusal :=
  answer true (match s.outerReceive 1 seg with
    | (s, none) => s
    | (s, some v) => s.takeOuterAck seg v)

/-- A segment still uncovered when reo has passed since an ACK covered a later one is resent. -/
def doReorderLoss (p isl slab round seg : Nat) (s : State) : State :=
  let o := (s.part p).outer
  match o.outs.find? fun y => y.isl == isl && y.slab == slab && y.round == round && y.seg == seg, o.island_ isl with
  | some y, some (_, e) =>
    let (m, q) := s.speaker e slab
    match y.laterAck with
    | some t => if t + (o.dest isl m q).reo ≤ s.tick then s.resendOuter p y else s
    | none => s
  | _, _ => s

def execReorderLoss (p isl slab round seg : Nat) (s : State) : Host.Outcome State Fault Refusal :=
  answer (Instr.reorderLoss p isl slab round seg).wf (doReorderLoss p isl slab round seg s)

/-- A timer expires: one PROBE, and every timer toward the destination doubled (R252). -/
def doOuterRtoExpiry (p isl slab round seg : Nat) (s : State) : State :=
  let o := (s.part p).outer
  match o.outs.find? fun y => y.isl == isl && y.slab == slab && y.round == round && y.seg == seg, o.island_ isl with
  | some y, some (_, e) =>
    if s.tick < y.timer then s
    else
      let (m, q) := s.speaker e slab
      let (s, k) := s.sendOuter p e m q { type := 2, fmt := rcFmt (o.cfg.getD 0), round := round, slab := slab, segIndex := seg } []
      let s := match k with
        | some ctr => (s.roundCount p rsProbes 1).modDest p isl m q fun d => { d with probes := d.probes ++ [(slab, ctr, s.tick)] }
        | none => s
      let double := fun (w : OutSeg) =>
        if w.isl == isl && s.speaker e w.slab == (m, q) then { w with rto := min (ticksSec 4) (2 * w.rto), timer := s.tick + min (ticksSec 4) (2 * w.rto) } else w
      s.modOuter p fun o => { o with outs := o.outs.map double }
  | _, _ => s

def execOuterRtoExpiry (p isl slab round seg : Nat) (s : State) : Host.Outcome State Fault Refusal :=
  answer (Instr.outerRtoExpiry p isl slab round seg).wf (doOuterRtoExpiry p isl slab round seg s)

/-! ## PROBE and HELLO (R247, R249, R265) -/

/-- A PROBE is answered at once with an ACK of what has been received. -/
def State.takeProbe (s : State) (x : OuterSeg) (v : OuterIn) : State :=
  let p := v.p
  if !s.holdsRound p x.round then s.outerDrop p 8
  else
    let s := s.accepted p v.e v.k x.srcModule x.srcPart
    match (s.part p).outer.rxs.find? fun y => y.isl == x.srcIsland && y.mod == x.srcModule && y.slab == x.slab && y.round == x.round with
    | some y => s.ackRx p v.e { y with lastCtr := x.sendCtr, lastTick := s.tick, part := x.srcPart }
    | none => s.sendOuterAck p v.e x.srcModule x.srcPart x.slab x.round x.sendCtr 0 []

def execProbe (seg : OuterSeg) (s : State) : Host.Outcome State Fault Refusal :=
  answer true (match s.outerReceive 2 seg with
    | (s, none) => s
    | (s, some v) => s.takeProbe seg v)

/-- A HELLO: an island whose digest differs is not heard until one matches; a generation of the sender that has risen since its last HELLO puts what it
has acknowledged back to be sent; a HELLO that is no answer is answered. -/
def State.takeHello (s : State) (x : OuterSeg) (v : OuterIn) : State :=
  let p := v.p
  let j := ((s.part p).outer.slabIx x.slab).getD 0
  let d := (s.part p).outer.dest x.srcIsland x.srcModule x.srcPart
  let s := s.accepted p v.e v.k x.srcModule x.srcPart
  let ok := leNat (v.body.take 4) == s.digest p j
  let s := if ok then s.modOuter p fun o => { o with mute := setDel x.srcIsland o.mute }
    else (s.modOuter p fun o => { o with mute := setIns x.srcIsland o.mute }).raise { recPart p sevDef 0x53 with addr := x.srcModule }
  let s := if !d.moved then s else (s.modDest p x.srcIsland x.srcModule x.srcPart fun d => { d with moved := false }).modOuter p fun o =>
    let gone := fun (isl slab : Nat) => isl == x.srcIsland && s.speaker v.e slab == (x.srcModule, x.srcPart)
    { o with
      again := o.again ++ o.acked.filter (fun y => gone y.1 y.2.1) ++ (o.outs.filter fun y => gone y.isl y.slab).map fun y => (y.isl, y.slab, y.round, y.seg)
      acked := o.acked.filter (fun y => !gone y.1 y.2.1), outs := o.outs.filter fun y => !gone y.isl y.slab }
  if d.greeted then s.modDest p x.srcIsland x.srcModule x.srcPart fun d => { d with greeted := false }
  else s.sendHello p j v.e x.srcModule x.srcPart false

def execHello (seg : OuterSeg) (s : State) : Host.Outcome State Fault Refusal :=
  answer true (match s.outerReceive 3 seg with
    | (s, none) => s
    | (s, some v) => s.takeHello seg v)

/-- A speaker greets a partner speaker at job start, and after 60 s with nothing accepted from it. -/
def doHelloTimer (p isl slab : Nat) (s : State) : State :=
  let o := (s.part p).outer
  match o.cfg, o.island_ isl, o.slabIx slab with
  | some c, some (t, e), some j =>
    let (m, q) := s.speaker e slab
    let d := o.dest isl m q
    let due := match d.helloAt with
      | none => true
      | some h => d.heard + ticksSec 60 ≤ s.tick && h + ticksSec 60 ≤ s.tick
    if t = rcOwn c ∨ !oiEnabled e ∨ !due ∨ !((o.slabs[j]?).any fun x => osSpeaker x.desc) then s else s.sendHello p j e m q true
  | _, _, _ => s

def execHelloTimer (p isl slab : Nat) (s : State) : Host.Outcome State Fault Refusal := answer (Instr.helloTimer p isl slab).wf (doHelloTimer p isl slab s)

/-! ## GRACE_WINDOW_CLOSE (R248) -/

/-- Largest srtt held toward an island, or rtt_init. -/
def Outer.srttTo (o : Outer) (isl : Nat) : Nat :=
  let l := (o.dests.filter fun d => d.isl == isl).map (·.srtt)
  if l.isEmpty then ticksMs (rcRtt (o.cfg.getD 0)) else l.foldl max 0

/-- The previous epoch closes: 64 acceptances under the newer one, and one srtt since it opened. -/
def doGraceWindowClose (p isl : Nat) (s : State) : State :=
  let o := (s.part p).outer
  match o.grace.find? fun g => g.1 == isl with
  | some (_, t, n, _) => if 64 ≤ n ∧ t + o.srttTo isl ≤ s.tick then s.modOuter p fun o => { o with grace := o.grace.filter fun g => g.1 != isl } else s
  | none => s

def execGraceWindowClose (p isl : Nat) (s : State) : Host.Outcome State Fault Refusal := answer (Instr.graceWindowClose p isl).wf (doGraceWindowClose p isl s)

/-! ## Round words (R261, R262) -/

/-- The partition whose memory holds a global word, when it can be reached. -/
def State.atomicTo (s : State) (p g op a b : Nat) (o : Owner) : State := match s.remotePart p g 8 with
  | some q => s.send p { type := 3, op := op, dstModule := gModule g, dstPart := q, addr := g, payload := leBytes 8 a ++ leBytes 8 b } o
  | none => s.addrErr p g

/-- 1 is added to the word of the round just closed, once its seals are held: at once where the member owns no slab. -/
def doRoundWordAdd (p round : Nat) (s : State) : State :=
  let q := s.part p
  if round + 1 ≠ q.run.openRound ∨ q.outer.added.contains round ∨ !q.outer.allSealed round ∨ q.fenced then s
  else match s.wordPlace p round with
    | none => s
    | some g =>
      let s := s.modOuter p fun o => { o with added := o.added.filter (fun r => round ≤ r + 2) ++ [round] }
      if s.ownRange p g 8 [1, 2] then
        let la := gLocal g
        if s.marked la 8 then s.slagBite p g else s.store la (leBytes 8 ((s.word la 8 + 1) % 2 ^ 64)) false
      else s.atomicTo p g 0 1 0 (.roundAdd round)

def execRoundWordAdd (p round : Nat) (s : State) : Host.Outcome State Fault Refusal := answer (Instr.roundWordAdd p round).wf (doRoundWordAdd p round s)

/-- The held member reads the word of the round it waits for. -/
def doRoundWordPoll (p : Nat) (s : State) : State :=
  let q := s.part p
  if !q.run.holds.contains .roundWord ∨ q.fenced then s
  else match s.wordPlace p q.run.waitRound with
    | none => s
    | some g =>
      if s.ownRange p g 8 [1, 2] then s.landRead p .roundRead (s.bytes (gLocal g) 8) (s.byteMarks (gLocal g) 8)
      else if s.awaits p (fun o => match o with | .roundRead => true | _ => false) || decide (s.poolFree p < 64) then s
      else match s.remotePart p g 8 with
        | some d => s.remoteRead p d g 8 .roundRead
        | none => s.addrErr p g

def execRoundWordPoll (p : Nat) (s : State) : Host.Outcome State Fault Refusal := answer (Instr.roundWordPoll p).wf (doRoundWordPoll p s)

/-- While quorum is missing, the coordinator reports every 10 s the round and the on-time terms of its first unsealed slab. -/
def doRoundHold (p : Nat) (s : State) : State :=
  let q := s.part p
  let rho := q.run.waitRound
  if !q.run.holds.contains .roundWord ∨ !s.isCoordinator p ∨ s.tick < q.run.holdTick + ticksSec 10 then s
  else
    let n := match q.outer.slabs.find? fun x => !x.seals.any fun r => slRound r == rho with
      | some x => 1 + (q.outer.islands.filter fun e => oiEnabled e && q.outer.complete (oiIsland e) (osSlab x.desc) rho).length
      | none => 0
    (s.modRun p fun r => { r with holdTick := s.tick }).notice p 2 (pack [(32, rho), (16, n), (192, 0)])

def execRoundHold (p : Nat) (s : State) : Host.Outcome State Fault Refusal := answer (Instr.roundHold p).wf (doRoundHold p s)

end Sys2Proof.Machine
end

