-- ==== Sys2Proof/Machine/Island.lean ====
section
/-! DEFINITION. Losses, rollbacks and spares in an island: the CONTROL packets, isolation and resumption (R232-R235, R264, R265). -/

namespace Sys2Proof.Machine

/-- A CONTROL packet of one operation with the payload its operands spell (log entry 35). -/
def ctlPkt (op : Nat) (payload : List Byte) (k : HtPkt) : Bool := k.op == op && k.payload == payload

/-- A partition is put out of its island: UCE_PART, its work discarded, LEFT sent, READY with no job (R233). -/
def State.putOut (s : State) (p : Nat) : State := (s.raise (recPart p sevPart (Config.faultCode 233))).dropOut p

/-- No heartbeat of any watched entry, or no usable up plane, for five intervals (R233). -/
def doIsolationTimeout (p : Nat) (s : State) : State :=
  let f := (s.part p).fab
  let w := f.watched s.moduleId
  let dark := match f.noPlane with
    | some t => decide (t + 5 * f.hbTicks ≤ s.tick)
    | none => false
  if (s.part p).job.isSome && ((!w.isEmpty && w.all fun m => f.silent s.tick m 5) || dark) then s.putOut p else s

def execIsolationTimeout (p : Nat) (s : State) : Host.Outcome State Fault Refusal := answer (Instr.isolationTimeout p).wf (doIsolationTimeout p s)

/-! ## LOSS, ROLLBACK, FENCE (R232, R233, R235) -/

/-! ## The spare's announcement (R234, R235) -/

/-- The last partition accepted announces the spare to the coordinator (Table 10-10 row 6). -/
def State.announce (s : State) (p lost e : Nat) : State :=
  if (entParts e).all fun q => (s.part q).fab.assuming.any fun a => a.1 == lost then
    match (s.part p).fab.coordinator with
    | some m => s.control p 2 m ((s.part p).fab.lowPart m) (leBytes 4 lost) .none
    | none => s
  else s

/-- A spare that has announced itself for an ID announces itself again to the coordinator that sends ROLLBACK (R235). -/
def State.reannounce (s : State) (p : Nat) : State := match (s.part p).fab.assuming with
  | some (lost, _) => match (s.part p).fab.entry lost with
    | some (_, e) => if lost = s.moduleId then s else s.announce p lost e
    | none => s
  | none => s

/-- The receiver of a LOSS acts on IDs it still held ACTIVE, when it is the coordinator without them; what it still owed to a lost one goes to the next
(R232). -/
def State.takeLoss (s : State) (ids : List Nat) (p : Nat) : State :=
  let new := ids.filter fun m => (s.part p).fab.entryState m == 1 && m != s.moduleId
  let owed := new.flatMap fun m => (s.part p).fab.owed (some m)
  let t := s.each new fun s m => s.lose p m
  if new.isEmpty ∨ (s.part p).job.isNone then s
  else if t.isCoordinator p then s.coordinatorLoss p (new ++ owed).eraseDups else t.tellLoss p owed

def execLoss (pkt : HtPkt) (ids : List Nat) (s : State) : Host.Outcome State Fault Refusal :=
  answer true (s.packetEvent [0x0B] (ctlPkt 0 (idBytes ids)) pkt fun s p => s.takeLoss ids p)

/-- ROLLBACK from the entry taken as coordinator, or one of lower index: acknowledged before the channels are reset (R222, R233). -/
def State.takeRollback (s : State) (k : HtPkt) (round : Nat) (ids : List Nat) (p : Nat) : State :=
  match (s.part p).fab.coordinator with
  | some c =>
    if c < k.srcModule then s
    else (((s.sendAck p k.srcModule k.srcPart).modFab p fun f => { f with rollRound := round }).doRollback p ids).reannounce p
  | none => s

def execRollback (pkt : HtPkt) (round : Nat) (ids : List Nat) (s : State) : Host.Outcome State Fault Refusal :=
  answer true (s.packetEvent [0x0B] (ctlPkt 1 (leBytes 4 round ++ idBytes ids)) pkt fun s p => s.takeRollback pkt round ids p)

/-- A fenced partition leaves its job; a fenced spare gives up its assumption. -/
def State.takeFence (s : State) (p : Nat) : State :=
  if (s.part p).job.isSome then s.putOut p
  else (s.raise (recPart p sevPart (Config.faultCode 233))).modFab p fun f => { f with assuming := none }

def execFence (pkt : HtPkt) (s : State) : Host.Outcome State Fault Refusal := answer true (s.packetEvent [0x0B] (ofOp 5) pkt State.takeFence)

/-! ## ANNOUNCE, ROUTE_UPD, ROUTE_ACK (R230, R234, R235) -/

/-- The table with the lost ID ACTIVE at the spare's locator and the spare's old index ABSENT; the channels to that ID are new. -/
def Fabric.reroute (f : Fabric) (lost gen locator spare : Nat) : Fabric :=
  match f.entry lost with
  | none => f
  | some (i, e) =>
    let f := f.update fun l => let l := assocSet i (reWith e locator gen 1) l
      match f.entry spare with
      | some (j, e') => assocSet j (reWith e' (reLocator e') (reGen e') 0) l
      | none => l
    { f with chans := f.chans.filter (fun c => c.mod != lost), dead := f.dead.filter (fun x => x.1 != i), heardAt := f.heardAt.filter fun x => x.1 != lost }

/-- The coordinator hears a spare: the first for a lost ID gets it under the next generation, and every table is updated; a later one is
fenced. -/
def State.takeAnnounce (s : State) (k : HtPkt) (lost p : Nat) : State :=
  let f := (s.part p).fab
  match f.entry lost, f.entry k.srcModule with
  | some (_, e), some (j, es) =>
    if !s.isCoordinator p ∨ (s.part p).job.isNone ∨ reState es ≠ 3 then s
    else if reState e ≠ 2 then (if f.assumed.any fun x => x.1 == lost && x.2.2 != j then s.control p 5 k.srcModule k.srcPart [] .none else s)
    else
      let gen := (reGen e + 1) % 65536
      (s.updateRoutes p lost gen (reLocator es) k.srcModule (s.others p [1, 3])).modFab p fun f => { f.reroute lost gen (reLocator es) k.srcModule with
        assumed := f.assumed ++ [(lost, reLocator es, j)] }
  | _, _ => s

def execAnnounce (pkt : HtPkt) (lost : Nat) (s : State) : Host.Outcome State Fault Refusal :=
  answer true (s.packetEvent [0x0B] (ctlPkt 2 (leBytes 4 lost)) pkt fun s p => s.takeAnnounce pkt lost p)

/-- A route update at a member or at another spare: the table changes unless it stands so already, the assumption is kept for a coordinator to come,
and a spare's rollback is over when no listed ID is LOST any more (R230, R235). -/
def Fabric.learn (f : Fabric) (lost gen locator spare : Nat) : Fabric :=
  let same := match f.entry lost with
    | some (_, e) => reState e == 1 && reGen e == gen && reLocator e == locator
    | none => false
  let f := if same then f else { f.reroute lost gen locator spare with assumed := f.assumed.filter (fun a => a.1 != lost) ++ [(lost, locator, spare - f.idBase)] }
  if f.spareHeld && f.lostList.all (fun m => f.entryState m == 1) then { f with spareHeld := false, lostList := [] } else f

/-- A member's table is updated and acknowledged; the spare itself takes the lost ID in every partition that assumes it. -/
def State.takeRouteUpd (s : State) (k : HtPkt) (lost gen locator spare p : Nat) : State :=
  if spare = s.moduleId ∧ (s.part p).fab.assuming.isSome then
    let s := s.sendAck p k.srcModule k.srcPart
    let ps := (List.range s.nparts).filter fun q => (s.part q).fab.assuming.any fun a => a.1 == lost
    let s := { s with moduleId := lost }
    s.each ps fun s q => (s.modFab q fun f => { f.reroute lost gen locator spare with chans := [], spareHeld := false, lostList := [] }).control q 4 k.srcModule k.srcPart [] .none
  else (s.modFab p fun f => f.learn lost gen locator spare).control p 4 k.srcModule k.srcPart [] .none

def execRouteUpd (pkt : HtPkt) (lost gen locator spare : Nat) (s : State) : Host.Outcome State Fault Refusal :=
  answer true (s.packetEvent [0x0B] (ctlPkt 3 (routeUpdBytes lost gen locator spare)) pkt fun s p => s.takeRouteUpd pkt lost gen locator spare p)

/-- A held member goes on to the anchor reduction; one whose image host was lost refreshes its image to the spare first (R175, R176). -/
def State.resumeMember (s : State) (p : Nat) : State :=
  let q := s.part p
  if !q.run.holds.contains .rollback then s
  else
    let hostLost := match s.mirror p 0 with
      | some m => q.fab.lostList.contains (mdMod m)
      | none => false
    let s := (((s.unhold p .rollback).modFab p fun f => { f with lostList := [], assumed := [] }).roundLayout p).gatherNext p
    if (s.part p).run.holds.contains .outerWork then s
    else if !(s.shards p).isEmpty && (hostLost || !(s.part p).imageValid) then s.refreshNext p
    else (s.modColl p fun c => { c with anchorFrom := some s.tick }).modPart p fun q => { q with imageStage := 3 }

/-- The coordinator counts acknowledgements; with all in and every lost ID assumed, RESUME goes to all. -/
def State.takeRouteAck (s : State) (k : HtPkt) (p : Nat) : State :=
  let s := s.modFab p fun f => { f with acksDue := f.acksDue.erase (4 * k.srcModule + k.srcPart) }
  let f := (s.part p).fab
  if !f.rolling ∨ !f.acksDue.isEmpty ∨ !s.isCoordinator p ∨ (f.lostList.any fun m => f.entryState m != 1) then s
  else ((s.controlAll p 6 [1] [] .none).resumeMember p).modFab p fun f => { f with rolling := false, lostList := [], assumed := [] }

def execRouteAck (pkt : HtPkt) (s : State) : Host.Outcome State Fault Refusal := answer true (s.packetEvent [0x0B] (ofOp 4) pkt (State.takeRouteAck · pkt))

/-! ## RESUME (R174, R175, R234, R265) -/

/-- Outer state to copy from a surviving replica of each slab: snapshots, residual and momentum at the same local addresses on the replica's module
(R242), staged terms, seal records and progress words at the same offsets of its staging range (log entry 29). -/
def State.outerCopies (s : State) (p : Nat) : List (Nat × Nat × Nat) :=
  let o := (s.part p).outer
  match o.cfg with
  | none => []
  | some c => (enum o.slabs).flatMap fun (j, x) =>
    match (s.replicas x.desc).find? fun g => !s.lostMod p (gModule g) && gModule g != s.moduleId with
    | none => []
    | some g =>
      let n := osCount x.desc
      let rs := [(gLocal (osSnap x.desc 0), 2 * n), (gLocal (osSnap x.desc 1), 2 * n), (gLocal (osResid x.desc), residBytes c * n)] ++
        (if rcOpt c = 1 then [(gLocal (osMom x.desc), 4 * n)] else [])
      let st := (List.range 3).flatMap fun k => (sealAddr c k j, 64 + rcIslands c * 1024) :: (List.range (rcIslands c)).map fun t => (termAddr c k t j, slabBytes (rcFmt c))
      (rs.flatMap fun (a, n) => (piecesOf a n).map fun (la, k) => (gModule g * 2 ^ 44 + la, la, k)) ++
        st.flatMap fun (a, n) => (piecesOf a n).map fun (la, k) => (g + (la - gLocal (rcStaging c)), la, k)

/-- Where the spare's run stands from an image header, when the header names the rolled-back round or the next (Table 08-9). -/
def State.adoptHeader (s : State) (p : Nat) (h : Nat) : State :=
  let r := bits h 255 224
  let f := (s.part p).fab
  if !bit h 120 ∨ (r ≠ f.rollRound ∧ r ≠ f.rollRound + 1) then s
  else
    let st := if r = jpRound0 (s.params p) then jpStep0 (s.params p) else bits h 223 176 + 1
    s.modRun p fun x => { x with round := r, step := st, roundStep := st, epoch := bits h 175 160 }

/-- The terms that the arrival bitmaps of the staging tell of, for the slabs whose speaker this partition is: duplicates of what it holds are dropped
(R265, R268). -/
def State.loadArrivals (s : State) (p : Nat) : State :=
  let o := (s.part p).outer
  match o.cfg with
  | none => s
  | some c =>
    let n := (s.part p).run.openRound
    let l := ([n - 2, n - 1, n].eraseDups.filter fun k => k + 2 ≥ n).flatMap fun r => (enum o.slabs).flatMap fun (j, x) => (enum o.islands).filterMap fun (t, e) =>
      let segs := slabSegs (rcFmt c) (osCount x.desc)
      let map := leNat (s.bytes (bitmapAddr c r t j) 1024)
      let got := (List.range segs).filter fun i => map.testBit i
      let (m, q) := s.speaker e (osSlab x.desc)
      if got.isEmpty ∨ !osSpeaker x.desc ∨ t = rcOwn c then none
      else some ({ isl := oiIsland e, mod := m, part := q, slab := osSlab x.desc, round := r, got := got, total := if got.contains (segs - 1) then some segs else none
                   doneAt := if got.length = segs then some o.order else none } : OuterRx)
    s.modOuter p fun o => { o with rxs := l, order := o.order + 1 }

/-- What is left once a spare's restore has ended: slabs without a replica start again from the restored working copy (R265), the others stand as
their replica has them, boundary work that it had not ended is done here too; then speakers greet, and the image refresh leads to the anchor reduction. -/
def State.spareDone (s : State) (p : Nat) : State :=
  let q := s.part p
  let r := q.run.round
  let s := s.each (enum q.outer.slabs) fun s (j, x) =>
    let c := ((s.part p).outer.cfg).getD 0
    let n := osCount x.desc
    if osNRep x.desc = 0 then
      let w := gLocal (osWork x.desc)
      let s := s.store (gLocal (osResid x.desc)) (List.replicate (residBytes c * n) 0#8) false
      let s := if rcOpt c = 1 then s.store (gLocal (osMom x.desc)) (List.replicate (4 * n) 0#8) false else s
      let s := s.each [0, 1] fun s k => s.saveMarked (gLocal (osSnap x.desc k)) (s.bytes w (2 * n)) (s.byteMarks w (2 * n))
      let s := ((s.clearRecords c j).setProgress p j (progressWord (r - 1) 2)).modSlab p j fun y => { y with hasCorr := false, seals := [], since := r }
      (s.raise { recPart p sevDef (Config.faultCode 265) with addr := osWork x.desc }).modRun p fun r => { r with reproRound := true }
    else s.modSlab p j fun y => { y with hasCorr := jpRound0 (s.params p) < r }
  let s := (s.loadSeals p).loadArrivals p
  let s := s.each (enum (s.part p).outer.islands) fun s (t, e) =>
    if t = rcOwn (((s.part p).outer.cfg).getD 0) ∨ !oiEnabled e then s
    else s.each (enum (s.part p).outer.slabs) fun s (j, x) =>
      if osSpeaker x.desc then let (m, d) := s.speaker e (osSlab x.desc); s.sendHello p j e m d true else s
  let s := (s.modFab p fun f => { f with assuming := none }).gatherNext p
  let c := ((s.part p).outer.cfg).getD 0
  let undone := (enum (s.part p).outer.slabs).any fun (j, _) => 0 < r && (match s.progressVote c j with | some (w, _) => w != progressWord (r - 1) 2 | none => true)
  if undone && jpRound0 (s.params p) < r then s.hold p .outerWork else s.startRefresh p

/-- A spare without an image restores what its replicas hold; the restore over, the rest follows. -/
def State.spareDegraded (s : State) (p : Nat) : State :=
  let s := s.restoreDegraded p { base := 0, total := 0, own := false, copies := s.outerCopies p } (s.inHold p 0)
  if (s.part p).restore.isNone then s.spareDone p else s

/-- RESUME at the spare: the lost module's job is installed, drained at the round start, and its shards and outer state restored. -/
def State.resumeSpare (s : State) (p g : Nat) : State :=
  match s.loadJob p g with
  | none => s.raise (recPart p sevPart (Config.faultCode 234))
  | some t =>
    let r := (s.part p).fab.rollRound
    let st := t.firstOf p r
    let t := t.modRun p fun x => { x with round := r, step := st, roundStep := st, roundOpen := false, atAction8 := true, firstStep := false, holds := [.refresh, .gather], holdFrom := t.tick }
    let t := t.wake.modPart p fun q => { q with st := .recovering, idle := false }
    let t := t.modColl p fun c => { c with confirmed := (((t.part p).job.map (·.groups)).getD []).map cgId }
    let t := t.modArena p fun a => { a with confirmed := (t.borrowed p).map (·.1) }
    let t := t.modFab p fun f => { f with assuming := some ((s.part p).fab.assuming.getD (0, 0)), rollRound := r, peers := (s.part p).fab.peers }
    let t := match t.mirror p 0 with
      | some m => if t.lostMod p (mdMod m) then t.spareDegraded p else t.restoreRemote p (mdBase m) false (t.outerCopies p)
      | none => if (t.shards p).isEmpty then t.spareDone p else t.spareDegraded p
    t.cipherless p

def State.takeResume (s : State) (p : Nat) : State := match (s.part p).fab.assuming with
  | some (lost, g) => if lost = s.moduleId then s.resumeSpare p g else s
  | none => s.resumeMember p

def execResume (pkt : HtPkt) (s : State) : Host.Outcome State Fault Refusal := answer true (s.packetEvent [0x0B] (ofOp 6) pkt State.takeResume)

/-- A read's answer at a spare: the header of the image fixes where its run stands, and the last page ends the restore. -/
def State.takeReadResp (s : State) (k : HtPkt) (p : Nat) : State :=
  let spare := match (s.part p).restore with
    | some r => !r.own
    | none => false
  let first := match ((s.part p).fab.chan k.srcModule k.srcPart).outAt 1 k.psn with
    | some x => x.owner == .restore 0
    | none => false
  let s := if spare && first && !k.slag then s.adoptHeader p (leNat (k.payload.take 32)) else s
  let s := s.takeAnswerPkt k p
  if spare && (s.part p).restore.isNone then s.spareDone p
  else if (s.part p).run.holds.contains .gather ∧ !(s.part p).run.holds.contains .rollback then s.roundLayout p
  else s

def execReadResp (pkt : HtPkt) (s : State) : Host.Outcome State Fault Refusal := answer true (s.packetEvent [2] anyPkt pkt (State.takeReadResp · pkt))

/-- Every 10 s while the island holds, the coordinator reports the lost IDs. -/
def doLossHold (p : Nat) (s : State) : State :=
  let f := (s.part p).fab
  if !f.rolling ∨ !s.isCoordinator p ∨ s.tick < f.lossTick + ticksSec 10 then s
  else (s.modFab p fun f => { f with lossTick := s.tick }).notice p 3 ((enum (f.lostList.take 12)).map fun (i, m) => m * 2 ^ (20 * i)).sum

def execLossHold (p : Nat) (s : State) : Host.Outcome State Fault Refusal := answer (Instr.lossHold p).wf (doLossHold p s)

end Sys2Proof.Machine
end

