-- ==== Sys2Proof/Machine/ControlBlock.lean ====
section
/-! DEFINITION. The control block of space 4 as a host reads it, and the descriptors and status words it shows (R11-R17, R291, R344, R382). -/

namespace Sys2Proof.Machine

/-! ## Security state (Table 13-3) -/

/-- Is the verdict LIMITED: by vote, and where no two copies agree (R295)? -/
def Sec.limited (x : Sec) : Bool := match vote3 x.verdict with
  | some (v, _) => v != 0
  | none => true

/-- The debug level in force: D2 throughout in BLANK, D1 during the zero-fill (R300, R301). -/
def Sec.level (x : Sec) : Nat := if x.life = .blank then 2 else if x.fill.isSome then 1 else x.debug

def lifeCode : Life → Nat
  | .blank => 0
  | .provisioned => 1
  | .operational => 2
  | .returned => 3
  | .retired => 4

/-- SVN of a running image class: 1 Jafepin, 2 sequencer microcode, 3 bellows microcode, 4 manifest (log entry 36). -/
def Sec.svn (x : Sec) (cls : Nat) : Nat := ((x.running.find? fun i => i.cls == cls).map (·.svn)).getD 0

/-- `SEC_STATE`. -/
def Sec.state (x : Sec) : Nat :=
  pack [(3, lifeCode x.life), (2, x.level), (1, b01 x.debugged), (1, b01 x.limited), (1, b01 x.bank), (1, b01 x.fallback), (8, x.svn 1), (8, min (x.svn 2) (x.svn 3)),
    (8, x.returns), (31, 0)]

/-! ## Unit descriptors (R11-R17, Tables 01-1 to 01-3) -/

def unitLevel (u : Nat) : Nat := bits u 15 13
def unitIndex (u : Nat) : Nat := bits u 12 0

/-- Island number of this module's island unit: that of the last ROUND.CONFIG (R17). Where partitions of the module received different ones,
the lowest-index partition's stands (DESIGN CHOICE, log entry 94). -/
def State.islandNo (s : State) : Option Nat := ((s.parts.take s.nparts).findSome? fun q => q.outer.island)

def State.unitIsland (s : State) : Nat := 0xA000 + s.islandNo.getD 0

/-- Does a unit ID name a unit: a level and index in range, and of the islands only the own one (R11, R17)? -/
def State.unitOk (s : State) (u : Nat) : Bool :=
  let i := unitIndex u
  match unitLevel u with
  | 0 => i < 4096
  | 1 => i < 256
  | 2 => i < 16
  | 3 => i < s.nparts
  | 4 => i == 0
  | 5 => u == s.unitIsland
  | _ => false

/-- The enclosing unit; the island names itself. -/
def State.parentOf (s : State) (u : Nat) : Nat :=
  let i := unitIndex u
  match unitLevel u with
  | 0 => unitHearth (i / 16)
  | 1 => unitDie (i / 16)
  | 2 => unitPartId (diePart s.nparts i)
  | 3 => unitDevice
  | _ => s.unitIsland

/-- A unit and what encloses it. -/
def State.unitPath (s : State) : Nat → Nat → List Nat
  | 0, u => [u]
  | n + 1, u => if unitLevel u = 5 then [u] else u :: unitPath s n (s.parentOf u)

/-- Hearths of a die that are usable. -/
def State.dieHearths (s : State) (d : Nat) : List Nat := ((List.range 16).map (16 * d + ·)).filter fun h => (s.hearth h).st != .offline && (s.hearth h).st != .absent

/-- Forge dies of a partition with a usable hearth. -/
def State.partDies (s : State) (p : Nat) : List Nat := (List.range 16).filter fun d => diePart s.nparts d == p && !(s.dieHearths d).isEmpty

/-- Partitions of the device that are usable children (R16). -/
def State.usableParts (s : State) : List Nat := (List.range s.nparts).filter fun p => (s.part p).st != .offline && (s.part p).st != .absent

/-- Usable children; the anvils of a hearth that is OFFLINE are so too (R16). -/
def State.childCount (s : State) (u : Nat) : Nat :=
  let i := unitIndex u
  match unitLevel u with
  | 0 => 0
  | 1 => if (s.hearth i).st = .offline ∨ (s.hearth i).st = .absent then 0 else 16
  | 2 => (s.dieHearths i).length
  | 3 => (s.partDies i).length
  | 4 => s.usableParts.length
  | _ => if s.islandNo.isNone then 0 else ((s.parts.take s.nparts).map fun q => (q.fab.idsIn [1]).length).foldl max 0

/-- State of a partition as reported (R295). -/
def State.partState (s : State) (p : Nat) : UnitSt := if s.sec.limited then .limited else (s.part p).st

/-- State of the device: LIMITED, still starting, or the busiest of its partitions (DEDUCED, log entry 37). -/
def State.deviceState (s : State) : UnitSt :=
  let l := (s.parts.take s.nparts).map (·.st)
  if s.sec.limited then .limited
  else if s.power.row ≠ 11 ∨ l.all (· == .reset) then .reset
  else if l.contains .active then .active else if l.contains .draining then .draining else if l.contains .recovering then .recovering else .ready

/-- State of any unit: hearths their own, an anvil its hearth's, a die with no usable hearth OFFLINE and else its partition's. -/
def State.unitState (s : State) (u : Nat) : UnitSt :=
  let i := unitIndex u
  match unitLevel u with
  | 0 => (s.hearth (i / 16)).st
  | 1 => (s.hearth i).st
  | 2 => if (s.dieHearths i).isEmpty then .offline else (s.part (diePart s.nparts i)).st
  | 3 => s.partState i
  | 4 => s.deviceState
  | _ => if s.islandNo.isNone then .reset else s.deviceState

/-- Capability bits [53:40], from bit 0: five of the array, then collective engine, outer-round engine and cipher. A group has the
five only if it has usable children and every one of them has (R16). -/
def State.capFlags (s : State) (u : Nat) : Nat :=
  let i := unitIndex u
  let arr := fun (b : Bool) => if b then 31 else 0
  match unitLevel u with
  | 0 => arr ((s.hearth (i / 16)).st != .offline)
  | 1 => arr ((s.hearth i).st != .offline)
  | 2 => arr (!(s.dieHearths i).isEmpty)
  | 3 => arr (!(s.partDies i).isEmpty) + 32 + 64 + (if s.coreLeft i then 128 else 0)
  | _ => arr (!s.usableParts.isEmpty && s.usableParts.all fun p => !(s.partDies p).isEmpty) + 32 + 64 + (if s.cipher.cores.all (·.offline) then 0 else 128)

/-- Partitions that use a unit. -/
def State.unitParts (s : State) (u : Nat) : Nat :=
  let i := unitIndex u
  match unitLevel u with
  | 0 => 2 ^ hearthPart s.nparts (i / 16)
  | 1 => 2 ^ hearthPart s.nparts i
  | 2 => 2 ^ diePart s.nparts i
  | 3 => 2 ^ i
  | _ => 2 ^ s.nparts - 1

/-- `UNIT_DESC` (Table 01-2). -/
def State.unitDesc (s : State) (u : Nat) : Nat :=
  let l := s.hub.open_.filter fun r => (s.unitPath 6 r.unit).contains u
  pack [(20, s.moduleId), (4, 1), (16, u), (16, s.parentOf u), (18, s.childCount u), (14, s.capFlags u), (8, stateCode (s.unitState u)), (1, b01 s.idValid),
    (3, (l.map (·.sev)).foldl max 0), (4, 0), (8, satTo 8 l.length), (4, s.unitParts u), (12, 0)]

/-! ## `FAULT_REC`, `POWER_REC`, `CIPHER_SUSP` -/

/-- `FAULT_REC` (Table 14-6). -/
def FaultRec.word (r : FaultRec) : Nat :=
  pack [(32, r.seq), (56, r.time), (48, r.step), (32, r.round), (16, r.unit), (20, r.module), (6, r.resClass), (6, r.resIndex), (8, r.code), (3, r.sev), (2, r.part), (2, r.nest),
    (1, b01 r.overflow), (1, b01 r.preempt), (16, r.layer), (1, b01 r.hist), (6, 0), (64, r.addr), (64, r.detail)]

/-- The cap in force (R353). -/
def State.capNow (s : State) : Nat := min s.power.cap (min s.side.capEffecter 4400)

/-- Hold-up energy in mJ (R362). -/
def State.holdMj (s : State) : Nat := holdEnergy s.power.cmeas s.power.vbank / 10 ^ 13

/-- `POWER_REC` (Table 15-14) of an average and a peak; the current follows from power and voltage (DEDUCED, log entry 38). -/
def State.powerRec (s : State) (avg peak throttle : Nat) : Nat :=
  pack [(16, satTo 16 avg), (16, satTo 16 peak), (16, s.capNow), (16, s.power.millivolts / 10), (16, if s.power.millivolts = 0 then 0 else satTo 16 (avg * 10000 / s.power.millivolts)),
    (16, satTo 16 s.holdMj), (64, ((List.range 16).map fun d => (s.dieDuty d - 1) * 2 ^ (4 * d)).sum), (32, satTo 32 throttle), (64, 0)]

/-- GHASH accumulator and next counter block of a GCM request that has done `x.done` blocks. -/
def State.suspGcm (s : State) (x : CReq) : Nat × Nat :=
  let r := x.raw
  let k := s.slot (x.slot.getD (cqSlot r))
  let iv := if cqOp r = 0 then beNat (gcmIv s.moduleId (cqPart r) (swEpoch k.word) (x.ctr.getD 0)) else bits (cqIv r) 127 32
  let rk := roundKeys (toNats k.gcmKey)
  let aad0 := s.load (gLocal (cqAad r)) (cqAadLen r)
  let aad := if cqOp r = 0 then insertCtr aad0 (cqIns r) (swEpoch k.word) (x.ctr.getD 0) else aad0
  let d := toNats (s.load (gLocal (cqSrc r)) (min (16 * x.done) (cqLen r)))
  let c := if cqOp r = 0 then ctr32 rk (iv * 2 ^ 32 + 1) d else d
  (ghash (beOf (aesEnc rk (List.replicate 16 0))) (pad16 (toNats aad) ++ pad16 c), iv * 2 ^ 32 + (x.done + 2) % 2 ^ 32)

/-- Tweak of the next block of an XTS request that has done `x.done` blocks. -/
def State.suspTweak (s : State) (x : CReq) : Nat :=
  let k := s.slot (x.slot.getD (cqSlot x.raw))
  (List.range x.done).foldl (fun t _ => xtsAlpha t) (leNat (toBytes (aesEnc (roundKeys (toNats (k.xtsKey.drop 32))) (toNats (leBytes 16 (cqIv x.raw))))))

/-- `CIPHER_SUSP` (Table 12-5) of a suspended request. -/
def State.suspWord (s : State) (x : CReq) : Nat :=
  let r := x.raw
  let (gh, ct) := if cqOp r ≤ 1 then s.suspGcm x else (0, s.suspTweak x)
  pack [(128, gh), (128, ct), (64, x.ctr.getD 0), (16, x.done), (16, cqId r), (9, x.slot.getD (cqSlot r)), (3, cqOp r), (2, x.cls), (2, cqPart r), (143, 0), (1, 1)]

/-! ## Table 15-8 -/

/-- Offset of the `TELEM_CONS` word of stream k. -/
def consOff (k : Nat) : Nat := 0x1000040 + 8 * k

/-- 64 bytes of the control block at offset 64·i of space 4, outside bulk buffers. -/
def State.ctlLine (s : State) (i : Nat) : List Byte :=
  let a := 64 * i
  if a = 0x1000000 then leBytes 8 s.sec.state ++ leBytes 8 0 ++ leBytes 16 (s.unitDesc unitDevice) ++ leBytes 32 0
  else if a = 0x1000040 then s.get4 a 40 ++ leBytes 24 0
  else if a = 0x1000080 then leBytes 64 (s.powerRec s.power.blade s.power.blade (if (List.range 16).any fun d => s.dieDuty d < 16 then 100000 else 0))
  else if 0x1001000 ≤ a ∧ a < 0x1002000 then (match s.hub.queue.getD ((a - 0x1001000) / 64) none with
    | some r => leBytes 64 r.word
    | none => leBytes 64 0)
  else if 0x1010000 ≤ a ∧ a < 0x1020000 then
    if (a - 0x1010000) % 256 = 0 then let h := (a - 0x1010000) / 256; leBytes 4 (s.hearth h).qStatus ++ leBytes 4 0 ++ leBytes 8 (s.temper h).status ++ leBytes 48 0 else leBytes 64 0
  else if 0x1100000 ≤ a ∧ a < 0x1200000 then
    let k := (a - 0x1100000) / 64
    leBytes 64 (((s.part (k / 4096)).pyro.tracks[k % 4096]?).elim 0 (·.last))
  else if 0x1400000 ≤ a ∧ a < 0x1800000 then
    let k := (a - 0x1400000) / 64
    leBytes 64 (if k < 48 then (((s.cipher.cores.getD (k / 3) {}).susp[k % 3]?).elim 0 s.suspWord) else 0)
  else leBytes 64 0

/-- Place of a hearth's registers in the control block. -/
def hearthOff (h : Nat) : Nat := 0x1010000 + 256 * h

/-- A read of `BILLET_Q_STATUS` registers that finds a book out of balance is a logic fault of the hearth (R72, Table 14-10 row 2). -/
def State.bookRead (s : State) (off n : Nat) : State :=
  s.each ((List.range 256).filter fun h => hearthOff h < off + n && off < hearthOff h + 4 && !(s.hearth h).book) fun s h => s.bookFault h

/-- Debug level that a control-block offset asks for. -/
def ctlLevel (off : Nat) : Nat :=
  if 0x1001000 ≤ off ∧ off < 0x1002000 ∨ 0x1010000 ≤ off ∧ off < 0x1020000 ∨ 0x1100000 ≤ off ∧ off < 0x1200000 then 1
  else if 0x1400000 ≤ off ∧ off < 0x1800000 then 2 else 0

/-- What one byte of space 4 is. -/
inductive Zone where
  | mailbox (m : Nat)
  | bulk (m : Nat)
  | aperture (p x : Nat)
  | cons (k : Nat)
  | block
  | none
  deriving DecidableEq, Repr

def zoneOf (off : Nat) : Zone :=
  if off < 0x40000 then .mailbox (off / 0x1000)
  else if off < 0x1000000 then .none
  else if 0x1000040 ≤ off ∧ off < 0x1000068 then .cons ((off - 0x1000040) / 8)
  else if 0x1200000 ≤ off ∧ off < 0x1300000 then .bulk ((off - 0x1200000) / 0x4000)
  else if 0x1800000 ≤ off ∧ off < 0x2000000 then .aperture ((off - 0x1800000) / 0x200000) ((off - 0x1800000) % 0x200000)
  else if off < 0x2000000 then .block else .none

/-- Owner of a mailbox among a QP's bindings (R216): the device's mailboxes, or a partition's. -/
def State.mbxOpen (s : State) (q : Qp) (m : Nat) : Bool := if q.dev then m < 4 else mbxPart s.nparts m == some q.part

/-- Is a byte of space 4 open to a QP, for reading or writing (R216, R344)? -/
def State.openTo (s : State) (q : Qp) (write : Bool) (off : Nat) : Bool :=
  match zoneOf off with
  | .mailbox m => s.mbxOpen q m
  | .bulk m => m < 64 && s.mbxOpen q m
  | .aperture p _ => !q.dev && p == q.part
  | .cons k => !write || q.dev || k == 1 + q.part
  | .block => ctlLevel off ≤ s.sec.level
  | .none => false

/-- A byte of a mailbox as read: the reserved bits [301:32] of `MBX_HDR` read as zero (R9, Table 15-1). -/
def mbxByte (x : Nat) (b : Byte) : Byte := if 4 ≤ x ∧ x < 37 then 0#8 else if x = 37 then b &&& 0xC0#8 else b

/-- The byte that a host reads at an offset of space 4; an aperture reads zero. -/
def State.hostByte (s : State) (off : Nat) : Byte :=
  match zoneOf off with
  | .mailbox m => mbxByte (off - mbxBase m) (Memory.read s.mem (localAddr 4 off))
  | .bulk _ => Memory.read s.mem (localAddr 4 off)
  | .aperture _ _ => 0#8
  | _ => (s.ctlLine (off / 64)).getD (off % 64) 0#8

end Sys2Proof.Machine
end

