-- ==== Sys2Proof/Machine/HostReq.lean ====
section
/-! DEFINITION. The host path from the host: connections, RDMA WRITEs and READs within space 4, ownership words, the load aperture, and
congestion (R216, R310, R332-R334, R344, R345). -/

namespace Sys2Proof.Machine

/-! ## Connections (R216) -/

/-- Does an address match an entry of the allow list: an address and a length of upper bits (Table 15-16)? -/
def allowMatch (src : Nat) (e : Nat × Nat) : Bool := e.2 ≤ 128 && src >>> (128 - e.2) == e.1 >>> (128 - e.2)

/-- QPs that a binding holds. -/
def Net.bound (n : Net) (dev : Bool) (p : Nat) : Nat := (n.qps.filter fun q => q.st != 0 && q.dev == dev && (dev || q.part == p)).length

/-- A connection request for QP `k`, bound to a partition or to the device (none): accepted for Reliable Connected transport with a path MTU of 256 to 4,096 from an allowed source within the
quota, else rejected. -/
def doHostCmRequest (k : Nat) (r : CmReq) (b : Option Nat) (s : State) : State :=
  if !s.hasNet ∨ (s.qp k).st = 1 ∨ s.power.pstate = .p4 then s
  else
    let n := { s.net with qps := updAt s.net.qps k fun _ => {} }
    let room := match b with
      | none => decide (n.bound true 0 < 4)
      | some p => s.hasPart p && decide (n.bound false p < 60 / s.nparts)
    if r.reliable && [256, 512, 1024, 2048, 4096].contains r.mtu && s.net.allow.any (allowMatch r.source) && room then
      ((s.modNet fun _ => n).modQp k fun _ => { st := 1, source := r.source, dev := b.isNone, part := b.getD 0, cnpTick := s.tick, port := r.port, mtu := r.mtu }).hostFrame k 0 (.cmReply k true)
    else s.egress r.port 3 none 118 {} (.cmReply k false)

def execHostCmRequest (qp : Framed) (source : CmReq) (bind : Option Nat) (s : State) : Host.Outcome State Fault Refusal :=
  answer (Instr.hostCmRequest qp source bind).wf (s.untagged qp.vid (doHostCmRequest qp.of source bind))

/-- Is a QP connected and the host path up? -/
def State.connected (s : State) (k : Nat) : Bool := (s.qp k).st == 1 && s.hasNet && s.power.pstate != .p4

/-! ## Ownership words (R333, R334, Table 15-2) -/

/-- Does the smith know an opcode (Table 15-4)? -/
def opcodes : List Nat :=
  [0x101, 0x102, 0x103, 0x104, 0x201, 0x202, 0x203, 0x204, 0x205, 0x206, 0x207, 0x208, 0x301, 0x302, 0x303, 0x304, 0x401, 0x402, 0x403, 0x501, 0x502, 0x503, 0x504, 0x505, 0x506,
   0x601, 0x602, 0x603, 0x604, 0x605, 0x606, 0x607, 0x701, 0x702, 0x703, 0x704]

/-- Is a header or its arguments marked (R335, check 1)? -/
def State.mbxMarked (s : State) (m : Nat) : Bool :=
  let h := s.mbxHdr m
  s.marked (localAddr 4 (mbxBase m)) 64 || (if mhArgBulk h then s.marked (localAddr 4 (bulkBase m)) (mhArgLen h) else s.marked (localAddr 4 (mbxBase m + 0x40)) (min (mhArgLen h) 4032))

/-- The mailbox taken next in a context: the first one observed. PART.CREATE waiting in several device mailboxes is taken in ascending mailbox
order (R25, R334). -/
def State.headOf (s : State) (ctx : Option Nat) : Option Nat :=
  let op := fun (k : Nat) => mhOpcode (s.mbxHdr k)
  match s.observed.filter fun k => mbxPart s.nparts k == ctx && !isQuery (op k) with
  | [] => none
  | k :: l => if ctx.isNone && op k == 0x103 then ((k :: l).filter fun j => op j == 0x103).min? else some k

/-- Does a context take a command now: no POWER.STATE waits in the device's, and a partition's is not fenced (R326, R334)? -/
def State.ctxFree (s : State) (ctx : Option Nat) : Bool := match ctx with
  | none => s.power.moveMbx.isNone
  | some p => !(s.part p).fenced

/-- A context's next mailbox, where its opcode is none of Table 15-4. -/
def State.unknownHead (s : State) (ctx : Option Nat) : Option Nat := match s.headOf ctx with
  | some m => if s.ctxFree ctx && !opcodes.contains (mhOpcode (s.mbxHdr m)) then some m else none
  | none => none

/-- The answer to an opcode that no command has, after the check for marks (R335). -/
def State.refuseMbx (s : State) (m : Nat) : State :=
  if s.mbxMarked m then (s.slagBite 0 (s.global (localAddr 4 (mbxBase m)))).finishMbx m stREJECTED [] 0xFFFF else s.finishMbx m stUNSUPPORTED [] 0xFFFF

/-- Every mailbox answered whose turn it is with an opcode that no command has, at most `n` of them (R334, R335). -/
def State.refuseUnknown : Nat → State → State
  | 0, s => s
  | n + 1, s => match [none, some 0, some 1, some 2, some 3].findSome? s.unknownHead with
    | some m => refuseUnknown n (s.refuseMbx m)
    | none => s

/-- A mailbox seen POSTED joins its context's queue (R334). -/
def State.observe (s : State) (m : Nat) : State :=
  State.refuseUnknown 64 { s with observed := s.observed ++ [m], smithOwns := setIns m s.smithOwns }

/-- The host writes an ownership word: FREE to POSTED, DONE to FREE or DONE to POSTED; anything else is discarded and counted. -/
def State.ownWrite (s : State) (m v : Nat) : State :=
  let o := s.own m
  if (o = 0 ∧ v = 1) ∨ (o = 3 ∧ (v = 0 ∨ v = 1)) then
    let s := s.store (localAddr 4 (mbxBase m)) (leBytes 4 v) false
    if v = 1 then s.observe m else s
  else s.count .spaceWrite

def doMbxOwnWrite (qp m : Nat) (v : W32) (s : State) : State :=
  if !s.connected qp then s
  else if !s.mbxOpen (s.qp qp) m then (s.hostFrame qp 0 (.nak qp true)).count .invalidRequest
  else s.ownWrite m v.toNat

def execMbxOwnWrite (qp : Framed) (m : Nat) (v : W32) (s : State) : Host.Outcome State Fault Refusal :=
  answer (Instr.mbxOwnWrite qp m v).wf (s.untagged qp.vid (doMbxOwnWrite qp.of m v))

/-! ## Placing a WRITE (R216, R332, R333, R344, R345) -/

/-- Bytes of `MBX_HDR` that the host cannot write: status and lengths of the response, err_off, step_seen; and the ownership word, which
is taken after everything else. -/
def hdrReadOnly : Nat := (2 ^ 48 - 1) * 2 ^ 400 + 255 * 2 ^ 352 + 0xFFFF * 2 ^ 320 + 2 ^ 318 + 0xFFFF * 2 ^ 302 + 0xFFFFFFFF

/-- The header after a host write: written bits from the new value where the host may write them. -/
def mergeHdr (old new : Nat) : Nat := (old &&& hdrReadOnly) + (new &&& (hdrReadOnly ^^^ (2 ^ 512 - 1)))

/-- Bytes placed in mailbox `m` at offset `x`: discarded and counted while the smith owns it; the ownership word last. -/
def State.mbxPlace (s : State) (m x : Nat) (bs : List Byte) : State :=
  if s.smithHas m then s.count .spaceWrite
  else
    let old := s.mbxHdr m
    let a := localAddr 4 (mbxBase m)
    let s := s.store (a + x) bs false
    if 64 ≤ x then s
    else
      let new := s.mbxHdr m
      let s := s.putHdr m (mergeHdr old new)
      if x < 4 then s.ownWrite m (mhOwn new) else s

/-- Bytes placed at an aperture's offset x: written at base + x, unmarked; discarded and counted while no base is set. A lent range and an arena
home take nothing (R21, R151, R152). -/
def State.aperturePlace (s : State) (p x : Nat) (bs : List Byte) : State := match (s.part p).aperture with
  | some g => if s.reach p (g + x) bs.length [0, 1, 2] then s.store (gLocal g + x) bs false else s.addrErr p (g + x)
  | none => s.count .apertureWrite

/-- Where the run of bytes in the same zone as `off` stops: the zones all end on 8-byte bounds of these sizes. -/
def zoneEnd (off : Nat) : Nat := match zoneOf off with
  | .mailbox m => (m + 1) * 0x1000
  | .bulk m => 0x1200000 + (m + 1) * 0x4000
  | .aperture p _ => 0x1800000 + (p + 1) * 0x200000
  | .cons k => consOff (k + 1)
  | _ => (off / 8 + 1) * 8

/-- One run placed. -/
def State.placeRun (s : State) (off : Nat) (bs : List Byte) : State := match zoneOf off with
  | .mailbox m => s.mbxPlace m (off - mbxBase m) bs
  | .bulk m => if s.smithHas m then s.count .spaceWrite else s.store (localAddr 4 off) bs false
  | .aperture p x => s.aperturePlace p x bs
  | .cons _ => s.store (localAddr 4 off) bs false
  | _ => s.count .spaceWrite

/-- A message placed run by run. -/
def State.placeAll : Nat → Nat → List Byte → State → State
  | 0, _, _, s => s
  | n + 1, off, bs, s => if bs.isEmpty then s else let k := zoneEnd off - off; placeAll n (off + k) (bs.drop k) (s.placeRun off (bs.take k))

/-- Is a whole range open to a QP? -/
def State.rangeOpen (s : State) (k : Nat) (write : Bool) (off n : Nat) : Bool := (List.range n).all fun i => s.openTo (s.qp k) write (off + i)

/-- An access that is not open draws a NAK and is counted. -/
def State.refuse (s : State) (k : Nat) (remoteAccess : Bool) : State := (s.hostFrame k 0 (.nak k remoteAccess)).count .invalidRequest

def doHostRdmaWrite (k off : Nat) (data : List Byte) (s : State) : State :=
  if !s.connected k then s
  else if !s.rangeOpen k true off data.length then s.refuse k true
  else State.placeAll (data.length + 1) off data s

def execHostRdmaWrite (qp : Framed) (off : Nat) (data : List Byte) (s : State) : Host.Outcome State Fault Refusal :=
  answer (Instr.hostRdmaWrite qp off data).wf (s.untagged qp.vid (doHostRdmaWrite qp.of off data))

/-- Bytes of space 4 with no behaviour of their own; ownership words and apertures have rows of theirs. -/
def plainRange (off n : Nat) : Bool := (List.range n).all fun i => match zoneOf (off + i) with
  | .mailbox m => mbxBase m + 4 ≤ off + i
  | .aperture _ _ => false
  | _ => true

def doRegisterWrite (k off : Nat) (data : List Byte) (s : State) : State := if plainRange off data.length then doHostRdmaWrite k off data s else s

def execRegisterWrite (qp : Framed) (off : Nat) (data : List Byte) (s : State) : Host.Outcome State Fault Refusal :=
  answer (Instr.registerWrite qp off data).wf (s.untagged qp.vid (doRegisterWrite qp.of off data))

def doApertureWrite (k p x : Nat) (data : List Byte) (s : State) : State :=
  if !s.connected k then s
  else if (s.qp k).dev ∨ (s.qp k).part ≠ p ∨ 0x200000 < x + data.length then s.refuse k true
  else s.aperturePlace p x data

def execApertureWrite (qp : Framed) (p x : Nat) (data : List Byte) (s : State) : Host.Outcome State Fault Refusal :=
  answer (Instr.apertureWrite qp p x data).wf (s.untagged qp.vid (doApertureWrite qp.of p x data))

/-! ## Reads (R310, R344) -/

/-- A host RDMA READ: each marked line as zeros, with one record naming the first marked address. -/
def doHostRdmaRead (k off n : Nat) (s : State) : State :=
  if !s.connected k then s
  else if !s.rangeOpen k false off n then s.refuse k true
  else
    let la := localAddr 4 off
    let hidden := fun (i : Nat) => s.marks.contains ((la + i) / 64)
    let any := s.marked la n
    let bs := (List.range n).map fun i => if any && hidden i then 0#8 else s.hostByte (off + i)
    let s := match s.firstMarked la n with
      | some a => s.slagBite 0 (s.global a)
      | none => s
    (s.bookRead off n).each (mtuCut (s.qp k).mtu 0 bs) fun s (_, c, _) => s.hostFrame k c.length (.hostReadData k c)

def execHostRdmaRead (qp : Framed) (off len : Nat) (s : State) : Host.Outcome State Fault Refusal :=
  answer (Instr.hostRdmaRead qp off len).wf (s.untagged qp.vid (doHostRdmaRead qp.of off len))

/-- A SEND or an atomic draws the invalid-request NAK and is counted. -/
def doHostInvalidRequest (k : Nat) (s : State) : State := if s.connected k then s.refuse k false else s

def execHostInvalidRequest (qp : Framed) (s : State) : Host.Outcome State Fault Refusal :=
  answer (Instr.hostInvalidRequest qp).wf (s.untagged qp.vid (doHostInvalidRequest qp.of))

/-! ## Congestion (R216) -/

/-- A CNP halves the QP's rate. -/
def doCnp (k : Nat) (s : State) : State := if s.connected k then s.modQp k fun q => { q with rate := max 1 (q.rate / 2), cnpTick := s.tick } else s

def execCnp (qp : Framed) (s : State) : Host.Outcome State Fault Refusal := answer (Instr.cnp qp).wf (s.untagged qp.vid (doCnp qp.of))

/-- A CE mark is answered with a CNP. -/
def doHostCeMark (k : Nat) (s : State) : State := if s.connected k then s.hostFrame k 0 (.cnp k) else s

def execHostCeMark (qp : Framed) (s : State) : Host.Outcome State Fault Refusal := answer (Instr.hostCeMark qp).wf (s.untagged qp.vid (doHostCeMark qp.of))

/-- 50 us without a CNP give back 1/16 of line rate. -/
def doHostRateRecover (k : Nat) (s : State) : State :=
  if s.connected k && decide ((s.qp k).cnpTick + ticksUs 50 ≤ s.tick) then s.modQp k fun q => { q with rate := min 256 (q.rate + 16), cnpTick := s.tick } else s

def execHostRateRecover (qp : Nat) (s : State) : Host.Outcome State Fault Refusal := answer (Instr.hostRateRecover qp).wf (doHostRateRecover qp s)

end Sys2Proof.Machine
end

