-- ==== Sys2Proof/Machine/CipherRows.lean ====
section
/-! DEFINITION. Completion of cipher requests, retirement of cores and the end of key offers (R276, R279, R280, R285). -/

namespace Sys2Proof.Machine

/-- Requests of a partition that no core is left for complete NO_KEY; a job that needs the cipher leaves (R280). -/
def State.coresGone (s : State) (p : Nat) : State :=
  if s.coreLeft p then s
  else
    let l := s.cipher.queue.filter fun x => cqPart x.raw == p
    let w := s.cipher.waiting.filter fun x => cqPart x.raw == p
    let s := s.modCipher fun c => { c with
      queue := c.queue.filter (fun x => cqPart x.raw != p), waiting := c.waiting.filter (fun x => cqPart x.raw != p), free := c.free + l.length }
    (s.each (l ++ w) fun s x => s.finish x.raw 3).cipherless p

/-- A core completes its request, or is retired by a mismatch of its pipelines. -/
def doCipherRequestDone (core : Nat) (mismatch : Bool) (s : State) : State :=
  match (s.cipher.cores.getD core {}).run with
  | none => s
  | some x => if mismatch then (s.retireCore core).coresGone (corePart s.nparts core) else s.coreDone core x

def execCipherRequestDone (core : Nat) (mismatch : Bool) (s : State) : Host.Outcome State Fault Refusal :=
  answer (Instr.cipherRequestDone core mismatch).wf (doCipherRequestDone core mismatch s)

/-- Life of an offer (R285). -/
def offerTicks : Nat := ticksSec 600

/-- An offer not unwrapped within 600 s is destroyed. -/
def doKeyOfferExpiry (p id : Nat) (s : State) : State :=
  if (s.part p).offers.any fun o => o.1 == id && o.2.2.2 + offerTicks ≤ s.tick then s.modPart p fun q => { q with offers := q.offers.filter fun o => o.1 != id } else s

def execKeyOfferExpiry (p id : Nat) (s : State) : Host.Outcome State Fault Refusal := answer (Instr.keyOfferExpiry p id).wf (doKeyOfferExpiry p id s)

end Sys2Proof.Machine
end

