-- ==== Sys2Proof/Machine/Reset.lean ====
section
/-! DEFINITION. Module resets, the boot chain and the start-up sequence, power-fail, and a change of partitions (R24, R238, R290, R294, R320,
R330, R355, R366, R373-R376). -/

namespace Sys2Proof.Machine

/-! ## Formed records at the hub (R320) -/

/-- A record takes the lowest free entry. -/
def Hub.enqueue (h : Hub) (r : FaultRec) : Hub := match firstWith (fun (e : Option FaultRec) => e.isNone) h.queue with
  | some (k, _) => { h with queue := updAt h.queue k fun _ => some r, free := h.free - 1 }
  | none => h

/-- The number of the next record; the count stops at its limit (R319). -/
def Hub.number (h : Hub) (r : FaultRec) : Hub × FaultRec := ({ h with seq := satTo 32 (h.seq + 1) }, { r with seq := h.seq })

/-- A record written to stream 0 (R320). -/
def State.streamRec (s : State) (r : FaultRec) : State := s.record 0 0x07 r.unit r.part 3 r.word

/-- One record of the flash history queued again, with a new number and hist = 1 (R320). -/
def State.replayOne (s : State) (r : FaultRec) : State :=
  let (h, r) := s.hub.number { r with hist := true }
  ({ s with hub := h.enqueue r } : State).streamRec r

/-- The history replayed, oldest first, into all but the last eight free entries (R320). -/
def State.replay (s : State) : State :=
  let n := s.hub.free - 8
  let l := s.hub.history.take n
  ((s.modHub fun h => { h with history := h.history.drop n }).each l State.replayOne).alertUpdate

/-- Is a partition handling a fault: discarding, recovering or in a partition reset? -/
def Part.handling (q : Part) : Bool := q.st == .draining || q.st == .recovering || q.st == .reset

/-- The open records of the handling chains under way (R320; DEDUCED, log entry 40). -/
def State.chain (s : State) : List FaultRec :=
  s.hub.open_.filter fun r => sevPart ≤ r.sev && !r.hist && (List.range s.nparts).any fun p => (s.part p).handling && (s.part p).handled ≤ r.seq && (r.sev == sevDev || r.part == p)

/-- Records given to the flash history, or held until its write passes the check (R320, Table 16-5). -/
def State.saveHistory (s : State) (l : List FaultRec) : State := (s.modHub fun h => { h with heldHist := h.heldHist ++ l }).persist .faultHistory

/-! ## The boot chain (Table 13-1) -/

/-- The hardware revision of the fuse map (R294; DESIGN CHOICE, log entry 2). -/
def hwRev : Nat := 0

/-- Is the image of a class verified, with an SVN not below the counter of its class? -/
def Sec.imageOk (x : Sec) (l : List Image) (cls : Nat) : Bool := l.any fun i => i.cls == cls && i.ok && x.arb.getD (cls - 1) 0 ≤ i.svn

def Sec.bankOf (x : Sec) (b : Bool) : List Image := x.images.getD (b01 b) []

/-- Version of a running class. -/
def imageVer (l : List Image) (cls : Nat) : Nat := ((l.find? fun i => i.cls == cls).map (·.ver)).getD 0

/-- Does a `COMPAT_ENT` match the hardware and the three versions (Table 13-4)? -/
def compatOk (l : List Image) (e : Nat) : Bool :=
  bits e 127 112 == hwRev && bits e 111 80 == imageVer l 1 && bits e 79 48 == imageVer l 2 && bits e 47 16 == imageVer l 3

/-- The verdict is LIMITED where microcode or manifest fails, or no entry matches (R294). -/
def Sec.isLimited (x : Sec) (l : List Image) : Bool :=
  !([2, 3, 4].all fun c => x.imageOk l c) ||
    !(((l.find? fun i => i.cls == 4).map fun i => (chunks 16 i.body).map leNat).getD []).any fun e => compatOk l e

/-- The record due for the flash copy of the lifecycle: rewritten from the fuse count where a copy disagreed, or where no two agreed (R290,
R317). -/
def Sec.copyNote (x : Sec) : Nat := match vote3 x.lifeCopies with
  | some (_, true) => x.lifeNote
  | some (_, false) => 9
  | none => 10

/-- What a module reset leaves of the root of trust (R290, R293, R299-R301). -/
def Sec.fromReset (x : Sec) : Sec :=
  { life := x.life, lifeCopies := copies3 x.life, lifeNote := x.copyNote, returns := x.returns, prefBank := x.prefBank, images := x.images, arb := x.arb, odk := x.odk, draws := x.draws
    chain := x.chain, bank := x.bank, running := [], aliasOk := false }

/-- Rows 1 to 8. -/
def Sec.boot (x : Sec) : Sec :=
  let x := x.fromReset
  if x.life = .retired then x
  else
    let go := fun (b : Bool) =>
      let l := x.bankOf b
      { x with bank := b, fallback := b != x.prefBank, running := l, verdict := copies3 (b01 (x.isLimited l)), aliasOk := true }
    if x.imageOk (x.bankOf x.prefBank) 1 then go x.prefBank
    else if x.imageOk (x.bankOf !x.prefBank) 1 then go !x.prefBank
    else { x with romRecovery := true }

/-! ## What a reset leaves (R23, R238, R271, R287, R288, R314, R315, R330, R355, R375) -/

/-- Post-package repair: HBM rows whose repair found no spare stay logged; the log without the others is written when it may be (R314, R315). -/
def State.repairRows (s : State) : State :=
  let rows := s.scrub.rows.filter fun r => !Config.rowSpare r s.free
  if rows = s.scrub.rows then s else (s.modScrub fun x => { x with rows := rows }).persist .repairLog

/-- The tables after a reset: reloaded from flash, or as they stood where the persistent domain kept them. -/
def State.scrubReset (s : State) (rails : Bool) : Scrub :=
  let t := if rails then s.scrub.remaps.map fun l => l.filter (·.st != 1) else s.scrub.logRemaps
  { remaps := t, freeEnts := t.map fun l => 64 - l.length, rows := if rails then s.scrub.rows else s.scrub.logRows, logRemaps := s.scrub.logRemaps, logRows := s.scrub.logRows }

/-- The ages of FATAL resets carried over a restart of the tick counter. -/
def Hub.aged (h : Hub) (now : Nat) : List Nat := h.resetAt.map (· + now)

/-- Every die but the standby domain in reset, at the reset gate, or at row 4 where the rails ramp again (Table 16-11): `rails` says that the main rails stayed on, so that HBM and crucible keep their bytes and
marks. Retired units stay OFFLINE (R13, R279; log entry 41). -/
def State.cleared (s : State) (rails : Bool) : State :=
  { pending := s.pending, out := s.out, free := s.free + 1
    parts := [{ st := UnitSt.reset }, {}, {}, {}]
    hearths := s.hearths.map fun (h : Hearth) => ({ st := if h.st = UnitSt.offline then UnitSt.offline else UnitSt.reset } : Hearth)
    units := s.units.map fun (u : UUnit) => ({ offline := u.offline } : UUnit)
    mem := if rails then s.mem.filter (fun c => c.1 < 3 * 2 ^ 41) else [], marks := if rails then s.marks else []
    cipher := s.cipher.cleared, sec := s.sec.fromReset, scrub := s.scrubReset rails, side := s.side
    hub := { history := s.hub.history, heldHist := if rails then s.hub.heldHist else [], resetAt := s.hub.aged s.tick }
    power := { s.power with
      row := if rails then 5 else 4, pstate := .p4, target := 1, moving := none, moveMbx := none, busyTick := 0, vco := true, inputTicks := [], holdTick := 0, hoursTick := 0, lostMem := [], cap := 4400, blade := 0, bladeSum := 0, bladeMax := 0
      bladeN := 0, throttleTicks := 0, recTick := 0, thermal := List.replicate 16 16, cool := List.replicate 16 0, temps := [], warned := [], grants := List.replicate 16 0, leaving := List.replicate 16 0, freeGrant := 0, retryTick := 0
      deferred := if rails then s.power.deferred else [], hours := if rails then s.power.hours else s.power.flashHours, cmeas := if rails then s.power.cmeas else none } }

/-- The main domain off (P4, or the end of a power-fail): standby at row 1 where its supply lasts (Table 16-6 row 5, Table 16-9). -/
def State.poweredOff (s : State) (standby : Bool) : State :=
  let s := (s.cleared false).modPower fun w => { w with row := if standby then 1 else 0, vco := false, standby := standby }
  if standby then s
  else ({ s with side := {} } : State).modHub (fun h => { h with resetAt := [] }) |>.modPower fun w =>
    { w with pwrEn := false, resetN := true, haltN := true, raw := [false, true, true], edgeHold := [0, 0, 0], standbyLeft := 0, forced := [false, false, false], latched := false, strapNoted := false, straps := 0 }

/-! ## Start-up (Table 16-10) -/

/-- A record of a class-15 item (Table 16-17). -/
def rec15 (sev code item : Nat) : FaultRec := { recDev sev code with resClass := 15, resIndex := item }

/-- What is queued first after a boot: the replayed history, then records held in standby, of the lifecycle copy, of a fallback and of a strap
change (R317, R320, R358, R378, Table 13-1 rows 1 and 4). -/
def State.firstRecords (s : State) : State :=
  let held := s.side.held
  let s := (s.replay.modSide fun x => { x with held := [] }).each held State.raise
  let note := s.sec.lifeNote
  let s := if note = 0 then s else (s.modSec fun x => { x with lifeNote := 0 }).raise { recDev (if note = 9 then sevCE else sevDef) note with resClass := 14, resIndex := 2 }
  let s := if s.sec.fallback then s.raise { recDev sevDef 0xA1 with resClass := 14, resIndex := b01 s.sec.prefBank } else s
  if s.power.strapNoted then (s.modPower fun w => { w with strapNoted := false }).raise (rec15 sevDef 0x9A 59) else s

/-- Every hearth that is not OFFLINE in the state of R77 but held in RESET for its self-test, and every core due for its own (R77, R288). -/
def Hearth.tested (h : Hearth) : Hearth := if h.st = .offline then { st := .offline } else { st := .reset, testing := true }
def State.testHearths (s : State) : State := { s with hearths := s.hearths.map Hearth.tested }
def State.testAll (s : State) : State := s.testHearths.modCipher fun c => { c with cores := c.cores.map fun k => { k with testing := !k.offline } }

/-- Are the self-tests of a partition's hearths and cores over? -/
def State.tested (s : State) (p : Nat) : Bool :=
  (s.hearthsOf p).all (fun h => !(s.hearth h).testing) && (List.range 16).all fun k => corePart s.nparts k != p || !(s.cipher.cores.getD k {}).testing

/-- Grant in W with which a die of partition `p` starts: its part of the partition's share at full duty, none without a partition (log entry 39). -/
def startGrant (cfg p : Nat) : Nat := if p < countOf cfg then 4400 * shareOf cfg p / 4096 / (16 / countOf cfg) else 0

/-- The grants of a configuration, nothing being withdrawn. -/
def Power.startGrants (w : Power) (cfg : Nat) : Power :=
  let l := (List.range 16).map fun d => startGrant cfg (diePart (countOf cfg) d)
  { w with grants := l, leaving := List.replicate 16 0, freeGrant := 4400 - l.sum }

/-- Row 11: partition 0 READY (Table 16-10). -/
def State.ready (s : State) : State :=
  let s := { s with parts := [{ st := UnitSt.ready }, {}, {}, {}] }
  ((s.modPower fun w => { w.startGrants 0 with row := 11, pstate := .p1 }).modHub fun h => { h with resetAt := [] }).firstRecords

/-- What the end of self-tests opens: row 11 of the start-up, and READY for a partition held in RESET by PART.CREATE or
in RECOVERING by tests alone (R24, R75, R77, Table 16-10). -/
def State.testsOver (s : State) : State :=
  if s.power.row = 9 then (if (List.range s.nparts).all fun p => s.tested p then s.ready else s)
  else s.each (List.range s.nparts) fun s p =>
    let q := s.part p
    if (q.st = .reset ∨ (q.st = .recovering ∧ (q.job.isNone ∨ q.idle))) ∧ !q.fenced ∧ s.tested p then s.modPart p fun q => { q with st := .ready, depth := 0 } else s

/-- Row 6: held while RESET_N is asserted or RESET_LOOP stops the sequence; else the boot chain, at which RETIRED and ROM recovery end (R298, R373,
R376). -/
def State.startUp (s : State) : State :=
  if !s.power.resetN ∨ s.power.loopStop then s
  else
    let s := s.modSec Sec.boot
    s.modPower fun w => { w with row := 6, pstate := if s.sec.life = .retired ∨ s.sec.romRecovery then .p1 else .p4 }

/-- Row 2, where PWR_EN is asserted 100 ms after row 1, the straps are latched, the input lies in its band and no cause is latched (R358, R366,
Table 16-3). -/
def State.tryStart (s : State) : State :=
  let w := s.power
  let free := match w.cause with
    | none => true
    | some c => c == .input
  if w.standby && w.row == 1 && w.pwrEn && w.standbyLeft == 0 && w.latched && free && 40000 ≤ w.millivolts && w.millivolts ≤ 50000 then
    s.modPower fun w => { w with row := 2, cause := none }
  else s

/-- Row 4: the root VCO locks, and the tick counter starts (R368). -/
def State.vcoLock (s : State) : State :=
  { (s.modHub fun h => { h with resetAt := h.aged s.tick }).modPower fun w => { w with row := 4, vco := true, vbank := 48000 } with tick := 0 }

/-- The start-up goes on by one row with each tick that nothing else takes: the durations of Table 16-10 are bounds (R373; DESIGN CHOICE, log entry
134). Row 9 lasts until the self-tests are over; rows 10 and 11 follow it together (R77, R288). -/
def State.nextRow (s : State) : State :=
  let r := s.power.row
  if r = 1 then s.tryStart
  else if r = 2 then s.modPower fun w => { w with row := 3 }
  else if r = 3 then s.vcoLock
  else if r = 4 then s.modPower fun w => { w with row := 5 }
  else if r = 5 then s.startUp
  else if r = 6 then (if s.sec.life = .retired ∨ s.sec.romRecovery then s else s.modPower fun w => { w with row := 7 })
  else if r = 7 then s.repairRows.modPower fun w => { w with row := 8 }
  else if r = 8 then (s.testAll.modPower fun w => { w with row := 9 }).testsOver
  else s

/-! ## Module reset (R374, R375) -/

/-- A reset that keeps the rails, with the boot chain after it, or one that ramps them again from row 4 (Table 16-11). -/
def State.moduleReset (s : State) (rails : Bool) : State := if rails then (s.cleared true).startUp else s.cleared false

/-- Ticks of 10 min. -/
def loopTicks : Nat := ticksSec 600

/-- A FATAL reset is counted until row 11 is reached; a third within 10 min stops the sequence before row 6 (R376). -/
def State.countReset (s : State) : State :=
  let ages := s.hub.resetAt.filter (· < loopTicks) ++ [0]
  let s := s.modHub fun h => { h with resetAt := ages }
  if 3 ≤ ages.length then (s.modPower fun w => { w with loopStop := true }).saveHistory [s.stamp { recDev sevFatal 0x9E with resClass := 13 }] else s

/-- A FATAL record resets the module, CLOCK_LOSS with its rails off (Table 16-11). -/
def State.fatalReset (s : State) (code : Nat) : State :=
  let s := (s.cleared (code != 0x94)).countReset
  if code = 0x94 then s else s.startUp

/-! ## Power-fail (R366, Table 16-6) -/

/-- Energy of one page write, 0.09 J, in the units of `holdEnergy`. -/
def pageEnergy : Nat := 900 * 10 ^ 12

/-- Rows 3 to 5: the fault history with its chain, then the repair log and the counters, each under the check against what the bank still
holds; a write that fails is lost. The cause latches. -/
def State.powerFail (s : State) (c : PfCause) (r : FaultRec) : State :=
  if s.power.row < 2 then s
  else
    let e := holdEnergy s.power.cmeas s.power.vbank
    let l := s.hub.heldHist ++ s.chain ++ [s.stamp r]
    let ok1 := decide (storeNeed .faultHistory ≤ e)
    let s := if ok1 then s.modHub fun h => { h with history := h.history ++ l, heldHist := [] } else s
    let e := if ok1 then e - pageEnergy else e
    let ok2 := s.power.deferred.contains .repairLog && storeNeed .repairLog ≤ e
    let s := if ok2 then s.flash .repairLog else s
    let e := if ok2 then e - pageEnergy else e
    let s := if s.power.deferred.contains .wear && storeNeed .wear ≤ e then s.flash .wear else s
    let up := s.power.standby && 36000 ≤ s.power.millivolts
    let s := s.poweredOff up
    (if up then s.countReset else s).modPower fun w => { w with cause := some c }

/-! ## PART.CREATE and the loss of the configuration word (R23, R24, R77, R238, R288, R339) -/

/-- The partitions of a configuration, in RESET, and what they replace cleared: hearth SRAM and tile registers, every slot zeroised, tables,
channels, targets and bindings (R24, R77, R238). The island number is forgotten with the rest of a partition's state (DESIGN CHOICE, log
entry 94). -/
def State.partsFor (s : State) (cfg : Nat) : State :=
  { s with
    partCfg := copies3 cfg
    parts := (List.range 4).map fun (p : Nat) => if p < countOf cfg then ({ st := UnitSt.reset } : Part) else ({} : Part)
    tempers := List.replicate 256 {}, tongs := List.replicate 22 []
    units := s.units.map fun (u : UUnit) => ({ offline := u.offline } : UUnit)
    mem := s.mem.filter (fun c => c.1 < 3 * 2 ^ 41 || 4 * 2 ^ 41 ≤ c.1), wmarks := []
    cipher := { s.cipher.cleared with done := [] }
    net := { s.net with qps := s.net.qps.map (fun (q : Qp) => if q.dev then q else {}), targets := s.net.targets.map fun (t : Nat) => if htDev t then t else 0 } }

/-- Every partition in RESET, and the new ones READY once the self-tests of their hearths and cores are over; the commands of the partitions
replaced are DISCARDED (R24, R77, R288, R339). -/
def State.repartition (s : State) (cfg : Nat) : State :=
  let s := s.each ((List.range 64).filter fun m => 4 ≤ m && s.smithHas m) fun s m => s.finishMbx m stDISCARDED [] 0xFFFF
  (((s.partsFor cfg).testAll).modPower fun w => w.startGrants cfg).testsOver

end Sys2Proof.Machine
end

