-- ==== Sys2Proof/Machine/Hub.lean ====
section
/-! DEFINITION. The fault hub: records, dispatch, nesting, the end of a discard, self-tests, control-state faults, audits and counts (R28, R75,
R318-R331, R348). -/

namespace Sys2Proof.Machine

/-- Does the hub run: has start-up reached row 11? -/
def State.running (s : State) : Bool := s.power.row == 11

/-! ## FAULT_RECORD (R320, R321) -/

/-- Key of a resource and code (R321). -/
def ceKey (r : FaultRec) : Nat := pack [(16, r.unit), (6, r.resClass), (6, r.resIndex), (8, r.code)]

/-- A record of low severity that is not queued, or one suppressed: counted by code. -/
def Hub.countCode (h : Hub) (code : Nat) : Hub := { h with uncounted := countUp 32 code 1 h.uncounted }

/-- The oldest CE or DEFERRED record evicted (R320). -/
def Hub.evict (h : Hub) : Hub :=
  let low := (h.open_.filter fun r => r.sev < sevPart).map (·.seq)
  match low.min? with
  | some q => { h with queue := h.queue.map fun e => if e.any (fun r => r.seq == q) then none else e, free := h.free + 1, evicted := satTo 32 (h.evicted + 1) }
  | none => h

/-- A record into the queue, the first after uncounted ones with overflow = 1. -/
def Hub.take (h : Hub) (r : FaultRec) : Hub := { h.enqueue { r with overflow := h.lost } with lost := false }

/-- Records in order of their numbers. -/
def bySeq (l : List FaultRec) : List FaultRec := sortBy (·.seq) l

/-- Does a record of this severity preempt the dispatch in progress (R323)? -/
def Hub.preempts (h : Hub) (sev : Nat) : Bool := !h.dispatch.isEmpty && h.dispatch.all fun r => r.sev < sev

/-- A FATAL record goes to the flash history with its chain, and waits for its dispatch. -/
def State.takeFatal (s : State) (r : FaultRec) (chain : List FaultRec) : State :=
  let (h, r) := s.hub.number { r with preempt := s.hub.preempts r.sev }
  (({ s with hub := { h with dispatch := h.dispatch ++ [r] } } : State).saveHistory (bySeq chain ++ [r]))

/-- A CE or DEFERRED record: queued, or counted when fewer than 8 entries are free. -/
def Hub.takeLow (h : Hub) (r : FaultRec) : Hub := if h.free < 8 then { h.countCode r.code with lost := true } else h.take r

/-- A record that needs handling: queued, and waiting for its dispatch but for NEST_ESCALATE. -/
def Hub.takeHigh (h : Hub) (r : FaultRec) : Hub :=
  let t := h.take r
  if r.code = 0x81 then t else { t with dispatch := t.dispatch ++ [r] }

/-- A record of UCE_PART or UCE_DEV: an older one of low severity makes room; with none, QUEUE_FULL (R320). -/
def State.takeUce (s : State) (r : FaultRec) : State :=
  let s := if s.hub.free = 0 then s.modHub Hub.evict else s
  if s.hub.free = 0 then s.takeFatal (s.stamp { recDev sevFatal 0x83 with resClass := 13, resIndex := 2 }) (s.hub.open_ ++ [r])
  else (s.modHub fun h => h.takeHigh r).alertUpdate

/-- A record below FATAL: numbered, written to stream 0 as it is queued, and queued or counted. -/
def State.takeRecord (s : State) (r : FaultRec) : State :=
  let n := s.hub.number r
  let s := s.modHub fun _ => n.1
  if r.sev < sevPart then ((s.streamRec { n.2 with overflow := s.hub.lost && 8 ≤ s.hub.free }).modHub fun h => h.takeLow n.2).alertUpdate
  else
    let r := { n.2 with preempt := s.hub.preempts r.sev, overflow := s.hub.lost }
    (s.streamRec r).takeUce r

/-- The oldest record that was raised reaches the hub; until start-up has reached row 11 it waits. -/
def doFaultRecord (s : State) : State :=
  match s.hub.arriving with
  | [] => s
  | r :: rest =>
    if !s.running then s
    else
    let s := s.modHub fun h => { h with arriving := rest }
    if r.sev = sevCE then
      if s.hub.ceTick.any fun x => x.1 == ceKey r && decide (s.tick < x.2 + ticksSec 1) then s.modHub fun h => h.countCode r.code
      else (s.modHub fun h => { h with ceTick := assocSet (ceKey r) s.tick h.ceTick }).takeRecord r
    else if r.sev = sevFatal then s.takeFatal r s.chain
    else s.takeRecord r

def execFaultRecord (s : State) : Host.Outcome State Fault Refusal := answer true (doFaultRecord s)

/-! ## FAULT_DISPATCH (R323, R324) -/

/-- The record handled next: the first of the highest severity. -/
def nextDispatch (l : List FaultRec) : Option (Nat × FaultRec) := firstWith (fun (r : FaultRec) => l.all fun x => x.sev ≤ r.sev) l

/-- A record takes effect in one partition by its depth (R324); one that PART.CREATE holds in RESET has nothing to discard. -/
def State.takeFault (s : State) (r : FaultRec) (p : Nat) : State :=
  let q := s.part p
  if q.st = .reset ∧ !q.fenced then s
  else if q.st = .reset then
    (s.modPart p fun q => { q with depth := 2 }).raise { recPart p sevFatal 0x81 with detail := q.handled }
  else if q.st = .draining ∨ q.st = .recovering then
    ((s.modPart p fun q => { q with depth := 1 }).raise { recPart p sevPart 0x81 with detail := q.handled }).partitionReset p r.seq
  else s.beginDiscard p r.seq

/-- What handling a record does, by its severity (Table 14-5). -/
def State.handle (s : State) (r : FaultRec) : State :=
  if r.sev = sevFatal then s.fatalReset r.code
  else if r.sev = sevDev then s.each (List.range s.nparts) fun s p => s.takeFault r p
  else if s.hasPart r.part then s.takeFault r r.part else s

def doFaultDispatch (s : State) : State :=
  match nextDispatch s.hub.dispatch with
  | none => s
  | some (k, r) => (s.modHub fun h => { h with dispatch := h.dispatch.eraseIdx k }).handle r

def execFaultDispatch (s : State) : Host.Outcome State Fault Refusal := answer true (doFaultDispatch s)

/-! ## BOOKS_RESTORED, DISCARD_TIMEOUT (R50, R169, R173, R325, R326) -/

/-- The island's boundary of the step that the partition did not complete, as its peers observe it (R50): the step is counted where it was
given up or redone with an event of R95 (R96, log entry 93), what it sampled is dropped (R130), and actions 4 to 7 follow with their limits. -/
def State.passBoundary (s : State) (p : Nat) : State :=
  let r := (s.part p).run
  let skipped := !r.redo
  let s := s.each (s.hearthsOf p) fun s h => s.modHearth h fun x => { x.boundary with ctlFaults := 0 }
  let s := s.modPyro p Pyro.discard
  let s := (s.modRun p fun x => { x with
    redo := false, atAction8 := true, decision := none, reproCount := satTo 32 (x.reproCount + b01 (skipped || x.exempt s.free)) }).fresh.2
  if r.step = 2 ^ 48 - 1 then s.limitStop p
  else
    let s := s.nextNumber p skipped
    if (r.step + 1) % s.roundLen p = 0 ∧ r.round = 2 ^ 32 - 1 then s.limitStop p else s.roundTest p r.step

/-- The rejoin announcement is asked of the root of the deciding FLAG's group, or by the root of the next member (R203). -/
def State.askRejoin (s : State) (p g : Nat) : State :=
  (s.hold p .rejoin).sendSeg p g (if cgRank g = 0 then 1 else 0) 0 (s.barrierSeg p g 3 0) false

/-- Commits redone from the retained gradients: shards below the step (R169). -/
def State.redoCommits (s : State) (p : Nat) : State :=
  if (s.part p).run.redo then s.each (s.shards p) fun s d => (s.smithCommit p d (s.part p).run.step true).1 else s

/-- A partition that cannot bring its declared state to the step stands for the island rollback: a lone one restores its round start itself, a
member waits for the coordinator's (R169; log entry 105). -/
def State.strand (s : State) (p : Nat) : State :=
  let n := match s.flagGroup p with
    | some g => cgN g
    | none => 1
  if n ≤ 1 then (s.doRollback p []).resumeMember p else s.hold p .rejoin

/-- RECOVERING: the self-tests that are due start (R75), declared state is brought to its step, an interrupted image refresh starts again, and
the partition rejoins; without a job, or with none running, it is READY once its tests are over. -/
def State.recoverPart (s : State) (p : Nat) : State :=
  let s := s.modPart p fun q => { q with fenced := false, discardFrom := none, st := .recovering }
  let s := s.each (s.hearthsOf p) fun s h => s.modHearth h fun x => { x with testing := x.testing || x.testDue, testDue := false }
  let q := s.part p
  if q.job.isNone ∨ q.idle then s.testsOver
  else
    let s := (s.mendFlips p).redoCommits p
    let s := (if q.imageStage = 9 then s.startRefresh p else s).redoRestore p
    if (s.part p).run.stranded then s.strand p
    else if q.run.atAction8 then (s.gatherNext p).goOn p
    else
      let s := s.passBoundary p
      match s.flagGroup p with
      | some g => if 1 < cgN g then s.askRejoin p g else s.goOn p
      | none => s.goOn p

/-- Local and remote work has ended: the books are at their full values. A partition reset ends READY when its self-tests have. -/
def doBooksRestored (p : Nat) (s : State) : State :=
  let q := s.part p
  if !q.fenced ∨ !q.fab.booksClosed then s
  else if q.st = .draining then s.recoverPart p
  else if q.st = .reset ∧ s.tested p then s.modPart p fun q => { q with st := .ready, depth := 0, fenced := false, discardFrom := none }
  else s

def execBooksRestored (p : Nat) (s : State) : Host.Outcome State Fault Refusal := answer (Instr.booksRestored p).wf (doBooksRestored p s)

/-- A discard that has not ended within 100 ms. -/
def doDiscardTimeout (p : Nat) (s : State) : State :=
  match (s.part p).discardFrom with
  | some t => if (s.part p).fenced ∧ ticksMs 100 < s.tick - t then (s.modPart p fun q => { q with discardFrom := some s.tick }).raise (recPart p sevPart 0x82) else s
  | none => s

def execDiscardTimeout (p : Nat) (s : State) : Host.Outcome State Fault Refusal := answer (Instr.discardTimeout p).wf (doDiscardTimeout p s)

/-! ## Self-tests (R75, R77, R280, R288) -/

/-- A hearth that fails goes OFFLINE, and its partition leaves its job. -/
def State.hearthFailed (s : State) (h : Nat) : State :=
  let p := hearthPart s.nparts h
  let s := (s.modHearth h fun _ => { st := .offline }).raise (recHearth p h sevPart 0x31)
  if (s.part p).job.isSome then s.dropOut p else s

/-- A core that fails its tests is retired, with no request to redo. -/
def State.coreFailed (s : State) (k : Nat) : State :=
  let p := corePart s.nparts k
  ((s.modCipher fun c => c.modCore k fun _ => { offline := true }).raise { recPart p sevPart 0x31 with resClass := 10, resIndex := k }).coresGone p

/-- A self-test ends; the last of a start-up or of a change of partitions lets it go on. -/
def doSelftestDone (hearth : Bool) (unit : Nat) (pass : Bool) (s : State) : State :=
  if hearth then
    if !(s.hearth unit).testing then s
    else (if pass then s.modHearth unit fun x => { x with testing := false, st := .ready } else s.hearthFailed unit).testsOver
  else if !(s.cipher.cores.getD unit {}).testing then s
  else (if pass then s.modCipher fun c => c.modCore unit fun x => { x with testing := false } else s.coreFailed unit).testsOver

def execSelftestDone (hearth : Bool) (unit : Nat) (pass : Bool) (s : State) : Host.Outcome State Fault Refusal :=
  answer (Instr.selftestDone hearth unit pass).wf (doSelftestDone hearth unit pass s)

/-! ## CONTROL_PARITY (R28, R74, R119, R141, R157, R209, R237, R270, R286, R331) -/

/-- Is a step of the partition open: running, or its discard not over? -/
def State.stepOpen (s : State) (p : Nat) : Bool :=
  let q := s.part p
  q.job.isSome && (q.st == .active || q.st == .draining || q.st == .recovering) && !q.run.atAction8

/-- A control-state fault of a hearth or its engine: a self-test is due; the second in a step counts as failed (R75, R119). -/
def State.hearthParity (s : State) (h : Nat) : State :=
  let p := hearthPart s.nparts h
  let x := s.hearth h
  let s := s.raise (recHearth p h sevPart 0x30)
  if s.stepOpen p ∧ 1 ≤ x.ctlFaults then s.hearthFailed h
  else s.modHearth h fun x => { x with ctlFaults := b01 (s.stepOpen p), testDue := x.st != .offline }

/-- Partitions that a bellows die serves: its owner and those that borrow its ports. -/
def State.bellowsParts (s : State) (b : Nat) : List Nat := (List.range s.nparts).filter fun p => s.usable p (2 * b) || s.usable p (2 * b + 1)

/-- Partitions that a tongs engine serves. -/
def State.tongsParts (s : State) (e : Nat) : List Nat :=
  if e < 16 then [diePart s.nparts e] else if e < 18 then diePartsCru s.nparts (e - 16) else [bellowsPart s.nparts (e - 18)]

/-- The scheduler fails: every request DROPPED, the scheduler reset, every core tested again (Table 01-8, R288). -/
def State.schedFault (s : State) : State :=
  let s := s.each (List.range s.nparts) fun s p => s.dropRequests p
  (s.modCipher fun c => { c.cleared with done := c.done, cores := c.cores.map fun k => { offline := k.offline, testing := !k.offline } }).raise
    { recDev sevDev 0x30 with resClass := 11 }

/-- A FATAL condition of the module: a record where the hub runs; before row 11 the reset takes effect at once, with its record in the history (R376). -/
def State.fatalNow (s : State) (r : FaultRec) : State := if s.running then s.raise r else (s.saveHistory [s.stamp r]).fatalReset r.code

/-- An error that a smith memory's code finds: corrected, or FATAL; Jafepin runs from row 6 on (R331). -/
def State.smithError (s : State) (double : Bool) : State :=
  if s.power.row < 6 then s
  else if double then s.fatalNow { recDev sevFatal (Config.faultCode 331) with resClass := 13 }
  else if s.running then s.raiseMem { recDev sevCE 0x03 with resClass := 13 } else s

/-- A parity error in control state, or an error in a smith memory. -/
def doControlParity (c : Ctl) (s : State) : State :=
  let all := fun (l : List Nat) (cls idx : Nat) => s.each l fun s p => s.raise { recPart p sevPart 0x30 with resClass := cls, resIndex := idx }
  if c = .smithMem true ∨ c = .smithMem false then s.smithError (c = .smithMem true)
  else if !s.running then s
  else match c with
    | .hearth h => s.hearthParity h
    | .temper h => s.hearthParity h
    | .temperProgram h src => s.raise { recHearth (hearthPart s.nparts h) h sevPart 0x30 with detail := srcIx src }
    | .pyro p => all [p] 0 0
    | .tongs e => all (s.tongsParts e) 5 e
    | .arena p => all [p] 0 0
    | .crucibleDie c => all (diePartsCru s.nparts c) 3 c
    | .coll b => all [bellowsPart s.nparts b] 8 b
    | .bellows b => all (s.bellowsParts b) 6 b
    | .outer b => all (s.bellowsParts b) 9 b
    | .cipherReq p => all [p] 11 0
    | .cipherSched => s.schedFault
    | .link p k => all [p] 12 k
    | .linkShared k => s.raise { recDev sevDev 0x30 with resClass := 12, resIndex := k }
    | .smithMem _ => s

def execControlParity (c : Ctl) (s : State) : Host.Outcome State Fault Refusal := answer (Instr.controlParity c).wf (doControlParity c s)

/-- The watchdog expires (R331). -/
def doWatchdogExpiry (s : State) : State := s.smithError true

def execWatchdogExpiry (s : State) : Host.Outcome State Fault Refusal := answer true (doWatchdogExpiry s)

/-! ## BOOK_AUDIT, COUNT_REC (R328, R348) -/

/-- The audit of every second. -/
def doBookAudit (s : State) : State := if s.running ∧ s.hub.auditTick + ticksSec 1 ≤ s.tick then (s.modHub fun h => { h with auditTick := s.tick }).audit else s

def execBookAudit (s : State) : Host.Outcome State Fault Refusal := answer true (doBookAudit s)

/-- A `COUNT_REC` (Table 15-11). -/
def State.countRec (s : State) (kind index n : Nat) : State :=
  if n = 0 then s else s.recordDev 0x0A unitDevice 1 (pack [(8, kind), (8, index), (32, satTo 32 n), (80, 0)])

/-- Each nonzero count of the second, which then starts again: by fault code, by stack, and of queue evictions. -/
def doCountRec (s : State) : State :=
  if !s.running ∨ s.tick < s.hub.countTick + ticksSec 1 then s
  else
    let s := s.each s.hub.uncounted fun s (c, n) => s.countRec 0 c n
    let s := s.each (List.range 16) fun s k => s.countRec 1 k (Config.onDie k s.free)
    let s := s.countRec 2 0 s.hub.evicted
    { s.modHub (fun h => { h with uncounted := [], evicted := 0, countTick := s.tick }) with free := s.free + 1 }

def execCountRec (s : State) : Host.Outcome State Fault Refusal := answer true (doCountRec s)

end Sys2Proof.Machine
end

