-- ==== Sys2Proof/Machine/ScrubRows.lean ====
section
/-! DEFINITION. Scrubbing, write-backs, remaps and the local scrub of voted words (R311-R313, R317). -/

namespace Sys2Proof.Machine

/-! ## SCRUB_READ (R311) -/

/-- Lines of one HBM stack and of one crucible package: 128 GiB. -/
def packLines : Nat := 2 ^ 31

/-- Local address of line `i` of stack `k` (R143). -/
def State.stackLine (s : State) (k i : Nat) : Nat :=
  let t := 16 / s.nparts
  2 ^ 41 / s.nparts * (k / t) + (i / 64 * t + k % t) * 4096 + i % 64 * 64

/-- Local address of line `i` of crucible package `k` (R143). -/
def State.packLine (s : State) (k i : Nat) : Nat :=
  let t := 32 / s.nparts
  2 ^ 41 + 2 ^ 42 / s.nparts * (k / t) + (i / 64 * t + k % t) * 4096 + i % 64 * 64

/-- What the scrubber does with a line: corrected and rewritten, marked, or left; one that cannot be reached is passed over (R311, R369). -/
def State.scrubLine (s : State) (la : Nat) (ecc : Ecc) : State :=
  match (if s.unreached la 64 then .clean else ecc) with
  | .clean => s
  | .split => s
  | .corrected => (s.memCorrected la true).modScrub fun x => { x with wbacks := x.wbacks.filter (· != la / 64) }
  | .uncorrectable => s.memUncorrectable la 0x06

/-- The scrubber of a stack or of a crucible die reads its next line; off, or in P3, it keeps its place. -/
def doScrubRead (crucible : Bool) (unit : Nat) (ecc : Ecc) (s : State) : State :=
  if !s.running ∨ s.power.pstate = .p3 ∨ !bit s.scrub.cfg (if crucible then 10 else 11) then s
  else if crucible then
    let i := s.scrub.cru.getD unit 0
    (s.scrubLine (s.packLine (16 * unit + i / packLines) (i % packLines)) ecc).modScrub fun x => { x with cru := updAt x.cru unit fun i => (i + 1) % (16 * packLines) }
  else
    let i := s.scrub.hbm.getD unit 0
    (s.scrubLine (s.stackLine unit i) ecc).modScrub fun x => { x with hbm := updAt x.hbm unit fun i => (i + 1) % packLines }

def execScrubRead (crucible : Bool) (unit : Nat) (ecc : Ecc) (s : State) : Host.Outcome State Fault Refusal :=
  answer (Instr.scrubRead crucible unit ecc).wf (doScrubRead crucible unit ecc s)

/-- A scheduled write-back is done: the line holds no error any more (R312). -/
def doCorrectedWriteback (line : Nat) (s : State) : State := s.modScrub fun x => { x with wbacks := x.wbacks.filter (· != line) }

def execCorrectedWriteback (line : Nat) (s : State) : Host.Outcome State Fault Refusal := answer true (doCorrectedWriteback line s)

/-! ## REMAP_DONE (R313) -/

/-- A pending entry becomes active; the tables are logged. -/
def doRemapDone (die page : Nat) (s : State) : State :=
  if !(s.scrub.remaps.getD die []).any fun r => r.page == page && r.st == 1 then s
  else
    let s := s.modScrub fun x => { x with remaps := updAt x.remaps die fun t => t.map fun r => if r.page == page && r.st == 1 then { r with st := 2 } else r }
    (s.raise { recDev sevCE 0x07 with resClass := 3, resIndex := die, addr := s.global page }).persist .repairLog

def execRemapDone (die page : Nat) (s : State) : Host.Outcome State Fault Refusal := answer (Instr.remapDone die page).wf (doRemapDone die page s)

/-! ## LOCAL_SCRUB (R312, Table 14-4) -/

/-- The configuration word: rewritten with a CE, or lost with UCE_DEV, and then one partition with no job (R23). -/
def State.voteCfg (s : State) : State :=
  match vote3 s.partCfg with
  | some (_, true) => s
  | some (w, false) => ({ s with partCfg := copies3 w } : State).raise { recDev sevCE 0x09 with resClass := 13 }
  | none => (s.repartition 0).raise { recDev sevDev 0x0A with resClass := 13 }

/-- A key slot's state word (R286). -/
def State.voteSlot (s : State) (k : Nat) : State :=
  match vote3 (s.slot k).words with
  | some (_, true) => s
  | some (_, false) => doKeyFault k .wordOne s
  | none => doKeyFault k .wordNone s

/-- The compatibility verdict (R295). -/
def State.voteVerdict (s : State) : State :=
  match vote3 s.sec.verdict with
  | some (_, true) => s
  | some (v, false) => (s.modSec fun x => { x with verdict := copies3 v }).raise { recDev sevCE 0x09 with resClass := 13, resIndex := 1 }
  | none => (s.modSec fun x => { x with verdict := copies3 1 }).raise { recDev sevDef 0x0A with resClass := 13, resIndex := 1 }

/-- What the walk finds in one word of SRAM: corrected, or the entry's own rule (R141, R237). A routing entry beyond correction is UCE_PART, a
tracking entry is re-seeded. -/
def State.sramFound (s : State) (x : SramErr) : State :=
  match x with
  | .routing p double =>
    if s.nparts ≤ p then s
    else if double then s.raise { recPart p sevPart (Config.faultCode 237) with resClass := 6, resIndex := 4 / s.nparts * p }
    else s.raiseMem { recPart p sevCE 0x03 with resClass := 6, resIndex := 4 / s.nparts * p }
  | .pyro p i double =>
    match (s.part p).pyro.tracks[i]? with
    | none => s
    | some _ =>
      if double then (s.modPyro p fun y => y.modTrack i (·.reseeded (s.stepOpen p))).raiseMem (recPart p sevDef 0x04) else s.raiseMem (recPart p sevCE 0x03)
  | .counter k => s.raiseMem (slotRec (slotPart s.nparts k) k sevCE 0x03)

/-- The walk, once in every second: errors found in SRAM that persists across steps, then the voted words. -/
def doLocalScrub (found : List SramErr) (s : State) : State :=
  if !s.running ∨ s.tick < s.scrub.walkTick + ticksSec 1 then s
  else
    let s := s.modScrub fun x => { x with walkTick := s.tick }
    let s := s.each found State.sramFound
    let s := s.voteCfg
    let s := s.each (List.range s.nparts) fun s p => s.voteRoot p
    (s.each (List.range 512) fun s k => s.voteSlot k).voteVerdict

def execLocalScrub (found : List SramErr) (s : State) : Host.Outcome State Fault Refusal :=
  answer (Instr.localScrub found).wf (doLocalScrub found s)

end Sys2Proof.Machine
end

