-- ==== Sys2Proof/Machine/PowerRows.lean ====
section
/-! DEFINITION. Power capping, temperatures, clocks, the hold-up bank, power states, pins and start-up events (R49, R353, R354, R358-R383). -/

namespace Sys2Proof.Machine

/-! ## CAP_TICK (R329, R353, R354) -/

/-- One tick of a partition's duty: `over` says that its average is above its budget, `low` that it is at most 95 % of it. -/
def Duty.tick (d : Duty) (avg : Nat) (above low : Bool) : Duty :=
  let d := { d with avg := avg }
  let d := if above then { d with n := max (d.n - 1) 1, low := 0 } else if low then { d with low := d.low + 1 } else { d with low := 0 }
  let d := if 100 ≤ d.low then { d with n := min (d.n + 1) 16, low := 0 } else d
  { d with overs := if above && d.n == 1 then d.overs + 1 else 0 }

/-- Grant in W that a forge die is due: its part of its partition's budget at duty n (log entry 39). -/
def State.dieWant (s : State) (d : Nat) : Nat :=
  let p := diePart s.nparts d
  s.capNow * shareOf s.cfgWord p * (s.part p).duty.n / 65536 / (16 / s.nparts)

/-- A die's grant lowered to what it is due: the difference is withdrawn, and free once the die has acknowledged it (R329). -/
def Power.lower (w : Power) (d want : Nat) : Power :=
  let g := w.grants.getD d 0
  { w with grants := updAt w.grants d fun _ => min g want, leaving := updAt w.leaving d (· + (g - want)) }

/-- A die's grant raised to what it is due, out of what is free. -/
def Power.raise (w : Power) (d want : Nat) : Power :=
  let k := min (want - w.grants.getD d 0) w.freeGrant
  { w with grants := updAt w.grants d (· + k), freeGrant := w.freeGrant - k }

/-- The grants of the forge dies of a partition move (R329, R354). -/
def State.regrant (s : State) (p : Nat) : State :=
  let l := diesOf s.nparts p
  s.modPower fun w => l.foldl (fun w d => w.raise d (s.dieWant d)) (l.foldl (fun w d => w.lower d (s.dieWant d)) w)

/-- The dies acknowledge their lower grants, and the freed shares move to the dies that are due more (R329). -/
def State.grantAcks (s : State) : State :=
  if s.power.leaving.all (· == 0) then s
  else s.modPower fun w =>
    (List.range 16).foldl (fun w d => w.raise d (s.dieWant d)) { w with freeGrant := w.freeGrant + w.leaving.sum, leaving := List.replicate 16 0 }

/-- Does a partition own a die whose regulator is number `k` of Table 16-17: forge dies, base dies, bellows dies, and a crucible die that it alone
uses (Table 01-6)? -/
def ownsDie (n p k : Nat) : Bool :=
  if k < 16 then diePart n k == p else if k < 32 then stackPart n (k - 16) == p else if k < 36 then bellowsPart n (k - 32) == p
  else if k < 38 then diePartsCru n (k - 36) == [p] else false

/-- Output of the dies that a partition owns. -/
def ownWatts (n p : Nat) (x : CapIn) : Nat := (((enum x.dies).filter fun k => ownsDie n p k.1).map (·.2)).sum

/-- A partition's power: that of its own dies, and its share of what blade power has beyond the dies that any partition owns, so that the partitions
make up the blade (R353; DEDUCED, log entry 133). -/
def State.partWatts (s : State) (x : CapIn) (p : Nat) : Nat :=
  let all := ((List.range s.nparts).map fun q => ownWatts s.nparts q x).sum
  ownWatts s.nparts p x + shareOf s.cfgWord p * (x.blade - all) / 4096

/-- Ten ticks above the budget at n = 1 write one POWER_LIMIT record. -/
def State.capPart (s : State) (p avg : Nat) : State :=
  let share := shareOf s.cfgWord p
  let above := decide (s.capNow * share < avg * 4096)
  let low := decide (avg * 4096 * 100 ≤ 95 * s.capNow * share)
  let s := s.modDuty p fun d => d.tick avg above low
  let s := if (s.part p).duty.overs = 10 then s.raise { recPart p sevDef 0x98 with unit := unitDevice, resClass := 15 } else s
  s.regrant p

/-- The measurements of one millisecond. -/
def doCapTick (x : CapIn) (s : State) : State :=
  if !s.running then s
  else
    let s := s.each (List.range s.nparts) fun s p => s.capPart p (s.partWatts x p)
    let b := x.blade
    let low := (List.range 16).any fun d => s.dieDuty d < 16
    s.modPower fun w => { w with blade := b, bladeSum := w.bladeSum + b, bladeMax := max w.bladeMax b, bladeN := w.bladeN + 1, throttleTicks := w.throttleTicks + (if low then 100000 else 0) }

def execCapTick (watts : CapIn) (s : State) : Host.Outcome State Fault Refusal := answer true (doCapTick watts s)

/-! ## THERMAL_TICK (R382, Table 16-14); a sensor is named by its PLDM ID (R352) -/

/-- Warn threshold of a sensor. -/
def warnAt (id : Nat) : Int := if 0x110 ≤ id ∧ id < 0x120 then 95 else if 0x130 ≤ id ∧ id < 0x150 then 85 else 100

/-- Is it a temperature sensor of the module? -/
def isSensor (id : Nat) : Bool := (0x100 ≤ id && id < 0x128) || (0x130 ≤ id && id < 0x150)
def isForge (id : Nat) : Bool := 0x100 ≤ id && id < 0x110

/-- Its item (Table 16-17). -/
def sensorItem (id : Nat) : Nat := if id < 0x120 then 8 + (id - 0x100) else if id < 0x128 then 40 + (id - 0x120) else 48 + (id - 0x130) / 4

/-- Its record: a forge die by name, else the device (R385). -/
def State.sensorRec (s : State) (id sev code : Nat) : FaultRec :=
  let r := rec15 sev code (sensorItem id)
  if isForge id then { r with unit := unitDie (id - 0x100), part := diePart s.nparts (id - 0x100) } else r

/-- Thermal duty of a forge die for a reading: one less each millisecond at 100 or above; one more each 100 ms below 97; at most 12 with a
failed sensor. -/
def nextThermal (duty cool : Nat) : Option Int → Nat × Nat
  | none => (min duty 12, 0)
  | some t => if 100 ≤ t then (max (duty - 1) 1, 0) else if t < 97 then (if 100 ≤ cool + 1 then (min (duty + 1) 16, 0) else (duty, cool + 1)) else (duty, 0)

/-- Does a reading end a warm episode: a forge die's below 97, another's below its threshold? -/
def cooled (id : Nat) (t : Int) : Bool := if isForge id then t < 97 else t < warnAt id

/-- One sensor read. A failed sensor is recorded once, until it reads again. -/
def State.sensor (s : State) (id : Nat) (v : Option Int) : State :=
  if !isSensor id then s
  else
    let old : Option (Nat × Option Int) := s.power.temps.find? fun x => x.1 == id
    let d := id - 0x100
    let s := if !isForge id then s
      else let n := nextThermal (s.power.thermal.getD d 16) (s.power.cool.getD d 0) v
        s.modPower fun w => { w with thermal := updAt w.thermal d fun _ => n.1, cool := updAt w.cool d fun _ => n.2 }
    let s := s.modPower fun w => { w with temps := assocSet id v w.temps }
    match v with
    | none => if old.any (fun x => x.2.isNone) then s else s.raise (s.sensorRec id sevDef 0x9D)
    | some t =>
      if warnAt id ≤ t then (if s.power.warned.contains id then s else (s.modPower fun w => { w with warned := w.warned ++ [id] }).raise (s.sensorRec id sevCE 0x96))
      else if cooled id t then s.modPower fun w => { w with warned := w.warned.filter (· != id) }
      else s

def doThermalTick (temps : List (Nat × Option Int)) (s : State) : State := if s.running then s.each temps fun s (id, v) => s.sensor id v else s

def execThermalTick (temps : List (Nat × Option Int)) (s : State) : Host.Outcome State Fault Refusal := answer true (doThermalTick temps s)

/-- A trip comparator acts by itself (R383). -/
def doThermalTrip (s : State) : State :=
  if s.power.row < 2 then s else (s.modPower fun w => { w with tripN := false }).powerFail .thermal (rec15 sevFatal 0x97 62)

def execThermalTrip (s : State) : Host.Outcome State Fault Refusal := answer true (doThermalTrip s)

/-! ## Clocks (R369) -/

/-- CLOCK_LOSS. -/
def State.clockLoss (s : State) : State := (s.modPower fun w => { w with vco := false }).fatalNow (rec15 sevFatal 0x94 3)

/-- The check of every millisecond: deviation in ppm, an edge within 10 µs, and the root VCO's lock. -/
def doClockCheck (ppm : Nat) (edge vcoLock : Bool) (s : State) : State :=
  if s.power.row < 4 ∨ !s.power.vco then s else if 10000 < ppm ∨ !edge ∨ !vcoLock then s.clockLoss else s

def execClockCheck (ppm : Nat) (edge vcoLock : Bool) (s : State) : Host.Outcome State Fault Refusal := answer true (doClockCheck ppm edge vcoLock s)

/-- A bellows die's PLL is lost: its ports go dark as links down (R223, R369). -/
def State.darkPorts (s : State) (b : Nat) : State :=
  let s := s.each [2 * b, 2 * b + 1] fun s q => s.modPort q fun y => { y with pllLost := true }
  s.each [2 * b, 2 * b + 1] fun s q => s.each (List.range 8) fun s k => doLinkDown q k s

/-- A PHY PLL loses lock, by PHY: bellows dies 0 to 3, crucible dies 4 and 5, base dies 6 to 21. Memory behind it cannot be reached until a reset. -/
def doPhyPll (unit : Nat) (s : State) : State :=
  let s := if s.running ∧ 4 ≤ unit then s.modPower fun w => { w with lostMem := setIns unit w.lostMem } else s
  if !s.running then s
  else if unit < 4 then (s.raise { recPart (bellowsPart s.nparts unit) sevDef 0x95 with unit := unitDevice, resClass := 6, resIndex := unit }).darkPorts unit
  else if unit < 6 then s.each (diePartsCru s.nparts (unit - 4)) fun s p => s.raise { recPart p sevPart 0x95 with unit := unitDevice, resClass := 3, resIndex := unit - 4 }
  else s.raise { recPart (stackPart s.nparts (unit - 6)) sevPart 0x95 with unit := unitDevice, resClass := 1, resIndex := unit - 6 }

def execPhyPll (unit : Nat) (s : State) : Host.Outcome State Fault Refusal := answer (Instr.phyPll unit).wf (doPhyPll unit s)

/-- A relock is tried. -/
def doPhyPllRelock (die : Nat) (locked : Bool) (s : State) : State :=
  if s.running ∧ locked then s.each [2 * die, 2 * die + 1] fun s q => s.modPort q fun y => { y with pllLost := false } else s

def execPhyPllRelock (die : Nat) (locked : Bool) (s : State) : Host.Outcome State Fault Refusal :=
  answer (Instr.phyPllRelock die locked).wf (doPhyPllRelock die locked s)

/-! ## Hold-up bank and persistent writes (R362, R363) -/

/-- 1.2 J in the units of `holdEnergy`. -/
def holdupFloor : Nat := 12000 * 10 ^ 12

/-- A timed discharge measures the bank: first after start-up, then every 24 h. -/
def doHoldupMeasure (microfarad millivolts : Nat) (s : State) : State :=
  if !s.running ∨ (s.power.cmeas.isSome ∧ s.tick < s.power.holdTick + dayTicks) then s
  else
    let s := s.modPower fun w => { w with cmeas := some microfarad, vbank := millivolts, holdTick := s.tick }
    if holdEnergy (some microfarad) 48000 < holdupFloor then s.raise (rec15 sevDef 0x9C 1) else s

def execHoldupMeasure (microfarad millivolts : Nat) (s : State) : Host.Outcome State Fault Refusal := answer true (doHoldupMeasure microfarad millivolts s)

/-- The check of every second. -/
def doPstoreRetry (s : State) : State :=
  if s.running ∧ s.power.retryTick + ticksSec 1 ≤ s.tick then (s.modPower fun w => { w with retryTick := s.tick }).retryStores else s

def execPstoreRetry (s : State) : Host.Outcome State Fault Refusal := answer true (doPstoreRetry s)

/-- Every 3,600 s. -/
def doWearCounterWrite (s : State) : State :=
  if s.running ∧ s.power.hoursTick + ticksSec 3600 ≤ s.tick then (s.modPower fun w => { w with hours := w.hours + 1, hoursTick := s.tick }).persist .wear else s

def execWearCounterWrite (s : State) : Host.Outcome State Fault Refusal := answer true (doWearCounterWrite s)

/-! ## Power states (R370-R372) -/

/-- P0 to P1 once no partition has been busy for 10 ms, under target 1. -/
def doIdleEntry (s : State) : State :=
  if s.running && s.power.pstate == .p0 && s.power.target == 1 && s.power.moving.isNone && (s.parts.all fun q => !q.busy) && decide (s.power.busyTick + ticksMs 10 ≤ s.tick) then s.modPower fun w => { w with pstate := .p1 } else s

def execIdleEntry (s : State) : Host.Outcome State Fault Refusal := answer true (doIdleEntry s)

/-- Is every partition with a job held, drained, at action 8, or stopped? -/
def State.allHeld (s : State) : Bool := s.parts.all fun q => q.job.isNone || q.st == .ready || (q.st == .active && q.run.atAction8 && q.run.holds.contains .p2)

/-- Is every partition READY with no job? -/
def State.allFree (s : State) : Bool := (s.parts.take s.nparts).all fun q => q.st == .ready && q.job.isNone

/-- The module is in a new power state: a P2 command completes here; partitions held for P2 go on. -/
def State.enter (s : State) (x : PState) : State :=
  let old := s.power.pstate
  let m := s.power.moveMbx
  let s := s.modPower fun w => { w with pstate := x, moving := none, moveMbx := none }
  let s := match m with
    | some m => s.finishMbx m stOK [] 0xFFFF
    | none => s
  if old = .p2 ∧ x ≠ .p2 then s.each (List.range s.nparts) fun s p => (s.unhold p .p2).goOn p
  else if x = .p0 then s.each (List.range s.nparts) fun s p => s.goOn p else s

/-- A transition in progress completes, once its condition holds; the way out of P3 takes in the hearths' self-tests (R77, Table 16-9). -/
def doPowerTransitionDone (s : State) : State :=
  match s.power.moving with
  | none => s
  | some x => if (x = .p2 ∧ !s.allHeld) ∨ (x = .p3 ∧ !s.allFree) ∨ (s.power.pstate = .p3 ∧ s.hearths.any (·.testing)) then s else s.enter x

def execPowerTransitionDone (s : State) : Host.Outcome State Fault Refusal := answer true (doPowerTransitionDone s)

/-! ## HALT_N (R49) -/

def State.setHalt (s : State) (level : Bool) : State :=
  let s := s.modPower fun w => { w with haltN := level }
  if level then s.each (List.range s.nparts) fun s p => if (s.part p).run.holds.contains .halt then (s.unhold p .halt).goOn p else s else s

/-- A halt is reported again every 10 s. -/
def doHalt (p : Nat) (s : State) : State :=
  let r := (s.part p).run
  if r.holds.contains .halt ∧ r.atAction8 ∧ ticksSec 10 ≤ s.tick - r.haltTick then (s.modRun p fun r => { r with haltTick := s.tick }).notice p 1 r.step else s

def execHalt (p : Nat) (s : State) : Host.Outcome State Fault Refusal := answer (Instr.halt p).wf (doHalt p s)

/-! ## PWR_EN and RESET_N (R366, R371, R374, R376) -/

/-- The filtered PWR_EN. Deassertion releases latched causes, a trip and RESET_LOOP, writes what is deferred, and ends in P4. -/
def State.setPwrEn (s : State) (on : Bool) : State :=
  if on then (s.modPower fun w => { w with pwrEn := true }).tryStart
  else
    let s := s.modPower fun w => { w with pwrEn := false, tripN := true, cause := none, loopStop := false }
    if s.power.row < 2 then s else (s.retryStores.poweredOff true).modHub fun h => { h with resetAt := [] }

/-- The filtered RESET_N level: asserted, the module is held at row 5; released, the boot chain starts. A pulse ends RESET_LOOP. -/
def State.setResetN (s : State) (level : Bool) : State :=
  let s := s.modPower fun w => { w with resetN := level }
  if level then (if s.power.row = 5 then s.startUp else s)
  else if s.power.row < 5 then s
  else ((s.cleared true).modPower fun w => { w with loopStop := false }).modHub fun h => { h with resetAt := [] }

/-- A filtered level takes effect: true is the high level. -/
def State.setPin (s : State) (pin : Nat) (level : Bool) : State := if pin = 0 then s.setPwrEn level else if pin = 1 then s.setResetN level else s.setHalt level

/-- The filtered level of an input. -/
def State.pin (s : State) (pin : Nat) : Bool := if pin = 0 then s.power.pwrEn else if pin = 1 then s.power.resetN else s.power.haltN

/-- A raw level has held for 100 µs: an edge where it differs from the filtered level, but for 1 ms after the last accepted one, in which it is merged,
and while the input is forced (R377, R378). -/
def State.rawChange (s : State) (pin : Nat) (level : Bool) : State :=
  if !s.power.standby then s
  else
    let s := s.modPower fun w => { w with raw := updAt w.raw pin fun _ => level }
    if s.power.forced.getD pin false ∨ s.power.edgeHold.getD pin 0 ≠ 0 ∨ s.pin pin = level then s
    else (s.setPin pin level).modPower fun w => { w with edgeHold := updAt w.edgeHold pin fun _ => ticksMs 1 }

/-- A tick of the filter: at the end of the 1 ms a raw level that differs from the filtered one is accepted. -/
def State.filterTick (s : State) : State :=
  let s := s.modPower fun w => { w with edgeHold := w.edgeHold.map (· - 1), standbyLeft := w.standbyLeft - 1 }
  s.each ((List.range 3).filter fun k => s.power.raw.getD k true != s.pin k) fun s k => s.rawChange k (s.power.raw.getD k true)

def execPwrEnAssert (s : State) : Host.Outcome State Fault Refusal := answer true (s.rawChange 0 true)
def execPwrEnDeassert (s : State) : Host.Outcome State Fault Refusal := answer true (s.rawChange 0 false)
def execResetNAssert (s : State) : Host.Outcome State Fault Refusal := answer true (s.rawChange 1 false)
def execResetNDeassert (s : State) : Host.Outcome State Fault Refusal := answer true (s.rawChange 1 true)
def execHaltNAssert (s : State) : Host.Outcome State Fault Refusal := answer true (s.rawChange 2 false)
def execHaltNDeassert (s : State) : Host.Outcome State Fault Refusal := answer true (s.rawChange 2 true)

/-! ## INPUT_UNSTABLE (R378, Table 16-12) -/

/-- The record of an input: held in standby, with its standby time in detail[63:8], while the smith does not run (log entry 43). -/
def State.pinRec (s : State) (pin sev detail : Nat) : State :=
  let r := { rec15 sev 0x99 (56 + pin) with detail := detail }
  if s.running then s.raise r
  else { s.modSide (fun x => { x with held := x.held ++ [{ r with detail := detail + Config.standbyTime s.free % 2 ^ 56 * 256 }] }) with free := s.free + 1 }

/-- More than 32 raw edges in a second: the input is forced to its safe level (all three are low), and recorded. -/
def doInputUnstable (pin : Nat) (s : State) : State :=
  if !s.power.standby ∨ s.power.forced.getD pin false then s
  else ((if s.pin pin then s.setPin pin false else s).modPower fun w => { w with forced := updAt w.forced pin fun _ => true }).pinRec pin sevDef 0

def execInputUnstable (pin : Nat) (s : State) : Host.Outcome State Fault Refusal := answer (Instr.inputUnstable pin).wf (doInputUnstable pin s)

/-- A second without change: the raw level is accepted at once where it differs. -/
def doInputUnstableRelease (pin : Nat) (level : Bool) (s : State) : State :=
  if !s.power.forced.getD pin false then s
  else
    let s := s.modPower fun w => { w with forced := updAt w.forced pin fun _ => false, raw := updAt w.raw pin fun _ => level }
    (if s.pin pin == level then s else s.setPin pin level).pinRec pin sevCE 1

def execInputUnstableRelease (pin : Nat) (level : Bool) (s : State) : Host.Outcome State Fault Refusal :=
  answer (Instr.inputUnstableRelease pin level).wf (doInputUnstableRelease pin level s)

/-! ## The input (R359, R361, R366) -/

/-- INPUT_LOW or INPUT_HIGH, each at most once per 60 s. -/
def State.inputRec (s : State) (code : Nat) : State :=
  if !s.running ∨ s.power.inputTicks.any (fun x => x.1 == code && decide (s.tick < x.2 + ticksSec 60)) then s
  else (s.modPower fun w => { w with inputTicks := assocSet code s.tick w.inputTicks }).raise (rec15 sevDef code 0)

/-- The input has entered a band for its qualification time (Table 16-3). -/
def doInputBandChange (mv : Nat) (s : State) : State :=
  let s := s.modPower fun w => { w with millivolts := mv }
  if mv < 38000 ∨ 52000 < mv then
    let s := if s.power.row < 2 then s else s.powerFail .input (rec15 sevFatal 0x92 0)
    if mv < 35000 ∧ s.power.standby then s.poweredOff false else s
  else if mv < 40000 then s.inputRec 0x90
  else if mv ≤ 50000 then s.tryStart
  else s.inputRec 0x91

def execInputBandChange (millivolts : Nat) (s : State) : Host.Outcome State Fault Refusal := answer true (doInputBandChange millivolts s)

def execBreakerOpen (s : State) : Host.Outcome State Fault Refusal := answer true (s.powerFail .breaker (rec15 sevFatal 0x92 0))

/-- A regulator of a die: forge dies, base dies, bellows dies, crucible dies, smith and cipher die, in the order of Table 16-17. -/
def execRegulator (die : Nat) (s : State) : Host.Outcome State Fault Refusal := answer (Instr.regulator die).wf (s.powerFail .regulator (rec15 sevFatal 0x93 (8 + die)))

/-! ## Standby and straps (R358, R373 row 1) -/

/-- The standby converter starts at 36.0 V. -/
def doStandbyUp (s : State) : State :=
  if s.power.standby ∨ s.power.millivolts < 36000 then s else s.modPower fun w => { w with standby := true, row := 1, pstate := .p4, latched := false, standbyLeft := ticksMs 100 }

def execStandbyUp (s : State) : Host.Outcome State Fault Refusal := answer true (doStandbyUp s)

/-- The straps are latched once, 10 ms after standby power is good. -/
def doSlotIdLatch (straps : Nat) (s : State) : State :=
  if s.power.standby ∧ !s.power.latched then s.modPower fun w => { w with straps := straps % 64, latched := true } else s

def execSlotIdLatch (straps : Nat) (s : State) : Host.Outcome State Fault Refusal := answer true (doSlotIdLatch straps s)

/-- A later change is ignored, and noted for one record after the next boot. -/
def doStrapChange (straps : Nat) (s : State) : State :=
  if s.power.standby ∧ s.power.latched ∧ straps % 64 ≠ s.power.straps then s.modPower fun w => { w with strapNoted := true } else s

def execStrapChange (straps : Nat) (s : State) : Host.Outcome State Fault Refusal := answer true (doStrapChange straps s)

/-! ## The idle step -/

/-- What a tick brings when no command waits: the ports send, the dies acknowledge their grants, the inputs are filtered, and a start-up goes on (R215,
R329, R368, R373, R377; DESIGN CHOICE, log entry 4). -/
def idleTick (s : State) : State := (((s.clockTick.grantAcks).filterTick).nextRow).refuseUnknown 64

end Sys2Proof.Machine
end

