-- ==== Sys2Proof/Machine/TelemRows.lean ====
section
/-! DEFINITION. Telemetry batches and power records, neighbour discovery and pause frames, I3C and JTAG (R211, R214, R302, R347-R350, R352, R379). -/

namespace Sys2Proof.Machine

/-! ## TELEM_BATCH (R348-R350) -/

/-- `TELEM_HDR` (Table 15-10). -/
def TRec.header (r : TRec) (lost seq : Nat) : Nat :=
  pack [(8, r.type), (8, r.len), (20, r.module), (16, r.unit), (2, r.part), (10, lost), (56, r.time), (8, seq)]

/-- A record's bytes: header, then its payload. -/
def TRec.bytes (r : TRec) (lost seq : Nat) : List Byte := leBytes 16 (r.header lost seq) ++ leBytes (16 * r.len) r.data

/-- Writing of a batch: the stream, runs of bytes by ring offset, bytes and records of the batch. -/
structure Batch where
  str : TStream
  runs : List (Nat × List Byte)
  size : Nat
  recs : Nat := 0                   -- records in it
  deriving DecidableEq, Repr

/-- Bytes that follow the last run, or that start a new one at offset 0. -/
def Batch.add (b : Batch) (bs : List Byte) : Batch :=
  let off := b.str.count % b.str.ringBytes
  let runs := match b.runs.reverse with
    | (o, l) :: t => if o + l.length = off then (t.reverse ++ [(o, l ++ bs)]) else b.runs ++ [(off, bs)]
    | [] => [(off, bs)]
  { str := { b.str with count := b.str.count + bs.length, seq := (b.str.seq + 1) % 256 }, runs := runs, size := b.size + bs.length, recs := b.recs }

/-- One record: dropped and counted where it does not fit; after a pad where it would cross the end of the ring (R349). -/
def Batch.put (cons : Nat) (b : Batch) (r : TRec) : Batch :=
  let n := 16 + 16 * r.len
  let off := b.str.count % b.str.ringBytes
  let gap := if b.str.ringBytes < off + n then b.str.ringBytes - off else 0
  if b.str.ringBytes < b.str.count - cons + gap + n then { b with str := { b.str with lost := satTo 10 (b.str.lost + 1) } }
  else
    let b := if gap = 0 then b else b.add ((⟨0, 0, r.part, r.module, r.time, gap / 16 - 1, 0⟩ : TRec).bytes 0 b.str.seq)
    let b := b.add (r.bytes b.str.lost b.str.seq)
    { b with recs := b.recs + 1, str := { b.str with lost := 0 } }

/-- A batch filled: records of at most 100 µs from the first, in at most 64 KiB with their pads; what is left of the queue (R349). -/
def batchFill (cons first : Nat) : List TRec → Batch → Batch × List TRec
  | [], b => (b, [])
  | r :: rest, b =>
    let c := b.put cons r
    if ticksUs 100 < r.time - first ∨ 65536 < c.size then (b, r :: rest) else batchFill cons first rest c

/-- The next batch of a stream, and its records left. -/
def TStream.batch (t : TStream) (cons : Nat) : Batch × List TRec := batchFill cons ((t.queue.head?).elim 0 (·.time)) t.queue { str := t, runs := [], size := 0 }

/-- Who owns a stream's handles: the device, or the partition. -/
def streamOwner (k : Nat) : Option Nat := if k = 0 then none else some (k - 1)

/-- Is the QP of a stream's ring connected? -/
def State.ringUp (s : State) (k : Nat) (t : TStream) : Bool := match s.target (streamOwner k) t.ring with
  | some x => s.targetUp t.ring x
  | none => false

/-- A batch goes into the ring, then the byte count to prod with the transfer tag. With its QP failed, its records are lost. -/
def doTelemBatch (k : Nat) (s : State) : State :=
  let t := s.streams.getD k {}
  if !t.configured ∨ t.queue.isEmpty then s
  else
    let cons := leNat (s.get4 (consOff k) 8)
    let (b, rest) := t.batch cons
    let n := t.queue.length - rest.length
    if !s.ringUp k t then s.modStream k fun _ => { t with queue := rest, lost := satTo 10 (t.lost + n) }
    else
      let s := s.modStream k fun _ => { b.str with queue := rest, batches := (b.str.batches + 1) % 2 ^ 28, flying := b.str.flying + b.recs }
      let s := s.each b.runs fun s (off, bs) => (s.hostWrite (streamOwner k) (4, k) (t.ring + off) bs none).1
      (s.hostWrite (streamOwner k) (4, k) t.prod (leBytes 8 b.str.count) (some b.str.batches)).1

def execTelemBatch (stream : Nat) (s : State) : Host.Outcome State Fault Refusal := answer (Instr.telemBatch stream).wf (doTelemBatch stream s)

/-! ## POWER_REC (R347, Table 15-14) -/

/-- The record of a period, when stream 0 asks for one. -/
def doPowerRec (s : State) : State :=
  let t := s.streams.getD 0 {}
  let w := s.power
  if !s.running ∨ t.powerMs = 0 ∨ s.tick - w.recTick < ticksMs t.powerMs then s
  else
    let avg := if w.bladeN = 0 then w.blade else w.bladeSum / w.bladeN
    let s := s.recordDev 0x09 unitDevice 2 (s.powerRec avg (max w.bladeMax avg) w.throttleTicks)
    s.modPower fun w => { w with bladeSum := 0, bladeMax := 0, bladeN := 0, throttleTicks := 0, recTick := s.tick }

def execPowerRec (s : State) : Host.Outcome State Fault Refusal := answer true (doPowerRec s)

/-! ## Neighbour discovery and pause frames (R211, R214) -/

/-- Is a sub-interface's link up? -/
def State.subUp (s : State) (port sub : Nat) : Bool := !(s.port port).pllLost && ((s.port port).sub sub).up

/-- Link-local address of a sub-interface: fe80::/64 with the modified EUI-64 of its MAC address (PRESUMED, log entry 9). -/
def linkLocal (port sub : Nat) : Nat :=
  let mac := (Config.macBase + 8 * port + sub) % 2 ^ 48
  0xFE80 * 2 ^ 112 + pack [(24, (mac / 2 ^ 24) ^^^ 0x020000), (16, 0xFFFE), (24, mac)]

/-- The module's address on a plane. -/
def State.planeAddr (s : State) (q : Nat) : Nat := s.net.planes.getD q 0 * 2 ^ 64 + s.net.locator

/-- A solicitation is answered for the link-local address, and for the plane address once the identity is set. -/
def doNeighborSolicitation (port sub target : Nat) (s : State) : State :=
  if s.subUp port sub ∧ (target = linkLocal port sub ∨ (s.hasNet ∧ target = s.planeAddr port)) then s.emit (.neighborAdvert port sub target) else s

def execNeighborSolicitation (port : Nat) (sub : Framed) (target : Nat) (s : State) : Host.Outcome State Fault Refusal :=
  answer (Instr.neighborSolicitation port sub target).wf (s.untagged sub.vid (doNeighborSolicitation port sub.of target))

/-- An advertisement sets the first-hop router of its sub-interface. -/
def doRouterAdvertisement (port sub router : Nat) (s : State) : State :=
  if s.subUp port sub then s.modPort port fun y => y.modSub sub fun z => { z with router := router } else s

def execRouterAdvertisement (port : Nat) (sub : Framed) (router : Nat) (s : State) : Host.Outcome State Fault Refusal :=
  answer (Instr.routerAdvertisement port sub router).wf (s.untagged sub.vid (doRouterAdvertisement port sub.of router))

/-- PAUSE and PFC frames are discarded and counted. -/
def doPauseFrame (port sub : Nat) (s : State) : State := if s.subUp port sub then s.count .pauseFrame else s

def execPauseFrame (port sub : Nat) (s : State) : Host.Outcome State Fault Refusal := answer (Instr.pauseFrame port sub).wf (doPauseFrame port sub s)

/-! ## I3C and JTAG (R302, R352, R379) -/

/-- The provisional ID: SLOT_ID in bits [5:0] (R358). -/
def State.provisionalId (s : State) : Nat := Config.i3cBase % 2 ^ 42 * 64 + s.power.straps

/-- The controller assigns a dynamic address to the provisional ID that the module gives; it is kept until standby power is lost. -/
def doI3cDynamicAddress (addr : Nat) (s : State) : State :=
  if s.power.standby then (s.modSide fun x => { x with addr := addr % 128 }).emit (.i3cId s.provisionalId) else s

def execI3cDynamicAddress (addr : Nat) (s : State) : Host.Outcome State Fault Refusal := answer true (doI3cDynamicAddress addr s)

def doInBandInterruptEnable (on : Bool) (s : State) : State := if s.power.standby then s.modSide fun x => { x with ibi := on } else s

def execInBandInterruptEnable (on : Bool) (s : State) : Host.Outcome State Fault Refusal := answer true (doInBandInterruptEnable on s)

/-- Debug level in force for JTAG: none while the root of trust is off (Note a of Table 13-7). -/
def State.jtagLevel (s : State) : Nat := if s.power.row < 6 then 0 else s.sec.level

/-- The register that a TAP instruction selects: 0 bypass, 1 IDCODE, and at D2 the one it names: 2 EXTEST, 3 SAMPLE/PRELOAD, 4 the smith's scan chain, 5
the fuse map, others a die's scan chain; below D2 those select bypass. In P3 the smith's alone is reached (Table 13-7; log entry 44). -/
def jtagSelect (level : Nat) (rest : Bool) (instr : Nat) : Nat := if instr ≤ 1 then instr else if level = 2 ∧ (!rest ∨ instr ≤ 4) then instr else 0

/-- An instruction loaded through the TAP with TRST_N at a level: while it is low the TAP is held in reset and nothing is loaded (R302, R357). -/
def doJtagInstruction (t : TapIn) (s : State) : State :=
  if !s.power.standby then s
  else
    let s := s.modPower fun w => { w with trstN := t.trstN }
    if t.trstN then s.emit (.jtag (jtagSelect s.jtagLevel (s.power.pstate == .p3) t.instr)) else s

def execJtagInstruction (instr : TapIn) (s : State) : Host.Outcome State Fault Refusal := answer true (doJtagInstruction instr s)

end Sys2Proof.Machine
end

