-- ==== Sys2Proof/Machine/Command.lean ====
section
/-! DEFINITION. How a mailbox command is taken and checked, and the commands of the device, the partitions and telemetry (R23-R25, R311, R327,
R332-R339, R347-R353, R371). -/

namespace Sys2Proof.Machine

/-! ## The checks of R335 -/

/-- The number that a run of argument bytes spells. -/
def argNat (args : List Byte) (off n : Nat) : Nat := leNat ((args.drop off).take n)

/-- A command as Table 15-4 lists it: opcode, device mailboxes only, answered under LIMITED, length of its arguments where fixed, and bytes
of them that are zero. -/
structure Cmd where
  op : Nat
  dev : Bool := false
  limited : Bool := false
  len : Option Nat := none
  zeros : Nat × Nat := (0, 0)
  deriving DecidableEq, Repr

/-- What a command answers: a state, a status, a response and err_off; or the state of a command that goes on. -/
inductive Reply where
  | done (s : State) (status : Nat) (resp : List Byte) (off : Nat)
  | keep (s : State)

def Reply.ok (s : State) : Reply := .done s stOK [] 0xFFFF
def Reply.give (s : State) (resp : List Byte) : Reply := .done s stOK resp 0xFFFF
def Reply.busy (s : State) : Reply := .done s stBUSY [] 0xFFFF
def Reply.denied (s : State) : Reply := .done s stDENIED [] 0xFFFF
def Reply.rejected (s : State) (off : Nat) : Reply := .done s stREJECTED [] off

/-- Byte offset of the first field, by its lowest bit, that does not hold. -/
def firstBad (l : List (Nat × Bool)) : Option Nat := (l.find? fun x => !x.2).map fun x => x.1 / 8

/-- Commands that load or steer a job, and KEY commands (Table 13-7; DEDUCED, log entry 45). -/
def jobOp (op : Nat) : Bool := op / 256 == 2 || op / 256 == 4 || op == 0x304
def keyOp (op : Nat) : Bool := op / 256 == 5

/-- Check 6: commands that the lifecycle or debug state forbids (R301, Table 13-7). -/
def Sec.forbids (x : Sec) (op : Nat) : Bool := match x.life with
  | .blank => jobOp op || keyOp op || op == 0x102
  | .provisioned => jobOp op || keyOp op
  | .returned => jobOp op || keyOp op
  | .operational => x.debugged && [0x501, 0x504, 0x505, 0x506].contains op
  | .retired => true

/-- Check 5: the target of a device mailbox lies anywhere on the module, that of a partition's inside it (R337). -/
def State.scopeOk (s : State) (m : Nat) (c : Cmd) : Bool :=
  let t := mhTarget (s.mbxHdr m)
  s.unitOk t && (match mbxPart s.nparts m with
    | none => true
    | some p => !c.dev && unitLevel t ≤ 3 && s.unitParts t == 2 ^ p)

/-- Check 7 as far as it lies in the header: reserved bits, and the lengths (R9, R332). -/
def hdrOk (h : Nat) (c : Cmd) : Bool :=
  bits h 301 32 == 0 && mhArgLen h ≤ 16384 && (mhArgBulk h || mhArgLen h ≤ 4032) && (match c.len with
    | some n => mhArgLen h == n
    | none => true)

def zerosOk (z : Nat × Nat) (args : List Byte) : Bool := ((args.take z.2).drop z.1).all (· == 0#8)

/-- Is a mailbox's command the next one of its context, or one of the query path (R334)? -/
def State.atHead (s : State) (m : Nat) : Bool :=
  let ctx := mbxPart s.nparts m
  let op := mhOpcode (s.mbxHdr m)
  s.own m == 1 && s.observed.contains m &&
    (isQuery op || (s.headOf ctx == some m && s.ctxFree ctx))

/-- Does R327 answer BUSY: a device mailbox, and a partition that discards, recovers or resets, whose command this is or one of whose units it
targets? -/
def State.heldOff (s : State) (m p : Nat) (c : Cmd) : Bool :=
  let t := mhTarget (s.mbxHdr m)
  (mbxPart s.nparts m).isNone && !isQuery c.op &&
    ((!c.dev && (s.part p).handling) || (unitLevel t ≤ 3 && (List.range s.nparts).any fun q => (s.unitParts t).testBit q && (s.part q).handling))

/-- Where a command's arguments name something beyond the mailbox's partition: the offset of the field, for check 5 (R337). -/
abbrev Scope := State → Nat → List Byte → Option Nat

/-- A command whose arguments name nothing that belongs to a partition. -/
def noScope : Scope := fun _ _ _ => none

/-- A command's checks in the order of R335, then its own part `body` on the partition it applies to and its arguments. -/
def State.checked (s : State) (m : Nat) (c : Cmd) (body : State → Nat → List Byte → Reply) (scope : Scope := noScope) : State :=
  let h := s.mbxHdr m
  let p := s.mbxFor m
  let args := s.mbxArgs m
  if s.mbxMarked m then (s.slagBite 0 (s.global (localAddr 4 (mbxBase m)))).finishMbx m stREJECTED [] 0xFFFF
  else if s.sec.limited && !c.limited then s.finishMbx m stUNSUPPORTED [] 0xFFFF
  else if mhVer h ≠ 1 then s.finishMbx m stVERSION [] 0xFFFF
  else if !s.scopeOk m c then s.finishMbx m stREJECTED [] 0xFFFF
  else if (scope s p args).isSome then s.finishMbx m stREJECTED [] ((scope s p args).getD 0)
  else if s.sec.forbids c.op then s.finishMbx m stDENIED [] 0xFFFF
  else if !hdrOk h c then s.finishMbx m stREJECTED [] 0xFFFF
  else if !zerosOk c.zeros args then s.finishMbx m stREJECTED [] c.zeros.1
  else match body s p args with
    | .keep t => t
    | .done t st resp off => if s.heldOff m p c && st != stREJECTED && st != stDENIED then s.finishMbx m stBUSY [] 0xFFFF else t.finishMbx m st resp off

/-- Command `c` of mailbox `m` taken, where that mailbox holds it and its turn has come; else nothing happens. -/
def State.command (s : State) (m : Nat) (c : Cmd) (body : State → Nat → List Byte → Reply) (scope : Scope := noScope) : State :=
  if s.atHead m && mhOpcode (s.mbxHdr m) == c.op then s.checked m c body scope else s

/-! ## UNIT.QUERY, ID.ASSIGN, PART.CREATE, SCRUB.CONFIG -/

def cmdUnitQuery : Cmd := { op := 0x101, limited := true, len := some 0 }
def cmdIdAssign : Cmd := { op := 0x102, dev := true, len := some 4 }
def cmdPartCreate : Cmd := { op := 0x103, dev := true, len := some 32 }
def cmdScrubConfig : Cmd := { op := 0x104, dev := true, len := some 4 }

def execUnitQuery (m : Nat) (s : State) : Host.Outcome State Fault Refusal :=
  answer (Instr.unitQuery m).wf (s.command m cmdUnitQuery fun s _ _ => .give s (leBytes 16 (s.unitDesc (mhTarget (s.mbxHdr m)))))

/-- ID.ASSIGN (R20, R338). -/
def runIdAssign (s : State) (_ : Nat) (args : List Byte) : Reply :=
  let v := argNat args 0 4
  if 2 ^ 20 ≤ v then .rejected s 2
  else if !s.allFree then .busy s
  else .ok { s with moduleId := v, idValid := true }

def execIdAssign (m : Nat) (s : State) : Host.Outcome State Fault Refusal := answer (Instr.idAssign m).wf (s.command m cmdIdAssign runIdAssign)

/-- The first faulty field of a `PART_CFG` (R339). -/
def partCfgBad (c : Nat) : Option Nat :=
  let n := countOf c
  let share := fun (p : Nat) => bits c (128 + 16 * p + 15) (128 + 16 * p)
  firstBad (
    ((List.range 8).flatMap fun q => (List.range 4).map fun p =>
      (16 * q + 4 * p, borrowOf c q p ≤ 8 && (borrowOf c q p == 0 || (p < n && portPart n q != p)) && ((List.range 4).map fun k => borrowOf c q k).sum ≤ 8)) ++
    ((List.range 4).map fun p => (128 + 16 * p, (p < n || share p == 0) && (bits c 191 128 == 0 || ((List.range 4).map share).sum == 4096))) ++
    [(192, bits c 253 192 == 0), (254, bits c 255 254 != 3)])

/-- PART.CREATE (R24, R339). -/
def runPartCreate (s : State) (_ : Nat) (args : List Byte) : Reply :=
  let c := argNat args 0 32
  match partCfgBad c with
  | some off => .rejected s off
  | none => if (s.parts.take s.nparts).all fun q => q.st == .ready then .ok (s.repartition c) else .busy s

def execPartCreate (m : Nat) (s : State) : Host.Outcome State Fault Refusal := answer (Instr.partCreate m).wf (s.command m cmdPartCreate runPartCreate)

/-- SCRUB.CONFIG (R311, Table 14-3). -/
def runScrubConfig (s : State) (_ : Nat) (args : List Byte) : Reply :=
  let c := argNat args 0 4
  let hours := fun (n : Nat) => 1 ≤ n && n ≤ 720
  match firstBad [(0, bits c 9 0 == 0), (12, hours (bits c 21 12)), (22, hours (bits c 31 22))] with
  | some off => .rejected s off
  | none => .ok (s.modScrub fun x => { x with cfg := c })

def execScrubConfig (m : Nat) (s : State) : Host.Outcome State Fault Refusal := answer (Instr.scrubConfig m).wf (s.command m cmdScrubConfig runScrubConfig)

/-! ## TELEM.CONFIG, FAULT.ACK -/

def cmdTelemConfig : Cmd := { op := 0x701, len := some 40, zeros := (1, 8) }
def cmdFaultAck : Cmd := { op := 0x702, dev := true, len := some 4 }

/-- The first faulty field of a `TELEM_CFG` of stream `k` (Table 15-9, R217). -/
def State.telemBad (s : State) (k c : Nat) : Option Nat :=
  let t : TStream := { cfg := c }
  let on := t.configured
  let n := t.ringBytes
  firstBad [(0, bits c 47 0 == 0), (48, t.powerMs ≤ 10000 && (k == 0 || t.powerMs == 0)), (96, !on || s.handleOk (streamOwner k) t.prod 8),
    (160, !on || (65536 ≤ n && n ≤ 2 ^ 31 && n % 4096 == 0)), (192, !on || s.handleOk (streamOwner k) t.ring n)]

/-- A stream restarts afresh under a configuration (R349). -/
def State.startStream (s : State) (k c : Nat) : State :=
  let s := s.modStream k fun t => { t with cfg := c, count := 0, seq := 0 }
  let s := s.put4 (consOff k) (leBytes 8 0)
  let t := s.streams.getD k {}
  if t.configured then (s.hostWrite (streamOwner k) (4, k) t.prod (leBytes 8 0) (some t.batches)).1 else s

/-- A partition's mailbox names its own stream, and each stream its owner's host targets (R217, R337). -/
def telemScope (m : Nat) : Scope := fun s _ args =>
  let k := argNat args 0 1
  let t : TStream := { cfg := argNat args 8 32 }
  let mine := match mbxPart s.nparts m with
    | some p => k == 1 + p
    | none => true
  if !mine then some 0
  else if !t.configured ∨ 5 ≤ k then none
  else if (s.target (streamOwner k) t.prod).isNone then some 20
  else if (s.target (streamOwner k) t.ring).isNone then some 32 else none

/-- TELEM.CONFIG. -/
def runTelemConfig (s : State) (_ : Nat) (args : List Byte) : Reply :=
  let k := argNat args 0 1
  if 5 ≤ k then .rejected s 0
  else match s.telemBad k (argNat args 8 32) with
    | some off => .rejected s (8 + off)
    | none => .ok (s.startStream k (argNat args 8 32))

def execTelemConfig (m : Nat) (s : State) : Host.Outcome State Fault Refusal := answer (Instr.telemConfig m).wf (s.command m cmdTelemConfig runTelemConfig (telemScope m))

/-- Records up to a number closed (R351). -/
def Hub.close (h : Hub) (n : Nat) : Hub :=
  { h with queue := h.queue.map fun (e : Option FaultRec) => e.filter fun r => n < r.seq, free := h.free + (h.open_.filter fun r => r.seq ≤ n).length }

/-- FAULT.ACK: the records close, and the history is replayed into the space that gives (R320, R351). -/
def runFaultAck (s : State) (_ : Nat) (args : List Byte) : Reply :=
  let n := argNat args 0 4
  if s.hub.seq ≤ n then .rejected s 0
  else .give ((s.modHub fun h => h.close n).replay) (leBytes 4 (s.hub.open_.filter fun r => r.seq ≤ n).length)

def execFaultAck (m : Nat) (s : State) : Host.Outcome State Fault Refusal := answer (Instr.faultAck m).wf (s.command m cmdFaultAck runFaultAck)

/-! ## POWER.CAP, POWER.STATE (R353, R371, R372) -/

def cmdPowerCap : Cmd := { op := 0x703, dev := true, len := some 2 }
def cmdPowerState : Cmd := { op := 0x704, dev := true, len := some 1 }

def capOk (w : Nat) : Bool := 1000 ≤ w && w ≤ 4400

def runPowerCap (s : State) (_ : Nat) (args : List Byte) : Reply :=
  let w := argNat args 0 2
  if capOk w then .ok (s.modPower fun x => { x with cap := w }) else .rejected s 0

def execPowerCap (m : Nat) (s : State) : Host.Outcome State Fault Refusal := answer (Instr.powerCap m).wf (s.command m cmdPowerCap runPowerCap)

/-- Is a target refused as BUSY: a transition in progress, the zero-fill of R301, P3 with a job, or P2 out of P3, which Table 16-9 does not
give? -/
def State.targetBusy (s : State) (t : Nat) : Bool :=
  s.power.moving.isSome || (2 ≤ t && s.sec.fill.isSome) || (t == 3 && !s.allFree) || (t == 2 && s.power.pstate == .p3)

/-- A target taken (Table 16-9): the state it leads to begins where the module is not in it; out of P3 the hearths are tested (R77). -/
def State.setTarget (s : State) (t : Nat) : State :=
  let x := s.power.pstate
  let toward := fun (s : State) (y : PState) => (if x = .p3 then s.testHearths else s).modPower fun w => { w with moving := some y }
  let s := s.modPower fun w => { w with target := t }
  if t = 0 then (if x = .p0 then s else toward s .p0)
  else if t = 1 then (if x = .p2 then toward s .p0 else if x = .p3 then toward s .p1 else s)
  else if t = 2 then (if x = .p2 then s else toward s .p2)
  else if x = .p3 then s else toward s .p3

/-- Partitions already held at action 8 are held for P2 too. -/
def State.holdP2 (s : State) : State := s.each (List.range s.nparts) fun s p => if (s.part p).run.atAction8 && (s.part p).st == .active then s.hold p .p2 else s

/-- A command waits TAKEN for its power state. -/
def State.takeMbx (s : State) (m : Nat) : State := (s.putHdr m (setField (s.mbxHdr m) 31 0 2)).modPower fun w => { w with moveMbx := some m }

/-- POWER.STATE: 2 completes when P2 is reached. -/
def runPowerState (m : Nat) (s : State) (_ : Nat) (args : List Byte) : Reply :=
  let t := argNat args 0 1
  if 3 < t then .rejected s 0
  else if s.targetBusy t then .busy s
  else
    let u := s.setTarget t
    if t = 2 ∧ s.power.pstate ≠ .p2 then .keep (u.holdP2.takeMbx m) else .ok u

def execPowerState (m : Nat) (s : State) : Host.Outcome State Fault Refusal := answer (Instr.powerState m).wf (s.command m cmdPowerState (runPowerState m))

end Sys2Proof.Machine
end

