-- ==== Sys2Proof/Machine/JobCmds.lean ====
section
/-! DEFINITION. The job, layout and ingot commands (R47, R49, R51, R177, R205, R206, R340-R346, Table 09-10). -/

namespace Sys2Proof.Machine

/-! ## JOB.LOAD, JOB.START, JOB.STOP, JOB.UNLOAD -/

def cmdJobLoad : Cmd := { op := 0x201, len := some 8 }
def cmdJobStart : Cmd := { op := 0x202, len := some 0 }
def cmdJobStop : Cmd := { op := 0x203, len := some 0 }
def cmdJobUnload : Cmd := { op := 0x208, len := some 0 }

/-- Can a manifest's header lie at an address: 16-byte aligned, in own HBM? -/
def State.manifestAt (s : State) (p g : Nat) : Bool := g % 16 == 0 && s.ownRange p g 16 [0]

/-- JOB.LOAD (R229, R280, R341, R342): without a routing table REJECTED; a spare takes no job of its own. -/
def runJobLoad (s : State) (p : Nat) (args : List Byte) : Reply :=
  let g := argNat args 0 8
  if !s.manifestAt p g then .rejected s 0
  else if ((s.part p).fab.entry s.moduleId).isNone then .rejected s 0xFFFF
  else match s.loadJob p g with
    | none => .rejected s 0xFFFF
    | some t => if (s.part p).job.isSome ∨ (s.part p).st ≠ .ready ∨ (s.part p).fab.entryState s.moduleId = 3 then .busy s else .ok (t.cipherless p)

def execJobLoad (m : Nat) (s : State) : Host.Outcome State Fault Refusal := answer (Instr.jobLoad m).wf (s.command m cmdJobLoad runJobLoad)

/-- JOB.START (R51, R371, R372): P1 is left for P0. -/
def runJobStart (s : State) (p : Nat) (_ : List Byte) : Reply :=
  if (s.part p).job.isNone ∨ (s.part p).st ≠ .ready ∨ !s.idValid ∨ s.power.pstate = .p3 then .busy s
  else
    .ok (s.wake.startJob p)

def execJobStart (m : Nat) (s : State) : Host.Outcome State Fault Refusal := answer (Instr.jobStart m).wf (s.command m cmdJobStart runJobStart)

/-- JOB.STOP (R49): armed; a partition already held at action 8 stops there. -/
def runJobStop (s : State) (p : Nat) (_ : List Byte) : Reply :=
  if (s.part p).job.isNone ∨ (s.part p).st = .ready then .ok s
  else
    let s := s.modRun p fun r => { r with stopArmed := true }
    .ok (if (s.part p).run.stops then s.stopNow p else s)

def execJobStop (m : Nat) (s : State) : Host.Outcome State Fault Refusal := answer (Instr.jobStop m).wf (s.command m cmdJobStop runJobStop)

/-- JOB.UNLOAD (R342). -/
def runJobUnload (s : State) (p : Nat) (_ : List Byte) : Reply := if (s.part p).st ≠ .ready then .busy s else .ok (s.leaveJob p)

def execJobUnload (m : Nat) (s : State) : Host.Outcome State Fault Refusal := answer (Instr.jobUnload m).wf (s.command m cmdJobUnload runJobUnload)

/-! ## ACC.SET, INPUT.POST, APERTURE.SET, MEM.SEND -/

def cmdAccSet : Cmd := { op := 0x204, len := some 2 }
def cmdInputPost : Cmd := { op := 0x205, len := some 8 }
def cmdApertureSet : Cmd := { op := 0x206, len := some 8 }
def cmdMemSend : Cmd := { op := 0x207, len := some 24 }

/-- ACC.SET (R47): a partition without a job has no bounds, and answers BUSY (DESIGN CHOICE, log entry 46). -/
def runAccSet (s : State) (p : Nat) (args : List Byte) : Reply :=
  let n := argNat args 0 2
  if (s.part p).job.isNone then .busy s
  else if jpAccLo (s.params p) ≤ n ∧ n ≤ jpAccHi (s.params p) then .ok (s.modRun p fun r => { r with accArmed := some n })
  else .rejected s 0

def execAccSet (m : Nat) (s : State) : Host.Outcome State Fault Refusal := answer (Instr.accSet m).wf (s.command m cmdAccSet runAccSet)

/-- INPUT.POST (R340): at once in the running step, pending for a later one. -/
def runInputPost (s : State) (p : Nat) (args : List Byte) : Reply :=
  let t := argNat args 0 1
  let n := argNat args 1 1
  let k := argNat args 2 6
  let r := (s.part p).run
  if 127 < t then .rejected s 0
  else if n = 0 ∨ 63 < n then .rejected s 1
  else if (s.part p).job.isNone then .busy s
  else if k < r.step then .rejected s 2
  else if k = r.step ∧ s.inStep p then .ok (s.signalN p t n)
  else if 16 ≤ r.posts.length then .busy s
  else .ok (s.modRun p fun r => { r with posts := r.posts ++ [⟨t, n, k⟩] })

def execInputPost (m : Nat) (s : State) : Host.Outcome State Fault Refusal := answer (Instr.inputPost m).wf (s.command m cmdInputPost runInputPost)

/-- APERTURE.SET (R345). -/
def runApertureSet (s : State) (p : Nat) (args : List Byte) : Reply :=
  let g := argNat args 0 8
  if g % 0x200000 = 0 ∧ s.ownRange p g 0x200000 [0, 1, 2] then .ok (s.modPart p fun q => { q with aperture := some g }) else .rejected s 0

def execApertureSet (m : Nat) (s : State) : Host.Outcome State Fault Refusal := answer (Instr.apertureSet m).wf (s.command m cmdApertureSet runApertureSet)

/-- MEM.SEND (R217, R346). -/
def runMemSend (m : Nat) (s : State) (p : Nat) (args : List Byte) : Reply :=
  let src := argNat args 0 8
  let n := argNat args 8 8
  let h := argNat args 16 8
  let cookie := bits (s.mbxHdr m) 511 448
  if !s.ownRange p src 1 [0, 1, 2] then .rejected s 0
  else if n = 0 ∨ 2 ^ 40 ≤ n ∨ !s.ownRange p src n [0, 1, 2] then .rejected s 8
  else if !s.handleOk (some p) h n then .rejected s 16
  else .ok (s.addBg p { kind := .memSend, id := 0, src := src, dst := h, len := n, cookie := cookie, tag := 2 * 2 ^ 28 + cookie % 2 ^ 28 })

/-- It goes to one of the partition's host targets (R217, R337). -/
def memSendScope : Scope := fun s p args => if (s.target (some p) (argNat args 16 8)).isNone then some 16 else none

def execMemSend (m : Nat) (s : State) : Host.Outcome State Fault Refusal := answer (Instr.memSend m).wf (s.command m cmdMemSend (runMemSend m) memSendScope)

/-! ## INGOT.EMIT (R177) -/

def cmdIngotEmit : Cmd := { op := 0x403, len := some 32 }

/-- Declared state of a partition (R183, R240). -/
def State.declared (s : State) (p : Nat) : List (Nat × Nat) :=
  let q := s.part p
  (match q.job with
    | some j => j.ranges (q.actqs.map (·.desc))
    | none => []) ++ q.outer.ranges

/-- The first faulty field of an `INGOT_CFG`. -/
def State.ingotBad (s : State) (p i : Nat) : Option Nat :=
  let need := s.partBytes p (igMoments i)
  let n := 4096 * igPages i
  firstBad [(0, bits i 16 0 == 0), (18, need ≤ n), (48, (s.part p).run.step ≤ igFirst i),
    (128, igStage i % 4096 == 0 && s.ownRange p (igStage i) n [1, 2] && !meets (ingotRange i) (s.declared p)), (192, s.handleOk (some p) (igDest i) need)]

def runIngotEmit (s : State) (p : Nat) (args : List Byte) : Reply :=
  let i := argNat args 0 32
  match s.ingotBad p i with
  | some off => .rejected s off
  | none => if (s.part p).job.isNone then .busy s else .ok (s.modPart p fun q => { q with ingotNext := some i })

/-- Its parts go to one of the partition's host targets (R217, R337). -/
def ingotScope : Scope := fun s p args => if (s.target (some p) (igDest (argNat args 0 32))).isNone then some 24 else none

def execIngotEmit (m : Nat) (s : State) : Host.Outcome State Fault Refusal := answer (Instr.ingotEmit m).wf (s.command m cmdIngotEmit runIngotEmit ingotScope)

/-! ## LAYOUT.SET (R205, R206) -/

def cmdLayoutSet : Cmd := { op := 0x402, len := some 16, zeros := (1, 8) }

def State.armLayout (s : State) (p : Nat) (m : Manifest) (forced : Bool) : State := s.modRun p fun r => { r with layoutArmed := some (m, forced) }

/-- A forced layout at the root of its flag group with DECIDE unsent: the step is decided with reason 1 (Table 09-10 rows 1, 2). -/
def State.forceRoot (s : State) (p g : Nat) : State :=
  let c := (s.part p).coll
  let step := (s.part p).run.step
  let occ := c.decidingOcc g
  let s := if c.roots.any (·.is (cgId g) step occ) then s
    else s.modColl p fun c => { c with roots := c.roots ++ [{ group := cgId g, step := step, occ := occ, words := [], taken := none, closed := false }] }
  (s.rootClose p g step occ 1 (((s.part p).run.epoch + 1) % 65536)).collSettle p

/-- Is the decision of the running step still open at its root? -/
def State.decideOpen (s : State) (p g : Nat) : Bool :=
  let c := (s.part p).coll
  s.inStep p && (s.part p).run.decision.isNone && !c.roots.any fun r => r.is (cgId g) (s.part p).run.step (c.decidingOcc g) && r.closed

/-- The new epoch of a DECIDE with reason 1 that the root has sent and not yet taken itself (R206). -/
def State.decideSent (s : State) (p g : Nat) : Option Nat :=
  let c := (s.part p).coll
  if s.inStep p && (s.part p).run.decision.isNone then
    (c.roots.find? fun r => r.is (cgId g) (s.part p).run.step (c.decidingOcc g) && r.closed && r.reason == 1).map (·.newEpoch)
  else none

/-- A layout held for the barrier of a re-shard comes into force, and the barrier is reached (Table 09-10 row 5). -/
def State.reshardNow (s : State) (p : Nat) (m : Manifest) (epoch : Nat) : State :=
  let s := s.applyForced p m epoch
  match s.flagGroup p with
  | some g => s.barrierReach p g 2 0
  | none => s.unhold p .reshard

/-- The second DECIDE of a re-shard, where this partition is the root (R206). -/
def State.secondDecide (s : State) (p step e : Nat) : State := match s.flagGroup p with
  | some g => if cgRank g = 0 then s.decideAgain p g step ((s.part p).coll.decidingOcc g) (e % 65536) false else s
  | none => s

/-- A forced layout accepted (R206): at a rolled-back partition it waits for the round start; where its re-shard has begun, it comes into force
now, under the epoch awaited or one more, and the root decides again; in a step, the root decides it and members await the decision; a layout
that moves shards goes through R205 or waits for a rollback (log entry 47). -/
def State.forceLayout (s : State) (p : Nat) (m : Manifest) : State :=
  let r := (s.part p).run
  if r.holds.contains .rollback ∨ s.layoutMoves p m then s.armLayout p m true
  else if r.holds.contains .reshard then
    (if r.newEpoch.isSome then s.reshardNow p m r.epoch else (s.secondDecide p (r.step - 1) (r.epoch + 1)).reshardNow p m (r.epoch + 1))
  else match r.newEpoch, r.layoutArmed, s.flagGroup p with
    | some e, some (_, true), _ => ((s.armLayout p m true).modRun p fun x => { x with newEpoch := some ((e + 1) % 65536) }).secondDecide p r.step (e + 1)
    | none, _, some g =>
      if cgRank g ≠ 0 then s.armLayout p m true
      else if s.decideOpen p g then (s.armLayout p m true).forceRoot p g
      else match s.decideSent p g with
        | some e => ((s.armLayout p m true).decideAgain p g r.step ((s.part p).coll.decidingOcc g) ((e + 1) % 65536) true).collSettle p
        | none => s.armLayout p m true
    | _, _, _ => s.armLayout p m true

/-- LAYOUT.SET, planned or forced. -/
def runLayoutSet (s : State) (p : Nat) (args : List Byte) : Reply :=
  let g := argNat args 8 8
  if 1 < argNat args 0 1 then .rejected s 0
  else if !s.manifestAt p g then .rejected s 8
  else match s.readManifest p g with
    | none => .rejected s 0xFFFF
    | some m =>
      if (s.part p).job.isNone then .busy s
      else if (s.layoutOf p m).isNone then .rejected s 0xFFFF
      else .ok (if argNat args 0 1 = 1 then s.forceLayout p m else s.armLayout p m false)

/-- Is the LAYOUT.SET of a mailbox a forced one? -/
def State.isForced (s : State) (m : Nat) : Bool := argNat (s.mbxArgs m) 0 1 == 1

def execLayoutSet (m : Nat) (s : State) : Host.Outcome State Fault Refusal :=
  answer (Instr.layoutSet m).wf (if s.isForced m then s else s.command m cmdLayoutSet runLayoutSet)

def execLayoutSetForced (m : Nat) (s : State) : Host.Outcome State Fault Refusal :=
  answer (Instr.layoutSetForced m).wf (if s.isForced m then s.command m cmdLayoutSet runLayoutSet else s)

end Sys2Proof.Machine
end

