-- ==== Sys2Proof/Machine/NetCmds.lean ====
section
/-! DEFINITION. The commands of ports, host targets, routing, spares and outer rounds (R211, R212, R217, R229, R234, R241, R242, R262, R268). -/

namespace Sys2Proof.Machine

/-! ## PORT.CONFIG (R212) -/

def cmdPortConfig : Cmd := { op := 0x301, dev := true, len := some 16, zeros := (1, 8) }

/-- The first faulty field of a `PORT_CFG` (Table 10-1). -/
def portCfgBad (c : Nat) : Option Nat :=
  firstBad [(0, bits c 10 0 == 0), (43, bits c 57 53 + bits c 52 48 + bits c 47 43 == 16), (59, !(bit c 59 && bits c 61 60 == 1)), (60, bits c 61 60 ≤ 1), (62, bits c 63 62 ≤ 2)]

/-- A port retrains: its links go down, which is no flap. -/
def State.retrain (s : State) (q c : Nat) : State :=
  (s.modPort q fun y => { y with cfg := c, subs := y.subs.map fun z => { z with up := false } }).each (List.range 8) fun s k => s.resendSub q k

def runPortConfig (s : State) (_ : Nat) (args : List Byte) : Reply :=
  let q := argNat args 0 1
  let c := argNat args 8 8
  if 8 ≤ q then .rejected s 0
  else match portCfgBad c with
    | some off => .rejected s (8 + off)
    | none => if (s.part (portPart s.nparts q)).st = .ready then .ok (s.retrain q c) else .busy s

def execPortConfig (m : Nat) (s : State) : Host.Outcome State Fault Refusal := answer (Instr.portConfig m).wf (s.command m cmdPortConfig runPortConfig)

/-! ## HOST.TARGET (R217) -/

def cmdHostTarget : Cmd := { op := 0x302, len := some 40, zeros := (1, 8) }

/-- May mailbox owner `o` overwrite a target: one that is empty or its own? A device mailbox may write any. -/
def mayRetarget (o : Option Nat) (old : Nat) : Bool := match o with
  | none => true
  | some p => htLen old == 0 || (!htDev old && htPart old == p)

/-- The first faulty field of a `HOST_TARGET` from a mailbox of owner `o` (Table 10-2). -/
def hostTargetBad (n : Nat) (o : Option Nat) (t : Nat) : Option Nat :=
  firstBad [(0, bits t 110 0 == 0), (111, o.isNone || !htDev t), (112, htPart t < n && (!htDev t || htPart t == 0) && (match o with | some p => htPart t == p | none => true))]

/-- Is a target used by a transfer in flight, of a background job or of a telemetry stream? -/
def State.targetInUse (s : State) (i : Nat) : Bool := s.net.qps.any fun q => q.inflight.any fun x => x.1 == i

/-- A partition's mailbox writes its own entries, for itself (R337). -/
def targetScope (m : Nat) : Scope := fun s _ args => match mbxPart s.nparts m with
  | none => none
  | some p =>
    let t := argNat args 8 32
    if !mayRetarget (some p) (s.net.targets.getD (argNat args 0 1) 0) then some 0 else if htDev t ∨ htPart t ≠ p then some 21 else none

def runHostTarget (m : Nat) (s : State) (_ : Nat) (args : List Byte) : Reply :=
  let i := argNat args 0 1
  let t := argNat args 8 32
  let o := mbxPart s.nparts m
  match hostTargetBad s.nparts o t with
  | some off => .rejected s (8 + off)
  | none => if s.targetInUse i then .busy s else .ok (s.modNet fun x => { x with targets := updAt x.targets i fun _ => t, deadTargets := x.deadTargets.filter (· != i) })

def execHostTarget (m : Nat) (s : State) : Host.Outcome State Fault Refusal := answer (Instr.hostTarget m).wf (s.command m cmdHostTarget (runHostTarget m) (targetScope m))

/-! ## ROUTE.LOAD (R229, R230) -/

def cmdRouteLoad : Cmd := { op := 0x303, len := some 8 }

/-- A route image (R336): its header, entries and maps; none where a part lies outside own HBM, carries a mark or breaks its table. -/
def State.readRoutes (s : State) (p g : Nat) : Option (Nat × List Nat × List Nat) :=
  match s.readArray p g 64 1 with
  | some [h] =>
    let n := bits h 63 32
    let range := fun (lo : Nat) (a b : Nat) => a ≤ bits h (lo + 15) lo && bits h (lo + 15) lo ≤ b
    if 2 ^ 20 ≤ bits h 31 0 ∨ n = 0 ∨ 131072 < n ∨ 2 ^ 20 < bits h 31 0 + n ∨ bits h 511 128 ≠ 0 ∨ !(range 64 8 256 && range 80 4 1000 && range 96 2 15 && range 112 1 1000) then none
    else match s.readArray p (g + 64) 16 n, s.readArray p (g + 64 + 16 * n) 8 16 with
      | some es, some ms => if es.all (fun e => bits e 70 0 == 0 && reState e ≤ 3 && bits e 72 71 ≠ 3) && ms.all mapOk then some (h, es, ms) else none
      | _, _ => none
  | _ => none

/-- A table loaded in both banks; every live bit starts at 1, and every channel is reset (R222, R229). -/
def Fabric.load (f : Fabric) (h : Nat) (es ms : List Nat) : Fabric :=
  let bank := (enum es).filter fun x => x.2 != 0
  let w := bits h 79 64
  { f with
    idBase := bits h 31 0, count := es.length, banks := [bank, bank], maps := [ms, ms], root := copies3 0, window := w, rto0 := bits h 95 80, retryMax := bits h 111 96, hb := bits h 127 112
    dead := [], heardAt := [], peers := [], chans := f.chans.map (Chan.reset w), poolIssued := 0, rr := 0, lostList := [], spareHeld := false }

def runRouteLoad (s : State) (p : Nat) (args : List Byte) : Reply :=
  let g := argNat args 0 8
  if !s.ownRange p g 64 [0] then .rejected s 0
  else match s.readRoutes p g with
    | none => .rejected s 0xFFFF
    | some (h, es, ms) =>
      let f := (s.part p).fab.load h es ms
      if !s.idValid ∨ !([1, 3].contains (f.entryState s.moduleId)) then .rejected s 0xFFFF
      else if (s.part p).st ≠ .ready then .busy s
      else .ok (s.modFab p fun _ => f)

def execRouteLoad (m : Nat) (s : State) : Host.Outcome State Fault Refusal := answer (Instr.routeLoad m).wf (s.command m cmdRouteLoad runRouteLoad)

/-! ## SPARE.ASSUME (R234) -/

def cmdSpareAssume : Cmd := { op := 0x304, len := some 16, zeros := (4, 8) }

/-- The manifest's address under the lost ID: it may be given under either ID of the spare's own memory (log entry 48). -/
def State.asLost (s : State) (lost g : Nat) : Nat := if gModule g = s.moduleId then lost * 2 ^ 44 + gLocal g else g

def runSpareAssume (s : State) (p : Nat) (args : List Byte) : Reply :=
  let lost := argNat args 0 4
  let g := s.asLost lost (argNat args 8 8)
  let f := (s.part p).fab
  if f.entryState s.moduleId ≠ 3 then .rejected s 0xFFFF
  else match f.entry lost with
    | none => .rejected s 0
    | some (_, e) =>
      if reState e = 0 ∨ rePartCount e ≠ s.nparts ∨ !(entParts e).contains p then .rejected s 0
      else if (({ s with moduleId := lost } : State).loadJob p g).isNone then .rejected s 8
      else if reState e ≠ 2 ∨ (s.part p).st ≠ .ready ∨ (s.part p).job.isSome then .busy s
      else .ok ((s.modFab p fun f => { f with assuming := some (lost, g) }).announce p lost e)

def execSpareAssume (m : Nat) (s : State) : Host.Outcome State Fault Refusal := answer (Instr.spareAssume m).wf (s.command m cmdSpareAssume runSpareAssume)

/-! ## ROUND.CONFIG (R241, R242, R262, R268) -/

def cmdRoundConfig : Cmd := { op := 0x401, len := some 64 }

/-- Is an FP32 value within two bounds? -/
def f32In (a b w : W32) : Bool := isFinite w && (f32 a).le (f32 w) && (f32 w).le (f32 b)
def f32Pos (w : W32) : Bool := isFinite w && (f32 f32Zero).lt (f32 w)

/-- The first faulty field of a `ROUND_CFG` (Table 11-2). -/
def State.roundBad (s : State) (p c : Nat) : Option Nat :=
  let own := fun (g a n k : Nat) => g % a == 0 && s.ownRange p g n [k]
  firstBad [(0, bits c 34 0 == 0), (35, rcModel c != 0), (88, 16 ≤ rcWinMax c && rcWinMax c ≤ 4096), (101, 1 ≤ rcRtt c && rcRtt c ≤ 4000), (117, f32In f32Zero f32One (rcStale c)),
    (149, isFinite (rcMu c) && (f32 f32Zero).le (f32 (rcMu c)) && (f32 (rcMu c)).lt (f32 f32One) && (rcOpt c == 1 || isZero (rcMu c))), (181, f32Pos (rcEta c)),
    (213, f32In 0x00800000#32 0x71800000#32 (rcClamp c)), (247, rcFmt c != 3), (249, 1 ≤ rcQuorum c && rcQuorum c ≤ rcIslands c), (254, rcOwn c < rcIslands c),
    (258, 2 ≤ rcIslands c && rcIslands c ≤ 16), (263, rcMerge c < rcH c), (279, 16 ≤ rcH c && rcH c ≤ 65536), (296, rcSlabs c != 0),
    (320, own (rcIslList c) 64 (48 * rcIslands c) 0), (384, own (rcSlabList c) 64 (64 * rcSlabs c) 0), (448, rcStaging c % 4096 == 0 && s.ownRange p (rcStaging c) (stagingBytes c) [1, 2])]

/-- `OUTER_ISLAND` number `t` (Table 11-3); the own entry has no locators and prefixes. -/
def State.islandOk (s : State) (p c t i : Nat) : Bool :=
  let own := t == rcOwn c
  bits i 39 0 == 0 && s.ownRange p (oiSpeakers i) (4 * rcModel c) [0] &&
  (if own then oiLocs i == 0 && oiPrefixes i == 0 else s.ownRange p (oiLocs i) (4 * oiCount i) [0] && s.ownRange p (oiPrefixes i) 64 [0]) &&
  f32Pos (oiWeight i) && 1 ≤ oiCount i && oiCount i ≤ 131072 && [oiTx i, oiTxAlt i, oiRx i, oiRxAlt i].all (fun k => slotPart s.nparts k == p) &&
  (!own || (oiIsland i == rcIsland c && oiEnabled i))

/-- `OUTER_SLAB` (Table 11-4). -/
def State.slabOk (s : State) (p c d : Nat) : Bool :=
  let n := osCount d
  let cru := fun (g k : Nat) => s.ownRange p g k [1, 2]
  bits d 60 0 == 0 && 1 ≤ n && n ≤ 8388608 && osNRep d ≤ 131071 && osSlab d < rcModel c && s.ownRange p (osWork d) (2 * n) [0] && cru (osResid d) (residBytes c * n) &&
  cru (osSnap d 0) (2 * n) && cru (osSnap d 1) (2 * n) && (if rcOpt c = 1 then cru (osMom d) (4 * n) else osMom d == 0) && (osNRep d == 0 || s.ownRange p (osReplicas d) (8 * osNRep d) [0])

/-- Does a shard lie in exactly one slab? -/
def inOneSlab (slabs : List Nat) (d : Nat) : Bool :=
  (slabs.filter fun x => udWork d < osWork x + 2 * osCount x && osWork x < udWork d + 2 * udCount d).length == 1 &&
    slabs.any fun x => osWork x ≤ udWork d && udWork d + 2 * udCount d ≤ osWork x + 2 * osCount x

/-- Islands and slabs of a configuration; none where an entry or a range does not hold, or a slab's range meets declared state, the
staging or another slab's (R241). -/
def State.roundArrays (s : State) (p c : Nat) : Option (List Nat × List Nat) :=
  match s.readArray p (rcIslList c) 48 (rcIslands c), s.readArray p (rcSlabList c) 64 (rcSlabs c) with
  | some il, some sl =>
    let declared := match (s.part p).job with
      | some j => j.ranges ((s.part p).actqs.map (·.desc))
      | none => []
    let ok := ((enum il).all fun (t, i) => s.islandOk p c t i) && sl.all (s.slabOk p c) && (s.shards p).all (inOneSlab sl) &&
      eachApart (((gLocal (rcStaging c), stagingBytes c) :: declared) :: sl.map (slabRanges c))
    if ok then some (il, sl) else none
  | _, _ => none

/-- The fields of a configuration that no running partition changes, and those of an island. -/
def rcFixed (c : Nat) : Nat × Nat × Nat × Nat := (bits c 511 279, bits c 262 254, bits c 248 245, bits c 116 35)
def oiFixed (i : Nat) : Nat × Nat := (bits i 383 192, bits i 127 77)

/-- Does a change touch only fields that take effect at the next B(r)? -/
def Outer.sameShape (o : Outer) (c : Nat) (il sl : List Nat) : Bool :=
  o.cfg.any (fun d => rcFixed d == rcFixed c) && o.islands.map oiFixed == il.map oiFixed && (o.slabs.map (·.desc)) == sl

/-- Does it only lower quorum, or disable partner islands? -/
def Outer.onlyEases (o : Outer) (c : Nat) (il : List Nat) : Bool :=
  (match o.cfg with
    | some d => bits d 511 254 == bits c 511 254 && bits d 248 0 == bits c 248 0 && rcQuorum c ≤ rcQuorum d
    | none => false) &&
  o.islands.length == il.length && (o.islands.zip il).all fun (a, b) => bits a 383 41 == bits b 383 41 && (oiEnabled a || !oiEnabled b)

/-- A lower quorum and the islands disabled, in force at once: for the rounds that an earlier configuration governs too (R241). -/
def Outer.ease (o : Outer) (c : Nat) (il : List Nat) : Outer :=
  { o with
    cfg := some c, islands := il
    prior := o.prior.map fun x => (x.1 / 2 ^ 254 * 2 ^ 254 + min (rcQuorum x.1) (rcQuorum c) * 2 ^ 249 + x.1 % 2 ^ 249,
      (x.2.zip il).map fun (a, b) => if oiEnabled b || !oiEnabled a then a else a - 2 ^ 40) }

/-- A configuration comes into force at a READY partition; outer state of slabs laid out as before stands. -/
def State.setRound (s : State) (p c : Nat) (il sl : List Nat) : State :=
  let same := (s.part p).outer.sameShape c il sl
  let s := s.modOuter p fun o => { o with cfg := some c, next := none, islands := il, nextIslands := [], since := 0, prior := none, slabs := if same then o.slabs else sl.map fun d => { desc := d } }
  (if same then s else s.initOuter p).cipherless p

def runRoundConfig (s : State) (p : Nat) (args : List Byte) : Reply :=
  let c := argNat args 0 64
  let o := (s.part p).outer
  match s.roundBad p c with
  | some off => .rejected s off
  | none => match s.roundArrays p c with
    | none => .rejected s 0xFFFF
    | some (il, sl) =>
      let own := fun (s : State) => s.modOuter p fun o => { o with island := some (rcIsland c) }
      if (s.part p).st = .ready then .ok (own (s.setRound p c il sl))
      else if (s.part p).run.holds.contains .roundWord && o.onlyEases c il then
        .ok (own ((s.modOuter p fun o => o.ease c il).sealTest p (s.part p).run.step))
      else if o.sameShape c il sl then .ok (own (s.modOuter p fun o => { o with next := some c, nextIslands := il }))
      else .busy s

def execRoundConfig (m : Nat) (s : State) : Host.Outcome State Fault Refusal := answer (Instr.roundConfig m).wf (s.command m cmdRoundConfig runRoundConfig)

end Sys2Proof.Machine
end

