-- ==== Sys2Proof/Machine/KeyCmds.lean ====
section
/-! DEFINITION. The KEY commands (R281-R285). Layouts of the records are the model's (log entry 50). -/

namespace Sys2Proof.Machine

/-! ## Installs (R282-R284) -/

/-! An install: slot, mode, dir, pair, key_epoch, limit and key, 88 bytes. -/
def inSlot (r : Nat) : Nat := bits r 15 0
def inMode (r : Nat) : Nat := bits r 23 16
def inDir (r : Nat) : Nat := bits r 31 24
def inPair (r : Nat) : Nat := bits r 47 32
def inEpoch (r : Nat) : Nat := bits r 95 64
def inLimit (r : Nat) : Nat := bits r 175 128
def inKey (r : Nat) : Nat := bits r 703 192
def mkInstall (slot mode dir pair epoch limit key : Nat) : Nat :=
  pack [(512, key), (16, 0), (48, limit), (32, 0), (32, epoch), (16, 0), (16, pair), (8, dir), (8, mode), (16, slot)]

/-- Ceiling of a mode (Table 12-7). -/
def keyCeiling (mode : Nat) : Nat := if mode = 0 then 2 ^ 48 - 1 else 2 ^ 44

/-- Is a slot one of the partition's? -/
def State.ownSlot (s : State) (p k : Nat) : Bool := k < 512 && slotPart s.nparts k == p

/-- Epoch of the key that a slot holds. -/
def Slot.held (k : Slot) : Option Nat := if k.state = 1 ∨ k.state = 2 ∨ k.state = 3 then some (swEpoch k.word) else none

/-- Do an install's fields hold (R284)? -/
def State.installOk (s : State) (p r : Nat) : Bool :=
  s.ownSlot p (inSlot r) && s.ownSlot p (inPair r) && inMode r ≤ 1 && inDir r ≤ 2 && (inDir r != 2 || inMode r == 1) && inLimit r ≤ keyCeiling (inMode r) &&
  bits r 63 48 == 0 && bits r 127 96 == 0 && bits r 191 176 == 0 &&
  [inSlot r, inPair r].all fun k => match (s.slot k).held with
    | some e => decide (e < inEpoch r)
    | none => true

/-- Is a request bound to a slot under way: running, suspended, or waiting to be redone (R279, R284)? -/
def Cipher.bound (c : Cipher) (k : Nat) : Bool := (c.queue ++ c.cores.flatMap fun x => x.run.toList ++ x.susp).any fun r => r.slot == some k

/-- Does R284 keep a slot as it is: a request under way, the older slot of an open grace window, or a slot in use by the arena in a step, the
active one or the other while a page of the step lies under it (R156, log entry 101)? -/
def State.slotBusy (s : State) (p k : Nat) : Bool :=
  s.cipher.bound k || (s.part p).outer.grace.any (fun g => g.2.2.2 == k) ||
    (s.inStep p && (match s.arenaOf p with
      | some a => let r := (s.part p).arena; saXts a && (activeKey a r == k || (!r.otherKey.isEmpty && activeKey a { r with altKey := !r.altKey } == k))
      | none => false))

/-- The slot that an install makes: PENDING for a GCM open slot, else ACTIVE (R283). -/
def installed (r : Nat) : Slot :=
  let st := if inMode r = 0 ∧ inDir r = 1 then 2 else 1
  { words := copies3 (pack [(3, st), (2, inMode r), (2, inDir r), (9, inPair r), (32, inEpoch r)])
    key := if inMode r = 0 then inKey r % 2 ^ 256 else inKey r, limit := if inLimit r = 0 then keyCeiling (inMode r) else inLimit r }

/-- An install under R284: its status, and the state where it is OK. -/
def State.install (s : State) (p r : Nat) : Nat × State :=
  if !s.installOk p r then (stREJECTED, s)
  else if s.slotBusy p (inSlot r) then (stBUSY, s)
  else (stOK, s.modCipher fun c => c.modSlot (inSlot r) fun _ => installed r)

/-! ## KEY.INSTALL, KEY.ZERO, KEY.STATUS -/

def cmdKeyInstall : Cmd := { op := 0x501 }
def cmdKeyZero : Cmd := { op := 0x502, len := some 2 }
def cmdKeyStatus : Cmd := { op := 0x503, len := some 2 }

/-- A finished session by its ID. -/
def Sec.session (x : Sec) (id : Nat) : Option Session := x.sessions.find? fun y => y.id == id && y.open_

/-- KEY.INSTALL: session ID, then the sealed install (R284, R293). Outside a session, or not sealed under its key, it is DENIED. -/
def runKeyInstall (s : State) (p : Nat) (args : List Byte) : Reply :=
  match (s.sec.session (argNat args 0 4)).bind fun y => (Config.secOpen y.key (args.drop 4)).map fun b => (y, b) with
  | none => .denied s
  | some (y, b) =>
    if b.length ≠ 88 then .rejected s 0xFFFF
    else
      let o := s.install p (leNat b)
      if o.1 = stOK then .give (o.2.modSec fun x => { x with draws := x.draws + 1 }) ((Config.secSeal y.key s.sec.draws []).take 16384) else .done s o.1 [] 0xFFFF

def execKeyInstall (m : Nat) (s : State) : Host.Outcome State Fault Refusal := answer (Instr.keyInstall m).wf (s.command m cmdKeyInstall runKeyInstall)

/-- The slot that an argument names is the partition's, or 0xFFFF where the command gives that a meaning (R337). -/
def slotScope (all : Bool) : Scope := fun s p args => let k := argNat args 0 2; if s.ownSlot p k || (all && k == 0xFFFF) then none else some 0

/-- KEY.ZERO: one slot, or all of the partition's. -/
def runKeyZero (s : State) (p : Nat) (args : List Byte) : Reply :=
  let k := argNat args 0 2
  let ks := if k = 0xFFFF then s.slotsOf p else [k]
  if ks.any (s.slotBusy p) then .busy s
  else .ok (s.zeroSlots ks)

def execKeyZero (m : Nat) (s : State) : Host.Outcome State Fault Refusal := answer (Instr.keyZero m).wf (s.command m cmdKeyZero runKeyZero (slotScope true))

/-- KEY.STATUS, by the query path. -/
def runKeyStatus (s : State) (_ : Nat) (args : List Byte) : Reply := .give s (leBytes 32 (s.slot (argNat args 0 2)).info)

def execKeyStatus (m : Nat) (s : State) : Host.Outcome State Fault Refusal := answer (Instr.keyStatus m).wf (s.command m cmdKeyStatus runKeyStatus (slotScope false))

/-! ## KEY.OFFER, KEY.WRAP, KEY.UNWRAP (R285) -/

def cmdKeyOffer : Cmd := { op := 0x504, len := some 2 }
def cmdKeyWrap : Cmd := { op := 0x505, len := some 6843 }
def cmdKeyUnwrap : Cmd := { op := 0x506, len := some 6945 }

/-- ASCII bytes. -/
def ascii (t : String) : List Byte := t.toList.map fun c => BitVec.ofNat 8 c.toNat

/-- The DeviceID key: its seed, its public key, and the digest of that (R292). -/
def deviceSeed : List Byte := shake256 (leBytes 32 Config.uds ++ ascii "DEVID") 32
def deviceKey : Nat := Config.dsaPublic deviceSeed
def deviceUid : Nat := leNat (shake256 (leBytes 1952 deviceKey) 32)

/-- A message with the DeviceID key's signature (R285, R292). -/
def State.signed (s : State) (body : List Byte) : List Byte := body ++ leBytes 3309 (Config.signature deviceSeed s.sec.draws body)

/-- KEY.OFFER: encapsulation key, identifier, module, partition and slot, signed. -/
def runKeyOffer (s : State) (p : Nat) (args : List Byte) : Reply :=
  let k := argNat args 0 2
  if 4 ≤ (s.part p).offers.length then .busy s
  else
    let id := s.sec.draws % 2 ^ 32
    let seed := Config.random s.sec.draws % 2 ^ 512
    let body := leBytes 1568 (Config.kemPublic seed) ++ leBytes 4 id ++ leBytes 4 s.moduleId ++ leBytes 2 p ++ leBytes 2 k
    let t := (s.modPart p fun q => { q with offers := q.offers ++ [(id, k, seed, s.tick)] }).modSec fun x => { x with draws := x.draws + 1 }
    .give t (s.signed body)

def execKeyOffer (m : Nat) (s : State) : Host.Outcome State Fault Refusal := answer (Instr.keyOffer m).wf (s.command m cmdKeyOffer runKeyOffer (slotScope false))

/-- The wrapping key of an exchange. -/
def wrapKey (secret id fromMod toMod epoch : Nat) : List Byte := shake256 (leBytes 32 secret ++ leBytes 4 id ++ leBytes 4 fromMod ++ leBytes 4 toMod ++ leBytes 4 epoch) 32

/-- An exchange that fails its signature or its open (R285). -/
def State.exchangeFailed (s : State) (p : Nat) : State := s.raise { recPart p sevDef 0x72 with resClass := 11 }

/-- What KEY.WRAP seals: the key and install fields of a slot held, or fresh material, for the slot offered. -/
def State.wrapBody (s : State) (k target : Nat) : Nat :=
  if k = 0xFFFF then
    let f := Config.wrapFields s.sec.draws
    mkInstall target (inMode f) (inDir f) (inPair f) (inEpoch f) (inLimit f) (Config.random (s.sec.draws + 1))
  else let x := s.slot k; mkInstall target (swMode x.word) (swDir x.word) (swPair x.word) (swEpoch x.word) x.limit x.key

/-- KEY.WRAP: slot, offer record, identity key; a slot that holds no key is REJECTED. -/
def runKeyWrap (s : State) (p : Nat) (args : List Byte) : Reply :=
  let k := argNat args 0 2
  let offer := (args.drop 2).take 1580
  if k ≠ 0xFFFF ∧ (s.slot k).held.isNone then .rejected s 0
  else if !Config.verifyKey (args.drop 4891) offer ((args.drop 1582).take 3309) then .denied (s.exchangeFailed p)
  else
    let id := argNat offer 1568 4
    let x := Config.kemEncap (argNat offer 0 1568) (Config.random s.sec.draws)
    let r := s.wrapBody k (argNat offer 1578 2)
    let c := gcmSealBytes (wrapKey x.2 id s.moduleId (argNat offer 1572 4) (inEpoch r)) (List.replicate 12 0#8) [] (leBytes 88 r)
    let body := leBytes 1568 x.1 ++ c.1 ++ c.2 ++ leBytes 4 id ++ leBytes 4 s.moduleId ++ leBytes 4 (inEpoch r) ++ leBytes 1952 deviceKey
    .give (s.modSec fun x => { x with draws := x.draws + 2 }) (s.signed body)

def execKeyWrap (m : Nat) (s : State) : Host.Outcome State Fault Refusal := answer (Instr.keyWrap m).wf (s.command m cmdKeyWrap runKeyWrap (slotScope true))

def State.dropOffer (s : State) (p id : Nat) : State := s.modPart p fun q => { q with offers := q.offers.filter fun o => o.1 != id }

/-- The record that an envelope held, installed under the offer's kind; the offer goes where that is OK. -/
def State.installSealed (s : State) (p id k : Nat) (b : List Byte) : Reply :=
  let r := leNat b
  let x := s.install p (mkInstall k (inMode r) (inDir r) (inPair r) (inEpoch r) (inLimit r) (inKey r))
  if x.1 = stOK then .ok (x.2.dropOffer p id) else .done s x.1 [] 0xFFFF

/-- An exchange that fails: the offer goes. -/
def State.unwrapFailed (s : State) (p id : Nat) : Reply := .denied ((s.dropOffer p id).exchangeFailed p)

/-- An envelope opened under the key that it wraps. -/
def State.unwrapUnder (s : State) (p id k : Nat) (key args : List Byte) : Reply :=
  match gcmOpenBytes key (List.replicate 12 0#8) [] ((args.drop 1568).take 88) ((args.drop 1656).take 16) with
  | none => s.unwrapFailed p id
  | some b => s.installSealed p id k b

/-- KEY.UNWRAP: an offer that is not open, or has run 600 s, is REJECTED; a refused install keeps it. -/
def runKeyUnwrap (s : State) (p : Nat) (args : List Byte) : Reply :=
  let id := argNat args 1672 4
  match (s.part p).offers.find? fun o => o.1 == id && decide (s.tick < o.2.2.2 + offerTicks) with
  | none => .rejected s 1672
  | some (_, k, seed, _) =>
    if !Config.verifyKey ((args.drop 1684).take 1952) (args.take 3636) (args.drop 3636) then s.unwrapFailed p id
    else s.unwrapUnder p id k (wrapKey (Config.kemDecap seed (argNat args 0 1568)) id (argNat args 1676 4) s.moduleId (argNat args 1680 4)) args

def execKeyUnwrap (m : Nat) (s : State) : Host.Outcome State Fault Refusal := answer (Instr.keyUnwrap m).wf (s.command m cmdKeyUnwrap runKeyUnwrap)

end Sys2Proof.Machine
end

