-- ==== Sys2Proof/Machine/Spdm.lean ====
section
/-! DEFINITION. The SPDM responder (R291-R293, R298, R303). Message forms follow DSP0274 and DSP0277 (PRESUMED, log entry 9); fields that the
manual leaves open are free (log entry 49). -/

namespace Sys2Proof.Machine

/-! ## Messages -/

/-- Codes of the requests that are answered. -/
def rqDigests : Nat := 0x81
def rqCertificate : Nat := 0x82
def rqChallenge : Nat := 0x83
def rqVersion : Nat := 0x84
def rqMeasurements : Nat := 0xE0
def rqCapabilities : Nat := 0xE1
def rqAlgorithms : Nat := 0xE3
def rqKeyExchange : Nat := 0xE4
def rqFinish : Nat := 0xE5
def rqHeartbeat : Nat := 0xE8
def rqEndSession : Nat := 0xEC

/-- A response's header and body, version 1.3. -/
def spdmRsp (code p1 p2 : Nat) (body : List Byte) : List Byte := leBytes 1 0x13 ++ leBytes 1 code ++ leBytes 1 p1 ++ leBytes 1 p2 ++ body

/-- ERROR: InvalidRequest 1, Busy 3, UnexpectedRequest 4, DecryptError 6, UnsupportedRequest 7, VersionMismatch 0x41. -/
def spdmError (code data : Nat) : List Byte := spdmRsp 0x7F code data []

/-- A message's session and plain request: sealed under an open session's key, or not sealed. -/
def Sec.unwrapMsg (x : Sec) (msg : List Byte) : Option Session × List Byte :=
  match (x.sessions.find? fun y => y.id == argNat msg 0 4).bind fun y => (Config.secOpen y.key (msg.drop 4)).map fun b => (y, b) with
  | some (y, b) => (some y, b)
  | none => (none, msg)

def rqCode (msg : List Byte) : Nat := argNat msg 1 1

/-! ## Measurements (Table 13-2) -/

/-- The value of an index: the security state raw, or a digest, that of a running image over the whole of it (R291). -/
def Sec.measurement (x : Sec) (i : Nat) : List Byte :=
  if i = 6 then leBytes 8 x.state
  else if 2 ≤ i ∧ i ≤ 5 then leBytes 64 (((x.running.find? fun m => m.cls == i - 1).bind (·.dig)).getD (Config.digest i))
  else leBytes 64 (Config.digest i)

/-- The Alias key's seed, from the measurements that stay as they are until the next reset and the lifecycle (R292). -/
def Sec.aliasSeed (x : Sec) : List Byte :=
  shake256 (leBytes 32 Config.uds ++ ascii "ALIAS" ++ [1, 2, 3, 4, 5, 7].flatMap x.measurement ++ leBytes 1 (lifeCode x.life)) 32

/-- The key that signs attestation responses: Alias, and in RETIRED DeviceID (R292, R298). -/
def Sec.signSeed (x : Sec) : List Byte := if x.life = .retired then deviceSeed else x.aliasSeed

/-- A measurement block: index, DMTF form, size, type and value. -/
def Sec.block (x : Sec) (i : Nat) : List Byte :=
  let v := x.measurement i
  leBytes 1 i ++ leBytes 1 1 ++ leBytes 2 (v.length + 3) ++ leBytes 1 (Config.spdmField i) ++ leBytes 2 v.length ++ v

/-! ## Requests -/

/-- What answers in a lifecycle state and on a transport (R298, Table 13-7). -/
def Sec.answers (x : Sec) (code : Nat) : Bool := match x.life with
  | .blank => code == rqVersion || code == rqCapabilities
  | .retired => [rqVersion, rqCapabilities, rqAlgorithms, rqCertificate, rqMeasurements].contains code
  | _ => [rqDigests, rqCertificate, rqChallenge, rqVersion, rqMeasurements, rqCapabilities, rqAlgorithms, rqKeyExchange, rqFinish, rqHeartbeat, rqEndSession].contains code

/-- A signed body. -/
def Sec.sign (x : Sec) (body : List Byte) : List Byte := body ++ leBytes 3309 (Config.signature x.signSeed x.draws body)
def Sec.drew (x : Sec) (n : Nat) : Sec := { x with draws := x.draws + n }

/-- The entry of a vendor-defined algorithm: registry and vendor identifier in its low half, the algorithm above (R293; log entry 49). -/
def vendorEntry (alg : Nat) : Nat := Config.spdmField 0 % 65536 + 65536 * alg

/-- Extended entries of a message: `n` of four bytes from an offset. -/
def extEntries (msg : List Byte) (off n : Nat) : List Nat := (List.range n).map fun i => argNat msg (off + 4 * i) 4

/-- Does a request offer ML-DSA-65 and SHAKE256? -/
def offersOurs (msg : List Byte) : Bool :=
  let a := argNat msg 28 1
  let h := argNat msg 29 1
  (extEntries msg 32 a).contains (vendorEntry 1) && (extEntries msg (32 + 4 * a) h).contains (vendorEntry 2)

/-- The algorithm structures that follow, `n` of them: type, the fixed algorithms' bits, and the extended entries. -/
def algStructs : Nat → List Byte → List (Nat × Nat × List Nat)
  | 0, _ => []
  | n + 1, l =>
    let c := argNat l 1 1
    let e := 2 + c / 16
    (argNat l 0 1, argNat l 2 (c / 16), extEntries l e (c % 16)) :: algStructs n (l.drop (e + 4 * (c % 16)))

/-- Does a request offer ML-KEM-1024 in the place of DHE (type 2), and AES-256-GCM (type 3, bit 1)? -/
def offersSession (msg : List Byte) : Bool :=
  let l := algStructs (argNat msg 2 1) (msg.drop (32 + 4 * argNat msg 28 1 + 4 * argNat msg 29 1))
  l.any (fun x => x.1 == 2 && x.2.2.contains (vendorEntry 3)) && l.any fun x => x.1 == 3 && x.2.1.testBit 1

def doVersion (x : Sec) (_ : List Byte) : Sec × List Byte :=
  ({ x with negotiated := false }, leBytes 1 0x10 ++ leBytes 1 0x04 ++ leBytes 3 0 ++ leBytes 1 1 ++ leBytes 2 0x1300)

def doCapabilities (x : Sec) (_ : List Byte) : Sec × List Byte := (x, spdmRsp 0x61 0 0 (leBytes 16 (Config.spdmField 0x61)))

/-- NEGOTIATE_ALGORITHMS: ML-DSA-65, SHAKE256, ML-KEM-1024 and AES-256-GCM; a request that does not offer each of them is refused (R293; log
entry 9). -/
def doAlgorithms (x : Sec) (msg : List Byte) : Sec × List Byte :=
  if offersOurs msg && offersSession msg then
    ({ x with negotiated := true }, spdmRsp 0x63 2 0 (leBytes 2 56 ++ leBytes 6 (Config.spdmField 0x63) ++ leBytes 8 0 ++ leBytes 12 0 ++
      leBytes 1 1 ++ leBytes 1 1 ++ leBytes 2 0 ++ leBytes 4 (vendorEntry 1) ++ leBytes 4 (vendorEntry 2) ++
      leBytes 1 2 ++ leBytes 1 0x21 ++ leBytes 2 0 ++ leBytes 4 (vendorEntry 3) ++ leBytes 1 3 ++ leBytes 1 0x20 ++ leBytes 2 2))
  else (x, spdmError 7 rqAlgorithms)

/-- The certificate chain of slot 0: vendor CA, DeviceID, and but in RETIRED Alias (R292, R293). -/
def Sec.certs (x : Sec) : List Byte :=
  Config.vendorCert ++ Config.deviceCert ++ (if x.life = .retired then [] else Config.aliasCert (Config.dsaPublic x.aliasSeed) ([1, 2, 3, 4, 5, 7].flatMap x.measurement))

def doDigests (x : Sec) (_ : List Byte) : Sec × List Byte := (x, spdmRsp 0x01 1 1 (shake256 x.certs 64))

def doCertificate (x : Sec) (msg : List Byte) : Sec × List Byte :=
  let l := x.certs
  let off := argNat msg 4 2
  if argNat msg 2 1 % 16 ≠ 0 ∨ l.length < off then (x, spdmError 1 0)
  else
    let part := (l.drop off).take (argNat msg 6 2)
    (x, spdmRsp 0x02 0 0 (leBytes 2 part.length ++ leBytes 2 (l.length - off - part.length) ++ part))

def doChallenge (x : Sec) (msg : List Byte) : Sec × List Byte :=
  if argNat msg 2 1 ≠ 0 then (x, spdmError 1 0)
  else
    let sums := if argNat msg 3 1 = 0 then [] else shake256 ([1, 2, 3, 4, 5, 6, 7].flatMap x.block) 64
    (x.drew 2, x.sign (spdmRsp 0x03 0 1 (shake256 x.certs 64 ++ leBytes 32 (Config.random (x.draws + 1)) ++ sums ++ leBytes 2 0)))

/-- Indices that a GET_MEASUREMENTS asks for; in RETIRED index 6 only, and another is refused as unsupported (R298). -/
def Sec.indices (x : Sec) (i : Nat) : Option (List Nat) :=
  if x.life = .retired then (if i = 6 then some [6] else none) else if i = 0 then some [] else if i = 0xFF then some [1, 2, 3, 4, 5, 6, 7] else if i ≤ 7 then some [i] else none

def doMeasurements (x : Sec) (msg : List Byte) : Sec × List Byte :=
  match x.indices (argNat msg 3 1) with
  | none => (x, if x.life = .retired then spdmError 7 rqMeasurements else spdmError 1 0)
  | some l =>
    let rec_ := l.flatMap x.block
    let body := spdmRsp 0x60 (if argNat msg 3 1 = 0 then 7 else 0) 0 (leBytes 1 l.length ++ leBytes 3 rec_.length ++ rec_ ++ leBytes 32 (Config.random (x.draws + 1)) ++ leBytes 2 0)
    (x.drew 2, if argNat msg 2 1 % 2 = 1 then x.sign body else body)

/-- KEY_EXCHANGE: ML-KEM ciphertext back, and a session that FINISH opens; a ninth is Busy. -/
def doKeyExchange (via : Via) (x : Sec) (msg : List Byte) : Sec × List Byte :=
  if !x.negotiated then (x, spdmError 4 0)
  else if 8 ≤ x.sessions.length then (x, spdmError 3 0)
  else
    let kem := Config.kemEncap (argNat msg 40 1568) (Config.random x.draws)
    let own := x.draws % 65536
    let y : Session := ⟨argNat msg 4 2 + 65536 * own, via, Config.sessionKey kem.2 x.draws, false⟩
    let body := spdmRsp 0x64 0 0 (leBytes 2 own ++ leBytes 2 0 ++ leBytes 32 (Config.random (x.draws + 1)) ++ leBytes 1568 kem.1 ++ leBytes 2 0)
    ({ x.drew 2 with sessions := x.sessions ++ [y] }, x.sign body ++ leBytes 64 (Config.spdmField x.draws))

def doFinish (x : Sec) (y : Option Session) (msg : List Byte) : Sec × List Byte := match y with
  | none => (x, spdmError 4 0)
  | some y =>
    if Config.finishOk y.key msg then ({ x with sessions := x.sessions.map fun z => if z.id == y.id then { z with open_ := true } else z }, spdmRsp 0x65 0 0 []) else (x, spdmError 6 0)

def doSessionBeat (x : Sec) (y : Option Session) : Sec × List Byte := if y.any (·.open_) then (x, spdmRsp 0x68 0 0 []) else (x, spdmError 4 0)

def doEndSession (x : Sec) (y : Option Session) : Sec × List Byte := match y with
  | some y => ({ x with sessions := x.sessions.filter fun z => z.id != y.id }, spdmRsp 0x6C 0 0 [])
  | none => (x, spdmError 4 0)

/-- A plain request answered. -/
def Sec.respond (x : Sec) (via : Via) (y : Option Session) (msg : List Byte) : Sec × List Byte :=
  let c := rqCode msg
  if !x.answers c then (x, spdmError 7 c)
  else if c ≠ rqVersion ∧ argNat msg 0 1 ≠ 0x13 then (x, spdmError 0x41 0)
  else if c = rqVersion then doVersion x msg
  else if c = rqCapabilities then doCapabilities x msg
  else if c = rqAlgorithms then doAlgorithms x msg
  else if !x.negotiated then (x, spdmError 4 0)
  else if c = rqDigests then doDigests x msg
  else if c = rqCertificate then doCertificate x msg
  else if c = rqChallenge then doChallenge x msg
  else if c = rqMeasurements then doMeasurements x msg
  else if c = rqKeyExchange then doKeyExchange via x msg
  else if c = rqFinish then doFinish x y msg
  else if c = rqHeartbeat then doSessionBeat x y
  else doEndSession x y

/-- A message answered: what came sealed is answered sealed. -/
def Sec.spdm (x : Sec) (via : Via) (msg : List Byte) : Sec × List Byte :=
  let (y, b) := x.unwrapMsg msg
  let (t, r) := x.respond via y b
  match y with
  | some y => (t.drew 1, leBytes 4 y.id ++ Config.secSeal y.key t.draws r)
  | none => (t, r)

/-! ## Transports -/

def cmdSpdmMsg : Cmd := { op := 0x601, dev := true, limited := true }

def runSpdmMsg (m : Nat) (s : State) (_ : Nat) (args : List Byte) : Reply :=
  let (x, r) := s.sec.spdm (.mailbox m) args
  .give { s with sec := x } (r.take 16384)

def doSpdmMsg (m : Nat) (s : State) : State := s.command m cmdSpdmMsg (runSpdmMsg m)

def execSpdmMsg (m : Nat) (s : State) : Host.Outcome State Fault Refusal := answer (Instr.spdmMsg m).wf (doSpdmMsg m s)

/-- The request code of a message as it is when opened. -/
def State.msgCode (s : State) (msg : List Byte) : Nat := rqCode (s.sec.unwrapMsg msg).2

/-- Is the smith up for the sideband: row 6 or later, and no ROM recovery (R290, R380)? -/
def State.smithUp (s : State) : Bool := 6 ≤ s.power.row && !s.sec.romRecovery

/-- One SPDM request over its transport: the sideband answers where the smith is up, ERROR_NOT_READY before (R380) and nothing without standby;
in a mailbox it is the SPDM.MSG that holds it. -/
def State.spdmEvent (s : State) (via : Via) (msg : List Byte) (mine : Nat → Bool) : State :=
  if !mine (s.msgCode msg) then s
  else match via with
    | .mailbox m => if s.mbxArgs m = msg then doSpdmMsg m s else s
    | .sideband =>
      if !s.power.standby then s
      else if s.power.row < 6 then s.emit (.sideband 4 [])
      else if s.sec.romRecovery then s
      else let (x, r) := s.sec.spdm .sideband msg; ({ s with sec := x } : State).emit (.spdm .sideband r)

def spdmKnown : List Nat := [rqDigests, rqCertificate, rqChallenge, rqVersion, rqMeasurements, rqCapabilities, rqAlgorithms, rqKeyExchange, rqFinish, rqHeartbeat, rqEndSession]

def execGetVersion (via : Via) (msg : List Byte) (s : State) : Host.Outcome State Fault Refusal := answer (Instr.getVersion via msg).wf (s.spdmEvent via msg (· == rqVersion))
def execGetCapabilities (via : Via) (msg : List Byte) (s : State) : Host.Outcome State Fault Refusal :=
  answer (Instr.getCapabilities via msg).wf (s.spdmEvent via msg (· == rqCapabilities))
def execNegotiateAlgorithms (via : Via) (msg : List Byte) (s : State) : Host.Outcome State Fault Refusal :=
  answer (Instr.negotiateAlgorithms via msg).wf (s.spdmEvent via msg (· == rqAlgorithms))
def execGetDigests (via : Via) (msg : List Byte) (s : State) : Host.Outcome State Fault Refusal := answer (Instr.getDigests via msg).wf (s.spdmEvent via msg (· == rqDigests))
def execGetCertificate (via : Via) (msg : List Byte) (s : State) : Host.Outcome State Fault Refusal :=
  answer (Instr.getCertificate via msg).wf (s.spdmEvent via msg (· == rqCertificate))
def execChallenge (via : Via) (msg : List Byte) (s : State) : Host.Outcome State Fault Refusal := answer (Instr.challenge via msg).wf (s.spdmEvent via msg (· == rqChallenge))
def execGetMeasurements (via : Via) (msg : List Byte) (s : State) : Host.Outcome State Fault Refusal :=
  answer (Instr.getMeasurements via msg).wf (s.spdmEvent via msg (· == rqMeasurements))
def execKeyExchange (via : Via) (msg : List Byte) (s : State) : Host.Outcome State Fault Refusal :=
  answer (Instr.keyExchange via msg).wf (s.spdmEvent via msg (· == rqKeyExchange))
def execFinish (via : Via) (msg : List Byte) (s : State) : Host.Outcome State Fault Refusal := answer (Instr.finish via msg).wf (s.spdmEvent via msg (· == rqFinish))
def execSpdmHeartbeat (via : Via) (msg : List Byte) (s : State) : Host.Outcome State Fault Refusal :=
  answer (Instr.spdmHeartbeat via msg).wf (s.spdmEvent via msg (· == rqHeartbeat))
def execEndSession (via : Via) (msg : List Byte) (s : State) : Host.Outcome State Fault Refusal := answer (Instr.endSession via msg).wf (s.spdmEvent via msg (· == rqEndSession))
def execSpdmUnsupportedRequest (via : Via) (msg : List Byte) (s : State) : Host.Outcome State Fault Refusal :=
  answer (Instr.spdmUnsupportedRequest via msg).wf (s.spdmEvent via msg fun c => !spdmKnown.contains c)

end Sys2Proof.Machine
end

