-- ==== Sys2Proof/Machine/SecCmds.lean ====
section
/-! DEFINITION. Firmware update, lifecycle and debug (R296-R301, Tables 13-5 to 13-7). -/

namespace Sys2Proof.Machine

/-! ## FW.STAGE, FW.COMMIT (R296) -/

def cmdFwStage : Cmd := { op := 0x602, dev := true, limited := true, zeros := (2, 4) }
def cmdFwCommit : Cmd := { op := 0x603, dev := true, limited := true, len := some 1 }

/-- The bank not booted without its image of a class: written over, or erased. -/
def Sec.erase (x : Sec) (cls : Nat) : Sec := { x with images := updAt x.images (b01 !x.bank) fun l => l.filter fun i => i.cls != cls }

/-- Image bytes between the header and the signature. -/
def imageBody (l : List Byte) : List Byte := (l.drop 64).take (l.length - 64 - 3309)

/-- Does an image verify as rows 2 to 4 of Table 13-1 verify it: its length, the digest of the key that it presents, and the signature that follows
header and body, under the context of an image or of a manifest (class 4) (R289, R290, R294)? -/
def imageGood (cls : Nat) (l : List Byte) : Bool :=
  let n := l.length - 3309
  Config.imageForm l && Config.imageKey (l.take 64) == Config.vfkDigest && Config.verify (if cls = 4 then 2 else 1) Config.vfkDigest (l.take n) (l.drop n)

/-- A complete image of a class verified: kept in the bank not booted; REJECTED where it fails, DENIED below its class's counter. -/
def Sec.complete (x : Sec) (cls : Nat) (l : List Byte) : Sec × Nat :=
  let (c, ver, svn) := Config.imageFields l
  let x := { x.erase cls with staging := none, stagePart := [] }
  if c ≠ cls ∨ !imageGood cls l then (x, stREJECTED)
  else if svn < x.arb.getD (cls - 1) 0 then (x, stDENIED)
  else ({ x with images := updAt x.images (b01 !x.bank) fun k => k ++ [⟨cls, ver, svn, true, if cls = 4 then imageBody l else [], some (leNat (shake256 l 64))⟩] }, stOK)

/-- One piece: at offset 0 it starts an image of its class, else it goes on where the last piece of that class ended. -/
def Sec.stage (x : Sec) (cls off : Nat) (last : Bool) (piece : List Byte) : Option (Sec × Nat) :=
  if off ≠ 0 ∧ (x.staging ≠ some cls ∨ off ≠ x.stagePart.length) then none
  else
    let l := (if off = 0 then [] else x.stagePart) ++ piece
    let x := { x.erase cls with staging := some cls, stagePart := l }
    some (if last then x.complete cls l else (x, stOK))

def runFwStage (s : State) (_ : Nat) (args : List Byte) : Reply :=
  let cls := argNat args 0 1
  if args.length < 8 then .rejected s 0xFFFF
  else if cls = 0 ∨ 4 < cls then .rejected s 0
  else if 1 < argNat args 1 1 then .rejected s 1
  else match s.sec.stage cls (argNat args 4 4) (argNat args 1 1 == 1) (args.drop 8) with
    | none => .rejected s 4
    | some (x, st) => .done { s with sec := x } st [] 0xFFFF

def execFwStage (m : Nat) (s : State) : Host.Outcome State Fault Refusal := answer (Instr.fwStage m).wf (s.command m cmdFwStage runFwStage)

/-- The bank not booted becomes preferred; with raise = 1 each counter takes its class's SVN. -/
def Sec.commit (x : Sec) (raise : Bool) : Sec :=
  let l := x.bankOf !x.bank
  { x with prefBank := !x.bank, arb := if raise then [1, 2, 3, 4].map fun c => ((l.find? fun i => i.cls == c).map (·.svn)).getD 0 else x.arb }

/-- FW.COMMIT's status, and the state that it leaves. While an image is being staged its class is missing from the bank: that answers BUSY, not
REJECTED. A write that the hold-up check defers is recorded (R363; log entry 111). -/
def State.fwCommit (s : State) (raise : Bool) : Nat × State :=
  if s.sec.staging.isSome then (stBUSY, s)
  else if !([1, 2, 3, 4].all fun c => (s.sec.bankOf !s.sec.bank).any fun i => i.cls == c && i.ok) then (stREJECTED, s)
  else if !s.canStore .counters then (stBUSY, s.deferRec .counters)
  else (stOK, s.modSec fun x => x.commit raise)

def runFwCommit (s : State) (_ : Nat) (args : List Byte) : Reply :=
  if 1 < argNat args 0 1 then .rejected s 0 else let (st, t) := s.fwCommit (argNat args 0 1 == 1); .done t st [] 0xFFFF

def execFwCommit (m : Nat) (s : State) : Host.Outcome State Fault Refusal := answer (Instr.fwCommit m).wf (s.command m cmdFwCommit runFwCommit)

/-! ## DEBUG.NONCE, DEBUG.ENTER, DEBUG.EXIT (R299-R301) -/

def cmdDebugNonce : Cmd := { op := 0x605, dev := true, limited := true, len := some 0 }
def cmdDebugEnter : Cmd := { op := 0x606, dev := true, limited := true, len := some 3405 }
def cmdDebugExit : Cmd := { op := 0x607, dev := true, limited := true, len := some 0 }

def nonceTicks : Nat := 6000000000

/-- A fresh nonce replaces the one held. -/
def runDebugNonce (s : State) (_ : Nat) (_ : List Byte) : Reply :=
  let v := Config.random s.sec.draws % 2 ^ 256
  .give (s.modSec fun x => { x.drew 1 with nonce := some (v, s.tick) }) (leBytes 32 v)

def execDebugNonce (m : Nat) (s : State) : Host.Outcome State Fault Refusal := answer (Instr.debugNonce m).wf (s.command m cmdDebugNonce runDebugNonce)

/-- Does the module hold a nonce, not lapsed? -/
def State.nonceIs (s : State) (v : Nat) : Bool := s.sec.nonce.any fun n => n.1 == v && decide (s.tick < n.2 + nonceTicks)

def doDebugNonceExpiry (s : State) : State :=
  if s.sec.nonce.any fun n => decide (n.2 + nonceTicks ≤ s.tick) then s.modSec fun x => { x with nonce := none } else s

def execDebugNonceExpiry (s : State) : Host.Outcome State Fault Refusal := answer true (doDebugNonceExpiry s)

/-! `DEBUG_TOKEN` (Table 13-6) -/
def dtLevel (t : Nat) : Nat := bits t 727 726
def dtMask (t : Nat) : Nat := bits t 725 721
def dtSigner (t : Nat) : Nat := bits t 720 719
def dtUid (t : Nat) : Nat := bits t 511 256
def dtNonce (t : Nat) : Nat := bits t 255 0

/-- The first faulty field of a token. -/
def tokenBad (t : Nat) : Option Nat :=
  firstBad [(512, bits t 718 512 == 0), (719, dtSigner t ≤ 1), (726, dtLevel t == 1 || dtLevel t == 2), (728, bits t 735 728 == 1), (736, bits t 767 736 == 0x4B544244)]

/-- Digest held of the key that signs for a signer, the vendor's or the owner's (R289). -/
def Sec.keyOf (x : Sec) (signer : Nat) : Nat := if signer = 0 then Config.vdkDigest else x.odk

/-- Is a debug token accepted (R299)? -/
def State.tokenOk (s : State) (t : Nat) (token sig : List Byte) : Bool :=
  let x := s.sec
  (match x.life with
    | .provisioned => dtSigner t == 0
    | .returned => dtSigner t == 0
    | .operational => dtSigner t == 1
    | _ => false) &&
  dtUid t == deviceUid && s.nonceIs (dtNonce t) && (dtMask t).testBit (lifeCode x.life) && decide (x.level < dtLevel t) && Config.verify 3 (x.keyOf (dtSigner t)) token sig

/-- The level rises; D2 in OPERATIONAL through its fill (R301). -/
def State.raiseLevel (s : State) (level : Nat) : State :=
  let s := s.modSec fun x => { x with nonce := none }
  if level = 2 ∧ s.sec.life = .operational then (s.modSec fun x => { x with sessions := [], debugged := true, fill := some true }).zeroSlots (List.range 512)
  else s.modSec fun x => { x with debug := level }

def runDebugEnter (s : State) (_ : Nat) (args : List Byte) : Reply :=
  let t := argNat args 0 96
  match tokenBad t with
  | some off => .rejected s off
  | none =>
    if !s.tokenOk t (args.take 96) (args.drop 96) then .denied ((s.modSec fun x => { x with nonce := none }).raise { recDev sevDef 0xA0 with resClass := 13, resIndex := 1 })
    else if dtLevel t = 2 ∧ s.sec.life = .operational ∧ (!s.allFree ∨ s.power.pstate = .p2 ∨ s.power.pstate = .p3) then .busy s
    else .ok (s.raiseLevel (dtLevel t))

def execDebugEnter (m : Nat) (s : State) : Host.Outcome State Fault Refusal := answer (Instr.debugEnter m).wf (s.command m cmdDebugEnter runDebugEnter)

/-- Bytes and marks of HBM and crucible zeroed (log entry 51). -/
def State.zeroMemory (s : State) : State := { s with mem := s.mem.filter (fun c => 3 * 2 ^ 41 ≤ c.1), marks := s.marks.filter fun k => 3 * 2 ^ 41 ≤ 64 * k }

/-- The fill ends and D2 opens. -/
def doDebugFillDone (s : State) : State := if s.sec.fill.isSome then s.zeroMemory.modSec fun x => { x with fill := none, debug := 2 } else s

def execDebugFillDone (s : State) : Host.Outcome State Fault Refusal := answer true (doDebugFillDone s)

/-- DEBUG.EXIT: D0 from any level; a fill under way ends. BLANK stays at D2. -/
def runDebugExit (s : State) (_ : Nat) (_ : List Byte) : Reply := .ok (s.modSec fun x => { x with debug := 0, fill := none })

def execDebugExit (m : Nat) (s : State) : Host.Outcome State Fault Refusal := answer (Instr.debugExit m).wf (s.command m cmdDebugExit runDebugExit)

/-! ## LC.ADVANCE (R297, Table 13-5). The token's form is the model's (log entry 50): target, signer, DeviceID digest, nonce, ODK digest -/

def cmdLcAdvance : Cmd := { op := 0x604, dev := true, len := some 3437 }

def lcTarget (t : Nat) : Nat := bits t 7 0
def lcSigner (t : Nat) : Nat := bits t 15 8
def lcUid (t : Nat) : Nat := bits t 511 256
def lcNonce (t : Nat) : Nat := bits t 767 512
def lcOdk (t : Nat) : Nat := bits t 1023 768

def lifeOf (n : Nat) : Option Life := if n = 0 then some .blank else if n = 1 then some .provisioned else if n = 2 then some .operational else if n = 3 then some .returned else if n = 4 then some .retired else none

/-- Is a transition one of Table 13-5, under its signer: 0 VDK, 1 ODK? -/
def transitionOk (from_ dest : Life) (signer returns : Nat) : Bool := match from_, dest with
  | .blank, .provisioned => signer == 0
  | .provisioned, .operational => signer == 0
  | .operational, .returned => signer == 1
  | .returned, .provisioned => signer == 0 && returns < 2
  | .retired, _ => false
  | .operational, .retired => signer ≤ 1
  | _, .retired => signer == 0
  | _, _ => false

/-- The wipe of a transition. -/
def State.wipe (s : State) (dest : Life) : State := match dest with
  | .returned => ((s.zeroSlots (List.range 512)).zeroMemory).modSec fun x => { x with odk := 0 }
  | .retired => ((s.zeroSlots (List.range 512)).zeroMemory).modSec fun x => { x with odk := 0, images := [[], []] }
  | _ => s

/-- Fuse count and flash copy, and what each transition stores. -/
def Sec.advance (x : Sec) (dest : Life) (odk : Nat) : Sec :=
  let back := x.life == .returned && dest == .provisioned
  { x with life := dest, lifeCopies := copies3 dest, nonce := none, returns := x.returns + b01 back, odk := if dest = .operational then odk else 0, chain := if dest = .provisioned then 1 else x.chain }

def runLcAdvance (s : State) (_ : Nat) (args : List Byte) : Reply :=
  let t := argNat args 0 128
  match lifeOf (lcTarget t) with
  | none => .rejected s 0
  | some dest =>
    if 1 < lcSigner t then .rejected s 1
    else if bits t 255 16 ≠ 0 then .rejected s 2
    else if !(transitionOk s.sec.life dest (lcSigner t) s.sec.returns && lcUid t == deviceUid && s.nonceIs (lcNonce t) &&
        Config.verify 4 (s.sec.keyOf (lcSigner t)) (args.take 128) (args.drop 128)) then .denied s
    else if s.parts.any Part.busy then .busy s
    else if !s.canStore .lifecycle then .busy (s.deferRec .lifecycle)
    else .keep (((s.wipe dest).modSec fun x => x.advance dest (lcOdk t)).moduleReset true)

def execLcAdvance (m : Nat) (s : State) : Host.Outcome State Fault Refusal := answer (Instr.lcAdvance m).wf (s.command m cmdLcAdvance runLcAdvance)

end Sys2Proof.Machine
end

