-- ==== Sys2Proof/Machine/Sideband.lean ====
section
/-! DEFINITION. The sideband's MCTP and PLDM messages (R352, R378-R380, Tables 15-15 and 15-16). An answer is its completion code and the data
that the manual names; forms and codes that the manual leaves to the DMTF standards are PRESUMED (log entries 9, 52). -/

namespace Sys2Proof.Machine

/-! ## What answers -/

/-- Groups of Table 15-15: MCTP control, PLDM types 0 and 4, what of type 2 answers in P4, type 5, and the rest. -/
inductive SbKind where
  | mctp | base | watch | update | rest
  deriving DecidableEq, Repr

/-- Completion code of a message by its group: none without standby power, 0 where it is answered. -/
def State.sbGate (s : State) (k : SbKind) : Option Nat :=
  if !s.power.standby then none
  else if k = .mctp then some 0
  else if s.power.row < 6 then some (if k = .base ∨ k = .watch ∨ (k = .update ∧ s.power.loopStop) then 0 else 4)
  else if s.sec.life = .retired then some (if k = .base then 0 else 5)
  else if s.sec.romRecovery then some (if k = .update then 0 else 5)
  else some 0

/-- A message handled, and its answer sent. -/
def State.sb (s : State) (k : SbKind) (f : State → State × Nat × List Byte) : State :=
  match s.sbGate k with
  | none => s
  | some 0 => let (t, cc, data) := f s; t.emit (.sideband cc data)
  | some cc => s.emit (.sideband cc [])

/-- A message that only reads. -/
def State.sbRead (s : State) (k : SbKind) (cc : Nat) (data : List Byte) : State := s.sb k fun t => (t, cc, data)

/-! ## MCTP control -/

/-- The null, reserved and broadcast endpoint IDs are refused. -/
def eidOk (e : Nat) : Bool := 8 ≤ e && e < 255

def doSetEndpointId (eid : Nat) (s : State) : State :=
  s.sb .mctp fun s => if eidOk eid then (s.modSide fun x => { x with eid := eid }, 0, leBytes 1 0 ++ leBytes 1 eid ++ leBytes 1 0) else (s, 2, [])

def execSetEndpointId (eid : Nat) (s : State) : Host.Outcome State Fault Refusal := answer true (doSetEndpointId eid s)

def execGetEndpointId (s : State) : Host.Outcome State Fault Refusal := answer true (s.sbRead .mctp 0 (leBytes 1 s.side.eid ++ leBytes 2 0))

/-- What the manual does not give of a message is free: 16 bytes of it by message. -/
def sbOpen (msg k : Nat) : List Byte := leBytes 16 (Config.sideData msg k)

def execGetEndpointUuid (s : State) : Host.Outcome State Fault Refusal := answer true (s.sbRead .mctp 0 (sbOpen 3 0))

def execGetMctpVersionSupport (s : State) : Host.Outcome State Fault Refusal := answer true (s.sbRead .mctp 0 (sbOpen 4 0))

/-- PLDM, SPDM and secured messages. -/
def execGetMessageTypeSupport (s : State) : Host.Outcome State Fault Refusal := answer true (s.sbRead .mctp 0 (leBytes 1 3 ++ leBytes 1 1 ++ leBytes 1 5 ++ leBytes 1 6))

/-! ## PLDM type 0 -/

def tidOk (t : Nat) : Bool := 0 < t && t < 255

def doSetTid (tid : Nat) (s : State) : State := s.sb .base fun s => if tidOk tid then (s.modSide fun x => { x with tid := tid }, 0, []) else (s, 2, [])

def execSetTid (tid : Nat) (s : State) : Host.Outcome State Fault Refusal := answer true (doSetTid tid s)

def execGetTid (s : State) : Host.Outcome State Fault Refusal := answer true (s.sbRead .base 0 (leBytes 1 s.side.tid))

def execGetPldmVersion (s : State) : Host.Outcome State Fault Refusal := answer true (s.sbRead .base 0 (sbOpen 0x103 0))

/-- Types 0, 2, 4, 5 and 63. -/
def pldmTypes : Nat := 2 ^ 0 + 2 ^ 2 + 2 ^ 4 + 2 ^ 5 + 2 ^ 63

def execGetPldmTypes (s : State) : Host.Outcome State Fault Refusal := answer true (s.sbRead .base 0 (leBytes 8 pldmTypes))

def execGetPldmCommands (s : State) : Host.Outcome State Fault Refusal := answer true (s.sbRead .base 0 (sbOpen 0x105 0))

/-! ## PLDM type 2: sensors and effecters -/

def execGetPdrRepositoryInfo (s : State) : Host.Outcome State Fault Refusal := answer true (s.sbRead .watch 0 (sbOpen 0x250 0))

def execGetPdr (record : Nat) (s : State) : Host.Outcome State Fault Refusal := answer true (s.sbRead .watch 0 (sbOpen 0x251 record))

/-- Is it a numeric sensor of R352? -/
def isNumeric (id : Nat) : Bool := (1 ≤ id && id ≤ 5) || isSensor id

/-- Operational states: 0 enabled, 2 unavailable, 4 failed. -/
def opOn : Nat := 0
def opAway : Nat := 2
def opFailed : Nat := 4

/-- Is only the standby controller there: P4, and rows 1 to 5 (R379)? -/
def State.inStandby (s : State) : Bool := decide (s.power.row < 6)

/-- A numeric sensor in whole units: operational state and reading. The standby controller reads 0x0001 to 0x0004 only, current and power
as it measures them, which nothing gives (free). -/
def State.numeric (s : State) (id : Nat) : Nat × Int :=
  if 0x100 ≤ id then
    (if s.inStandby then (opAway, 0) else match s.power.temps.find? fun x => x.1 == id with
      | some (_, some t) => (opOn, t)
      | some (_, none) => (opFailed, 0)
      | none => (opAway, 0))
  else if id = 1 then (opOn, (s.power.millivolts / 1000 : Nat))
  else if id = 4 then (opOn, (s.holdMj / 1000 : Nat))
  else if id = 5 then (if s.inStandby then (opAway, 0) else (opOn, s.capNow))
  else if s.inStandby then (opOn, Config.sideData (0x21100 + id) s.free)
  else if id = 3 then (opOn, s.power.blade)
  else (opOn, (if s.power.millivolts = 0 then 0 else s.power.blade * 1000 / s.power.millivolts : Nat))

/-- A reading as 4 bytes, two's complement. -/
def readingBytes (v : Int) : List Byte := leBytes 4 (v.emod (2 ^ 32)).toNat

def doGetSensorReading (id : Nat) (s : State) : State :=
  s.sb .watch fun s =>
    if !isNumeric id then (s, 0x80, [])
    else let r := s.numeric id; ({ s with free := s.free + 1 }, 0, leBytes 1 r.1 ++ readingBytes r.2)

def execGetSensorReading (sensor : Nat) (s : State) : Host.Outcome State Fault Refusal := answer true (doGetSensorReading sensor s)

def pstateCode : PState → Nat
  | .p0 => 0
  | .p1 => 1
  | .p2 => 2
  | .p3 => 3
  | .p4 => 4

/-- State sensors; in standby 0x0200 reads the records held there and 0x0201 P4 (R380). -/
def State.stateSensor (s : State) (id : Nat) : Option Nat :=
  if id = 0x200 then some (if s.inStandby then s.side.held.foldl (fun m r => max m r.sev) 0 else s.hub.worstOpen)
  else if id = 0x201 then some (if s.inStandby then 4 else pstateCode s.power.pstate)
  else if id = 0x202 then some (lifeCode s.sec.life)
  else none

def doGetStateSensorReadings (id : Nat) (s : State) : State :=
  s.sb .watch fun s => match s.stateSensor id with
    | some v => (s, 0, leBytes 1 opOn ++ leBytes 1 v)
    | none => (s, 0x80, [])

def execGetStateSensorReadings (sensor : Nat) (s : State) : Host.Outcome State Fault Refusal := answer true (doGetStateSensorReadings sensor s)

/-- In standby only effecter 0x0400 is set and read. -/
def capKind (id : Nat) : SbKind := if id = 0x400 then .watch else .rest

def doSetNumericEffecterValue (id v : Nat) (s : State) : State :=
  s.sb (capKind id) fun s => if id ≠ 0x400 then (s, 0x80, []) else if capOk v then (s.modSide fun x => { x with capEffecter := v }, 0, []) else (s, 2, [])

def execSetNumericEffecterValue (effecter value : Nat) (s : State) : Host.Outcome State Fault Refusal := answer true (doSetNumericEffecterValue effecter value s)

def execGetNumericEffecterValue (effecter : Nat) (s : State) : Host.Outcome State Fault Refusal :=
  answer true (s.sbRead (capKind effecter) (if effecter = 0x400 then 0 else 0x80) (if effecter = 0x400 then leBytes 1 opOn ++ leBytes 2 s.side.capEffecter else []))

/-- The power-state effecter acts as POWER.STATE (R371); what that refuses as BUSY is ERROR_NOT_READY. -/
def doSetStateEffecterStates (id t : Nat) (s : State) : State :=
  s.sb .rest fun s =>
    if id ≠ 0x401 then (s, 0x80, [])
    else if 3 < t then (s, 2, [])
    else if s.targetBusy t then (s, 4, [])
    else (if t = 2 ∧ s.power.pstate ≠ .p2 then (s.setTarget t).holdP2 else s.setTarget t, 0, [])

def execSetStateEffecterStates (effecter state : Nat) (s : State) : Host.Outcome State Fault Refusal := answer true (doSetStateEffecterStates effecter state s)

/-- Pending and present state. -/
def execGetStateEffecterStates (effecter : Nat) (s : State) : Host.Outcome State Fault Refusal :=
  answer true (s.sbRead .rest (if effecter = 0x401 then 0 else 0x80) (if effecter = 0x401 then leBytes 1 opOn ++ leBytes 1 s.power.target ++ leBytes 1 (pstateCode s.power.pstate) else []))

/-! ## PLDM type 4 -/

/-- The FRU record: part number, serial, hardware revision, MAC base, and the latched SLOT_ID (R352, R358). -/
def State.fru (s : State) : List Byte :=
  ascii "PLY-DX40-C1" ++ leBytes 16 Config.serial ++ leBytes 2 hwRev ++ beBytes 6 Config.macBase ++ leBytes 1 s.power.straps

def execGetFruRecordTableMetadata (s : State) : Host.Outcome State Fault Refusal := answer true (s.sbRead .base 0 (sbOpen 0x401 0))

def execGetFruRecordTable (s : State) : Host.Outcome State Fault Refusal := answer true (s.sbRead .base 0 s.fru)

/-! ## PLDM type 5 -/

/-- The completion code of a mailbox status. -/
def ccOf (st : Nat) : Nat := if st = stOK then 0 else if st = stBUSY then 4 else 2

/-- A piece of a component, staged as FW.STAGE stages it. -/
def doPldmFirmwareUpdate (component : Nat) (last : Bool) (offset : Nat) (piece : List Byte) (s : State) : State :=
  s.sb .update fun s =>
    if component = 0 ∨ 4 < component then (s, 2, [])
    else match s.sec.stage component offset last piece with
      | none => (s, 2, [])
      | some (x, st) => ({ s with sec := x }, ccOf st, [])

def execPldmFirmwareUpdate (component : Nat) (last : Bool) (offset : Nat) (piece : List Byte) (s : State) : Host.Outcome State Fault Refusal :=
  answer true (doPldmFirmwareUpdate component last offset piece s)

def doActivateFirmware (s : State) : State := s.sb .update fun s => let (st, t) := s.fwCommit false; (t, ccOf st, [])

def execActivateFirmware (s : State) : Host.Outcome State Fault Refusal := answer true (doActivateFirmware s)

/-! ## OEM commands (R214, Table 15-16) -/

/-- Do the fields fit the command's data? -/
def netIdFits (planes : List Nat) (locator port : Nat) : Bool := planes.length == 8 && planes.all (· < 2 ^ 64) && locator < 2 ^ 32 && port < 2 ^ 16

def doSetNetId (planes : List Nat) (locator port : Nat) (s : State) : State :=
  s.sb .rest fun s =>
    if s.parts.any (·.job.isSome) then (s, 4, [])
    else if locator = 0 ∨ port = 0 then (s, 2, [])
    else if !netIdFits planes locator port then (s, 3, [])
    else (s.modNet fun n => { n with planes := planes, locator := locator, udpPort := port }, 0, [])

def execSetNetId (planes : List Nat) (locator port : Nat) (s : State) : Host.Outcome State Fault Refusal := answer true (doSetNetId planes locator port s)

def execGetNetId (s : State) : Host.Outcome State Fault Refusal :=
  answer true (s.sbRead .rest 0 ((List.range 8).flatMap (fun k => beBytes 8 (s.net.planes.getD k 0)) ++ leBytes 4 s.net.locator ++ leBytes 2 s.net.udpPort))

/-- The error state for every queue pair whose source no longer matches. -/
def State.dropHosts (s : State) : State :=
  s.each (List.range 64) fun s k => if (s.qp k).st = 1 ∧ !s.net.allow.any (allowMatch (s.qp k).source) then s.qpError k else s

def doSetHostAllow (entries : List (Nat × Nat)) (s : State) : State :=
  s.sb .rest fun s =>
    if 16 < entries.length ∨ entries.any fun e => e.2 != 64 && e.2 != 128 then (s, 2, [])
    else if entries.any fun e => 2 ^ 128 ≤ e.1 then (s, 3, [])
    else ((s.modNet fun n => { n with allow := entries }).dropHosts, 0, [])

def execSetHostAllow (entries : List (Nat × Nat)) (s : State) : Host.Outcome State Fault Refusal := answer true (doSetHostAllow entries s)

def execGetHostAllow (s : State) : Host.Outcome State Fault Refusal :=
  answer true (s.sbRead .rest 0 (leBytes 1 s.net.allow.length ++ s.net.allow.flatMap fun e => beBytes 16 e.1 ++ leBytes 1 e.2))

/-! ## Every other message -/

/-- An MCTP control message draws its error; a PLDM command ERROR_UNSUPPORTED_PLDM_CMD, or ERROR_NOT_READY in standby. -/
def doPldmUnsupportedCmd (mctp : Bool) (s : State) : State := s.sbRead (if mctp then .mctp else .rest) 5 []

def execPldmUnsupportedCmd (mctp : Bool) (s : State) : Host.Outcome State Fault Refusal := answer true (doPldmUnsupportedCmd mctp s)

end Sys2Proof.Machine
end

