-- ==== Sys2Proof/Machine/Dispatch.lean ====
section
/-! DEFINITION. One arm per command: its meaning, or its rejection by name. -/

namespace Sys2Proof.Machine

def exec (i : Instr) (s : State) : Host.Outcome State Fault Refusal :=
  match i with
  | .mbxOwnWrite qp m v => Sys2Proof.Machine.execMbxOwnWrite qp m v s
  | .registerWrite qp off data => Sys2Proof.Machine.execRegisterWrite qp off data s
  | .apertureWrite qp p x data => Sys2Proof.Machine.execApertureWrite qp p x data s
  | .unitQuery m => Sys2Proof.Machine.execUnitQuery m s
  | .idAssign m => Sys2Proof.Machine.execIdAssign m s
  | .partCreate m => Sys2Proof.Machine.execPartCreate m s
  | .scrubConfig m => Sys2Proof.Machine.execScrubConfig m s
  | .jobLoad m => Sys2Proof.Machine.execJobLoad m s
  | .jobStart m => Sys2Proof.Machine.execJobStart m s
  | .jobStop m => Sys2Proof.Machine.execJobStop m s
  | .accSet m => Sys2Proof.Machine.execAccSet m s
  | .inputPost m => Sys2Proof.Machine.execInputPost m s
  | .apertureSet m => Sys2Proof.Machine.execApertureSet m s
  | .memSend m => Sys2Proof.Machine.execMemSend m s
  | .jobUnload m => Sys2Proof.Machine.execJobUnload m s
  | .portConfig m => Sys2Proof.Machine.execPortConfig m s
  | .hostTarget m => Sys2Proof.Machine.execHostTarget m s
  | .routeLoad m => Sys2Proof.Machine.execRouteLoad m s
  | .spareAssume m => Sys2Proof.Machine.execSpareAssume m s
  | .roundConfig m => Sys2Proof.Machine.execRoundConfig m s
  | .layoutSet m => Sys2Proof.Machine.execLayoutSet m s
  | .layoutSetForced m => Sys2Proof.Machine.execLayoutSetForced m s
  | .ingotEmit m => Sys2Proof.Machine.execIngotEmit m s
  | .keyInstall m => Sys2Proof.Machine.execKeyInstall m s
  | .keyZero m => Sys2Proof.Machine.execKeyZero m s
  | .keyStatus m => Sys2Proof.Machine.execKeyStatus m s
  | .keyOffer m => Sys2Proof.Machine.execKeyOffer m s
  | .keyWrap m => Sys2Proof.Machine.execKeyWrap m s
  | .keyUnwrap m => Sys2Proof.Machine.execKeyUnwrap m s
  | .spdmMsg m => Sys2Proof.Machine.execSpdmMsg m s
  | .fwStage m => Sys2Proof.Machine.execFwStage m s
  | .fwCommit m => Sys2Proof.Machine.execFwCommit m s
  | .lcAdvance m => Sys2Proof.Machine.execLcAdvance m s
  | .debugNonce m => Sys2Proof.Machine.execDebugNonce m s
  | .debugEnter m => Sys2Proof.Machine.execDebugEnter m s
  | .debugExit m => Sys2Proof.Machine.execDebugExit m s
  | .telemConfig m => Sys2Proof.Machine.execTelemConfig m s
  | .faultAck m => Sys2Proof.Machine.execFaultAck m s
  | .powerCap m => Sys2Proof.Machine.execPowerCap m s
  | .powerState m => Sys2Proof.Machine.execPowerState m s
  | .ctrlNop p t => Sys2Proof.Machine.execCtrlNop p t s
  | .loopBegin p t => Sys2Proof.Machine.execLoopBegin p t s
  | .loopEnd p t => Sys2Proof.Machine.execLoopEnd p t s
  | .groupBegin p t => Sys2Proof.Machine.execGroupBegin p t s
  | .blockEnd p t => Sys2Proof.Machine.execBlockEnd p t s
  | .readyBlockSelect p t => Sys2Proof.Machine.execReadyBlockSelect p t s
  | .passEnd p t => Sys2Proof.Machine.execPassEnd p t s
  | .stepEnd p t => Sys2Proof.Machine.execStepEnd p t s
  | .hearthPass p t => Sys2Proof.Machine.execHearthPass p t s
  | .temperRunInsn p t => Sys2Proof.Machine.execTemperRunInsn p t s
  | .copy p t => Sys2Proof.Machine.execCopy p t s
  | .tongsGather p t => Sys2Proof.Machine.execTongsGather p t s
  | .fill p t => Sys2Proof.Machine.execFill p t s
  | .prefetch p t => Sys2Proof.Machine.execPrefetch p t s
  | .evict p t => Sys2Proof.Machine.execEvict p t s
  | .reduce p t => Sys2Proof.Machine.execReduce p t s
  | .collGather p t => Sys2Proof.Machine.execCollGather p t s
  | .collFlag p t => Sys2Proof.Machine.execCollFlag p t s
  | .commit p t => Sys2Proof.Machine.execCommit p t s
  | .push p t => Sys2Proof.Machine.execPush p t s
  | .pop p t => Sys2Proof.Machine.execPop p t s
  | .release p t => Sys2Proof.Machine.execRelease p t s
  | .track p t => Sys2Proof.Machine.execTrack p t s
  | .sample p t => Sys2Proof.Machine.execSample p t s
  | .scaleFlag p t => Sys2Proof.Machine.execScaleFlag p t s
  | .hearthPassDone p t n => Sys2Proof.Machine.execHearthPassDone p t n s
  | .temperLaunchDone p t n => Sys2Proof.Machine.execTemperLaunchDone p t n s
  | .tongsDone p t n => Sys2Proof.Machine.execTongsDone p t n s
  | .collDone p t n => Sys2Proof.Machine.execCollDone p t n s
  | .pushDone p t n => Sys2Proof.Machine.execPushDone p t n s
  | .streamHang p t => Sys2Proof.Machine.execStreamHang p t s
  | .stepBoundary p => Sys2Proof.Machine.execStepBoundary p s
  | .imageRefreshDone p => Sys2Proof.Machine.execImageRefreshDone p s
  | .anchorTimeout p => Sys2Proof.Machine.execAnchorTimeout p s
  | .outerBoundaryWorkDone p => Sys2Proof.Machine.execOuterBoundaryWorkDone p s
  | .heldStepStart p => Sys2Proof.Machine.execHeldStepStart p s
  | .drainTimeout p => Sys2Proof.Machine.execDrainTimeout p s
  | .passAccept h bad fixed split par => Sys2Proof.Machine.execPassAccept h bad fixed split par s
  | .billetTransfer h => Sys2Proof.Machine.execBilletTransfer h s
  | .billetStall h => Sys2Proof.Machine.execBilletStall h s
  | .temperProgramLoad h src => Sys2Proof.Machine.execTemperProgramLoad h src s
  | .temperInputLoad h src bad fixed split => Sys2Proof.Machine.execTemperInputLoad h src bad fixed split s
  | .temperRun h bad fixed par => Sys2Proof.Machine.execTemperRun h bad fixed par s
  | .temperStarve h src => Sys2Proof.Machine.execTemperStarve h src s
  | .tongsPiece e p ecc => Sys2Proof.Machine.execTongsPiece e p ecc s
  | .backgroundPieceFeed p k ecc => Sys2Proof.Machine.execBackgroundPieceFeed p k ecc s
  | .arenaFill p home => Sys2Proof.Machine.execArenaFill p home s
  | .arenaWriteback p => Sys2Proof.Machine.execArenaWriteback p s
  | .arenaStall p => Sys2Proof.Machine.execArenaStall p s
  | .arenaLendTimeout p => Sys2Proof.Machine.execArenaLendTimeout p s
  | .pairingConfirm pkt base => Sys2Proof.Machine.execPairingConfirm pkt base s
  | .actqCredit pkt queue epoch => Sys2Proof.Machine.execActqCredit pkt queue epoch s
  | .actqFullNotice pkt queue epoch => Sys2Proof.Machine.execActqFullNotice pkt queue epoch s
  | .commitOpen u => Sys2Proof.Machine.execCommitOpen u s
  | .commitDecision u => Sys2Proof.Machine.execCommitDecision u s
  | .commitComplete u => Sys2Proof.Machine.execCommitComplete u s
  | .updateUnitRetired u => Sys2Proof.Machine.execUpdateUnitRetired u s
  | .stepFlagTaken p => Sys2Proof.Machine.execStepFlagTaken p s
  | .reduceRelease p => Sys2Proof.Machine.execReduceRelease p s
  | .samplePositionCheck p => Sys2Proof.Machine.execSamplePositionCheck p s
  | .contrib pkt fixed bad => Sys2Proof.Machine.execContrib pkt fixed bad s
  | .directStageTimeout p n => Sys2Proof.Machine.execDirectStageTimeout p n s
  | .result pkt => Sys2Proof.Machine.execResult pkt s
  | .gatherSegment pkt => Sys2Proof.Machine.execGatherSegment pkt s
  | .stat pkt => Sys2Proof.Machine.execStat pkt s
  | .flagSegment pkt => Sys2Proof.Machine.execFlagSegment pkt s
  | .flagRootTimeout p n => Sys2Proof.Machine.execFlagRootTimeout p n s
  | .decide pkt => Sys2Proof.Machine.execDecide pkt s
  | .decideTimeout p => Sys2Proof.Machine.execDecideTimeout p s
  | .abort pkt => Sys2Proof.Machine.execAbort pkt s
  | .barrier pkt => Sys2Proof.Machine.execBarrier pkt s
  | .barrierAnswer pkt => Sys2Proof.Machine.execBarrierAnswer pkt s
  | .groupCfg p g => Sys2Proof.Machine.execGroupCfg p g s
  | .htWrite pkt fixed bad => Sys2Proof.Machine.execHtWrite pkt fixed bad s
  | .readReq pkt => Sys2Proof.Machine.execReadReq pkt s
  | .readResp pkt => Sys2Proof.Machine.execReadResp pkt s
  | .fetchAdd pkt => Sys2Proof.Machine.execFetchAdd pkt s
  | .cmpSwap pkt => Sys2Proof.Machine.execCmpSwap pkt s
  | .swap pkt => Sys2Proof.Machine.execSwap pkt s
  | .atomicResp pkt => Sys2Proof.Machine.execAtomicResp pkt s
  | .htAck pkt => Sys2Proof.Machine.execHtAck pkt s
  | .htAckTimer p mod part => Sys2Proof.Machine.execHtAckTimer p mod part s
  | .request pkt => Sys2Proof.Machine.execRequest pkt s
  | .grant pkt => Sys2Proof.Machine.execGrant pkt s
  | .returnGrant pkt => Sys2Proof.Machine.execReturnGrant pkt s
  | .grantIdleTimeout p mod part => Sys2Proof.Machine.execGrantIdleTimeout p mod part s
  | .packetTimeout p mod part psn => Sys2Proof.Machine.execPacketTimeout p mod part psn s
  | .heartbeatTimer p => Sys2Proof.Machine.execHeartbeatTimer p s
  | .heartbeat pkt => Sys2Proof.Machine.execHeartbeat pkt s
  | .planeDown p id plane => Sys2Proof.Machine.execPlaneDown p id plane s
  | .peerLost p id => Sys2Proof.Machine.execPeerLost p id s
  | .isolationTimeout p => Sys2Proof.Machine.execIsolationTimeout p s
  | .loss pkt ids => Sys2Proof.Machine.execLoss pkt ids s
  | .rollback pkt round ids => Sys2Proof.Machine.execRollback pkt round ids s
  | .fence pkt => Sys2Proof.Machine.execFence pkt s
  | .announce pkt lost => Sys2Proof.Machine.execAnnounce pkt lost s
  | .routeUpd pkt lost gen locator spare => Sys2Proof.Machine.execRouteUpd pkt lost gen locator spare s
  | .routeAck pkt => Sys2Proof.Machine.execRouteAck pkt s
  | .resume pkt => Sys2Proof.Machine.execResume pkt s
  | .lossHold p => Sys2Proof.Machine.execLossHold p s
  | .linkDown port sub => Sys2Proof.Machine.execLinkDown port sub s
  | .linkUp port sub => Sys2Proof.Machine.execLinkUp port sub s
  | .linkHoldExpiry port sub => Sys2Proof.Machine.execLinkHoldExpiry port sub s
  | .hostCmRequest qp source bind => Sys2Proof.Machine.execHostCmRequest qp source bind s
  | .hostRdmaWrite qp off data => Sys2Proof.Machine.execHostRdmaWrite qp off data s
  | .hostRdmaRead qp off len => Sys2Proof.Machine.execHostRdmaRead qp off len s
  | .hostInvalidRequest qp => Sys2Proof.Machine.execHostInvalidRequest qp s
  | .cnp qp => Sys2Proof.Machine.execCnp qp s
  | .hostCeMark qp => Sys2Proof.Machine.execHostCeMark qp s
  | .hostRateRecover qp => Sys2Proof.Machine.execHostRateRecover qp s
  | .hostWriteFail qp => Sys2Proof.Machine.execHostWriteFail qp s
  | .outerSend p isl slab seg => Sys2Proof.Machine.execOuterSend p isl slab seg s
  | .outerDataSegment seg => Sys2Proof.Machine.execOuterDataSegment seg s
  | .outerAck seg => Sys2Proof.Machine.execOuterAck seg s
  | .probe seg => Sys2Proof.Machine.execProbe seg s
  | .hello seg => Sys2Proof.Machine.execHello seg s
  | .outerAckTimer p mod slab round => Sys2Proof.Machine.execOuterAckTimer p mod slab round s
  | .reorderLoss p isl slab round seg => Sys2Proof.Machine.execReorderLoss p isl slab round seg s
  | .outerRtoExpiry p isl slab round seg => Sys2Proof.Machine.execOuterRtoExpiry p isl slab round seg s
  | .helloTimer p isl slab => Sys2Proof.Machine.execHelloTimer p isl slab s
  | .graceWindowClose p isl => Sys2Proof.Machine.execGraceWindowClose p isl s
  | .roundWordAdd p round => Sys2Proof.Machine.execRoundWordAdd p round s
  | .roundWordPoll p => Sys2Proof.Machine.execRoundWordPoll p s
  | .roundHold p => Sys2Proof.Machine.execRoundHold p s
  | .gcmSeal req => Sys2Proof.Machine.execGcmSeal req s
  | .gcmOpen req => Sys2Proof.Machine.execGcmOpen req s
  | .xtsEncrypt req => Sys2Proof.Machine.execXtsEncrypt req s
  | .xtsDecrypt req => Sys2Proof.Machine.execXtsDecrypt req s
  | .cipherRequestStart p => Sys2Proof.Machine.execCipherRequestStart p s
  | .cipherRequestDone core mismatch => Sys2Proof.Machine.execCipherRequestDone core mismatch s
  | .cipherPromote p => Sys2Proof.Machine.execCipherPromote p s
  | .keyFault slot e => Sys2Proof.Machine.execKeyFault slot e s
  | .keyOfferExpiry p id => Sys2Proof.Machine.execKeyOfferExpiry p id s
  | .getVersion via msg => Sys2Proof.Machine.execGetVersion via msg s
  | .getCapabilities via msg => Sys2Proof.Machine.execGetCapabilities via msg s
  | .negotiateAlgorithms via msg => Sys2Proof.Machine.execNegotiateAlgorithms via msg s
  | .getDigests via msg => Sys2Proof.Machine.execGetDigests via msg s
  | .getCertificate via msg => Sys2Proof.Machine.execGetCertificate via msg s
  | .challenge via msg => Sys2Proof.Machine.execChallenge via msg s
  | .getMeasurements via msg => Sys2Proof.Machine.execGetMeasurements via msg s
  | .keyExchange via msg => Sys2Proof.Machine.execKeyExchange via msg s
  | .finish via msg => Sys2Proof.Machine.execFinish via msg s
  | .spdmHeartbeat via msg => Sys2Proof.Machine.execSpdmHeartbeat via msg s
  | .endSession via msg => Sys2Proof.Machine.execEndSession via msg s
  | .spdmUnsupportedRequest via msg => Sys2Proof.Machine.execSpdmUnsupportedRequest via msg s
  | .setEndpointId eid => Sys2Proof.Machine.execSetEndpointId eid s
  | .setTid tid => Sys2Proof.Machine.execSetTid tid s
  | .getPdr record => Sys2Proof.Machine.execGetPdr record s
  | .getSensorReading sensor => Sys2Proof.Machine.execGetSensorReading sensor s
  | .getStateSensorReadings sensor => Sys2Proof.Machine.execGetStateSensorReadings sensor s
  | .setNumericEffecterValue effecter value => Sys2Proof.Machine.execSetNumericEffecterValue effecter value s
  | .getNumericEffecterValue effecter => Sys2Proof.Machine.execGetNumericEffecterValue effecter s
  | .setStateEffecterStates effecter state => Sys2Proof.Machine.execSetStateEffecterStates effecter state s
  | .getStateEffecterStates effecter => Sys2Proof.Machine.execGetStateEffecterStates effecter s
  | .pldmFirmwareUpdate component last offset piece => Sys2Proof.Machine.execPldmFirmwareUpdate component last offset piece s
  | .setNetId planes locator port => Sys2Proof.Machine.execSetNetId planes locator port s
  | .setHostAllow entries => Sys2Proof.Machine.execSetHostAllow entries s
  | .pldmUnsupportedCmd mctp => Sys2Proof.Machine.execPldmUnsupportedCmd mctp s
  | .booksRestored p => Sys2Proof.Machine.execBooksRestored p s
  | .discardTimeout p => Sys2Proof.Machine.execDiscardTimeout p s
  | .controlParity c => Sys2Proof.Machine.execControlParity c s
  | .scrubRead crucible unit ecc => Sys2Proof.Machine.execScrubRead crucible unit ecc s
  | .localScrub found => Sys2Proof.Machine.execLocalScrub found s
  | .correctedWriteback line => Sys2Proof.Machine.execCorrectedWriteback line s
  | .telemBatch stream => Sys2Proof.Machine.execTelemBatch stream s
  | .capTick watts => Sys2Proof.Machine.execCapTick watts s
  | .thermalTick temps => Sys2Proof.Machine.execThermalTick temps s
  | .clockCheck ppm edge vcoLock => Sys2Proof.Machine.execClockCheck ppm edge vcoLock s
  | .phyPll unit => Sys2Proof.Machine.execPhyPll unit s
  | .phyPllRelock die locked => Sys2Proof.Machine.execPhyPllRelock die locked s
  | .slotIdLatch straps => Sys2Proof.Machine.execSlotIdLatch straps s
  | .halt p => Sys2Proof.Machine.execHalt p s
  | .inputUnstable pin => Sys2Proof.Machine.execInputUnstable pin s
  | .inputUnstableRelease pin level => Sys2Proof.Machine.execInputUnstableRelease pin level s
  | .inputBandChange millivolts => Sys2Proof.Machine.execInputBandChange millivolts s
  | .regulator die => Sys2Proof.Machine.execRegulator die s
  | .holdupMeasure microfarad millivolts => Sys2Proof.Machine.execHoldupMeasure microfarad millivolts s
  | .hostTransferAck p k => Sys2Proof.Machine.execHostTransferAck p k s
  | .hostRetransmit qp => Sys2Proof.Machine.execHostRetransmit qp s
  | .remapDone die page => Sys2Proof.Machine.execRemapDone die page s
  | .selftestDone hearth unit pass => Sys2Proof.Machine.execSelftestDone hearth unit pass s
  | .neighborSolicitation port sub target => Sys2Proof.Machine.execNeighborSolicitation port sub target s
  | .routerAdvertisement port sub router => Sys2Proof.Machine.execRouterAdvertisement port sub router s
  | .pauseFrame port sub => Sys2Proof.Machine.execPauseFrame port sub s
  | .i3cDynamicAddress addr => Sys2Proof.Machine.execI3cDynamicAddress addr s
  | .inBandInterruptEnable on => Sys2Proof.Machine.execInBandInterruptEnable on s
  | .jtagInstruction instr => Sys2Proof.Machine.execJtagInstruction instr s
  | .strapChange straps => Sys2Proof.Machine.execStrapChange straps s
  | .debugNonceExpiry => Sys2Proof.Machine.execDebugNonceExpiry s
  | .debugFillDone => Sys2Proof.Machine.execDebugFillDone s
  | .getEndpointId => Sys2Proof.Machine.execGetEndpointId s
  | .getEndpointUuid => Sys2Proof.Machine.execGetEndpointUuid s
  | .getMctpVersionSupport => Sys2Proof.Machine.execGetMctpVersionSupport s
  | .getMessageTypeSupport => Sys2Proof.Machine.execGetMessageTypeSupport s
  | .getTid => Sys2Proof.Machine.execGetTid s
  | .getPldmVersion => Sys2Proof.Machine.execGetPldmVersion s
  | .getPldmTypes => Sys2Proof.Machine.execGetPldmTypes s
  | .getPldmCommands => Sys2Proof.Machine.execGetPldmCommands s
  | .getPdrRepositoryInfo => Sys2Proof.Machine.execGetPdrRepositoryInfo s
  | .getFruRecordTableMetadata => Sys2Proof.Machine.execGetFruRecordTableMetadata s
  | .getFruRecordTable => Sys2Proof.Machine.execGetFruRecordTable s
  | .activateFirmware => Sys2Proof.Machine.execActivateFirmware s
  | .getNetId => Sys2Proof.Machine.execGetNetId s
  | .getHostAllow => Sys2Proof.Machine.execGetHostAllow s
  | .faultRecord => Sys2Proof.Machine.execFaultRecord s
  | .faultDispatch => Sys2Proof.Machine.execFaultDispatch s
  | .bookAudit => Sys2Proof.Machine.execBookAudit s
  | .countRec => Sys2Proof.Machine.execCountRec s
  | .powerRec => Sys2Proof.Machine.execPowerRec s
  | .thermalTrip => Sys2Proof.Machine.execThermalTrip s
  | .watchdogExpiry => Sys2Proof.Machine.execWatchdogExpiry s
  | .standbyUp => Sys2Proof.Machine.execStandbyUp s
  | .pwrEnAssert => Sys2Proof.Machine.execPwrEnAssert s
  | .pwrEnDeassert => Sys2Proof.Machine.execPwrEnDeassert s
  | .resetNAssert => Sys2Proof.Machine.execResetNAssert s
  | .resetNDeassert => Sys2Proof.Machine.execResetNDeassert s
  | .haltNAssert => Sys2Proof.Machine.execHaltNAssert s
  | .haltNDeassert => Sys2Proof.Machine.execHaltNDeassert s
  | .breakerOpen => Sys2Proof.Machine.execBreakerOpen s
  | .pstoreRetry => Sys2Proof.Machine.execPstoreRetry s
  | .wearCounterWrite => Sys2Proof.Machine.execWearCounterWrite s
  | .idleEntry => Sys2Proof.Machine.execIdleEntry s
  | .powerTransitionDone => Sys2Proof.Machine.execPowerTransitionDone s

end Sys2Proof.Machine
end

