-- ==== Sys2Proof/Safety.lean ====
section
/-! DEFINITION. What counts as a safe state and a safe step, and the words that the statements use for a command that is let in. -/

namespace Sys2Proof.Machine

/-- Every waiting command names units that the module has: what an environment may put into the queue. -/
def State.commandsOk (s : State) : Prop := ∀ c ∈ s.pending, c.wf = true

/-- The step goes on: it neither faults nor is refused. -/
def State.goes (s : State) : Prop := ∃ t, step s = .next t

/-- Mailbox `m` holds command `c`, its turn has come, and checks 1 to 7 of R335 pass as far as its header and zero bytes go; nor does R327 turn
it away. What is left of the checks is the command's own. -/
def State.takes (s : State) (m : Nat) (c : Cmd) : Prop :=
  m < 64 ∧ s.atHead m = true ∧ mhOpcode (s.mbxHdr m) = c.op ∧ s.mbxMarked m = false ∧ (s.sec.limited && !c.limited) = false ∧ mhVer (s.mbxHdr m) = 1 ∧
  s.scopeOk m c = true ∧ s.sec.forbids c.op = false ∧ hdrOk (s.mbxHdr m) c = true ∧ zerosOk c.zeros (s.mbxArgs m) = true ∧ s.heldOff m (s.mbxFor m) c = false

/-- Argument bytes of a mailbox as a number: `n` bytes from `off`. -/
def State.arg (s : State) (m off n : Nat) : Nat := argNat (s.mbxArgs m) off n

/-- The state in which a command has completed OK with a response. -/
def State.doneOK (s : State) (m : Nat) (resp : List Byte) : State := s.finishMbx m stOK resp 0xFFFF

/-- The module has the units that the tables give it: 4 partition places with 3 sequencers and 128 token counters each, 256 hearths and temper
engines, 22 tongs, 8 update units, 5 telemetry streams, 512 key slots, 16 cipher cores, 64 queue pairs, 256 host targets, 8 ports, 64 places in
the fault queue, and 3 copies of the partition word. -/
def State.shaped (s : State) : Prop :=
  (s.parts.length = 4 ∧ ∀ q ∈ s.parts, q.run.seqs.length = 3 ∧ q.run.tokens.length = 128) ∧
  s.hearths.length = 256 ∧ s.tempers.length = 256 ∧ s.tongs.length = 22 ∧ s.units.length = 8 ∧ s.streams.length = 5 ∧ s.cipher.slots.length = 512 ∧
  s.cipher.cores.length = 16 ∧ s.net.qps.length = 64 ∧ s.net.targets.length = 256 ∧ s.net.ports.length = 8 ∧ s.hub.queue.length = 64 ∧ s.partCfg.length = 3

/-- A sound state: memory in its canonical form, and the module's units all there. -/
def State.sound (s : State) : Prop := Memory.wf s.mem ∧ s.shaped

/-- Stream `t` of partition `p` runs and its next word `w`, of a class and op, is unmarked, passes the checks of R31, has its wait satisfied and
finds fewer than 32 instructions outstanding: it is to issue now. -/
def State.issues (s : State) (p : Nat) (t : Sid) (c op : Nat) (w : Nat) : Prop :=
  p < 4 ∧ s.seqRuns p t = true ∧ (∀ g, (s.seq p t).group = some g → g.cur.isSome = true) ∧ s.fetch p t (s.seq p t).pc = some w ∧
  s.marked (gLocal ((s.program p t).1 + 16 * (s.seq p t).pc)) 16 = false ∧ s.wordOk p t w = true ∧ siClass w = c ∧ siOp w = op ∧ s.waitMet p t w = true ∧
  (s.seq p t).out.length < 32

/-- The descriptor that a word names is unmarked and reads `d`. -/
def State.names (s : State) (p w d : Nat) : Prop := s.readDesc p w = some d

/-- A packet carries a collective segment that the transport accepts for partition `p`, of the partition's epoch (a BARRIER of subkind 2, and
what a rejoining partition waits for, may be of another), taken while fenced only where it is a FLAG, a DECIDE, an ABORT or a BARRIER, and passing the checks of R190;
`u` is the state with the packet's books kept, and `x` the segment with the blocks marked that the receive buffer lost. -/
def State.hears (s : State) (pkt : HtPkt) (p : Nat) (u : State) (x : Seg) : Prop :=
  (∃ v, s.receive [6] pkt = (v, some p) ∧ u = (v.dataArrived p pkt).bufErrors p pkt) ∧ x = (segOf pkt.payload).marked (senderOf pkt) ∧ (pkt.op = 0 ∨ 2 < pkt.op) ∧
  pkt.dstPart = p ∧ ((x.kind = 7 ∧ (x.body.headD 0#8).toNat = 2) ∨ ((u.part p).run.holds.contains .rejoin = true ∧ isRejoin x = true) ∨ x.epoch = (u.part p).run.epoch) ∧
  ((u.part p).fenced = false ∨ 4 ≤ x.kind) ∧ u.segOk p x (leNat (pkt.payload.take 32)) = true

/-- A packet of one of the types that the transport accepts for partition `p`; `u` is the state with it taken on its channel, and the errors that
the receive buffer found recorded. -/
def State.gets (s : State) (types : List Nat) (k : HtPkt) (p : Nat) (u : State) : Prop := ∃ v, s.receive types k = (v, some p) ∧ u = v.bufErrors p k

end Sys2Proof.Machine
end

