-- ==== Sys2Proof/Certificates/Slice0/Obligations.lean ====
section
/-! DEFINITION. The statements for the provers. -/

open Sys2Proof Sys2Proof.Machine

/-! ## The block -/

/-- The command at the front of the queue runs on the state with the rest of the queue (the model's form of a step). With no command waiting, a step
lets one tick of the 100 MHz reference pass (DESIGN CHOICE, log entry 4; the counter is R368's). In a module that has started, with no grant being
withdrawn, no input raw that differs from its filtered level and no unknown opcode at the head of a context: while the root VCO is locked the tick
counts, the ports send what their schedulers let go (R215) and the busy mark of R371 follows; the holds of the input filter and of standby run down; and
nothing else changes. -/
def Obligations.StepRunsFrontCommand : Prop :=
  (∀ (c : Instr) (rest : List Instr) (s : State), step { s with pending := c :: rest } = exec c { s with pending := rest }) ∧
  (∀ s : State, s.pending = [] → s.power.row = 11 → s.power.leaving.all (· == 0) = true → (∀ k < 3, s.power.raw.getD k true = s.pin k) →
    (∀ ctx ∈ [none, some 0, some 1, some 2, some 3], s.unknownHead ctx = none) →
    let hold := s.power.edgeHold.map (· - 1)
    let left := s.power.standbyLeft - 1
    let now := (s.tick + 1) % 2 ^ 64
    (s.power.vco = false → step s = .next { s with power := { s.power with edgeHold := hold, standbyLeft := left } }) ∧
    (s.power.vco = true → ∃ (ps : List Port) (sent : List Out), ps.length = s.net.ports.length ∧
      step s = .next { s with tick := now, net := { s.net with ports := ps }, out := s.out ++ sent,
                              power := { s.power with edgeHold := hold, standbyLeft := left, busyTick := if s.parts.any Part.busy then now else s.power.busyTick } } ∧
      ((∀ x ∈ s.net.ports, x.held = [] ∧ ∀ k ∈ x.subs, k.queue = []) → sent = [])))

/-- Every command that names only units the module has answers a next state in every state; any other stops with the fault `noSuchUnit` (log
entry 6). -/
def Obligations.WellFormedCommandsComplete : Prop :=
  ∀ (c : Instr) (s : State), (c.wf = true → ∃ t, exec c s = .next t) ∧ (c.wf = false → exec c s = .fault .noSuchUnit)

/-- The machine after reset (R20, R23, R51, R284, R287, R332, R347, R355): no module ID, one partition READY with no job and the others absent, every
hearth READY, every mailbox FREE with a zero header, every key slot empty, no network identity, every stream unconfigured, the cap at 4,400 W, state
P1, row 11 of start-up reached. -/
def Obligations.ResetStateHolds : Prop :=
  let s := State.reset
  s.idValid = false ∧ s.nparts = 1 ∧ (s.part 0).st = .ready ∧ (s.part 0).job = none ∧ (∀ h < 256, (s.hearth h).st = .ready) ∧
  (∀ m < 64, s.mbxHdr m = 0) ∧ (∀ k < 512, (s.slot k).state = 0) ∧ s.hasNet = false ∧ (∀ k < 5, (s.streams.getD k {}).configured = false) ∧
  s.capNow = 4400 ∧ s.power.pstate = .p1 ∧ s.power.row = 11 ∧ s.pending = []

/-- Every step keeps a state sound: memory in its canonical form (addresses rising, nothing listed that an unlisted address reads as), and every
unit of the module in its place. -/
def Obligations.StepKeepsSound : Prop :=
  ∀ s t : State, s.sound → step s = .next t → t.sound

/-- The state after reset is sound. -/
def Obligations.ResetIsSound : Prop := State.reset.sound

/-- A step takes exactly the command at the front of the queue and puts none in: commands come from outside only. -/
def Obligations.StepTakesOnlyFront : Prop :=
  ∀ s t : State, step s = .next t → t.pending = s.pending.tail

/-- The lifecycle state changes under LC.ADVANCE and nothing else (R297), and the anti-rollback counters under FW.COMMIT and nothing else (R296). -/
def Obligations.LifecycleAndCountersGuarded : Prop :=
  ∀ (c : Instr) (s t : State), exec c s = .next t →
    ((∀ m, c ≠ .lcAdvance m) → t.sec.life = s.sec.life) ∧ ((∀ m, c ≠ .fwCommit m) → t.sec.arb = s.sec.arb)

/-! ## Reset and the control interface -/

/-- R355: what a module reset leaves of the control interface: mailboxes and bulk buffers zero, no aperture base, every stream unconfigured, the
POWER.CAP value 4,400 W, no input post pending, the module ID unassigned, network identity and host allow list cleared. Effecter 0x0400 survives
it, and is cleared (its value then is the model's choice, log entry 2) where standby power is lost. -/
def Obligations.ModuleResetControlInterface : Prop :=
  ∀ (s : State) (rails : Bool),
    let t := s.moduleReset rails
    (∀ m < 64, t.get4 (mbxBase m) 4096 = List.replicate 4096 0#8 ∧ t.get4 (bulkBase m) 16384 = List.replicate 16384 0#8 ∧ t.own m = 0) ∧
    (∀ p, (t.part p).aperture = none ∧ (t.part p).run.posts = []) ∧ (∀ k, (t.streams.getD k {}).configured = false) ∧ t.power.cap = 4400 ∧
    t.idValid = false ∧ t.moduleId = 0 ∧ t.net.planes = [] ∧ t.hasNet = false ∧ t.net.allow = [] ∧ t.side.capEffecter = s.side.capEffecter ∧
    (s.poweredOff false).side = {} ∧ (s.poweredOff true).side = s.side

/-! ## Mailbox commands -/

/-- What a completion writes (R332, R335): the response, inline up to 4,032 bytes and else in the bulk buffer; then in the header step_seen, status,
resp_len, resp_bulk and err_off, and own = DONE, the other fields as they were. Everything but the mailbox's bytes and the smith's books is as it
was. -/
def Obligations.CompletionWritesMailbox : Prop :=
  ∀ (s : State) (m st off : Nat) (resp : List Byte), m < 64 → st < 256 → off < 65536 → resp.length ≤ 16384 →
    let t := s.finishMbx m st resp off
    let h := s.mbxHdr m
    (t.own m = 3 ∧ bits (t.mbxHdr m) 359 352 = st ∧ bits (t.mbxHdr m) 335 320 = resp.length ∧ bits (t.mbxHdr m) 317 302 = off ∧
      bit (t.mbxHdr m) 318 = decide (4032 < resp.length) ∧ bits (t.mbxHdr m) 447 400 = (s.part (s.mbxFor m)).run.step % 2 ^ 48 ∧
      bits (t.mbxHdr m) 511 448 = bits h 511 448 ∧ mhTarget (t.mbxHdr m) = mhTarget h ∧ mhOpcode (t.mbxHdr m) = mhOpcode h ∧ mhVer (t.mbxHdr m) = mhVer h ∧
      bits (t.mbxHdr m) 351 336 = bits h 351 336 ∧ bit (t.mbxHdr m) 319 = bit h 319 ∧ bits (t.mbxHdr m) 301 32 = bits h 301 32) ∧
    (if 4032 < resp.length then t.get4 (bulkBase m) resp.length = resp else t.get4 (mbxBase m + 0x40) resp.length = resp) ∧
    (∀ a, ¬(localAddr 4 (mbxBase m) ≤ a ∧ a < localAddr 4 (mbxBase m + 0x1000)) → ¬(localAddr 4 (bulkBase m) ≤ a ∧ a < localAddr 4 (bulkBase m + 0x4000)) →
      Memory.read t.mem a = Memory.read s.mem a) ∧
    t = { s with mem := t.mem, observed := s.observed.filter (· != m), smithOwns := s.smithOwns.filter (· != m) }

/-- R335: the first check that fails sets the status, and the command has no other effect (checks 1 and 3 to 6, check 5 for the target and
for what the arguments name (R337), and check 7 for the header and the zero bytes; check 1 writes its record; check 2 is in `OwnershipWordRules`).
A command whose mailbox is not POSTED, or whose turn has not come, has no effect yet (R334). -/
def Obligations.CommandChecksInOrder : Prop :=
  ∀ (s : State) (m : Nat) (c : Cmd) (body : State → Nat → List Byte → Reply) (scope : Scope),
    (s.own m ≠ 1 ∨ m ∉ s.observed → s.command m c body scope = s) ∧
    (s.atHead m = true → mhOpcode (s.mbxHdr m) = c.op →
    (s.mbxMarked m = true → s.command m c body scope = (s.slagBite 0 (s.global (localAddr 4 (mbxBase m)))).finishMbx m stREJECTED [] 0xFFFF) ∧
    (s.mbxMarked m = false →
      ((s.sec.limited && !c.limited) = true → s.command m c body scope = s.finishMbx m stUNSUPPORTED [] 0xFFFF) ∧
      ((s.sec.limited && !c.limited) = false →
        (mhVer (s.mbxHdr m) ≠ 1 → s.command m c body scope = s.finishMbx m stVERSION [] 0xFFFF) ∧
        (mhVer (s.mbxHdr m) = 1 →
          (s.scopeOk m c = false → s.command m c body scope = s.finishMbx m stREJECTED [] 0xFFFF) ∧
          (∀ off, s.scopeOk m c = true → scope s (s.mbxFor m) (s.mbxArgs m) = some off → s.command m c body scope = s.finishMbx m stREJECTED [] off) ∧
          (s.scopeOk m c = true → scope s (s.mbxFor m) (s.mbxArgs m) = none →
            (s.sec.forbids c.op = true → s.command m c body scope = s.finishMbx m stDENIED [] 0xFFFF) ∧
            (s.sec.forbids c.op = false →
              (hdrOk (s.mbxHdr m) c = false → s.command m c body scope = s.finishMbx m stREJECTED [] 0xFFFF) ∧
              (hdrOk (s.mbxHdr m) c = true → zerosOk c.zeros (s.mbxArgs m) = false → s.command m c body scope = s.finishMbx m stREJECTED [] c.zeros.1)))))))

/-- The device's commands where they are let in and their own conditions hold: UNIT.QUERY, ID.ASSIGN (R338), PART.CREATE, SCRUB.CONFIG, PORT.CONFIG
(R212), HOST.TARGET (R217), TELEM.CONFIG, FAULT.ACK (R351), POWER.CAP (R353), POWER.STATE (R371). -/
def Obligations.DeviceCommandsComplete : Prop :=
  ∀ (s : State) (m : Nat),
    (s.takes m cmdUnitQuery → exec (.unitQuery m) s = .next (s.doneOK m (leBytes 16 (s.unitDesc (mhTarget (s.mbxHdr m)))))) ∧
    (s.takes m cmdIdAssign → s.arg m 0 4 < 2 ^ 20 → s.allFree = true →
      exec (.idAssign m) s = .next (({ s with moduleId := s.arg m 0 4, idValid := true } : State).doneOK m [])) ∧
    (s.takes m cmdPartCreate → partCfgBad (s.arg m 0 32) = none → (∀ q ∈ s.parts.take s.nparts, q.st = .ready) →
      exec (.partCreate m) s = .next ((s.repartition (s.arg m 0 32)).doneOK m [])) ∧
    (s.takes m cmdScrubConfig → bits (s.arg m 0 4) 9 0 = 0 → 1 ≤ bits (s.arg m 0 4) 21 12 → bits (s.arg m 0 4) 21 12 ≤ 720 → 1 ≤ bits (s.arg m 0 4) 31 22 →
      bits (s.arg m 0 4) 31 22 ≤ 720 → exec (.scrubConfig m) s = .next (({ s with scrub := { s.scrub with cfg := s.arg m 0 4 } } : State).doneOK m [])) ∧
    (s.takes m cmdPortConfig → s.arg m 0 1 < 8 → portCfgBad (s.arg m 8 8) = none → (s.part (portPart s.nparts (s.arg m 0 1))).st = .ready →
      exec (.portConfig m) s = .next ((s.retrain (s.arg m 0 1) (s.arg m 8 8)).doneOK m [])) ∧
    (s.takes m cmdHostTarget → mayRetarget (mbxPart s.nparts m) (s.net.targets.getD (s.arg m 0 1) 0) = true →
      hostTargetBad s.nparts (mbxPart s.nparts m) (s.arg m 8 32) = none → s.targetInUse (s.arg m 0 1) = false →
      exec (.hostTarget m) s = .next (({ s with net := { s.net with targets := updAt s.net.targets (s.arg m 0 1) fun _ => s.arg m 8 32, deadTargets := s.net.deadTargets.filter (· != s.arg m 0 1) } } : State).doneOK m [])) ∧
    (s.takes m cmdTelemConfig → (match mbxPart s.nparts m with | some p => s.arg m 0 1 = 1 + p | none => s.arg m 0 1 < 5) →
      s.telemBad (s.arg m 0 1) (s.arg m 8 32) = none → exec (.telemConfig m) s = .next ((s.startStream (s.arg m 0 1) (s.arg m 8 32)).doneOK m [])) ∧
    (s.takes m cmdFaultAck → s.arg m 0 4 < s.hub.seq → exec (.faultAck m) s = .next
      (({ s with hub := s.hub.close (s.arg m 0 4) } : State).replay.doneOK m (leBytes 4 (s.hub.open_.filter fun r => r.seq ≤ s.arg m 0 4).length))) ∧
    (s.takes m cmdPowerCap → 1000 ≤ s.arg m 0 2 → s.arg m 0 2 ≤ 4400 →
      exec (.powerCap m) s = .next (({ s with power := { s.power with cap := s.arg m 0 2 } } : State).doneOK m [])) ∧
    (s.takes m cmdPowerState → s.arg m 0 1 ≤ 3 → s.targetBusy (s.arg m 0 1) = false → exec (.powerState m) s = .next
      (if s.arg m 0 1 = 2 ∧ s.power.pstate ≠ .p2 then ((s.setTarget 2).holdP2).takeMbx m else (s.setTarget (s.arg m 0 1)).doneOK m []))

/-- The job's commands, let in, with their own conditions (R47, R49, R51, R177, R205, R206, R234, R241, R340-R346). -/
def Obligations.JobCommandsComplete : Prop :=
  ∀ (s : State) (m : Nat),
    let p := s.mbxFor m
    (∀ t, s.takes m cmdJobLoad → s.manifestAt p (s.arg m 0 8) = true → ((s.part p).fab.entry s.moduleId).isSome = true → s.loadJob p (s.arg m 0 8) = some t →
      (s.part p).job = none → (s.part p).st = .ready → (s.part p).fab.entryState s.moduleId ≠ 3 → exec (.jobLoad m) s = .next ((t.cipherless p).doneOK m [])) ∧
    (s.takes m cmdJobStart → (s.part p).job.isSome = true → (s.part p).st = .ready → s.idValid = true → s.power.pstate ≠ .p3 →
      exec (.jobStart m) s = .next
        (((if s.power.pstate = .p1 ∧ s.power.moving = none then { s with power := { s.power with moving := some .p0 } } else s).startJob p).doneOK m [])) ∧
    (s.takes m cmdJobStop → exec (.jobStop m) s = .next
      (if (s.part p).job = none ∨ (s.part p).st = .ready then s.doneOK m []
       else
        let u := s.modRun p fun r => { r with stopArmed := true }
        if (u.part p).run.stops then (u.stopNow p).doneOK m [] else u.doneOK m [])) ∧
    (s.takes m cmdJobUnload → (s.part p).st = .ready → exec (.jobUnload m) s = .next ((s.leaveJob p).doneOK m [])) ∧
    (s.takes m cmdAccSet → (s.part p).job.isSome = true → jpAccLo (s.params p) ≤ s.arg m 0 2 → s.arg m 0 2 ≤ jpAccHi (s.params p) →
      exec (.accSet m) s = .next ((s.modRun p fun r => { r with accArmed := some (s.arg m 0 2) }).doneOK m [])) ∧
    (s.takes m cmdInputPost → (s.part p).job.isSome = true → s.arg m 0 1 ≤ 127 → 1 ≤ s.arg m 1 1 → s.arg m 1 1 ≤ 63 → (s.part p).run.step < s.arg m 2 6 →
      (s.part p).run.posts.length < 16 →
      exec (.inputPost m) s = .next ((s.modRun p fun r => { r with posts := r.posts ++ [⟨s.arg m 0 1, s.arg m 1 1, s.arg m 2 6⟩] }).doneOK m [])) ∧
    (s.takes m cmdInputPost → (s.part p).job.isSome = true → s.arg m 0 1 ≤ 127 → 1 ≤ s.arg m 1 1 → s.arg m 1 1 ≤ 63 → s.arg m 2 6 = (s.part p).run.step →
      s.inStep p = true → (s.part p).run.tokens.getD (s.arg m 0 1) 0 + s.arg m 1 1 ≤ 65535 →
      exec (.inputPost m) s = .next ((s.modRun p fun r => { r with tokens := updAt r.tokens (s.arg m 0 1) (· + s.arg m 1 1) }).doneOK m [])) ∧
    (s.takes m cmdApertureSet → s.arg m 0 8 % 2 ^ 21 = 0 → s.ownRange p (s.arg m 0 8) (2 ^ 21) [0, 1, 2] = true →
      exec (.apertureSet m) s = .next ((s.modPart p fun q => { q with aperture := some (s.arg m 0 8) }).doneOK m [])) ∧
    (s.takes m cmdMemSend → 1 ≤ s.arg m 8 8 → s.arg m 8 8 < 2 ^ 40 → s.ownRange p (s.arg m 0 8) 1 [0, 1, 2] = true → s.ownRange p (s.arg m 0 8) (s.arg m 8 8) [0, 1, 2] = true →
      s.handleOk (some p) (s.arg m 16 8) (s.arg m 8 8) = true → exec (.memSend m) s = .next ((s.addBg p
        { kind := .memSend, id := 0, src := s.arg m 0 8, dst := s.arg m 16 8, len := s.arg m 8 8, cookie := bits (s.mbxHdr m) 511 448,
          tag := 2 * 2 ^ 28 + bits (s.mbxHdr m) 511 448 % 2 ^ 28 }).doneOK m [])) ∧
    (s.takes m cmdIngotEmit → (s.part p).job.isSome = true → s.ingotBad p (s.arg m 0 32) = none →
      exec (.ingotEmit m) s = .next ((s.modPart p fun q => { q with ingotNext := some (s.arg m 0 32) }).doneOK m [])) ∧
    (∀ x, s.takes m cmdLayoutSet → s.arg m 0 1 = 0 → (s.part p).job.isSome = true → s.manifestAt p (s.arg m 8 8) = true → s.readManifest p (s.arg m 8 8) = some x →
      (s.layoutOf p x).isSome = true → exec (.layoutSet m) s = .next ((s.modRun p fun r => { r with layoutArmed := some (x, false) }).doneOK m [])) ∧
    (∀ x, s.takes m cmdLayoutSet → s.arg m 0 1 = 1 → (s.part p).job.isSome = true → s.manifestAt p (s.arg m 8 8) = true → s.readManifest p (s.arg m 8 8) = some x →
      (s.layoutOf p x).isSome = true → exec (.layoutSetForced m) s = .next ((s.forceLayout p x).doneOK m [])) ∧
    (∀ h es ms, s.takes m cmdRouteLoad → s.ownRange p (s.arg m 0 8) 64 [0] = true → s.readRoutes p (s.arg m 0 8) = some (h, es, ms) → s.idValid = true →
      ((s.part p).fab.load h es ms).entryState s.moduleId = 1 → (s.part p).st = .ready →
      exec (.routeLoad m) s = .next ((s.modFab p fun _ => (s.part p).fab.load h es ms).doneOK m [])) ∧
    (∀ k e, s.takes m cmdSpareAssume → (s.part p).fab.entryState s.moduleId = 3 → (s.part p).fab.entry (s.arg m 0 4) = some (k, e) → reState e = 2 →
      rePartCount e = s.nparts → (entParts e).contains p = true → (({ s with moduleId := s.arg m 0 4 } : State).loadJob p (s.asLost (s.arg m 0 4) (s.arg m 8 8))).isSome = true →
      (s.part p).st = .ready → (s.part p).job = none → exec (.spareAssume m) s = .next
        (((s.modFab p fun f => { f with assuming := some (s.arg m 0 4, s.asLost (s.arg m 0 4) (s.arg m 8 8)) }).announce p (s.arg m 0 4) e).doneOK m [])) ∧
    (∀ il sl, s.takes m cmdRoundConfig → s.roundBad p (s.arg m 0 64) = none → s.roundArrays p (s.arg m 0 64) = some (il, sl) → (s.part p).st = .ready →
      exec (.roundConfig m) s = .next (((s.setRound p (s.arg m 0 64) il sl).modOuter p fun o => { o with island := some (rcIsland (s.arg m 0 64)) }).doneOK m []))

/-- The key commands, let in, with their own conditions (R284, R285). -/
def Obligations.KeyCommandsComplete : Prop :=
  ∀ (s : State) (m : Nat),
    let p := s.mbxFor m
    (∀ y, s.takes m cmdKeyInstall → s.sec.session (s.arg m 0 4) = some y → exec (.keyInstall m) s = .next
      (match Config.secOpen y.key ((s.mbxArgs m).drop 4) with
        | none => s.finishMbx m stDENIED [] 0xFFFF
        | some b =>
          let r := leNat b
          if b.length ≠ 88 then s.finishMbx m stREJECTED [] 0xFFFF
          else if s.installOk p r = false then s.finishMbx m stREJECTED [] 0xFFFF
          else if s.slotBusy p (inSlot r) = true then s.finishMbx m stBUSY [] 0xFFFF
          else ((s.modCipher fun c => c.modSlot (inSlot r) fun _ => installed r).modSec fun x => { x with draws := x.draws + 1 }).doneOK m
            ((Config.secSeal y.key s.sec.draws []).take 16384))) ∧
    (s.takes m cmdKeyZero → s.ownSlot p (s.arg m 0 2) = true → s.slotBusy p (s.arg m 0 2) = false → s.arg m 0 2 ≠ 0xFFFF →
      exec (.keyZero m) s = .next ((s.zeroSlots [s.arg m 0 2]).doneOK m [])) ∧
    (s.takes m cmdKeyZero → s.arg m 0 2 = 0xFFFF → (∀ k ∈ s.slotsOf p, s.slotBusy p k = false) → exec (.keyZero m) s = .next ((s.zeroSlots (s.slotsOf p)).doneOK m [])) ∧
    (s.takes m cmdKeyStatus → s.ownSlot p (s.arg m 0 2) = true → exec (.keyStatus m) s = .next (s.doneOK m (leBytes 32 (s.slot (s.arg m 0 2)).info))) ∧
    (s.takes m cmdKeyOffer → s.ownSlot p (s.arg m 0 2) = true → (s.part p).offers.length < 4 → ∃ (t : State) (resp : List Byte), exec (.keyOffer m) s = .next (t.doneOK m resp) ∧
      (t.part p).offers.length = (s.part p).offers.length + 1 ∧ t.cipher = s.cipher ∧ t.mem = s.mem ∧ t.sec = { s.sec with draws := s.sec.draws + 1 }) ∧
    (s.takes m cmdKeyWrap → (s.arg m 0 2 = 0xFFFF ∨ (s.ownSlot p (s.arg m 0 2) = true ∧ (s.slot (s.arg m 0 2)).held.isSome = true)) →
      (Config.verifyKey ((s.mbxArgs m).drop 4891) (((s.mbxArgs m).drop 2).take 1580) (((s.mbxArgs m).drop 1582).take 3309) = true →
        ∃ resp : List Byte, exec (.keyWrap m) s = .next ((s.modSec fun x => { x with draws := x.draws + 2 }).doneOK m resp)) ∧
      (Config.verifyKey ((s.mbxArgs m).drop 4891) (((s.mbxArgs m).drop 2).take 1580) (((s.mbxArgs m).drop 1582).take 3309) = false →
        exec (.keyWrap m) s = .next ((s.exchangeFailed p).finishMbx m stDENIED [] 0xFFFF))) ∧
    (∀ o, s.takes m cmdKeyUnwrap → (s.part p).offers.find? (fun o => o.1 == s.arg m 1672 4 && decide (s.tick < o.2.2.2 + offerTicks)) = some o →
      exec (.keyUnwrap m) s = .next
        (let fail := ((s.dropOffer p (s.arg m 1672 4)).exchangeFailed p).finishMbx m stDENIED [] 0xFFFF
         let key := wrapKey (Config.kemDecap o.2.2.1 (s.arg m 0 1568)) (s.arg m 1672 4) (s.arg m 1676 4) s.moduleId (s.arg m 1680 4)
         if Config.verifyKey (((s.mbxArgs m).drop 1684).take 1952) ((s.mbxArgs m).take 3636) ((s.mbxArgs m).drop 3636) = false then fail
         else match gcmOpenBytes key (List.replicate 12 0#8) [] (((s.mbxArgs m).drop 1568).take 88) (((s.mbxArgs m).drop 1656).take 16) with
          | none => fail
          | some b =>
            let r := mkInstall o.2.1 (inMode (leNat b)) (inDir (leNat b)) (inPair (leNat b)) (inEpoch (leNat b)) (inLimit (leNat b)) (inKey (leNat b))
            if s.installOk p r = false then s.finishMbx m stREJECTED [] 0xFFFF
            else if s.slotBusy p (inSlot r) = true then s.finishMbx m stBUSY [] 0xFFFF
            else ((s.modCipher fun c => c.modSlot (inSlot r) fun _ => installed r).dropOffer p (s.arg m 1672 4)).doneOK m []))

/-- The commands of the root of trust complete, each where it is let in and its own conditions hold: SPDM.MSG gives the responder's answer to its
message (R293); FW.STAGE keeps a piece, and FW.COMMIT makes the bank not booted preferred (R296); DEBUG.NONCE gives a fresh nonce, DEBUG.ENTER raises the
level under a token accepted, in OPERATIONAL at D2 through its fill, and DEBUG.EXIT leaves D0 (R299-R301); LC.ADVANCE, under a token of its signer, wipes
what the transition wipes, advances and resets the module (R297). The last two clauses are those of a token that is not accepted: DENIED, and DEBUG.ENTER's
nonce goes with a record (R299). -/
def Obligations.SecurityCommandsComplete : Prop :=
  ∀ (s : State) (m : Nat),
    (s.takes m cmdSpdmMsg → exec (.spdmMsg m) s = .next
      (({ s with sec := (s.sec.spdm (.mailbox m) (s.mbxArgs m)).1 } : State).doneOK m ((s.sec.spdm (.mailbox m) (s.mbxArgs m)).2.take 16384))) ∧
    (∀ x, s.takes m cmdFwStage → 8 ≤ (s.mbxArgs m).length → 1 ≤ s.arg m 0 1 → s.arg m 0 1 ≤ 4 → s.arg m 1 1 ≤ 1 →
      s.sec.stage (s.arg m 0 1) (s.arg m 4 4) (s.arg m 1 1 == 1) ((s.mbxArgs m).drop 8) = some (x, stOK) →
      exec (.fwStage m) s = .next (({ s with sec := x } : State).doneOK m [])) ∧
    (s.takes m cmdFwCommit → s.arg m 0 1 ≤ 1 → (∀ c ∈ [1, 2, 3, 4], ∃ i ∈ s.sec.bankOf !s.sec.bank, i.cls = c ∧ i.ok = true) → s.sec.staging = none →
      s.canStore .counters = true → exec (.fwCommit m) s = .next (({ s with sec := s.sec.commit (s.arg m 0 1 == 1) } : State).doneOK m [])) ∧
    (s.takes m cmdDebugNonce → exec (.debugNonce m) s = .next
      (({ s with sec := { s.sec.drew 1 with nonce := some (Config.random s.sec.draws % 2 ^ 256, s.tick) } } : State).doneOK m (leBytes 32 (Config.random s.sec.draws % 2 ^ 256)))) ∧
    (s.takes m cmdDebugEnter → tokenBad (s.arg m 0 96) = none → s.tokenOk (s.arg m 0 96) ((s.mbxArgs m).take 96) ((s.mbxArgs m).drop 96) = true →
      (dtLevel (s.arg m 0 96) = 1 ∨ s.sec.life ≠ .operational) →
      exec (.debugEnter m) s = .next (({ s with sec := { s.sec with nonce := none, debug := dtLevel (s.arg m 0 96) } } : State).doneOK m [])) ∧
    (s.takes m cmdDebugEnter → tokenBad (s.arg m 0 96) = none → s.tokenOk (s.arg m 0 96) ((s.mbxArgs m).take 96) ((s.mbxArgs m).drop 96) = true →
      dtLevel (s.arg m 0 96) = 2 → s.sec.life = .operational → s.allFree = true → s.power.pstate ≠ .p2 → s.power.pstate ≠ .p3 →
      exec (.debugEnter m) s = .next
        ((({ s with sec := { s.sec with nonce := none, sessions := [], debugged := true, fill := some true } } : State).zeroSlots (List.range 512)).doneOK m [])) ∧
    (s.takes m cmdDebugExit → exec (.debugExit m) s = .next (({ s with sec := { s.sec with debug := 0, fill := none } } : State).doneOK m [])) ∧
    (∀ d, s.takes m cmdLcAdvance → lifeOf (lcTarget (s.arg m 0 128)) = some d → lcSigner (s.arg m 0 128) ≤ 1 → bits (s.arg m 0 128) 255 16 = 0 →
      transitionOk s.sec.life d (lcSigner (s.arg m 0 128)) s.sec.returns = true → lcUid (s.arg m 0 128) = deviceUid → s.nonceIs (lcNonce (s.arg m 0 128)) = true →
      Config.verify 4 (s.sec.keyOf (lcSigner (s.arg m 0 128))) ((s.mbxArgs m).take 128) ((s.mbxArgs m).drop 128) = true →
      (∀ q ∈ s.parts, q.busy = false) → s.canStore .lifecycle = true → ∃ t : State,
        exec (.lcAdvance m) s = .next t ∧ t = ((s.wipe d).modSec fun x => x.advance d (lcOdk (s.arg m 0 128))).moduleReset true ∧ t.sec.life = d ∧ t.sec.lifeCopies = copies3 d) ∧
    (s.takes m cmdDebugEnter → tokenBad (s.arg m 0 96) = none → s.tokenOk (s.arg m 0 96) ((s.mbxArgs m).take 96) ((s.mbxArgs m).drop 96) = false →
      exec (.debugEnter m) s = .next (((s.modSec fun x => { x with nonce := none }).raise { recDev sevDef 0xA0 with resClass := 13, resIndex := 1 }).finishMbx m stDENIED [] 0xFFFF)) ∧
    (∀ d, s.takes m cmdLcAdvance → lifeOf (lcTarget (s.arg m 0 128)) = some d → lcSigner (s.arg m 0 128) ≤ 1 → bits (s.arg m 0 128) 255 16 = 0 →
      (lcUid (s.arg m 0 128) ≠ deviceUid ∨ s.nonceIs (lcNonce (s.arg m 0 128)) = false ∨
        Config.verify 4 (s.sec.keyOf (lcSigner (s.arg m 0 128))) ((s.mbxArgs m).take 128) ((s.mbxArgs m).drop 128) = false) →
      exec (.lcAdvance m) s = .next (s.finishMbx m stDENIED [] 0xFFFF))

/-! ## The three streams -/

/-- R33, R34: a completion adds 1 to its counter; at 65,535 the counter stays there and a token-overflow record of severity UCE_PART goes to the
hub. Nothing else changes. -/
def Obligations.TokenSignalCounts : Prop :=
  ∀ (s : State) (p k : Nat), p < s.parts.length → k < (s.part p).run.tokens.length →
    ((s.part p).run.tokens.getD k 0 < 65535 →
      ((s.signal p k).part p).run.tokens.getD k 0 = (s.part p).run.tokens.getD k 0 + 1 ∧
      (∀ j, j ≠ k → ((s.signal p k).part p).run.tokens.getD j 0 = (s.part p).run.tokens.getD j 0) ∧
      s.signal p k = s.modRun p fun r => { r with tokens := ((s.signal p k).part p).run.tokens }) ∧
    (65535 ≤ (s.part p).run.tokens.getD k 0 →
      ∃ r, s.signal p k = { s with hub := { s.hub with arriving := s.hub.arriving ++ [r] } } ∧ r.sev = 3 ∧ r.code = 0x21 ∧ r.unit = 0x6000 + p ∧ r.part = p)

/-- R33: an instruction with a wait subtracts its count from the counter as it issues, the stream goes on at the next word, and no counter of a
word without a wait changes. -/
def Obligations.IssueConsumesWait : Prop :=
  ∀ (s : State) (p : Nat) (t : Sid) (w : Nat), p < s.parts.length → (s.part p).run.tokens.length = 128 → (s.part p).run.seqs.length = 3 →
    ((s.consume p t w).part p).run.tokens.getD (siWaitTok w) 0 = (s.part p).run.tokens.getD (siWaitTok w) 0 - (if siWaitEn w then siWaitCnt w else 0) ∧
    (∀ k, k ≠ siWaitTok w → ((s.consume p t w).part p).run.tokens.getD k 0 = (s.part p).run.tokens.getD k 0) ∧
    ((s.consume p t w).seq p t).pc = (s.seq p t).pc + 1 ∧ (∀ u, u ≠ t → (s.consume p t w).seq p u = s.seq p u) ∧
    (s.consume p t w).mem = s.mem ∧ (s.consume p t w).hub = s.hub ∧ (s.consume p t w).hearths = s.hearths

/-- R31: a word that a running stream may not have, or that carries a mark, stops the stream under whichever stream command it is met, with one
UCE_PART record of code 0x20 that names layer, address and the word's upper half. -/
def Obligations.MalformedWordStops : Prop :=
  ∀ (s : State) (p : Nat) (t : Sid) (c op : Nat) (act : State → Nat → State) (w : Nat),
    s.seqRuns p t = true → (∀ g, (s.seq p t).group = some g → g.cur.isSome = true) → s.fetch p t (s.seq p t).pc = some w →
    (s.marked (gLocal ((s.program p t).1 + 16 * (s.seq p t).pc)) 16 = true ∨ s.wordOk p t w = false) →
    s.issue p t c op act = (s.stopStream p t).raise
      { recPart p 3 0x20 with layer := siLayer w, addr := (s.program p t).1 + 16 * (s.seq p t).pc, detail := w / 2 ^ 64 }

/-- The CTRL commands issue (R30, R36, R39, R42, R47), in the state that has met the errors which the stream's reads find (R304, R307). -/
def Obligations.CtrlCommandsComplete : Prop :=
  ∀ (r : State) (p : Nat) (f : Fetch) (w : Nat),
    let s := r.fetched p f
    let t := f.sid
    (s.issues p t 0 0 w → exec (.ctrlNop p f) r = .next ((s.consume p t w).signalAtIssue p w)) ∧
    (s.issues p t 0 1 w → siOperand w ≠ 0 → exec (.loopBegin p f) r = .next
      (((s.consume p t w).modSeq p t fun q => { q with loops := (q.pc, siOperand w) :: q.loops }).signalAtIssue p w)) ∧
    (s.issues p t 0 1 w → siOperand w = 0 → exec (.loopBegin p f) r = .next
      ((((s.consume p t w).modSeq p t fun q => { q with loops := (q.pc, (s.part p).run.accStep) :: q.loops }).signalAtIssue p w).microBatch p t true)) ∧
    (s.shaped → s.issues p t 0 2 w → ∃ u, exec (.loopEnd p f) r = .next u ∧ u.mem = s.mem ∧ u.hearths = s.hearths ∧
      (∀ a n r, (s.seq p t).loops = (a, n) :: r → (1 < n → (u.seq p t).pc = a ∧ (u.seq p t).loops = (a, n - 1) :: r) ∧
        (n ≤ 1 → (u.seq p t).pc = (s.seq p t).pc + 1 ∧ (u.seq p t).loops = r))) ∧
    (∀ heads next, s.issues p t 0 3 w → s.scanGroup p t ((s.program p t).2 + 1) ((s.seq p t).pc + 1) ((s.seq p t).pc + 1) (siOperand w) [] = some (heads, next) →
      exec (.groupBegin p f) r = .next
        ((((s.consume p t w).modSeq p t fun q => { q with group := some { heads := heads, ran := [], cur := none, next := next } }).signalAtIssue p w).selectBlock p t)) ∧
    (s.issues p t 0 4 w → exec (.blockEnd p f) r = .next
      ((((s.consume p t w).modSeq p t fun q => { q with group := q.group.map fun g => { g with ran := g.ran ++ g.cur.toList, cur := none } }).signalAtIssue p w).selectBlock p t)) ∧
    (s.shaped → s.issues p t 0 5 w → ∃ u, exec (.passEnd p f) r = .next u ∧ (u.seq p t).passEnded = true ∧ (u.seq p t).pc = (s.seq p t).pc + 1 ∧ u.mem = s.mem) ∧
    (s.shaped → s.issues p t 0 6 w → (t = .upd → (s.part p).coll.statsDone = true) → ∃ u, exec (.stepEnd p f) r = .next u ∧ (u.seq p t).ended = true ∧ u.mem = s.mem) ∧
    (∀ g i h, let v := r.meet (r.headReads p t) f.found
      p < 4 → v.seqRuns p t = true → (v.seq p t).group = some g → g.cur = none → g.ran.length ≠ g.heads.length → v.readyBlock p t g = some (i, h) →
      exec (.readyBlockSelect p f) r = .next (v.modSeq p t fun q => { q with group := some { g with cur := some i }, pc := h, blocked := none }))

/-- The commands that name a descriptor issue once it is unmarked, passes its table's checks and its engine has room; each takes the partition's
next issue number and stays outstanding (R32, R62, R105, R145, R161, R184). -/
def Obligations.DescriptorCommandsComplete : Prop :=
  ∀ (r : State) (p : Nat) (f : Fetch) (w d : Nat),
    let s := r.fetched p f
    let t := f.sid
    let n := (s.part p).run.nextInsn
    let u := (s.consume p t w).openInsn p t w d
    (s.issues p t 1 0 w → s.names p w d → passOk d (hearthCount s.nparts) (s.offlineHearths p) = true →
      (∀ h ∈ s.named p (hpFirst d) (hpCount d), ((s.hearth h).queues.getD (queueOfSrc (srcOfSid t)) []).length < 4) →
      exec (.hearthPass p f) r = .next (u.each (s.named p (hpFirst d) (hpCount d)) fun u h =>
        u.modHearth h fun x => { x with queues := updAt x.queues (queueOfSrc (srcOfSid t)) (· ++ [⟨d, siTensor w, siLayer w, n⟩]) })) ∧
    (s.issues p t 2 0 w → s.names p w d → launchOk d (s.ownWord p) (srcOfSid t) (hearthCount s.nparts) (s.offlineHearths p) = true →
      s.reach p (tlProg d) (8 * tlLen d) [0] = true →
      (∀ h ∈ s.named p (tlFirst d) (tlCount d), ((s.temper h).queues.getD (srcIx (srcOfSid t)) []).length < 4) →
      ∃ v, exec (.temperRunInsn p f) r = .next v ∧ v.hearths = s.hearths ∧ v.mem = s.mem ∧ (v.part p).run.nextInsn = ((u.part p).run.nextInsn) ∧
        ∀ h ∈ s.named p (tlFirst d) (tlCount d), h < s.tempers.length → ((v.temper h).queues.getD (srcIx (srcOfSid t)) []).length = ((s.temper h).queues.getD (srcIx (srcOfSid t)) []).length + 1) ∧
    (∀ op, s.issues p t 3 op w → s.names p w d → s.tongsOk p op d = true → (∀ e ∈ s.enginesFor p op d, s.tongsFree p t e = true) →
      (op = 0 → exec (.copy p f) r = .next (u.tongsPlace p t n 0 d)) ∧ (op = 1 → exec (.tongsGather p f) r = .next (u.tongsPlace p t n 1 d)) ∧
      (op = 2 → exec (.fill p f) r = .next (u.tongsPlace p t n 2 d)) ∧ (op = 3 → exec (.prefetch p f) r = .next (u.tongsPlace p t n 3 d)) ∧
      (op = 4 → exec (.evict p f) r = .next (u.tongsPlace p t n 4 d))) ∧
    (∀ op, s.issues p t 4 op w → s.names p w d → s.collOk p op d = true → (s.part p).coll.occ op d < 65536 → ((s.part p).coll.ops.filter fun o => !o.done).length < 16 →
      let v := (u.collPlace p n op d ((u.group p (cdGroup d)).getD 0) (op == 2 && !(u.seq p .bwd).passEnded)).collStart p n
      (op = 0 → exec (.reduce p f) r = .next v) ∧ (op = 1 → exec (.collGather p f) r = .next v) ∧ (op = 2 → exec (.collFlag p f) r = .next v)) ∧
    (∀ k, s.issues p t 5 0 w → s.names p w d → udOk d = true → d ∈ ((s.part p).job.map (·.shards)).getD [] → s.pickUnit p = some k → u.pickUnit p = some k →
      exec (.commit p f) r = .next (u.modUnit k fun x => { x with queue := x.queue ++ [{ part := p, stream := t, insn := n, desc := d }] }))

/-- The QUEUE and SCALE commands issue (R53, R137, R138, Table 02-2). A PUSH takes a credit and writes the pages that it names, with their marks, to
slot `pushes mod count` of its queue: into own HBM, or in WRITE packets to the slot's module; a POP takes the next full slot; a RELEASE returns a
credit. -/
def Obligations.QueueAndScaleCommandsComplete : Prop :=
  ∀ (r : State) (p : Nat) (f : Fetch) (w : Nat),
    let s := r.fetched p f
    let t := f.sid
    (∀ i x, s.issues p t 6 0 w → (s.part p).queueFor t false (siOperand w % 256) = some (i, x) →
      s.reach p (siOperand w / 4096 * 4096) (aqPages x.desc * 4096) [0] = true → 0 < x.credits →
      let n := (s.part p).run.nextInsn
      let src := gLocal (siOperand w / 4096 * 4096)
      let dst := slotAddr x.desc x.pushes
      let len := aqPages x.desc * 4096
      let u := ((s.consume p t w).openInsn p t w 0).modActq p i fun y => { y with credits := y.credits - 1, writing := y.writing + 1, pushes := y.pushes + 1 }
      exec (.push p f) r = .next (if u.ownRange p dst len [0] = true then u.saveMarked (gLocal dst) (u.load src len) (u.byteMarks src len)
        else (u.remoteWrite p dst (u.load src len) (u.byteMarks src len) (.push (aqId x.desc) n)).1) ∧ u.load src len = s.load src len) ∧
    (∀ i x, s.issues p t 6 1 w → (s.part p).queueFor t true (siOperand w) = some (i, x) → 0 < x.full →
      exec (.pop p f) r = .next (((s.consume p t w).modActq p i fun y => { y with full := y.full - 1, popped := y.popped + 1, pops := y.pops + 1 }).signalAtIssue p w)) ∧
    (∀ i x, s.issues p t 6 2 w → (s.part p).queueFor t true (siOperand w) = some (i, x) → 0 < x.popped →
      exec (.release p f) r = .next
        (((((s.consume p t w).modActq p i fun y => { y with popped := y.popped - 1, returning := y.returning + 1, releases := y.releases + 1 }).send p
          (queueMsg x.desc (s.part p).run.epoch false) (.credit (aqId x.desc)))).signalAtIssue p w)) ∧
    (∀ d i x, s.issues p t 7 0 w → s.names p w d → s.trackChange p d = true → (s.part p).pyro.find (trTensor d) = some (i, x) →
      ∃ u, exec (.track p f) r = .next u ∧ u.mem = s.mem ∧ (p < s.parts.length → i < (s.part p).pyro.tracks.length →
        ((u.part p).pyro.tracks.getD i x).next = some d ∧ ((u.part p).pyro.tracks.getD i x).cfg = ((s.part p).pyro.tracks.getD i x).cfg)) ∧
    (∀ d, s.issues p t 7 1 w → s.names p w d → s.sampleOk p d = true →
      ∃ u, exec (.sample p f) r = .next u ∧ u.mem = s.mem ∧ (p < s.parts.length → (u.part p).pyro.samples = (s.part p).pyro.samples ++ [⟨d, 0, (s.part p).run.nextInsn⟩])) ∧
    (s.issues p t 7 2 w → ∃ u, exec (.scaleFlag p f) r = .next u ∧ u.mem = s.mem ∧ (p < s.parts.length → (u.part p).run.flagWord =
      if (s.part p).run.flagTaken = none then (s.part p).run.flagWord ||| 32 else (s.part p).run.flagWord))

/-- An outstanding instruction completes when its engine holds nothing of it: it is outstanding no longer and its token counts (R32, R62, R105,
R145, R186); a PUSH announces its slot (R53). A stream blocked beyond the wait limit writes the record of R35, its detail in the model's layout (log
entry 119). -/
def Obligations.CompletionCommandsComplete : Prop :=
  ∀ (s : State) (p : Nat) (t : Sid) (n : Nat) (o : OutInsn), p < 4 → s.outInsn p t n = some o →
    (o.cls = 1 → (∀ h ∈ s.hearthsOf p, (s.hearth h).holds o.id = false) →
      exec (.hearthPassDone p t n) s = .next (s.complete p t n)) ∧
    (o.cls = 2 → (∀ h ∈ s.hearthsOf p, (s.temper h).holds o.id = false) → exec (.temperLaunchDone p t n) s = .next (s.complete p t n)) ∧
    (o.cls = 3 → s.tongsIdle p t o.id = true → exec (.tongsDone p t n) s = .next ((s.complete p t n).tongsDrop p t o.id)) ∧
    (o.cls = 4 → (∀ k, (s.part p).coll.op o.id = some k → k.done = true ∨ k.abandoned = true) → exec (.collDone p t n) s = .next (s.complete p t n)) ∧
    (o.cls = 6 → s.pushReady p t o = true → exec (.pushDone p t n) s = .next ((s.complete p t n).announcePush p o)) ∧
    (∀ b k, (s.seq p t).blocked = some (b, k) → s.stillBlocked p t b = true → s.seqRuns p t = true → s.waitLimit p < s.tick - k →
      exec (.streamHang p t) s = .next ((s.modSeq p t fun q => { q with blocked := some (b, s.tick) }).raise
        { recPart p 3 0x22 with layer := siLayer ((s.fetch p t (s.seq p t).pc).getD 0), detail := pack [(4, sidIx t), (4, match b with | .token => 0 | .credit => 1 | .slot => 2 | .full => 3 | .stat => 4)] })) ∧
    (∀ b k, (s.seq p t).blocked = some (b, k) → s.stillBlocked p t b = false → exec (.streamHang p t) s = .next (s.unblock p t))

/-! ## The step boundary -/

/-- R42, R44, R48: once all three streams have ended and every quantity of Table 02-4 is at its closing value, the actions of Table 02-5 run in their
order: token counters recorded and cleared; the step's records; hearths, temper engines and arena emptied; the pyrometer closed and drift repaired;
noise (with the audits of R328 and the retried writes of R363); the step number raised; a planned layout; the round, at a round's last step; commanded
changes; and stop, halt or the next step. At the last step number that Table 00-3 gives, and at the end of the last round, the module stops there
instead, with a record (R7; severity and code of that record are the model's choice, log entry 89). -/
def Obligations.StepBoundaryRunsItsActions : Prop :=
  ∀ (s : State) (p : Nat), p < 4 → s.allEnded p = true → s.unbalanced p = none →
    let st := (s.part p).run.step
    let skipped := match (s.part p).run.decision with | some d => d.skip | none => false
    let a := s.closeStep p skipped
    let k := (a.part p).run.step + 1
    let n := (a.modRun p fun r => { r with step := k, lastSkip := skipped }).modColl p fun c => c.closed k skipped
    let b := n.layoutBoundary p (k % n.roundLen p == 0)
    let isRound := (st + 1) % b.roundLen p == 0
    a = ((((closePyro p skipped (((s.tokenAction p).boundaryRecords p skipped).emptyAction p)).driftRepair p).noiseBoundary p skipped).auditPart p).audit.retryStores ∧
    (st = 2 ^ 48 - 1 → exec (.stepBoundary p) s = .next (a.limitStop p)) ∧
    (st < 2 ^ 48 - 1 → isRound = false → exec (.stepBoundary p) s = .next ((((b.sealTest p (st + 1)).wordHold p).armedBoundary p st).stopAction p)) ∧
    (st < 2 ^ 48 - 1 → isRound = true → (s.part p).run.round = 2 ^ 32 - 1 → exec (.stepBoundary p) s = .next (b.limitStop p)) ∧
    (st < 2 ^ 48 - 1 → isRound = true → (s.part p).run.round < 2 ^ 32 - 1 → exec (.stepBoundary p) s = .next ((((b.roundAction p st).accBoundary p).armedBoundary p st).stopAction p))

/-- What the first actions leave (Table 02-5): every token counter 0; every hearth of the partition with no valid SRAM page and no chain; every temper
engine of it with every tile register at +0.0 unmarked, no temporaries, no flag and no program loaded (R44, R45, R67, R120). Neither changes memory. -/
def Obligations.BoundaryEmptiesEngines : Prop :=
  ∀ (s : State) (p : Nat), s.shaped → p < 4 →
    (((s.tokenAction p).part p).run.tokens = List.replicate 128 0 ∧ (s.tokenAction p).mem = s.mem ∧ (s.tokenAction p).hearths = s.hearths) ∧
    (s.emptyAction p).mem = s.mem ∧
    (∀ h ∈ s.hearthsOf p, h < 256 →
      ((s.emptyAction p).hearth h).pages = [] ∧ ((s.emptyAction p).hearth h).chain = none ∧
      (∀ k, tregOf ((s.emptyAction p).temper h).tregs k = List.replicate 1024 (f32Zero, false)) ∧ ((s.emptyAction p).temper h).temps = [] ∧
      ((s.emptyAction p).temper h).flags = [0, 0, 0, 0] ∧ ((s.emptyAction p).temper h).cur = [none, none, none, none]) ∧
    (∀ h, h ∉ s.hearthsOf p → (s.emptyAction p).hearth h = s.hearth h ∧ (s.emptyAction p).temper h = s.temper h)

/-- The events of a held boundary and of a drain that does not close (R43, R48, R49, R51, R173). -/
def Obligations.BoundaryEventsComplete : Prop :=
  ∀ (s : State) (p : Nat), p < 4 →
    (∀ t k, s.allEnded p = true → (s.part p).run.endTick = some t → s.unbalanced p = some k → ticksMs (jpDrainMs (s.params p)) < s.tick - t →
      exec (.drainTimeout p) s = .next ((s.modRun p fun r => { r with endTick := some s.tick }).raise { recPart p 3 0x23 with detail := k })) ∧
    ((s.part p).run.holds.contains .refresh = true → (s.part p).imageStage = 3 → (s.part p).imagePend = 0 → (s.part p).restore = none → (s.part p).run.holds.contains .rollback = false →
      (s.part p).run.holds.contains .gather = false → (s.part p).fenced = false → exec (.imageRefreshDone p) s = .next
      (let t := s.modPart p fun q => { q with imageStage := 0, imageValid := true }
       match t.flagGroup p with
       | some g => (if cgRank g = 0 then t else t.modColl p fun c => { c with anchorFrom := some s.tick }).barrierReach p g 1 0
       | none => (t.modColl p fun c => { c with anchorFrom := none }).unhold p .refresh)) ∧
    (∀ t g, (s.part p).coll.anchorFrom = some t → s.flagGroup p = some g → cgRank g = 0 → (s.part p).run.holds.contains .refresh = true → s.waitLimit p < s.tick - t →
      let heard := match (s.part p).coll.barriers.find? fun b => b.group == cgId g && b.sub == 1 with | some b => b.heard | none => []
      exec (.anchorTimeout p) s = .next ((s.modColl p fun c => { c with anchorFrom := some s.tick }).each
        ((List.range (cgN g)).filter fun r => !heard.contains r && r != 0) fun s r => s.declareLost p (s.member g r).1)) ∧
    (∀ t g, (s.part p).coll.anchorFrom = some t → s.flagGroup p = some g → cgRank g ≠ 0 → (s.part p).imageStage = 0 → (s.part p).run.holds.contains .refresh = true →
      s.waitLimit p < s.tick - t → exec (.anchorTimeout p) s = .next ((s.modColl p fun c => { c with anchorFrom := some s.tick }).declareLost p (s.member g 0).1)) ∧
    (∀ x : Found, (s.part p).run.holds.contains .outerWork = true → (s.part p).run.holds.contains .rollback = false → (s.part p).fenced = false → exec (.outerBoundaryWorkDone ⟨p, x⟩) s = .next
      (let r := (s.part p).run.round - 1
       let a := s.each (List.range (s.part p).outer.slabs.length) fun s j => s.slabBoundary p r x j
       let b := (((a.releaseSlot p r).initWords p [r + 2]).sealTest p (s.part p).run.step).modOuter p fun o => o.takeNext r
       ((b.roundRec p r).refreshNext p).unhold p .outerWork)) ∧
    ((s.part p).run.atAction8 = true → (s.part p).run.stopArmed = false → ((s.part p).st = .active ∨ (s.part p).st = .recovering) → (s.part p).run.holds = [] →
      s.mayStart p = true → s.power.haltN = true → s.power.target ≠ 2 → exec (.heldStepStart p) s = .next (s.startStep p)) ∧
    ((s.part p).run.atAction8 = true → (s.part p).run.stopArmed = true → ((s.part p).st = .active ∨ (s.part p).st = .recovering) → (s.part p).run.holds = [] →
      exec (.heldStepStart p) s = .next (s.stopNow p))

/-! ## Hearths and temper engines -/

/-- R61, R62, R67: in P0 a hearth with a free accumulator set takes the head of its first non-empty queue, of the open chain's only while one is open.
An emitting pass closes the chain and hands its set over; any other keeps it open. Memory, the other hearths and the temper engines are as they
were, and where the reads met no error no record is written. A pass that breaks the chain rules is dropped with CHAIN_ERR. -/
def Obligations.PassAcceptTakesQueueHead : Prop :=
  ∀ (s : State) (h i : Nat) (e : PassEnt) (bad fixed split par : List Nat), s.shaped → h < 256 → (s.hearth h).st ≠ .offline → s.power.pstate = .p0 →
    (s.hearth h).outSets.length < 2 → (s.hearth h).pick = some (i, e) →
    (chainBreaks (s.hearth h) e = false → ∃ t : State, exec (.passAccept h bad fixed split par) s = .next t ∧
      (t.hearth h).queues = updAt (s.hearth h).queues i (·.drop 1) ∧ t.mem = s.mem ∧ t.tempers = s.tempers ∧ (∀ g, g ≠ h → t.hearth g = s.hearth g) ∧
      (hpEmit e.desc = true → (t.hearth h).chain = none ∧ (t.hearth h).outSets.length = (s.hearth h).outSets.length + 1) ∧
      (hpEmit e.desc = false → (t.hearth h).outSets = (s.hearth h).outSets ∧ ∃ f, (t.hearth h).chain = some (i, f)) ∧
      (bad = [] → fixed = [] → split = [] → par = [] → t.hub = s.hub ∧ t.wmarks = s.wmarks)) ∧
    (chainBreaks (s.hearth h) e = true → exec (.passAccept h bad fixed split par) s = .next
      ((s.modHearth h fun x => { x with queues := updAt x.queues i (·.drop 1) }).raise { recHearth (hearthPart s.nparts h) h 3 0x28 with layer := e.layer }))

/-- R61, R72, R73: the oldest set's next billet takes a free slot of the queue, whose book still balances; a queue stuck beyond the wait limit writes
BILLET_STALL naming the oldest billet's tensor. -/
def Obligations.BilletsKeepTheBook : Prop :=
  ∀ (s : State) (h : Nat), s.shaped → h < 256 →
    (∀ b rest sets, (s.hearth h).outSets = (b :: rest) :: sets → 0 < (s.hearth h).free →
      ∃ t : State, exec (.billetTransfer h) s = .next t ∧ (t.hearth h).free = (s.hearth h).free - 1 ∧ (t.hearth h).bq = (s.hearth h).bq ++ [b] ∧
        (t.hearth h).outSets = (if rest = [] then sets else rest :: sets) ∧ ((s.hearth h).book = true → (t.hearth h).book = true) ∧ t.mem = s.mem ∧ t.tempers = s.tempers ∧
        (∀ g, g ≠ h → t.hearth g = s.hearth g) ∧ (b.tensor = 0xFFFF → t.parts = s.parts)) ∧
    (∀ b rest sets, (s.hearth h).outSets = (b :: rest) :: sets → (s.hearth h).free = 0 → exec (.billetTransfer h) s = .next s) ∧
    (∀ t, (s.hearth h).stallFrom = some t → (s.hearth h).free = 0 → (s.hearth h).xout = 0 → s.waitLimit (hearthPart s.nparts h) < s.tick - t →
      exec (.billetStall h) s = .next ((s.modHearth h fun x => { x with stallFrom := some s.tick }).raise
        { recHearth (hearthPart s.nparts h) h 3 0x25 with detail := ((s.hearth h).bq.head?.map (·.tensor)).getD 0xFFFF }))

/-- R109: the next launch of a source comes into its program buffer once every word is unmarked and legal and every store's extent stays within 4 MiB;
a word that is not, read where the partition may reach it, stops the stream, with the first such word in the record, and the launch is given up
(R105). R107: a billet launch that waits beyond the limit. -/
def Obligations.LaunchesLoadTheirProgram : Prop :=
  ∀ (s : State) (h : Nat) (src : Src) (x : Found) (e : LaunchEnt), h < 256 →
    let p := hearthPart s.nparts h
    let i := srcIx src
    let prog := (chunks 8 (s.bytes (gLocal (tlProg e.desc)) (8 * tlLen e.desc))).map leNat
    let m := s.meet [(gLocal (tlProg e.desc), 8 * tlLen e.desc)] x
    let bad := (enum prog).find? fun (k, w) => m.marked (gLocal (tlProg e.desc) + 8 * k) 8 || !insnOk e.desc (s.ownWord p) src w
    s.reach p (tlProg e.desc) (8 * tlLen e.desc) [0] = true →
    let taken := m.modTemper h fun x => { x with queues := updAt x.queues i (·.drop 1) }
    ((s.temper h).cur.getD i none = none → ((s.temper h).queues.getD i []).head? = some e →
      (bad = none → extentOk e.desc prog 0 = true → extentOk e.desc prog 1 = true → exec (.temperProgramLoad h ⟨src, x⟩) s = .next
        (taken.modTemper h fun x => { x with cur := updAt x.cur i fun _ => some { ent := e, prog := prog, run := 0, input := none, waitFrom := s.tick } })) ∧
      (∀ k w, bad = some (k, w) → exec (.temperProgramLoad h ⟨src, x⟩) s = .next
        (let gone := taken.modTemper h fun x => { x with failed := x.failed ++ [e.insn] }
         (match sidOfSrc src with | some t => gone.stopStream p t | none => gone).raise { recHearth p h 3 0x20 with layer := e.layer, addr := tlProg e.desc, detail := w }))) ∧
    (∀ l, (s.temper h).cur.getD i none = some l → tlIn l.ent.desc = 1 → l.input = none → s.waitLimit p < s.tick - l.waitFrom → exec (.temperStarve h src) s = .next
      ((s.modTemper h fun x => { x with cur := updAt x.cur i fun _ => some { l with waitFrom := s.tick } }).raise
        { recHearth p h 3 0x26 with layer := l.ent.layer, detail := pack [(4, i), (16, l.run)] }))

/-- R106: a launch's next run has its input once the head of the billet queue is a billet of its source, which leaves the queue, or the vector is read
from SRAM; the other tile registers are as they were. -/
def Obligations.LaunchesLoadTheirInput : Prop :=
  ∀ (s : State) (h : Nat) (src : Src) (bad fixed split : List Nat) (l : Launch), s.shaped → h < 256 → (s.temper h).cur.getD (srcIx src) none = some l →
    srcIx src < (s.temper h).cur.length → l.input = none → l.run < tlRuns l.ent.desc →
    (∀ b rest, tlIn l.ent.desc = 1 → (s.hearth h).bq = b :: rest → b.src = src → ∃ t : State, exec (.temperInputLoad h src bad fixed split) s = .next t ∧
      (t.hearth h).bq = rest ∧ (t.hearth h).free = (s.hearth h).free + 1 ∧
      (t.temper h).cur.getD (srcIx src) none = some { l with input := some (b.data.map fun w => (w, b.slag || !bad.isEmpty || !split.isEmpty)) } ∧
      (∀ k, k ≠ inputReg l.ent.desc l.run → tregOf (t.temper h).tregs k = tregOf (s.temper h).tregs k) ∧ t.mem = s.mem) ∧
    (tlIn l.ent.desc = 2 → ∃ (t : State) (v : List Elem), exec (.temperInputLoad h src bad fixed split) s = .next t ∧
      (t.temper h).cur.getD (srcIx src) none = some { l with input := some v } ∧ t.hearths = s.hearths ∧
      (∀ k, k ≠ inputReg l.ent.desc l.run → tregOf (t.temper h).tregs k = tregOf (s.temper h).tregs k) ∧ t.mem = s.mem)

/-- R105, R109, R113, R116: in P0 the highest-priority ready run executes. What it leaves: the source's flags gain those raised; a trap ends the
launch and writes TEMPER_TRAP, which names the engine, the layer and, in its detail (log entry 124), source, flag, instruction, run and element; the
registers are the program's; every byte of memory outside its stores is as it was. -/
def Obligations.TemperRunExecutes : Prop :=
  ∀ (s : State) (h i : Nat) (l : Launch) (bad : List Nat) (fixed : HeldErrs) (par : List (Nat × Nat × Nat)), s.shaped → h < 256 → s.power.pstate = .p0 → (s.temper h).ready = some (i, l) →
    let p := hearthPart s.nparts h
    let hit := (bad ++ fixed.split).filter (regRead l.ent.desc (inputReg l.ent.desc l.run) l.prog)
    let r := TRun.program ⟨((s.part p).job.map fun j => bits j.params 511 448).getD 0, (s.part p).run.step⟩ l.ent.desc l.ent.tensor l.ent.scale l.run (inputReg l.ent.desc l.run) l.prog par
      { temps := List.replicate 16 (List.replicate (tlVL l.ent.desc) (f32Zero, false)), tregs := markRegs hit (s.temper h).tregs }
    ∃ t : State, exec (.temperRun h bad fixed par) s = .next t ∧ (t.temper h).tregs = r.tregs ∧ (t.temper h).flags = updAt (s.temper h).flags i (· ||| r.flags) ∧
      (t.temper h).cur.getD i none = (if l.run + 1 = tlRuns l.ent.desc ∨ r.trap.isSome = true then none else some { l with run := l.run + 1, input := none, waitFrom := s.tick }) ∧
      t.hearths.map (·.bq) = s.hearths.map (·.bq) ∧ (∀ g, g ≠ h → t.temper g = s.temper g) ∧
      (∀ k x e, r.trap = some (k, x, e) → ∃ y, t.hub.arriving.getLast? = some y ∧ y.sev = 3 ∧ y.code = 0x27 ∧ y.unit = unitHearth h ∧ y.part = p ∧ y.layer = l.ent.layer ∧
        y.detail = pack [(4, i), (4, k), (8, x), (16, l.run), (32, e)]) ∧
      (∀ a, (∀ x ∈ r.stores, ¬(sramAddr h x.1 ≤ a ∧ a < sramAddr h x.1 + x.2.1.length)) → t.load a 1 = s.load a 1)

/-! ## Tongs, arena, background copies, activation queues -/

/-- R147, R153, R157: a FILL piece writes zeros, a COPY piece between equal formats moves the bytes read, at the address that the entry's row and offset
give; every other byte reads as before. To another partition or module the piece goes out as WRITEs, and the entry waits for their
acknowledgement. An address of the arena is `ArenaKeepsItsBook`'s. -/
def Obligations.TongsPieceMovesBytes : Prop :=
  ∀ (s : State) (e p : Nat) (x : TEnt), s.shaped → e < 22 → p < 4 → nextEnt (s.tongs.getD e []) p = some x → 0 < x.pieceLen s →
    let d := x.desc
    let k := x.pieceLen s
    let dst := x.dstAddr s
    let n := k / tdSize (tdSFmt d) * tdSize (tdDFmt d)
    let moved := fun (u : State) (sent : Nat) => u.modEnt e p x.src x.insn fun y => { y.advance k (bellowsOf s.nparts p).length with pend := y.pend + sent }
    (x.op = 2 → s.remoteEnd p dst = false → s.arenaMeets p dst n = false → s.ownRange p dst n [0, 1, 2, 3] = true → (s.lentAt p dst n).isNone = true →
      ∀ ecc, ∃ t : State, exec (.tongsPiece e p ecc) s = .next t ∧ t.load (gLocal dst) n = List.replicate n 0#8 ∧
        (∀ a, ¬(gLocal dst ≤ a ∧ a < gLocal dst + n) → t.load a 1 = s.load a 1) ∧ t.tongs = (moved s 0).tongs) ∧
    (x.op = 0 → tdConv d = false → s.remoteEnd p dst = false → s.arenaMeets p dst k = false → s.ownRange p dst k [0, 1, 2, 3] = true → (s.lentAt p dst k).isNone = true →
      s.remoteEnd p x.srcAddr = false → s.arenaMeets p x.srcAddr k = false → s.ownRange p x.srcAddr k [0, 1, 2, 3] = true → (s.lentAt p x.srcAddr k).isNone = true →
      ∃ t : State, exec (.tongsPiece e p .clean) s = .next t ∧ t.load (gLocal dst) k = s.load (gLocal x.srcAddr) k ∧
        (∀ a, ¬(gLocal dst ≤ a ∧ a < gLocal dst + k) → t.load a 1 = s.load a 1) ∧ t.tongs = (moved s 0).tongs) ∧
    (x.op = 2 → 0 < n → s.remoteEnd p dst = true → s.arenaMeets p dst n = false → ∀ ecc,
      let w := s.remoteWrite p dst (List.replicate n 0#8) (List.replicate n false) (.tongs e x.src x.insn)
      exec (.tongsPiece e p ecc) s = .next (moved w.1 w.2))

/-- R153, R154, R156: a filling frame whose home is in the module's own crucible becomes clean; with fewer than 16 pool frames free the least recently
used frame not in use is freed when clean and else written back; one with pages left sends them, and one whose pages have all been acknowledged is
freed. The number of pool frames is kept. A write-back that waits for a key beyond the limit writes the record of R156. -/
def Obligations.ArenaKeepsItsBook : Prop :=
  ∀ (s : State) (p a : Nat), p < 4 → s.arenaOf p = some a →
    (∀ home f, (s.part p).arena.find home = some f → f.st = .filling → s.homeLocal home = true →
      ∀ bad fixed, (Instr.arenaFill p ⟨home, bad, fixed⟩).wf = true → exec (.arenaFill p ⟨home, bad, fixed⟩) s = .next (((s.copyFrame p (gLocal (home * frameBytes)) (poolAddr a f.pool) bad fixed).modArena p fun r =>
        r.modFrame home fun f => { f with st := .clean, next := 0 }).arenaMoved p)) ∧
    (∀ f, (∀ g ∈ (s.part p).arena.frames, g.st ≠ .writeback) → (s.part p).arena.free < 16 → s.oldest p = some f → f.st = .clean →
      ∀ bad fixed, (Instr.arenaWriteback ⟨p, bad, fixed⟩).wf = true → exec (.arenaWriteback ⟨p, bad, fixed⟩) s = .next (s.modArena p fun r => r.release f.home)) ∧
    (∀ f, (∀ g ∈ (s.part p).arena.frames, g.st ≠ .writeback) → (s.part p).arena.free < 16 → s.oldest p = some f → f.st ≠ .clean →
      ∀ bad fixed, (Instr.arenaWriteback ⟨p, bad, fixed⟩).wf = true → exec (.arenaWriteback ⟨p, bad, fixed⟩) s = .next (s.writeBack p f bad fixed)) ∧
    (∀ f bad fixed, (Instr.arenaWriteback ⟨p, bad, fixed⟩).wf = true → (∀ g ∈ (s.part p).arena.frames, g.st = .writeback → g.next < 512) → ((s.part p).arena.frames.find? fun f => f.st == .writeback && f.next < 512) = some f →
      exec (.arenaWriteback ⟨p, bad, fixed⟩) s = .next (s.sendPages p f.home)) ∧
    (∀ f bad fixed, (Instr.arenaWriteback ⟨p, bad, fixed⟩).wf = true → ((s.part p).arena.frames.find? fun f => f.st == .writeback && 512 ≤ f.next && !s.awaits p (fun o => match o with | .arenaOut h => h == f.home | _ => false)) = some f →
      exec (.arenaWriteback ⟨p, bad, fixed⟩) s = .next ((s.modArena p fun r => r.release f.home).arenaMoved p)) ∧
    (∀ (r : Arena) home, r.book a = true → (r.release home).book a = true) ∧
    (∀ (r : Arena) home g, r.book a = true → (r.modFrame home g).book a = true) ∧
    (∀ (r r' : Arena) home k st, r.book a = true → 0 < r.free → r.take (saPool a) home st = some (r', k) → r'.book a = true) ∧
    (∀ t, (s.part p).arena.waitFrom = some t → s.waitLimit p < s.tick - t →
      exec (.arenaStall p) s = .next
        ((s.modArena p fun r => { r with frames := r.frames.map fun f => { f with wait := f.wait.map fun _ => s.tick } }).raise (recPart p 3 (Config.faultCode 156))))

/-- R152: a missing confirmation at the wait limit writes PAIRING (code 0x55) naming the module; a confirmation received of a borrowed range ends the
hold when it is the last, of a lent range it is answered (the message's form is the model's, log entry 15). R53, R54: a returned credit raises the
producer's credits by 1, up to the slots of the queue; a full notice raises the consumer's full slots by 1, and the step's mark of stored activations
follows (R55); a message of an older epoch is dropped and counted (the message's form is the model's, log entry 14). -/
def Obligations.PairingAndQueueMessagesCount : Prop :=
  (∀ (s : State) (p : Nat),
    (∀ b m q rest, p < 4 → s.unconfirmed p = (b, m, q) :: rest → (s.part p).run.holds.contains .pairing = true → s.waitLimit p < s.tick - (s.part p).run.holdFrom →
      exec (.arenaLendTimeout p) s = .next ((s.modRun p fun r => { r with holdFrom := s.tick }).raise { recPart p 3 0x55 with addr := m })) ∧
    (∀ (k : HtPkt) base u, k.op = 2 → k.bufBad = [] → s.receive [6] k = (u, some p) →
      let v := ((u.dataArrived p k).bufErrors p k).ackIfDue p k.srcModule k.srcPart
      ((v.borrowed p).contains (base, k.srcModule, k.srcPart) = true → exec (.pairingConfirm k base) s = .next
        (let w := v.modArena p fun r => { r with confirmed := setIns base r.confirmed }
         if (w.unconfirmed p).isEmpty then w.unhold p .pairing else w)) ∧
      ((v.borrowed p).contains (base, k.srcModule, k.srcPart) = false → (v.lentOut p).contains (base, k.srcModule, k.srcPart) = true →
        exec (.pairingConfirm k base) s = .next (v.send p (pairingMsg k.srcModule k.srcPart base) .none)))) ∧
  (∀ (s u : State) (k : HtPkt) (p queue epoch i : Nat) (x : ActQ), k.op = 1 → k.bufBad = [] → s.receive [6] k = (u, some p) →
    let v := ((u.dataArrived p k).bufErrors p k).ackIfDue p k.srcModule k.srcPart
    (v.part p).actq queue = some (i, x) → aqMod x.desc = k.srcModule → aqPart x.desc = k.srcPart →
    (aqConsumer x.desc = false → epochOlder epoch (v.part p).run.epoch = false → exec (.actqCredit k queue epoch) s = .next
      ((v.modActq p i fun y => if y.credits < aqCount y.desc then { y with credits := y.credits + 1 } else y).actMark p)) ∧
    (aqConsumer x.desc = true → epochOlder epoch (v.part p).run.epoch = false → exec (.actqFullNotice k queue epoch) s = .next
      ((v.modActq p i fun y => if y.full + y.popped < aqCount y.desc then { y with full := y.full + 1, hwm := max y.hwm (y.full + 1) } else y).actMark p)) ∧
    (aqConsumer x.desc = false → epochOlder epoch (v.part p).run.epoch = true → exec (.actqCredit k queue epoch) s = .next
      ((v.modActq p i fun y => { y with stale := y.stale + 1 }).count .staleNotice)))

/-- R150, R178, R182, R216, R217, R346: background pieces and the host's answers to them; a retransmission sends again, in order, every
packet that a connected QP holds unacknowledged. -/
def Obligations.BackgroundCopiesProceed : Prop :=
  ∀ (s : State) (p k : Nat) (b : Bg) (ecc : Ecc), p < 4 → s.bg p k = some b →
    (s.feeds p = true → b.sent = false → b.retryStep = none → b.kind = .memSend →
      exec (.backgroundPieceFeed p k ecc) s = .next ((s.readEcc (gLocal b.src + b.fed) ecc).sendPiece p b fun s => (s.sendFail p b).dropBg p k)) ∧
    (∀ d, s.feeds p = true → b.sent = false → b.retryStep = none → b.kind = .ingotCapture → (s.shards p)[b.fed]? = some d →
      exec (.backgroundPieceFeed p k ecc) s = .next ((s.readEcc (gLocal (udWork d)) ecc).captureShard p b b.fed)) ∧
    (s.feeds p = true → b.sent = false → b.retryStep = none → b.kind = .ingotCapture → b.fed = (s.shards p).length →
      exec (.backgroundPieceFeed p k ecc) s = .next (s.sealPart p b)) ∧
    (b.sent = true → b.kind = .memSend → exec (.hostTransferAck p k) s = .next ((s.dropBg p k).landed (p, k))) ∧
    (b.sent = true → b.kind = .ingotSend → exec (.hostTransferAck p k) s = .next
      (((s.dropBg p k).landed (p, k)).modPart p fun q => { q with ingotHeld := q.ingotHeld.filter fun h => h.1 != b.src })) ∧
    (∀ q, q < 64 → (s.qp q).st = 1 → exec (.hostWriteFail q) s = .next (s.qpError q)) ∧
    (∀ q, q < 64 → (s.qp q).st = 1 → exec (.hostRetransmit q) s = .next (s.each (s.qp q).unacked fun s x => s.writeFrame q x.2))

/-! ## Commits, pyrometer -/

/-- R165, R166, R168: the commit. It opens while one of the unit's two buffers is free; at its opening the reads meet the errors
found (R304, R307), the word is voted and passes 1 and 2 write the
inactive generation; once the decision is final each further command makes its next write (copies 0, 1 and 2 of the word, then the working copy; Table 08-5),
or it abandons, or holds its shard; then the instruction completes. A retired unit's queue and open commits are empty. A flip writes the three copies of the
generation word and nothing else. -/
def Obligations.CommitRunsInOrder : Prop :=
  (∀ (s : State) (u : Nat), u < 8 →
    (∀ x, (s.uunit u).bufferFree = false → exec (.commitOpen ⟨u, x⟩) s = .next s) ∧
    (∀ e rest t w x, (s.uunit u).bufferFree = true → (s.uunit u).queue = e :: rest → (s.uunit u).offline = false → s.shardBusy e.part e.desc = false → s.guarded e.part e.desc = false →
      (s.meet (s.commitReads e.part e.desc) x).voteGen e.part e.desc = (t, some w) →
      let v := (t.modUnit u fun y => { y with queue := rest }).placeRedo e.part
      v.shardOpen e.part e.desc = true →
      let st := (s.part e.part).run.step
      let f := v.form e.part e.desc st (sgActive w) (sgRank w) true
      let fold := v.pendingFold e.part e.desc st (sgRank w)
      let z := ((v.writeState e.desc (1 - sgActive w) f).sampleCommit e.part (samplerUnit u) e.desc f).foldRec e.part f fold
      (sgRank w ≠ some st → (∀ g, sgRank w = some g → g < st) → v.gradOpen e.part e.desc = true → f.slag = false → exec (.commitOpen ⟨u, x⟩) s = .next (z.modUnit u fun y =>
          { y with opn := y.opn ++ [{ ent := e, step := st, gen := 1 - sgActive w, buf := f.codes.map (·.1), bad := f.hold, redo := false, flipped := false,
                                      merged := z.foldsPartial e.part fold }] })) ∧
      (∀ g, sgRank w = some g → st < g → exec (.commitOpen ⟨u, x⟩) s = .next (v.raise { updRec e.part u 3 0x46 with addr := udGen e.desc }))) ∧
    (∀ i o k, firstWith s.decidable (s.uunit u).opn = some (i, o) → o.redo = false → (s.part o.ent.part).run.decision = some k →
      (k.skip = true → exec (.commitDecision u) s = .next (s.modUnit u fun y => { y with opn := updAt y.opn i fun _ => { o with decided := true } })) ∧
      (k.skip = false → o.bad = false → o.merged = false → o.flips < 3 → exec (.commitDecision u) s = .next
        ((s.writeCopy o.ent.desc o.flips (mkGen o.step o.gen false)).modUnit u fun y =>
          { y with opn := updAt y.opn i fun _ => { o with flips := o.flips + 1, flipped := decide (1 ≤ o.flips) } })) ∧
      (k.skip = false → o.bad = false → o.merged = false → 3 ≤ o.flips → s.workOpen o.ent.part o.ent.desc = true → exec (.commitDecision u) s = .next
        ((s.writeWork o.ent.desc o.buf).modUnit u fun y => { y with opn := updAt y.opn i fun _ => { o with decided := true } })) ∧
      (k.skip = false → o.bad = true → exec (.commitDecision u) s = .next
        (((s.modRun o.ent.part fun r => { r with repro := true }).raise { updRec o.ent.part u 2 0x40 with addr := udElem o.ent.desc, detail := udTensor o.ent.desc }).modUnit u fun y =>
          { y with opn := updAt y.opn i fun _ => { o with decided := true } }))) ∧
    (∀ i o, firstWith (·.decided) (s.uunit u).opn = some (i, o) → exec (.commitComplete u) s = .next
      ((s.modUnit u fun y => { y with opn := y.opn.eraseIdx i }).complete o.ent.part o.ent.stream o.ent.insn)) ∧
    ((s.uunit u).offline = false → ∃ t : State, exec (.updateUnitRetired u) s = .next t ∧ (u < s.units.length → (t.uunit u).offline = true ∧ (t.uunit u).queue = [] ∧ (t.uunit u).opn = []))) ∧
  (∀ (s : State) (d w : Nat), w < 2 ^ 64 → vote3 ((s.writeGen d w).genCopies d) = some (w, true) ∧
    (∀ a, (∀ k < 3, ¬(genAddr d k ≤ a ∧ a < genAddr d k + 8)) → Memory.read (s.writeGen d w).mem a = Memory.read s.mem a))

/-- R136, R39, R138, R139: the flag word is taken once all that it waits for has completed, and the held flag reductions carry it; a REDUCE is released
in order once its staging fits; a sampled position is compared, and a mismatch sets drift; one whose
element is marked, or lies behind a lost PLL, is counted as marked instead. The reads meet the errors found. -/
def Obligations.PyrometerEventsComplete : Prop :=
  ∀ (s : State) (p : Nat), p < 4 →
    (s.flagDue p = true → exec (.stepFlagTaken p) s = .next
      (let t := s.modRun p fun r => { r with flagTaken := some (s.part p).run.flagWord }
       ((t.each ((t.part p).coll.ops.filter fun o => o.kind == 2 && !o.sent) fun t o => t.flagSend p o (s.part p).run.flagWord).abortsDue p).collSettle p)) ∧
    (∀ w o x, (s.part p).run.flagTaken = some w → (s.part p).fenced = false → (s.part p).st = .active →
      ((s.part p).coll.ops.find? fun o => o.kind == 0 && !o.released && !o.abandoned && !o.done) = some o →
      let room := (((s.part p).job.map (·.staging.2)).getD 0) - s.flagRootBytes p
      ((s.part p).coll.taken o + o.need ≤ room → exec (.reduceRelease ⟨p, x⟩) s = .next ((s.meet [(gLocal (cdSrc o.desc), 4 * cdCount o.desc)] x).releaseOp p o)) ∧
      (∀ y, ((s.seq p .bwd).out.find? fun y => y.id == o.insn) = some y → room < o.need → exec (.reduceRelease ⟨p, x⟩) s = .next ((s.stopStream p .bwd).raise { recPart p 3 0x20 with
        layer := y.layer, addr := y.at_, detail := y.word }))) ∧
    (∀ x rest e, (s.part p).pyro.samples = x :: rest →
      let i := samplePos (jpSeed (s.params p)) (ssTensor x.desc) (s.part p).run.step x.next (ssCount x.desc)
      let g := ssWork x.desc + 2 * i
      let ma := gLocal (ssMaster x.desc) + i * ssStride x.desc
      let t := (s.meet [(ma, 4), (gLocal g, 2)] e).modPyro p fun y => { y with samples := if ssSamples x.desc ≤ x.next + 1 then rest else { x with next := x.next + 1 } :: rest }
      let conv := ((fmtOf (ssFmt x.desc)).enc .rne true (f32 (BitVec.ofNat 32 (t.word ma 4)))).1
      let lost := t.unreached ma 4 || t.unreached (gLocal g) 2 || t.marked ma 4 || t.marked (gLocal g) 2
      s.commitOn p g = false → (lost = true → exec (.samplePositionCheck ⟨p, e⟩) s = .next ((t.sampleSlag p samplerCheck (ssTensor x.desc) 1).modPyro p Pyro.flush)) ∧
        (lost = false → exec (.samplePositionCheck ⟨p, e⟩) s = .next
          (if conv = t.word (gLocal g) 2 then t else t.driftFound p x.desc i conv (t.word (gLocal g) 2))))

/-- R129: the controller's next exponent lies in the range of the entry's format whatever was sampled, and does not fall below the present one while a hold
lasts; a controlled exponent falls by at most down_max in a step. -/
def Obligations.ControllerBoundsExponent : Prop :=
  ∀ t : Track, fmtControlled (trFmt t.cfg) = true →
    let c := t.nextE
    fmtLo (trFmt t.cfg) ≤ c.t.eNext ∧ c.t.eNext ≤ fmtHi (trFmt t.cfg) ∧
    (t.quenchDue = false → 0 < t.hold → t.e ≤ fmtHi (trFmt t.cfg) → t.e ≤ c.t.eNext ∧ c.t.hold = t.hold - 1) ∧
    (t.quenchDue = false → t.hold = 0 → t.e ≤ fmtHi (trFmt t.cfg) → t.e - trDownMax t.cfg ≤ c.t.eNext) ∧
    (t.quenchDue = true → c.t.hold = trHold t.cfg ∧ min (t.e + trQuenchStep t.cfg) (fmtHi (trFmt t.cfg)) ≤ c.t.eNext)

/-! ## Collectives -/

/-- R188, R190, R198-R204: a segment heard is taken by its kind, and the transport acknowledges when that is due: contributions, results, gathered
pieces, statistics and decisions wait for their operation or are used at once; a flag word, an abort and a barrier go to the root's book; an answer
ends a wait. Errors found in the storage that a segment is kept in mark what they hold (R209). -/
def Obligations.SegmentsReachTheirOperation : Prop :=
  ∀ (s u : State) (pkt : HtPkt) (p : Nat) (x : Seg), s.hears pkt p u x →
    let from_ := senderOf pkt
    let ack := fun (t : State) => t.ackIfDue p pkt.srcModule pkt.srcPart
    (x.kind = 0 → ∀ fixed bad, exec (.contrib pkt fixed bad) s = .next (ack ((u.accErrors p x fixed bad).keepSeg p from_ x))) ∧
    (x.kind = 1 → ∀ k : HeldPkt, k.pkt = pkt → exec (.result k) s = .next (ack ((u.heldErrors p x k).keepSeg p from_ (x.marked (heldSender k from_))))) ∧
    (x.kind = 3 → ∀ k : HeldPkt, k.pkt = pkt → exec (.stat k) s = .next (ack ((u.heldErrors p x k).keepSeg p (heldSender k from_) x))) ∧
    (x.kind = 5 → exec (.decide pkt) s = .next (ack (u.keepSeg p from_ x))) ∧
    (x.kind = 2 → isRejoin x = false → exec (.gatherSegment pkt) s = .next (ack (u.keepSeg p from_ x))) ∧
    (x.kind = 2 → isRejoin x = true → (u.part p).run.holds.contains .rejoin = true → exec (.gatherSegment pkt) s = .next (ack ((u.holdSeg p from_ x.bytes).tryRejoin p))) ∧
    (∀ (g : Nat) (k : HeldPkt) (v : State), k.pkt = pkt → v = u.heldErrors p x k → v.group p x.group = some g → x.kind = 4 → cgRank g = 0 →
      (v.part p).coll.aborts.contains (cgId g, x.step, none) = false → (v.part p).run.step ≤ x.step →
      ∃ w : FlagWord, w.rank = x.rank ∧ w.word = leNat (x.body.take 2) ∧ w.slag = (senderMarks (heldSender k from_) 40 (x.body.length - 8)).any id ∧ exec (.flagSegment k) s = .next (ack ((v.rootAdd p g x.step x.occ w false).collSettle p))) ∧
    (∀ g, u.group p x.group = some g →
      (x.kind = 6 → cgRank g = 0 → (u.part p).run.step ≤ x.step → exec (.abort pkt) s = .next (ack ((u.rootAbort p g x.step (some (senderMod from_))).collSettle p))) ∧
      (x.kind = 7 → isAnswer x s p = false → (x.body.headD 0#8).toNat ≤ 2 → cgRank g = 0 →
        exec (.barrier pkt) s = .next (ack (u.barrierHeard p g (x.body.headD 0#8).toNat x.rank (leNat (x.body.drop 4)) x.epoch))) ∧
      (x.kind = 7 → isAnswer x s p = false → (x.body.headD 0#8).toNat = 3 →
        exec (.barrier pkt) s = .next (ack (u.modColl p fun c => { c with rejoins := c.rejoins ++ [(cgId g + 64 * x.epoch, x.rank)] }))) ∧
      (x.kind = 7 → isAnswer x s p = true → (x.body.headD 0#8).toNat ≠ 3 → x.epoch = (u.part p).run.epoch →
        exec (.barrierAnswer pkt) s = .next (ack (u.barrierAnswered p g (x.body.headD 0#8).toNat))))

/-- R204: a segment of an older epoch is dropped and counted, and its operation's stale count rises by 1; one of a newer epoch is dropped and counted.
Memory, token counters and the root's books are as they were, and no operation gains anything from it. -/
def Obligations.SegmentsOfOtherEpochsAreDropped : Prop :=
  ∀ (s u v : State) (pkt : HtPkt) (p : Nat) (fixed bad : HeldErrs), (pkt.op = 0 ∨ 2 < pkt.op) → pkt.dstPart = p → s.receive [6] pkt = (u, some p) →
    v = (u.dataArrived p pkt).bufErrors p pkt →
    let x := (segOf pkt.payload).marked (senderOf pkt)
    let older := epochOlder x.epoch (v.part p).run.epoch
    x.epoch ≠ (v.part p).run.epoch → x.kind = 0 →
      exec (.contrib pkt fixed bad) s = .next ((v.epochDrop p x older).ackIfDue p pkt.srcModule pkt.srcPart) ∧
      (v.epochDrop p x older).mem = v.mem ∧ ((v.epochDrop p x older).part p).coll.roots = (v.part p).coll.roots ∧
      ((v.epochDrop p x older).part p).run = (v.part p).run ∧
      ∀ o, ((v.epochDrop p x older).part p).coll.op o = ((v.part p).coll.op o).map fun q =>
        if older = true ∧ ((v.part p).coll.forSeg x).map (·.insn) = some q.insn then { q with staleN := satTo 16 (q.staleN + 1) } else q

/-- R196: a DIRECT stage of a part that is not empty books each of its d contributions once as it closes: received where it carried payload, dropped where
it was empty; one still missing late under late_carry, else dropped. The three sum to what is expected. -/
def Obligations.DirectStageBooksBalance : Prop :=
  ∀ (s : State) (p : Nat) (o : CollOp) (a code : Nat), s.shaped → p < 4 → (s.part p).coll.op o.insn = some o → (cgPart o.group o.desc a (cgMine o.group a)).2 ≠ 0 →
    o.heard.length ≤ cgDim o.group a → (∀ h ∈ o.heard, h.2.1 ≤ 1) → o.expected = o.received + o.late + o.dropped →
    ∃ q : CollOp, ((s.closeDirect p o a code).part p).coll.op o.insn = some q ∧ q.expected = o.expected + cgDim o.group a ∧
      q.received = o.received + (o.heard.filter fun h => h.2.1 == 0).length ∧
      q.late = o.late + (if cgCarry o.group then cgDim o.group a - o.heard.length else 0) ∧ q.expected = q.received + q.late + q.dropped ∧
      (s.closeDirect p o a code).mem = s.mem

/-- The timers of the collective engine (R185, R194, R200, R201); a DIRECT stage that closes short marks the sums that errors have hit (R119, R209). -/
def Obligations.CollectiveTimersComplete : Prop :=
  ∀ (s : State) (p n : Nat), p < 4 →
    (∀ g r t, n < 64 → s.group p n = some g → cgWait g ≠ 0 → cgFlagMiss g ≠ 0 → ((s.part p).coll.roots.find? fun r => r.group == n && !r.closed &&
        (match r.taken with | some t => cgWait g ≤ s.tick - t | none => false)) = some r → r.taken = some t →
      exec (.flagRootTimeout p n) s = .next ((s.rootClose p g r.step r.occ 0 0).collSettle p)) ∧
    (∀ l, (s.part p).coll.ops.filter (fun o => o.kind == 2 && o.sent && !o.done && s.waitLimit p < s.tick - o.releaseTick) = l → l ≠ [] →
      exec (.decideTimeout p) s = .next (s.each l fun s o => s.declareLost p (s.member o.group 0).1)) ∧
    (∀ o a rest t fixed bad, (s.part p).coll.op n = some o → o.stages = ⟨a, false⟩ :: rest → o.stageTick = some t → o.released = true → o.done = false →
      cgDirect o.group a = true → cgWait o.group ≠ 0 → cgWait o.group ≤ s.tick - t →
      let hit := markPairs (markedBy o.accum.length fixed bad) o.accum
      let v := (s.addErrors p o.accum.length fixed bad).modOp p n fun q => { q with accum := markPairs (markedBy o.accum.length fixed bad) q.accum }
      exec (.directStageTimeout p ⟨n, fixed, bad⟩) s = .next ((State.advanceOp p n 8 ((v.closeDirect p { o with accum := hit } a 2).nextStage p n)).collSettle p)) ∧
    (n < 64 → (s.part p).run.holds.contains .confirm = true → (s.group p n).isSome = true → (s.part p).coll.confirmed.contains n = false → s.waitLimit p < s.tick - (s.part p).coll.confirmFrom →
      exec (.groupCfg p n) s = .next ((s.modColl p fun c => { c with confirmFrom := s.tick }).raise { recPart p 3 0x54 with detail := n }))

/-! ## Hall transport -/

/-- R219: the checks in order, each with its own drop counter: check 1 (marker and icrc), 2 (form), 3 (destination), 4 (sender), 5 (generations); a packet
received before is counted under check 6 and acknowledged, and changes nothing in memory; none of the others reaches a partition or a channel. A tagged
frame is dropped and counted before them (R211), a partition whose own entry is SPARE takes CONTROL and ACK only (R229), and unsolicited data that the
buffer has no room for is dropped and counted, not acknowledged (R227). -/
def Obligations.PacketChecksInOrder : Prop :=
  ∀ (s : State) (types : List Nat) (k : HtPkt), types.contains k.type = true →
    (k.vid ≠ 0 → s.receive types k = (s.count .badTag, none)) ∧
    (k.vid = 0 → s.power.pstate = .p3 ∨ s.power.pstate = .p4 → s.receive types k = (s.count .inP3, none)) ∧
    (k.vid = 0 → s.power.pstate ≠ .p3 → s.power.pstate ≠ .p4 → s.hasNet = true →
      let bad1 := k.udpOk = false ∨ k.icrc ≠ htIcrc k
      let bad3 := s.idValid = false ∨ k.dstModule ≠ s.moduleId ∨ s.nparts ≤ k.dstPart
      let p := k.dstPart
      let v := (s.voteRoot p).renewChan p k
      let f := (v.part p).fab
      let c := f.chan k.srcModule k.srcPart
      (bad1 → s.receive types k = (s.count (.check 1), none)) ∧
      (¬bad1 → htFormOk k = false → s.receive types k = ((s.count (.check 2)).packetBad 0 k.srcModule, none)) ∧
      (¬bad1 → htFormOk k = true → bad3 → s.receive types k = (s.count (.check 3), none)) ∧
      (¬bad1 → htFormOk k = true → ¬bad3 →
        (f.senderOk v.moduleId k = false → s.receive types k = ((v.count (.check 4)).packetBad p k.srcModule, none)) ∧
        (f.senderOk v.moduleId k = true →
          (k.routeGen ≠ f.genOf v.moduleId ∨ k.connGen ≠ c.connGen → s.receive types k = (v.count (.check 5), none)) ∧
          (k.routeGen = f.genOf v.moduleId → k.connGen = c.connGen →
            (f.takes v.moduleId k.type = false → s.receive types k = (v, none)) ∧
            (f.takes v.moduleId k.type = true →
              (htReliable k.type = false → s.receive types k = (v, some p)) ∧
              (htReliable k.type = true → c.hasGot k.psn = true → s.receive types k = (v.duplicate p k, none) ∧ (v.duplicate p k).mem = s.mem ∧
                (v.duplicate p k).marks = s.marks) ∧
              (htReliable k.type = true → c.hasGot k.psn = false → psnAhead k.psn c.cum ≤ 256 →
                let full := c.unsolicited k = true ∧ unsolBytes v.nparts < v.unsolHeld p + k.payload.length
                (full → s.receive types k = (v.count .unsolicited, none)) ∧
                (¬full → s.receive types k = (v.modFab p fun f => f.modChan k.srcModule k.srcPart (Chan.accept v.tick k.psn k.ce), some p))))))))

/-- R220, R237: a WRITE accepted puts its bytes at the address within the target's own ranges before anything acknowledges it; every byte outside them
reads as before. Outside what it may reach nothing is written and an address record is made. -/
def Obligations.WritesLand : Prop :=
  ∀ (s u : State) (k : HtPkt) (p : Nat), s.shaped → k.type = 0 → 0 < k.length → s.gets [0] k p u →
    (u.targetOk p k.srcModule k.srcPart k.addr k.length [0, 1, 2, 3] = true → ∃ t : State, exec (.htWrite k [] []) s = .next t ∧
      t.load (gLocal k.addr) k.length = k.payload ∧ (∀ a, ¬(gLocal k.addr ≤ a ∧ a < gLocal k.addr + k.length) → t.load a 1 = s.load a 1)) ∧
    (u.targetOk p k.srcModule k.srcPart k.addr k.length [0, 1, 2, 3] = false → ∀ fixed bad,
      exec (.htWrite k fixed bad) s = .next ((((u.addrErr p k.addr).dataArrived p k)).ackIfDue p k.srcModule k.srcPart) ∧
      (((u.addrErr p k.addr).dataArrived p k).ackIfDue p k.srcModule k.srcPart).mem = s.mem)

/-- R220, R221: READ_REQ answers the bytes read, or zeros with slag outside what it may reach; an atomic on an unmarked word in reach writes the new
value, answers the old and keeps it for a repeat. The reads meet the errors found (R304, R307). -/
def Obligations.ReadsAndAtomicsAnswer : Prop :=
  ∀ (s u : State) (k : HtPkt) (p : Nat),
    let ack := fun (t : State) => (t.dataArrived p k).ackIfDue p k.srcModule k.srcPart
    let la := gLocal k.addr
    (k.type = 1 → s.gets [1] k p u → u.targetOk p k.srcModule k.srcPart k.addr k.aux [0, 1, 2, 3] = true →
      let v := u.meet [(la, k.aux)] k.found
      exec (.readReq k) s = .next (ack ((v.addRbw p (v.rbwLines la k.aux)).respond p 2 k (v.load la k.aux) (v.loadMark la k.aux)))) ∧
    (k.type = 1 → s.gets [1] k p u → u.targetOk p k.srcModule k.srcPart k.addr k.aux [0, 1, 2, 3] = false →
      exec (.readReq k) s = .next (ack ((u.addrErr p k.addr).respond p 2 k (List.replicate k.aux 0#8) true))) ∧
    (k.type = 3 → s.gets [3] k p u → k.addr % 8 = 0 → u.targetOk p k.srcModule k.srcPart k.addr 8 [0, 1, 2] = true →
      let v := u.meet [(la, 8)] k.found
      v.marked la 8 = false → k.bufBad = [] →
      let old := v.word la 8
      let a := leNat (k.payload.take 8)
      let b := leNat ((k.payload.drop 8).take 8)
      let after := fun (new : Nat) => ack (((v.store la (leBytes 8 new) false).modFab p fun f => f.modChan k.srcModule k.srcPart fun c =>
        { c with atomics := (c.atomics ++ [({ psn := k.psn, old := old, slag := false } : Atomic)]).drop (c.atomics.length + 1 - 256) }).respond p 4 k (leBytes 8 old) false)
      (k.op = 0 → exec (.fetchAdd k) s = .next (after ((old + a) % 2 ^ 64))) ∧
      (k.op = 1 → exec (.cmpSwap k) s = .next (after (if old = a then b else old))) ∧
      (k.op = 2 → exec (.swap k) s = .next (after a)))

/-- R222, R226-R228: acknowledgements, answers and grants of a channel. -/
def Obligations.ChannelEventsComplete : Prop :=
  ∀ (s u : State) (k : HtPkt) (p : Nat),
    let m := k.srcModule
    let q := k.srcPart
    let fin := fun (t : State) => (t.dataArrived p k).ackIfDue p m q
    (k.type = 5 → s.gets [5] k p u →
      let l := ((u.part p).fab.chan m q).out.filter (ackCovers (leNat (k.payload.take 4)) (leNat ((k.payload.drop 4).take 8)))
      let v := u.modFab p fun f => (l.foldl (fun (f : Fabric) x => f.dropOut m q x) f).modChan m q (Chan.steerWindow u.tick f.window l.length (leNat ((k.payload.drop 12).take 2)))
      (l = [] → exec (.htAck k) s = .next (v.pump p m q)) ∧
      (l ≠ [] → exec (.htAck k) s = .next (((v.modFab p fun f => f.endRollback m q).each l fun t x => t.ownerDone p x.owner).pump p m q))) ∧
    (∀ x, k.type = 4 → s.gets [4] k p u → ((u.part p).fab.chan m q).outAt 3 k.psn = some x → k.slag = false →
      exec (.atomicResp k) s = .next (((u.modFab p fun f => f.dropOut m q x).serveGrants p).pump p m q)) ∧
    (∀ x r, k.type = 4 → s.gets [4] k p u → ((u.part p).fab.chan m q).outAt 3 k.psn = some x → k.slag = true → x.owner = .roundAdd r →
      exec (.atomicResp k) s = .next ((((u.modFab p fun f => f.dropOut m q x).modOuter p fun o => { o with added := o.added.filter (· != r) }).serveGrants p).pump p m q)) ∧
    (∀ x, k.type = 2 → s.gets [2] k p u → (u.part p).restore = none → ((u.part p).fab.chan m q).outAt 1 k.psn = some x →
      let t := ((((u.modFab p fun f => f.dropOut m q x).landRead p x.owner (padTo x.pkt.aux 0#8 (k.payload.take x.pkt.aux)) (senderMarks (senderOf k) 0 x.pkt.aux))).serveGrants p).pump p m q
      let again := (t.part p).run.holds.contains .gather = true ∧ (t.part p).run.holds.contains .rollback = false
      (¬again → exec (.readResp k) s = .next t) ∧ (again → exec (.readResp k) s = .next (t.roundLayout p))) ∧
    (k.type = 7 → s.gets [7] k p u → exec (.request k) s = .next (fin ((u.modFab p fun f => f.modChan m q fun c => { c with want := 64 * k.aux }).serveGrants p))) ∧
    (k.type = 8 → s.gets [8] k p u → exec (.grant k) s = .next (fin ((u.modFab p fun f => f.modChan m q fun c =>
      { c with grant := c.grant + 64 * k.aux, asked := c.asked - 64 * k.aux, grantTick := u.tick }).pump p m q))) ∧
    (k.type = 9 → s.gets [9] k p u → 64 * k.aux ≤ ((u.part p).fab.chan m q).issued → exec (.returnGrant k) s = .next (fin ((u.modFab p fun f =>
      { f.modChan m q fun c => { c with issued := c.issued - 64 * k.aux } with poolIssued := f.poolIssued - 64 * k.aux }).serveGrants p)))

/-- The timers of channels, heartbeats and watched modules (R222, R223, R227, R231-R233). A link that goes down is resent around at once and counted as a
flap; a held link that is let go may train again (R223, R236). -/
def Obligations.HallTimersComplete : Prop :=
  (∀ (s : State) (p m q : Nat), p < 4 → q < 4 →
    let f := (s.part p).fab
    let c := f.chan m q
    (∀ t, c.oldest = some t → t + ticksUs 2 ≤ s.tick → exec (.htAckTimer p m q) s = .next (s.sendAck p m q)) ∧
    (0 < c.grant → c.grantTick + ticksUs 100 ≤ s.tick →
      exec (.grantIdleTimeout p m q) s = .next ((s.modFab p fun f => f.modChan m q fun c => { c with grant := 0, asked := 0 }).send p (c.packet 0x09 0 (c.grant / 64) []) .none)) ∧
    (∀ psn x, (c.out.find? fun y => y.pkt.psn == psn) = some x → x.deadline ≤ s.tick → x.attempts < (f.planeTimeout s.moduleId m x.plane).retryMax → p < s.parts.length →
      let x' := { x with attempts := x.attempts + 1, deadline := s.tick + ticksUs (f.rto0 * 2 ^ (x.attempts + 1)) }
      exec (.packetTimeout p m q psn) s = .next (((s.modFab p fun f => f.planeTimeout s.moduleId m x.plane).modFab p fun f => f.modChan m q fun c =>
        { c with out := c.out.map fun y => if y.pkt.psn == psn then x' else y }).launch p m q x' (some x.plane))) ∧
    (∀ psn x, (c.out.find? fun y => y.pkt.psn == psn) = some x → x.deadline ≤ s.tick → (f.planeTimeout s.moduleId m x.plane).retryMax ≤ x.attempts → p < s.parts.length →
      let t := (s.modFab p fun f => f.planeTimeout s.moduleId m x.plane).declareLost p m
      (x ∉ ((t.part p).fab.chan m q).out → exec (.packetTimeout p m q psn) s = .next t) ∧
      (x ∈ ((t.part p).fab.chan m q).out → exec (.packetTimeout p m q psn) s = .next ((t.modFab p fun f => (f.dropOut m q x).endRollback m q).ownerLost p x.pkt x.owner))) ∧
    ((s.part p).job.isSome = true → f.hbTick + f.hbTicks ≤ s.tick → ∃ t : State, exec (.heartbeatTimer p) s = .next t ∧ t.mem = s.mem ∧
      (p < s.parts.length → (t.part p).fab.hbTick = s.tick) ∧ (t.part p).run = (s.part p).run ∧ t.hub.queue = s.hub.queue ∧ (∀ w, vote3 f.root = some (w, true) → t.hub = s.hub)) ∧
    (∀ id pl t, pl < 8 → f.heard id pl = some t → (s.part p).job.isSome = true → (f.watched s.moduleId).contains id = true → t + 3 * f.hbTicks ≤ s.tick →
      exec (.planeDown p id pl) s = .next (s.modFab p fun f => { f with dead := if f.dead.contains (id - f.idBase, pl) then f.dead else f.dead ++ [(id - f.idBase, pl)] })) ∧
    (∀ id, (f.watched s.moduleId).contains id = true → f.silent s.tick id 5 = true → exec (.peerLost p id) s = .next (s.declareLost p id)) ∧
    ((s.part p).job.isSome = true → f.watched s.moduleId ≠ [] → (∀ id ∈ f.watched s.moduleId, f.silent s.tick id 5 = true) → exec (.isolationTimeout p) s = .next (s.putOut p)) ∧
    (f.rolling = true → s.isCoordinator p = true → f.lossTick + ticksSec 10 ≤ s.tick →
      exec (.lossHold p) s = .next ((s.modFab p fun f => { f with lossTick := s.tick }).notice p 3 ((enum (f.lostList.take 12)).map fun (i, id) => id * 2 ^ (20 * i)).sum))) ∧
  (∀ (s : State) (q k : Nat), q < 8 → k < 8 →
    (((s.port q).sub k).up = true → exec (.linkDown q k) s = .next (((s.modPort q fun y => y.modSub k fun z => { z with up := false }).resendSub q k).flap q k)) ∧
    (s.mayTrain q k = true → exec (.linkUp q k) s = .next
      ((s.modPort q fun y => (y.modSub k fun z => { z with up := true }).rehome).each (List.range s.nparts) fun t p =>
        let v := if (t.upPlanes p).isEmpty then t else t.modFab p fun f => { f with noPlane := none }
        v.each (v.part p).fab.chans fun t c => t.pump p c.mod c.part)) ∧
    (∀ t, ((s.port q).sub k).heldAt = some t → t + ticksSec 2 ≤ s.tick →
      exec (.linkHoldExpiry q k) s = .next (s.modPort q fun y => y.modSub k fun z => { z with heldAt := none })))

/-- R231-R235, R264, R265: heartbeats and the CONTROL packets of a loss, as each is taken. -/
def Obligations.IslandPacketsComplete : Prop :=
  ∀ (s u : State) (k : HtPkt) (p : Nat),
    let m := k.srcModule
    let q := k.srcPart
    let fin := fun (t : State) => (t.dataArrived p k).ackIfDue p m q
    (k.type = 0x0A → s.gets [0x0A] k p u → (k.payload.getD 10 0#8).toNat ≠ 0x80 → ∃ t : State, exec (.heartbeat k) s = .next t ∧ t.mem = s.mem ∧ t.hub.queue = s.hub.queue ∧
      (∀ w, vote3 (s.part p).fab.root = some (w, true) → t.hub = s.hub)) ∧
    (∀ ids, k.type = 0x0B → s.gets [0x0B] k p u → k.op = 0 → k.payload = idBytes ids → exec (.loss k ids) s = .next (fin (u.takeLoss ids p))) ∧
    (∀ round ids c, k.type = 0x0B → s.gets [0x0B] k p u → k.op = 1 → k.payload = leBytes 4 round ++ idBytes ids → (u.part p).fab.coordinator = some c → m ≤ c →
      exec (.rollback k round ids) s = .next (fin ((((u.sendAck p m q).modFab p fun f => { f with rollRound := round }).doRollback p ids).reannounce p))) ∧
    (k.type = 0x0B → s.gets [0x0B] k p u → k.op = 5 → (u.part p).job.isSome = true → exec (.fence k) s = .next (fin (u.putOut p))) ∧
    (∀ lost, k.type = 0x0B → s.gets [0x0B] k p u → k.op = 2 → k.payload = leBytes 4 lost → exec (.announce k lost) s = .next (fin (u.takeAnnounce k lost p))) ∧
    (∀ lost gen loc spare, k.type = 0x0B → s.gets [0x0B] k p u → k.op = 3 → k.payload = routeUpdBytes lost gen loc spare → (u.part p).fab.assuming = none →
      exec (.routeUpd k lost gen loc spare) s = .next (fin ((u.modFab p fun f => f.learn lost gen loc spare).control p 4 m q [] .none))) ∧
    (k.type = 0x0B → s.gets [0x0B] k p u → k.op = 4 → exec (.routeAck k) s = .next (fin (u.takeRouteAck k p))) ∧
    (k.type = 0x0B → s.gets [0x0B] k p u → k.op = 6 → (u.part p).fab.assuming = none → exec (.resume k) s = .next (fin (u.resumeMember p)))

/-- R229, R230: a route update leaves the lost ID ACTIVE at the locator and generation given and the spare's old place ABSENT, in the table that becomes
active; every other entry is as it was, and the channels to that ID begin anew. -/
def Obligations.RerouteNamesTheSpare : Prop :=
  ∀ (f : Fabric) (lost gen loc spare i j e e' : Nat), f.banks.length = 2 → f.maps.length = 2 → lost ≠ spare → f.entry lost = some (i, e) → f.entry spare = some (j, e') → gen < 65536 → loc < 2 ^ 32 →
    let g := f.reroute lost gen loc spare
    (∃ x, g.entry lost = some (i, x) ∧ reState x = 1 ∧ reLocator x = loc ∧ reGen x = gen ∧ rePartMask x = rePartMask e) ∧ g.entryState spare = 0 ∧
    (∀ id, id ≠ lost → id ≠ spare → g.entry id = f.entry id) ∧ (∀ c ∈ g.chans, c.mod ≠ lost)

/-- R215: a sub-interface sends transport control before everything else and keeps the order within a class, and a queue that is not empty sends. Table
10-5, R222, R226, R227: the window's books. A channel's tokens outstanding, free and withheld are W, a packet goes out only below the current
window, and a first send takes one token; what a channel is granted never passes what the pool has free. An ACK with congestion marks halves the
window, to a floor of 8, at most once per 16 us; a window's worth without them adds one token, up to W. -/
def Obligations.WindowBooksBalance : Prop :=
  (∀ (w : List Nat) (k : Sub), (k.queue ≠ [] → ∃ e k', k.pick w = some (e, k')) ∧ ∀ e k', k.pick w = some (e, k') →
    (∃ a b, k.queue = a ++ e :: b ∧ k'.queue = a ++ b ∧ ∀ x ∈ a, x.cls ≠ e.cls) ∧ (e.cls ≠ 0 → ∀ x ∈ k.queue, x.cls ≠ 0) ∧ k'.due = k.due + e.bytes ∧ k'.up = k.up) ∧
  (∀ (c : Chan) (now rto gen : Nat) (k : HtPkt) (o : Owner) (w : Nat), c.win ≤ w → c.out.length ≤ c.win → c.canSend k = true →
    (c.firstSend now rto gen k o).outstanding = c.outstanding + 1 ∧ (c.firstSend now rto gen k o).free = c.free - 1 ∧
    (c.firstSend now rto gen k o).outstanding + (c.firstSend now rto gen k o).free + (c.firstSend now rto gen k o).withheld w = w ∧
    (c.firstSend now rto gen k o).grant ≤ c.grant) ∧
  (∀ (c : Chan) (now rto gen : Nat), c.out.length ≤ c.win → (c.flow now rto gen).out.length ≤ (c.flow now rto gen).win ∧ (c.flow now rto gen).cum = c.cum) ∧
  (∀ (c : Chan) (free : Nat), c.grantNow free ≤ free ∧ c.grantNow free + c.issued ≤ max c.issued 0x100000 ∧ c.grantNow free % 64 = 0) ∧
  (∀ (c : Chan) (k : HtPkt) (w : Nat), c.out.length ≤ c.win → c.win ≤ w → c.withheld w = w - c.win ∧ (c.canSend k = true → c.outstanding < c.win)) ∧
  (∀ (now w n ce : Nat) (c : Chan), 8 ≤ c.win → c.win ≤ w →
    (0 < ce → c.halved = 0 ∨ c.halved + ticksUs 16 ≤ now → (c.steerWindow now w n ce).win = max 8 (c.win / 2) ∧ (c.steerWindow now w n ce).halved = now) ∧
    (0 < ce → c.halved ≠ 0 → now < c.halved + ticksUs 16 → (c.steerWindow now w n ce).win = c.win) ∧
    (ce = 0 → c.win ≤ c.clean + n → (c.steerWindow now w n ce).win = min w (c.win + 1) ∧ (c.steerWindow now w n ce).clean = c.clean + n - c.win) ∧
    (ce = 0 → c.clean + n < c.win → (c.steerWindow now w n ce).win = c.win ∧ (c.steerWindow now w n ce).clean = c.clean + n) ∧
    8 ≤ (c.steerWindow now w n ce).win ∧ (c.steerWindow now w n ce).win ≤ w)

/-! ## The host path -/

/-- The host's writes, reads and congestion marks over a connected queue pair, each where it is open to it (R216, R332-R334, R344, R345); elsewhere it
draws a NAK and is counted; what the smith sends leaves by the port of the QP, read data cut at its path MTU. A connection is accepted from an allowed
source, for Reliable Connected transport with a path MTU of 256 to 4,096, while its binding has room. A tagged frame is dropped and counted (R211). -/
def Obligations.HostPathComplete : Prop :=
  (∀ (s : State) (k : Nat), k < 64 → s.connected k = true →
    (∀ (m : Nat) (v : W32), m < 64 → (s.mbxOpen (s.qp k) m = true → exec (.mbxOwnWrite ⟨k, 0⟩ m v) s = .next (s.ownWrite m v.toNat)) ∧
      (s.mbxOpen (s.qp k) m = false → exec (.mbxOwnWrite ⟨k, 0⟩ m v) s = .next (s.refuse k true))) ∧
    (∀ off data, plainRange off data.length = true →
      (s.rangeOpen k true off data.length = true → exec (.registerWrite ⟨k, 0⟩ off data) s = .next (State.placeAll (data.length + 1) off data s)) ∧
      (s.rangeOpen k true off data.length = false → exec (.registerWrite ⟨k, 0⟩ off data) s = .next (s.refuse k true))) ∧
    (∀ off data, (s.rangeOpen k true off data.length = true → exec (.hostRdmaWrite ⟨k, 0⟩ off data) s = .next (State.placeAll (data.length + 1) off data s)) ∧
      (s.rangeOpen k true off data.length = false → exec (.hostRdmaWrite ⟨k, 0⟩ off data) s = .next (s.refuse k true))) ∧
    (∀ p x g data, p < 4 → (s.qp k).dev = false → (s.qp k).part = p → x + data.length ≤ 0x200000 → (s.part p).aperture = some g → s.reach p (g + x) data.length [0, 1, 2] = true →
      exec (.apertureWrite ⟨k, 0⟩ p x data) s = .next (s.store (gLocal g + x) data false)) ∧
    (∀ off n, s.rangeOpen k false off n = true → s.marked (localAddr 4 off) n = false →
      exec (.hostRdmaRead ⟨k, 0⟩ off n) s = .next ((s.bookRead off n).each
        (mtuCut (s.qp k).mtu 0 ((List.range n).map fun i => s.hostByte (off + i))) fun t c => t.hostFrame k c.2.1.length (.hostReadData k c.2.1))) ∧
    exec (.hostInvalidRequest ⟨k, 0⟩) s = .next (s.refuse k false) ∧
    exec (.cnp ⟨k, 0⟩) s = .next (s.modQp k fun q => { q with rate := max 1 (q.rate / 2), cnpTick := s.tick }) ∧
    exec (.hostCeMark ⟨k, 0⟩) s = .next (s.hostFrame k 0 (.cnp k)) ∧
    ((s.qp k).cnpTick + ticksUs 50 ≤ s.tick → exec (.hostRateRecover k) s = .next (s.modQp k fun q => { q with rate := min 256 (q.rate + 16), cnpTick := s.tick }))) ∧
  (∀ (s : State) (k : Nat) (r : CmReq) (b : Option Nat), k < 64 → r.port < 8 → s.hasNet = true → (s.qp k).st ≠ 1 → s.power.pstate ≠ .p4 →
    let n : Net := { s.net with qps := updAt s.net.qps k fun _ => {} }
    let room := (b = none ∧ n.bound true 0 < 4) ∨ ∃ p, b = some p ∧ s.hasPart p = true ∧ n.bound false p < 60 / s.nparts
    let fits := r.reliable = true ∧ r.mtu ∈ [256, 512, 1024, 2048, 4096] ∧ (∃ e ∈ s.net.allow, allowMatch r.source e = true) ∧ room
    (fits → exec (.hostCmRequest ⟨k, 0⟩ r b) s = .next (((s.modNet fun _ => n).modQp k fun _ =>
      { st := 1, source := r.source, dev := b.isNone, part := b.getD 0, cnpTick := s.tick, port := r.port, mtu := r.mtu }).hostFrame k 0 (.cmReply k true))) ∧
    (¬fits → exec (.hostCmRequest ⟨k, 0⟩ r b) s = .next (s.egress r.port 3 none 118 {} (.cmReply k false)))) ∧
  (∀ (s : State) (k v : Nat), k < 64 → v ≠ 0 →
    (∀ m w, m < 64 → exec (.mbxOwnWrite ⟨k, v⟩ m w) s = .next (s.count .badTag)) ∧ (∀ off data, exec (.registerWrite ⟨k, v⟩ off data) s = .next (s.count .badTag)) ∧
    (∀ off data, exec (.hostRdmaWrite ⟨k, v⟩ off data) s = .next (s.count .badTag)) ∧ (∀ p x data, p < 4 → exec (.apertureWrite ⟨k, v⟩ p x data) s = .next (s.count .badTag)) ∧
    (∀ off n, exec (.hostRdmaRead ⟨k, v⟩ off n) s = .next (s.count .badTag)) ∧ exec (.hostInvalidRequest ⟨k, v⟩) s = .next (s.count .badTag) ∧
    exec (.cnp ⟨k, v⟩) s = .next (s.count .badTag) ∧ exec (.hostCeMark ⟨k, v⟩) s = .next (s.count .badTag) ∧
    (∀ r b, r.port < 8 → exec (.hostCmRequest ⟨k, v⟩ r b) s = .next (s.count .badTag)))

/-- R333, R334, R335: the ownership word. The host moves a mailbox from FREE to POSTED, from DONE to FREE or POSTED; every other value is discarded
and counted. A mailbox posted joins the queue of its context, and one with an unknown opcode is answered UNSUPPORTED when its turn comes. While the
smith owns it, writes to its bytes and its bulk buffer are discarded and counted; else a write to a bulk buffer puts its bytes there and nowhere else.
-/
def Obligations.OwnershipWordRules : Prop :=
  ∀ (s : State) (m : Nat), m < 64 →
    (∀ v, ¬((s.own m = 0 ∧ v = 1) ∨ (s.own m = 3 ∧ (v = 0 ∨ v = 1))) → s.ownWrite m v = s.count .spaceWrite) ∧
    (s.own m = 3 → (s.ownWrite m 0).own m = 0 ∧ (s.ownWrite m 0).observed = s.observed) ∧
    (let posted := s.store (localAddr 4 (mbxBase m)) (leBytes 4 1) false
     let t : State := { posted with observed := s.observed ++ [m], smithOwns := setIns m s.smithOwns }
     (s.own m = 0 ∨ s.own m = 3) → t.own m = 1 ∧
      ((∀ c ∈ [none, some 0, some 1, some 2, some 3], t.unknownHead c = none) → s.ownWrite m 1 = t) ∧
      (∀ c ∈ [none, some 0, some 1, some 2, some 3], (∀ d ∈ [none, some 0, some 1, some 2, some 3], t.unknownHead d = if d = c then some m else none) → s.mbxMarked m = false →
        (∀ d ∈ [none, some 0, some 1, some 2, some 3], (t.finishMbx m 5 [] 0xFFFF).unknownHead d = none) →
        s.ownWrite m 1 = t.finishMbx m 5 [] 0xFFFF ∧ (s.ownWrite m 1).own m = 3 ∧ bits ((s.ownWrite m 1).mbxHdr m) 359 352 = 5)) ∧
    (∀ c, s.unknownHead c = some m → mbxPart s.nparts m = c ∧ m ∈ s.observed ∧ opcodes.contains (mhOpcode (s.mbxHdr m)) = false ∧ s.ctxFree c = true) ∧
    (∀ x bs, s.smithHas m = true → s.mbxPlace m x bs = s.count .spaceWrite) ∧
    (∀ x bs, x + bs.length ≤ 0x4000 → bs ≠ [] → s.smithHas m = true → s.placeRun (bulkBase m + x) bs = s.count .spaceWrite) ∧
    (∀ x bs, x + bs.length ≤ 0x4000 → bs ≠ [] → s.smithHas m = false →
      let t := s.placeRun (bulkBase m + x) bs
      t.get4 (bulkBase m + x) bs.length = bs ∧ (∀ a, ¬(localAddr 4 (bulkBase m + x) ≤ a ∧ a < localAddr 4 (bulkBase m + x) + bs.length) → Memory.read t.mem a = Memory.read s.mem a) ∧
      t.parts = s.parts ∧ t.observed = s.observed)

/-! ## Outer rounds -/

/-- R246-R256, R261, R262, R265: segments of the wide area as each is sent and taken, their timers, and the round words. -/
def Obligations.OuterRoundsComplete : Prop :=
  (∀ (s : State) (p isl slab seg c t e j k : Nat) (x : SlabSt) (found : Found), p < 4 → (s.part p).outer.cfg = some c → (s.part p).outer.island_ isl = some (t, e) →
      (s.part p).outer.slabIx slab = some j → (s.part p).outer.slabs[j]? = some x → t ≠ rcOwn c → oiEnabled e = true → osSpeaker x.desc = true → s.feeds p = true → seg < slabSegs (rcFmt c) (osCount x.desc) →
    let o := (s.part p).outer
    let r := (s.part p).run.openRound
    let to_ := s.speaker e slab
    (o.outs.filter fun y => y.isl == isl && s.speaker e y.slab == to_).length < (o.dest isl to_.1 to_.2).win →
    (([r - 2, r - 1].eraseDups.filter fun k => k + 1 ≤ r).find? fun k => s.staged c j x k && jpRound0 (s.params p) ≤ k && oiFirst e ≤ k + 1 &&
        !(o.outs.any fun y => y.isl == isl && y.slab == slab && y.round == k && y.seg == seg) && !o.acked.contains (isl, slab, k, seg)) = some k →
    ∀ u n, (s.meet [o.segRange j k seg x] found).dataSegment p j e to_.1 to_.2 k seg x = (u, some n) →
      exec (.outerSend p isl slab ⟨seg, found⟩) s = .next ((u.roundCount p (if o.again.contains (isl, slab, k, seg) then rsResent else rsSent) 1).modOuter p fun o =>
        let z := (u.part p).outer.dest isl to_.1 to_.2
        { o with again := o.again.filter (· != (isl, slab, k, seg)), outs := o.outs ++ [{ isl := isl, slab := slab, round := k, seg := seg, first := u.tick, last := u.tick, timer := u.tick + z.rto, rto := z.rto, plane := z.plane }] })) ∧
  (∀ (s u : State) (x : OuterSeg) (v : OuterIn),
    (∀ c j sl, s.outerReceive 0 x = (u, some v) → (u.part v.p).outer.cfg = some c → (u.part v.p).outer.slabIx x.slab = some j → (u.part v.p).outer.slabs[j]? = some sl →
      u.holdsRound v.p x.round = true → u.speaker v.e x.slab = (x.srcModule, x.srcPart) → osSpeaker sl.desc = true → oiFirst v.e ≤ x.round →
      (∀ y ∈ (u.part v.p).outer.rxs, y.isl = x.srcIsland → y.mod = x.srcModule → y.slab = x.slab → y.round = x.round → y.got.contains x.segIndex = false) →
      exec (.outerDataSegment x) s = .next ((u.accepted v.p v.e v.k x.srcModule x.srcPart).placeData v.p j v.e x v.body (((u.part v.p).outer.island_ x.srcIsland).elim 0 (·.1)) sl)) ∧
    (s.outerReceive 1 x = (u, some v) → u.holdsRound v.p x.round = true → exec (.outerAck x) s = .next (u.takeOuterAck x v)) ∧
    (s.outerReceive 2 x = (u, some v) → u.holdsRound v.p x.round = true → exec (.probe x) s = .next (u.takeProbe x v)) ∧
    (s.outerReceive 3 x = (u, some v) → exec (.hello x) s = .next (u.takeHello x v))) ∧
  (∀ (s : State) (p : Nat), p < 4 →
    let o := (s.part p).outer
    (∀ m slab round y t e i, (o.rxs.find? fun y => y.mod == m && y.slab == slab && y.round == round && y.oldest.isSome) = some y → y.oldest = some t → o.island_ y.isl = some (i, e) →
      t + ticksMs 1 ≤ s.tick → exec (.outerAckTimer p m slab round) s = .next (s.ackRx p e y)) ∧
    (∀ isl slab round seg y i e, (o.outs.find? fun y => y.isl == isl && y.slab == slab && y.round == round && y.seg == seg) = some y → o.island_ isl = some (i, e) →
      (∀ t, y.laterAck = some t → t + (o.dest isl (s.speaker e slab).1 (s.speaker e slab).2).reo ≤ s.tick → exec (.reorderLoss p isl slab round seg) s = .next (s.resendOuter p y)) ∧
      (∀ u n, y.timer ≤ s.tick → s.sendOuter p e (s.speaker e slab).1 (s.speaker e slab).2 { type := 2, fmt := rcFmt (o.cfg.getD 0), round := round, slab := slab, segIndex := seg } [] = (u, some n) →
        exec (.outerRtoExpiry p isl slab round seg) s = .next
          (let v := (u.roundCount p rsProbes 1).modDest p isl (s.speaker e slab).1 (s.speaker e slab).2 fun d => { d with probes := d.probes ++ [(slab, n, u.tick)] }
           let double := fun (w : OutSeg) => if w.isl == isl && v.speaker e w.slab == s.speaker e slab then { w with rto := min (ticksSec 4) (2 * w.rto), timer := v.tick + min (ticksSec 4) (2 * w.rto) } else w
           v.modOuter p fun o => { o with outs := o.outs.map double }))) ∧
    (∀ isl slab c t e j, o.cfg = some c → o.island_ isl = some (t, e) → o.slabIx slab = some j → t ≠ rcOwn c → oiEnabled e = true → ((o.slabs[j]?).any fun x => osSpeaker x.desc) = true →
      (o.dest isl (s.speaker e slab).1 (s.speaker e slab).2).helloAt = none →
      exec (.helloTimer p isl slab) s = .next (s.sendHello p j e (s.speaker e slab).1 (s.speaker e slab).2 true)) ∧
    (∀ isl g t n k, (o.grace.find? fun g => g.1 == isl) = some (g, t, n, k) → 64 ≤ n → t + o.srttTo isl ≤ s.tick →
      exec (.graceWindowClose p isl) s = .next (s.modOuter p fun o => { o with grace := o.grace.filter fun g => g.1 != isl })) ∧
    ((s.part p).fenced = false →
      (∀ round g, s.wordPlace p round = some g → round + 1 = (s.part p).run.openRound → o.added.contains round = false → o.allSealed round = true → s.ownRange p g 8 [1, 2] = true →
        s.marked (gLocal g) 8 = false → ∃ t : State, exec (.roundWordAdd p round) s = .next t ∧
          t.word (gLocal g) 8 = (s.word (gLocal g) 8 + 1) % 2 ^ 64 ∧ (p < s.parts.length → (t.part p).outer.added.contains round = true) ∧
          (∀ a, ¬(gLocal g ≤ a ∧ a < gLocal g + 8) → Memory.read t.mem a = Memory.read s.mem a)) ∧
      (∀ g, s.wordPlace p (s.part p).run.waitRound = some g → (s.part p).run.holds.contains .roundWord = true → s.ownRange p g 8 [1, 2] = true →
        exec (.roundWordPoll p) s = .next (s.landRead p .roundRead (s.bytes (gLocal g) 8) (s.byteMarks (gLocal g) 8)))) ∧
    ((s.part p).run.holds.contains .roundWord = true → s.isCoordinator p = true → (s.part p).run.holdTick + ticksSec 10 ≤ s.tick →
      ∃ n, exec (.roundHold p) s = .next ((s.modRun p fun r => { r with holdTick := s.tick }).notice p 2 (pack [(32, (s.part p).run.waitRound), (16, n), (192, 0)]))))

/-! ## The cipher engine -/

/-- R26, R273-R282, R285-R287, R299, R301: a request that passes its checks joins the queue, or waits in its unit while no entry is free, or is
answered MALFORMED, or DROPPED in a fenced partition; cores start, finish and are retired; slots
fault; offers, nonces and the fill end. -/
def Obligations.CipherRequestsComplete : Prop :=
  (∀ (s : State) (r : Nat), s.reqOk r = true →
    let x : CReq := { raw := r, queued := s.tick, cls := cqClass r, seq := s.cipher.nextSeq }
    let t := s.modCipher fun c => { c with free := c.free - 1, queue := c.queue ++ [x], nextSeq := c.nextSeq + 1 }
    let held := s.modCipher fun c => { c with waiting := c.waiting ++ [{ x with seq := 0 }] }
    let runs := fun (u : State) => (cqOp r = 0 → exec (.gcmSeal r) s = .next u) ∧ (cqOp r = 1 → exec (.gcmOpen r) s = .next u) ∧
      (cqOp r = 2 → exec (.xtsEncrypt r) s = .next u) ∧ (cqOp r = 3 → exec (.xtsDecrypt r) s = .next u)
    ((s.part (cqPart r)).fenced = true → runs (s.finish r 4)) ∧
    ((s.part (cqPart r)).fenced = false → s.cipher.room s.nparts (cqPart r) (cqReq r) = true → runs t) ∧
    ((s.part (cqPart r)).fenced = false → s.cipher.room s.nparts (cqPart r) (cqReq r) = false → runs held) ∧
    (0 < s.cipher.free → s.cipher.book = true → t.cipher.book = true)) ∧
  (∀ (s : State) (r : Nat), s.reqOk r = false → (cqOp r = 0 → exec (.gcmSeal r) s = .next (s.finish r 5)) ∧ (cqOp r = 1 → exec (.gcmOpen r) s = .next (s.finish r 5)) ∧
    (cqOp r = 2 → exec (.xtsEncrypt r) s = .next (s.finish r 5)) ∧ (cqOp r = 3 → exec (.xtsDecrypt r) s = .next (s.finish r 5))) ∧
  (∀ (s : State) (p i k : Nat) (x : CReq) (rest : List Nat), p < 4 → s.power.pstate ≠ .p3 → s.cipher.nextReq p = some (i, x) → s.coreLeft p = true →
    ((s.coresOf p).filter fun k => (s.cipher.cores.getD k {}).run.isNone) = k :: rest → exec (.cipherRequestStart p) s = .next (s.startOn k i x)) ∧
  (∀ (s : State) (k : Nat) (x : CReq), k < 16 → (s.cipher.cores.getD k {}).run = some x →
    exec (.cipherRequestDone k true) s = .next ((s.retireCore k).coresGone (corePart s.nparts k)) ∧
    (let r := x.raw
     let a := s.slot (x.slot.getD (cqSlot r))
     let src := gLocal (cqSrc r)
     let dst := gLocal (cqDst r)
     let d := s.load src (cqLen r)
     let mk := s.loadMark src (cqLen r)
     let aad := s.load (gLocal (cqAad r)) (cqAadLen r)
     let done := fun (t : State) (status : Nat) => ((t.modCipher fun c => { c.modCore k fun q => { q with run := none } with free := c.free + 1 }).finish r status).letIn
     (a.state = 0 ∨ a.state = 4 → exec (.cipherRequestDone k false) s = .next (done s 3)) ∧
     (a.state ≠ 0 → a.state ≠ 4 →
       (cqOp r = 0 →
         let head := insertCtr aad (cqIns r) (swEpoch a.word) (x.ctr.getD 0)
         let out := gcmSealBytes a.gcmKey (gcmIv s.moduleId (cqPart r) (swEpoch a.word) (x.ctr.getD 0)) head d
         exec (.cipherRequestDone k false) s = .next (done (((s.save (gLocal (cqAad r)) head (s.loadMark (gLocal (cqAad r)) (cqAadLen r))).save dst out.1 mk).save (gLocal (cqTag r)) out.2 mk) 0)) ∧
       (∀ m, cqOp r = 1 → gcmOpenBytes a.gcmKey (beBytes 12 (bits (cqIv r) 127 32)) aad d (s.load (gLocal (cqTag r)) 16) = some m →
         exec (.cipherRequestDone k false) s = .next (done (s.save dst m mk) 0)) ∧
       (cqOp r = 1 → gcmOpenBytes a.gcmKey (beBytes 12 (bits (cqIv r) 127 32)) aad d (s.load (gLocal (cqTag r)) 16) = none →
         exec (.cipherRequestDone k false) s = .next (done (s.authFail x) 1)) ∧
       (cqOp r = 2 → exec (.cipherRequestDone k false) s = .next (done (s.save dst (xtsEnc a.xtsKey (cqIv r) d) mk) 0)) ∧
       (cqOp r = 3 → exec (.cipherRequestDone k false) s = .next (done (s.save dst (xtsDec a.xtsKey (cqIv r) d) mk) 0))))) ∧
  (∀ (s : State) (p : Nat), p < 4 →
    let promote := fun (x : CReq) => if cqPart x.raw = p ∧ x.cls = 2 ∧ ticksMs 1 ≤ s.tick - x.queued then { x with cls := 1 } else x
    exec (.cipherPromote p) s = .next (s.modCipher fun c => { c with queue := c.queue.map promote })) ∧
  (∀ (s : State) (k : Nat), k < 512 →
    let p := slotPart s.nparts k
    exec (.keyFault k .keyOne) s = .next (s.raiseMem (slotRec p k 1 0x03)) ∧
    exec (.keyFault k .wordOne) s = .next ((s.modCipher fun c => c.modSlot k fun a => { a with words := copies3 a.word }).raise (slotRec p k 1 0x09)) ∧
    (∀ e, e = .keyTwo ∨ e = .wordNone ∨ e = .counterTwo → exec (.keyFault k e) s = .next ((s.modCipher fun c => c.modSlot k fun _ => Slot.faulted).raise (slotRec p k 2 0x71))) ∧
    ((s.slot k).state = 0 ∨ (s.slot k).state = 4 → exec (.keyFault k .readBack) s = .next (s.raise (slotRec p k 5 (Config.faultCode 287))))) ∧
  (∀ (s : State) (p id : Nat) (o : Nat × Nat × Nat × Nat), p < 4 → o ∈ (s.part p).offers → o.1 = id → o.2.2.2 + ticksSec 600 ≤ s.tick →
    exec (.keyOfferExpiry p id) s = .next (s.modPart p fun q => { q with offers := q.offers.filter fun o => o.1 != id })) ∧
  (∀ (s : State) n t, s.sec.nonce = some (n, t) → t + ticksSec 60 ≤ s.tick → exec .debugNonceExpiry s = .next { s with sec := { s.sec with nonce := none } }) ∧
  (∀ s : State, s.sec.fill.isSome = true → ∃ t : State, exec .debugFillDone s = .next t ∧ t.sec = { s.sec with fill := none, debug := 2 } ∧
    (∀ a, a < 3 * 2 ^ 41 → Memory.read t.mem a = 0#8) ∧ (∀ a, 3 * 2 ^ 41 ≤ a → Memory.read t.mem a = Memory.read s.mem a) ∧ t.cipher = s.cipher ∧ t.parts = s.parts)

/-- R274, R275, R281: a use is charged at its start, and a slot left with less than the smallest request's use is EXHAUSTED; a seal takes the counter as it
stands and raises it by 1. What a seal makes, an open under the same key, IV and AAD gives back (R272). -/
def Obligations.SealsAreOpened : Prop :=
  (∀ key iv aad d : List Byte, key.length = 32 → gcmOpenBytes key iv aad (gcmSealBytes key iv aad d).1 (gcmSealBytes key iv aad d).2 = some d) ∧
  (∀ (c c' : Cipher) (x y : CReq) (k : Nat), x.slot = none → (if cqCur x.raw then c.current (cqSlot x.raw) else some (cqSlot x.raw)) = some k → c.bind x = .inr (c', y) → k < c.slots.length →
    (c.slots.getD k {}).used + cqUse x.raw = (c'.slots.getD k {}).used ∧ y.slot = some k ∧ (cqOp x.raw = 0 → y.ctr = some (c.slots.getD k {}).sendCtr ∧
      (c'.slots.getD k {}).sendCtr = ((c.slots.getD k {}).sendCtr + 1) % 2 ^ 64) ∧
    (∀ j, j ≠ k → c'.slots.getD j {} = c.slots.getD j {}) ∧ (0 < cqUse x.raw → (c'.slots.getD k {}).used ≤ (c'.slots.getD k {}).limit) ∧
    (let left := (c'.slots.getD k {}).limit - (c'.slots.getD k {}).used
     let unit := if swMode (c.slots.getD k {}).word = 0 then 2 else 1
     (left < unit → (c'.slots.getD k {}).state = 3) ∧ (unit ≤ left → (c'.slots.getD k {}).words = (c.slots.getD k {}).words)) ∧ c'.queue = c.queue ∧ c'.cores = c.cores)

/-! ## SPDM and the sideband -/

/-- R291-R293, R303: requests over the sideband, with the smith up, in a state that answers them. Plain ones are answered plainly, each with the response
that R293 names and what the responder keeps of it; what comes sealed under an open session's key is opened, and answered sealed. A request that the
responder does not know draws UnsupportedRequest. In a mailbox a request is the SPDM.MSG that holds it. -/
def Obligations.SpdmRequestsComplete : Prop :=
  (∀ (s : State) (msg : List Byte), s.power.standby = true → s.smithUp = true →
    let x := s.sec
    let c := rqCode msg
    let say := fun (y : Sec) (out : List Byte) => ({ s with sec := y } : State).emit (.spdm .sideband out)
    (x.unwrapMsg msg = (none, msg) →
      (x.answers c = false → spdmKnown.contains c = false → exec (.spdmUnsupportedRequest .sideband msg) s = .next (say x (spdmError 7 c))) ∧
      (x.answers c = true → c = 0x84 → exec (.getVersion .sideband msg) s = .next (say { x with negotiated := false }
        (leBytes 1 0x10 ++ leBytes 1 0x04 ++ leBytes 3 0 ++ leBytes 1 1 ++ leBytes 2 0x1300))) ∧
      (x.answers c = true → argNat msg 0 1 = 0x13 →
        (c = 0xE1 → exec (.getCapabilities .sideband msg) s = .next (say x (spdmRsp 0x61 0 0 (leBytes 16 (Config.spdmField 0x61))))) ∧
        (c = 0xE3 → offersOurs msg = true → offersSession msg = true →
          let head := leBytes 6 (Config.spdmField 0x63) ++ leBytes 8 0 ++ leBytes 12 0 ++ leBytes 1 1 ++ leBytes 1 1 ++ leBytes 2 0
          let entry := fun (k : Nat) => leBytes 4 (vendorEntry k)
          exec (.negotiateAlgorithms .sideband msg) s = .next (say { x with negotiated := true }
            (spdmRsp 0x63 2 0 (leBytes 2 56 ++ head ++ entry 1 ++ entry 2 ++ leBytes 1 2 ++ leBytes 1 0x21 ++ leBytes 2 0 ++ entry 3 ++ leBytes 1 3 ++ leBytes 1 0x20 ++ leBytes 2 2)))) ∧
        (c = 0xE3 → offersOurs msg = false ∨ offersSession msg = false → exec (.negotiateAlgorithms .sideband msg) s = .next (say x (spdmError 7 0xE3))) ∧
        (x.negotiated = true →
          (c = 0x81 → exec (.getDigests .sideband msg) s = .next (say x (spdmRsp 0x01 1 1 (shake256 x.certs 64)))) ∧
          (c = 0x82 → argNat msg 2 1 % 16 = 0 → argNat msg 4 2 ≤ x.certs.length →
            let off := argNat msg 4 2
            let part := (x.certs.drop off).take (argNat msg 6 2)
            exec (.getCertificate .sideband msg) s = .next (say x (spdmRsp 0x02 0 0 (leBytes 2 part.length ++ leBytes 2 (x.certs.length - off - part.length) ++ part)))) ∧
          (c = 0x83 → argNat msg 2 1 = 0 → ∃ sums, (argNat msg 3 1 = 0 → sums = []) ∧ (argNat msg 3 1 ≠ 0 → sums = shake256 ([1, 2, 3, 4, 5, 6, 7].flatMap x.block) 64) ∧
            exec (.challenge .sideband msg) s = .next (say (x.drew 2) (x.sign (spdmRsp 0x03 0 1 (shake256 x.certs 64 ++ leBytes 32 (Config.random (x.draws + 1)) ++ sums ++ leBytes 2 0))))) ∧
          (∀ l, c = 0xE0 → argNat msg 3 1 ≠ 0 → x.indices (argNat msg 3 1) = some l →
            let blocks := l.flatMap x.block
            let body := spdmRsp 0x60 0 0 (leBytes 1 l.length ++ leBytes 3 blocks.length ++ blocks ++ leBytes 32 (Config.random (x.draws + 1)) ++ leBytes 2 0)
            (argNat msg 2 1 % 2 = 1 → exec (.getMeasurements .sideband msg) s = .next (say (x.drew 2) (x.sign body))) ∧
            (argNat msg 2 1 % 2 = 0 → exec (.getMeasurements .sideband msg) s = .next (say (x.drew 2) body))) ∧
          (c = 0xE0 → x.indices (argNat msg 3 1) = none → exec (.getMeasurements .sideband msg) s = .next (say x (if x.life = .retired then spdmError 7 0xE0 else spdmError 1 0))) ∧
          (c = 0xE4 → x.sessions.length < 8 →
            let kem := Config.kemEncap (argNat msg 40 1568) (Config.random x.draws)
            let own := x.draws % 65536
            let y : Session := ⟨argNat msg 4 2 + 65536 * own, .sideband, Config.sessionKey kem.2 x.draws, false⟩
            exec (.keyExchange .sideband msg) s = .next (say { x.drew 2 with sessions := x.sessions ++ [y] }
              (x.sign (spdmRsp 0x64 0 0 (leBytes 2 own ++ leBytes 2 0 ++ leBytes 32 (Config.random (x.draws + 1)) ++ leBytes 1568 kem.1 ++ leBytes 2 0)) ++ leBytes 64 (Config.spdmField x.draws)))) ∧
          (c = 0xE4 → 8 ≤ x.sessions.length → exec (.keyExchange .sideband msg) s = .next (say x (spdmError 3 0))) ∧
          (c = 0xE5 → exec (.finish .sideband msg) s = .next (say x (spdmError 4 0))) ∧ (c = 0xE8 → exec (.spdmHeartbeat .sideband msg) s = .next (say x (spdmError 4 0))) ∧
          (c = 0xEC → exec (.endSession .sideband msg) s = .next (say x (spdmError 4 0)))))) ∧
    (∀ y b, x.sessions.find? (fun y => y.id == argNat msg 0 4) = some y → Config.secOpen y.key (msg.drop 4) = some b → argNat b 0 1 = 0x13 → x.negotiated = true → x.answers (rqCode b) = true →
      let sealed := fun (z : Sec) (out : List Byte) => say (z.drew 1) (leBytes 4 y.id ++ Config.secSeal y.key z.draws out)
      (rqCode b = 0xE5 →
        (Config.finishOk y.key b = true → exec (.finish .sideband msg) s = .next (sealed
          { x with sessions := x.sessions.map fun z => if z.id = y.id then { z with open_ := true } else z } (spdmRsp 0x65 0 0 []))) ∧
        (Config.finishOk y.key b = false → exec (.finish .sideband msg) s = .next (sealed x (spdmError 6 0)))) ∧
      (rqCode b = 0xE8 → (y.open_ = true → exec (.spdmHeartbeat .sideband msg) s = .next (sealed x (spdmRsp 0x68 0 0 []))) ∧
        (y.open_ = false → exec (.spdmHeartbeat .sideband msg) s = .next (sealed x (spdmError 4 0)))) ∧
      (rqCode b = 0xEC → exec (.endSession .sideband msg) s = .next (sealed { x with sessions := x.sessions.filter fun z => z.id ≠ y.id } (spdmRsp 0x6C 0 0 []))) ∧
      (rqCode b ≠ 0xE5 → exec (.finish .sideband msg) s = .next s) ∧ (rqCode b ≠ 0xE8 → exec (.spdmHeartbeat .sideband msg) s = .next s) ∧
      (rqCode b ≠ 0xEC → exec (.endSession .sideband msg) s = .next s))) ∧
  (∀ (s : State) (m : Nat) (msg : List Byte), m < 4 → s.mbxArgs m = msg →
      (s.msgCode msg = 0x84 → exec (.getVersion (.mailbox m) msg) s = exec (.spdmMsg m) s) ∧
      (s.msgCode msg = 0xE1 → exec (.getCapabilities (.mailbox m) msg) s = exec (.spdmMsg m) s) ∧
      (s.msgCode msg = 0xE3 → exec (.negotiateAlgorithms (.mailbox m) msg) s = exec (.spdmMsg m) s) ∧
      (s.msgCode msg = 0x81 → exec (.getDigests (.mailbox m) msg) s = exec (.spdmMsg m) s) ∧
      (s.msgCode msg = 0x82 → exec (.getCertificate (.mailbox m) msg) s = exec (.spdmMsg m) s) ∧
      (s.msgCode msg = 0x83 → exec (.challenge (.mailbox m) msg) s = exec (.spdmMsg m) s) ∧
      (s.msgCode msg = 0xE0 → exec (.getMeasurements (.mailbox m) msg) s = exec (.spdmMsg m) s) ∧
      (s.msgCode msg = 0xE4 → exec (.keyExchange (.mailbox m) msg) s = exec (.spdmMsg m) s) ∧
      (s.msgCode msg = 0xE5 → exec (.finish (.mailbox m) msg) s = exec (.spdmMsg m) s) ∧
      (s.msgCode msg = 0xE8 → exec (.spdmHeartbeat (.mailbox m) msg) s = exec (.spdmMsg m) s) ∧
      (s.msgCode msg = 0xEC → exec (.endSession (.mailbox m) msg) s = exec (.spdmMsg m) s) ∧
      (spdmKnown.contains (s.msgCode msg) = false → exec (.spdmUnsupportedRequest (.mailbox m) msg) s = exec (.spdmMsg m) s))

/-- R214, R352, R378-R380, Tables 15-15 and 15-16: the sideband's messages with the smith up; completion codes and data are the model's form of them (log
entries 9, 52). What each sets is what it names; the reads change nothing but what is sent. -/
def Obligations.SidebandMessagesComplete : Prop :=
  ∀ s : State, s.power.standby = true → s.smithUp = true → s.sec.life ≠ .retired →
    let say := fun (t : State) (cc : Nat) (data : List Byte) => t.emit (.sideband cc data)
    (∀ e, 8 ≤ e → e < 255 → exec (.setEndpointId e) s = .next (say { s with side := { s.side with eid := e } } 0 (leBytes 1 0 ++ leBytes 1 e ++ leBytes 1 0))) ∧
    exec .getEndpointId s = .next (say s 0 (leBytes 1 s.side.eid ++ leBytes 2 0)) ∧ exec .getEndpointUuid s = .next (say s 0 (sbOpen 3 0)) ∧
    exec .getMctpVersionSupport s = .next (say s 0 (sbOpen 4 0)) ∧ exec .getMessageTypeSupport s = .next (say s 0 [3#8, 1#8, 5#8, 6#8]) ∧
    (∀ t, 0 < t → t < 255 → exec (.setTid t) s = .next (say { s with side := { s.side with tid := t } } 0 [])) ∧ exec .getTid s = .next (say s 0 (leBytes 1 s.side.tid)) ∧
    exec .getPldmVersion s = .next (say s 0 (sbOpen 0x103 0)) ∧ exec .getPldmTypes s = .next (say s 0 (leBytes 8 (1 + 4 + 16 + 32 + 2 ^ 63))) ∧
    exec .getPldmCommands s = .next (say s 0 (sbOpen 0x105 0)) ∧ exec .getPdrRepositoryInfo s = .next (say s 0 (sbOpen 0x250 0)) ∧
    (∀ r, exec (.getPdr r) s = .next (say s 0 (sbOpen 0x251 r))) ∧
    (∀ k, isNumeric k = true → exec (.getSensorReading k) s = .next (say { s with free := s.free + 1 } 0 (leBytes 1 (s.numeric k).1 ++ readingBytes (s.numeric k).2))) ∧
    (∀ k v, s.stateSensor k = some v → exec (.getStateSensorReadings k) s = .next (say s 0 (leBytes 1 0 ++ leBytes 1 v))) ∧
    (∀ v, 1000 ≤ v → v ≤ 4400 → exec (.setNumericEffecterValue 0x400 v) s = .next (say { s with side := { s.side with capEffecter := v } } 0 [])) ∧
    exec (.getNumericEffecterValue 0x400) s = .next (say s 0 (leBytes 1 0 ++ leBytes 2 s.side.capEffecter)) ∧
    (∀ t, t ≤ 3 → s.targetBusy t = false → exec (.setStateEffecterStates 0x401 t) s = .next
      (say (if t = 2 ∧ s.power.pstate ≠ .p2 then (s.setTarget t).holdP2 else s.setTarget t) 0 [])) ∧
    exec (.getStateEffecterStates 0x401) s = .next (say s 0 (leBytes 1 0 ++ leBytes 1 s.power.target ++ leBytes 1 (pstateCode s.power.pstate))) ∧
    exec .getFruRecordTableMetadata s = .next (say s 0 (sbOpen 0x401 0)) ∧ exec .getFruRecordTable s = .next (say s 0 s.fru) ∧
    (∀ k last off piece x, 1 ≤ k → k ≤ 4 → s.sec.stage k off last piece = some (x, stOK) → exec (.pldmFirmwareUpdate k last off piece) s = .next (say { s with sec := x } 0 [])) ∧
    ((s.fwCommit false).1 = stOK → exec .activateFirmware s = .next (say (s.fwCommit false).2 0 [])) ∧
    (∀ planes loc port, (∀ q ∈ s.parts, q.job = none) → loc ≠ 0 → port ≠ 0 → netIdFits planes loc port = true →
      exec (.setNetId planes loc port) s = .next (say { s with net := { s.net with planes := planes, locator := loc, udpPort := port } } 0 [])) ∧
    exec .getNetId s = .next (say s 0 ((List.range 8).flatMap (fun k => beBytes 8 (s.net.planes.getD k 0)) ++ leBytes 4 s.net.locator ++ leBytes 2 s.net.udpPort)) ∧
    (∀ l : List (Nat × Nat), l.length ≤ 16 → (∀ e ∈ l, (e.2 = 64 ∨ e.2 = 128) ∧ e.1 < 2 ^ 128) →
      exec (.setHostAllow l) s = .next (say ({ s with net := { s.net with allow := l } } : State).dropHosts 0 [])) ∧
    exec .getHostAllow s = .next (say s 0 (leBytes 1 s.net.allow.length ++ s.net.allow.flatMap fun e => beBytes 16 e.1 ++ leBytes 1 e.2)) ∧
    (∀ mctp, exec (.pldmUnsupportedCmd mctp) s = .next (say s 5 []))

/-! ## The fault hub, scrubbing and telemetry -/

/-- R319-R326: the hub takes the oldest record raised. A record below UCE_PART gets its number, and is queued, or counted where fewer than 8 of the 64
entries are free, and then the next one queued carries overflow; a UCE record is queued while an entry is free and waits for its dispatch, with preempt
where it preempts one in progress; a FATAL one goes to the history. Each carries on stream 0 what it carries in the queue. The record handled next is
the oldest of the highest severity. -/
def Obligations.HubTakesRecordsInOrder : Prop :=
  ∀ (s : State) (r : FaultRec) (rest : List FaultRec), s.power.row = 11 →
    (s.hub.arriving = r :: rest →
      let t := s.modHub fun h => { h with arriving := rest }
      (r.sev = 1 → (∀ x ∈ s.hub.ceTick, x.1 = ceKey r → x.2 + ticksSec 1 ≤ s.tick) → exec .faultRecord s = .next ((t.modHub fun h => { h with ceTick := assocSet (ceKey r) s.tick h.ceTick }).takeRecord r)) ∧
      (r.sev = 1 → (∃ x ∈ s.hub.ceTick, x.1 = ceKey r ∧ s.tick < x.2 + ticksSec 1) → exec .faultRecord s = .next (t.modHub fun h => h.countCode r.code)) ∧
      (2 ≤ r.sev → r.sev < 5 → exec .faultRecord s = .next (t.takeRecord r)) ∧
      (r.sev ≤ 2 →
        let u := t.takeRecord r
        let got : FaultRec := { r with seq := s.hub.seq, overflow := s.hub.lost }
        u.hub.seq = satTo 32 (s.hub.seq + 1) ∧ u.hub.arriving = rest ∧ u.mem = s.mem ∧ u.hub.dispatch = s.hub.dispatch ∧
        (8 ≤ s.hub.free → none ∈ s.hub.queue →
          (∃ k : Nat, s.hub.queue[k]? = some none ∧ u.hub.queue = updAt s.hub.queue k fun _ => some got) ∧ u.hub.free = s.hub.free - 1 ∧ u.hub.lost = false ∧
          u.hub.uncounted = s.hub.uncounted ∧ u.streams = (s.streamRec got).streams) ∧
        (s.hub.free < 8 → u.hub.queue = s.hub.queue ∧ u.hub.free = s.hub.free ∧ u.hub.lost = true ∧ u.hub.uncounted = countUp 32 r.code 1 s.hub.uncounted)) ∧
      (3 ≤ r.sev → r.sev < 5 → 0 < s.hub.free → none ∈ s.hub.queue →
        let u := t.takeRecord r
        let got : FaultRec := { r with seq := s.hub.seq, overflow := s.hub.lost, preempt := s.hub.preempts r.sev }
        (∃ k : Nat, s.hub.queue[k]? = some none ∧ u.hub.queue = updAt s.hub.queue k fun _ => some got) ∧ u.hub.free = s.hub.free - 1 ∧
        u.hub.dispatch = (if r.code = 0x81 then s.hub.dispatch else s.hub.dispatch ++ [got]) ∧ u.streams = (s.streamRec got).streams) ∧
      (r.sev = 5 → exec .faultRecord s = .next (t.takeFatal r t.chain))) ∧
    (s.hub.dispatch.contains r = true → (∀ x ∈ s.hub.dispatch, x.sev ≤ r.sev) → ∃ (k : Nat) (q : FaultRec), s.hub.dispatch[k]? = some q ∧ q.sev = r.sev ∧
      (∀ j x, j < k → s.hub.dispatch[j]? = some x → x.sev < q.sev) ∧ exec .faultDispatch s = .next ((s.modHub fun h => { h with dispatch := h.dispatch.eraseIdx k }).handle q))

/-- R75, R169, R286, R325, R326, R328, R331: the end of a discard and its limit, control-state faults, self-tests, the watchdog and the audit. -/
def Obligations.HubEventsComplete : Prop :=
  ∀ (s : State), s.power.row = 11 →
    (∀ p, p < 4 → (s.part p).fenced = true → (s.part p).fab.booksClosed = true →
      ((s.part p).st = .draining → exec (.booksRestored p) s = .next (s.recoverPart p)) ∧
      ((s.part p).st = .reset → s.tested p = true → exec (.booksRestored p) s = .next (s.modPart p fun q => { q with st := .ready, depth := 0, fenced := false, discardFrom := none }))) ∧
    (∀ p t, p < 4 → (s.part p).discardFrom = some t → (s.part p).fenced = true → ticksMs 100 < s.tick - t →
      exec (.discardTimeout p) s = .next ((s.modPart p fun q => { q with discardFrom := some s.tick }).raise (recPart p 3 0x82))) ∧
    (∀ h, h < 256 → exec (.controlParity (.hearth h)) s = .next (s.hearthParity h) ∧ exec (.controlParity (.temper h)) s = .next (s.hearthParity h) ∧
      ∀ src, exec (.controlParity (.temperProgram h src)) s = .next (s.raise { recHearth (hearthPart s.nparts h) h 3 0x30 with detail := srcIx src })) ∧
    exec (.controlParity .cipherSched) s = .next s.schedFault ∧
    (∀ p, p < 4 → exec (.controlParity (.pyro p)) s = .next (s.raise (recPart p 3 0x30))) ∧
    exec (.controlParity (.smithMem true)) s = .next (s.raise { recDev 5 (Config.faultCode 331) with resClass := 13 }) ∧
    exec (.controlParity (.smithMem false)) s = .next (s.raiseMem { recDev 1 0x03 with resClass := 13 }) ∧ exec .watchdogExpiry s = .next (s.raise { recDev 5 (Config.faultCode 331) with resClass := 13 }) ∧
    (∀ h, h < 256 → (s.hearth h).testing = true → exec (.selftestDone true h true) s = .next (s.modHearth h fun x => { x with testing := false, st := .ready }).testsOver ∧
      exec (.selftestDone true h false) s = .next (s.hearthFailed h).testsOver) ∧
    (∀ k, k < 16 → (s.cipher.cores.getD k {}).testing = true → exec (.selftestDone false k true) s = .next (s.modCipher fun c => c.modCore k fun x => { x with testing := false }).testsOver ∧
      exec (.selftestDone false k false) s = .next (s.coreFailed k).testsOver) ∧
    (s.hub.auditTick + ticksSec 1 ≤ s.tick → exec .bookAudit s = .next (s.modHub fun h => { h with auditTick := s.tick }).audit)

/-- R311-R313, R317, R347-R350: scrub reads, write-backs, remaps and the local scrub; telemetry batches, count and power records. -/
def Obligations.ScrubAndTelemetryComplete : Prop :=
  ∀ (s : State), s.power.row = 11 →
    (∀ k ecc, k < 16 → s.power.pstate ≠ .p3 → bit s.scrub.cfg 11 = true → exec (.scrubRead false k ecc) s = .next
      ((s.scrubLine (s.stackLine k (s.scrub.hbm.getD k 0)) ecc).modScrub fun x => { x with hbm := updAt x.hbm k fun i => (i + 1) % packLines })) ∧
    (∀ k ecc, k < 2 → s.power.pstate ≠ .p3 → bit s.scrub.cfg 10 = true → exec (.scrubRead true k ecc) s = .next
      ((s.scrubLine (s.packLine (16 * k + s.scrub.cru.getD k 0 / packLines) (s.scrub.cru.getD k 0 % packLines)) ecc).modScrub fun x => { x with cru := updAt x.cru k fun i => (i + 1) % (16 * packLines) })) ∧
    (∀ la, exec (.correctedWriteback la) s = .next { s with scrub := { s.scrub with wbacks := s.scrub.wbacks.filter (· != la) } }) ∧
    (∀ die page, die < 2 → (∃ r ∈ s.scrub.remaps.getD die [], r.page = page ∧ r.st = 1) → ∃ t : State, exec (.remapDone die page) s = .next t ∧
      (die < s.scrub.remaps.length → ∀ r ∈ t.scrub.remaps.getD die [], r.page = page → r.st ≠ 1) ∧ t.mem = s.mem ∧ t.hub.arriving.length ≥ s.hub.arriving.length + 1) ∧
    (s.scrub.walkTick + ticksSec 1 ≤ s.tick → ∃ t : State, exec (.localScrub []) s = .next t ∧ t.scrub.walkTick = s.tick ∧ ∀ w b, vote3 s.partCfg = some (w, b) → t.partCfg = copies3 w) ∧
    (∀ k, k < 5 → (s.streams.getD k {}).configured = true → (s.streams.getD k {}).queue ≠ [] → s.ringUp k (s.streams.getD k {}) = true → ∃ t : State, exec (.telemBatch k) s = .next t ∧
      (k < s.streams.length → (t.streams.getD k {}).queue = ((s.streams.getD k {}).batch (leNat (s.get4 (consOff k) 8))).2 ∧
        (t.streams.getD k {}).batches = ((s.streams.getD k {}).batches + 1) % 2 ^ 28) ∧ t.mem = s.mem) ∧
    (s.hub.countTick + ticksSec 1 ≤ s.tick → ∃ t : State, exec .countRec s = .next t ∧ t.hub = { s.hub with uncounted := [], evicted := 0, countTick := s.tick } ∧ t.mem = s.mem) ∧
    ((s.streams.getD 0 {}).powerMs ≠ 0 → ticksMs (s.streams.getD 0 {}).powerMs ≤ s.tick - s.power.recTick → ∃ t : State, exec .powerRec s = .next t ∧
      t.power = { s.power with bladeSum := 0, bladeMax := 0, bladeN := 0, throttleTicks := 0, recTick := s.tick } ∧ t.mem = s.mem)

/-! ## Power, temperature, clocks, pins and ports -/

/-- R49, R353, R362, R363, R369-R372, R382: the timed events of power, temperature and clocks. -/
def Obligations.PowerEventsComplete : Prop :=
  ∀ (s : State), s.power.row = 11 →
    (∀ x : CapIn, ∃ t : State, exec (.capTick x) s = .next t ∧ t.power.blade = x.blade ∧ t.power.bladeSum = s.power.bladeSum + x.blade ∧ t.mem = s.mem ∧ t.power.cap = s.power.cap) ∧
    (∀ l, exec (.thermalTick l) s = .next (s.each l fun s (k, v) => s.sensor k v)) ∧
    (∀ ppm edge lock, s.power.vco = true → exec (.clockCheck ppm edge lock) s = .next (if ppm ≤ 10000 ∧ edge = true ∧ lock = true then s else
      ({ s with power := { s.power with vco := false } } : State).raise { recDev 5 0x94 with resClass := 15, resIndex := 3 })) ∧
    (∀ b, b < 4 → exec (.phyPll b) s = .next ((s.raise { recPart (bellowsPart s.nparts b) 2 0x95 with unit := 0x8000, resClass := 6, resIndex := b }).darkPorts b)) ∧
    (∀ k, k < 2 → exec (.phyPll (4 + k)) s = .next ((s.modPower fun w => { w with lostMem := setIns (4 + k) w.lostMem }).each (diePartsCru s.nparts k) fun s p =>
      s.raise { recPart p 3 0x95 with unit := 0x8000, resClass := 3, resIndex := k })) ∧
    (∀ k, 6 ≤ k → k < 22 → exec (.phyPll k) s = .next ((s.modPower fun w => { w with lostMem := setIns k w.lostMem }).raise { recPart (stackPart s.nparts (k - 6)) 3 0x95 with unit := 0x8000, resClass := 1, resIndex := k - 6 })) ∧
    (∀ b, b < 4 → exec (.phyPllRelock b true) s = .next (s.each [2 * b, 2 * b + 1] fun s q => s.modPort q fun y => { y with pllLost := false })) ∧
    (∀ uf mv, s.power.cmeas = none ∨ s.power.holdTick + ticksSec 86400 ≤ s.tick → exec (.holdupMeasure uf mv) s = .next
      (let t : State := { s with power := { s.power with cmeas := some uf, vbank := mv, holdTick := s.tick } }
       if holdEnergy (some uf) 48000 < holdupFloor then t.raise { recDev 2 0x9C with resClass := 15, resIndex := 1 } else t)) ∧
    (s.power.retryTick + ticksSec 1 ≤ s.tick → exec .pstoreRetry s = .next ({ s with power := { s.power with retryTick := s.tick } } : State).retryStores) ∧
    (s.power.hoursTick + ticksSec 3600 ≤ s.tick → exec .wearCounterWrite s = .next (({ s with power := { s.power with hours := s.power.hours + 1, hoursTick := s.tick } } : State).persist .wear)) ∧
    (s.power.pstate = .p0 → s.power.target = 1 → s.power.moving = none → (∀ q ∈ s.parts, q.busy = false) → s.power.busyTick + ticksMs 10 ≤ s.tick → exec .idleEntry s = .next { s with power := { s.power with pstate := .p1 } }) ∧
    (∀ x, s.power.moving = some x → (x = .p2 → s.allHeld = true) → (x = .p3 → s.allFree = true) → (s.power.pstate = .p3 → ∀ h ∈ s.hearths, h.testing = false) → exec .powerTransitionDone s = .next (s.enter x)) ∧
    (∀ p, p < 4 → (s.part p).run.holds.contains .halt = true → (s.part p).run.atAction8 = true → ticksSec 10 ≤ s.tick - (s.part p).run.haltTick →
      exec (.halt p) s = .next ((s.modRun p fun r => { r with haltTick := s.tick }).notice p 1 (s.part p).run.step))

/-- R355, R357, R358, R366, R371, R374-R378, R383: pins: an edge is accepted at once, and for 1 ms after it later levels are only noted; standby
power, the input and the causes of a power-fail. A power-fail ends with the main domain off and its cause latched. Neighbour discovery, pause frames,
and the I3C and JTAG ports (R211, R214, R302, R352, R379; the JTAG codes are the model's, log entry 44). -/
def Obligations.PinsAndInputComplete : Prop :=
  (∀ (s : State),
    (s.power.standby = true →
      let seen := fun (k : Nat) (level : Bool) => s.modPower fun w => { w with raw := updAt w.raw k fun _ => level }
      let edge := fun (k : Nat) (level : Bool) => ((seen k level).setPin k level).modPower fun w => { w with edgeHold := updAt w.edgeHold k fun _ => ticksMs 1 }
      let takes := fun (i : Instr) (k : Nat) (level : Bool) =>
        (s.power.forced.getD k false = false → s.power.edgeHold.getD k 0 = 0 → s.pin k ≠ level → exec i s = .next (edge k level)) ∧
        (s.power.forced.getD k false = true ∨ s.power.edgeHold.getD k 0 ≠ 0 ∨ s.pin k = level → exec i s = .next (seen k level))
      takes .pwrEnAssert 0 true ∧ takes .pwrEnDeassert 0 false ∧ takes .resetNAssert 1 false ∧ takes .resetNDeassert 1 true ∧ takes .haltNAssert 2 false ∧ takes .haltNDeassert 2 true) ∧
    (∀ b, s.setPin 0 b = s.setPwrEn b ∧ s.setPin 1 b = s.setResetN b ∧ s.setPin 2 b = s.setHalt b) ∧
    (∀ k, k < 3 → s.power.standby = true → s.power.forced.getD k false = false → exec (.inputUnstable k) s = .next
      (((if s.pin k then s.setPin k false else s).modPower fun w => { w with forced := updAt w.forced k fun _ => true }).pinRec k 2 0)) ∧
    (∀ k v, k < 3 → s.power.forced.getD k false = true → exec (.inputUnstableRelease k v) s = .next
      (let t := s.modPower fun w => { w with forced := updAt w.forced k fun _ => false, raw := updAt w.raw k fun _ => v }
       (if t.pin k == v then t else t.setPin k v).pinRec k 1 1)) ∧
    (s.power.standby = false → 36000 ≤ s.power.millivolts → exec .standbyUp s = .next { s with power := { s.power with standby := true, row := 1, pstate := .p4, latched := false, standbyLeft := ticksMs 100 } }) ∧
    (∀ k, s.power.standby = true → s.power.latched = false → exec (.slotIdLatch k) s = .next { s with power := { s.power with straps := k % 64, latched := true } }) ∧
    (∀ k, s.power.standby = true → s.power.latched = true → k % 64 ≠ s.power.straps → exec (.strapChange k) s = .next { s with power := { s.power with strapNoted := true } }) ∧
    (2 ≤ s.power.row → (∀ die, die < 40 → exec (.regulator die) s = .next (s.powerFail .regulator { recDev 5 0x93 with resClass := 15, resIndex := 8 + die })) ∧
      exec .breakerOpen s = .next (s.powerFail .breaker { recDev 5 0x92 with resClass := 15, resIndex := 0 }) ∧
      exec .thermalTrip s = .next (({ s with power := { s.power with tripN := false } } : State).powerFail .thermal { recDev 5 0x97 with resClass := 15, resIndex := 62 }) ∧
      (∀ mv, 35000 ≤ mv → mv < 38000 ∨ 52000 < mv → exec (.inputBandChange mv) s = .next
        (({ s with power := { s.power with millivolts := mv } } : State).powerFail .input { recDev 5 0x92 with resClass := 15, resIndex := 0 })) ∧
      (∀ c r, (s.powerFail c r).power.cause = some c ∧ (s.powerFail c r).power.row ≤ 1 ∧ (s.powerFail c r).power.pstate = .p4 ∧ (s.powerFail c r).mem = [] ∧ (s.powerFail c r).pending = s.pending ∧
        (s.powerFail c r).sec.life = s.sec.life)) ∧
    (∀ mv, 40000 ≤ mv → mv ≤ 50000 → exec (.inputBandChange mv) s = .next ({ s with power := { s.power with millivolts := mv } } : State).tryStart)) ∧
  (∀ (s : State),
    (∀ q k, q < 8 → k < 8 → s.subUp q k = true →
      exec (.neighborSolicitation q ⟨k, 0⟩ (linkLocal q k)) s = .next (s.emit (.neighborAdvert q k (linkLocal q k))) ∧
      (s.hasNet = true → exec (.neighborSolicitation q ⟨k, 0⟩ (s.planeAddr q)) s = .next (s.emit (.neighborAdvert q k (s.planeAddr q)))) ∧
      (∀ a, exec (.routerAdvertisement q ⟨k, 0⟩ a) s = .next (s.modPort q fun y => y.modSub k fun z => { z with router := a })) ∧
      exec (.pauseFrame q k) s = .next (s.count .pauseFrame)) ∧
    (∀ q k v a, q < 8 → k < 8 → v ≠ 0 → exec (.neighborSolicitation q ⟨k, v⟩ a) s = .next (s.count .badTag) ∧ exec (.routerAdvertisement q ⟨k, v⟩ a) s = .next (s.count .badTag)) ∧
    (s.power.standby = true →
      (∀ a, exec (.i3cDynamicAddress a) s = .next (({ s with side := { s.side with addr := a % 128 } } : State).emit (.i3cId s.provisionalId))) ∧
      (∀ b, exec (.inBandInterruptEnable b) s = .next { s with side := { s.side with ibi := b } }) ∧
      (∀ k, exec (.jtagInstruction ⟨k, true⟩) s = .next (({ s with power := { s.power with trstN := true } } : State).emit
        (.jtag (if k ≤ 1 then k else if 6 ≤ s.power.row ∧ s.sec.level = 2 ∧ (s.power.pstate ≠ .p3 ∨ k ≤ 4) then k else 0)))) ∧
      (∀ k, exec (.jtagInstruction ⟨k, false⟩) s = .next { s with power := { s.power with trstN := false } })))
end

