-- ==== Sys2Proof/Laws/Command.lean ====
section
/-! SUPPORT. What the taking of a mailbox command does (R335). -/

namespace Sys2Proof.Machine

/-- A command let in, whose arguments name nothing out of its scope, does what its own part answers. -/
theorem State.command_of_scope {s : State} {m : Nat} {c : Cmd} (h : s.takes m c) (body : State → Nat → List Byte → Reply) (scope : Scope)
    (hs : scope s (s.mbxFor m) (s.mbxArgs m) = none) :
    s.command m c body scope = match body s (s.mbxFor m) (s.mbxArgs m) with
      | .keep t => t
      | .done t st resp off => t.finishMbx m st resp off := by
  obtain ⟨_, h1, h2, h3, h4, h5, h6, h7, h8, h9, h10⟩ := h
  unfold State.command
  simp only [h1, h2, beq_self_eq_true, Bool.and_self, ↓reduceIte]
  unfold State.checked
  cases hr : body s (s.mbxFor m) (s.mbxArgs m) <;> simp [h3, h4, h5, h6, h7, h8, h9, h10, hr, hs]

/-- The same for a command whose arguments name nothing that belongs to a partition. -/
theorem State.command_of_takes {s : State} {m : Nat} {c : Cmd} (h : s.takes m c) (body : State → Nat → List Byte → Reply) :
    s.command m c body = match body s (s.mbxFor m) (s.mbxArgs m) with
      | .keep t => t
      | .done t st resp off => t.finishMbx m st resp off := State.command_of_scope h body noScope rfl

/-- Nothing happens where another command, or none, has its turn in the mailbox. -/
theorem State.command_idle {s : State} {m : Nat} {c : Cmd} (h : (s.atHead m && mhOpcode (s.mbxHdr m) == c.op) = false)
    (body : State → Nat → List Byte → Reply) (scope : Scope := noScope) : s.command m c body scope = s := by
  unfold State.command; simp [h]

end Sys2Proof.Machine
end

