-- ==== Sys2Proof/Laws/Memory.lean ====
section
/-! SUPPORT. Memory: what a write leaves at every address, that bytes written are read back, and that every memory operation keeps the canonical form. -/

namespace Sys2Proof.Machine

/-! ## The canonical form -/

theorem Memory.wf_nil : Memory.wf [] := ⟨List.Pairwise.nil, fun _ h => nomatch h⟩

theorem Memory.wf_filter {m : List Host.Cell} (h : Memory.wf m) (p : Host.Cell → Bool) : Memory.wf (m.filter p) :=
  ⟨h.1.sublist List.filter_sublist, fun c hc => h.2 c (List.mem_of_mem_filter hc)⟩

theorem Memory.wf_clear {m : List Host.Cell} (h : Memory.wf m) (a n : Nat) : Memory.wf (Memory.clear m a n) := Memory.wf_filter h _

/-- The cells of a byte string lie in its range. -/
theorem Memory.mem_cells {c : Host.Cell} : ∀ {bs : List Byte} {a : Nat}, c ∈ Memory.cells a bs → a ≤ c.1 ∧ c.1 < a + bs.length
  | [], _, h => by simp [Memory.cells] at h
  | b :: bs, a, h => by
    simp only [Memory.cells] at h
    split at h
    · have := Memory.mem_cells h; simp; omega
    · rcases List.mem_cons.1 h with rfl | h
      · simp
      · have := Memory.mem_cells h; simp; omega

theorem Memory.wf_cells : ∀ (bs : List Byte) (a : Nat), Memory.wf (Memory.cells a bs)
  | [], _ => Memory.wf_nil
  | b :: bs, a => by
    simp only [Memory.cells]
    have ih := Memory.wf_cells bs (a + 1)
    split
    · exact ih
    · rename_i hb
      refine ⟨List.pairwise_cons.2 ⟨fun c hc => ?_, ih.1⟩, fun c hc => ?_⟩
      · have := Memory.mem_cells hc; simp; omega
      · rcases List.mem_cons.1 hc with rfl | hc
        · exact hb
        · exact ih.2 c hc

/-- A write keeps the canonical form. -/
theorem Memory.wf_writeBytes {m : List Host.Cell} (h : Memory.wf m) (a : Nat) (bs : List Byte) : Memory.wf (Memory.writeBytes m a bs) := by
  have h1 := Memory.wf_filter h (fun c => decide (c.1 < a))
  have h2 := Memory.wf_cells bs a
  have h3 := Memory.wf_filter h (fun c => decide (a + bs.length ≤ c.1))
  refine ⟨List.pairwise_append.2 ⟨h1.1, List.pairwise_append.2 ⟨h2.1, h3.1, ?_⟩, ?_⟩, ?_⟩
  · intro x hx y hy
    have := Memory.mem_cells hx; simp at hy; omega
  · intro x hx y hy
    simp at hx
    rcases List.mem_append.1 hy with hy | hy
    · have := Memory.mem_cells hy; omega
    · simp at hy; omega
  · intro c hc
    rcases List.mem_append.1 hc with hc | hc
    · exact h1.2 c hc
    · rcases List.mem_append.1 hc with hc | hc
      · exact h2.2 c hc
      · exact h3.2 c hc

/-! ## One byte after a write -/

theorem Memory.find_cells_none : ∀ (bs : List Byte) (a x : Nat), ¬(a ≤ x ∧ x < a + bs.length) → (Memory.cells a bs).find? (fun c => c.1 == x) = none := by
  intro bs a x h
  rw [List.find?_eq_none]
  intro c hc
  have := Memory.mem_cells hc
  simp; omega

theorem Memory.read_cells : ∀ (bs : List Byte) (a i : Nat), i < bs.length →
    (match (Memory.cells a bs).find? (fun c => c.1 == a + i) with | some c => c.2 | none => Memory.blank) = bs.getD i 0#8
  | [], _, _, h => by simp at h
  | b :: bs, a, 0, _ => by
    by_cases hb : b = Memory.blank
    · simp only [Memory.cells, hb, ↓reduceIte]
      rw [Memory.find_cells_none _ _ _ (by omega)]; simp
    · simp [Memory.cells, hb]
  | b :: bs, a, i + 1, h => by
    have ih := Memory.read_cells bs (a + 1) i (by simpa using h)
    have e : a + 1 + i = a + (i + 1) := by omega
    rw [e] at ih
    by_cases hb : b = Memory.blank
    · simp only [Memory.cells, hb, ↓reduceIte]
      simpa using ih
    · simp only [Memory.cells, hb, ↓reduceIte, List.find?_cons]
      have : (a == a + (i + 1)) = false := by simp
      simp only [this]
      simpa using ih

/-- A byte inside what was written reads as written. -/
theorem Memory.read_writeBytes_in (m : List Host.Cell) (a : Nat) (bs : List Byte) (x : Nat) (h : a ≤ x) (h' : x < a + bs.length) :
    Memory.read (Memory.writeBytes m a bs) x = bs.getD (x - a) 0#8 := by
  have e := Memory.read_cells bs a (x - a) (by omega)
  rw [show a + (x - a) = x by omega] at e
  unfold Memory.read Memory.writeBytes
  have n1 : (m.filter fun c => decide (c.1 < a)).find? (fun c => c.1 == x) = none := by
    rw [List.find?_eq_none]; intro c hc; simp at hc; simp; omega
  have n3 : (m.filter fun c => decide (a + bs.length ≤ c.1)).find? (fun c => c.1 == x) = none := by
    rw [List.find?_eq_none]; intro c hc; simp at hc; simp; omega
  rw [List.find?_append, n1, Option.none_or, List.find?_append, n3, Option.or_none]
  exact e

theorem Memory.find_filter {m : List Host.Cell} {p : Host.Cell → Bool} {x : Nat} (h : ∀ c : Host.Cell, c.1 = x → p c = true) :
    (m.filter p).find? (fun c => c.1 == x) = m.find? (fun c => c.1 == x) := by
  rw [List.find?_filter]
  congr 1; funext c
  by_cases hc : c.1 = x
  · simp [hc, h c hc]
  · simp [hc]

theorem Memory.find_filter_none {m : List Host.Cell} {p : Host.Cell → Bool} {x : Nat} (h : ∀ c : Host.Cell, c.1 = x → p c = false) :
    (m.filter p).find? (fun c => c.1 == x) = none := by
  rw [List.find?_eq_none]; intro c hc
  by_cases hx : c.1 = x
  · have := List.of_mem_filter hc; rw [h c hx] at this; simp at this
  · simpa using hx

/-- A byte outside what was written reads as before. -/
theorem Memory.read_writeBytes_out (m : List Host.Cell) (a : Nat) (bs : List Byte) (x : Nat) (h : ¬(a ≤ x ∧ x < a + bs.length)) :
    Memory.read (Memory.writeBytes m a bs) x = Memory.read m x := by
  unfold Memory.read Memory.writeBytes
  rw [List.find?_append, List.find?_append, Memory.find_cells_none bs a x h, Option.none_or]
  by_cases hx : x < a
  · rw [Memory.find_filter (fun c hc => by simpa [hc] using hx), Memory.find_filter_none (fun c hc => by simp; omega), Option.or_none]
  · rw [Memory.find_filter_none (fun c hc => by simp; omega), Option.none_or, Memory.find_filter (fun c hc => by simp; omega)]

theorem Memory.read_clear (m : List Host.Cell) (a n x : Nat) :
    Memory.read (Memory.clear m a n) x = if a ≤ x ∧ x < a + n then Memory.blank else Memory.read m x := by
  unfold Memory.read Memory.clear
  by_cases h : a ≤ x ∧ x < a + n
  · rw [if_pos h, Memory.find_filter_none (fun c hc => by subst hc; simp; omega)]
  · rw [if_neg h, Memory.find_filter (fun c hc => by subst hc; simp; omega)]

/-! ## Runs of bytes -/

theorem Memory.fillFrom_cells : ∀ (bs : List Byte) (a : Nat), Memory.fillFrom bs.length a (Memory.cells a bs) = bs
  | [], a => by simp [Memory.fillFrom]
  | b :: bs, a => by
    have ih := Memory.fillFrom_cells bs (a + 1)
    simp only [Memory.cells, List.length_cons]
    split
    · rename_i hb
      cases hc : Memory.cells (a + 1) bs with
      | nil => rw [hc] at ih; simp [Memory.fillFrom, ih, hb]
      | cons c cs =>
        have hm := Memory.mem_cells (c := c) (bs := bs) (a := a + 1) (by rw [hc]; simp)
        rw [hc] at ih
        rw [Memory.fillFrom, if_neg (by omega), ih, hb]
    · rw [Memory.fillFrom]; simp [ih]

theorem Memory.filter_writeBytes_in (m : List Host.Cell) (a : Nat) (bs : List Byte) :
    (Memory.writeBytes m a bs).filter (fun c => decide (a ≤ c.1) && decide (c.1 < a + bs.length)) = Memory.cells a bs := by
  unfold Memory.writeBytes
  rw [List.filter_append, List.filter_append, List.filter_filter, List.filter_filter]
  have e1 : m.filter (fun c => (decide (a ≤ c.1) && decide (c.1 < a + bs.length)) && decide (c.1 < a)) = [] := by
    rw [List.filter_eq_nil_iff]; intro c _; simp; omega
  have e3 : m.filter (fun c => (decide (a ≤ c.1) && decide (c.1 < a + bs.length)) && decide (a + bs.length ≤ c.1)) = [] := by
    rw [List.filter_eq_nil_iff]; intro c _; simp
  have e2 : (Memory.cells a bs).filter (fun c => decide (a ≤ c.1) && decide (c.1 < a + bs.length)) = Memory.cells a bs := by
    rw [List.filter_eq_self]; intro c hc; have := Memory.mem_cells hc; simp; omega
  rw [e1, e2, e3]; simp

/-- What is written is read back whole. -/
theorem Memory.readN_writeBytes (m : List Host.Cell) (a : Nat) (bs : List Byte) : Memory.readN (Memory.writeBytes m a bs) a bs.length = bs := by
  unfold Memory.readN
  rw [Memory.filter_writeBytes_in, Memory.fillFrom_cells]

/-- A run that a write does not meet reads as before. -/
theorem Memory.readN_writeBytes_out (m : List Host.Cell) (a : Nat) (bs : List Byte) (b n : Nat) (h : b + n ≤ a ∨ a + bs.length ≤ b) :
    Memory.readN (Memory.writeBytes m a bs) b n = Memory.readN m b n := by
  unfold Memory.readN Memory.writeBytes
  congr 1
  rw [List.filter_append, List.filter_append, List.filter_filter, List.filter_filter]
  have e2 : (Memory.cells a bs).filter (fun c => decide (b ≤ c.1) && decide (c.1 < b + n)) = [] := by
    rw [List.filter_eq_nil_iff]; intro c hc; have := Memory.mem_cells hc; simp; omega
  rw [e2, List.nil_append]
  rcases h with h | h
  · have e1 : m.filter (fun c => (decide (b ≤ c.1) && decide (c.1 < b + n)) && decide (c.1 < a)) = m.filter (fun c => decide (b ≤ c.1) && decide (c.1 < b + n)) := by
      apply List.filter_congr; intro c _; simp; omega
    have e3 : m.filter (fun c => (decide (b ≤ c.1) && decide (c.1 < b + n)) && decide (a + bs.length ≤ c.1)) = [] := by
      rw [List.filter_eq_nil_iff]; intro c _; simp; omega
    rw [e1, e3, List.append_nil]
  · have e1 : m.filter (fun c => (decide (b ≤ c.1) && decide (c.1 < b + n)) && decide (c.1 < a)) = [] := by
      rw [List.filter_eq_nil_iff]; intro c _; simp; omega
    have e3 : m.filter (fun c => (decide (b ≤ c.1) && decide (c.1 < b + n)) && decide (a + bs.length ≤ c.1)) = m.filter (fun c => decide (b ≤ c.1) && decide (c.1 < b + n)) := by
      apply List.filter_congr; intro c _; simp; omega
    rw [e1, e3, List.nil_append]

theorem Memory.length_fillFrom : ∀ (n a : Nat) (l : List Host.Cell), (Memory.fillFrom n a l).length = n
  | 0, _, _ => by simp [Memory.fillFrom]
  | n + 1, a, [] => by simp [Memory.fillFrom, Memory.length_fillFrom n]
  | n + 1, a, c :: cs => by rw [Memory.fillFrom]; split <;> simp [Memory.length_fillFrom n]

/-- A run of `n` bytes has `n` bytes. -/
@[simp] theorem Memory.length_readN (m : List Host.Cell) (a n : Nat) : (Memory.readN m a n).length = n := Memory.length_fillFrom _ _ _

/-- A run of one byte is the byte. -/
theorem Memory.readN_one (m : List Host.Cell) (a : Nat) : Memory.readN m a 1 = [Memory.read m a] := by
  unfold Memory.readN Memory.read
  have e : (m.filter fun c => decide (a ≤ c.1) && decide (c.1 < a + 1)) = m.filter fun c => c.1 == a := by
    apply List.filter_congr; intro c _; rw [Bool.eq_iff_iff]; simp; omega
  rw [e]
  cases hf : m.filter (fun c => c.1 == a) with
  | nil =>
    have : m.find? (fun c => c.1 == a) = none := by
      rw [List.find?_eq_none]; intro c hc; have := (List.filter_eq_nil_iff.1 hf) c hc; simpa using this
    rw [this]; simp [Memory.fillFrom]
  | cons c cs =>
    have hc : c.1 = a := by have : c ∈ m.filter (fun c => c.1 == a) := by rw [hf]; simp
                            simpa using List.of_mem_filter this
    have : m.find? (fun c => c.1 == a) = some c := by rw [← List.head?_filter, hf]; rfl
    rw [this]; simp [Memory.fillFrom, hc]

end Sys2Proof.Machine
end

