-- ==== Sys2Proof/Laws/Events.lean ====
section
/-! SUPPORT. What the shared operations do: stores and loads, an accepted packet, a segment heard, a sideband message let in. -/

namespace Sys2Proof.Machine

/-! ## Stores (R308) -/

/-- A store writes memory and marks, and drops write-backs of the lines it meets; nothing else. -/
theorem State.store_frame (s : State) (la : Nat) (bs : List Byte) (mk : Bool) :
    s.store la bs mk = { s with mem := Memory.writeBytes s.mem la bs, marks := (s.store la bs mk).marks, wmarks := (s.store la bs mk).wmarks,
                                scrub := { s.scrub with wbacks := (s.store la bs mk).scrub.wbacks } } := by
  unfold State.store; dsimp only; split <;> rfl

@[simp] theorem State.store_mem (s : State) (la : Nat) (bs : List Byte) (mk : Bool) : (s.store la bs mk).mem = Memory.writeBytes s.mem la bs := by rw [State.store_frame]

/-- The bytes stored read back. -/
theorem State.store_bytes (s : State) (la : Nat) (bs : List Byte) (mk : Bool) : (s.store la bs mk).bytes la bs.length = bs := by
  simp [State.bytes, Memory.readN_writeBytes]

/-- Every byte outside them reads as before. -/
theorem State.store_read_out (s : State) (la : Nat) (bs : List Byte) (mk : Bool) {a : Nat} (h : ¬(la ≤ a ∧ a < la + bs.length)) :
    Memory.read (s.store la bs mk).mem a = Memory.read s.mem a := by
  rw [State.store_mem, Memory.read_writeBytes_out _ _ _ _ h]

/-- Bytes of space 4 that the module stores read back. -/
theorem State.put4_get4 (s : State) (off : Nat) (bs : List Byte) : (s.put4 off bs).get4 off bs.length = bs := by
  simp [State.put4, State.get4, Memory.readN_writeBytes]

/-! ## Packets and segments (R190, R219, R222) -/

/-- A packet that the transport takes, of a row's own form, has its effect; a reliable one is then counted and acknowledged when that is due. -/
theorem State.packetEvent_of_gets {s u : State} {types : List Nat} {k : HtPkt} {p : Nat} (h : s.gets types k p u) {mine : HtPkt → Bool} (act : State → Nat → State)
    (hm : mine k = true) : s.packetEvent types mine k act = if htReliable k.type then ((act u p).dataArrived p k).ackIfDue p k.srcModule k.srcPart else act u p := by
  obtain ⟨v, h', rfl⟩ := h
  unfold State.packetEvent
  simp [hm, h']

/-- What the receive buffer lost changes a segment's blocks only. -/
@[simp] theorem Seg.marked_kind (x : Seg) (c : Nat) : (x.marked c).kind = x.kind := by unfold Seg.marked; dsimp only; split_ifs <;> rfl

/-- A segment that is heard, of a row's own kind, has its effect, and the transport acknowledges when that is due. -/
theorem State.segEvent_of_hears {s u : State} {pkt : HtPkt} {p : Nat} {x : Seg} (h : s.hears pkt p u x) {mine : Seg → State → Nat → Bool}
    (act : State → Nat → Nat → Seg → State) (hm : mine (segOf pkt.payload) s p = true) :
    s.segEvent pkt mine act = (act u p (senderOf pkt) x).ackIfDue p pkt.srcModule pkt.srcPart := by
  obtain ⟨⟨v, hr, rfl⟩, rfl, ho, hd, he, hf, hs⟩ := h
  unfold State.segEvent
  have h1 : ¬((pkt.type = 6 ∧ 1 ≤ pkt.op ∧ pkt.op ≤ 2) ∨ ((segOf pkt.payload).kind ≤ 7 ∧ (!mine (segOf pkt.payload) s pkt.dstPart) = true)) := by
    subst hd; simp [hm]; omega
  simp only [hd] at h1
  simp only [hr, hd]
  have hk : ((segOf pkt.payload).marked (senderOf pkt)).kind ≤ 7 := by
    unfold State.segOk at hs; simp only [Bool.and_eq_true, decide_eq_true_eq] at hs; omega
  rw [if_neg h1, if_neg (by rcases he with he | he | he <;> simp_all), if_neg (by rcases hf with hf | hf <;> [simp [hf]; (intro h; omega)]), hs]
  simp

/-! ## The sideband (R352, R378-R380) -/

/-- With standby power and the smith up, in a state that is not RETIRED, a message is let in and answered. -/
theorem State.sb_of_up {s : State} (hs : s.power.standby = true) (hu : s.smithUp = true) (hl : s.sec.life ≠ .retired) (k : SbKind) (f : State → State × Nat × List Byte) :
    s.sb k f = (f s).1.emit (.sideband (f s).2.1 (f s).2.2) := by
  have hu' : 6 ≤ s.power.row ∧ s.sec.romRecovery = false := by simpa [State.smithUp] using hu
  have hg : s.sbGate k = some 0 := by unfold State.sbGate; simp [hs, Nat.not_lt.2 hu'.1, hl, hu'.2]
  unfold State.sb
  simp [hg]

end Sys2Proof.Machine
end

