-- ==== Sys2Proof/Laws/Lists.lean ====
section
/-! SUPPORT. One element of a list changed: its length, its elements, and what is read from it. -/

namespace Sys2Proof.Machine

@[simp] theorem length_updAt {α : Type} (f : α → α) : ∀ (l : List α) (i : Nat), (updAt l i f).length = l.length
  | [], _ => rfl
  | _ :: _, 0 => rfl
  | _ :: xs, i + 1 => by simp [updAt, length_updAt f xs i]

theorem mem_updAt {α : Type} {f : α → α} {x : α} : ∀ {l : List α} {i : Nat}, x ∈ updAt l i f → x ∈ l ∨ ∃ y ∈ l, x = f y
  | [], _, h => by simp [updAt] at h
  | y :: ys, 0, h => by
    rcases List.mem_cons.1 h with rfl | h
    · exact .inr ⟨y, by simp, rfl⟩
    · exact .inl (by simp [h])
  | y :: ys, i + 1, h => by
    rcases List.mem_cons.1 h with rfl | h
    · exact .inl (by simp)
    · rcases mem_updAt h with h | ⟨z, hz, e⟩
      · exact .inl (by simp [h])
      · exact .inr ⟨z, by simp [hz], e⟩

/-- The element changed. -/
theorem getD_updAt_self {α : Type} (f : α → α) (d : α) : ∀ (l : List α) (i : Nat), i < l.length → (updAt l i f).getD i d = f (l.getD i d)
  | [], _, h => by simp at h
  | x :: xs, 0, _ => by simp [updAt]
  | x :: xs, i + 1, h => by simpa [updAt] using getD_updAt_self f d xs i (by simpa using h)

/-- Every other element. -/
@[simp] theorem getD_updAt_ne {α : Type} (f : α → α) (d : α) : ∀ (l : List α) (i j : Nat), j ≠ i → (updAt l i f).getD j d = l.getD j d
  | [], _, _, _ => rfl
  | x :: xs, 0, 0, h => by simp at h
  | x :: xs, 0, j + 1, _ => by simp [updAt]
  | x :: xs, i + 1, 0, _ => by simp [updAt]
  | x :: xs, i + 1, j + 1, h => by simpa [updAt] using getD_updAt_ne f d xs i j (by omega)

/-- Past the end nothing changes. -/
theorem updAt_past {α : Type} (f : α → α) : ∀ (l : List α) (i : Nat), l.length ≤ i → updAt l i f = l
  | [], _, _ => rfl
  | x :: xs, 0, h => by simp at h
  | x :: xs, i + 1, h => by simp [updAt, updAt_past f xs i (by simpa using h)]

theorem getD_updAt {α : Type} (f : α → α) (d : α) (l : List α) (i j : Nat) :
    (updAt l i f).getD j d = if j = i ∧ i < l.length then f (l.getD i d) else l.getD j d := by
  by_cases h : j = i
  · subst h
    by_cases k : j < l.length
    · rw [if_pos ⟨rfl, k⟩, getD_updAt_self f d l j k]
    · rw [if_neg (by tauto), updAt_past f l j (by omega)]
  · rw [if_neg (by tauto), getD_updAt_ne f d l i j h]

/-- A property of every element, kept by the change, holds of every element after it. -/
theorem forall_updAt {α : Type} {P : α → Prop} {f : α → α} {l : List α} {i : Nat} (hf : ∀ x, P x → P (f x)) (h : ∀ x ∈ l, P x) : ∀ x ∈ updAt l i f, P x := by
  intro x hx
  rcases mem_updAt hx with hx | ⟨y, hy, rfl⟩
  · exact h x hx
  · exact hf y (h y hy)

/-- Little-endian bytes spell the number that they were cut from, within their width. -/
theorem leNat_leBytes : ∀ (k n : Nat), n < 256 ^ k → leNat (leBytes k n) = n
  | 0, n, h => by simp [leBytes, leNat] at h ⊢; omega
  | k + 1, n, h => by
    have e : leNat (leBytes k (n / 256)) = n / 256 := leNat_leBytes k _ (Nat.div_lt_of_lt_mul (by rw [Nat.pow_succ] at h; omega))
    simp only [leBytes, leNat, e, BitVec.toNat_ofNat]
    omega

end Sys2Proof.Machine
end

