-- ==== Sys2Proof/Laws/Keeps.lean ====
section
/-! SUPPORT. What the operations inside a command keep: the waiting commands, the canonical form of memory, the module's units, the lifecycle state and
the anti-rollback counters. A lemma `…_keeps` says so of one operation; they are put together by the names of the operations alone. -/

namespace Sys2Proof.Machine

/-- From `s` to `t` no command was taken or put in, memory stayed canonical, every unit is still there, and the lifecycle and the anti-rollback counters
did not move. -/
structure Keeps (s t : State) : Prop where
  pending : t.pending = s.pending
  mem : Memory.wf s.mem → Memory.wf t.mem
  shaped : s.shaped → t.shaped
  life : t.sec.life = s.sec.life
  arb : t.sec.arb = s.sec.arb

/-- The first three of them, for the two commands that may move the guarded fields. -/
structure Holds (s t : State) : Prop where
  pending : t.pending = s.pending
  mem : Memory.wf s.mem → Memory.wf t.mem
  shaped : s.shaped → t.shaped

theorem Keeps.holds {s t : State} (h : Keeps s t) : Holds s t := ⟨h.pending, h.mem, h.shaped⟩

theorem Holds.refl (s : State) : Holds s s := ⟨rfl, id, id⟩

theorem Holds.trans {a b c : State} (h : Holds a b) (k : Holds b c) : Holds a c :=
  ⟨k.pending.trans h.pending, fun x => k.mem (h.mem x), fun x => k.shaped (h.shaped x)⟩

theorem Holds.sound {s t : State} (h : Holds s t) (x : s.sound) : t.sound := ⟨h.mem x.1, h.shaped x.2⟩

theorem State.modSec_holds {a s : State} (h : Holds a s) {f : Sec → Sec} : Holds a (s.modSec f) := ⟨h.pending, h.mem, h.shaped⟩

/-- The sequencers and token counters of a partition are all there. -/
def Run.ok (r : Run) : Prop := r.seqs.length = 3 ∧ r.tokens.length = 128

theorem Keeps.refl (s : State) : Keeps s s := ⟨rfl, id, id, rfl, rfl⟩

theorem Keeps.trans {a b c : State} (h : Keeps a b) (k : Keeps b c) : Keeps a c :=
  ⟨k.pending.trans h.pending, fun x => k.mem (h.mem x), fun x => k.shaped (h.shaped x), k.life.trans h.life, k.arb.trans h.arb⟩

theorem Keeps.sound {s t : State} (h : Keeps s t) (x : s.sound) : t.sound := ⟨h.mem x.1, h.shaped x.2⟩

/-- What shape a state has, apart from its partitions. -/
def State.sizes (s : State) : List Nat :=
  [s.hearths.length, s.tempers.length, s.tongs.length, s.units.length, s.streams.length, s.cipher.slots.length, s.cipher.cores.length, s.net.qps.length,
   s.net.targets.length, s.net.ports.length, s.hub.queue.length, s.partCfg.length]

theorem State.shaped_iff (s : State) : s.shaped ↔ (s.parts.length = 4 ∧ ∀ q ∈ s.parts, q.run.ok) ∧ s.sizes = [256, 256, 22, 8, 5, 512, 16, 64, 256, 8, 64, 3] := by
  simp [State.shaped, State.sizes, Run.ok]

/-- The general step: pending, memory, partitions, sizes and the two guarded fields, each shown to be kept. -/
theorem Keeps.step {a s t : State} (h : Keeps a s) (e1 : t.pending = s.pending) (e2 : Memory.wf s.mem → Memory.wf t.mem)
    (e3 : t.parts.length = s.parts.length) (e4 : (∀ q ∈ s.parts, q.run.ok) → ∀ q ∈ t.parts, q.run.ok) (e5 : t.sizes = s.sizes) (e6 : t.sec.life = s.sec.life)
    (e7 : t.sec.arb = s.sec.arb) : Keeps a t :=
  h.trans ⟨e1, e2, fun x => by
    rw [State.shaped_iff] at x ⊢
    exact ⟨⟨e3.trans x.1.1, e4 x.1.2⟩, e5.trans x.2⟩, e6, e7⟩

/-- A field that none of it speaks of. -/
theorem Keeps.other {a s t : State} (h : Keeps a s) (e1 : t.pending = s.pending) (e2 : t.mem = s.mem) (e3 : t.parts = s.parts) (e4 : t.hearths = s.hearths)
    (e5 : t.tempers = s.tempers) (e6 : t.tongs = s.tongs) (e7 : t.units = s.units) (e8 : t.streams = s.streams) (e9 : t.cipher = s.cipher) (e10 : t.net = s.net)
    (e11 : t.hub = s.hub) (e12 : t.partCfg = s.partCfg) (e13 : t.sec = s.sec) : Keeps a t :=
  h.step e1 (fun x => e2 ▸ x) (by rw [e3]) (fun x => e3 ▸ x) (by simp [State.sizes, *]) (by rw [e13]) (by rw [e13])

/-- Memory written in a canonical way. -/
theorem Keeps.memory {a s t : State} (h : Keeps a s) (e1 : t.pending = s.pending) (e3 : t.parts = s.parts) (e4 : t.hearths = s.hearths)
    (e5 : t.tempers = s.tempers) (e6 : t.tongs = s.tongs) (e7 : t.units = s.units) (e8 : t.streams = s.streams) (e9 : t.cipher = s.cipher) (e10 : t.net = s.net)
    (e11 : t.hub = s.hub) (e12 : t.partCfg = s.partCfg) (e13 : t.sec = s.sec) (e2 : Memory.wf s.mem → Memory.wf t.mem) : Keeps a t :=
  h.step e1 e2 (by rw [e3]) (fun x => e3 ▸ x) (by simp [State.sizes, *]) (by rw [e13]) (by rw [e13])

/-- The root of trust written, the guarded fields left alone. -/
theorem Keeps.secure {a s t : State} (h : Keeps a s) (e1 : t.pending = s.pending) (e2 : t.mem = s.mem) (e3 : t.parts = s.parts) (e4 : t.hearths = s.hearths)
    (e5 : t.tempers = s.tempers) (e6 : t.tongs = s.tongs) (e7 : t.units = s.units) (e8 : t.streams = s.streams) (e9 : t.cipher = s.cipher) (e10 : t.net = s.net)
    (e11 : t.hub = s.hub) (e12 : t.partCfg = s.partCfg) (e13 : t.sec.life = s.sec.life) (e14 : t.sec.arb = s.sec.arb) : Keeps a t :=
  h.step e1 (fun x => e2 ▸ x) (by rw [e3]) (fun x => e3 ▸ x) (by simp [State.sizes, *]) e13 e14

/-! ## The named updates -/

variable {a s : State}

theorem State.modPart_keeps (h : Keeps a s) {p : Nat} {f : Part → Part} (hf : ∀ q : Part, q.run.ok → (f q).run.ok) : Keeps a (s.modPart p f) :=
  h.step rfl id (by simp [State.modPart]) (fun x => forall_updAt hf x) rfl rfl rfl

theorem State.modRun_keeps (h : Keeps a s) {p : Nat} {f : Run → Run} (hf : ∀ r : Run, r.ok → (f r).ok) : Keeps a (s.modRun p f) :=
  State.modPart_keeps h fun q hq => hf q.run hq

theorem State.modArena_keeps (h : Keeps a s) {p : Nat} {f : Arena → Arena} : Keeps a (s.modArena p f) := State.modPart_keeps h fun _ x => x
theorem State.modPyro_keeps (h : Keeps a s) {p : Nat} {f : Pyro → Pyro} : Keeps a (s.modPyro p f) := State.modPart_keeps h fun _ x => x
theorem State.modColl_keeps (h : Keeps a s) {p : Nat} {f : Coll → Coll} : Keeps a (s.modColl p f) := State.modPart_keeps h fun _ x => x
theorem State.modFab_keeps (h : Keeps a s) {p : Nat} {f : Fabric → Fabric} : Keeps a (s.modFab p f) := State.modPart_keeps h fun _ x => x
theorem State.modOuter_keeps (h : Keeps a s) {p : Nat} {f : Outer → Outer} : Keeps a (s.modOuter p f) := State.modPart_keeps h fun _ x => x
theorem State.modDuty_keeps (h : Keeps a s) {p : Nat} {f : Duty → Duty} : Keeps a (s.modDuty p f) := State.modPart_keeps h fun _ x => x

theorem State.modHearth_keeps (h : Keeps a s) {k : Nat} {f : Hearth → Hearth} : Keeps a (s.modHearth k f) :=
  h.step rfl id rfl id (by simp [State.modHearth, State.sizes]) rfl rfl
theorem State.modTemper_keeps (h : Keeps a s) {k : Nat} {f : Temper → Temper} : Keeps a (s.modTemper k f) :=
  h.step rfl id rfl id (by simp [State.modTemper, State.sizes]) rfl rfl
theorem State.modUnit_keeps (h : Keeps a s) {k : Nat} {f : UUnit → UUnit} : Keeps a (s.modUnit k f) :=
  h.step rfl id rfl id (by simp [State.modUnit, State.sizes]) rfl rfl
theorem State.modTongs_keeps (h : Keeps a s) {k : Nat} {f : List TEnt → List TEnt} : Keeps a (s.modTongs k f) :=
  h.step rfl id rfl id (by simp [State.modTongs, State.sizes]) rfl rfl
theorem State.modStream_keeps (h : Keeps a s) {k : Nat} {f : TStream → TStream} : Keeps a (s.modStream k f) :=
  h.step rfl id rfl id (by simp [State.modStream, State.sizes]) rfl rfl
theorem State.modCipher_keeps (h : Keeps a s) {f : Cipher → Cipher}
    (hf : (f s.cipher).slots.length = s.cipher.slots.length ∧ (f s.cipher).cores.length = s.cipher.cores.length) : Keeps a (s.modCipher f) :=
  h.step rfl id rfl id (by simp [State.modCipher, State.sizes, hf]) rfl rfl
theorem State.modSec_keeps (h : Keeps a s) {f : Sec → Sec} (hf : (f s.sec).life = s.sec.life ∧ (f s.sec).arb = s.sec.arb) : Keeps a (s.modSec f) :=
  h.step rfl id rfl id rfl hf.1 hf.2
theorem State.modHub_keeps (h : Keeps a s) {f : Hub → Hub} (hf : (f s.hub).queue.length = s.hub.queue.length) : Keeps a (s.modHub f) :=
  h.step rfl id rfl id (by simp [State.modHub, State.sizes, hf]) rfl rfl
theorem State.modScrub_keeps (h : Keeps a s) {f : Scrub → Scrub} : Keeps a (s.modScrub f) := h.step rfl id rfl id rfl rfl rfl
theorem State.modNet_keeps (h : Keeps a s) {f : Net → Net}
    (hf : (f s.net).qps.length = s.net.qps.length ∧ (f s.net).targets.length = s.net.targets.length ∧ (f s.net).ports.length = s.net.ports.length) : Keeps a (s.modNet f) :=
  h.step rfl id rfl id (by simp [State.modNet, State.sizes, hf]) rfl rfl
theorem State.modSide_keeps (h : Keeps a s) {f : Side → Side} : Keeps a (s.modSide f) := h.step rfl id rfl id rfl rfl rfl
theorem State.modPower_keeps (h : Keeps a s) {f : Power → Power} : Keeps a (s.modPower f) := h.step rfl id rfl id rfl rfl rfl
theorem State.emit_keeps (h : Keeps a s) {o : Out} : Keeps a (s.emit o) := h.step rfl id rfl id rfl rfl rfl
theorem State.count_keeps (h : Keeps a s) {c : Ctr} : Keeps a (s.count c) := h.step rfl id rfl id rfl rfl rfl
theorem State.fresh_keeps (h : Keeps a s) : Keeps a s.fresh.2 := h.step rfl id rfl id rfl rfl rfl
theorem State.put4_keeps (h : Keeps a s) {off : Nat} {bs : List Byte} : Keeps a (s.put4 off bs) :=
  h.step rfl (fun x => Memory.wf_writeBytes x _ _) rfl id rfl rfl rfl

theorem State.store_keeps (h : Keeps a s) {la : Nat} {bs : List Byte} {mk : Bool} : Keeps a (s.store la bs mk) := by
  unfold State.store; dsimp only
  split <;> exact h.step rfl (fun x => Memory.wf_writeBytes x _ _) rfl id rfl rfl rfl

/-- A fold over a list keeps what each of its steps keeps. -/
theorem State.each_keeps {α : Type} {f : State → α → State} (hf : ∀ (t : State) (x : α), Keeps a t → Keeps a (f t x)) :
    ∀ {l : List α} {s : State}, Keeps a s → Keeps a (s.each l f)
  | [], _, h => h
  | x :: l, s, h => State.each_keeps hf (l := l) (hf s x h)

theorem foldl_keeps {α : Type} {f : State → α → State} (hf : ∀ (t : State) (x : α), Keeps a t → Keeps a (f t x)) {l : List α} {s : State} (h : Keeps a s) :
    Keeps a (l.foldl f s) := State.each_keeps hf h

theorem foldl_fst_keeps {α β : Type} {f : State × β → α → State × β} (hf : ∀ (p : State × β) (x : α), Keeps a p.1 → Keeps a (f p x).1) :
    ∀ {l : List α} {p : State × β}, Keeps a p.1 → Keeps a (l.foldl f p).1
  | [], _, h => h
  | x :: l, p, h => foldl_fst_keeps hf (l := l) (hf p x h)

/-- A record written field by field. -/
theorem Keeps.mk_all {tick free moduleId idValid partCfg parts hearths tempers tongs units mem marks wmarks observed smithOwns cipher sec hub scrub streams net side power counts out} (h : Keeps a s)
    (e2 : Memory.wf s.mem → Memory.wf mem)
    (e3 : parts.length = s.parts.length) (e4 : (∀ q ∈ s.parts, q.run.ok) → ∀ q ∈ parts, q.run.ok)
    (e5 : hearths.length = s.hearths.length)
    (e6 : tempers.length = s.tempers.length)
    (e7 : tongs.length = s.tongs.length)
    (e8 : units.length = s.units.length)
    (e9 : streams.length = s.streams.length)
    (e10 : partCfg.length = s.partCfg.length)
    (e11 : cipher.slots.length = s.cipher.slots.length) (e12 : cipher.cores.length = s.cipher.cores.length)
    (e13 : net.qps.length = s.net.qps.length) (e14 : net.targets.length = s.net.targets.length) (e15 : net.ports.length = s.net.ports.length)
    (e16 : hub.queue.length = s.hub.queue.length)
    (e17 : sec.life = s.sec.life) (e18 : sec.arb = s.sec.arb) :
    Keeps a (State.mk s.pending tick free moduleId idValid partCfg parts hearths tempers tongs units mem marks wmarks observed smithOwns cipher sec hub scrub streams net side power counts out) :=
  h.step rfl e2 e3 e4 (by simp [State.sizes, *]) e17 e18

/-- A choice, both of whose sides keep. -/
theorem Keeps.ite {c : Prop} [Decidable c] {t u : State} (h : Keeps a t) (k : Keeps a u) : Keeps a (if c then t else u) := by
  by_cases x : c
  · rw [if_pos x]; exact h
  · rw [if_neg x]; exact k
theorem Keeps.ite_fst {α : Type} {c : Prop} [Decidable c] {p q : State × α} (h : Keeps a p.1) (k : Keeps a q.1) : Keeps a (if c then p else q).1 := by
  by_cases x : c
  · rw [if_pos x]; exact h
  · rw [if_neg x]; exact k
theorem Keeps.ite_snd {α : Type} {c : Prop} [Decidable c] {p q : α × State} (h : Keeps a p.2) (k : Keeps a q.2) : Keeps a (if c then p else q).2 := by
  by_cases x : c
  · rw [if_pos x]; exact h
  · rw [if_neg x]; exact k

/-- The first and the second of a pair. -/
theorem Keeps.fst {α : Type} {p : State × α} {t : State} {x : α} (e : p = (t, x)) (h : Keeps a p.1) : Keeps a t := by rw [e] at h; exact h
theorem Keeps.snd {α : Type} {p : α × State} {t : State} {x : α} (e : p = (x, t)) (h : Keeps a p.2) : Keeps a t := by rw [e] at h; exact h

@[simp] theorem length_enum {α : Type} (l : List α) : (enum l).length = l.length := by simp [enum]
@[simp] theorem Cipher.length_slots_modSlot (c : Cipher) (k : Nat) (f : Slot → Slot) : (c.modSlot k f).slots.length = c.slots.length := by simp [Cipher.modSlot]
@[simp] theorem Cipher.length_cores_modSlot (c : Cipher) (k : Nat) (f : Slot → Slot) : (c.modSlot k f).cores.length = c.cores.length := rfl
@[simp] theorem Cipher.length_slots_modCore (c : Cipher) (k : Nat) (f : Core → Core) : (c.modCore k f).slots.length = c.slots.length := rfl
@[simp] theorem Cipher.length_cores_modCore (c : Cipher) (k : Nat) (f : Core → Core) : (c.modCore k f).cores.length = c.cores.length := by simp [Cipher.modCore]

/-- The same of a command's answer. -/
def Reply.keeps (a : State) : Reply → Prop
  | .keep t => Keeps a t
  | .done t _ _ _ => Keeps a t

/-- The weaker form. -/
def Reply.holds (a : State) : Reply → Prop
  | .keep t => Holds a t
  | .done t _ _ _ => Holds a t

theorem Reply.keeps.holds {a : State} : ∀ {r : Reply}, r.keeps a → r.holds a
  | .keep _, h => Keeps.holds h
  | .done _ _ _ _, h => Keeps.holds h

theorem answer_holds {t u : State} {ok : Bool} (e : answer ok t = .next u) {a : State} (h : Holds a t) : Holds a u := by
  unfold answer at e; split at e
  · cases e; exact h
  · cases e

/-- What `answer` answers. -/
theorem answer_keeps {t u : State} {ok : Bool} (e : answer ok t = .next u) (h : Keeps a t) : Keeps a u := by
  unfold answer at e; split at e
  · cases e; exact h
  · cases e

end Sys2Proof.Machine
end

