-- ==== Sys2Proof/Laws/KeepsOps.lean ====
section
/-! SUPPORT. What each operation of Ops, MemErr, CipherUnit, Pyro, HearthUnit, Egress, Fabric, Arena, TemperUnit, Tongs, Flags keeps (Keeps.lean). -/

set_option linter.unusedTactic false
set_option linter.unreachableTactic false
set_option linter.unusedSimpArgs false
set_option linter.unusedVariables false

namespace Sys2Proof.Machine

theorem State.roundCount_keeps {a s : State} (h : Keeps a s) {x1 x2 x3} : Keeps a (State.roundCount s x1 x2 x3) := by
  unfold State.roundCount
  iterate 24 all_goals (try first
    | with_reducible assumption
    | with_reducible apply State.modOuter_keeps
    | (with_reducible apply foldl_keeps)
    | (with_reducible apply foldl_fst_keeps)
    | with_reducible apply Keeps.ite
    | with_reducible apply Keeps.ite_fst
    | with_reducible apply Keeps.ite_snd
    | intro _
    | dsimp only
    | split
    | (refine Keeps.fst (by with_reducible assumption) ?_)
    | (refine Keeps.snd (by with_reducible assumption) ?_)
    | rfl
    | exact ⟨rfl, rfl⟩
    | exact ⟨rfl, rfl, rfl⟩
    | exact Memory.wf_clear (by assumption) _ _
    | exact Memory.wf_filter (by assumption) _
    | exact Memory.wf_writeBytes (by assumption) _ _
    | with_reducible apply Keeps.mk_all
    | assumption
    | simp_all [Run.ok])

theorem State.untagged_keeps {a s : State} (h : Keeps a s) {x1 : Nat} {x2 : State → State} (hF : Keeps a (x2 s)) : Keeps a (State.untagged s x1 x2) := by
  unfold State.untagged
  split
  · exact hF
  · exact State.count_keeps h

theorem State.openPage_keeps {a s : State} (h : Keeps a s) {x1} : Keeps a (State.openPage s x1) := by
  unfold State.openPage
  iterate 24 all_goals (try first
    | with_reducible assumption
    | with_reducible apply State.modHearth_keeps
    | (with_reducible apply foldl_keeps)
    | (with_reducible apply foldl_fst_keeps)
    | with_reducible apply Keeps.ite
    | with_reducible apply Keeps.ite_fst
    | with_reducible apply Keeps.ite_snd
    | intro _
    | dsimp only
    | split
    | (refine Keeps.fst (by with_reducible assumption) ?_)
    | (refine Keeps.snd (by with_reducible assumption) ?_)
    | rfl
    | exact ⟨rfl, rfl⟩
    | exact ⟨rfl, rfl, rfl⟩
    | exact Memory.wf_clear (by assumption) _ _
    | exact Memory.wf_filter (by assumption) _
    | exact Memory.wf_writeBytes (by assumption) _ _
    | with_reducible apply Keeps.mk_all
    | assumption
    | simp_all [Run.ok])

theorem State.save_keeps {a s : State} (h : Keeps a s) {x1 x2 x3} : Keeps a (State.save s x1 x2 x3) := by
  unfold State.save
  iterate 24 all_goals (try first
    | with_reducible assumption
    | with_reducible apply State.store_keeps
    | with_reducible apply State.openPage_keeps
    | (with_reducible apply foldl_keeps)
    | (with_reducible apply foldl_fst_keeps)
    | with_reducible apply Keeps.ite
    | with_reducible apply Keeps.ite_fst
    | with_reducible apply Keeps.ite_snd
    | intro _
    | dsimp only
    | split
    | (refine Keeps.fst (by with_reducible assumption) ?_)
    | (refine Keeps.snd (by with_reducible assumption) ?_)
    | rfl
    | exact ⟨rfl, rfl⟩
    | exact ⟨rfl, rfl, rfl⟩
    | exact Memory.wf_clear (by assumption) _ _
    | exact Memory.wf_filter (by assumption) _
    | exact Memory.wf_writeBytes (by assumption) _ _
    | with_reducible apply Keeps.mk_all
    | assumption
    | simp_all [Run.ok])

theorem State.saveMarked_keeps {a s : State} (h : Keeps a s) {x1 x2 x3} : Keeps a (State.saveMarked s x1 x2 x3) := by
  unfold State.saveMarked
  iterate 24 all_goals (try first
    | with_reducible assumption
    | with_reducible apply State.save_keeps
    | (with_reducible apply State.each_keeps; intro _ _ _)
    | (with_reducible apply foldl_keeps)
    | (with_reducible apply foldl_fst_keeps)
    | with_reducible apply Keeps.ite
    | with_reducible apply Keeps.ite_fst
    | with_reducible apply Keeps.ite_snd
    | intro _
    | dsimp only
    | split
    | (refine Keeps.fst (by with_reducible assumption) ?_)
    | (refine Keeps.snd (by with_reducible assumption) ?_)
    | rfl
    | exact ⟨rfl, rfl⟩
    | exact ⟨rfl, rfl, rfl⟩
    | exact Memory.wf_clear (by assumption) _ _
    | exact Memory.wf_filter (by assumption) _
    | exact Memory.wf_writeBytes (by assumption) _ _
    | with_reducible apply Keeps.mk_all
    | assumption
    | simp_all [Run.ok])

theorem State.trySave_keeps {a s : State} (h : Keeps a s) {x1 x2 x3} : Keeps a (State.trySave s x1 x2 x3) := by
  unfold State.trySave
  iterate 24 all_goals (try first
    | with_reducible assumption
    | with_reducible apply State.saveMarked_keeps
    | (with_reducible apply foldl_keeps)
    | (with_reducible apply foldl_fst_keeps)
    | with_reducible apply Keeps.ite
    | with_reducible apply Keeps.ite_fst
    | with_reducible apply Keeps.ite_snd
    | intro _
    | dsimp only
    | split
    | (refine Keeps.fst (by with_reducible assumption) ?_)
    | (refine Keeps.snd (by with_reducible assumption) ?_)
    | rfl
    | exact ⟨rfl, rfl⟩
    | exact ⟨rfl, rfl, rfl⟩
    | exact Memory.wf_clear (by assumption) _ _
    | exact Memory.wf_filter (by assumption) _
    | exact Memory.wf_writeBytes (by assumption) _ _
    | with_reducible apply Keeps.mk_all
    | assumption
    | simp_all [Run.ok])

theorem State.addRbw_keeps {a s : State} (h : Keeps a s) {x1 x2} : Keeps a (State.addRbw s x1 x2) := by
  unfold State.addRbw
  iterate 24 all_goals (try first
    | with_reducible assumption
    | with_reducible apply State.modRun_keeps
    | (with_reducible apply foldl_keeps)
    | (with_reducible apply foldl_fst_keeps)
    | with_reducible apply Keeps.ite
    | with_reducible apply Keeps.ite_fst
    | with_reducible apply Keeps.ite_snd
    | intro _
    | dsimp only
    | split
    | (refine Keeps.fst (by with_reducible assumption) ?_)
    | (refine Keeps.snd (by with_reducible assumption) ?_)
    | rfl
    | exact ⟨rfl, rfl⟩
    | exact ⟨rfl, rfl, rfl⟩
    | exact Memory.wf_clear (by assumption) _ _
    | exact Memory.wf_filter (by assumption) _
    | exact Memory.wf_writeBytes (by assumption) _ _
    | with_reducible apply Keeps.mk_all
    | assumption
    | simp_all [Run.ok])

theorem State.raise_keeps {a s : State} (h : Keeps a s) {x1} : Keeps a (State.raise s x1) := by
  unfold State.raise
  iterate 24 all_goals (try first
    | with_reducible assumption
    | with_reducible apply State.modHub_keeps
    | (with_reducible apply foldl_keeps)
    | (with_reducible apply foldl_fst_keeps)
    | with_reducible apply Keeps.ite
    | with_reducible apply Keeps.ite_fst
    | with_reducible apply Keeps.ite_snd
    | intro _
    | dsimp only
    | split
    | (refine Keeps.fst (by with_reducible assumption) ?_)
    | (refine Keeps.snd (by with_reducible assumption) ?_)
    | rfl
    | exact ⟨rfl, rfl⟩
    | exact ⟨rfl, rfl, rfl⟩
    | exact Memory.wf_clear (by assumption) _ _
    | exact Memory.wf_filter (by assumption) _
    | exact Memory.wf_writeBytes (by assumption) _ _
    | with_reducible apply Keeps.mk_all
    | assumption
    | simp_all [Run.ok])

theorem State.raiseMem_keeps {a s : State} (h : Keeps a s) {x1} : Keeps a (State.raiseMem s x1) := by
  unfold State.raiseMem
  iterate 24 all_goals (try first
    | with_reducible assumption
    | with_reducible apply State.raise_keeps
    | (with_reducible apply foldl_keeps)
    | (with_reducible apply foldl_fst_keeps)
    | with_reducible apply Keeps.ite
    | with_reducible apply Keeps.ite_fst
    | with_reducible apply Keeps.ite_snd
    | intro _
    | dsimp only
    | split
    | (refine Keeps.fst (by with_reducible assumption) ?_)
    | (refine Keeps.snd (by with_reducible assumption) ?_)
    | rfl
    | exact ⟨rfl, rfl⟩
    | exact ⟨rfl, rfl, rfl⟩
    | exact Memory.wf_clear (by assumption) _ _
    | exact Memory.wf_filter (by assumption) _
    | exact Memory.wf_writeBytes (by assumption) _ _
    | with_reducible apply Keeps.mk_all
    | assumption
    | simp_all [Run.ok])

theorem State.malformed_keeps {a s : State} (h : Keeps a s) {x1 x2} : Keeps a (State.malformed s x1 x2) := by
  unfold State.malformed
  iterate 24 all_goals (try first
    | with_reducible assumption
    | with_reducible apply State.raise_keeps
    | (with_reducible apply foldl_keeps)
    | (with_reducible apply foldl_fst_keeps)
    | with_reducible apply Keeps.ite
    | with_reducible apply Keeps.ite_fst
    | with_reducible apply Keeps.ite_snd
    | intro _
    | dsimp only
    | split
    | (refine Keeps.fst (by with_reducible assumption) ?_)
    | (refine Keeps.snd (by with_reducible assumption) ?_)
    | rfl
    | exact ⟨rfl, rfl⟩
    | exact ⟨rfl, rfl, rfl⟩
    | exact Memory.wf_clear (by assumption) _ _
    | exact Memory.wf_filter (by assumption) _
    | exact Memory.wf_writeBytes (by assumption) _ _
    | with_reducible apply Keeps.mk_all
    | assumption
    | simp_all [Run.ok])

theorem State.addrErr_keeps {a s : State} (h : Keeps a s) {x1 x2} : Keeps a (State.addrErr s x1 x2) := by
  unfold State.addrErr
  iterate 24 all_goals (try first
    | with_reducible assumption
    | with_reducible apply State.raise_keeps
    | (with_reducible apply foldl_keeps)
    | (with_reducible apply foldl_fst_keeps)
    | with_reducible apply Keeps.ite
    | with_reducible apply Keeps.ite_fst
    | with_reducible apply Keeps.ite_snd
    | intro _
    | dsimp only
    | split
    | (refine Keeps.fst (by with_reducible assumption) ?_)
    | (refine Keeps.snd (by with_reducible assumption) ?_)
    | rfl
    | exact ⟨rfl, rfl⟩
    | exact ⟨rfl, rfl, rfl⟩
    | exact Memory.wf_clear (by assumption) _ _
    | exact Memory.wf_filter (by assumption) _
    | exact Memory.wf_writeBytes (by assumption) _ _
    | with_reducible apply Keeps.mk_all
    | assumption
    | simp_all [Run.ok])

theorem State.slagBite_keeps {a s : State} (h : Keeps a s) {x1 x2} : Keeps a (State.slagBite s x1 x2) := by
  unfold State.slagBite
  iterate 24 all_goals (try first
    | with_reducible assumption
    | with_reducible apply State.raise_keeps
    | (with_reducible apply foldl_keeps)
    | (with_reducible apply foldl_fst_keeps)
    | with_reducible apply Keeps.ite
    | with_reducible apply Keeps.ite_fst
    | with_reducible apply Keeps.ite_snd
    | intro _
    | dsimp only
    | split
    | (refine Keeps.fst (by with_reducible assumption) ?_)
    | (refine Keeps.snd (by with_reducible assumption) ?_)
    | rfl
    | exact ⟨rfl, rfl⟩
    | exact ⟨rfl, rfl, rfl⟩
    | exact Memory.wf_clear (by assumption) _ _
    | exact Memory.wf_filter (by assumption) _
    | exact Memory.wf_writeBytes (by assumption) _ _
    | with_reducible apply Keeps.mk_all
    | assumption
    | simp_all [Run.ok])

theorem State.record_keeps {a s : State} (h : Keeps a s) {x1 x2 x3 x4 x5 x6} : Keeps a (State.record s x1 x2 x3 x4 x5 x6) := by
  unfold State.record
  iterate 24 all_goals (try first
    | with_reducible assumption
    | with_reducible apply State.modStream_keeps
    | with_reducible apply State.count_keeps
    | (with_reducible apply foldl_keeps)
    | (with_reducible apply foldl_fst_keeps)
    | with_reducible apply Keeps.ite
    | with_reducible apply Keeps.ite_fst
    | with_reducible apply Keeps.ite_snd
    | intro _
    | dsimp only
    | split
    | (refine Keeps.fst (by with_reducible assumption) ?_)
    | (refine Keeps.snd (by with_reducible assumption) ?_)
    | rfl
    | exact ⟨rfl, rfl⟩
    | exact ⟨rfl, rfl, rfl⟩
    | exact Memory.wf_clear (by assumption) _ _
    | exact Memory.wf_filter (by assumption) _
    | exact Memory.wf_writeBytes (by assumption) _ _
    | with_reducible apply Keeps.mk_all
    | assumption
    | simp_all [Run.ok])

theorem State.recordPart_keeps {a s : State} (h : Keeps a s) {x1 x2 x3 x4} : Keeps a (State.recordPart s x1 x2 x3 x4) := by
  unfold State.recordPart
  iterate 24 all_goals (try first
    | with_reducible assumption
    | with_reducible apply State.record_keeps
    | (with_reducible apply foldl_keeps)
    | (with_reducible apply foldl_fst_keeps)
    | with_reducible apply Keeps.ite
    | with_reducible apply Keeps.ite_fst
    | with_reducible apply Keeps.ite_snd
    | intro _
    | dsimp only
    | split
    | (refine Keeps.fst (by with_reducible assumption) ?_)
    | (refine Keeps.snd (by with_reducible assumption) ?_)
    | rfl
    | exact ⟨rfl, rfl⟩
    | exact ⟨rfl, rfl, rfl⟩
    | exact Memory.wf_clear (by assumption) _ _
    | exact Memory.wf_filter (by assumption) _
    | exact Memory.wf_writeBytes (by assumption) _ _
    | with_reducible apply Keeps.mk_all
    | assumption
    | simp_all [Run.ok])

theorem State.notice_keeps {a s : State} (h : Keeps a s) {x1 x2 x3} : Keeps a (State.notice s x1 x2 x3) := by
  unfold State.notice
  iterate 24 all_goals (try first
    | with_reducible assumption
    | with_reducible apply State.recordPart_keeps
    | (with_reducible apply foldl_keeps)
    | (with_reducible apply foldl_fst_keeps)
    | with_reducible apply Keeps.ite
    | with_reducible apply Keeps.ite_fst
    | with_reducible apply Keeps.ite_snd
    | intro _
    | dsimp only
    | split
    | (refine Keeps.fst (by with_reducible assumption) ?_)
    | (refine Keeps.snd (by with_reducible assumption) ?_)
    | rfl
    | exact ⟨rfl, rfl⟩
    | exact ⟨rfl, rfl, rfl⟩
    | exact Memory.wf_clear (by assumption) _ _
    | exact Memory.wf_filter (by assumption) _
    | exact Memory.wf_writeBytes (by assumption) _ _
    | with_reducible apply Keeps.mk_all
    | assumption
    | simp_all [Run.ok])

theorem State.recordDev_keeps {a s : State} (h : Keeps a s) {x1 x2 x3 x4} : Keeps a (State.recordDev s x1 x2 x3 x4) := by
  unfold State.recordDev
  iterate 24 all_goals (try first
    | with_reducible assumption
    | with_reducible apply State.record_keeps
    | (with_reducible apply foldl_keeps)
    | (with_reducible apply foldl_fst_keeps)
    | with_reducible apply Keeps.ite
    | with_reducible apply Keeps.ite_fst
    | with_reducible apply Keeps.ite_snd
    | intro _
    | dsimp only
    | split
    | (refine Keeps.fst (by with_reducible assumption) ?_)
    | (refine Keeps.snd (by with_reducible assumption) ?_)
    | rfl
    | exact ⟨rfl, rfl⟩
    | exact ⟨rfl, rfl, rfl⟩
    | exact Memory.wf_clear (by assumption) _ _
    | exact Memory.wf_filter (by assumption) _
    | exact Memory.wf_writeBytes (by assumption) _ _
    | with_reducible apply Keeps.mk_all
    | assumption
    | simp_all [Run.ok])

theorem State.deferRec_keeps {a s : State} (h : Keeps a s) {x1} : Keeps a (State.deferRec s x1) := by
  unfold State.deferRec
  iterate 24 all_goals (try first
    | with_reducible assumption
    | with_reducible apply State.raise_keeps
    | (with_reducible apply foldl_keeps)
    | (with_reducible apply foldl_fst_keeps)
    | with_reducible apply Keeps.ite
    | with_reducible apply Keeps.ite_fst
    | with_reducible apply Keeps.ite_snd
    | intro _
    | dsimp only
    | split
    | (refine Keeps.fst (by with_reducible assumption) ?_)
    | (refine Keeps.snd (by with_reducible assumption) ?_)
    | rfl
    | exact ⟨rfl, rfl⟩
    | exact ⟨rfl, rfl, rfl⟩
    | exact Memory.wf_clear (by assumption) _ _
    | exact Memory.wf_filter (by assumption) _
    | exact Memory.wf_writeBytes (by assumption) _ _
    | with_reducible apply Keeps.mk_all
    | assumption
    | simp_all [Run.ok])

theorem State.flash_keeps {a s : State} (h : Keeps a s) {x1} : Keeps a (State.flash s x1) := by
  unfold State.flash
  iterate 24 all_goals (try first
    | with_reducible assumption
    | with_reducible apply State.modHub_keeps
    | with_reducible apply State.modScrub_keeps
    | with_reducible apply State.modPower_keeps
    | (with_reducible apply foldl_keeps)
    | (with_reducible apply foldl_fst_keeps)
    | with_reducible apply Keeps.ite
    | with_reducible apply Keeps.ite_fst
    | with_reducible apply Keeps.ite_snd
    | intro _
    | dsimp only
    | split
    | (refine Keeps.fst (by with_reducible assumption) ?_)
    | (refine Keeps.snd (by with_reducible assumption) ?_)
    | rfl
    | exact ⟨rfl, rfl⟩
    | exact ⟨rfl, rfl, rfl⟩
    | exact Memory.wf_clear (by assumption) _ _
    | exact Memory.wf_filter (by assumption) _
    | exact Memory.wf_writeBytes (by assumption) _ _
    | with_reducible apply Keeps.mk_all
    | assumption
    | simp_all [Run.ok])

theorem State.persist_keeps {a s : State} (h : Keeps a s) {x1} : Keeps a (State.persist s x1) := by
  unfold State.persist
  iterate 24 all_goals (try first
    | with_reducible assumption
    | with_reducible apply State.modPower_keeps
    | with_reducible apply State.deferRec_keeps
    | with_reducible apply State.flash_keeps
    | (with_reducible apply foldl_keeps)
    | (with_reducible apply foldl_fst_keeps)
    | with_reducible apply Keeps.ite
    | with_reducible apply Keeps.ite_fst
    | with_reducible apply Keeps.ite_snd
    | intro _
    | dsimp only
    | split
    | (refine Keeps.fst (by with_reducible assumption) ?_)
    | (refine Keeps.snd (by with_reducible assumption) ?_)
    | rfl
    | exact ⟨rfl, rfl⟩
    | exact ⟨rfl, rfl, rfl⟩
    | exact Memory.wf_clear (by assumption) _ _
    | exact Memory.wf_filter (by assumption) _
    | exact Memory.wf_writeBytes (by assumption) _ _
    | with_reducible apply Keeps.mk_all
    | assumption
    | simp_all [Run.ok])

theorem State.retryStores_keeps {a s : State} (h : Keeps a s) : Keeps a (State.retryStores s) := by
  unfold State.retryStores
  iterate 24 all_goals (try first
    | with_reducible assumption
    | with_reducible apply State.persist_keeps
    | (with_reducible apply State.each_keeps; intro _ _ _)
    | (with_reducible apply foldl_keeps)
    | (with_reducible apply foldl_fst_keeps)
    | with_reducible apply Keeps.ite
    | with_reducible apply Keeps.ite_fst
    | with_reducible apply Keeps.ite_snd
    | intro _
    | dsimp only
    | split
    | (refine Keeps.fst (by with_reducible assumption) ?_)
    | (refine Keeps.snd (by with_reducible assumption) ?_)
    | rfl
    | exact ⟨rfl, rfl⟩
    | exact ⟨rfl, rfl, rfl⟩
    | exact Memory.wf_clear (by assumption) _ _
    | exact Memory.wf_filter (by assumption) _
    | exact Memory.wf_writeBytes (by assumption) _ _
    | with_reducible apply Keeps.mk_all
    | assumption
    | simp_all [Run.ok])

theorem State.remap_keeps {a s : State} (h : Keeps a s) {x1 x2} : Keeps a (State.remap s x1 x2) := by
  unfold State.remap
  iterate 24 all_goals (try first
    | with_reducible assumption
    | with_reducible apply State.modScrub_keeps
    | with_reducible apply State.raise_keeps
    | (with_reducible apply foldl_keeps)
    | (with_reducible apply foldl_fst_keeps)
    | with_reducible apply Keeps.ite
    | with_reducible apply Keeps.ite_fst
    | with_reducible apply Keeps.ite_snd
    | intro _
    | dsimp only
    | split
    | (refine Keeps.fst (by with_reducible assumption) ?_)
    | (refine Keeps.snd (by with_reducible assumption) ?_)
    | rfl
    | exact ⟨rfl, rfl⟩
    | exact ⟨rfl, rfl, rfl⟩
    | exact Memory.wf_clear (by assumption) _ _
    | exact Memory.wf_filter (by assumption) _
    | exact Memory.wf_writeBytes (by assumption) _ _
    | with_reducible apply Keeps.mk_all
    | assumption
    | simp_all [Run.ok])

theorem State.logRow_keeps {a s : State} (h : Keeps a s) {x1} : Keeps a (State.logRow s x1) := by
  unfold State.logRow
  iterate 24 all_goals (try first
    | with_reducible assumption
    | with_reducible apply State.modScrub_keeps
    | with_reducible apply State.persist_keeps
    | (with_reducible apply foldl_keeps)
    | (with_reducible apply foldl_fst_keeps)
    | with_reducible apply Keeps.ite
    | with_reducible apply Keeps.ite_fst
    | with_reducible apply Keeps.ite_snd
    | intro _
    | dsimp only
    | split
    | (refine Keeps.fst (by with_reducible assumption) ?_)
    | (refine Keeps.snd (by with_reducible assumption) ?_)
    | rfl
    | exact ⟨rfl, rfl⟩
    | exact ⟨rfl, rfl, rfl⟩
    | exact Memory.wf_clear (by assumption) _ _
    | exact Memory.wf_filter (by assumption) _
    | exact Memory.wf_writeBytes (by assumption) _ _
    | with_reducible apply Keeps.mk_all
    | assumption
    | simp_all [Run.ok])

theorem State.repair_keeps {a s : State} (h : Keeps a s) {x1} : Keeps a (State.repair s x1) := by
  unfold State.repair
  iterate 24 all_goals (try first
    | with_reducible assumption
    | with_reducible apply State.remap_keeps
    | with_reducible apply State.logRow_keeps
    | (with_reducible apply foldl_keeps)
    | (with_reducible apply foldl_fst_keeps)
    | with_reducible apply Keeps.ite
    | with_reducible apply Keeps.ite_fst
    | with_reducible apply Keeps.ite_snd
    | intro _
    | dsimp only
    | split
    | (refine Keeps.fst (by with_reducible assumption) ?_)
    | (refine Keeps.snd (by with_reducible assumption) ?_)
    | rfl
    | exact ⟨rfl, rfl⟩
    | exact ⟨rfl, rfl, rfl⟩
    | exact Memory.wf_clear (by assumption) _ _
    | exact Memory.wf_filter (by assumption) _
    | exact Memory.wf_writeBytes (by assumption) _ _
    | with_reducible apply Keeps.mk_all
    | assumption
    | simp_all [Run.ok])

theorem State.memCorrected_keeps {a s : State} (h : Keeps a s) {x1 x2} : Keeps a (State.memCorrected s x1 x2) := by
  unfold State.memCorrected
  iterate 24 all_goals (try first
    | with_reducible assumption
    | with_reducible apply State.modScrub_keeps
    | with_reducible apply State.raiseMem_keeps
    | with_reducible apply State.repair_keeps
    | (with_reducible apply foldl_keeps)
    | (with_reducible apply foldl_fst_keeps)
    | with_reducible apply Keeps.ite
    | with_reducible apply Keeps.ite_fst
    | with_reducible apply Keeps.ite_snd
    | intro _
    | dsimp only
    | split
    | (refine Keeps.fst (by with_reducible assumption) ?_)
    | (refine Keeps.snd (by with_reducible assumption) ?_)
    | rfl
    | exact ⟨rfl, rfl⟩
    | exact ⟨rfl, rfl, rfl⟩
    | exact Memory.wf_clear (by assumption) _ _
    | exact Memory.wf_filter (by assumption) _
    | exact Memory.wf_writeBytes (by assumption) _ _
    | with_reducible apply Keeps.mk_all
    | assumption
    | simp_all [Run.ok])

theorem State.memUncorrectable_keeps {a s : State} (h : Keeps a s) {x1 x2} : Keeps a (State.memUncorrectable s x1 x2) := by
  unfold State.memUncorrectable
  iterate 24 all_goals (try first
    | with_reducible assumption
    | with_reducible apply State.raiseMem_keeps
    | with_reducible apply State.repair_keeps
    | (with_reducible apply foldl_keeps)
    | (with_reducible apply foldl_fst_keeps)
    | with_reducible apply Keeps.ite
    | with_reducible apply Keeps.ite_fst
    | with_reducible apply Keeps.ite_snd
    | intro _
    | dsimp only
    | split
    | (refine Keeps.fst (by with_reducible assumption) ?_)
    | (refine Keeps.snd (by with_reducible assumption) ?_)
    | rfl
    | exact ⟨rfl, rfl⟩
    | exact ⟨rfl, rfl, rfl⟩
    | exact Memory.wf_clear (by assumption) _ _
    | exact Memory.wf_filter (by assumption) _
    | exact Memory.wf_writeBytes (by assumption) _ _
    | with_reducible apply Keeps.mk_all
    | assumption
    | simp_all [Run.ok])

theorem State.sramRead_keeps {a s : State} (h : Keeps a s) {x1 x2} : Keeps a (State.sramRead s x1 x2) := by
  unfold State.sramRead
  iterate 24 all_goals (try first
    | with_reducible assumption
    | with_reducible apply State.raiseMem_keeps
    | (with_reducible apply foldl_keeps)
    | (with_reducible apply foldl_fst_keeps)
    | with_reducible apply Keeps.ite
    | with_reducible apply Keeps.ite_fst
    | with_reducible apply Keeps.ite_snd
    | intro _
    | dsimp only
    | split
    | (refine Keeps.fst (by with_reducible assumption) ?_)
    | (refine Keeps.snd (by with_reducible assumption) ?_)
    | rfl
    | exact ⟨rfl, rfl⟩
    | exact ⟨rfl, rfl, rfl⟩
    | exact Memory.wf_clear (by assumption) _ _
    | exact Memory.wf_filter (by assumption) _
    | exact Memory.wf_writeBytes (by assumption) _ _
    | with_reducible apply Keeps.mk_all
    | assumption
    | simp_all [Run.ok])

theorem State.markedPiece_keeps {a s : State} (h : Keeps a s) {x1 x2 x3 x4} : Keeps a (State.markedPiece s x1 x2 x3 x4) := by
  unfold State.markedPiece
  iterate 24 all_goals (try first
    | with_reducible assumption
    | with_reducible apply State.raise_keeps
    | (with_reducible apply foldl_keeps)
    | (with_reducible apply foldl_fst_keeps)
    | with_reducible apply Keeps.ite
    | with_reducible apply Keeps.ite_fst
    | with_reducible apply Keeps.ite_snd
    | intro _
    | dsimp only
    | split
    | (refine Keeps.fst (by with_reducible assumption) ?_)
    | (refine Keeps.snd (by with_reducible assumption) ?_)
    | rfl
    | exact ⟨rfl, rfl⟩
    | exact ⟨rfl, rfl, rfl⟩
    | exact Memory.wf_clear (by assumption) _ _
    | exact Memory.wf_filter (by assumption) _
    | exact Memory.wf_writeBytes (by assumption) _ _
    | with_reducible apply Keeps.mk_all
    | assumption
    | simp_all [Run.ok])

theorem State.readEcc_keeps {a s : State} (h : Keeps a s) {x1 x2} : Keeps a (State.readEcc s x1 x2) := by
  unfold State.readEcc
  iterate 24 all_goals (try first
    | with_reducible assumption
    | with_reducible apply State.memCorrected_keeps
    | with_reducible apply State.memUncorrectable_keeps
    | with_reducible apply State.sramRead_keeps
    | (with_reducible apply foldl_keeps)
    | (with_reducible apply foldl_fst_keeps)
    | with_reducible apply Keeps.ite
    | with_reducible apply Keeps.ite_fst
    | with_reducible apply Keeps.ite_snd
    | intro _
    | dsimp only
    | split
    | (refine Keeps.fst (by with_reducible assumption) ?_)
    | (refine Keeps.snd (by with_reducible assumption) ?_)
    | rfl
    | exact ⟨rfl, rfl⟩
    | exact ⟨rfl, rfl, rfl⟩
    | exact Memory.wf_clear (by assumption) _ _
    | exact Memory.wf_filter (by assumption) _
    | exact Memory.wf_writeBytes (by assumption) _ _
    | with_reducible apply Keeps.mk_all
    | assumption
    | simp_all [Run.ok])

theorem State.meet_keeps {a s : State} (h : Keeps a s) {x1 x2} : Keeps a (State.meet s x1 x2) := by
  unfold State.meet
  iterate 24 all_goals (try first
    | with_reducible assumption
    | with_reducible apply State.readEcc_keeps
    | (with_reducible apply State.each_keeps; intro _ _ _)
    | (with_reducible apply foldl_keeps)
    | (with_reducible apply foldl_fst_keeps)
    | with_reducible apply Keeps.ite
    | with_reducible apply Keeps.ite_fst
    | with_reducible apply Keeps.ite_snd
    | intro _
    | dsimp only
    | split
    | (refine Keeps.fst (by with_reducible assumption) ?_)
    | (refine Keeps.snd (by with_reducible assumption) ?_)
    | rfl
    | exact ⟨rfl, rfl⟩
    | exact ⟨rfl, rfl, rfl⟩
    | exact Memory.wf_clear (by assumption) _ _
    | exact Memory.wf_filter (by assumption) _
    | exact Memory.wf_writeBytes (by assumption) _ _
    | with_reducible apply Keeps.mk_all
    | assumption
    | simp_all [Run.ok])

theorem State.finish_keeps {a s : State} (h : Keeps a s) {x1 x2} : Keeps a (State.finish s x1 x2) := by
  unfold State.finish
  iterate 24 all_goals (try first
    | with_reducible assumption
    | with_reducible apply State.modCipher_keeps
    | (with_reducible apply foldl_keeps)
    | (with_reducible apply foldl_fst_keeps)
    | with_reducible apply Keeps.ite
    | with_reducible apply Keeps.ite_fst
    | with_reducible apply Keeps.ite_snd
    | intro _
    | dsimp only
    | split
    | (refine Keeps.fst (by with_reducible assumption) ?_)
    | (refine Keeps.snd (by with_reducible assumption) ?_)
    | rfl
    | exact ⟨rfl, rfl⟩
    | exact ⟨rfl, rfl, rfl⟩
    | exact Memory.wf_clear (by assumption) _ _
    | exact Memory.wf_filter (by assumption) _
    | exact Memory.wf_writeBytes (by assumption) _ _
    | with_reducible apply Keeps.mk_all
    | assumption
    | simp_all [Run.ok])

theorem Cipher.length_letIn (n now : Nat) (c : Cipher) :
    (c.letIn n now).slots.length = c.slots.length ∧ (c.letIn n now).cores.length = c.cores.length := by
  have hf : ∀ (l : List CReq) (c : Cipher),
      (l.foldl (fun c x => if c.room n (cqPart x.raw) (cqReq x.raw) then c.enter now x else { c with waiting := c.waiting ++ [x] }) c).slots.length = c.slots.length ∧
      (l.foldl (fun c x => if c.room n (cqPart x.raw) (cqReq x.raw) then c.enter now x else { c with waiting := c.waiting ++ [x] }) c).cores.length = c.cores.length := by
    intro l; induction l with
    | nil => intro c; exact ⟨rfl, rfl⟩
    | cons x l ih =>
      intro c
      refine ⟨(ih _).1.trans ?_, (ih _).2.trans ?_⟩ <;> (dsimp only; split <;> rfl)
  exact hf _ _

theorem State.letIn_keeps {a s : State} (h : Keeps a s) : Keeps a (State.letIn s) := by
  unfold State.letIn
  exact State.modCipher_keeps h (Cipher.length_letIn _ _ _)

theorem doSubmit_keeps {a s : State} (h : Keeps a s) {x1 x2} : Keeps a (doSubmit x1 x2 s) := by
  unfold doSubmit
  iterate 24 all_goals (try first
    | with_reducible assumption
    | with_reducible apply State.modCipher_keeps
    | with_reducible apply State.finish_keeps
    | (with_reducible apply foldl_keeps)
    | (with_reducible apply foldl_fst_keeps)
    | with_reducible apply Keeps.ite
    | with_reducible apply Keeps.ite_fst
    | with_reducible apply Keeps.ite_snd
    | intro _
    | dsimp only
    | split
    | (refine Keeps.fst (by with_reducible assumption) ?_)
    | (refine Keeps.snd (by with_reducible assumption) ?_)
    | rfl
    | exact ⟨rfl, rfl⟩
    | exact ⟨rfl, rfl, rfl⟩
    | exact Memory.wf_clear (by assumption) _ _
    | exact Memory.wf_filter (by assumption) _
    | exact Memory.wf_writeBytes (by assumption) _ _
    | with_reducible apply Keeps.mk_all
    | assumption
    | simp_all [Run.ok])

theorem execGcmSeal_keeps {s t : State} {x1} (e : execGcmSeal x1 s = .next t) : Keeps s t := by
  refine answer_keeps e ?_
  have h := Keeps.refl s
  iterate 24 all_goals (try first
    | with_reducible assumption
    | with_reducible apply doSubmit_keeps
    | (with_reducible apply foldl_keeps)
    | (with_reducible apply foldl_fst_keeps)
    | with_reducible apply Keeps.ite
    | with_reducible apply Keeps.ite_fst
    | with_reducible apply Keeps.ite_snd
    | intro _
    | dsimp only
    | split
    | (refine Keeps.fst (by with_reducible assumption) ?_)
    | (refine Keeps.snd (by with_reducible assumption) ?_)
    | rfl
    | exact ⟨rfl, rfl⟩
    | exact ⟨rfl, rfl, rfl⟩
    | exact Memory.wf_clear (by assumption) _ _
    | exact Memory.wf_filter (by assumption) _
    | exact Memory.wf_writeBytes (by assumption) _ _
    | with_reducible apply Keeps.mk_all
    | assumption
    | simp_all [Run.ok])

theorem execGcmOpen_keeps {s t : State} {x1} (e : execGcmOpen x1 s = .next t) : Keeps s t := by
  refine answer_keeps e ?_
  have h := Keeps.refl s
  iterate 24 all_goals (try first
    | with_reducible assumption
    | with_reducible apply doSubmit_keeps
    | (with_reducible apply foldl_keeps)
    | (with_reducible apply foldl_fst_keeps)
    | with_reducible apply Keeps.ite
    | with_reducible apply Keeps.ite_fst
    | with_reducible apply Keeps.ite_snd
    | intro _
    | dsimp only
    | split
    | (refine Keeps.fst (by with_reducible assumption) ?_)
    | (refine Keeps.snd (by with_reducible assumption) ?_)
    | rfl
    | exact ⟨rfl, rfl⟩
    | exact ⟨rfl, rfl, rfl⟩
    | exact Memory.wf_clear (by assumption) _ _
    | exact Memory.wf_filter (by assumption) _
    | exact Memory.wf_writeBytes (by assumption) _ _
    | with_reducible apply Keeps.mk_all
    | assumption
    | simp_all [Run.ok])

theorem execXtsEncrypt_keeps {s t : State} {x1} (e : execXtsEncrypt x1 s = .next t) : Keeps s t := by
  refine answer_keeps e ?_
  have h := Keeps.refl s
  iterate 24 all_goals (try first
    | with_reducible assumption
    | with_reducible apply doSubmit_keeps
    | (with_reducible apply foldl_keeps)
    | (with_reducible apply foldl_fst_keeps)
    | with_reducible apply Keeps.ite
    | with_reducible apply Keeps.ite_fst
    | with_reducible apply Keeps.ite_snd
    | intro _
    | dsimp only
    | split
    | (refine Keeps.fst (by with_reducible assumption) ?_)
    | (refine Keeps.snd (by with_reducible assumption) ?_)
    | rfl
    | exact ⟨rfl, rfl⟩
    | exact ⟨rfl, rfl, rfl⟩
    | exact Memory.wf_clear (by assumption) _ _
    | exact Memory.wf_filter (by assumption) _
    | exact Memory.wf_writeBytes (by assumption) _ _
    | with_reducible apply Keeps.mk_all
    | assumption
    | simp_all [Run.ok])

theorem execXtsDecrypt_keeps {s t : State} {x1} (e : execXtsDecrypt x1 s = .next t) : Keeps s t := by
  refine answer_keeps e ?_
  have h := Keeps.refl s
  iterate 24 all_goals (try first
    | with_reducible assumption
    | with_reducible apply doSubmit_keeps
    | (with_reducible apply foldl_keeps)
    | (with_reducible apply foldl_fst_keeps)
    | with_reducible apply Keeps.ite
    | with_reducible apply Keeps.ite_fst
    | with_reducible apply Keeps.ite_snd
    | intro _
    | dsimp only
    | split
    | (refine Keeps.fst (by with_reducible assumption) ?_)
    | (refine Keeps.snd (by with_reducible assumption) ?_)
    | rfl
    | exact ⟨rfl, rfl⟩
    | exact ⟨rfl, rfl, rfl⟩
    | exact Memory.wf_clear (by assumption) _ _
    | exact Memory.wf_filter (by assumption) _
    | exact Memory.wf_writeBytes (by assumption) _ _
    | with_reducible apply Keeps.mk_all
    | assumption
    | simp_all [Run.ok])

theorem Cipher.length_bind {c c' : Cipher} {x y : CReq} (e : c.bind x = .inr (c', y)) :
    c'.slots.length = c.slots.length ∧ c'.cores.length = c.cores.length := by
  unfold Cipher.bind at e
  repeat' split at e
  all_goals (try cases e)
  · exact ⟨rfl, rfl⟩
  · dsimp only at e
    repeat' split at e
    all_goals first | (cases e; done) | (cases e; simp)

theorem State.startOn_keeps {a s : State} (h : Keeps a s) {x1 x2 x3} : Keeps a (State.startOn s x1 x2 x3) := by
  unfold State.startOn
  dsimp only
  split
  · exact State.modCipher_keeps h (by simp)
  · split
    · exact State.letIn_keeps (State.finish_keeps (State.modCipher_keeps h ⟨rfl, rfl⟩))
    · rename_i e
      exact State.modCipher_keeps h (by simpa [Cipher.unqueue] using Cipher.length_bind e)

theorem doCipherRequestStart_keeps {a s : State} (h : Keeps a s) {x1} : Keeps a (doCipherRequestStart x1 s) := by
  unfold doCipherRequestStart
  iterate 24 all_goals (try first
    | with_reducible assumption
    | with_reducible apply State.modCipher_keeps
    | with_reducible apply State.finish_keeps
    | with_reducible apply State.letIn_keeps
    | with_reducible apply State.startOn_keeps
    | (with_reducible apply foldl_keeps)
    | (with_reducible apply foldl_fst_keeps)
    | with_reducible apply Keeps.ite
    | with_reducible apply Keeps.ite_fst
    | with_reducible apply Keeps.ite_snd
    | intro _
    | dsimp only
    | split
    | (refine Keeps.fst (by with_reducible assumption) ?_)
    | (refine Keeps.snd (by with_reducible assumption) ?_)
    | rfl
    | exact ⟨rfl, rfl⟩
    | exact ⟨rfl, rfl, rfl⟩
    | exact Memory.wf_clear (by assumption) _ _
    | exact Memory.wf_filter (by assumption) _
    | exact Memory.wf_writeBytes (by assumption) _ _
    | with_reducible apply Keeps.mk_all
    | assumption
    | simp_all [Run.ok])

theorem execCipherRequestStart_keeps {s t : State} {x1} (e : execCipherRequestStart x1 s = .next t) : Keeps s t := by
  refine answer_keeps e ?_
  have h := Keeps.refl s
  iterate 24 all_goals (try first
    | with_reducible assumption
    | with_reducible apply doCipherRequestStart_keeps
    | (with_reducible apply foldl_keeps)
    | (with_reducible apply foldl_fst_keeps)
    | with_reducible apply Keeps.ite
    | with_reducible apply Keeps.ite_fst
    | with_reducible apply Keeps.ite_snd
    | intro _
    | dsimp only
    | split
    | (refine Keeps.fst (by with_reducible assumption) ?_)
    | (refine Keeps.snd (by with_reducible assumption) ?_)
    | rfl
    | exact ⟨rfl, rfl⟩
    | exact ⟨rfl, rfl, rfl⟩
    | exact Memory.wf_clear (by assumption) _ _
    | exact Memory.wf_filter (by assumption) _
    | exact Memory.wf_writeBytes (by assumption) _ _
    | with_reducible apply Keeps.mk_all
    | assumption
    | simp_all [Run.ok])

theorem doCipherPromote_keeps {a s : State} (h : Keeps a s) {x1} : Keeps a (doCipherPromote x1 s) := by
  unfold doCipherPromote
  iterate 24 all_goals (try first
    | with_reducible assumption
    | with_reducible apply State.modCipher_keeps
    | (with_reducible apply foldl_keeps)
    | (with_reducible apply foldl_fst_keeps)
    | with_reducible apply Keeps.ite
    | with_reducible apply Keeps.ite_fst
    | with_reducible apply Keeps.ite_snd
    | intro _
    | dsimp only
    | split
    | (refine Keeps.fst (by with_reducible assumption) ?_)
    | (refine Keeps.snd (by with_reducible assumption) ?_)
    | rfl
    | exact ⟨rfl, rfl⟩
    | exact ⟨rfl, rfl, rfl⟩
    | exact Memory.wf_clear (by assumption) _ _
    | exact Memory.wf_filter (by assumption) _
    | exact Memory.wf_writeBytes (by assumption) _ _
    | with_reducible apply Keeps.mk_all
    | assumption
    | simp_all [Run.ok])

theorem execCipherPromote_keeps {s t : State} {x1} (e : execCipherPromote x1 s = .next t) : Keeps s t := by
  refine answer_keeps e ?_
  have h := Keeps.refl s
  iterate 24 all_goals (try first
    | with_reducible assumption
    | with_reducible apply doCipherPromote_keeps
    | (with_reducible apply foldl_keeps)
    | (with_reducible apply foldl_fst_keeps)
    | with_reducible apply Keeps.ite
    | with_reducible apply Keeps.ite_fst
    | with_reducible apply Keeps.ite_snd
    | intro _
    | dsimp only
    | split
    | (refine Keeps.fst (by with_reducible assumption) ?_)
    | (refine Keeps.snd (by with_reducible assumption) ?_)
    | rfl
    | exact ⟨rfl, rfl⟩
    | exact ⟨rfl, rfl, rfl⟩
    | exact Memory.wf_clear (by assumption) _ _
    | exact Memory.wf_filter (by assumption) _
    | exact Memory.wf_writeBytes (by assumption) _ _
    | with_reducible apply Keeps.mk_all
    | assumption
    | simp_all [Run.ok])

theorem State.cipherWork_keeps {a s : State} (h : Keeps a s) {x1} : Keeps a (State.cipherWork s x1).1 := by
  unfold State.cipherWork
  dsimp only
  by_cases c1 : (s.slot (x1.slot.getD (cqSlot x1.raw))).state = 0 ∨ (s.slot (x1.slot.getD (cqSlot x1.raw))).state = 4
  · rw [if_pos c1]; exact h
  rw [if_neg c1]
  by_cases c2 : cqOp x1.raw = 0
  · rw [if_pos c2]; exact State.save_keeps (State.save_keeps (State.save_keeps h))
  rw [if_neg c2]
  by_cases c3 : cqOp x1.raw = 1
  · rw [if_pos c3]
    generalize gcmOpenBytes _ _ _ _ _ = o
    cases o with
    | none => exact h
    | some m => exact State.save_keeps h
  rw [if_neg c3]
  exact State.save_keeps h

theorem State.authFail_keeps {a s : State} (h : Keeps a s) {x1} : Keeps a (State.authFail s x1) := by
  unfold State.authFail
  iterate 24 all_goals (try first
    | with_reducible assumption
    | with_reducible apply State.count_keeps
    | with_reducible apply State.roundCount_keeps
    | (with_reducible apply foldl_keeps)
    | (with_reducible apply foldl_fst_keeps)
    | with_reducible apply Keeps.ite
    | with_reducible apply Keeps.ite_fst
    | with_reducible apply Keeps.ite_snd
    | intro _
    | dsimp only
    | split
    | (refine Keeps.fst (by with_reducible assumption) ?_)
    | (refine Keeps.snd (by with_reducible assumption) ?_)
    | rfl
    | exact ⟨rfl, rfl⟩
    | exact ⟨rfl, rfl, rfl⟩
    | exact Memory.wf_clear (by assumption) _ _
    | exact Memory.wf_filter (by assumption) _
    | exact Memory.wf_writeBytes (by assumption) _ _
    | with_reducible apply Keeps.mk_all
    | assumption
    | simp_all [Run.ok])

theorem State.coreDone_keeps {a s : State} (h : Keeps a s) {x1 x2} : Keeps a (State.coreDone s x1 x2) := by
  unfold State.coreDone
  iterate 24 all_goals (try first
    | with_reducible assumption
    | with_reducible apply State.modCipher_keeps
    | with_reducible apply State.finish_keeps
    | with_reducible apply State.letIn_keeps
    | with_reducible apply State.cipherWork_keeps
    | with_reducible apply State.authFail_keeps
    | (with_reducible apply foldl_keeps)
    | (with_reducible apply foldl_fst_keeps)
    | with_reducible apply Keeps.ite
    | with_reducible apply Keeps.ite_fst
    | with_reducible apply Keeps.ite_snd
    | intro _
    | dsimp only
    | split
    | (refine Keeps.fst (by with_reducible assumption) ?_)
    | (refine Keeps.snd (by with_reducible assumption) ?_)
    | rfl
    | exact ⟨rfl, rfl⟩
    | exact ⟨rfl, rfl, rfl⟩
    | exact Memory.wf_clear (by assumption) _ _
    | exact Memory.wf_filter (by assumption) _
    | exact Memory.wf_writeBytes (by assumption) _ _
    | with_reducible apply Keeps.mk_all
    | assumption
    | simp_all [Run.ok])

theorem State.retireCore_keeps {a s : State} (h : Keeps a s) {x1} : Keeps a (State.retireCore s x1) := by
  unfold State.retireCore
  iterate 24 all_goals (try first
    | with_reducible assumption
    | with_reducible apply State.modCipher_keeps
    | with_reducible apply State.raise_keeps
    | (with_reducible apply foldl_keeps)
    | (with_reducible apply foldl_fst_keeps)
    | with_reducible apply Keeps.ite
    | with_reducible apply Keeps.ite_fst
    | with_reducible apply Keeps.ite_snd
    | intro _
    | dsimp only
    | split
    | (refine Keeps.fst (by with_reducible assumption) ?_)
    | (refine Keeps.snd (by with_reducible assumption) ?_)
    | rfl
    | exact ⟨rfl, rfl⟩
    | exact ⟨rfl, rfl, rfl⟩
    | exact Memory.wf_clear (by assumption) _ _
    | exact Memory.wf_filter (by assumption) _
    | exact Memory.wf_writeBytes (by assumption) _ _
    | with_reducible apply Keeps.mk_all
    | assumption
    | simp_all [Run.ok])

theorem State.takeUse_keeps {a s : State} (h : Keeps a s) {x1 x2} {t : State} (e : State.takeUse s x1 x2 = some t) : Keeps a t := by
  unfold State.takeUse at e; split at e
  · cases e; exact State.modCipher_keeps h (by simp)
  · cases e

theorem State.sealNow_keeps {a s : State} (h : Keeps a s) {x1 x2 x3 x4 x5} {t : State} {r} (e : State.sealNow s x1 x2 x3 x4 x5 = some (t, r)) : Keeps a t := by
  unfold State.sealNow at e
  obtain ⟨k, -, e⟩ := Option.bind_eq_some_iff.1 e
  obtain ⟨u, hu, e⟩ := Option.map_eq_some_iff.1 e
  cases e
  exact State.modCipher_keeps (State.takeUse_keeps h hu) (by simp)

theorem State.sealIf_keeps {a s : State} (h : Keeps a s) {c : Prop} [Decidable c] {x1 x2 x3 x4 x5} {t : State} {r}
    (e : (if c then none else State.sealNow s x1 x2 x3 x4 x5) = some (t, r)) : Keeps a t := by
  by_cases k : c
  · rw [if_pos k] at e; cases e
  · rw [if_neg k] at e; exact State.sealNow_keeps h e

theorem doKeyFault_keeps {a s : State} (h : Keeps a s) {x1 x2} : Keeps a (doKeyFault x1 x2 s) := by
  unfold doKeyFault
  iterate 24 all_goals (try first
    | with_reducible assumption
    | with_reducible apply State.modCipher_keeps
    | with_reducible apply State.raise_keeps
    | with_reducible apply State.raiseMem_keeps
    | (with_reducible apply foldl_keeps)
    | (with_reducible apply foldl_fst_keeps)
    | with_reducible apply Keeps.ite
    | with_reducible apply Keeps.ite_fst
    | with_reducible apply Keeps.ite_snd
    | intro _
    | dsimp only
    | split
    | (refine Keeps.fst (by with_reducible assumption) ?_)
    | (refine Keeps.snd (by with_reducible assumption) ?_)
    | rfl
    | exact ⟨rfl, rfl⟩
    | exact ⟨rfl, rfl, rfl⟩
    | exact Memory.wf_clear (by assumption) _ _
    | exact Memory.wf_filter (by assumption) _
    | exact Memory.wf_writeBytes (by assumption) _ _
    | with_reducible apply Keeps.mk_all
    | assumption
    | simp_all [Run.ok])

theorem execKeyFault_keeps {s t : State} {x1 x2} (e : execKeyFault x1 x2 s = .next t) : Keeps s t := by
  refine answer_keeps e ?_
  have h := Keeps.refl s
  iterate 24 all_goals (try first
    | with_reducible assumption
    | with_reducible apply doKeyFault_keeps
    | (with_reducible apply foldl_keeps)
    | (with_reducible apply foldl_fst_keeps)
    | with_reducible apply Keeps.ite
    | with_reducible apply Keeps.ite_fst
    | with_reducible apply Keeps.ite_snd
    | intro _
    | dsimp only
    | split
    | (refine Keeps.fst (by with_reducible assumption) ?_)
    | (refine Keeps.snd (by with_reducible assumption) ?_)
    | rfl
    | exact ⟨rfl, rfl⟩
    | exact ⟨rfl, rfl, rfl⟩
    | exact Memory.wf_clear (by assumption) _ _
    | exact Memory.wf_filter (by assumption) _
    | exact Memory.wf_writeBytes (by assumption) _ _
    | with_reducible apply Keeps.mk_all
    | assumption
    | simp_all [Run.ok])

theorem State.dropRequests_keeps {a s : State} (h : Keeps a s) {x1} : Keeps a (State.dropRequests s x1) := by
  unfold State.dropRequests
  iterate 24 all_goals (try first
    | with_reducible assumption
    | with_reducible apply State.modCipher_keeps
    | with_reducible apply State.finish_keeps
    | (with_reducible apply State.each_keeps; intro _ _ _)
    | (with_reducible apply foldl_keeps)
    | (with_reducible apply foldl_fst_keeps)
    | with_reducible apply Keeps.ite
    | with_reducible apply Keeps.ite_fst
    | with_reducible apply Keeps.ite_snd
    | intro _
    | dsimp only
    | split
    | (refine Keeps.fst (by with_reducible assumption) ?_)
    | (refine Keeps.snd (by with_reducible assumption) ?_)
    | rfl
    | exact ⟨rfl, rfl⟩
    | exact ⟨rfl, rfl, rfl⟩
    | exact Memory.wf_clear (by assumption) _ _
    | exact Memory.wf_filter (by assumption) _
    | exact Memory.wf_writeBytes (by assumption) _ _
    | with_reducible apply Keeps.mk_all
    | assumption
    | simp_all [Run.ok])

theorem State.zeroSlots_keeps {a s : State} (h : Keeps a s) {x1} : Keeps a (State.zeroSlots s x1) := by
  have hf : ∀ (l : List Nat) (c : Cipher), (l.foldl (fun c k => c.modSlot k fun _ => Slot.zeroised) c).slots.length = c.slots.length ∧
      (l.foldl (fun c k => c.modSlot k fun _ => Slot.zeroised) c).cores.length = c.cores.length := by
    intro l; induction l with
    | nil => intro c; exact ⟨rfl, rfl⟩
    | cons k l ih => intro c; exact ⟨(ih _).1.trans (by simp), (ih _).2.trans rfl⟩
  unfold State.zeroSlots
  iterate 24 all_goals (try first
    | with_reducible assumption
    | with_reducible apply State.dropRequests_keeps
    | with_reducible apply State.modCipher_keeps
    | exact hf _ _
    | dsimp only)

theorem State.sampleWith_keeps {a s : State} (h : Keeps a s) {x1 x2 x3 x4 x5} : Keeps a (State.sampleWith s x1 x2 x3 x4 x5) := by
  unfold State.sampleWith
  iterate 24 all_goals (try first
    | with_reducible assumption
    | with_reducible apply State.modRun_keeps
    | with_reducible apply State.modPyro_keeps
    | (with_reducible apply foldl_keeps)
    | (with_reducible apply foldl_fst_keeps)
    | with_reducible apply Keeps.ite
    | with_reducible apply Keeps.ite_fst
    | with_reducible apply Keeps.ite_snd
    | intro _
    | dsimp only
    | split
    | (refine Keeps.fst (by with_reducible assumption) ?_)
    | (refine Keeps.snd (by with_reducible assumption) ?_)
    | rfl
    | exact ⟨rfl, rfl⟩
    | exact ⟨rfl, rfl, rfl⟩
    | exact Memory.wf_clear (by assumption) _ _
    | exact Memory.wf_filter (by assumption) _
    | exact Memory.wf_writeBytes (by assumption) _ _
    | with_reducible apply Keeps.mk_all
    | assumption
    | simp_all [Run.ok])

theorem State.sample_keeps {a s : State} (h : Keeps a s) {x1 x2 x3 x4} : Keeps a (State.sample s x1 x2 x3 x4) := by
  unfold State.sample
  iterate 24 all_goals (try first
    | with_reducible assumption
    | with_reducible apply State.sampleWith_keeps
    | (with_reducible apply foldl_keeps)
    | (with_reducible apply foldl_fst_keeps)
    | with_reducible apply Keeps.ite
    | with_reducible apply Keeps.ite_fst
    | with_reducible apply Keeps.ite_snd
    | intro _
    | dsimp only
    | split
    | (refine Keeps.fst (by with_reducible assumption) ?_)
    | (refine Keeps.snd (by with_reducible assumption) ?_)
    | rfl
    | exact ⟨rfl, rfl⟩
    | exact ⟨rfl, rfl, rfl⟩
    | exact Memory.wf_clear (by assumption) _ _
    | exact Memory.wf_filter (by assumption) _
    | exact Memory.wf_writeBytes (by assumption) _ _
    | with_reducible apply Keeps.mk_all
    | assumption
    | simp_all [Run.ok])

theorem State.sampleSlag_keeps {a s : State} (h : Keeps a s) {x1 x2 x3 x4} : Keeps a (State.sampleSlag s x1 x2 x3 x4) := by
  unfold State.sampleSlag
  iterate 24 all_goals (try first
    | with_reducible assumption
    | with_reducible apply State.sampleWith_keeps
    | (with_reducible apply foldl_keeps)
    | (with_reducible apply foldl_fst_keeps)
    | with_reducible apply Keeps.ite
    | with_reducible apply Keeps.ite_fst
    | with_reducible apply Keeps.ite_snd
    | intro _
    | dsimp only
    | split
    | (refine Keeps.fst (by with_reducible assumption) ?_)
    | (refine Keeps.snd (by with_reducible assumption) ?_)
    | rfl
    | exact ⟨rfl, rfl⟩
    | exact ⟨rfl, rfl, rfl⟩
    | exact Memory.wf_clear (by assumption) _ _
    | exact Memory.wf_filter (by assumption) _
    | exact Memory.wf_writeBytes (by assumption) _ _
    | with_reducible apply Keeps.mk_all
    | assumption
    | simp_all [Run.ok])

theorem closeTrack_keeps {a s : State} (h : Keeps a s) {x1 x2 x3 x4 x5} : Keeps a (closeTrack x1 x2 x3 x4 s x5) := by
  unfold closeTrack
  iterate 24 all_goals (try first
    | with_reducible assumption
    | with_reducible apply State.modPyro_keeps
    | with_reducible apply State.raise_keeps
    | with_reducible apply State.recordPart_keeps
    | (with_reducible apply foldl_keeps)
    | (with_reducible apply foldl_fst_keeps)
    | with_reducible apply Keeps.ite
    | with_reducible apply Keeps.ite_fst
    | with_reducible apply Keeps.ite_snd
    | intro _
    | dsimp only
    | split
    | (refine Keeps.fst (by with_reducible assumption) ?_)
    | (refine Keeps.snd (by with_reducible assumption) ?_)
    | rfl
    | exact ⟨rfl, rfl⟩
    | exact ⟨rfl, rfl, rfl⟩
    | exact Memory.wf_clear (by assumption) _ _
    | exact Memory.wf_filter (by assumption) _
    | exact Memory.wf_writeBytes (by assumption) _ _
    | with_reducible apply Keeps.mk_all
    | assumption
    | simp_all [Run.ok])

theorem closePyro_keeps {a s : State} (h : Keeps a s) {x1 x2} : Keeps a (closePyro x1 x2 s) := by
  unfold closePyro
  iterate 24 all_goals (try first
    | with_reducible assumption
    | with_reducible apply State.modPyro_keeps
    | with_reducible apply closeTrack_keeps
    | (with_reducible apply State.each_keeps; intro _ _ _)
    | (with_reducible apply foldl_keeps)
    | (with_reducible apply foldl_fst_keeps)
    | with_reducible apply Keeps.ite
    | with_reducible apply Keeps.ite_fst
    | with_reducible apply Keeps.ite_snd
    | intro _
    | dsimp only
    | split
    | (refine Keeps.fst (by with_reducible assumption) ?_)
    | (refine Keeps.snd (by with_reducible assumption) ?_)
    | rfl
    | exact ⟨rfl, rfl⟩
    | exact ⟨rfl, rfl, rfl⟩
    | exact Memory.wf_clear (by assumption) _ _
    | exact Memory.wf_filter (by assumption) _
    | exact Memory.wf_writeBytes (by assumption) _ _
    | with_reducible apply Keeps.mk_all
    | assumption
    | simp_all [Run.ok])

theorem sramErrors_keeps {a s : State} (h : Keeps a s) {x1 x2 x3 x4} : Keeps a (sramErrors x1 x2 x3 x4 s) := by
  unfold sramErrors
  iterate 24 all_goals (try first
    | with_reducible assumption
    | with_reducible apply State.raiseMem_keeps
    | (with_reducible apply State.each_keeps; intro _ _ _)
    | (with_reducible apply foldl_keeps)
    | (with_reducible apply foldl_fst_keeps)
    | with_reducible apply Keeps.ite
    | with_reducible apply Keeps.ite_fst
    | with_reducible apply Keeps.ite_snd
    | intro _
    | dsimp only
    | split
    | (refine Keeps.fst (by with_reducible assumption) ?_)
    | (refine Keeps.snd (by with_reducible assumption) ?_)
    | rfl
    | exact ⟨rfl, rfl⟩
    | exact ⟨rfl, rfl, rfl⟩
    | exact Memory.wf_clear (by assumption) _ _
    | exact Memory.wf_filter (by assumption) _
    | exact Memory.wf_writeBytes (by assumption) _ _
    | with_reducible apply Keeps.mk_all
    | assumption
    | simp_all [Run.ok])

theorem splitCopies_keeps {a s : State} (h : Keeps a s) {x1 x2 x3} : Keeps a (splitCopies x1 x2 x3 s) := by
  unfold splitCopies
  iterate 24 all_goals (try first
    | with_reducible assumption
    | with_reducible apply State.raiseMem_keeps
    | (with_reducible apply State.each_keeps; intro _ _ _)
    | (with_reducible apply foldl_keeps)
    | (with_reducible apply foldl_fst_keeps)
    | with_reducible apply Keeps.ite
    | with_reducible apply Keeps.ite_fst
    | with_reducible apply Keeps.ite_snd
    | intro _
    | dsimp only
    | split
    | (refine Keeps.fst (by with_reducible assumption) ?_)
    | (refine Keeps.snd (by with_reducible assumption) ?_)
    | rfl
    | exact ⟨rfl, rfl⟩
    | exact ⟨rfl, rfl, rfl⟩
    | exact Memory.wf_clear (by assumption) _ _
    | exact Memory.wf_filter (by assumption) _
    | exact Memory.wf_writeBytes (by assumption) _ _
    | with_reducible apply Keeps.mk_all
    | assumption
    | simp_all [Run.ok])

theorem parityErrors_keeps {a s : State} (h : Keeps a s) {x1 x2 x3} : Keeps a (parityErrors x1 x2 x3 s) := by
  unfold parityErrors
  iterate 24 all_goals (try first
    | with_reducible assumption
    | with_reducible apply State.raise_keeps
    | (with_reducible apply State.each_keeps; intro _ _ _)
    | (with_reducible apply foldl_keeps)
    | (with_reducible apply foldl_fst_keeps)
    | with_reducible apply Keeps.ite
    | with_reducible apply Keeps.ite_fst
    | with_reducible apply Keeps.ite_snd
    | intro _
    | dsimp only
    | split
    | (refine Keeps.fst (by with_reducible assumption) ?_)
    | (refine Keeps.snd (by with_reducible assumption) ?_)
    | rfl
    | exact ⟨rfl, rfl⟩
    | exact ⟨rfl, rfl, rfl⟩
    | exact Memory.wf_clear (by assumption) _ _
    | exact Memory.wf_filter (by assumption) _
    | exact Memory.wf_writeBytes (by assumption) _ _
    | with_reducible apply Keeps.mk_all
    | assumption
    | simp_all [Run.ok])

theorem doPassAccept_keeps {a s : State} (h : Keeps a s) {x1 x2 x3 x4 x5} : Keeps a (doPassAccept x1 x2 x3 x4 x5 s) := by
  unfold doPassAccept
  iterate 24 all_goals (try first
    | with_reducible assumption
    | with_reducible apply State.modHearth_keeps
    | with_reducible apply State.addRbw_keeps
    | with_reducible apply State.raise_keeps
    | with_reducible apply sramErrors_keeps
    | with_reducible apply splitCopies_keeps
    | with_reducible apply parityErrors_keeps
    | (with_reducible apply foldl_keeps)
    | (with_reducible apply foldl_fst_keeps)
    | with_reducible apply Keeps.ite
    | with_reducible apply Keeps.ite_fst
    | with_reducible apply Keeps.ite_snd
    | intro _
    | dsimp only
    | split
    | (refine Keeps.fst (by with_reducible assumption) ?_)
    | (refine Keeps.snd (by with_reducible assumption) ?_)
    | rfl
    | exact ⟨rfl, rfl⟩
    | exact ⟨rfl, rfl, rfl⟩
    | exact Memory.wf_clear (by assumption) _ _
    | exact Memory.wf_filter (by assumption) _
    | exact Memory.wf_writeBytes (by assumption) _ _
    | with_reducible apply Keeps.mk_all
    | assumption
    | simp_all [Run.ok])

theorem execPassAccept_keeps {s t : State} {x1 x2 x3 x4 x5} (e : execPassAccept x1 x2 x3 x4 x5 s = .next t) : Keeps s t := by
  refine answer_keeps e ?_
  have h := Keeps.refl s
  iterate 24 all_goals (try first
    | with_reducible assumption
    | with_reducible apply doPassAccept_keeps
    | (with_reducible apply foldl_keeps)
    | (with_reducible apply foldl_fst_keeps)
    | with_reducible apply Keeps.ite
    | with_reducible apply Keeps.ite_fst
    | with_reducible apply Keeps.ite_snd
    | intro _
    | dsimp only
    | split
    | (refine Keeps.fst (by with_reducible assumption) ?_)
    | (refine Keeps.snd (by with_reducible assumption) ?_)
    | rfl
    | exact ⟨rfl, rfl⟩
    | exact ⟨rfl, rfl, rfl⟩
    | exact Memory.wf_clear (by assumption) _ _
    | exact Memory.wf_filter (by assumption) _
    | exact Memory.wf_writeBytes (by assumption) _ _
    | with_reducible apply Keeps.mk_all
    | assumption
    | simp_all [Run.ok])

theorem doBilletTransfer_keeps {a s : State} (h : Keeps a s) {x1} : Keeps a (doBilletTransfer x1 s) := by
  unfold doBilletTransfer
  iterate 24 all_goals (try first
    | with_reducible assumption
    | with_reducible apply State.modHearth_keeps
    | with_reducible apply State.sample_keeps
    | (with_reducible apply foldl_keeps)
    | (with_reducible apply foldl_fst_keeps)
    | with_reducible apply Keeps.ite
    | with_reducible apply Keeps.ite_fst
    | with_reducible apply Keeps.ite_snd
    | intro _
    | dsimp only
    | split
    | (refine Keeps.fst (by with_reducible assumption) ?_)
    | (refine Keeps.snd (by with_reducible assumption) ?_)
    | rfl
    | exact ⟨rfl, rfl⟩
    | exact ⟨rfl, rfl, rfl⟩
    | exact Memory.wf_clear (by assumption) _ _
    | exact Memory.wf_filter (by assumption) _
    | exact Memory.wf_writeBytes (by assumption) _ _
    | with_reducible apply Keeps.mk_all
    | assumption
    | simp_all [Run.ok])

theorem execBilletTransfer_keeps {s t : State} {x1} (e : execBilletTransfer x1 s = .next t) : Keeps s t := by
  refine answer_keeps e ?_
  have h := Keeps.refl s
  iterate 24 all_goals (try first
    | with_reducible assumption
    | with_reducible apply doBilletTransfer_keeps
    | (with_reducible apply foldl_keeps)
    | (with_reducible apply foldl_fst_keeps)
    | with_reducible apply Keeps.ite
    | with_reducible apply Keeps.ite_fst
    | with_reducible apply Keeps.ite_snd
    | intro _
    | dsimp only
    | split
    | (refine Keeps.fst (by with_reducible assumption) ?_)
    | (refine Keeps.snd (by with_reducible assumption) ?_)
    | rfl
    | exact ⟨rfl, rfl⟩
    | exact ⟨rfl, rfl, rfl⟩
    | exact Memory.wf_clear (by assumption) _ _
    | exact Memory.wf_filter (by assumption) _
    | exact Memory.wf_writeBytes (by assumption) _ _
    | with_reducible apply Keeps.mk_all
    | assumption
    | simp_all [Run.ok])

theorem doBilletStall_keeps {a s : State} (h : Keeps a s) {x1} : Keeps a (doBilletStall x1 s) := by
  unfold doBilletStall
  iterate 24 all_goals (try first
    | with_reducible assumption
    | with_reducible apply State.modHearth_keeps
    | with_reducible apply State.raise_keeps
    | (with_reducible apply foldl_keeps)
    | (with_reducible apply foldl_fst_keeps)
    | with_reducible apply Keeps.ite
    | with_reducible apply Keeps.ite_fst
    | with_reducible apply Keeps.ite_snd
    | intro _
    | dsimp only
    | split
    | (refine Keeps.fst (by with_reducible assumption) ?_)
    | (refine Keeps.snd (by with_reducible assumption) ?_)
    | rfl
    | exact ⟨rfl, rfl⟩
    | exact ⟨rfl, rfl, rfl⟩
    | exact Memory.wf_clear (by assumption) _ _
    | exact Memory.wf_filter (by assumption) _
    | exact Memory.wf_writeBytes (by assumption) _ _
    | with_reducible apply Keeps.mk_all
    | assumption
    | simp_all [Run.ok])

theorem execBilletStall_keeps {s t : State} {x1} (e : execBilletStall x1 s = .next t) : Keeps s t := by
  refine answer_keeps e ?_
  have h := Keeps.refl s
  iterate 24 all_goals (try first
    | with_reducible assumption
    | with_reducible apply doBilletStall_keeps
    | (with_reducible apply foldl_keeps)
    | (with_reducible apply foldl_fst_keeps)
    | with_reducible apply Keeps.ite
    | with_reducible apply Keeps.ite_fst
    | with_reducible apply Keeps.ite_snd
    | intro _
    | dsimp only
    | split
    | (refine Keeps.fst (by with_reducible assumption) ?_)
    | (refine Keeps.snd (by with_reducible assumption) ?_)
    | rfl
    | exact ⟨rfl, rfl⟩
    | exact ⟨rfl, rfl, rfl⟩
    | exact Memory.wf_clear (by assumption) _ _
    | exact Memory.wf_filter (by assumption) _
    | exact Memory.wf_writeBytes (by assumption) _ _
    | with_reducible apply Keeps.mk_all
    | assumption
    | simp_all [Run.ok])

theorem State.modPort_keeps {a s : State} (h : Keeps a s) {x1 x2} : Keeps a (State.modPort s x1 x2) := by
  unfold State.modPort
  iterate 24 all_goals (try first
    | with_reducible assumption
    | with_reducible apply State.modNet_keeps
    | (with_reducible apply foldl_keeps)
    | (with_reducible apply foldl_fst_keeps)
    | with_reducible apply Keeps.ite
    | with_reducible apply Keeps.ite_fst
    | with_reducible apply Keeps.ite_snd
    | intro _
    | dsimp only
    | split
    | (refine Keeps.fst (by with_reducible assumption) ?_)
    | (refine Keeps.snd (by with_reducible assumption) ?_)
    | rfl
    | exact ⟨rfl, rfl⟩
    | exact ⟨rfl, rfl, rfl⟩
    | exact Memory.wf_clear (by assumption) _ _
    | exact Memory.wf_filter (by assumption) _
    | exact Memory.wf_writeBytes (by assumption) _ _
    | with_reducible apply Keeps.mk_all
    | assumption
    | simp_all [Run.ok])

theorem State.egress_keeps {a s : State} (h : Keeps a s) {x1 x2 x3 x4 x5 x6} : Keeps a (State.egress s x1 x2 x3 x4 x5 x6) := by
  unfold State.egress
  iterate 24 all_goals (try first
    | with_reducible assumption
    | with_reducible apply State.count_keeps
    | with_reducible apply State.modPort_keeps
    | (with_reducible apply foldl_keeps)
    | (with_reducible apply foldl_fst_keeps)
    | with_reducible apply Keeps.ite
    | with_reducible apply Keeps.ite_fst
    | with_reducible apply Keeps.ite_snd
    | intro _
    | dsimp only
    | split
    | (refine Keeps.fst (by with_reducible assumption) ?_)
    | (refine Keeps.snd (by with_reducible assumption) ?_)
    | rfl
    | exact ⟨rfl, rfl⟩
    | exact ⟨rfl, rfl, rfl⟩
    | exact Memory.wf_clear (by assumption) _ _
    | exact Memory.wf_filter (by assumption) _
    | exact Memory.wf_writeBytes (by assumption) _ _
    | with_reducible apply Keeps.mk_all
    | assumption
    | simp_all [Run.ok])

theorem State.serveEgress_keeps {a s : State} (h : Keeps a s) : Keeps a (State.serveEgress s) := by
  unfold State.serveEgress
  iterate 24 all_goals (try first
    | with_reducible assumption
    | with_reducible apply State.modNet_keeps
    | (with_reducible apply foldl_keeps)
    | (with_reducible apply foldl_fst_keeps)
    | with_reducible apply Keeps.ite
    | with_reducible apply Keeps.ite_fst
    | with_reducible apply Keeps.ite_snd
    | intro _
    | dsimp only
    | split
    | (refine Keeps.fst (by with_reducible assumption) ?_)
    | (refine Keeps.snd (by with_reducible assumption) ?_)
    | rfl
    | exact ⟨rfl, rfl⟩
    | exact ⟨rfl, rfl, rfl⟩
    | exact Memory.wf_clear (by assumption) _ _
    | exact Memory.wf_filter (by assumption) _
    | exact Memory.wf_writeBytes (by assumption) _ _
    | with_reducible apply Keeps.mk_all
    | assumption
    | simp_all [Run.ok])

theorem State.clockTick_keeps {a s : State} (h : Keeps a s) : Keeps a (State.clockTick s) := by
  unfold State.clockTick
  iterate 24 all_goals (try first
    | with_reducible assumption
    | with_reducible apply State.serveEgress_keeps
    | (with_reducible apply foldl_keeps)
    | (with_reducible apply foldl_fst_keeps)
    | with_reducible apply Keeps.ite
    | with_reducible apply Keeps.ite_fst
    | with_reducible apply Keeps.ite_snd
    | intro _
    | dsimp only
    | split
    | (refine Keeps.fst (by with_reducible assumption) ?_)
    | (refine Keeps.snd (by with_reducible assumption) ?_)
    | rfl
    | exact ⟨rfl, rfl⟩
    | exact ⟨rfl, rfl, rfl⟩
    | exact Memory.wf_clear (by assumption) _ _
    | exact Memory.wf_filter (by assumption) _
    | exact Memory.wf_writeBytes (by assumption) _ _
    | with_reducible apply Keeps.mk_all
    | assumption
    | simp_all [Run.ok])

theorem State.voteRoot_keeps {a s : State} (h : Keeps a s) {x1} : Keeps a (State.voteRoot s x1) := by
  unfold State.voteRoot
  iterate 24 all_goals (try first
    | with_reducible assumption
    | with_reducible apply State.modFab_keeps
    | with_reducible apply State.raise_keeps
    | (with_reducible apply foldl_keeps)
    | (with_reducible apply foldl_fst_keeps)
    | with_reducible apply Keeps.ite
    | with_reducible apply Keeps.ite_fst
    | with_reducible apply Keeps.ite_snd
    | intro _
    | dsimp only
    | split
    | (refine Keeps.fst (by with_reducible assumption) ?_)
    | (refine Keeps.snd (by with_reducible assumption) ?_)
    | rfl
    | exact ⟨rfl, rfl⟩
    | exact ⟨rfl, rfl, rfl⟩
    | exact Memory.wf_clear (by assumption) _ _
    | exact Memory.wf_filter (by assumption) _
    | exact Memory.wf_writeBytes (by assumption) _ _
    | with_reducible apply Keeps.mk_all
    | assumption
    | simp_all [Run.ok])

theorem State.emitHall_keeps {a s : State} (h : Keeps a s) {x1 x2 x3} : Keeps a (State.emitHall s x1 x2 x3) := by
  unfold State.emitHall
  iterate 24 all_goals (try first
    | with_reducible assumption
    | with_reducible apply State.emit_keeps
    | with_reducible apply State.egress_keeps
    | with_reducible apply State.voteRoot_keeps
    | (with_reducible apply foldl_keeps)
    | (with_reducible apply foldl_fst_keeps)
    | with_reducible apply Keeps.ite
    | with_reducible apply Keeps.ite_fst
    | with_reducible apply Keeps.ite_snd
    | intro _
    | dsimp only
    | split
    | (refine Keeps.fst (by with_reducible assumption) ?_)
    | (refine Keeps.snd (by with_reducible assumption) ?_)
    | rfl
    | exact ⟨rfl, rfl⟩
    | exact ⟨rfl, rfl, rfl⟩
    | exact Memory.wf_clear (by assumption) _ _
    | exact Memory.wf_filter (by assumption) _
    | exact Memory.wf_writeBytes (by assumption) _ _
    | with_reducible apply Keeps.mk_all
    | assumption
    | simp_all [Run.ok])

theorem State.fellBack_keeps {a s : State} (h : Keeps a s) {x1 x2 x3} : Keeps a (State.fellBack s x1 x2 x3) := by
  unfold State.fellBack
  iterate 24 all_goals (try first
    | with_reducible assumption
    | with_reducible apply State.modRun_keeps
    | (with_reducible apply foldl_keeps)
    | (with_reducible apply foldl_fst_keeps)
    | with_reducible apply Keeps.ite
    | with_reducible apply Keeps.ite_fst
    | with_reducible apply Keeps.ite_snd
    | intro _
    | dsimp only
    | split
    | (refine Keeps.fst (by with_reducible assumption) ?_)
    | (refine Keeps.snd (by with_reducible assumption) ?_)
    | rfl
    | exact ⟨rfl, rfl⟩
    | exact ⟨rfl, rfl, rfl⟩
    | exact Memory.wf_clear (by assumption) _ _
    | exact Memory.wf_filter (by assumption) _
    | exact Memory.wf_writeBytes (by assumption) _ _
    | with_reducible apply Keeps.mk_all
    | assumption
    | simp_all [Run.ok])

theorem State.launch_keeps {a s : State} (h : Keeps a s) {x1 x2 x3 x4 x5} : Keeps a (State.launch s x1 x2 x3 x4 x5) := by
  unfold State.launch
  iterate 24 all_goals (try first
    | with_reducible assumption
    | with_reducible apply State.modFab_keeps
    | with_reducible apply State.emitHall_keeps
    | with_reducible apply State.fellBack_keeps
    | (with_reducible apply foldl_keeps)
    | (with_reducible apply foldl_fst_keeps)
    | with_reducible apply Keeps.ite
    | with_reducible apply Keeps.ite_fst
    | with_reducible apply Keeps.ite_snd
    | intro _
    | dsimp only
    | split
    | (refine Keeps.fst (by with_reducible assumption) ?_)
    | (refine Keeps.snd (by with_reducible assumption) ?_)
    | rfl
    | exact ⟨rfl, rfl⟩
    | exact ⟨rfl, rfl, rfl⟩
    | exact Memory.wf_clear (by assumption) _ _
    | exact Memory.wf_filter (by assumption) _
    | exact Memory.wf_writeBytes (by assumption) _ _
    | with_reducible apply Keeps.mk_all
    | assumption
    | simp_all [Run.ok])

theorem State.sendNow_keeps {a s : State} (h : Keeps a s) {x1 x2} : Keeps a (State.sendNow s x1 x2) := by
  unfold State.sendNow
  iterate 24 all_goals (try first
    | with_reducible assumption
    | with_reducible apply State.modFab_keeps
    | with_reducible apply State.emitHall_keeps
    | with_reducible apply State.fellBack_keeps
    | (with_reducible apply foldl_keeps)
    | (with_reducible apply foldl_fst_keeps)
    | with_reducible apply Keeps.ite
    | with_reducible apply Keeps.ite_fst
    | with_reducible apply Keeps.ite_snd
    | intro _
    | dsimp only
    | split
    | (refine Keeps.fst (by with_reducible assumption) ?_)
    | (refine Keeps.snd (by with_reducible assumption) ?_)
    | rfl
    | exact ⟨rfl, rfl⟩
    | exact ⟨rfl, rfl, rfl⟩
    | exact Memory.wf_clear (by assumption) _ _
    | exact Memory.wf_filter (by assumption) _
    | exact Memory.wf_writeBytes (by assumption) _ _
    | with_reducible apply Keeps.mk_all
    | assumption
    | simp_all [Run.ok])

theorem State.sendHeld_keeps {a s : State} (h : Keeps a s) {x1 x2} : Keeps a (State.sendHeld s x1 x2) := by
  unfold State.sendHeld
  iterate 24 all_goals (try first
    | with_reducible assumption
    | with_reducible apply State.modFab_keeps
    | with_reducible apply State.sendNow_keeps
    | (with_reducible apply State.each_keeps; intro _ _ _)
    | (with_reducible apply foldl_keeps)
    | (with_reducible apply foldl_fst_keeps)
    | with_reducible apply Keeps.ite
    | with_reducible apply Keeps.ite_fst
    | with_reducible apply Keeps.ite_snd
    | intro _
    | dsimp only
    | split
    | (refine Keeps.fst (by with_reducible assumption) ?_)
    | (refine Keeps.snd (by with_reducible assumption) ?_)
    | rfl
    | exact ⟨rfl, rfl⟩
    | exact ⟨rfl, rfl, rfl⟩
    | exact Memory.wf_clear (by assumption) _ _
    | exact Memory.wf_filter (by assumption) _
    | exact Memory.wf_writeBytes (by assumption) _ _
    | with_reducible apply Keeps.mk_all
    | assumption
    | simp_all [Run.ok])

theorem State.creditSent_keeps {a s : State} (h : Keeps a s) {x1 x2} : Keeps a (State.creditSent s x1 x2) := by
  unfold State.creditSent
  iterate 24 all_goals (try first
    | with_reducible assumption
    | with_reducible apply State.modPart_keeps
    | (with_reducible apply foldl_keeps)
    | (with_reducible apply foldl_fst_keeps)
    | with_reducible apply Keeps.ite
    | with_reducible apply Keeps.ite_fst
    | with_reducible apply Keeps.ite_snd
    | intro _
    | dsimp only
    | split
    | (refine Keeps.fst (by with_reducible assumption) ?_)
    | (refine Keeps.snd (by with_reducible assumption) ?_)
    | rfl
    | exact ⟨rfl, rfl⟩
    | exact ⟨rfl, rfl, rfl⟩
    | exact Memory.wf_clear (by assumption) _ _
    | exact Memory.wf_filter (by assumption) _
    | exact Memory.wf_writeBytes (by assumption) _ _
    | with_reducible apply Keeps.mk_all
    | assumption
    | simp_all [Run.ok])

theorem State.pump_keeps {a s : State} (h : Keeps a s) {x1 x2 x3} : Keeps a (State.pump s x1 x2 x3) := by
  unfold State.pump
  iterate 24 all_goals (try first
    | with_reducible assumption
    | with_reducible apply State.modFab_keeps
    | with_reducible apply State.launch_keeps
    | with_reducible apply State.sendHeld_keeps
    | with_reducible apply State.creditSent_keeps
    | (with_reducible apply State.each_keeps; intro _ _ _)
    | (with_reducible apply foldl_keeps)
    | (with_reducible apply foldl_fst_keeps)
    | with_reducible apply Keeps.ite
    | with_reducible apply Keeps.ite_fst
    | with_reducible apply Keeps.ite_snd
    | intro _
    | dsimp only
    | split
    | (refine Keeps.fst (by with_reducible assumption) ?_)
    | (refine Keeps.snd (by with_reducible assumption) ?_)
    | rfl
    | exact ⟨rfl, rfl⟩
    | exact ⟨rfl, rfl, rfl⟩
    | exact Memory.wf_clear (by assumption) _ _
    | exact Memory.wf_filter (by assumption) _
    | exact Memory.wf_writeBytes (by assumption) _ _
    | with_reducible apply Keeps.mk_all
    | assumption
    | simp_all [Run.ok])

theorem State.send_keeps {a s : State} (h : Keeps a s) {x1 x2 x3} : Keeps a (State.send s x1 x2 x3) := by
  unfold State.send
  iterate 24 all_goals (try first
    | with_reducible assumption
    | with_reducible apply State.modFab_keeps
    | with_reducible apply State.pump_keeps
    | (with_reducible apply foldl_keeps)
    | (with_reducible apply foldl_fst_keeps)
    | with_reducible apply Keeps.ite
    | with_reducible apply Keeps.ite_fst
    | with_reducible apply Keeps.ite_snd
    | intro _
    | dsimp only
    | split
    | (refine Keeps.fst (by with_reducible assumption) ?_)
    | (refine Keeps.snd (by with_reducible assumption) ?_)
    | rfl
    | exact ⟨rfl, rfl⟩
    | exact ⟨rfl, rfl, rfl⟩
    | exact Memory.wf_clear (by assumption) _ _
    | exact Memory.wf_filter (by assumption) _
    | exact Memory.wf_writeBytes (by assumption) _ _
    | with_reducible apply Keeps.mk_all
    | assumption
    | simp_all [Run.ok])

theorem State.sendAck_keeps {a s : State} (h : Keeps a s) {x1 x2 x3} : Keeps a (State.sendAck s x1 x2 x3) := by
  unfold State.sendAck
  iterate 24 all_goals (try first
    | with_reducible assumption
    | with_reducible apply State.modFab_keeps
    | with_reducible apply State.sendNow_keeps
    | (with_reducible apply foldl_keeps)
    | (with_reducible apply foldl_fst_keeps)
    | with_reducible apply Keeps.ite
    | with_reducible apply Keeps.ite_fst
    | with_reducible apply Keeps.ite_snd
    | intro _
    | dsimp only
    | split
    | (refine Keeps.fst (by with_reducible assumption) ?_)
    | (refine Keeps.snd (by with_reducible assumption) ?_)
    | rfl
    | exact ⟨rfl, rfl⟩
    | exact ⟨rfl, rfl, rfl⟩
    | exact Memory.wf_clear (by assumption) _ _
    | exact Memory.wf_filter (by assumption) _
    | exact Memory.wf_writeBytes (by assumption) _ _
    | with_reducible apply Keeps.mk_all
    | assumption
    | simp_all [Run.ok])

theorem State.packetBad_keeps {a s : State} (h : Keeps a s) {x1 x2} : Keeps a (State.packetBad s x1 x2) := by
  unfold State.packetBad
  iterate 24 all_goals (try first
    | with_reducible assumption
    | with_reducible apply State.modNet_keeps
    | with_reducible apply State.raise_keeps
    | (with_reducible apply foldl_keeps)
    | (with_reducible apply foldl_fst_keeps)
    | with_reducible apply Keeps.ite
    | with_reducible apply Keeps.ite_fst
    | with_reducible apply Keeps.ite_snd
    | intro _
    | dsimp only
    | split
    | (refine Keeps.fst (by with_reducible assumption) ?_)
    | (refine Keeps.snd (by with_reducible assumption) ?_)
    | rfl
    | exact ⟨rfl, rfl⟩
    | exact ⟨rfl, rfl, rfl⟩
    | exact Memory.wf_clear (by assumption) _ _
    | exact Memory.wf_filter (by assumption) _
    | exact Memory.wf_writeBytes (by assumption) _ _
    | with_reducible apply Keeps.mk_all
    | assumption
    | simp_all [Run.ok])

theorem State.duplicate_keeps {a s : State} (h : Keeps a s) {x1 x2} : Keeps a (State.duplicate s x1 x2) := by
  unfold State.duplicate
  iterate 24 all_goals (try first
    | with_reducible assumption
    | with_reducible apply State.count_keeps
    | with_reducible apply State.sendNow_keeps
    | with_reducible apply State.sendAck_keeps
    | (with_reducible apply foldl_keeps)
    | (with_reducible apply foldl_fst_keeps)
    | with_reducible apply Keeps.ite
    | with_reducible apply Keeps.ite_fst
    | with_reducible apply Keeps.ite_snd
    | intro _
    | dsimp only
    | split
    | (refine Keeps.fst (by with_reducible assumption) ?_)
    | (refine Keeps.snd (by with_reducible assumption) ?_)
    | rfl
    | exact ⟨rfl, rfl⟩
    | exact ⟨rfl, rfl, rfl⟩
    | exact Memory.wf_clear (by assumption) _ _
    | exact Memory.wf_filter (by assumption) _
    | exact Memory.wf_writeBytes (by assumption) _ _
    | with_reducible apply Keeps.mk_all
    | assumption
    | simp_all [Run.ok])

theorem State.renewChan_keeps {a s : State} (h : Keeps a s) {x1 x2} : Keeps a (State.renewChan s x1 x2) := by
  unfold State.renewChan
  iterate 24 all_goals (try first
    | with_reducible assumption
    | with_reducible apply State.modFab_keeps
    | (with_reducible apply foldl_keeps)
    | (with_reducible apply foldl_fst_keeps)
    | with_reducible apply Keeps.ite
    | with_reducible apply Keeps.ite_fst
    | with_reducible apply Keeps.ite_snd
    | intro _
    | dsimp only
    | split
    | (refine Keeps.fst (by with_reducible assumption) ?_)
    | (refine Keeps.snd (by with_reducible assumption) ?_)
    | rfl
    | exact ⟨rfl, rfl⟩
    | exact ⟨rfl, rfl, rfl⟩
    | exact Memory.wf_clear (by assumption) _ _
    | exact Memory.wf_filter (by assumption) _
    | exact Memory.wf_writeBytes (by assumption) _ _
    | with_reducible apply Keeps.mk_all
    | assumption
    | simp_all [Run.ok])

theorem State.receive_keeps {a s : State} (h : Keeps a s) {x1 x2} : Keeps a (State.receive s x1 x2).1 := by
  unfold State.receive
  iterate 24 all_goals (try first
    | with_reducible assumption
    | with_reducible apply State.modFab_keeps
    | with_reducible apply State.count_keeps
    | with_reducible apply State.voteRoot_keeps
    | with_reducible apply State.packetBad_keeps
    | with_reducible apply State.duplicate_keeps
    | with_reducible apply State.renewChan_keeps
    | (with_reducible apply foldl_keeps)
    | (with_reducible apply foldl_fst_keeps)
    | with_reducible apply Keeps.ite
    | with_reducible apply Keeps.ite_fst
    | with_reducible apply Keeps.ite_snd
    | intro _
    | dsimp only
    | split
    | (refine Keeps.fst (by with_reducible assumption) ?_)
    | (refine Keeps.snd (by with_reducible assumption) ?_)
    | rfl
    | exact ⟨rfl, rfl⟩
    | exact ⟨rfl, rfl, rfl⟩
    | exact Memory.wf_clear (by assumption) _ _
    | exact Memory.wf_filter (by assumption) _
    | exact Memory.wf_writeBytes (by assumption) _ _
    | with_reducible apply Keeps.mk_all
    | assumption
    | simp_all [Run.ok])

theorem State.bufErrors_keeps {a s : State} (h : Keeps a s) {x1 x2} : Keeps a (State.bufErrors s x1 x2) := by
  unfold State.bufErrors
  iterate 24 all_goals (try first
    | with_reducible assumption
    | with_reducible apply State.raiseMem_keeps
    | (with_reducible apply State.each_keeps; intro _ _ _)
    | (with_reducible apply foldl_keeps)
    | (with_reducible apply foldl_fst_keeps)
    | with_reducible apply Keeps.ite
    | with_reducible apply Keeps.ite_fst
    | with_reducible apply Keeps.ite_snd
    | intro _
    | dsimp only
    | split
    | (refine Keeps.fst (by with_reducible assumption) ?_)
    | (refine Keeps.snd (by with_reducible assumption) ?_)
    | rfl
    | exact ⟨rfl, rfl⟩
    | exact ⟨rfl, rfl, rfl⟩
    | exact Memory.wf_clear (by assumption) _ _
    | exact Memory.wf_filter (by assumption) _
    | exact Memory.wf_writeBytes (by assumption) _ _
    | with_reducible apply Keeps.mk_all
    | assumption
    | simp_all [Run.ok])

theorem State.ackIfDue_keeps {a s : State} (h : Keeps a s) {x1 x2 x3} : Keeps a (State.ackIfDue s x1 x2 x3) := by
  unfold State.ackIfDue
  iterate 24 all_goals (try first
    | with_reducible assumption
    | with_reducible apply State.sendAck_keeps
    | (with_reducible apply foldl_keeps)
    | (with_reducible apply foldl_fst_keeps)
    | with_reducible apply Keeps.ite
    | with_reducible apply Keeps.ite_fst
    | with_reducible apply Keeps.ite_snd
    | intro _
    | dsimp only
    | split
    | (refine Keeps.fst (by with_reducible assumption) ?_)
    | (refine Keeps.snd (by with_reducible assumption) ?_)
    | rfl
    | exact ⟨rfl, rfl⟩
    | exact ⟨rfl, rfl, rfl⟩
    | exact Memory.wf_clear (by assumption) _ _
    | exact Memory.wf_filter (by assumption) _
    | exact Memory.wf_writeBytes (by assumption) _ _
    | with_reducible apply Keeps.mk_all
    | assumption
    | simp_all [Run.ok])

theorem State.grantOne_keeps {a s : State} (h : Keeps a s) {x1 x2} : Keeps a (State.grantOne s x1 x2) := by
  unfold State.grantOne
  iterate 24 all_goals (try first
    | with_reducible assumption
    | with_reducible apply State.modFab_keeps
    | with_reducible apply State.send_keeps
    | (with_reducible apply foldl_keeps)
    | (with_reducible apply foldl_fst_keeps)
    | with_reducible apply Keeps.ite
    | with_reducible apply Keeps.ite_fst
    | with_reducible apply Keeps.ite_snd
    | intro _
    | dsimp only
    | split
    | (refine Keeps.fst (by with_reducible assumption) ?_)
    | (refine Keeps.snd (by with_reducible assumption) ?_)
    | rfl
    | exact ⟨rfl, rfl⟩
    | exact ⟨rfl, rfl, rfl⟩
    | exact Memory.wf_clear (by assumption) _ _
    | exact Memory.wf_filter (by assumption) _
    | exact Memory.wf_writeBytes (by assumption) _ _
    | with_reducible apply Keeps.mk_all
    | assumption
    | simp_all [Run.ok])

theorem State.serveGrants_keeps {a s : State} (h : Keeps a s) {x1} : Keeps a (State.serveGrants s x1) := by
  unfold State.serveGrants
  iterate 24 all_goals (try first
    | with_reducible assumption
    | with_reducible apply State.grantOne_keeps
    | (with_reducible apply State.each_keeps; intro _ _ _)
    | (with_reducible apply foldl_keeps)
    | (with_reducible apply foldl_fst_keeps)
    | with_reducible apply Keeps.ite
    | with_reducible apply Keeps.ite_fst
    | with_reducible apply Keeps.ite_snd
    | intro _
    | dsimp only
    | split
    | (refine Keeps.fst (by with_reducible assumption) ?_)
    | (refine Keeps.snd (by with_reducible assumption) ?_)
    | rfl
    | exact ⟨rfl, rfl⟩
    | exact ⟨rfl, rfl, rfl⟩
    | exact Memory.wf_clear (by assumption) _ _
    | exact Memory.wf_filter (by assumption) _
    | exact Memory.wf_writeBytes (by assumption) _ _
    | with_reducible apply Keeps.mk_all
    | assumption
    | simp_all [Run.ok])

theorem State.dataArrived_keeps {a s : State} (h : Keeps a s) {x1 x2} : Keeps a (State.dataArrived s x1 x2) := by
  unfold State.dataArrived
  iterate 24 all_goals (try first
    | with_reducible assumption
    | with_reducible apply State.modFab_keeps
    | with_reducible apply State.serveGrants_keeps
    | (with_reducible apply foldl_keeps)
    | (with_reducible apply foldl_fst_keeps)
    | with_reducible apply Keeps.ite
    | with_reducible apply Keeps.ite_fst
    | with_reducible apply Keeps.ite_snd
    | intro _
    | dsimp only
    | split
    | (refine Keeps.fst (by with_reducible assumption) ?_)
    | (refine Keeps.snd (by with_reducible assumption) ?_)
    | rfl
    | exact ⟨rfl, rfl⟩
    | exact ⟨rfl, rfl, rfl⟩
    | exact Memory.wf_clear (by assumption) _ _
    | exact Memory.wf_filter (by assumption) _
    | exact Memory.wf_writeBytes (by assumption) _ _
    | with_reducible apply Keeps.mk_all
    | assumption
    | simp_all [Run.ok])

theorem State.remoteWrite_keeps {a s : State} (h : Keeps a s) {x1 x2 x3 x4 x5} : Keeps a (State.remoteWrite s x1 x2 x3 x4 x5).1 := by
  unfold State.remoteWrite
  iterate 24 all_goals (try first
    | with_reducible assumption
    | with_reducible apply State.addrErr_keeps
    | with_reducible apply State.send_keeps
    | (with_reducible apply State.each_keeps; intro _ _ _)
    | (with_reducible apply foldl_keeps)
    | (with_reducible apply foldl_fst_keeps)
    | with_reducible apply Keeps.ite
    | with_reducible apply Keeps.ite_fst
    | with_reducible apply Keeps.ite_snd
    | intro _
    | dsimp only
    | split
    | (refine Keeps.fst (by with_reducible assumption) ?_)
    | (refine Keeps.snd (by with_reducible assumption) ?_)
    | rfl
    | exact ⟨rfl, rfl⟩
    | exact ⟨rfl, rfl, rfl⟩
    | exact Memory.wf_clear (by assumption) _ _
    | exact Memory.wf_filter (by assumption) _
    | exact Memory.wf_writeBytes (by assumption) _ _
    | with_reducible apply Keeps.mk_all
    | assumption
    | simp_all [Run.ok])

theorem State.remoteRead_keeps {a s : State} (h : Keeps a s) {x1 x2 x3 x4 x5} : Keeps a (State.remoteRead s x1 x2 x3 x4 x5) := by
  unfold State.remoteRead
  iterate 24 all_goals (try first
    | with_reducible assumption
    | with_reducible apply State.modFab_keeps
    | with_reducible apply State.send_keeps
    | (with_reducible apply foldl_keeps)
    | (with_reducible apply foldl_fst_keeps)
    | with_reducible apply Keeps.ite
    | with_reducible apply Keeps.ite_fst
    | with_reducible apply Keeps.ite_snd
    | intro _
    | dsimp only
    | split
    | (refine Keeps.fst (by with_reducible assumption) ?_)
    | (refine Keeps.snd (by with_reducible assumption) ?_)
    | rfl
    | exact ⟨rfl, rfl⟩
    | exact ⟨rfl, rfl, rfl⟩
    | exact Memory.wf_clear (by assumption) _ _
    | exact Memory.wf_filter (by assumption) _
    | exact Memory.wf_writeBytes (by assumption) _ _
    | with_reducible apply Keeps.mk_all
    | assumption
    | simp_all [Run.ok])

theorem State.zeroFrame_keeps {a s : State} (h : Keeps a s) {x1 x2} : Keeps a (State.zeroFrame s x1 x2) := by
  unfold State.zeroFrame
  iterate 24 all_goals (try first
    | with_reducible assumption
    | (with_reducible apply foldl_keeps)
    | (with_reducible apply foldl_fst_keeps)
    | with_reducible apply Keeps.ite
    | with_reducible apply Keeps.ite_fst
    | with_reducible apply Keeps.ite_snd
    | intro _
    | dsimp only
    | split
    | (refine Keeps.fst (by with_reducible assumption) ?_)
    | (refine Keeps.snd (by with_reducible assumption) ?_)
    | rfl
    | exact ⟨rfl, rfl⟩
    | exact ⟨rfl, rfl, rfl⟩
    | exact Memory.wf_clear (by assumption) _ _
    | exact Memory.wf_filter (by assumption) _
    | exact Memory.wf_writeBytes (by assumption) _ _
    | with_reducible apply Keeps.mk_all
    | assumption
    | simp_all [Run.ok])

theorem State.arenaMoved_keeps {a s : State} (h : Keeps a s) {x1} : Keeps a (State.arenaMoved s x1) := by
  unfold State.arenaMoved
  iterate 24 all_goals (try first
    | with_reducible assumption
    | with_reducible apply State.modRun_keeps
    | (with_reducible apply foldl_keeps)
    | (with_reducible apply foldl_fst_keeps)
    | with_reducible apply Keeps.ite
    | with_reducible apply Keeps.ite_fst
    | with_reducible apply Keeps.ite_snd
    | intro _
    | dsimp only
    | split
    | (refine Keeps.fst (by with_reducible assumption) ?_)
    | (refine Keeps.snd (by with_reducible assumption) ?_)
    | rfl
    | exact ⟨rfl, rfl⟩
    | exact ⟨rfl, rfl, rfl⟩
    | exact Memory.wf_clear (by assumption) _ _
    | exact Memory.wf_filter (by assumption) _
    | exact Memory.wf_writeBytes (by assumption) _ _
    | with_reducible apply Keeps.mk_all
    | assumption
    | simp_all [Run.ok])

theorem State.actMark_keeps {a s : State} (h : Keeps a s) {x1} : Keeps a (State.actMark s x1) := by
  unfold State.actMark
  iterate 24 all_goals (try first
    | with_reducible assumption
    | with_reducible apply State.modRun_keeps
    | (with_reducible apply foldl_keeps)
    | (with_reducible apply foldl_fst_keeps)
    | with_reducible apply Keeps.ite
    | with_reducible apply Keeps.ite_fst
    | with_reducible apply Keeps.ite_snd
    | intro _
    | dsimp only
    | split
    | (refine Keeps.fst (by with_reducible assumption) ?_)
    | (refine Keeps.snd (by with_reducible assumption) ?_)
    | rfl
    | exact ⟨rfl, rfl⟩
    | exact ⟨rfl, rfl, rfl⟩
    | exact Memory.wf_clear (by assumption) _ _
    | exact Memory.wf_filter (by assumption) _
    | exact Memory.wf_writeBytes (by assumption) _ _
    | with_reducible apply Keeps.mk_all
    | assumption
    | simp_all [Run.ok])

theorem State.beginFill_keeps {a s : State} (h : Keeps a s) {x1 x2} : Keeps a (State.beginFill s x1 x2) := by
  unfold State.beginFill
  iterate 24 all_goals (try first
    | with_reducible assumption
    | with_reducible apply State.modArena_keeps
    | with_reducible apply State.actMark_keeps
    | (with_reducible apply foldl_keeps)
    | (with_reducible apply foldl_fst_keeps)
    | with_reducible apply Keeps.ite
    | with_reducible apply Keeps.ite_fst
    | with_reducible apply Keeps.ite_snd
    | intro _
    | dsimp only
    | split
    | (refine Keeps.fst (by with_reducible assumption) ?_)
    | (refine Keeps.snd (by with_reducible assumption) ?_)
    | rfl
    | exact ⟨rfl, rfl⟩
    | exact ⟨rfl, rfl, rfl⟩
    | exact Memory.wf_clear (by assumption) _ _
    | exact Memory.wf_filter (by assumption) _
    | exact Memory.wf_writeBytes (by assumption) _ _
    | with_reducible apply Keeps.mk_all
    | assumption
    | simp_all [Run.ok])

theorem State.arenaRead_keeps {a s : State} (h : Keeps a s) {x1 x2} : Keeps a (State.arenaRead s x1 x2).1 := by
  unfold State.arenaRead
  iterate 24 all_goals (try first
    | with_reducible assumption
    | with_reducible apply State.modArena_keeps
    | with_reducible apply State.beginFill_keeps
    | (with_reducible apply foldl_keeps)
    | (with_reducible apply foldl_fst_keeps)
    | with_reducible apply Keeps.ite
    | with_reducible apply Keeps.ite_fst
    | with_reducible apply Keeps.ite_snd
    | intro _
    | dsimp only
    | split
    | (refine Keeps.fst (by with_reducible assumption) ?_)
    | (refine Keeps.snd (by with_reducible assumption) ?_)
    | rfl
    | exact ⟨rfl, rfl⟩
    | exact ⟨rfl, rfl, rfl⟩
    | exact Memory.wf_clear (by assumption) _ _
    | exact Memory.wf_filter (by assumption) _
    | exact Memory.wf_writeBytes (by assumption) _ _
    | with_reducible apply Keeps.mk_all
    | assumption
    | simp_all [Run.ok])

theorem State.arenaWrite_keeps {a s : State} (h : Keeps a s) {x1 x2} : Keeps a (State.arenaWrite s x1 x2).1 := by
  unfold State.arenaWrite
  iterate 24 all_goals (try first
    | with_reducible assumption
    | with_reducible apply State.modArena_keeps
    | with_reducible apply State.zeroFrame_keeps
    | with_reducible apply State.actMark_keeps
    | with_reducible apply State.beginFill_keeps
    | (with_reducible apply foldl_keeps)
    | (with_reducible apply foldl_fst_keeps)
    | with_reducible apply Keeps.ite
    | with_reducible apply Keeps.ite_fst
    | with_reducible apply Keeps.ite_snd
    | intro _
    | dsimp only
    | split
    | (refine Keeps.fst (by with_reducible assumption) ?_)
    | (refine Keeps.snd (by with_reducible assumption) ?_)
    | rfl
    | exact ⟨rfl, rfl⟩
    | exact ⟨rfl, rfl, rfl⟩
    | exact Memory.wf_clear (by assumption) _ _
    | exact Memory.wf_filter (by assumption) _
    | exact Memory.wf_writeBytes (by assumption) _ _
    | with_reducible apply Keeps.mk_all
    | assumption
    | simp_all [Run.ok])

theorem State.frameErrors_keeps {a s : State} (h : Keeps a s) {x1 x2 x3} : Keeps a (State.frameErrors s x1 x2 x3) := by
  unfold State.frameErrors
  iterate 24 all_goals (try first
    | with_reducible assumption
    | with_reducible apply State.readEcc_keeps
    | (with_reducible apply State.each_keeps; intro _ _ _)
    | (with_reducible apply foldl_keeps)
    | (with_reducible apply foldl_fst_keeps)
    | with_reducible apply Keeps.ite
    | with_reducible apply Keeps.ite_fst
    | with_reducible apply Keeps.ite_snd
    | intro _
    | dsimp only
    | split
    | (refine Keeps.fst (by with_reducible assumption) ?_)
    | (refine Keeps.snd (by with_reducible assumption) ?_)
    | rfl
    | exact ⟨rfl, rfl⟩
    | exact ⟨rfl, rfl, rfl⟩
    | exact Memory.wf_clear (by assumption) _ _
    | exact Memory.wf_filter (by assumption) _
    | exact Memory.wf_writeBytes (by assumption) _ _
    | with_reducible apply Keeps.mk_all
    | assumption
    | simp_all [Run.ok])

theorem State.copyFrame_keeps {a s : State} (h : Keeps a s) {x1 x2 x3 x4 x5} : Keeps a (State.copyFrame s x1 x2 x3 x4 x5) := by
  unfold State.copyFrame
  iterate 24 all_goals (try first
    | with_reducible assumption
    | with_reducible apply State.store_keeps
    | with_reducible apply State.trySave_keeps
    | with_reducible apply State.markedPiece_keeps
    | with_reducible apply State.frameErrors_keeps
    | (with_reducible apply State.each_keeps; intro _ _ _)
    | (with_reducible apply foldl_keeps)
    | (with_reducible apply foldl_fst_keeps)
    | with_reducible apply Keeps.ite
    | with_reducible apply Keeps.ite_fst
    | with_reducible apply Keeps.ite_snd
    | intro _
    | dsimp only
    | split
    | (refine Keeps.fst (by with_reducible assumption) ?_)
    | (refine Keeps.snd (by with_reducible assumption) ?_)
    | rfl
    | exact ⟨rfl, rfl⟩
    | exact ⟨rfl, rfl, rfl⟩
    | exact Memory.wf_clear (by assumption) _ _
    | exact Memory.wf_filter (by assumption) _
    | exact Memory.wf_writeBytes (by assumption) _ _
    | with_reducible apply Keeps.mk_all
    | assumption
    | simp_all [Run.ok])

theorem State.landArena_keeps {a s : State} (h : Keeps a s) {x1 x2 x3 x4 x5} : Keeps a (State.landArena s x1 x2 x3 x4 x5) := by
  unfold State.landArena
  iterate 24 all_goals (try first
    | with_reducible assumption
    | with_reducible apply State.modArena_keeps
    | with_reducible apply State.store_keeps
    | with_reducible apply State.saveMarked_keeps
    | with_reducible apply State.markedPiece_keeps
    | (with_reducible refine State.takeUse_keeps ?_ (by with_reducible assumption))
    | (with_reducible apply foldl_keeps)
    | (with_reducible apply foldl_fst_keeps)
    | with_reducible apply Keeps.ite
    | with_reducible apply Keeps.ite_fst
    | with_reducible apply Keeps.ite_snd
    | intro _
    | dsimp only
    | split
    | (refine Keeps.fst (by with_reducible assumption) ?_)
    | (refine Keeps.snd (by with_reducible assumption) ?_)
    | rfl
    | exact ⟨rfl, rfl⟩
    | exact ⟨rfl, rfl, rfl⟩
    | exact Memory.wf_clear (by assumption) _ _
    | exact Memory.wf_filter (by assumption) _
    | exact Memory.wf_writeBytes (by assumption) _ _
    | with_reducible apply Keeps.mk_all
    | assumption
    | simp_all [Run.ok])

theorem State.askPages_keeps {a : State} {x1 x2 x3 : Nat} : ∀ {x4 : Nat} {s : State}, Keeps a s → Keeps a (State.askPages x1 x2 x3 x4 s)
  | 0, _, h => h
  | _ + 1, s, h => by
    unfold State.askPages
    split
    · split
      · exact h
      · exact State.askPages_keeps (State.remoteRead_keeps (State.modArena_keeps h))
    · exact h

theorem doArenaFill_keeps {a s : State} (h : Keeps a s) {x1 x2 x3 x4} : Keeps a (doArenaFill x1 x2 x3 x4 s) := by
  unfold doArenaFill
  iterate 24 all_goals (try first
    | with_reducible assumption
    | with_reducible apply State.modArena_keeps
    | with_reducible apply State.store_keeps
    | with_reducible apply State.addrErr_keeps
    | with_reducible apply State.arenaMoved_keeps
    | with_reducible apply State.copyFrame_keeps
    | with_reducible apply State.askPages_keeps
    | (with_reducible apply foldl_keeps)
    | (with_reducible apply foldl_fst_keeps)
    | with_reducible apply Keeps.ite
    | with_reducible apply Keeps.ite_fst
    | with_reducible apply Keeps.ite_snd
    | intro _
    | dsimp only
    | split
    | (refine Keeps.fst (by with_reducible assumption) ?_)
    | (refine Keeps.snd (by with_reducible assumption) ?_)
    | rfl
    | exact ⟨rfl, rfl⟩
    | exact ⟨rfl, rfl, rfl⟩
    | exact Memory.wf_clear (by assumption) _ _
    | exact Memory.wf_filter (by assumption) _
    | exact Memory.wf_writeBytes (by assumption) _ _
    | with_reducible apply Keeps.mk_all
    | assumption
    | simp_all [Run.ok])

theorem execArenaFill_keeps {s t : State} {x1 x2} (e : execArenaFill x1 x2 s = .next t) : Keeps s t := by
  refine answer_keeps e ?_
  have h := Keeps.refl s
  iterate 24 all_goals (try first
    | with_reducible assumption
    | with_reducible apply doArenaFill_keeps
    | (with_reducible apply foldl_keeps)
    | (with_reducible apply foldl_fst_keeps)
    | with_reducible apply Keeps.ite
    | with_reducible apply Keeps.ite_fst
    | with_reducible apply Keeps.ite_snd
    | intro _
    | dsimp only
    | split
    | (refine Keeps.fst (by with_reducible assumption) ?_)
    | (refine Keeps.snd (by with_reducible assumption) ?_)
    | rfl
    | exact ⟨rfl, rfl⟩
    | exact ⟨rfl, rfl, rfl⟩
    | exact Memory.wf_clear (by assumption) _ _
    | exact Memory.wf_filter (by assumption) _
    | exact Memory.wf_writeBytes (by assumption) _ _
    | with_reducible apply Keeps.mk_all
    | assumption
    | simp_all [Run.ok])

theorem State.pageOut_keeps {a s : State} (h : Keeps a s) {x1 x2 x3 x4 x5} : Keeps a (State.pageOut s x1 x2 x3 x4 x5) := by
  unfold State.pageOut
  iterate 24 all_goals (try first
    | with_reducible assumption
    | with_reducible apply State.modArena_keeps
    | with_reducible apply State.remoteWrite_keeps
    | (with_reducible apply foldl_keeps)
    | (with_reducible apply foldl_fst_keeps)
    | with_reducible apply Keeps.ite
    | with_reducible apply Keeps.ite_fst
    | with_reducible apply Keeps.ite_snd
    | intro _
    | dsimp only
    | split
    | (refine Keeps.fst (by with_reducible assumption) ?_)
    | (refine Keeps.snd (by with_reducible assumption) ?_)
    | rfl
    | exact ⟨rfl, rfl⟩
    | exact ⟨rfl, rfl, rfl⟩
    | exact Memory.wf_clear (by assumption) _ _
    | exact Memory.wf_filter (by assumption) _
    | exact Memory.wf_writeBytes (by assumption) _ _
    | with_reducible apply Keeps.mk_all
    | assumption
    | simp_all [Run.ok])

theorem State.pageMark_keeps {a s : State} (h : Keeps a s) {x1 x2} : Keeps a (State.pageMark s x1 x2) := by
  unfold State.pageMark
  iterate 24 all_goals (try first
    | with_reducible assumption
    | with_reducible apply State.markedPiece_keeps
    | (with_reducible apply foldl_keeps)
    | (with_reducible apply foldl_fst_keeps)
    | with_reducible apply Keeps.ite
    | with_reducible apply Keeps.ite_fst
    | with_reducible apply Keeps.ite_snd
    | intro _
    | dsimp only
    | split
    | (refine Keeps.fst (by with_reducible assumption) ?_)
    | (refine Keeps.snd (by with_reducible assumption) ?_)
    | rfl
    | exact ⟨rfl, rfl⟩
    | exact ⟨rfl, rfl, rfl⟩
    | exact Memory.wf_clear (by assumption) _ _
    | exact Memory.wf_filter (by assumption) _
    | exact Memory.wf_writeBytes (by assumption) _ _
    | with_reducible apply Keeps.mk_all
    | assumption
    | simp_all [Run.ok])

theorem State.keyWait_keeps {a s : State} (h : Keeps a s) {x1 x2} : Keeps a (State.keyWait s x1 x2) := by
  unfold State.keyWait
  iterate 24 all_goals (try first
    | with_reducible assumption
    | with_reducible apply State.modArena_keeps
    | (with_reducible apply foldl_keeps)
    | (with_reducible apply foldl_fst_keeps)
    | with_reducible apply Keeps.ite
    | with_reducible apply Keeps.ite_fst
    | with_reducible apply Keeps.ite_snd
    | intro _
    | dsimp only
    | split
    | (refine Keeps.fst (by with_reducible assumption) ?_)
    | (refine Keeps.snd (by with_reducible assumption) ?_)
    | rfl
    | exact ⟨rfl, rfl⟩
    | exact ⟨rfl, rfl, rfl⟩
    | exact Memory.wf_clear (by assumption) _ _
    | exact Memory.wf_filter (by assumption) _
    | exact Memory.wf_writeBytes (by assumption) _ _
    | with_reducible apply Keeps.mk_all
    | assumption
    | simp_all [Run.ok])

theorem State.changeKey_keeps {a s : State} (h : Keeps a s) {x1 x2} : Keeps a (State.changeKey s x1 x2) := by
  unfold State.changeKey
  iterate 24 all_goals (try first
    | with_reducible assumption
    | with_reducible apply State.modArena_keeps
    | with_reducible apply State.keyWait_keeps
    | (with_reducible apply foldl_keeps)
    | (with_reducible apply foldl_fst_keeps)
    | with_reducible apply Keeps.ite
    | with_reducible apply Keeps.ite_fst
    | with_reducible apply Keeps.ite_snd
    | intro _
    | dsimp only
    | split
    | (refine Keeps.fst (by with_reducible assumption) ?_)
    | (refine Keeps.snd (by with_reducible assumption) ?_)
    | rfl
    | exact ⟨rfl, rfl⟩
    | exact ⟨rfl, rfl, rfl⟩
    | exact Memory.wf_clear (by assumption) _ _
    | exact Memory.wf_filter (by assumption) _
    | exact Memory.wf_writeBytes (by assumption) _ _
    | with_reducible apply Keeps.mk_all
    | assumption
    | simp_all [Run.ok])

theorem State.pageSealed_keeps {a s : State} (h : Keeps a s) {x1 x2 x3 x4 x5} : Keeps a (State.pageSealed s x1 x2 x3 x4 x5) := by
  unfold State.pageSealed
  iterate 24 all_goals (try first
    | with_reducible assumption
    | with_reducible apply State.modArena_keeps
    | (with_reducible refine State.takeUse_keeps ?_ (by with_reducible assumption))
    | with_reducible apply State.pageOut_keeps
    | with_reducible apply State.changeKey_keeps
    | (with_reducible apply foldl_keeps)
    | (with_reducible apply foldl_fst_keeps)
    | with_reducible apply Keeps.ite
    | with_reducible apply Keeps.ite_fst
    | with_reducible apply Keeps.ite_snd
    | intro _
    | dsimp only
    | split
    | (refine Keeps.fst (by with_reducible assumption) ?_)
    | (refine Keeps.snd (by with_reducible assumption) ?_)
    | rfl
    | exact ⟨rfl, rfl⟩
    | exact ⟨rfl, rfl, rfl⟩
    | exact Memory.wf_clear (by assumption) _ _
    | exact Memory.wf_filter (by assumption) _
    | exact Memory.wf_writeBytes (by assumption) _ _
    | with_reducible apply Keeps.mk_all
    | assumption
    | simp_all [Run.ok])

theorem State.sendPage_keeps {a s : State} (h : Keeps a s) {x1 x2} : Keeps a (State.sendPage s x1 x2) := by
  unfold State.sendPage
  iterate 24 all_goals (try first
    | with_reducible assumption
    | with_reducible apply State.pageOut_keeps
    | with_reducible apply State.pageMark_keeps
    | with_reducible apply State.pageSealed_keeps
    | (with_reducible apply foldl_keeps)
    | (with_reducible apply foldl_fst_keeps)
    | with_reducible apply Keeps.ite
    | with_reducible apply Keeps.ite_fst
    | with_reducible apply Keeps.ite_snd
    | intro _
    | dsimp only
    | split
    | (refine Keeps.fst (by with_reducible assumption) ?_)
    | (refine Keeps.snd (by with_reducible assumption) ?_)
    | rfl
    | exact ⟨rfl, rfl⟩
    | exact ⟨rfl, rfl, rfl⟩
    | exact Memory.wf_clear (by assumption) _ _
    | exact Memory.wf_filter (by assumption) _
    | exact Memory.wf_writeBytes (by assumption) _ _
    | with_reducible apply Keeps.mk_all
    | assumption
    | simp_all [Run.ok])

theorem State.sendPages_keeps {a s : State} (h : Keeps a s) {x1 x2} : Keeps a (State.sendPages s x1 x2) := by
  unfold State.sendPages
  iterate 24 all_goals (try first
    | with_reducible assumption
    | with_reducible apply State.sendPage_keeps
    | (with_reducible apply State.each_keeps; intro _ _ _)
    | (with_reducible apply foldl_keeps)
    | (with_reducible apply foldl_fst_keeps)
    | with_reducible apply Keeps.ite
    | with_reducible apply Keeps.ite_fst
    | with_reducible apply Keeps.ite_snd
    | intro _
    | dsimp only
    | split
    | (refine Keeps.fst (by with_reducible assumption) ?_)
    | (refine Keeps.snd (by with_reducible assumption) ?_)
    | rfl
    | exact ⟨rfl, rfl⟩
    | exact ⟨rfl, rfl, rfl⟩
    | exact Memory.wf_clear (by assumption) _ _
    | exact Memory.wf_filter (by assumption) _
    | exact Memory.wf_writeBytes (by assumption) _ _
    | with_reducible apply Keeps.mk_all
    | assumption
    | simp_all [Run.ok])

theorem State.writeBack_keeps {a s : State} (h : Keeps a s) {x1 x2 x3 x4} : Keeps a (State.writeBack s x1 x2 x3 x4) := by
  unfold State.writeBack
  iterate 24 all_goals (try first
    | with_reducible assumption
    | with_reducible apply State.modArena_keeps
    | with_reducible apply State.addrErr_keeps
    | with_reducible apply State.arenaMoved_keeps
    | with_reducible apply State.frameErrors_keeps
    | with_reducible apply State.copyFrame_keeps
    | with_reducible apply State.keyWait_keeps
    | with_reducible apply State.sendPages_keeps
    | (with_reducible apply foldl_keeps)
    | (with_reducible apply foldl_fst_keeps)
    | with_reducible apply Keeps.ite
    | with_reducible apply Keeps.ite_fst
    | with_reducible apply Keeps.ite_snd
    | intro _
    | dsimp only
    | split
    | (refine Keeps.fst (by with_reducible assumption) ?_)
    | (refine Keeps.snd (by with_reducible assumption) ?_)
    | rfl
    | exact ⟨rfl, rfl⟩
    | exact ⟨rfl, rfl, rfl⟩
    | exact Memory.wf_clear (by assumption) _ _
    | exact Memory.wf_filter (by assumption) _
    | exact Memory.wf_writeBytes (by assumption) _ _
    | with_reducible apply Keeps.mk_all
    | assumption
    | simp_all [Run.ok])

theorem doArenaWriteback_keeps {a s : State} (h : Keeps a s) {x1 x2 x3} : Keeps a (doArenaWriteback x1 x2 x3 s) := by
  unfold doArenaWriteback
  iterate 24 all_goals (try first
    | with_reducible assumption
    | with_reducible apply State.modArena_keeps
    | with_reducible apply State.arenaMoved_keeps
    | with_reducible apply State.sendPages_keeps
    | with_reducible apply State.writeBack_keeps
    | (with_reducible apply foldl_keeps)
    | (with_reducible apply foldl_fst_keeps)
    | with_reducible apply Keeps.ite
    | with_reducible apply Keeps.ite_fst
    | with_reducible apply Keeps.ite_snd
    | intro _
    | dsimp only
    | split
    | (refine Keeps.fst (by with_reducible assumption) ?_)
    | (refine Keeps.snd (by with_reducible assumption) ?_)
    | rfl
    | exact ⟨rfl, rfl⟩
    | exact ⟨rfl, rfl, rfl⟩
    | exact Memory.wf_clear (by assumption) _ _
    | exact Memory.wf_filter (by assumption) _
    | exact Memory.wf_writeBytes (by assumption) _ _
    | with_reducible apply Keeps.mk_all
    | assumption
    | simp_all [Run.ok])

theorem execArenaWriteback_keeps {s t : State} {x1} (e : execArenaWriteback x1 s = .next t) : Keeps s t := by
  refine answer_keeps e ?_
  have h := Keeps.refl s
  iterate 24 all_goals (try first
    | with_reducible assumption
    | with_reducible apply doArenaWriteback_keeps
    | (with_reducible apply foldl_keeps)
    | (with_reducible apply foldl_fst_keeps)
    | with_reducible apply Keeps.ite
    | with_reducible apply Keeps.ite_fst
    | with_reducible apply Keeps.ite_snd
    | intro _
    | dsimp only
    | split
    | (refine Keeps.fst (by with_reducible assumption) ?_)
    | (refine Keeps.snd (by with_reducible assumption) ?_)
    | rfl
    | exact ⟨rfl, rfl⟩
    | exact ⟨rfl, rfl, rfl⟩
    | exact Memory.wf_clear (by assumption) _ _
    | exact Memory.wf_filter (by assumption) _
    | exact Memory.wf_writeBytes (by assumption) _ _
    | with_reducible apply Keeps.mk_all
    | assumption
    | simp_all [Run.ok])

theorem doArenaStall_keeps {a s : State} (h : Keeps a s) {x1} : Keeps a (doArenaStall x1 s) := by
  unfold doArenaStall
  iterate 24 all_goals (try first
    | with_reducible assumption
    | with_reducible apply State.modArena_keeps
    | with_reducible apply State.raise_keeps
    | (with_reducible apply foldl_keeps)
    | (with_reducible apply foldl_fst_keeps)
    | with_reducible apply Keeps.ite
    | with_reducible apply Keeps.ite_fst
    | with_reducible apply Keeps.ite_snd
    | intro _
    | dsimp only
    | split
    | (refine Keeps.fst (by with_reducible assumption) ?_)
    | (refine Keeps.snd (by with_reducible assumption) ?_)
    | rfl
    | exact ⟨rfl, rfl⟩
    | exact ⟨rfl, rfl, rfl⟩
    | exact Memory.wf_clear (by assumption) _ _
    | exact Memory.wf_filter (by assumption) _
    | exact Memory.wf_writeBytes (by assumption) _ _
    | with_reducible apply Keeps.mk_all
    | assumption
    | simp_all [Run.ok])

theorem execArenaStall_keeps {s t : State} {x1} (e : execArenaStall x1 s = .next t) : Keeps s t := by
  refine answer_keeps e ?_
  have h := Keeps.refl s
  iterate 24 all_goals (try first
    | with_reducible assumption
    | with_reducible apply doArenaStall_keeps
    | (with_reducible apply foldl_keeps)
    | (with_reducible apply foldl_fst_keeps)
    | with_reducible apply Keeps.ite
    | with_reducible apply Keeps.ite_fst
    | with_reducible apply Keeps.ite_snd
    | intro _
    | dsimp only
    | split
    | (refine Keeps.fst (by with_reducible assumption) ?_)
    | (refine Keeps.snd (by with_reducible assumption) ?_)
    | rfl
    | exact ⟨rfl, rfl⟩
    | exact ⟨rfl, rfl, rfl⟩
    | exact Memory.wf_clear (by assumption) _ _
    | exact Memory.wf_filter (by assumption) _
    | exact Memory.wf_writeBytes (by assumption) _ _
    | with_reducible apply Keeps.mk_all
    | assumption
    | simp_all [Run.ok])

theorem State.arenaBoundary_keeps {a s : State} (h : Keeps a s) {x1} : Keeps a (State.arenaBoundary s x1) := by
  unfold State.arenaBoundary
  iterate 24 all_goals (try first
    | with_reducible assumption
    | with_reducible apply State.modArena_keeps
    | with_reducible apply State.notice_keeps
    | (with_reducible apply foldl_keeps)
    | (with_reducible apply foldl_fst_keeps)
    | with_reducible apply Keeps.ite
    | with_reducible apply Keeps.ite_fst
    | with_reducible apply Keeps.ite_snd
    | intro _
    | dsimp only
    | split
    | (refine Keeps.fst (by with_reducible assumption) ?_)
    | (refine Keeps.snd (by with_reducible assumption) ?_)
    | rfl
    | exact ⟨rfl, rfl⟩
    | exact ⟨rfl, rfl, rfl⟩
    | exact Memory.wf_clear (by assumption) _ _
    | exact Memory.wf_filter (by assumption) _
    | exact Memory.wf_writeBytes (by assumption) _ _
    | with_reducible apply Keeps.mk_all
    | assumption
    | simp_all [Run.ok])

theorem runErrors_keeps {a s : State} (h : Keeps a s) {x1 x2 x3 x4 x5} : Keeps a (runErrors x1 x2 x3 x4 x5 s) := by
  unfold runErrors
  iterate 24 all_goals (try first
    | with_reducible assumption
    | with_reducible apply State.raise_keeps
    | with_reducible apply State.raiseMem_keeps
    | (with_reducible apply State.each_keeps; intro _ _ _)
    | (with_reducible apply foldl_keeps)
    | (with_reducible apply foldl_fst_keeps)
    | with_reducible apply Keeps.ite
    | with_reducible apply Keeps.ite_fst
    | with_reducible apply Keeps.ite_snd
    | intro _
    | dsimp only
    | split
    | (refine Keeps.fst (by with_reducible assumption) ?_)
    | (refine Keeps.snd (by with_reducible assumption) ?_)
    | rfl
    | exact ⟨rfl, rfl⟩
    | exact ⟨rfl, rfl, rfl⟩
    | exact Memory.wf_clear (by assumption) _ _
    | exact Memory.wf_filter (by assumption) _
    | exact Memory.wf_writeBytes (by assumption) _ _
    | with_reducible apply Keeps.mk_all
    | assumption
    | simp_all [Run.ok])

theorem State.stopStream_keeps {a s : State} (h : Keeps a s) {x1 x2} : Keeps a (State.stopStream s x1 x2) := by
  unfold State.stopStream
  iterate 24 all_goals (try first
    | with_reducible assumption
    | with_reducible apply State.modRun_keeps
    | (with_reducible apply foldl_keeps)
    | (with_reducible apply foldl_fst_keeps)
    | with_reducible apply Keeps.ite
    | with_reducible apply Keeps.ite_fst
    | with_reducible apply Keeps.ite_snd
    | intro _
    | dsimp only
    | split
    | (refine Keeps.fst (by with_reducible assumption) ?_)
    | (refine Keeps.snd (by with_reducible assumption) ?_)
    | rfl
    | exact ⟨rfl, rfl⟩
    | exact ⟨rfl, rfl, rfl⟩
    | exact Memory.wf_clear (by assumption) _ _
    | exact Memory.wf_filter (by assumption) _
    | exact Memory.wf_writeBytes (by assumption) _ _
    | with_reducible apply Keeps.mk_all
    | assumption
    | simp_all [Run.ok])

theorem doTemperProgramLoad_keeps {a s : State} (h : Keeps a s) {x1 x2 x3} : Keeps a (doTemperProgramLoad x1 x2 x3 s) := by
  unfold doTemperProgramLoad
  iterate 24 all_goals (try first
    | with_reducible assumption
    | with_reducible apply State.modTemper_keeps
    | with_reducible apply State.raise_keeps
    | with_reducible apply State.addrErr_keeps
    | with_reducible apply State.meet_keeps
    | with_reducible apply State.stopStream_keeps
    | (with_reducible apply foldl_keeps)
    | (with_reducible apply foldl_fst_keeps)
    | with_reducible apply Keeps.ite
    | with_reducible apply Keeps.ite_fst
    | with_reducible apply Keeps.ite_snd
    | intro _
    | dsimp only
    | split
    | (refine Keeps.fst (by with_reducible assumption) ?_)
    | (refine Keeps.snd (by with_reducible assumption) ?_)
    | rfl
    | exact ⟨rfl, rfl⟩
    | exact ⟨rfl, rfl, rfl⟩
    | exact Memory.wf_clear (by assumption) _ _
    | exact Memory.wf_filter (by assumption) _
    | exact Memory.wf_writeBytes (by assumption) _ _
    | with_reducible apply Keeps.mk_all
    | assumption
    | simp_all [Run.ok])

theorem execTemperProgramLoad_keeps {s t : State} {x1 x2} (e : execTemperProgramLoad x1 x2 s = .next t) : Keeps s t := by
  refine answer_keeps e ?_
  have h := Keeps.refl s
  iterate 24 all_goals (try first
    | with_reducible assumption
    | with_reducible apply doTemperProgramLoad_keeps
    | (with_reducible apply foldl_keeps)
    | (with_reducible apply foldl_fst_keeps)
    | with_reducible apply Keeps.ite
    | with_reducible apply Keeps.ite_fst
    | with_reducible apply Keeps.ite_snd
    | intro _
    | dsimp only
    | split
    | (refine Keeps.fst (by with_reducible assumption) ?_)
    | (refine Keeps.snd (by with_reducible assumption) ?_)
    | rfl
    | exact ⟨rfl, rfl⟩
    | exact ⟨rfl, rfl, rfl⟩
    | exact Memory.wf_clear (by assumption) _ _
    | exact Memory.wf_filter (by assumption) _
    | exact Memory.wf_writeBytes (by assumption) _ _
    | with_reducible apply Keeps.mk_all
    | assumption
    | simp_all [Run.ok])

theorem doTemperInputLoad_keeps {a s : State} (h : Keeps a s) {x1 x2 x3 x4 x5} : Keeps a (doTemperInputLoad x1 x2 x3 x4 x5 s) := by
  unfold doTemperInputLoad
  iterate 24 all_goals (try first
    | with_reducible assumption
    | with_reducible apply State.modHearth_keeps
    | with_reducible apply State.modTemper_keeps
    | with_reducible apply State.addRbw_keeps
    | with_reducible apply State.raiseMem_keeps
    | with_reducible apply sramErrors_keeps
    | with_reducible apply splitCopies_keeps
    | (with_reducible apply State.each_keeps; intro _ _ _)
    | (with_reducible apply foldl_keeps)
    | (with_reducible apply foldl_fst_keeps)
    | with_reducible apply Keeps.ite
    | with_reducible apply Keeps.ite_fst
    | with_reducible apply Keeps.ite_snd
    | intro _
    | dsimp only
    | split
    | (refine Keeps.fst (by with_reducible assumption) ?_)
    | (refine Keeps.snd (by with_reducible assumption) ?_)
    | rfl
    | exact ⟨rfl, rfl⟩
    | exact ⟨rfl, rfl, rfl⟩
    | exact Memory.wf_clear (by assumption) _ _
    | exact Memory.wf_filter (by assumption) _
    | exact Memory.wf_writeBytes (by assumption) _ _
    | with_reducible apply Keeps.mk_all
    | assumption
    | simp_all [Run.ok])

theorem execTemperInputLoad_keeps {s t : State} {x1 x2 x3 x4 x5} (e : execTemperInputLoad x1 x2 x3 x4 x5 s = .next t) : Keeps s t := by
  refine answer_keeps e ?_
  have h := Keeps.refl s
  iterate 24 all_goals (try first
    | with_reducible assumption
    | with_reducible apply doTemperInputLoad_keeps
    | (with_reducible apply foldl_keeps)
    | (with_reducible apply foldl_fst_keeps)
    | with_reducible apply Keeps.ite
    | with_reducible apply Keeps.ite_fst
    | with_reducible apply Keeps.ite_snd
    | intro _
    | dsimp only
    | split
    | (refine Keeps.fst (by with_reducible assumption) ?_)
    | (refine Keeps.snd (by with_reducible assumption) ?_)
    | rfl
    | exact ⟨rfl, rfl⟩
    | exact ⟨rfl, rfl, rfl⟩
    | exact Memory.wf_clear (by assumption) _ _
    | exact Memory.wf_filter (by assumption) _
    | exact Memory.wf_writeBytes (by assumption) _ _
    | with_reducible apply Keeps.mk_all
    | assumption
    | simp_all [Run.ok])

theorem applyRun_keeps {a s : State} (h : Keeps a s) {x1 x2 x3 x4 x5 x6} : Keeps a (applyRun x1 x2 x3 x4 x5 x6 s) := by
  unfold applyRun
  iterate 24 all_goals (try first
    | with_reducible assumption
    | with_reducible apply State.modRun_keeps
    | with_reducible apply State.modTemper_keeps
    | with_reducible apply State.saveMarked_keeps
    | with_reducible apply State.raise_keeps
    | with_reducible apply State.sample_keeps
    | (with_reducible apply State.each_keeps; intro _ _ _)
    | (with_reducible apply foldl_keeps)
    | (with_reducible apply foldl_fst_keeps)
    | with_reducible apply Keeps.ite
    | with_reducible apply Keeps.ite_fst
    | with_reducible apply Keeps.ite_snd
    | intro _
    | dsimp only
    | split
    | (refine Keeps.fst (by with_reducible assumption) ?_)
    | (refine Keeps.snd (by with_reducible assumption) ?_)
    | rfl
    | exact ⟨rfl, rfl⟩
    | exact ⟨rfl, rfl, rfl⟩
    | exact Memory.wf_clear (by assumption) _ _
    | exact Memory.wf_filter (by assumption) _
    | exact Memory.wf_writeBytes (by assumption) _ _
    | with_reducible apply Keeps.mk_all
    | assumption
    | simp_all [Run.ok])

theorem doTemperRun_keeps {a s : State} (h : Keeps a s) {x1 x2 x3 x4} : Keeps a (doTemperRun x1 x2 x3 x4 s) := by
  unfold doTemperRun
  iterate 24 all_goals (try first
    | with_reducible assumption
    | with_reducible apply runErrors_keeps
    | with_reducible apply applyRun_keeps
    | (with_reducible apply foldl_keeps)
    | (with_reducible apply foldl_fst_keeps)
    | with_reducible apply Keeps.ite
    | with_reducible apply Keeps.ite_fst
    | with_reducible apply Keeps.ite_snd
    | intro _
    | dsimp only
    | split
    | (refine Keeps.fst (by with_reducible assumption) ?_)
    | (refine Keeps.snd (by with_reducible assumption) ?_)
    | rfl
    | exact ⟨rfl, rfl⟩
    | exact ⟨rfl, rfl, rfl⟩
    | exact Memory.wf_clear (by assumption) _ _
    | exact Memory.wf_filter (by assumption) _
    | exact Memory.wf_writeBytes (by assumption) _ _
    | with_reducible apply Keeps.mk_all
    | assumption
    | simp_all [Run.ok])

theorem execTemperRun_keeps {s t : State} {x1 x2 x3 x4} (e : execTemperRun x1 x2 x3 x4 s = .next t) : Keeps s t := by
  refine answer_keeps e ?_
  have h := Keeps.refl s
  iterate 24 all_goals (try first
    | with_reducible assumption
    | with_reducible apply doTemperRun_keeps
    | (with_reducible apply foldl_keeps)
    | (with_reducible apply foldl_fst_keeps)
    | with_reducible apply Keeps.ite
    | with_reducible apply Keeps.ite_fst
    | with_reducible apply Keeps.ite_snd
    | intro _
    | dsimp only
    | split
    | (refine Keeps.fst (by with_reducible assumption) ?_)
    | (refine Keeps.snd (by with_reducible assumption) ?_)
    | rfl
    | exact ⟨rfl, rfl⟩
    | exact ⟨rfl, rfl, rfl⟩
    | exact Memory.wf_clear (by assumption) _ _
    | exact Memory.wf_filter (by assumption) _
    | exact Memory.wf_writeBytes (by assumption) _ _
    | with_reducible apply Keeps.mk_all
    | assumption
    | simp_all [Run.ok])

theorem doTemperStarve_keeps {a s : State} (h : Keeps a s) {x1 x2} : Keeps a (doTemperStarve x1 x2 s) := by
  unfold doTemperStarve
  iterate 24 all_goals (try first
    | with_reducible assumption
    | with_reducible apply State.modTemper_keeps
    | with_reducible apply State.raise_keeps
    | (with_reducible apply foldl_keeps)
    | (with_reducible apply foldl_fst_keeps)
    | with_reducible apply Keeps.ite
    | with_reducible apply Keeps.ite_fst
    | with_reducible apply Keeps.ite_snd
    | intro _
    | dsimp only
    | split
    | (refine Keeps.fst (by with_reducible assumption) ?_)
    | (refine Keeps.snd (by with_reducible assumption) ?_)
    | rfl
    | exact ⟨rfl, rfl⟩
    | exact ⟨rfl, rfl, rfl⟩
    | exact Memory.wf_clear (by assumption) _ _
    | exact Memory.wf_filter (by assumption) _
    | exact Memory.wf_writeBytes (by assumption) _ _
    | with_reducible apply Keeps.mk_all
    | assumption
    | simp_all [Run.ok])

theorem execTemperStarve_keeps {s t : State} {x1 x2} (e : execTemperStarve x1 x2 s = .next t) : Keeps s t := by
  refine answer_keeps e ?_
  have h := Keeps.refl s
  iterate 24 all_goals (try first
    | with_reducible assumption
    | with_reducible apply doTemperStarve_keeps
    | (with_reducible apply foldl_keeps)
    | (with_reducible apply foldl_fst_keeps)
    | with_reducible apply Keeps.ite
    | with_reducible apply Keeps.ite_fst
    | with_reducible apply Keeps.ite_snd
    | intro _
    | dsimp only
    | split
    | (refine Keeps.fst (by with_reducible assumption) ?_)
    | (refine Keeps.snd (by with_reducible assumption) ?_)
    | rfl
    | exact ⟨rfl, rfl⟩
    | exact ⟨rfl, rfl, rfl⟩
    | exact Memory.wf_clear (by assumption) _ _
    | exact Memory.wf_filter (by assumption) _
    | exact Memory.wf_writeBytes (by assumption) _ _
    | with_reducible apply Keeps.mk_all
    | assumption
    | simp_all [Run.ok])

theorem State.tongsPlace_keeps {a s : State} (h : Keeps a s) {x1 x2 x3 x4 x5} : Keeps a (State.tongsPlace s x1 x2 x3 x4 x5) := by
  unfold State.tongsPlace
  iterate 24 all_goals (try first
    | with_reducible assumption
    | with_reducible apply State.modTongs_keeps
    | (with_reducible apply State.each_keeps; intro _ _ _)
    | (with_reducible apply foldl_keeps)
    | (with_reducible apply foldl_fst_keeps)
    | with_reducible apply Keeps.ite
    | with_reducible apply Keeps.ite_fst
    | with_reducible apply Keeps.ite_snd
    | intro _
    | dsimp only
    | split
    | (refine Keeps.fst (by with_reducible assumption) ?_)
    | (refine Keeps.snd (by with_reducible assumption) ?_)
    | rfl
    | exact ⟨rfl, rfl⟩
    | exact ⟨rfl, rfl, rfl⟩
    | exact Memory.wf_clear (by assumption) _ _
    | exact Memory.wf_filter (by assumption) _
    | exact Memory.wf_writeBytes (by assumption) _ _
    | with_reducible apply Keeps.mk_all
    | assumption
    | simp_all [Run.ok])

theorem State.readEnd_keeps {a s : State} (h : Keeps a s) {x1 x2 x3 x4 x5} : Keeps a (State.readEnd s x1 x2 x3 x4 x5).1 := by
  unfold State.readEnd
  iterate 24 all_goals (try first
    | with_reducible assumption
    | with_reducible apply State.addRbw_keeps
    | with_reducible apply State.addrErr_keeps
    | with_reducible apply State.markedPiece_keeps
    | with_reducible apply State.readEcc_keeps
    | with_reducible apply State.arenaRead_keeps
    | (with_reducible apply foldl_keeps)
    | (with_reducible apply foldl_fst_keeps)
    | with_reducible apply Keeps.ite
    | with_reducible apply Keeps.ite_fst
    | with_reducible apply Keeps.ite_snd
    | intro _
    | dsimp only
    | split
    | (refine Keeps.fst (by with_reducible assumption) ?_)
    | (refine Keeps.snd (by with_reducible assumption) ?_)
    | rfl
    | exact ⟨rfl, rfl⟩
    | exact ⟨rfl, rfl, rfl⟩
    | exact Memory.wf_clear (by assumption) _ _
    | exact Memory.wf_filter (by assumption) _
    | exact Memory.wf_writeBytes (by assumption) _ _
    | with_reducible apply Keeps.mk_all
    | assumption
    | simp_all [Run.ok])

theorem State.writeEnd_keeps {a s : State} (h : Keeps a s) {x1 x2 x3 x4} : Keeps a (State.writeEnd s x1 x2 x3 x4).1 := by
  unfold State.writeEnd
  iterate 24 all_goals (try first
    | with_reducible assumption
    | with_reducible apply State.saveMarked_keeps
    | with_reducible apply State.addrErr_keeps
    | with_reducible apply State.arenaWrite_keeps
    | (with_reducible apply foldl_keeps)
    | (with_reducible apply foldl_fst_keeps)
    | with_reducible apply Keeps.ite
    | with_reducible apply Keeps.ite_fst
    | with_reducible apply Keeps.ite_snd
    | intro _
    | dsimp only
    | split
    | (refine Keeps.fst (by with_reducible assumption) ?_)
    | (refine Keeps.snd (by with_reducible assumption) ?_)
    | rfl
    | exact ⟨rfl, rfl⟩
    | exact ⟨rfl, rfl, rfl⟩
    | exact Memory.wf_clear (by assumption) _ _
    | exact Memory.wf_filter (by assumption) _
    | exact Memory.wf_writeBytes (by assumption) _ _
    | with_reducible apply Keeps.mk_all
    | assumption
    | simp_all [Run.ok])

theorem State.convertPiece_keeps {a s : State} (h : Keeps a s) {x1 x2 x3 x4 x5 x6 x7} : Keeps a (State.convertPiece s x1 x2 x3 x4 x5 x6 x7).1 := by
  unfold State.convertPiece
  iterate 24 all_goals (try first
    | with_reducible assumption
    | with_reducible apply State.modRun_keeps
    | with_reducible apply State.sample_keeps
    | (with_reducible apply foldl_keeps)
    | (with_reducible apply foldl_fst_keeps)
    | with_reducible apply Keeps.ite
    | with_reducible apply Keeps.ite_fst
    | with_reducible apply Keeps.ite_snd
    | intro _
    | dsimp only
    | split
    | (refine Keeps.fst (by with_reducible assumption) ?_)
    | (refine Keeps.snd (by with_reducible assumption) ?_)
    | rfl
    | exact ⟨rfl, rfl⟩
    | exact ⟨rfl, rfl, rfl⟩
    | exact Memory.wf_clear (by assumption) _ _
    | exact Memory.wf_filter (by assumption) _
    | exact Memory.wf_writeBytes (by assumption) _ _
    | with_reducible apply Keeps.mk_all
    | assumption
    | simp_all [Run.ok])

theorem State.modEnt_keeps {a s : State} (h : Keeps a s) {x1 x2 x3 x4 x5} : Keeps a (State.modEnt s x1 x2 x3 x4 x5) := by
  unfold State.modEnt
  iterate 24 all_goals (try first
    | with_reducible assumption
    | with_reducible apply State.modTongs_keeps
    | (with_reducible apply foldl_keeps)
    | (with_reducible apply foldl_fst_keeps)
    | with_reducible apply Keeps.ite
    | with_reducible apply Keeps.ite_fst
    | with_reducible apply Keeps.ite_snd
    | intro _
    | dsimp only
    | split
    | (refine Keeps.fst (by with_reducible assumption) ?_)
    | (refine Keeps.snd (by with_reducible assumption) ?_)
    | rfl
    | exact ⟨rfl, rfl⟩
    | exact ⟨rfl, rfl, rfl⟩
    | exact Memory.wf_clear (by assumption) _ _
    | exact Memory.wf_filter (by assumption) _
    | exact Memory.wf_writeBytes (by assumption) _ _
    | with_reducible apply Keeps.mk_all
    | assumption
    | simp_all [Run.ok])

theorem State.framePiece_keeps {a s : State} (h : Keeps a s) {x1 x2 x3 x4} : Keeps a (State.framePiece s x1 x2 x3 x4).1 := by
  unfold State.framePiece
  iterate 24 all_goals (try first
    | with_reducible assumption
    | with_reducible apply State.modArena_keeps
    | with_reducible apply State.beginFill_keeps
    | with_reducible apply State.writeBack_keeps
    | (with_reducible apply foldl_keeps)
    | (with_reducible apply foldl_fst_keeps)
    | with_reducible apply Keeps.ite
    | with_reducible apply Keeps.ite_fst
    | with_reducible apply Keeps.ite_snd
    | intro _
    | dsimp only
    | split
    | (refine Keeps.fst (by with_reducible assumption) ?_)
    | (refine Keeps.snd (by with_reducible assumption) ?_)
    | rfl
    | exact ⟨rfl, rfl⟩
    | exact ⟨rfl, rfl, rfl⟩
    | exact Memory.wf_clear (by assumption) _ _
    | exact Memory.wf_filter (by assumption) _
    | exact Memory.wf_writeBytes (by assumption) _ _
    | with_reducible apply Keeps.mk_all
    | assumption
    | simp_all [Run.ok])

theorem doTongsPiece_keeps {a s : State} (h : Keeps a s) {x1 x2 x3} : Keeps a (doTongsPiece x1 x2 x3 s) := by
  unfold doTongsPiece
  iterate 24 all_goals (try first
    | with_reducible assumption
    | with_reducible apply State.addrErr_keeps
    | with_reducible apply State.remoteWrite_keeps
    | with_reducible apply State.remoteRead_keeps
    | with_reducible apply State.arenaWrite_keeps
    | with_reducible apply State.readEnd_keeps
    | with_reducible apply State.writeEnd_keeps
    | with_reducible apply State.convertPiece_keeps
    | with_reducible apply State.modEnt_keeps
    | with_reducible apply State.framePiece_keeps
    | (with_reducible apply foldl_keeps)
    | (with_reducible apply foldl_fst_keeps)
    | with_reducible apply Keeps.ite
    | with_reducible apply Keeps.ite_fst
    | with_reducible apply Keeps.ite_snd
    | intro _
    | dsimp only
    | split
    | (refine Keeps.fst (by with_reducible assumption) ?_)
    | (refine Keeps.snd (by with_reducible assumption) ?_)
    | rfl
    | exact ⟨rfl, rfl⟩
    | exact ⟨rfl, rfl, rfl⟩
    | exact Memory.wf_clear (by assumption) _ _
    | exact Memory.wf_filter (by assumption) _
    | exact Memory.wf_writeBytes (by assumption) _ _
    | with_reducible apply Keeps.mk_all
    | assumption
    | simp_all [Run.ok])

theorem execTongsPiece_keeps {s t : State} {x1 x2 x3} (e : execTongsPiece x1 x2 x3 s = .next t) : Keeps s t := by
  refine answer_keeps e ?_
  have h := Keeps.refl s
  iterate 24 all_goals (try first
    | with_reducible assumption
    | with_reducible apply doTongsPiece_keeps
    | (with_reducible apply foldl_keeps)
    | (with_reducible apply foldl_fst_keeps)
    | with_reducible apply Keeps.ite
    | with_reducible apply Keeps.ite_fst
    | with_reducible apply Keeps.ite_snd
    | intro _
    | dsimp only
    | split
    | (refine Keeps.fst (by with_reducible assumption) ?_)
    | (refine Keeps.snd (by with_reducible assumption) ?_)
    | rfl
    | exact ⟨rfl, rfl⟩
    | exact ⟨rfl, rfl, rfl⟩
    | exact Memory.wf_clear (by assumption) _ _
    | exact Memory.wf_filter (by assumption) _
    | exact Memory.wf_writeBytes (by assumption) _ _
    | with_reducible apply Keeps.mk_all
    | assumption
    | simp_all [Run.ok])

theorem State.pieceEnded_keeps {a s : State} (h : Keeps a s) {x1 x2 x3 x4} : Keeps a (State.pieceEnded s x1 x2 x3 x4) := by
  unfold State.pieceEnded
  iterate 24 all_goals (try first
    | with_reducible assumption
    | with_reducible apply State.modTongs_keeps
    | with_reducible apply State.modEnt_keeps
    | (with_reducible apply foldl_keeps)
    | (with_reducible apply foldl_fst_keeps)
    | with_reducible apply Keeps.ite
    | with_reducible apply Keeps.ite_fst
    | with_reducible apply Keeps.ite_snd
    | intro _
    | dsimp only
    | split
    | (refine Keeps.fst (by with_reducible assumption) ?_)
    | (refine Keeps.snd (by with_reducible assumption) ?_)
    | rfl
    | exact ⟨rfl, rfl⟩
    | exact ⟨rfl, rfl, rfl⟩
    | exact Memory.wf_clear (by assumption) _ _
    | exact Memory.wf_filter (by assumption) _
    | exact Memory.wf_writeBytes (by assumption) _ _
    | with_reducible apply Keeps.mk_all
    | assumption
    | simp_all [Run.ok])

theorem State.landTongs_keeps {a s : State} (h : Keeps a s) {x1 x2 x3 x4 x5 x6 x7 x8} : Keeps a (State.landTongs s x1 x2 x3 x4 x5 x6 x7 x8) := by
  unfold State.landTongs
  iterate 24 all_goals (try first
    | with_reducible assumption
    | with_reducible apply State.markedPiece_keeps
    | with_reducible apply State.writeEnd_keeps
    | with_reducible apply State.convertPiece_keeps
    | with_reducible apply State.pieceEnded_keeps
    | (with_reducible apply foldl_keeps)
    | (with_reducible apply foldl_fst_keeps)
    | with_reducible apply Keeps.ite
    | with_reducible apply Keeps.ite_fst
    | with_reducible apply Keeps.ite_snd
    | intro _
    | dsimp only
    | split
    | (refine Keeps.fst (by with_reducible assumption) ?_)
    | (refine Keeps.snd (by with_reducible assumption) ?_)
    | rfl
    | exact ⟨rfl, rfl⟩
    | exact ⟨rfl, rfl, rfl⟩
    | exact Memory.wf_clear (by assumption) _ _
    | exact Memory.wf_filter (by assumption) _
    | exact Memory.wf_writeBytes (by assumption) _ _
    | with_reducible apply Keeps.mk_all
    | assumption
    | simp_all [Run.ok])

theorem State.ownerLost_keeps {a s : State} (h : Keeps a s) {x1 x2 x3} : Keeps a (State.ownerLost s x1 x2 x3) := by
  unfold State.ownerLost
  iterate 24 all_goals (try first
    | with_reducible assumption
    | with_reducible apply State.addrErr_keeps
    | with_reducible apply State.landArena_keeps
    | with_reducible apply State.pieceEnded_keeps
    | with_reducible apply State.landTongs_keeps
    | (with_reducible apply foldl_keeps)
    | (with_reducible apply foldl_fst_keeps)
    | with_reducible apply Keeps.ite
    | with_reducible apply Keeps.ite_fst
    | with_reducible apply Keeps.ite_snd
    | intro _
    | dsimp only
    | split
    | (refine Keeps.fst (by with_reducible assumption) ?_)
    | (refine Keeps.snd (by with_reducible assumption) ?_)
    | rfl
    | exact ⟨rfl, rfl⟩
    | exact ⟨rfl, rfl, rfl⟩
    | exact Memory.wf_clear (by assumption) _ _
    | exact Memory.wf_filter (by assumption) _
    | exact Memory.wf_writeBytes (by assumption) _ _
    | with_reducible apply Keeps.mk_all
    | assumption
    | simp_all [Run.ok])

theorem State.tongsDrop_keeps {a s : State} (h : Keeps a s) {x1 x2 x3} : Keeps a (State.tongsDrop s x1 x2 x3) := by
  unfold State.tongsDrop
  iterate 24 all_goals (try first
    | with_reducible assumption
    | (with_reducible apply foldl_keeps)
    | (with_reducible apply foldl_fst_keeps)
    | with_reducible apply Keeps.ite
    | with_reducible apply Keeps.ite_fst
    | with_reducible apply Keeps.ite_snd
    | intro _
    | dsimp only
    | split
    | (refine Keeps.fst (by with_reducible assumption) ?_)
    | (refine Keeps.snd (by with_reducible assumption) ?_)
    | rfl
    | exact ⟨rfl, rfl⟩
    | exact ⟨rfl, rfl, rfl⟩
    | exact Memory.wf_clear (by assumption) _ _
    | exact Memory.wf_filter (by assumption) _
    | exact Memory.wf_writeBytes (by assumption) _ _
    | with_reducible apply Keeps.mk_all
    | assumption
    | simp_all [Run.ok])

theorem State.tongsDiscard_keeps {a s : State} (h : Keeps a s) {x1} : Keeps a (State.tongsDiscard s x1) := by
  unfold State.tongsDiscard
  iterate 24 all_goals (try first
    | with_reducible assumption
    | (with_reducible apply foldl_keeps)
    | (with_reducible apply foldl_fst_keeps)
    | with_reducible apply Keeps.ite
    | with_reducible apply Keeps.ite_fst
    | with_reducible apply Keeps.ite_snd
    | intro _
    | dsimp only
    | split
    | (refine Keeps.fst (by with_reducible assumption) ?_)
    | (refine Keeps.snd (by with_reducible assumption) ?_)
    | rfl
    | exact ⟨rfl, rfl⟩
    | exact ⟨rfl, rfl, rfl⟩
    | exact Memory.wf_clear (by assumption) _ _
    | exact Memory.wf_filter (by assumption) _
    | exact Memory.wf_writeBytes (by assumption) _ _
    | with_reducible apply Keeps.mk_all
    | assumption
    | simp_all [Run.ok])

theorem State.tongsClear_keeps {a s : State} (h : Keeps a s) {x1} : Keeps a (State.tongsClear s x1) := by
  unfold State.tongsClear
  iterate 24 all_goals (try first
    | with_reducible assumption
    | (with_reducible apply foldl_keeps)
    | (with_reducible apply foldl_fst_keeps)
    | with_reducible apply Keeps.ite
    | with_reducible apply Keeps.ite_fst
    | with_reducible apply Keeps.ite_snd
    | intro _
    | dsimp only
    | split
    | (refine Keeps.fst (by with_reducible assumption) ?_)
    | (refine Keeps.snd (by with_reducible assumption) ?_)
    | rfl
    | exact ⟨rfl, rfl⟩
    | exact ⟨rfl, rfl, rfl⟩
    | exact Memory.wf_clear (by assumption) _ _
    | exact Memory.wf_filter (by assumption) _
    | exact Memory.wf_writeBytes (by assumption) _ _
    | with_reducible apply Keeps.mk_all
    | assumption
    | simp_all [Run.ok])

theorem State.signal_keeps {a s : State} (h : Keeps a s) {x1 x2} : Keeps a (State.signal s x1 x2) := by
  unfold State.signal
  iterate 24 all_goals (try first
    | with_reducible assumption
    | with_reducible apply State.modRun_keeps
    | with_reducible apply State.raise_keeps
    | (with_reducible apply foldl_keeps)
    | (with_reducible apply foldl_fst_keeps)
    | with_reducible apply Keeps.ite
    | with_reducible apply Keeps.ite_fst
    | with_reducible apply Keeps.ite_snd
    | intro _
    | dsimp only
    | split
    | (refine Keeps.fst (by with_reducible assumption) ?_)
    | (refine Keeps.snd (by with_reducible assumption) ?_)
    | rfl
    | exact ⟨rfl, rfl⟩
    | exact ⟨rfl, rfl, rfl⟩
    | exact Memory.wf_clear (by assumption) _ _
    | exact Memory.wf_filter (by assumption) _
    | exact Memory.wf_writeBytes (by assumption) _ _
    | with_reducible apply Keeps.mk_all
    | assumption
    | simp_all [Run.ok])

theorem State.signalN_keeps {a s : State} (h : Keeps a s) {x1 x2 x3} : Keeps a (State.signalN s x1 x2 x3) := by
  unfold State.signalN
  iterate 24 all_goals (try first
    | with_reducible assumption
    | with_reducible apply State.modRun_keeps
    | with_reducible apply State.raise_keeps
    | (with_reducible apply foldl_keeps)
    | (with_reducible apply foldl_fst_keeps)
    | with_reducible apply Keeps.ite
    | with_reducible apply Keeps.ite_fst
    | with_reducible apply Keeps.ite_snd
    | intro _
    | dsimp only
    | split
    | (refine Keeps.fst (by with_reducible assumption) ?_)
    | (refine Keeps.snd (by with_reducible assumption) ?_)
    | rfl
    | exact ⟨rfl, rfl⟩
    | exact ⟨rfl, rfl, rfl⟩
    | exact Memory.wf_clear (by assumption) _ _
    | exact Memory.wf_filter (by assumption) _
    | exact Memory.wf_writeBytes (by assumption) _ _
    | with_reducible apply Keeps.mk_all
    | assumption
    | simp_all [Run.ok])

theorem State.modSeq_keeps {a s : State} (h : Keeps a s) {x1 x2 x3} : Keeps a (State.modSeq s x1 x2 x3) := by
  unfold State.modSeq
  iterate 24 all_goals (try first
    | with_reducible assumption
    | with_reducible apply State.modRun_keeps
    | (with_reducible apply foldl_keeps)
    | (with_reducible apply foldl_fst_keeps)
    | with_reducible apply Keeps.ite
    | with_reducible apply Keeps.ite_fst
    | with_reducible apply Keeps.ite_snd
    | intro _
    | dsimp only
    | split
    | (refine Keeps.fst (by with_reducible assumption) ?_)
    | (refine Keeps.snd (by with_reducible assumption) ?_)
    | rfl
    | exact ⟨rfl, rfl⟩
    | exact ⟨rfl, rfl, rfl⟩
    | exact Memory.wf_clear (by assumption) _ _
    | exact Memory.wf_filter (by assumption) _
    | exact Memory.wf_writeBytes (by assumption) _ _
    | with_reducible apply Keeps.mk_all
    | assumption
    | simp_all [Run.ok])

theorem State.complete_keeps {a s : State} (h : Keeps a s) {x1 x2 x3} : Keeps a (State.complete s x1 x2 x3) := by
  unfold State.complete
  iterate 24 all_goals (try first
    | with_reducible assumption
    | with_reducible apply State.modPyro_keeps
    | with_reducible apply State.signal_keeps
    | with_reducible apply State.modSeq_keeps
    | (with_reducible apply foldl_keeps)
    | (with_reducible apply foldl_fst_keeps)
    | with_reducible apply Keeps.ite
    | with_reducible apply Keeps.ite_fst
    | with_reducible apply Keeps.ite_snd
    | intro _
    | dsimp only
    | split
    | (refine Keeps.fst (by with_reducible assumption) ?_)
    | (refine Keeps.snd (by with_reducible assumption) ?_)
    | rfl
    | exact ⟨rfl, rfl⟩
    | exact ⟨rfl, rfl, rfl⟩
    | exact Memory.wf_clear (by assumption) _ _
    | exact Memory.wf_filter (by assumption) _
    | exact Memory.wf_writeBytes (by assumption) _ _
    | with_reducible apply Keeps.mk_all
    | assumption
    | simp_all [Run.ok])

theorem State.alertUpdate_keeps {a s : State} (h : Keeps a s) : Keeps a (State.alertUpdate s) := by
  unfold State.alertUpdate
  iterate 24 all_goals (try first
    | with_reducible assumption
    | with_reducible apply State.modHub_keeps
    | with_reducible apply State.emit_keeps
    | (with_reducible apply foldl_keeps)
    | (with_reducible apply foldl_fst_keeps)
    | with_reducible apply Keeps.ite
    | with_reducible apply Keeps.ite_fst
    | with_reducible apply Keeps.ite_snd
    | intro _
    | dsimp only
    | split
    | (refine Keeps.fst (by with_reducible assumption) ?_)
    | (refine Keeps.snd (by with_reducible assumption) ?_)
    | rfl
    | exact ⟨rfl, rfl⟩
    | exact ⟨rfl, rfl, rfl⟩
    | exact Memory.wf_clear (by assumption) _ _
    | exact Memory.wf_filter (by assumption) _
    | exact Memory.wf_writeBytes (by assumption) _ _
    | with_reducible apply Keeps.mk_all
    | assumption
    | simp_all [Run.ok])

theorem State.hold_keeps {a s : State} (h : Keeps a s) {x1 x2} : Keeps a (State.hold s x1 x2) := by
  unfold State.hold
  iterate 24 all_goals (try first
    | with_reducible assumption
    | with_reducible apply State.modRun_keeps
    | (with_reducible apply foldl_keeps)
    | (with_reducible apply foldl_fst_keeps)
    | with_reducible apply Keeps.ite
    | with_reducible apply Keeps.ite_fst
    | with_reducible apply Keeps.ite_snd
    | intro _
    | dsimp only
    | split
    | (refine Keeps.fst (by with_reducible assumption) ?_)
    | (refine Keeps.snd (by with_reducible assumption) ?_)
    | rfl
    | exact ⟨rfl, rfl⟩
    | exact ⟨rfl, rfl, rfl⟩
    | exact Memory.wf_clear (by assumption) _ _
    | exact Memory.wf_filter (by assumption) _
    | exact Memory.wf_writeBytes (by assumption) _ _
    | with_reducible apply Keeps.mk_all
    | assumption
    | simp_all [Run.ok])

theorem State.stepRecEnd_keeps {a s : State} (h : Keeps a s) {x1} : Keeps a (State.stepRecEnd s x1) := by
  unfold State.stepRecEnd
  iterate 24 all_goals (try first
    | with_reducible assumption
    | with_reducible apply State.modRun_keeps
    | with_reducible apply State.recordPart_keeps
    | (with_reducible apply foldl_keeps)
    | (with_reducible apply foldl_fst_keeps)
    | with_reducible apply Keeps.ite
    | with_reducible apply Keeps.ite_fst
    | with_reducible apply Keeps.ite_snd
    | intro _
    | dsimp only
    | split
    | (refine Keeps.fst (by with_reducible assumption) ?_)
    | (refine Keeps.snd (by with_reducible assumption) ?_)
    | rfl
    | exact ⟨rfl, rfl⟩
    | exact ⟨rfl, rfl, rfl⟩
    | exact Memory.wf_clear (by assumption) _ _
    | exact Memory.wf_filter (by assumption) _
    | exact Memory.wf_writeBytes (by assumption) _ _
    | with_reducible apply Keeps.mk_all
    | assumption
    | simp_all [Run.ok])

theorem State.stepRecOut_keeps {a s : State} (h : Keeps a s) {x1} : Keeps a (State.stepRecOut s x1) := by
  unfold State.stepRecOut
  iterate 24 all_goals (try first
    | with_reducible assumption
    | with_reducible apply State.stepRecEnd_keeps
    | (with_reducible apply foldl_keeps)
    | (with_reducible apply foldl_fst_keeps)
    | with_reducible apply Keeps.ite
    | with_reducible apply Keeps.ite_fst
    | with_reducible apply Keeps.ite_snd
    | intro _
    | dsimp only
    | split
    | (refine Keeps.fst (by with_reducible assumption) ?_)
    | (refine Keeps.snd (by with_reducible assumption) ?_)
    | rfl
    | exact ⟨rfl, rfl⟩
    | exact ⟨rfl, rfl, rfl⟩
    | exact Memory.wf_clear (by assumption) _ _
    | exact Memory.wf_filter (by assumption) _
    | exact Memory.wf_writeBytes (by assumption) _ _
    | with_reducible apply Keeps.mk_all
    | assumption
    | simp_all [Run.ok])

theorem State.unhold_keeps {a s : State} (h : Keeps a s) {x1 x2} : Keeps a (State.unhold s x1 x2) := by
  unfold State.unhold
  iterate 24 all_goals (try first
    | with_reducible assumption
    | with_reducible apply State.modRun_keeps
    | with_reducible apply State.stepRecOut_keeps
    | (with_reducible apply foldl_keeps)
    | (with_reducible apply foldl_fst_keeps)
    | with_reducible apply Keeps.ite
    | with_reducible apply Keeps.ite_fst
    | with_reducible apply Keeps.ite_snd
    | intro _
    | dsimp only
    | split
    | (refine Keeps.fst (by with_reducible assumption) ?_)
    | (refine Keeps.snd (by with_reducible assumption) ?_)
    | rfl
    | exact ⟨rfl, rfl⟩
    | exact ⟨rfl, rfl, rfl⟩
    | exact Memory.wf_clear (by assumption) _ _
    | exact Memory.wf_filter (by assumption) _
    | exact Memory.wf_writeBytes (by assumption) _ _
    | with_reducible apply Keeps.mk_all
    | assumption
    | simp_all [Run.ok])

theorem State.haltHold_keeps {a s : State} (h : Keeps a s) {x1} : Keeps a (State.haltHold s x1) := by
  unfold State.haltHold
  iterate 24 all_goals (try first
    | with_reducible assumption
    | with_reducible apply State.modRun_keeps
    | with_reducible apply State.notice_keeps
    | with_reducible apply State.hold_keeps
    | (with_reducible apply foldl_keeps)
    | (with_reducible apply foldl_fst_keeps)
    | with_reducible apply Keeps.ite
    | with_reducible apply Keeps.ite_fst
    | with_reducible apply Keeps.ite_snd
    | intro _
    | dsimp only
    | split
    | (refine Keeps.fst (by with_reducible assumption) ?_)
    | (refine Keeps.snd (by with_reducible assumption) ?_)
    | rfl
    | exact ⟨rfl, rfl⟩
    | exact ⟨rfl, rfl, rfl⟩
    | exact Memory.wf_clear (by assumption) _ _
    | exact Memory.wf_filter (by assumption) _
    | exact Memory.wf_writeBytes (by assumption) _ _
    | with_reducible apply Keeps.mk_all
    | assumption
    | simp_all [Run.ok])

end Sys2Proof.Machine
end

