-- ==== Sys2Proof/Laws/KeepsColl.lean ====
section
/-! SUPPORT. What each operation of CollCore, CollEngine, UpdateUnit, Stream keeps (Keeps.lean). -/

set_option linter.unusedTactic false
set_option linter.unreachableTactic false
set_option linter.unusedSimpArgs false
set_option linter.unusedVariables false

namespace Sys2Proof.Machine

theorem State.sendSeg_keeps {a s : State} (h : Keeps a s) {x1 x2 x3 x4 x5 x6} : Keeps a (State.sendSeg s x1 x2 x3 x4 x5 x6) := by
  unfold State.sendSeg
  iterate 24 all_goals (try first
    | with_reducible assumption
    | with_reducible apply State.send_keeps
    | (with_reducible apply foldl_keeps)
    | (with_reducible apply foldl_fst_keeps)
    | with_reducible apply Keeps.ite
    | with_reducible apply Keeps.ite_fst
    | with_reducible apply Keeps.ite_snd
    | intro _
    | dsimp only
    | split
    | (refine Keeps.fst (by with_reducible assumption) ?_)
    | (refine Keeps.snd (by with_reducible assumption) ?_)
    | rfl
    | exact ⟨rfl, rfl⟩
    | exact ⟨rfl, rfl, rfl⟩
    | exact Memory.wf_clear (by assumption) _ _
    | exact Memory.wf_filter (by assumption) _
    | exact Memory.wf_writeBytes (by assumption) _ _
    | with_reducible apply Keeps.mk_all
    | assumption
    | simp_all [Run.ok])

theorem State.modOp_keeps {a s : State} (h : Keeps a s) {x1 x2 x3} : Keeps a (State.modOp s x1 x2 x3) := by
  unfold State.modOp
  iterate 24 all_goals (try first
    | with_reducible assumption
    | with_reducible apply State.modColl_keeps
    | (with_reducible apply foldl_keeps)
    | (with_reducible apply foldl_fst_keeps)
    | with_reducible apply Keeps.ite
    | with_reducible apply Keeps.ite_fst
    | with_reducible apply Keeps.ite_snd
    | intro _
    | dsimp only
    | split
    | (refine Keeps.fst (by with_reducible assumption) ?_)
    | (refine Keeps.snd (by with_reducible assumption) ?_)
    | rfl
    | exact ⟨rfl, rfl⟩
    | exact ⟨rfl, rfl, rfl⟩
    | exact Memory.wf_clear (by assumption) _ _
    | exact Memory.wf_filter (by assumption) _
    | exact Memory.wf_writeBytes (by assumption) _ _
    | with_reducible apply Keeps.mk_all
    | assumption
    | simp_all [Run.ok])

theorem State.collPlace_keeps {a s : State} (h : Keeps a s) {x1 x2 x3 x4 x5 x6} : Keeps a (State.collPlace s x1 x2 x3 x4 x5 x6) := by
  unfold State.collPlace
  iterate 24 all_goals (try first
    | with_reducible assumption
    | with_reducible apply State.modPyro_keeps
    | with_reducible apply State.modColl_keeps
    | (with_reducible apply foldl_keeps)
    | (with_reducible apply foldl_fst_keeps)
    | with_reducible apply Keeps.ite
    | with_reducible apply Keeps.ite_fst
    | with_reducible apply Keeps.ite_snd
    | intro _
    | dsimp only
    | split
    | (refine Keeps.fst (by with_reducible assumption) ?_)
    | (refine Keeps.snd (by with_reducible assumption) ?_)
    | rfl
    | exact ⟨rfl, rfl⟩
    | exact ⟨rfl, rfl, rfl⟩
    | exact Memory.wf_clear (by assumption) _ _
    | exact Memory.wf_filter (by assumption) _
    | exact Memory.wf_writeBytes (by assumption) _ _
    | with_reducible apply Keeps.mk_all
    | assumption
    | simp_all [Run.ok])

theorem State.collRuns_keeps {a s : State} (h : Keeps a s) {x1 x2} : Keeps a (State.collRuns s x1 x2) := by
  unfold State.collRuns
  iterate 24 all_goals (try first
    | with_reducible assumption
    | with_reducible apply State.modTemper_keeps
    | (with_reducible apply State.each_keeps; intro _ _ _)
    | (with_reducible apply foldl_keeps)
    | (with_reducible apply foldl_fst_keeps)
    | with_reducible apply Keeps.ite
    | with_reducible apply Keeps.ite_fst
    | with_reducible apply Keeps.ite_snd
    | intro _
    | dsimp only
    | split
    | (refine Keeps.fst (by with_reducible assumption) ?_)
    | (refine Keeps.snd (by with_reducible assumption) ?_)
    | rfl
    | exact ⟨rfl, rfl⟩
    | exact ⟨rfl, rfl, rfl⟩
    | exact Memory.wf_clear (by assumption) _ _
    | exact Memory.wf_filter (by assumption) _
    | exact Memory.wf_writeBytes (by assumption) _ _
    | with_reducible apply Keeps.mk_all
    | assumption
    | simp_all [Run.ok])

theorem State.countBlocks_keeps {a s : State} (h : Keeps a s) {x1 x2 x3} : Keeps a (State.countBlocks s x1 x2 x3) := by
  unfold State.countBlocks
  iterate 24 all_goals (try first
    | with_reducible assumption
    | with_reducible apply State.sampleWith_keeps
    | with_reducible apply State.sample_keeps
    | with_reducible apply State.modOp_keeps
    | with_reducible apply State.collRuns_keeps
    | (with_reducible apply foldl_keeps)
    | (with_reducible apply foldl_fst_keeps)
    | with_reducible apply Keeps.ite
    | with_reducible apply Keeps.ite_fst
    | with_reducible apply Keeps.ite_snd
    | intro _
    | dsimp only
    | split
    | (refine Keeps.fst (by with_reducible assumption) ?_)
    | (refine Keeps.snd (by with_reducible assumption) ?_)
    | rfl
    | exact ⟨rfl, rfl⟩
    | exact ⟨rfl, rfl, rfl⟩
    | exact Memory.wf_clear (by assumption) _ _
    | exact Memory.wf_filter (by assumption) _
    | exact Memory.wf_writeBytes (by assumption) _ _
    | with_reducible apply Keeps.mk_all
    | assumption
    | simp_all [Run.ok])

theorem State.sendBlocks_keeps {a s : State} (h : Keeps a s) {x1 x2 x3 x4 x5 x6 x7} : Keeps a (State.sendBlocks s x1 x2 x3 x4 x5 x6 x7) := by
  unfold State.sendBlocks
  iterate 24 all_goals (try first
    | with_reducible assumption
    | with_reducible apply State.sendSeg_keeps
    | (with_reducible apply State.each_keeps; intro _ _ _)
    | (with_reducible apply foldl_keeps)
    | (with_reducible apply foldl_fst_keeps)
    | with_reducible apply Keeps.ite
    | with_reducible apply Keeps.ite_fst
    | with_reducible apply Keeps.ite_snd
    | intro _
    | dsimp only
    | split
    | (refine Keeps.fst (by with_reducible assumption) ?_)
    | (refine Keeps.snd (by with_reducible assumption) ?_)
    | rfl
    | exact ⟨rfl, rfl⟩
    | exact ⟨rfl, rfl, rfl⟩
    | exact Memory.wf_clear (by assumption) _ _
    | exact Memory.wf_filter (by assumption) _
    | exact Memory.wf_writeBytes (by assumption) _ _
    | with_reducible apply Keeps.mk_all
    | assumption
    | simp_all [Run.ok])

theorem State.sendEmpty_keeps {a s : State} (h : Keeps a s) {x1 x2 x3 x4 x5} : Keeps a (State.sendEmpty s x1 x2 x3 x4 x5) := by
  unfold State.sendEmpty
  iterate 24 all_goals (try first
    | with_reducible assumption
    | with_reducible apply State.sendSeg_keeps
    | (with_reducible apply foldl_keeps)
    | (with_reducible apply foldl_fst_keeps)
    | with_reducible apply Keeps.ite
    | with_reducible apply Keeps.ite_fst
    | with_reducible apply Keeps.ite_snd
    | intro _
    | dsimp only
    | split
    | (refine Keeps.fst (by with_reducible assumption) ?_)
    | (refine Keeps.snd (by with_reducible assumption) ?_)
    | rfl
    | exact ⟨rfl, rfl⟩
    | exact ⟨rfl, rfl, rfl⟩
    | exact Memory.wf_clear (by assumption) _ _
    | exact Memory.wf_filter (by assumption) _
    | exact Memory.wf_writeBytes (by assumption) _ _
    | with_reducible apply Keeps.mk_all
    | assumption
    | simp_all [Run.ok])

theorem State.badSeg_keeps {a s : State} (h : Keeps a s) {x1 x2} : Keeps a (State.badSeg s x1 x2) := by
  unfold State.badSeg
  iterate 24 all_goals (try first
    | with_reducible assumption
    | with_reducible apply State.count_keeps
    | with_reducible apply State.raise_keeps
    | (with_reducible apply foldl_keeps)
    | (with_reducible apply foldl_fst_keeps)
    | with_reducible apply Keeps.ite
    | with_reducible apply Keeps.ite_fst
    | with_reducible apply Keeps.ite_snd
    | intro _
    | dsimp only
    | split
    | (refine Keeps.fst (by with_reducible assumption) ?_)
    | (refine Keeps.snd (by with_reducible assumption) ?_)
    | rfl
    | exact ⟨rfl, rfl⟩
    | exact ⟨rfl, rfl, rfl⟩
    | exact Memory.wf_clear (by assumption) _ _
    | exact Memory.wf_filter (by assumption) _
    | exact Memory.wf_writeBytes (by assumption) _ _
    | with_reducible apply Keeps.mk_all
    | assumption
    | simp_all [Run.ok])

theorem State.badBlocks_keeps {a s : State} (h : Keeps a s) {x1 x2 x3 x4} : Keeps a (State.badBlocks s x1 x2 x3 x4) := by
  unfold State.badBlocks
  iterate 24 all_goals (try first
    | with_reducible assumption
    | with_reducible apply State.raise_keeps
    | with_reducible apply State.sampleSlag_keeps
    | (with_reducible apply State.each_keeps; intro _ _ _)
    | (with_reducible apply foldl_keeps)
    | (with_reducible apply foldl_fst_keeps)
    | with_reducible apply Keeps.ite
    | with_reducible apply Keeps.ite_fst
    | with_reducible apply Keeps.ite_snd
    | intro _
    | dsimp only
    | split
    | (refine Keeps.fst (by with_reducible assumption) ?_)
    | (refine Keeps.snd (by with_reducible assumption) ?_)
    | rfl
    | exact ⟨rfl, rfl⟩
    | exact ⟨rfl, rfl, rfl⟩
    | exact Memory.wf_clear (by assumption) _ _
    | exact Memory.wf_filter (by assumption) _
    | exact Memory.wf_writeBytes (by assumption) _ _
    | with_reducible apply Keeps.mk_all
    | assumption
    | simp_all [Run.ok])

theorem State.resolveCarry_keeps {a s : State} (h : Keeps a s) {x1 x2 x3} : Keeps a (State.resolveCarry s x1 x2 x3) := by
  unfold State.resolveCarry
  iterate 24 all_goals (try first
    | with_reducible assumption
    | with_reducible apply State.modRun_keeps
    | with_reducible apply State.modColl_keeps
    | with_reducible apply State.modOp_keeps
    | with_reducible apply State.collRuns_keeps
    | (with_reducible apply foldl_keeps)
    | (with_reducible apply foldl_fst_keeps)
    | with_reducible apply Keeps.ite
    | with_reducible apply Keeps.ite_fst
    | with_reducible apply Keeps.ite_snd
    | intro _
    | dsimp only
    | split
    | (refine Keeps.fst (by with_reducible assumption) ?_)
    | (refine Keeps.snd (by with_reducible assumption) ?_)
    | rfl
    | exact ⟨rfl, rfl⟩
    | exact ⟨rfl, rfl, rfl⟩
    | exact Memory.wf_clear (by assumption) _ _
    | exact Memory.wf_filter (by assumption) _
    | exact Memory.wf_writeBytes (by assumption) _ _
    | with_reducible apply Keeps.mk_all
    | assumption
    | simp_all [Run.ok])

theorem State.ownDirect_keeps {a s : State} (h : Keeps a s) {x1 x2 x3 x4} : Keeps a (State.ownDirect s x1 x2 x3 x4) := by
  unfold State.ownDirect
  iterate 24 all_goals (try first
    | with_reducible assumption
    | with_reducible apply State.modOp_keeps
    | with_reducible apply State.collRuns_keeps
    | with_reducible apply State.countBlocks_keeps
    | (with_reducible apply foldl_keeps)
    | (with_reducible apply foldl_fst_keeps)
    | with_reducible apply Keeps.ite
    | with_reducible apply Keeps.ite_fst
    | with_reducible apply Keeps.ite_snd
    | intro _
    | dsimp only
    | split
    | (refine Keeps.fst (by with_reducible assumption) ?_)
    | (refine Keeps.snd (by with_reducible assumption) ?_)
    | rfl
    | exact ⟨rfl, rfl⟩
    | exact ⟨rfl, rfl, rfl⟩
    | exact Memory.wf_clear (by assumption) _ _
    | exact Memory.wf_filter (by assumption) _
    | exact Memory.wf_writeBytes (by assumption) _ _
    | with_reducible apply Keeps.mk_all
    | assumption
    | simp_all [Run.ok])

theorem State.sendContribution_keeps {a s : State} (h : Keeps a s) {x1 x2 x3 x4 x5} : Keeps a (State.sendContribution s x1 x2 x3 x4 x5) := by
  unfold State.sendContribution
  iterate 24 all_goals (try first
    | with_reducible assumption
    | with_reducible apply State.collRuns_keeps
    | with_reducible apply State.countBlocks_keeps
    | with_reducible apply State.sendBlocks_keeps
    | with_reducible apply State.sendEmpty_keeps
    | (with_reducible apply foldl_keeps)
    | (with_reducible apply foldl_fst_keeps)
    | with_reducible apply Keeps.ite
    | with_reducible apply Keeps.ite_fst
    | with_reducible apply Keeps.ite_snd
    | intro _
    | dsimp only
    | split
    | (refine Keeps.fst (by with_reducible assumption) ?_)
    | (refine Keeps.snd (by with_reducible assumption) ?_)
    | rfl
    | exact ⟨rfl, rfl⟩
    | exact ⟨rfl, rfl, rfl⟩
    | exact Memory.wf_clear (by assumption) _ _
    | exact Memory.wf_filter (by assumption) _
    | exact Memory.wf_writeBytes (by assumption) _ _
    | with_reducible apply Keeps.mk_all
    | assumption
    | simp_all [Run.ok])

theorem State.sendAhead_keeps {a s : State} (h : Keeps a s) {x1 x2} : Keeps a (State.sendAhead s x1 x2) := by
  unfold State.sendAhead
  iterate 24 all_goals (try first
    | with_reducible assumption
    | with_reducible apply State.modOp_keeps
    | with_reducible apply State.sendContribution_keeps
    | (with_reducible apply State.each_keeps; intro _ _ _)
    | (with_reducible apply foldl_keeps)
    | (with_reducible apply foldl_fst_keeps)
    | with_reducible apply Keeps.ite
    | with_reducible apply Keeps.ite_fst
    | with_reducible apply Keeps.ite_snd
    | intro _
    | dsimp only
    | split
    | (refine Keeps.fst (by with_reducible assumption) ?_)
    | (refine Keeps.snd (by with_reducible assumption) ?_)
    | rfl
    | exact ⟨rfl, rfl⟩
    | exact ⟨rfl, rfl, rfl⟩
    | exact Memory.wf_clear (by assumption) _ _
    | exact Memory.wf_filter (by assumption) _
    | exact Memory.wf_writeBytes (by assumption) _ _
    | with_reducible apply Keeps.mk_all
    | assumption
    | simp_all [Run.ok])

theorem State.startReduce_keeps {a s : State} (h : Keeps a s) {x1 x2 x3} : Keeps a (State.startReduce s x1 x2 x3) := by
  unfold State.startReduce
  iterate 24 all_goals (try first
    | with_reducible assumption
    | with_reducible apply State.modOp_keeps
    | with_reducible apply State.resolveCarry_keeps
    | with_reducible apply State.ownDirect_keeps
    | with_reducible apply State.sendContribution_keeps
    | (with_reducible apply State.each_keeps; intro _ _ _)
    | (with_reducible apply foldl_keeps)
    | (with_reducible apply foldl_fst_keeps)
    | with_reducible apply Keeps.ite
    | with_reducible apply Keeps.ite_fst
    | with_reducible apply Keeps.ite_snd
    | intro _
    | dsimp only
    | split
    | (refine Keeps.fst (by with_reducible assumption) ?_)
    | (refine Keeps.snd (by with_reducible assumption) ?_)
    | rfl
    | exact ⟨rfl, rfl⟩
    | exact ⟨rfl, rfl, rfl⟩
    | exact Memory.wf_clear (by assumption) _ _
    | exact Memory.wf_filter (by assumption) _
    | exact Memory.wf_writeBytes (by assumption) _ _
    | with_reducible apply Keeps.mk_all
    | assumption
    | simp_all [Run.ok])

theorem State.takeDirect_keeps {a s : State} (h : Keeps a s) {x1 x2 x3 x4} : Keeps a (State.takeDirect s x1 x2 x3 x4) := by
  unfold State.takeDirect
  iterate 24 all_goals (try first
    | with_reducible assumption
    | with_reducible apply State.modOp_keeps
    | with_reducible apply State.collRuns_keeps
    | with_reducible apply State.badSeg_keeps
    | with_reducible apply State.badBlocks_keeps
    | (with_reducible apply foldl_keeps)
    | (with_reducible apply foldl_fst_keeps)
    | with_reducible apply Keeps.ite
    | with_reducible apply Keeps.ite_fst
    | with_reducible apply Keeps.ite_snd
    | intro _
    | dsimp only
    | split
    | (refine Keeps.fst (by with_reducible assumption) ?_)
    | (refine Keeps.snd (by with_reducible assumption) ?_)
    | rfl
    | exact ⟨rfl, rfl⟩
    | exact ⟨rfl, rfl, rfl⟩
    | exact Memory.wf_clear (by assumption) _ _
    | exact Memory.wf_filter (by assumption) _
    | exact Memory.wf_writeBytes (by assumption) _ _
    | with_reducible apply Keeps.mk_all
    | assumption
    | simp_all [Run.ok])

theorem State.closeDirect_keeps {a s : State} (h : Keeps a s) {x1 x2 x3 x4} : Keeps a (State.closeDirect s x1 x2 x3 x4) := by
  unfold State.closeDirect
  iterate 24 all_goals (try first
    | with_reducible assumption
    | with_reducible apply State.modRun_keeps
    | with_reducible apply State.modColl_keeps
    | with_reducible apply State.raise_keeps
    | with_reducible apply State.modOp_keeps
    | with_reducible apply State.collRuns_keeps
    | (with_reducible apply foldl_keeps)
    | (with_reducible apply foldl_fst_keeps)
    | with_reducible apply Keeps.ite
    | with_reducible apply Keeps.ite_fst
    | with_reducible apply Keeps.ite_snd
    | intro _
    | dsimp only
    | split
    | (refine Keeps.fst (by with_reducible assumption) ?_)
    | (refine Keeps.snd (by with_reducible assumption) ?_)
    | rfl
    | exact ⟨rfl, rfl⟩
    | exact ⟨rfl, rfl, rfl⟩
    | exact Memory.wf_clear (by assumption) _ _
    | exact Memory.wf_filter (by assumption) _
    | exact Memory.wf_writeBytes (by assumption) _ _
    | with_reducible apply Keeps.mk_all
    | assumption
    | simp_all [Run.ok])

theorem State.takeLate_keeps {a s : State} (h : Keeps a s) {x1 x2 x3} : Keeps a (State.takeLate s x1 x2 x3) := by
  unfold State.takeLate
  iterate 24 all_goals (try first
    | with_reducible assumption
    | with_reducible apply State.modColl_keeps
    | with_reducible apply State.count_keeps
    | with_reducible apply State.collRuns_keeps
    | with_reducible apply State.badSeg_keeps
    | with_reducible apply State.badBlocks_keeps
    | with_reducible apply State.resolveCarry_keeps
    | (with_reducible apply foldl_keeps)
    | (with_reducible apply foldl_fst_keeps)
    | with_reducible apply Keeps.ite
    | with_reducible apply Keeps.ite_fst
    | with_reducible apply Keeps.ite_snd
    | intro _
    | dsimp only
    | split
    | (refine Keeps.fst (by with_reducible assumption) ?_)
    | (refine Keeps.snd (by with_reducible assumption) ?_)
    | rfl
    | exact ⟨rfl, rfl⟩
    | exact ⟨rfl, rfl, rfl⟩
    | exact Memory.wf_clear (by assumption) _ _
    | exact Memory.wf_filter (by assumption) _
    | exact Memory.wf_writeBytes (by assumption) _ _
    | with_reducible apply Keeps.mk_all
    | assumption
    | simp_all [Run.ok])

theorem State.takeRing_keeps {a s : State} (h : Keeps a s) {x1 x2 x3 x4} : Keeps a (State.takeRing s x1 x2 x3 x4) := by
  unfold State.takeRing
  iterate 24 all_goals (try first
    | with_reducible assumption
    | with_reducible apply State.sendSeg_keeps
    | with_reducible apply State.modOp_keeps
    | with_reducible apply State.collRuns_keeps
    | with_reducible apply State.countBlocks_keeps
    | with_reducible apply State.sendBlocks_keeps
    | with_reducible apply State.sendEmpty_keeps
    | with_reducible apply State.badSeg_keeps
    | with_reducible apply State.badBlocks_keeps
    | with_reducible apply State.sendAhead_keeps
    | (with_reducible apply foldl_keeps)
    | (with_reducible apply foldl_fst_keeps)
    | with_reducible apply Keeps.ite
    | with_reducible apply Keeps.ite_fst
    | with_reducible apply Keeps.ite_snd
    | intro _
    | dsimp only
    | split
    | (refine Keeps.fst (by with_reducible assumption) ?_)
    | (refine Keeps.snd (by with_reducible assumption) ?_)
    | rfl
    | exact ⟨rfl, rfl⟩
    | exact ⟨rfl, rfl, rfl⟩
    | exact Memory.wf_clear (by assumption) _ _
    | exact Memory.wf_filter (by assumption) _
    | exact Memory.wf_writeBytes (by assumption) _ _
    | with_reducible apply Keeps.mk_all
    | assumption
    | simp_all [Run.ok])

theorem State.closeRing_keeps {a s : State} (h : Keeps a s) {x1 x2 x3} : Keeps a (State.closeRing s x1 x2 x3) := by
  unfold State.closeRing
  iterate 24 all_goals (try first
    | with_reducible assumption
    | with_reducible apply State.modOp_keeps
    | (with_reducible apply foldl_keeps)
    | (with_reducible apply foldl_fst_keeps)
    | with_reducible apply Keeps.ite
    | with_reducible apply Keeps.ite_fst
    | with_reducible apply Keeps.ite_snd
    | intro _
    | dsimp only
    | split
    | (refine Keeps.fst (by with_reducible assumption) ?_)
    | (refine Keeps.snd (by with_reducible assumption) ?_)
    | rfl
    | exact ⟨rfl, rfl⟩
    | exact ⟨rfl, rfl, rfl⟩
    | exact Memory.wf_clear (by assumption) _ _
    | exact Memory.wf_filter (by assumption) _
    | exact Memory.wf_writeBytes (by assumption) _ _
    | with_reducible apply Keeps.mk_all
    | assumption
    | simp_all [Run.ok])

theorem State.writeElems_keeps {a s : State} (h : Keeps a s) {x1 x2} : Keeps a (State.writeElems s x1 x2) := by
  unfold State.writeElems
  iterate 24 all_goals (try first
    | with_reducible assumption
    | with_reducible apply State.trySave_keeps
    | (with_reducible apply foldl_keeps)
    | (with_reducible apply foldl_fst_keeps)
    | with_reducible apply Keeps.ite
    | with_reducible apply Keeps.ite_fst
    | with_reducible apply Keeps.ite_snd
    | intro _
    | dsimp only
    | split
    | (refine Keeps.fst (by with_reducible assumption) ?_)
    | (refine Keeps.snd (by with_reducible assumption) ?_)
    | rfl
    | exact ⟨rfl, rfl⟩
    | exact ⟨rfl, rfl, rfl⟩
    | exact Memory.wf_clear (by assumption) _ _
    | exact Memory.wf_filter (by assumption) _
    | exact Memory.wf_writeBytes (by assumption) _ _
    | with_reducible apply Keeps.mk_all
    | assumption
    | simp_all [Run.ok])

theorem State.startResult_keeps {a s : State} (h : Keeps a s) {x1 x2 x3} : Keeps a (State.startResult s x1 x2 x3) := by
  unfold State.startResult
  iterate 24 all_goals (try first
    | with_reducible assumption
    | with_reducible apply State.sendSeg_keeps
    | with_reducible apply State.modOp_keeps
    | with_reducible apply State.countBlocks_keeps
    | with_reducible apply State.sendBlocks_keeps
    | (with_reducible apply State.each_keeps; intro _ _ _)
    | (with_reducible apply foldl_keeps)
    | (with_reducible apply foldl_fst_keeps)
    | with_reducible apply Keeps.ite
    | with_reducible apply Keeps.ite_fst
    | with_reducible apply Keeps.ite_snd
    | intro _
    | dsimp only
    | split
    | (refine Keeps.fst (by with_reducible assumption) ?_)
    | (refine Keeps.snd (by with_reducible assumption) ?_)
    | rfl
    | exact ⟨rfl, rfl⟩
    | exact ⟨rfl, rfl, rfl⟩
    | exact Memory.wf_clear (by assumption) _ _
    | exact Memory.wf_filter (by assumption) _
    | exact Memory.wf_writeBytes (by assumption) _ _
    | with_reducible apply Keeps.mk_all
    | assumption
    | simp_all [Run.ok])

theorem State.takeResult_keeps {a s : State} (h : Keeps a s) {x1 x2 x3 x4 x5} : Keeps a (State.takeResult s x1 x2 x3 x4 x5) := by
  unfold State.takeResult
  iterate 24 all_goals (try first
    | with_reducible assumption
    | with_reducible apply State.saveMarked_keeps
    | with_reducible apply State.sendSeg_keeps
    | with_reducible apply State.modOp_keeps
    | with_reducible apply State.collRuns_keeps
    | with_reducible apply State.countBlocks_keeps
    | with_reducible apply State.badSeg_keeps
    | with_reducible apply State.badBlocks_keeps
    | with_reducible apply State.writeElems_keeps
    | (with_reducible apply foldl_keeps)
    | (with_reducible apply foldl_fst_keeps)
    | with_reducible apply Keeps.ite
    | with_reducible apply Keeps.ite_fst
    | with_reducible apply Keeps.ite_snd
    | intro _
    | dsimp only
    | split
    | (refine Keeps.fst (by with_reducible assumption) ?_)
    | (refine Keeps.snd (by with_reducible assumption) ?_)
    | rfl
    | exact ⟨rfl, rfl⟩
    | exact ⟨rfl, rfl, rfl⟩
    | exact Memory.wf_clear (by assumption) _ _
    | exact Memory.wf_filter (by assumption) _
    | exact Memory.wf_writeBytes (by assumption) _ _
    | with_reducible apply Keeps.mk_all
    | assumption
    | simp_all [Run.ok])

theorem State.spreadStat_keeps {a s : State} (h : Keeps a s) {x1 x2 x3 x4 x5} : Keeps a (State.spreadStat s x1 x2 x3 x4 x5) := by
  unfold State.spreadStat
  iterate 24 all_goals (try first
    | with_reducible assumption
    | with_reducible apply State.sendSeg_keeps
    | (with_reducible apply State.each_keeps; intro _ _ _)
    | (with_reducible apply foldl_keeps)
    | (with_reducible apply foldl_fst_keeps)
    | with_reducible apply Keeps.ite
    | with_reducible apply Keeps.ite_fst
    | with_reducible apply Keeps.ite_snd
    | intro _
    | dsimp only
    | split
    | (refine Keeps.fst (by with_reducible assumption) ?_)
    | (refine Keeps.snd (by with_reducible assumption) ?_)
    | rfl
    | exact ⟨rfl, rfl⟩
    | exact ⟨rfl, rfl, rfl⟩
    | exact Memory.wf_clear (by assumption) _ _
    | exact Memory.wf_filter (by assumption) _
    | exact Memory.wf_writeBytes (by assumption) _ _
    | with_reducible apply Keeps.mk_all
    | assumption
    | simp_all [Run.ok])

theorem State.combineStats_keeps {a s : State} (h : Keeps a s) {x1 x2} : Keeps a (State.combineStats s x1 x2) := by
  unfold State.combineStats
  iterate 24 all_goals (try first
    | with_reducible assumption
    | with_reducible apply State.modPyro_keeps
    | with_reducible apply State.modColl_keeps
    | with_reducible apply State.recordPart_keeps
    | with_reducible apply State.modOp_keeps
    | with_reducible apply State.collRuns_keeps
    | (with_reducible apply foldl_keeps)
    | (with_reducible apply foldl_fst_keeps)
    | with_reducible apply Keeps.ite
    | with_reducible apply Keeps.ite_fst
    | with_reducible apply Keeps.ite_snd
    | intro _
    | dsimp only
    | split
    | (refine Keeps.fst (by with_reducible assumption) ?_)
    | (refine Keeps.snd (by with_reducible assumption) ?_)
    | rfl
    | exact ⟨rfl, rfl⟩
    | exact ⟨rfl, rfl, rfl⟩
    | exact Memory.wf_clear (by assumption) _ _
    | exact Memory.wf_filter (by assumption) _
    | exact Memory.wf_writeBytes (by assumption) _ _
    | with_reducible apply Keeps.mk_all
    | assumption
    | simp_all [Run.ok])

theorem State.finishOwner_keeps {a s : State} (h : Keeps a s) {x1 x2} : Keeps a (State.finishOwner s x1 x2) := by
  unfold State.finishOwner
  iterate 24 all_goals (try first
    | with_reducible assumption
    | with_reducible apply State.sample_keeps
    | with_reducible apply State.modOp_keeps
    | with_reducible apply State.collRuns_keeps
    | with_reducible apply State.writeElems_keeps
    | with_reducible apply State.spreadStat_keeps
    | (with_reducible apply foldl_keeps)
    | (with_reducible apply foldl_fst_keeps)
    | with_reducible apply Keeps.ite
    | with_reducible apply Keeps.ite_fst
    | with_reducible apply Keeps.ite_snd
    | intro _
    | dsimp only
    | split
    | (refine Keeps.fst (by with_reducible assumption) ?_)
    | (refine Keeps.snd (by with_reducible assumption) ?_)
    | rfl
    | exact ⟨rfl, rfl⟩
    | exact ⟨rfl, rfl, rfl⟩
    | exact Memory.wf_clear (by assumption) _ _
    | exact Memory.wf_filter (by assumption) _
    | exact Memory.wf_writeBytes (by assumption) _ _
    | with_reducible apply Keeps.mk_all
    | assumption
    | simp_all [Run.ok])

theorem State.nextStage_keeps {a s : State} (h : Keeps a s) {x1 x2} : Keeps a (State.nextStage s x1 x2) := by
  unfold State.nextStage
  iterate 24 all_goals (try first
    | with_reducible assumption
    | with_reducible apply State.modOp_keeps
    | with_reducible apply State.startReduce_keeps
    | with_reducible apply State.startResult_keeps
    | with_reducible apply State.combineStats_keeps
    | with_reducible apply State.finishOwner_keeps
    | (with_reducible apply foldl_keeps)
    | (with_reducible apply foldl_fst_keeps)
    | with_reducible apply Keeps.ite
    | with_reducible apply Keeps.ite_fst
    | with_reducible apply Keeps.ite_snd
    | intro _
    | dsimp only
    | split
    | (refine Keeps.fst (by with_reducible assumption) ?_)
    | (refine Keeps.snd (by with_reducible assumption) ?_)
    | rfl
    | exact ⟨rfl, rfl⟩
    | exact ⟨rfl, rfl, rfl⟩
    | exact Memory.wf_clear (by assumption) _ _
    | exact Memory.wf_filter (by assumption) _
    | exact Memory.wf_writeBytes (by assumption) _ _
    | with_reducible apply Keeps.mk_all
    | assumption
    | simp_all [Run.ok])

theorem State.advanceOp_keeps {a : State} {p insn} : ∀ {k : Nat} {s : State}, Keeps a s → Keeps a (State.advanceOp p insn k s)
  | 0, _, h => h
  | _ + 1, _, h => by
    unfold State.advanceOp
    iterate 24 all_goals (try first
    | with_reducible assumption
    | with_reducible apply State.advanceOp_keeps
    | with_reducible apply State.modOp_keeps
    | with_reducible apply State.closeDirect_keeps
    | with_reducible apply State.closeRing_keeps
    | with_reducible apply State.nextStage_keeps
    | (with_reducible apply foldl_keeps)
    | (with_reducible apply foldl_fst_keeps)
    | with_reducible apply Keeps.ite
    | with_reducible apply Keeps.ite_fst
    | with_reducible apply Keeps.ite_snd
    | intro _
    | dsimp only
    | split
    | (refine Keeps.fst (by with_reducible assumption) ?_)
    | (refine Keeps.snd (by with_reducible assumption) ?_)
    | rfl
    | exact ⟨rfl, rfl⟩
    | exact ⟨rfl, rfl, rfl⟩
    | exact Memory.wf_clear (by assumption) _ _
    | exact Memory.wf_filter (by assumption) _
    | exact Memory.wf_writeBytes (by assumption) _ _
    | with_reducible apply Keeps.mk_all
    | assumption
    | simp_all [Run.ok])

theorem State.holdSeg_keeps {a s : State} (h : Keeps a s) {x1 x2 x3} : Keeps a (State.holdSeg s x1 x2 x3) := by
  unfold State.holdSeg
  iterate 24 all_goals (try first
    | with_reducible assumption
    | with_reducible apply State.modColl_keeps
    | (with_reducible apply foldl_keeps)
    | (with_reducible apply foldl_fst_keeps)
    | with_reducible apply Keeps.ite
    | with_reducible apply Keeps.ite_fst
    | with_reducible apply Keeps.ite_snd
    | intro _
    | dsimp only
    | split
    | (refine Keeps.fst (by with_reducible assumption) ?_)
    | (refine Keeps.snd (by with_reducible assumption) ?_)
    | rfl
    | exact ⟨rfl, rfl⟩
    | exact ⟨rfl, rfl, rfl⟩
    | exact Memory.wf_clear (by assumption) _ _
    | exact Memory.wf_filter (by assumption) _
    | exact Memory.wf_writeBytes (by assumption) _ _
    | with_reducible apply Keeps.mk_all
    | assumption
    | simp_all [Run.ok])

theorem State.sendTo_keeps {a s : State} (h : Keeps a s) {x1 x2 x3 x4 x5} : Keeps a (State.sendTo s x1 x2 x3 x4 x5) := by
  unfold State.sendTo
  iterate 24 all_goals (try first
    | with_reducible assumption
    | with_reducible apply State.sendSeg_keeps
    | with_reducible apply State.holdSeg_keeps
    | (with_reducible apply foldl_keeps)
    | (with_reducible apply foldl_fst_keeps)
    | with_reducible apply Keeps.ite
    | with_reducible apply Keeps.ite_fst
    | with_reducible apply Keeps.ite_snd
    | intro _
    | dsimp only
    | split
    | (refine Keeps.fst (by with_reducible assumption) ?_)
    | (refine Keeps.snd (by with_reducible assumption) ?_)
    | rfl
    | exact ⟨rfl, rfl⟩
    | exact ⟨rfl, rfl, rfl⟩
    | exact Memory.wf_clear (by assumption) _ _
    | exact Memory.wf_filter (by assumption) _
    | exact Memory.wf_writeBytes (by assumption) _ _
    | with_reducible apply Keeps.mk_all
    | assumption
    | simp_all [Run.ok])

theorem State.rootClose_keeps {a s : State} (h : Keeps a s) {x1 x2 x3 x4 x5 x6} : Keeps a (State.rootClose s x1 x2 x3 x4 x5 x6) := by
  unfold State.rootClose
  iterate 24 all_goals (try first
    | with_reducible assumption
    | with_reducible apply State.modColl_keeps
    | with_reducible apply State.collRuns_keeps
    | with_reducible apply State.sendTo_keeps
    | (with_reducible apply State.each_keeps; intro _ _ _)
    | (with_reducible apply foldl_keeps)
    | (with_reducible apply foldl_fst_keeps)
    | with_reducible apply Keeps.ite
    | with_reducible apply Keeps.ite_fst
    | with_reducible apply Keeps.ite_snd
    | intro _
    | dsimp only
    | split
    | (refine Keeps.fst (by with_reducible assumption) ?_)
    | (refine Keeps.snd (by with_reducible assumption) ?_)
    | rfl
    | exact ⟨rfl, rfl⟩
    | exact ⟨rfl, rfl, rfl⟩
    | exact Memory.wf_clear (by assumption) _ _
    | exact Memory.wf_filter (by assumption) _
    | exact Memory.wf_writeBytes (by assumption) _ _
    | with_reducible apply Keeps.mk_all
    | assumption
    | simp_all [Run.ok])

theorem State.rootAdd_keeps {a s : State} (h : Keeps a s) {x1 x2 x3 x4 x5 x6} : Keeps a (State.rootAdd s x1 x2 x3 x4 x5 x6) := by
  unfold State.rootAdd
  iterate 24 all_goals (try first
    | with_reducible assumption
    | with_reducible apply State.modColl_keeps
    | with_reducible apply State.count_keeps
    | with_reducible apply State.rootClose_keeps
    | (with_reducible apply foldl_keeps)
    | (with_reducible apply foldl_fst_keeps)
    | with_reducible apply Keeps.ite
    | with_reducible apply Keeps.ite_fst
    | with_reducible apply Keeps.ite_snd
    | intro _
    | dsimp only
    | split
    | (refine Keeps.fst (by with_reducible assumption) ?_)
    | (refine Keeps.snd (by with_reducible assumption) ?_)
    | rfl
    | exact ⟨rfl, rfl⟩
    | exact ⟨rfl, rfl, rfl⟩
    | exact Memory.wf_clear (by assumption) _ _
    | exact Memory.wf_filter (by assumption) _
    | exact Memory.wf_writeBytes (by assumption) _ _
    | with_reducible apply Keeps.mk_all
    | assumption
    | simp_all [Run.ok])

theorem State.flagSend_keeps {a s : State} (h : Keeps a s) {x1 x2 x3} : Keeps a (State.flagSend s x1 x2 x3) := by
  unfold State.flagSend
  iterate 24 all_goals (try first
    | with_reducible assumption
    | with_reducible apply State.sendSeg_keeps
    | with_reducible apply State.modOp_keeps
    | with_reducible apply State.rootAdd_keeps
    | (with_reducible apply foldl_keeps)
    | (with_reducible apply foldl_fst_keeps)
    | with_reducible apply Keeps.ite
    | with_reducible apply Keeps.ite_fst
    | with_reducible apply Keeps.ite_snd
    | intro _
    | dsimp only
    | split
    | (refine Keeps.fst (by with_reducible assumption) ?_)
    | (refine Keeps.snd (by with_reducible assumption) ?_)
    | rfl
    | exact ⟨rfl, rfl⟩
    | exact ⟨rfl, rfl, rfl⟩
    | exact Memory.wf_clear (by assumption) _ _
    | exact Memory.wf_filter (by assumption) _
    | exact Memory.wf_writeBytes (by assumption) _ _
    | with_reducible apply Keeps.mk_all
    | assumption
    | simp_all [Run.ok])

theorem State.abandonOps_keeps {a s : State} (h : Keeps a s) {x1} : Keeps a (State.abandonOps s x1) := by
  unfold State.abandonOps
  iterate 24 all_goals (try first
    | with_reducible assumption
    | with_reducible apply State.modColl_keeps
    | with_reducible apply State.combineStats_keeps
    | (with_reducible apply State.each_keeps; intro _ _ _)
    | (with_reducible apply foldl_keeps)
    | (with_reducible apply foldl_fst_keeps)
    | with_reducible apply Keeps.ite
    | with_reducible apply Keeps.ite_fst
    | with_reducible apply Keeps.ite_snd
    | intro _
    | dsimp only
    | split
    | (refine Keeps.fst (by with_reducible assumption) ?_)
    | (refine Keeps.snd (by with_reducible assumption) ?_)
    | rfl
    | exact ⟨rfl, rfl⟩
    | exact ⟨rfl, rfl, rfl⟩
    | exact Memory.wf_clear (by assumption) _ _
    | exact Memory.wf_filter (by assumption) _
    | exact Memory.wf_writeBytes (by assumption) _ _
    | with_reducible apply Keeps.mk_all
    | assumption
    | simp_all [Run.ok])

theorem State.takeDecide_keeps {a s : State} (h : Keeps a s) {x1 x2 x3 x4} : Keeps a (State.takeDecide s x1 x2 x3 x4) := by
  unfold State.takeDecide
  iterate 24 all_goals (try first
    | with_reducible assumption
    | with_reducible apply State.modRun_keeps
    | with_reducible apply State.modPyro_keeps
    | with_reducible apply State.saveMarked_keeps
    | with_reducible apply State.raise_keeps
    | with_reducible apply State.modOp_keeps
    | with_reducible apply State.abandonOps_keeps
    | (with_reducible apply foldl_keeps)
    | (with_reducible apply foldl_fst_keeps)
    | with_reducible apply Keeps.ite
    | with_reducible apply Keeps.ite_fst
    | with_reducible apply Keeps.ite_snd
    | intro _
    | dsimp only
    | split
    | (refine Keeps.fst (by with_reducible assumption) ?_)
    | (refine Keeps.snd (by with_reducible assumption) ?_)
    | rfl
    | exact ⟨rfl, rfl⟩
    | exact ⟨rfl, rfl, rfl⟩
    | exact Memory.wf_clear (by assumption) _ _
    | exact Memory.wf_filter (by assumption) _
    | exact Memory.wf_writeBytes (by assumption) _ _
    | with_reducible apply Keeps.mk_all
    | assumption
    | simp_all [Run.ok])

theorem State.decidedAgain_keeps {a s : State} (h : Keeps a s) {x1 x2 x3 x4} : Keeps a (State.decidedAgain s x1 x2 x3 x4) := by
  unfold State.decidedAgain
  iterate 24 all_goals (try first
    | with_reducible assumption
    | with_reducible apply State.modRun_keeps
    | with_reducible apply State.saveMarked_keeps
    | with_reducible apply State.abandonOps_keeps
    | (with_reducible apply foldl_keeps)
    | (with_reducible apply foldl_fst_keeps)
    | with_reducible apply Keeps.ite
    | with_reducible apply Keeps.ite_fst
    | with_reducible apply Keeps.ite_snd
    | intro _
    | dsimp only
    | split
    | (refine Keeps.fst (by with_reducible assumption) ?_)
    | (refine Keeps.snd (by with_reducible assumption) ?_)
    | rfl
    | exact ⟨rfl, rfl⟩
    | exact ⟨rfl, rfl, rfl⟩
    | exact Memory.wf_clear (by assumption) _ _
    | exact Memory.wf_filter (by assumption) _
    | exact Memory.wf_writeBytes (by assumption) _ _
    | with_reducible apply Keeps.mk_all
    | assumption
    | simp_all [Run.ok])

theorem State.heldAgain_keeps {a s : State} (h : Keeps a s) {x1 x2} : Keeps a (State.heldAgain s x1 x2) := by
  unfold State.heldAgain
  iterate 24 all_goals (try first
    | with_reducible assumption
    | with_reducible apply State.modRun_keeps
    | with_reducible apply State.count_keeps
    | (with_reducible apply foldl_keeps)
    | (with_reducible apply foldl_fst_keeps)
    | with_reducible apply Keeps.ite
    | with_reducible apply Keeps.ite_fst
    | with_reducible apply Keeps.ite_snd
    | intro _
    | dsimp only
    | split
    | (refine Keeps.fst (by with_reducible assumption) ?_)
    | (refine Keeps.snd (by with_reducible assumption) ?_)
    | rfl
    | exact ⟨rfl, rfl⟩
    | exact ⟨rfl, rfl, rfl⟩
    | exact Memory.wf_clear (by assumption) _ _
    | exact Memory.wf_filter (by assumption) _
    | exact Memory.wf_writeBytes (by assumption) _ _
    | with_reducible apply Keeps.mk_all
    | assumption
    | simp_all [Run.ok])

theorem State.decideAgain_keeps {a s : State} (h : Keeps a s) {x1 x2 x3 x4 x5 x6} : Keeps a (State.decideAgain s x1 x2 x3 x4 x5 x6) := by
  unfold State.decideAgain
  iterate 24 all_goals (try first
    | with_reducible assumption
    | with_reducible apply State.modColl_keeps
    | with_reducible apply State.sendTo_keeps
    | (with_reducible apply State.each_keeps; intro _ _ _)
    | (with_reducible apply foldl_keeps)
    | (with_reducible apply foldl_fst_keeps)
    | with_reducible apply Keeps.ite
    | with_reducible apply Keeps.ite_fst
    | with_reducible apply Keeps.ite_snd
    | intro _
    | dsimp only
    | split
    | (refine Keeps.fst (by with_reducible assumption) ?_)
    | (refine Keeps.snd (by with_reducible assumption) ?_)
    | rfl
    | exact ⟨rfl, rfl⟩
    | exact ⟨rfl, rfl, rfl⟩
    | exact Memory.wf_clear (by assumption) _ _
    | exact Memory.wf_filter (by assumption) _
    | exact Memory.wf_writeBytes (by assumption) _ _
    | with_reducible apply Keeps.mk_all
    | assumption
    | simp_all [Run.ok])

theorem State.barrierAnswered_keeps {a s : State} (h : Keeps a s) {x1 x2 x3} : Keeps a (State.barrierAnswered s x1 x2 x3) := by
  unfold State.barrierAnswered
  iterate 24 all_goals (try first
    | with_reducible assumption
    | with_reducible apply State.modColl_keeps
    | with_reducible apply State.unhold_keeps
    | (with_reducible apply foldl_keeps)
    | (with_reducible apply foldl_fst_keeps)
    | with_reducible apply Keeps.ite
    | with_reducible apply Keeps.ite_fst
    | with_reducible apply Keeps.ite_snd
    | intro _
    | dsimp only
    | split
    | (refine Keeps.fst (by with_reducible assumption) ?_)
    | (refine Keeps.snd (by with_reducible assumption) ?_)
    | rfl
    | exact ⟨rfl, rfl⟩
    | exact ⟨rfl, rfl, rfl⟩
    | exact Memory.wf_clear (by assumption) _ _
    | exact Memory.wf_filter (by assumption) _
    | exact Memory.wf_writeBytes (by assumption) _ _
    | with_reducible apply Keeps.mk_all
    | assumption
    | simp_all [Run.ok])

theorem State.barrierHeard_keeps {a s : State} (h : Keeps a s) {x1 x2 x3 x4 x5 x6} : Keeps a (State.barrierHeard s x1 x2 x3 x4 x5 x6) := by
  unfold State.barrierHeard
  iterate 24 all_goals (try first
    | with_reducible assumption
    | with_reducible apply State.modColl_keeps
    | with_reducible apply State.raise_keeps
    | with_reducible apply State.sendSeg_keeps
    | with_reducible apply State.barrierAnswered_keeps
    | (with_reducible apply State.each_keeps; intro _ _ _)
    | (with_reducible apply foldl_keeps)
    | (with_reducible apply foldl_fst_keeps)
    | with_reducible apply Keeps.ite
    | with_reducible apply Keeps.ite_fst
    | with_reducible apply Keeps.ite_snd
    | intro _
    | dsimp only
    | split
    | (refine Keeps.fst (by with_reducible assumption) ?_)
    | (refine Keeps.snd (by with_reducible assumption) ?_)
    | rfl
    | exact ⟨rfl, rfl⟩
    | exact ⟨rfl, rfl, rfl⟩
    | exact Memory.wf_clear (by assumption) _ _
    | exact Memory.wf_filter (by assumption) _
    | exact Memory.wf_writeBytes (by assumption) _ _
    | with_reducible apply Keeps.mk_all
    | assumption
    | simp_all [Run.ok])

theorem State.barrierReach_keeps {a s : State} (h : Keeps a s) {x1 x2 x3 x4} : Keeps a (State.barrierReach s x1 x2 x3 x4) := by
  unfold State.barrierReach
  iterate 24 all_goals (try first
    | with_reducible assumption
    | with_reducible apply State.sendSeg_keeps
    | with_reducible apply State.barrierHeard_keeps
    | (with_reducible apply foldl_keeps)
    | (with_reducible apply foldl_fst_keeps)
    | with_reducible apply Keeps.ite
    | with_reducible apply Keeps.ite_fst
    | with_reducible apply Keeps.ite_snd
    | intro _
    | dsimp only
    | split
    | (refine Keeps.fst (by with_reducible assumption) ?_)
    | (refine Keeps.snd (by with_reducible assumption) ?_)
    | rfl
    | exact ⟨rfl, rfl⟩
    | exact ⟨rfl, rfl, rfl⟩
    | exact Memory.wf_clear (by assumption) _ _
    | exact Memory.wf_filter (by assumption) _
    | exact Memory.wf_writeBytes (by assumption) _ _
    | with_reducible apply Keeps.mk_all
    | assumption
    | simp_all [Run.ok])

theorem State.startConfirm_keeps {a s : State} (h : Keeps a s) {x1} : Keeps a (State.startConfirm s x1) := by
  unfold State.startConfirm
  iterate 24 all_goals (try first
    | with_reducible assumption
    | with_reducible apply State.modColl_keeps
    | with_reducible apply State.hold_keeps
    | with_reducible apply State.barrierReach_keeps
    | (with_reducible apply State.each_keeps; intro _ _ _)
    | (with_reducible apply foldl_keeps)
    | (with_reducible apply foldl_fst_keeps)
    | with_reducible apply Keeps.ite
    | with_reducible apply Keeps.ite_fst
    | with_reducible apply Keeps.ite_snd
    | intro _
    | dsimp only
    | split
    | (refine Keeps.fst (by with_reducible assumption) ?_)
    | (refine Keeps.snd (by with_reducible assumption) ?_)
    | rfl
    | exact ⟨rfl, rfl⟩
    | exact ⟨rfl, rfl, rfl⟩
    | exact Memory.wf_clear (by assumption) _ _
    | exact Memory.wf_filter (by assumption) _
    | exact Memory.wf_writeBytes (by assumption) _ _
    | with_reducible apply Keeps.mk_all
    | assumption
    | simp_all [Run.ok])

theorem Keeps.ite_some {a : State} {c : Prop} [Decidable c] {p q : Option State} (h : ∀ t, p = some t → Keeps a t) (k : ∀ t, q = some t → Keeps a t) :
    ∀ t, (if c then p else q) = some t → Keeps a t := by
  intro t e
  by_cases x : c
  · rw [if_pos x] at e; exact h t e
  · rw [if_neg x] at e; exact k t e
theorem Keeps.none {a : State} : ∀ t, (none : Option State) = some t → Keeps a t := by intro t e; cases e
theorem Keeps.some {a u : State} (h : Keeps a u) : ∀ t, (some u : Option State) = some t → Keeps a t := by intro t e; cases e; exact h

theorem State.useSeg_keeps {a s : State} (h : Keeps a s) {x1 x2 x3} : ∀ {t : State}, State.useSeg s x1 x2 x3 = some t → Keeps a t := by
  unfold State.useSeg
  dsimp only
  refine fun {t} => Keeps.ite_some Keeps.none (Keeps.ite_some (Keeps.ite_some ?_ (Keeps.ite_some ?_ ?_)) ?_) t
  · exact Keeps.some (State.takeLate_keeps h)
  · exact Keeps.some (State.heldAgain_keeps h)
  · exact Keeps.some (State.count_keeps h)
  · split
    · exact Keeps.none
    · rename_i o _
      refine Keeps.ite_some (Keeps.some (State.spreadStat_keeps (State.modOp_keeps h))) ?_
      refine Keeps.ite_some (Keeps.ite_some (Keeps.some (State.takeDecide_keeps h)) (Keeps.ite_some (Keeps.some (State.decidedAgain_keeps h)) Keeps.none)) ?_
      refine Keeps.ite_some (Keeps.some h) (Keeps.ite_some Keeps.none (Keeps.ite_some ?_ ?_))
      · refine Keeps.ite_some (Keeps.ite_some (Keeps.some (State.takeLate_keeps h)) (Keeps.ite_some (Keeps.some (State.takeRing_keeps h)) (Keeps.some h))) ?_
        refine Keeps.ite_some (Keeps.some (State.takeRing_keeps h)) (Keeps.ite_some ?_ Keeps.none)
        exact Keeps.some (Keeps.ite (State.takeDirect_keeps h) (State.takeRing_keeps h))
      · exact Keeps.ite_some (Keeps.some (State.takeResult_keeps h)) (Keeps.ite_some Keeps.none (Keeps.some h))

theorem State.settleOnce_keeps {a s : State} (h : Keeps a s) {x1} : Keeps a (State.settleOnce s x1) := by
  unfold State.settleOnce
  iterate 24 all_goals (try first
    | with_reducible assumption
    | with_reducible apply State.modColl_keeps
    | with_reducible apply State.combineStats_keeps
    | with_reducible apply State.advanceOp_keeps
    | with_reducible apply State.holdSeg_keeps
    | (with_reducible refine State.useSeg_keeps ?_ (by with_reducible assumption))
    | (with_reducible apply State.each_keeps; intro _ _ _)
    | (with_reducible apply foldl_keeps)
    | (with_reducible apply foldl_fst_keeps)
    | with_reducible apply Keeps.ite
    | with_reducible apply Keeps.ite_fst
    | with_reducible apply Keeps.ite_snd
    | intro _
    | dsimp only
    | split
    | (refine Keeps.fst (by with_reducible assumption) ?_)
    | (refine Keeps.snd (by with_reducible assumption) ?_)
    | rfl
    | exact ⟨rfl, rfl⟩
    | exact ⟨rfl, rfl, rfl⟩
    | exact Memory.wf_clear (by assumption) _ _
    | exact Memory.wf_filter (by assumption) _
    | exact Memory.wf_writeBytes (by assumption) _ _
    | with_reducible apply Keeps.mk_all
    | assumption
    | simp_all [Run.ok])

theorem State.settle_keeps {a : State} {p} : ∀ {k : Nat} {s : State}, Keeps a s → Keeps a (State.settle p k s)
  | 0, _, h => h
  | _ + 1, _, h => by
    unfold State.settle
    iterate 24 all_goals (try first
    | with_reducible assumption
    | with_reducible apply State.settle_keeps
    | with_reducible apply State.settleOnce_keeps
    | (with_reducible apply foldl_keeps)
    | (with_reducible apply foldl_fst_keeps)
    | with_reducible apply Keeps.ite
    | with_reducible apply Keeps.ite_fst
    | with_reducible apply Keeps.ite_snd
    | intro _
    | dsimp only
    | split
    | (refine Keeps.fst (by with_reducible assumption) ?_)
    | (refine Keeps.snd (by with_reducible assumption) ?_)
    | rfl
    | exact ⟨rfl, rfl⟩
    | exact ⟨rfl, rfl, rfl⟩
    | exact Memory.wf_clear (by assumption) _ _
    | exact Memory.wf_filter (by assumption) _
    | exact Memory.wf_writeBytes (by assumption) _ _
    | with_reducible apply Keeps.mk_all
    | assumption
    | simp_all [Run.ok])

theorem State.gatherEnd_keeps {a s : State} (h : Keeps a s) {x1} : Keeps a (State.gatherEnd s x1) := by
  unfold State.gatherEnd
  iterate 24 all_goals (try first
    | with_reducible assumption
    | with_reducible apply State.modColl_keeps
    | with_reducible apply State.unhold_keeps
    | (with_reducible apply foldl_keeps)
    | (with_reducible apply foldl_fst_keeps)
    | with_reducible apply Keeps.ite
    | with_reducible apply Keeps.ite_fst
    | with_reducible apply Keeps.ite_snd
    | intro _
    | dsimp only
    | split
    | (refine Keeps.fst (by with_reducible assumption) ?_)
    | (refine Keeps.snd (by with_reducible assumption) ?_)
    | rfl
    | exact ⟨rfl, rfl⟩
    | exact ⟨rfl, rfl, rfl⟩
    | exact Memory.wf_clear (by assumption) _ _
    | exact Memory.wf_filter (by assumption) _
    | exact Memory.wf_writeBytes (by assumption) _ _
    | with_reducible apply Keeps.mk_all
    | assumption
    | simp_all [Run.ok])

theorem State.collSettle_keeps {a s : State} (h : Keeps a s) {x1} : Keeps a (State.collSettle s x1) := by
  unfold State.collSettle
  iterate 24 all_goals (try first
    | with_reducible assumption
    | with_reducible apply State.settle_keeps
    | with_reducible apply State.gatherEnd_keeps
    | (with_reducible apply foldl_keeps)
    | (with_reducible apply foldl_fst_keeps)
    | with_reducible apply Keeps.ite
    | with_reducible apply Keeps.ite_fst
    | with_reducible apply Keeps.ite_snd
    | intro _
    | dsimp only
    | split
    | (refine Keeps.fst (by with_reducible assumption) ?_)
    | (refine Keeps.snd (by with_reducible assumption) ?_)
    | rfl
    | exact ⟨rfl, rfl⟩
    | exact ⟨rfl, rfl, rfl⟩
    | exact Memory.wf_clear (by assumption) _ _
    | exact Memory.wf_filter (by assumption) _
    | exact Memory.wf_writeBytes (by assumption) _ _
    | with_reducible apply Keeps.mk_all
    | assumption
    | simp_all [Run.ok])

theorem State.gatherStart_keeps {a s : State} (h : Keeps a s) {x1 x2} : Keeps a (State.gatherStart s x1 x2) := by
  unfold State.gatherStart
  iterate 24 all_goals (try first
    | with_reducible assumption
    | with_reducible apply State.trySave_keeps
    | with_reducible apply State.modOp_keeps
    | with_reducible apply State.nextStage_keeps
    | with_reducible apply State.advanceOp_keeps
    | with_reducible apply State.collSettle_keeps
    | (with_reducible apply foldl_keeps)
    | (with_reducible apply foldl_fst_keeps)
    | with_reducible apply Keeps.ite
    | with_reducible apply Keeps.ite_fst
    | with_reducible apply Keeps.ite_snd
    | intro _
    | dsimp only
    | split
    | (refine Keeps.fst (by with_reducible assumption) ?_)
    | (refine Keeps.snd (by with_reducible assumption) ?_)
    | rfl
    | exact ⟨rfl, rfl⟩
    | exact ⟨rfl, rfl, rfl⟩
    | exact Memory.wf_clear (by assumption) _ _
    | exact Memory.wf_filter (by assumption) _
    | exact Memory.wf_writeBytes (by assumption) _ _
    | with_reducible apply Keeps.mk_all
    | assumption
    | simp_all [Run.ok])

theorem State.collStart_keeps {a s : State} (h : Keeps a s) {x1 x2} : Keeps a (State.collStart s x1 x2) := by
  unfold State.collStart
  iterate 24 all_goals (try first
    | with_reducible assumption
    | with_reducible apply State.flagSend_keeps
    | with_reducible apply State.abandonOps_keeps
    | with_reducible apply State.collSettle_keeps
    | with_reducible apply State.gatherStart_keeps
    | (with_reducible apply foldl_keeps)
    | (with_reducible apply foldl_fst_keeps)
    | with_reducible apply Keeps.ite
    | with_reducible apply Keeps.ite_fst
    | with_reducible apply Keeps.ite_snd
    | intro _
    | dsimp only
    | split
    | (refine Keeps.fst (by with_reducible assumption) ?_)
    | (refine Keeps.snd (by with_reducible assumption) ?_)
    | rfl
    | exact ⟨rfl, rfl⟩
    | exact ⟨rfl, rfl, rfl⟩
    | exact Memory.wf_clear (by assumption) _ _
    | exact Memory.wf_filter (by assumption) _
    | exact Memory.wf_writeBytes (by assumption) _ _
    | with_reducible apply Keeps.mk_all
    | assumption
    | simp_all [Run.ok])

theorem State.writeGen_keeps {a s : State} (h : Keeps a s) {x1 x2} : Keeps a (State.writeGen s x1 x2) := by
  unfold State.writeGen
  iterate 24 all_goals (try first
    | with_reducible assumption
    | with_reducible apply State.store_keeps
    | (with_reducible apply State.each_keeps; intro _ _ _)
    | (with_reducible apply foldl_keeps)
    | (with_reducible apply foldl_fst_keeps)
    | with_reducible apply Keeps.ite
    | with_reducible apply Keeps.ite_fst
    | with_reducible apply Keeps.ite_snd
    | intro _
    | dsimp only
    | split
    | (refine Keeps.fst (by with_reducible assumption) ?_)
    | (refine Keeps.snd (by with_reducible assumption) ?_)
    | rfl
    | exact ⟨rfl, rfl⟩
    | exact ⟨rfl, rfl, rfl⟩
    | exact Memory.wf_clear (by assumption) _ _
    | exact Memory.wf_filter (by assumption) _
    | exact Memory.wf_writeBytes (by assumption) _ _
    | with_reducible apply Keeps.mk_all
    | assumption
    | simp_all [Run.ok])

theorem State.writeCopy_keeps {a s : State} (h : Keeps a s) {x1 x2 x3} : Keeps a (State.writeCopy s x1 x2 x3) := by
  unfold State.writeCopy
  iterate 24 all_goals (try first
    | with_reducible assumption
    | with_reducible apply State.store_keeps
    | (with_reducible apply foldl_keeps)
    | (with_reducible apply foldl_fst_keeps)
    | with_reducible apply Keeps.ite
    | with_reducible apply Keeps.ite_fst
    | with_reducible apply Keeps.ite_snd
    | intro _
    | dsimp only
    | split
    | (refine Keeps.fst (by with_reducible assumption) ?_)
    | (refine Keeps.snd (by with_reducible assumption) ?_)
    | rfl
    | exact ⟨rfl, rfl⟩
    | exact ⟨rfl, rfl, rfl⟩
    | exact Memory.wf_clear (by assumption) _ _
    | exact Memory.wf_filter (by assumption) _
    | exact Memory.wf_writeBytes (by assumption) _ _
    | with_reducible apply Keeps.mk_all
    | assumption
    | simp_all [Run.ok])

theorem State.lostState_keeps {a s : State} (h : Keeps a s) {x1 x2} : Keeps a (State.lostState s x1 x2) := by
  unfold State.lostState
  iterate 24 all_goals (try first
    | with_reducible assumption
    | with_reducible apply State.modRun_keeps
    | with_reducible apply State.raise_keeps
    | (with_reducible apply foldl_keeps)
    | (with_reducible apply foldl_fst_keeps)
    | with_reducible apply Keeps.ite
    | with_reducible apply Keeps.ite_fst
    | with_reducible apply Keeps.ite_snd
    | intro _
    | dsimp only
    | split
    | (refine Keeps.fst (by with_reducible assumption) ?_)
    | (refine Keeps.snd (by with_reducible assumption) ?_)
    | rfl
    | exact ⟨rfl, rfl⟩
    | exact ⟨rfl, rfl, rfl⟩
    | exact Memory.wf_clear (by assumption) _ _
    | exact Memory.wf_filter (by assumption) _
    | exact Memory.wf_writeBytes (by assumption) _ _
    | with_reducible apply Keeps.mk_all
    | assumption
    | simp_all [Run.ok])

theorem State.voteGen_keeps {a s : State} (h : Keeps a s) {x1 x2} : Keeps a (State.voteGen s x1 x2).1 := by
  unfold State.voteGen
  iterate 24 all_goals (try first
    | with_reducible assumption
    | with_reducible apply State.modPart_keeps
    | with_reducible apply State.raise_keeps
    | with_reducible apply State.writeGen_keeps
    | (with_reducible apply foldl_keeps)
    | (with_reducible apply foldl_fst_keeps)
    | with_reducible apply Keeps.ite
    | with_reducible apply Keeps.ite_fst
    | with_reducible apply Keeps.ite_snd
    | intro _
    | dsimp only
    | split
    | (refine Keeps.fst (by with_reducible assumption) ?_)
    | (refine Keeps.snd (by with_reducible assumption) ?_)
    | rfl
    | exact ⟨rfl, rfl⟩
    | exact ⟨rfl, rfl, rfl⟩
    | exact Memory.wf_clear (by assumption) _ _
    | exact Memory.wf_filter (by assumption) _
    | exact Memory.wf_writeBytes (by assumption) _ _
    | with_reducible apply Keeps.mk_all
    | assumption
    | simp_all [Run.ok])

theorem State.voteShards_keeps {a s : State} (h : Keeps a s) {x1 x2} : Keeps a (State.voteShards s x1 x2).1 := by
  unfold State.voteShards
  iterate 24 all_goals (try first
    | with_reducible assumption
    | with_reducible apply State.lostState_keeps
    | with_reducible apply State.voteGen_keeps
    | (with_reducible apply foldl_keeps)
    | (with_reducible apply foldl_fst_keeps)
    | with_reducible apply Keeps.ite
    | with_reducible apply Keeps.ite_fst
    | with_reducible apply Keeps.ite_snd
    | intro _
    | dsimp only
    | split
    | (refine Keeps.fst (by with_reducible assumption) ?_)
    | (refine Keeps.snd (by with_reducible assumption) ?_)
    | rfl
    | exact ⟨rfl, rfl⟩
    | exact ⟨rfl, rfl, rfl⟩
    | exact Memory.wf_clear (by assumption) _ _
    | exact Memory.wf_filter (by assumption) _
    | exact Memory.wf_writeBytes (by assumption) _ _
    | with_reducible apply Keeps.mk_all
    | assumption
    | simp_all [Run.ok])

theorem State.writeState_keeps {a s : State} (h : Keeps a s) {x1 x2 x3} : Keeps a (State.writeState s x1 x2 x3) := by
  unfold State.writeState
  iterate 24 all_goals (try first
    | with_reducible assumption
    | with_reducible apply State.store_keeps
    | (with_reducible apply foldl_keeps)
    | (with_reducible apply foldl_fst_keeps)
    | with_reducible apply Keeps.ite
    | with_reducible apply Keeps.ite_fst
    | with_reducible apply Keeps.ite_snd
    | intro _
    | dsimp only
    | split
    | (refine Keeps.fst (by with_reducible assumption) ?_)
    | (refine Keeps.snd (by with_reducible assumption) ?_)
    | rfl
    | exact ⟨rfl, rfl⟩
    | exact ⟨rfl, rfl, rfl⟩
    | exact Memory.wf_clear (by assumption) _ _
    | exact Memory.wf_filter (by assumption) _
    | exact Memory.wf_writeBytes (by assumption) _ _
    | with_reducible apply Keeps.mk_all
    | assumption
    | simp_all [Run.ok])

theorem State.sampleCommit_keeps {a s : State} (h : Keeps a s) {x1 x2 x3 x4} : Keeps a (State.sampleCommit s x1 x2 x3 x4) := by
  unfold State.sampleCommit
  iterate 24 all_goals (try first
    | with_reducible assumption
    | with_reducible apply State.sampleWith_keeps
    | with_reducible apply State.sample_keeps
    | (with_reducible apply foldl_keeps)
    | (with_reducible apply foldl_fst_keeps)
    | with_reducible apply Keeps.ite
    | with_reducible apply Keeps.ite_fst
    | with_reducible apply Keeps.ite_snd
    | intro _
    | dsimp only
    | split
    | (refine Keeps.fst (by with_reducible assumption) ?_)
    | (refine Keeps.snd (by with_reducible assumption) ?_)
    | rfl
    | exact ⟨rfl, rfl⟩
    | exact ⟨rfl, rfl, rfl⟩
    | exact Memory.wf_clear (by assumption) _ _
    | exact Memory.wf_filter (by assumption) _
    | exact Memory.wf_writeBytes (by assumption) _ _
    | with_reducible apply Keeps.mk_all
    | assumption
    | simp_all [Run.ok])

theorem State.sampleMasters_keeps {a s : State} (h : Keeps a s) {x1 x2 x3 x4} : Keeps a (State.sampleMasters s x1 x2 x3 x4) := by
  unfold State.sampleMasters
  iterate 24 all_goals (try first
    | with_reducible assumption
    | with_reducible apply State.sample_keeps
    | (with_reducible apply foldl_keeps)
    | (with_reducible apply foldl_fst_keeps)
    | with_reducible apply Keeps.ite
    | with_reducible apply Keeps.ite_fst
    | with_reducible apply Keeps.ite_snd
    | intro _
    | dsimp only
    | split
    | (refine Keeps.fst (by with_reducible assumption) ?_)
    | (refine Keeps.snd (by with_reducible assumption) ?_)
    | rfl
    | exact ⟨rfl, rfl⟩
    | exact ⟨rfl, rfl, rfl⟩
    | exact Memory.wf_clear (by assumption) _ _
    | exact Memory.wf_filter (by assumption) _
    | exact Memory.wf_writeBytes (by assumption) _ _
    | with_reducible apply Keeps.mk_all
    | assumption
    | simp_all [Run.ok])

theorem State.writeWork_keeps {a s : State} (h : Keeps a s) {x1 x2} : Keeps a (State.writeWork s x1 x2) := by
  unfold State.writeWork
  iterate 24 all_goals (try first
    | with_reducible assumption
    | with_reducible apply State.store_keeps
    | (with_reducible apply foldl_keeps)
    | (with_reducible apply foldl_fst_keeps)
    | with_reducible apply Keeps.ite
    | with_reducible apply Keeps.ite_fst
    | with_reducible apply Keeps.ite_snd
    | intro _
    | dsimp only
    | split
    | (refine Keeps.fst (by with_reducible assumption) ?_)
    | (refine Keeps.snd (by with_reducible assumption) ?_)
    | rfl
    | exact ⟨rfl, rfl⟩
    | exact ⟨rfl, rfl, rfl⟩
    | exact Memory.wf_clear (by assumption) _ _
    | exact Memory.wf_filter (by assumption) _
    | exact Memory.wf_writeBytes (by assumption) _ _
    | with_reducible apply Keeps.mk_all
    | assumption
    | simp_all [Run.ok])

theorem State.putWork_keeps {a s : State} (h : Keeps a s) {x1 x2 x3} : Keeps a (State.putWork s x1 x2 x3) := by
  unfold State.putWork
  iterate 24 all_goals (try first
    | with_reducible assumption
    | with_reducible apply State.addrErr_keeps
    | with_reducible apply State.writeWork_keeps
    | (with_reducible apply foldl_keeps)
    | (with_reducible apply foldl_fst_keeps)
    | with_reducible apply Keeps.ite
    | with_reducible apply Keeps.ite_fst
    | with_reducible apply Keeps.ite_snd
    | intro _
    | dsimp only
    | split
    | (refine Keeps.fst (by with_reducible assumption) ?_)
    | (refine Keeps.snd (by with_reducible assumption) ?_)
    | rfl
    | exact ⟨rfl, rfl⟩
    | exact ⟨rfl, rfl, rfl⟩
    | exact Memory.wf_clear (by assumption) _ _
    | exact Memory.wf_filter (by assumption) _
    | exact Memory.wf_writeBytes (by assumption) _ _
    | with_reducible apply Keeps.mk_all
    | assumption
    | simp_all [Run.ok])

theorem State.rederive_keeps {a s : State} (h : Keeps a s) {x1 x2 x3} : Keeps a (State.rederive s x1 x2 x3) := by
  unfold State.rederive
  iterate 24 all_goals (try first
    | with_reducible assumption
    | with_reducible apply State.saveMarked_keeps
    | (with_reducible apply foldl_keeps)
    | (with_reducible apply foldl_fst_keeps)
    | with_reducible apply Keeps.ite
    | with_reducible apply Keeps.ite_fst
    | with_reducible apply Keeps.ite_snd
    | intro _
    | dsimp only
    | split
    | (refine Keeps.fst (by with_reducible assumption) ?_)
    | (refine Keeps.snd (by with_reducible assumption) ?_)
    | rfl
    | exact ⟨rfl, rfl⟩
    | exact ⟨rfl, rfl, rfl⟩
    | exact Memory.wf_clear (by assumption) _ _
    | exact Memory.wf_filter (by assumption) _
    | exact Memory.wf_writeBytes (by assumption) _ _
    | with_reducible apply Keeps.mk_all
    | assumption
    | simp_all [Run.ok])

theorem State.foldRec_keeps {a s : State} (h : Keeps a s) {x1 x2 x3} : Keeps a (State.foldRec s x1 x2 x3) := by
  unfold State.foldRec
  iterate 24 all_goals (try first
    | with_reducible assumption
    | with_reducible apply State.modOuter_keeps
    | with_reducible apply State.raise_keeps
    | (with_reducible apply foldl_keeps)
    | (with_reducible apply foldl_fst_keeps)
    | with_reducible apply Keeps.ite
    | with_reducible apply Keeps.ite_fst
    | with_reducible apply Keeps.ite_snd
    | intro _
    | dsimp only
    | split
    | (refine Keeps.fst (by with_reducible assumption) ?_)
    | (refine Keeps.snd (by with_reducible assumption) ?_)
    | rfl
    | exact ⟨rfl, rfl⟩
    | exact ⟨rfl, rfl, rfl⟩
    | exact Memory.wf_clear (by assumption) _ _
    | exact Memory.wf_filter (by assumption) _
    | exact Memory.wf_writeBytes (by assumption) _ _
    | with_reducible apply Keeps.mk_all
    | assumption
    | simp_all [Run.ok])

theorem State.placeRedo_keeps {a s : State} (h : Keeps a s) {x1} : Keeps a (State.placeRedo s x1) := by
  unfold State.placeRedo
  iterate 24 all_goals (try first
    | with_reducible assumption
    | with_reducible apply State.modPart_keeps
    | with_reducible apply State.modUnit_keeps
    | (with_reducible apply foldl_keeps)
    | (with_reducible apply foldl_fst_keeps)
    | with_reducible apply Keeps.ite
    | with_reducible apply Keeps.ite_fst
    | with_reducible apply Keeps.ite_snd
    | intro _
    | dsimp only
    | split
    | (refine Keeps.fst (by with_reducible assumption) ?_)
    | (refine Keeps.snd (by with_reducible assumption) ?_)
    | rfl
    | exact ⟨rfl, rfl⟩
    | exact ⟨rfl, rfl, rfl⟩
    | exact Memory.wf_clear (by assumption) _ _
    | exact Memory.wf_filter (by assumption) _
    | exact Memory.wf_writeBytes (by assumption) _ _
    | with_reducible apply Keeps.mk_all
    | assumption
    | simp_all [Run.ok])

theorem doCommitOpen_keeps {a s : State} (h : Keeps a s) {x1 x2} : Keeps a (doCommitOpen x1 x2 s) := by
  unfold doCommitOpen
  iterate 24 all_goals (try first
    | with_reducible assumption
    | with_reducible apply State.modUnit_keeps
    | with_reducible apply State.raise_keeps
    | with_reducible apply State.addrErr_keeps
    | with_reducible apply State.meet_keeps
    | with_reducible apply State.lostState_keeps
    | with_reducible apply State.voteGen_keeps
    | with_reducible apply State.writeState_keeps
    | with_reducible apply State.sampleCommit_keeps
    | with_reducible apply State.sampleMasters_keeps
    | with_reducible apply State.foldRec_keeps
    | with_reducible apply State.placeRedo_keeps
    | (with_reducible apply foldl_keeps)
    | (with_reducible apply foldl_fst_keeps)
    | with_reducible apply Keeps.ite
    | with_reducible apply Keeps.ite_fst
    | with_reducible apply Keeps.ite_snd
    | intro _
    | dsimp only
    | split
    | (refine Keeps.fst (by with_reducible assumption) ?_)
    | (refine Keeps.snd (by with_reducible assumption) ?_)
    | rfl
    | exact ⟨rfl, rfl⟩
    | exact ⟨rfl, rfl, rfl⟩
    | exact Memory.wf_clear (by assumption) _ _
    | exact Memory.wf_filter (by assumption) _
    | exact Memory.wf_writeBytes (by assumption) _ _
    | with_reducible apply Keeps.mk_all
    | assumption
    | simp_all [Run.ok])

theorem execCommitOpen_keeps {s t : State} {x1} (e : execCommitOpen x1 s = .next t) : Keeps s t := by
  refine answer_keeps e ?_
  have h := Keeps.refl s
  iterate 24 all_goals (try first
    | with_reducible assumption
    | with_reducible apply doCommitOpen_keeps
    | (with_reducible apply foldl_keeps)
    | (with_reducible apply foldl_fst_keeps)
    | with_reducible apply Keeps.ite
    | with_reducible apply Keeps.ite_fst
    | with_reducible apply Keeps.ite_snd
    | intro _
    | dsimp only
    | split
    | (refine Keeps.fst (by with_reducible assumption) ?_)
    | (refine Keeps.snd (by with_reducible assumption) ?_)
    | rfl
    | exact ⟨rfl, rfl⟩
    | exact ⟨rfl, rfl, rfl⟩
    | exact Memory.wf_clear (by assumption) _ _
    | exact Memory.wf_filter (by assumption) _
    | exact Memory.wf_writeBytes (by assumption) _ _
    | with_reducible apply Keeps.mk_all
    | assumption
    | simp_all [Run.ok])

theorem State.flipNext_keeps {a s : State} (h : Keeps a s) {x1 x2 x3} : Keeps a (State.flipNext s x1 x2 x3) := by
  unfold State.flipNext
  iterate 24 all_goals (try first
    | with_reducible assumption
    | with_reducible apply State.modRun_keeps
    | with_reducible apply State.modUnit_keeps
    | with_reducible apply State.writeCopy_keeps
    | with_reducible apply State.putWork_keeps
    | (with_reducible apply foldl_keeps)
    | (with_reducible apply foldl_fst_keeps)
    | with_reducible apply Keeps.ite
    | with_reducible apply Keeps.ite_fst
    | with_reducible apply Keeps.ite_snd
    | intro _
    | dsimp only
    | split
    | (refine Keeps.fst (by with_reducible assumption) ?_)
    | (refine Keeps.snd (by with_reducible assumption) ?_)
    | rfl
    | exact ⟨rfl, rfl⟩
    | exact ⟨rfl, rfl, rfl⟩
    | exact Memory.wf_clear (by assumption) _ _
    | exact Memory.wf_filter (by assumption) _
    | exact Memory.wf_writeBytes (by assumption) _ _
    | with_reducible apply Keeps.mk_all
    | assumption
    | simp_all [Run.ok])

theorem doCommitDecision_keeps {a s : State} (h : Keeps a s) {x1} : Keeps a (doCommitDecision x1 s) := by
  unfold doCommitDecision
  iterate 24 all_goals (try first
    | with_reducible assumption
    | with_reducible apply State.modRun_keeps
    | with_reducible apply State.modUnit_keeps
    | with_reducible apply State.raise_keeps
    | with_reducible apply State.putWork_keeps
    | with_reducible apply State.flipNext_keeps
    | (with_reducible apply foldl_keeps)
    | (with_reducible apply foldl_fst_keeps)
    | with_reducible apply Keeps.ite
    | with_reducible apply Keeps.ite_fst
    | with_reducible apply Keeps.ite_snd
    | intro _
    | dsimp only
    | split
    | (refine Keeps.fst (by with_reducible assumption) ?_)
    | (refine Keeps.snd (by with_reducible assumption) ?_)
    | rfl
    | exact ⟨rfl, rfl⟩
    | exact ⟨rfl, rfl, rfl⟩
    | exact Memory.wf_clear (by assumption) _ _
    | exact Memory.wf_filter (by assumption) _
    | exact Memory.wf_writeBytes (by assumption) _ _
    | with_reducible apply Keeps.mk_all
    | assumption
    | simp_all [Run.ok])

theorem execCommitDecision_keeps {s t : State} {x1} (e : execCommitDecision x1 s = .next t) : Keeps s t := by
  refine answer_keeps e ?_
  have h := Keeps.refl s
  iterate 24 all_goals (try first
    | with_reducible assumption
    | with_reducible apply doCommitDecision_keeps
    | (with_reducible apply foldl_keeps)
    | (with_reducible apply foldl_fst_keeps)
    | with_reducible apply Keeps.ite
    | with_reducible apply Keeps.ite_fst
    | with_reducible apply Keeps.ite_snd
    | intro _
    | dsimp only
    | split
    | (refine Keeps.fst (by with_reducible assumption) ?_)
    | (refine Keeps.snd (by with_reducible assumption) ?_)
    | rfl
    | exact ⟨rfl, rfl⟩
    | exact ⟨rfl, rfl, rfl⟩
    | exact Memory.wf_clear (by assumption) _ _
    | exact Memory.wf_filter (by assumption) _
    | exact Memory.wf_writeBytes (by assumption) _ _
    | with_reducible apply Keeps.mk_all
    | assumption
    | simp_all [Run.ok])

theorem doCommitComplete_keeps {a s : State} (h : Keeps a s) {x1} : Keeps a (doCommitComplete x1 s) := by
  unfold doCommitComplete
  iterate 24 all_goals (try first
    | with_reducible assumption
    | with_reducible apply State.modUnit_keeps
    | with_reducible apply State.complete_keeps
    | (with_reducible apply foldl_keeps)
    | (with_reducible apply foldl_fst_keeps)
    | with_reducible apply Keeps.ite
    | with_reducible apply Keeps.ite_fst
    | with_reducible apply Keeps.ite_snd
    | intro _
    | dsimp only
    | split
    | (refine Keeps.fst (by with_reducible assumption) ?_)
    | (refine Keeps.snd (by with_reducible assumption) ?_)
    | rfl
    | exact ⟨rfl, rfl⟩
    | exact ⟨rfl, rfl, rfl⟩
    | exact Memory.wf_clear (by assumption) _ _
    | exact Memory.wf_filter (by assumption) _
    | exact Memory.wf_writeBytes (by assumption) _ _
    | with_reducible apply Keeps.mk_all
    | assumption
    | simp_all [Run.ok])

theorem execCommitComplete_keeps {s t : State} {x1} (e : execCommitComplete x1 s = .next t) : Keeps s t := by
  refine answer_keeps e ?_
  have h := Keeps.refl s
  iterate 24 all_goals (try first
    | with_reducible assumption
    | with_reducible apply doCommitComplete_keeps
    | (with_reducible apply foldl_keeps)
    | (with_reducible apply foldl_fst_keeps)
    | with_reducible apply Keeps.ite
    | with_reducible apply Keeps.ite_fst
    | with_reducible apply Keeps.ite_snd
    | intro _
    | dsimp only
    | split
    | (refine Keeps.fst (by with_reducible assumption) ?_)
    | (refine Keeps.snd (by with_reducible assumption) ?_)
    | rfl
    | exact ⟨rfl, rfl⟩
    | exact ⟨rfl, rfl, rfl⟩
    | exact Memory.wf_clear (by assumption) _ _
    | exact Memory.wf_filter (by assumption) _
    | exact Memory.wf_writeBytes (by assumption) _ _
    | with_reducible apply Keeps.mk_all
    | assumption
    | simp_all [Run.ok])

theorem State.updateDiscard_keeps {a s : State} (h : Keeps a s) {x1} : Keeps a (State.updateDiscard s x1) := by
  unfold State.updateDiscard
  iterate 24 all_goals (try first
    | with_reducible assumption
    | with_reducible apply State.modPart_keeps
    | (with_reducible apply foldl_keeps)
    | (with_reducible apply foldl_fst_keeps)
    | with_reducible apply Keeps.ite
    | with_reducible apply Keeps.ite_fst
    | with_reducible apply Keeps.ite_snd
    | intro _
    | dsimp only
    | split
    | (refine Keeps.fst (by with_reducible assumption) ?_)
    | (refine Keeps.snd (by with_reducible assumption) ?_)
    | rfl
    | exact ⟨rfl, rfl⟩
    | exact ⟨rfl, rfl, rfl⟩
    | exact Memory.wf_clear (by assumption) _ _
    | exact Memory.wf_filter (by assumption) _
    | exact Memory.wf_writeBytes (by assumption) _ _
    | with_reducible apply Keeps.mk_all
    | assumption
    | simp_all [Run.ok])

theorem State.smithCommit_keeps {a s : State} (h : Keeps a s) {x1 x2 x3 x4} : Keeps a (State.smithCommit s x1 x2 x3 x4).1 := by
  unfold State.smithCommit
  iterate 24 all_goals (try first
    | with_reducible assumption
    | with_reducible apply State.modRun_keeps
    | with_reducible apply State.modPyro_keeps
    | with_reducible apply State.raise_keeps
    | with_reducible apply State.addrErr_keeps
    | with_reducible apply State.writeGen_keeps
    | with_reducible apply State.lostState_keeps
    | with_reducible apply State.voteGen_keeps
    | with_reducible apply State.writeState_keeps
    | with_reducible apply State.sampleCommit_keeps
    | with_reducible apply State.putWork_keeps
    | with_reducible apply State.foldRec_keeps
    | (with_reducible apply foldl_keeps)
    | (with_reducible apply foldl_fst_keeps)
    | with_reducible apply Keeps.ite
    | with_reducible apply Keeps.ite_fst
    | with_reducible apply Keeps.ite_snd
    | intro _
    | dsimp only
    | split
    | (refine Keeps.fst (by with_reducible assumption) ?_)
    | (refine Keeps.snd (by with_reducible assumption) ?_)
    | rfl
    | exact ⟨rfl, rfl⟩
    | exact ⟨rfl, rfl, rfl⟩
    | exact Memory.wf_clear (by assumption) _ _
    | exact Memory.wf_filter (by assumption) _
    | exact Memory.wf_writeBytes (by assumption) _ _
    | with_reducible apply Keeps.mk_all
    | assumption
    | simp_all [Run.ok])

theorem State.streamMalformed_keeps {a s : State} (h : Keeps a s) {x1 x2 x3 x4} : Keeps a (State.streamMalformed s x1 x2 x3 x4) := by
  unfold State.streamMalformed
  iterate 24 all_goals (try first
    | with_reducible assumption
    | with_reducible apply State.raise_keeps
    | with_reducible apply State.stopStream_keeps
    | (with_reducible apply foldl_keeps)
    | (with_reducible apply foldl_fst_keeps)
    | with_reducible apply Keeps.ite
    | with_reducible apply Keeps.ite_fst
    | with_reducible apply Keeps.ite_snd
    | intro _
    | dsimp only
    | split
    | (refine Keeps.fst (by with_reducible assumption) ?_)
    | (refine Keeps.snd (by with_reducible assumption) ?_)
    | rfl
    | exact ⟨rfl, rfl⟩
    | exact ⟨rfl, rfl, rfl⟩
    | exact Memory.wf_clear (by assumption) _ _
    | exact Memory.wf_filter (by assumption) _
    | exact Memory.wf_writeBytes (by assumption) _ _
    | with_reducible apply Keeps.mk_all
    | assumption
    | simp_all [Run.ok])

theorem State.block_keeps {a s : State} (h : Keeps a s) {x1 x2 x3} : Keeps a (State.block s x1 x2 x3) := by
  unfold State.block
  iterate 24 all_goals (try first
    | with_reducible assumption
    | with_reducible apply State.modSeq_keeps
    | (with_reducible apply foldl_keeps)
    | (with_reducible apply foldl_fst_keeps)
    | with_reducible apply Keeps.ite
    | with_reducible apply Keeps.ite_fst
    | with_reducible apply Keeps.ite_snd
    | intro _
    | dsimp only
    | split
    | (refine Keeps.fst (by with_reducible assumption) ?_)
    | (refine Keeps.snd (by with_reducible assumption) ?_)
    | rfl
    | exact ⟨rfl, rfl⟩
    | exact ⟨rfl, rfl, rfl⟩
    | exact Memory.wf_clear (by assumption) _ _
    | exact Memory.wf_filter (by assumption) _
    | exact Memory.wf_writeBytes (by assumption) _ _
    | with_reducible apply Keeps.mk_all
    | assumption
    | simp_all [Run.ok])

theorem State.addStall_keeps {a s : State} (h : Keeps a s) {x1 x2} : Keeps a (State.addStall s x1 x2) := by
  unfold State.addStall
  iterate 24 all_goals (try first
    | with_reducible assumption
    | with_reducible apply State.modRun_keeps
    | (with_reducible apply foldl_keeps)
    | (with_reducible apply foldl_fst_keeps)
    | with_reducible apply Keeps.ite
    | with_reducible apply Keeps.ite_fst
    | with_reducible apply Keeps.ite_snd
    | intro _
    | dsimp only
    | split
    | (refine Keeps.fst (by with_reducible assumption) ?_)
    | (refine Keeps.snd (by with_reducible assumption) ?_)
    | rfl
    | exact ⟨rfl, rfl⟩
    | exact ⟨rfl, rfl, rfl⟩
    | exact Memory.wf_clear (by assumption) _ _
    | exact Memory.wf_filter (by assumption) _
    | exact Memory.wf_writeBytes (by assumption) _ _
    | with_reducible apply Keeps.mk_all
    | assumption
    | simp_all [Run.ok])

theorem State.unblock_keeps {a s : State} (h : Keeps a s) {x1 x2} : Keeps a (State.unblock s x1 x2) := by
  unfold State.unblock
  iterate 24 all_goals (try first
    | with_reducible assumption
    | with_reducible apply State.modSeq_keeps
    | with_reducible apply State.addStall_keeps
    | (with_reducible apply foldl_keeps)
    | (with_reducible apply foldl_fst_keeps)
    | with_reducible apply Keeps.ite
    | with_reducible apply Keeps.ite_fst
    | with_reducible apply Keeps.ite_snd
    | intro _
    | dsimp only
    | split
    | (refine Keeps.fst (by with_reducible assumption) ?_)
    | (refine Keeps.snd (by with_reducible assumption) ?_)
    | rfl
    | exact ⟨rfl, rfl⟩
    | exact ⟨rfl, rfl, rfl⟩
    | exact Memory.wf_clear (by assumption) _ _
    | exact Memory.wf_filter (by assumption) _
    | exact Memory.wf_writeBytes (by assumption) _ _
    | with_reducible apply Keeps.mk_all
    | assumption
    | simp_all [Run.ok])

theorem State.consume_keeps {a s : State} (h : Keeps a s) {x1 x2 x3} : Keeps a (State.consume s x1 x2 x3) := by
  unfold State.consume
  iterate 24 all_goals (try first
    | with_reducible assumption
    | with_reducible apply State.modRun_keeps
    | with_reducible apply State.modSeq_keeps
    | with_reducible apply State.addStall_keeps
    | (with_reducible apply foldl_keeps)
    | (with_reducible apply foldl_fst_keeps)
    | with_reducible apply Keeps.ite
    | with_reducible apply Keeps.ite_fst
    | with_reducible apply Keeps.ite_snd
    | intro _
    | dsimp only
    | split
    | (refine Keeps.fst (by with_reducible assumption) ?_)
    | (refine Keeps.snd (by with_reducible assumption) ?_)
    | rfl
    | exact ⟨rfl, rfl⟩
    | exact ⟨rfl, rfl, rfl⟩
    | exact Memory.wf_clear (by assumption) _ _
    | exact Memory.wf_filter (by assumption) _
    | exact Memory.wf_writeBytes (by assumption) _ _
    | with_reducible apply Keeps.mk_all
    | assumption
    | simp_all [Run.ok])

theorem State.signalAtIssue_keeps {a s : State} (h : Keeps a s) {x1 x2} : Keeps a (State.signalAtIssue s x1 x2) := by
  unfold State.signalAtIssue
  iterate 24 all_goals (try first
    | with_reducible assumption
    | with_reducible apply State.signal_keeps
    | (with_reducible apply foldl_keeps)
    | (with_reducible apply foldl_fst_keeps)
    | with_reducible apply Keeps.ite
    | with_reducible apply Keeps.ite_fst
    | with_reducible apply Keeps.ite_snd
    | intro _
    | dsimp only
    | split
    | (refine Keeps.fst (by with_reducible assumption) ?_)
    | (refine Keeps.snd (by with_reducible assumption) ?_)
    | rfl
    | exact ⟨rfl, rfl⟩
    | exact ⟨rfl, rfl, rfl⟩
    | exact Memory.wf_clear (by assumption) _ _
    | exact Memory.wf_filter (by assumption) _
    | exact Memory.wf_writeBytes (by assumption) _ _
    | with_reducible apply Keeps.mk_all
    | assumption
    | simp_all [Run.ok])

theorem State.openInsn_keeps {a s : State} (h : Keeps a s) {x1 x2 x3 x4} : Keeps a (State.openInsn s x1 x2 x3 x4) := by
  unfold State.openInsn
  iterate 24 all_goals (try first
    | with_reducible assumption
    | with_reducible apply State.modRun_keeps
    | with_reducible apply State.modSeq_keeps
    | (with_reducible apply foldl_keeps)
    | (with_reducible apply foldl_fst_keeps)
    | with_reducible apply Keeps.ite
    | with_reducible apply Keeps.ite_fst
    | with_reducible apply Keeps.ite_snd
    | intro _
    | dsimp only
    | split
    | (refine Keeps.fst (by with_reducible assumption) ?_)
    | (refine Keeps.snd (by with_reducible assumption) ?_)
    | rfl
    | exact ⟨rfl, rfl⟩
    | exact ⟨rfl, rfl, rfl⟩
    | exact Memory.wf_clear (by assumption) _ _
    | exact Memory.wf_filter (by assumption) _
    | exact Memory.wf_writeBytes (by assumption) _ _
    | with_reducible apply Keeps.mk_all
    | assumption
    | simp_all [Run.ok])

theorem State.issue_keeps {a s : State} (h : Keeps a s) {x1 x2 x3 x4 x5} (hF : ∀ t w, Keeps a t → Keeps a (x5 t w)) : Keeps a (State.issue s x1 x2 x3 x4 x5) := by
  unfold State.issue
  iterate 24 all_goals (try first
    | with_reducible assumption
    | with_reducible apply hF
    | with_reducible apply State.addrErr_keeps
    | with_reducible apply State.streamMalformed_keeps
    | with_reducible apply State.block_keeps
    | (with_reducible apply foldl_keeps)
    | (with_reducible apply foldl_fst_keeps)
    | with_reducible apply Keeps.ite
    | with_reducible apply Keeps.ite_fst
    | with_reducible apply Keeps.ite_snd
    | intro _
    | dsimp only
    | split
    | (refine Keeps.fst (by with_reducible assumption) ?_)
    | (refine Keeps.snd (by with_reducible assumption) ?_)
    | rfl
    | exact ⟨rfl, rfl⟩
    | exact ⟨rfl, rfl, rfl⟩
    | exact Memory.wf_clear (by assumption) _ _
    | exact Memory.wf_filter (by assumption) _
    | exact Memory.wf_writeBytes (by assumption) _ _
    | with_reducible apply Keeps.mk_all
    | assumption
    | simp_all [Run.ok])

theorem State.fetched_keeps {a s : State} (h : Keeps a s) {x1 x2} : Keeps a (State.fetched s x1 x2) := by
  unfold State.fetched
  iterate 24 all_goals (try first
    | with_reducible assumption
    | with_reducible apply State.meet_keeps
    | (with_reducible apply foldl_keeps)
    | (with_reducible apply foldl_fst_keeps)
    | with_reducible apply Keeps.ite
    | with_reducible apply Keeps.ite_fst
    | with_reducible apply Keeps.ite_snd
    | intro _
    | dsimp only
    | split
    | (refine Keeps.fst (by with_reducible assumption) ?_)
    | (refine Keeps.snd (by with_reducible assumption) ?_)
    | rfl
    | exact ⟨rfl, rfl⟩
    | exact ⟨rfl, rfl, rfl⟩
    | exact Memory.wf_clear (by assumption) _ _
    | exact Memory.wf_filter (by assumption) _
    | exact Memory.wf_writeBytes (by assumption) _ _
    | with_reducible apply Keeps.mk_all
    | assumption
    | simp_all [Run.ok])

theorem State.issueRow_keeps {a s : State} (h : Keeps a s) {x1 x2 x3 x4 x5} (hF : ∀ t w, Keeps a t → Keeps a (x5 x1 x2.sid t w)) :
    Keeps a (State.issueRow s x1 x2 x3 x4 x5) := by
  unfold State.issueRow
  exact State.issue_keeps (State.fetched_keeps h) hF

theorem State.issueDesc_keeps {a s : State} (h : Keeps a s) {x1 x2 x3 x4 x5 x6} (hF : ∀ t d n, Keeps a t → Keeps a (x6 t d n)) : Keeps a (State.issueDesc s x1 x2 x3 x4 x5 x6) := by
  unfold State.issueDesc
  iterate 24 all_goals (try first
    | with_reducible assumption
    | with_reducible apply hF
    | with_reducible apply State.streamMalformed_keeps
    | with_reducible apply State.unblock_keeps
    | with_reducible apply State.consume_keeps
    | with_reducible apply State.openInsn_keeps
    | (with_reducible apply foldl_keeps)
    | (with_reducible apply foldl_fst_keeps)
    | with_reducible apply Keeps.ite
    | with_reducible apply Keeps.ite_fst
    | with_reducible apply Keeps.ite_snd
    | intro _
    | dsimp only
    | split
    | (refine Keeps.fst (by with_reducible assumption) ?_)
    | (refine Keeps.snd (by with_reducible assumption) ?_)
    | rfl
    | exact ⟨rfl, rfl⟩
    | exact ⟨rfl, rfl, rfl⟩
    | exact Memory.wf_clear (by assumption) _ _
    | exact Memory.wf_filter (by assumption) _
    | exact Memory.wf_writeBytes (by assumption) _ _
    | with_reducible apply Keeps.mk_all
    | assumption
    | simp_all [Run.ok])

theorem State.selectBlock_keeps {a s : State} (h : Keeps a s) {x1 x2} : Keeps a (State.selectBlock s x1 x2) := by
  unfold State.selectBlock
  iterate 24 all_goals (try first
    | with_reducible assumption
    | with_reducible apply State.modSeq_keeps
    | with_reducible apply State.block_keeps
    | (with_reducible apply foldl_keeps)
    | (with_reducible apply foldl_fst_keeps)
    | with_reducible apply Keeps.ite
    | with_reducible apply Keeps.ite_fst
    | with_reducible apply Keeps.ite_snd
    | intro _
    | dsimp only
    | split
    | (refine Keeps.fst (by with_reducible assumption) ?_)
    | (refine Keeps.snd (by with_reducible assumption) ?_)
    | rfl
    | exact ⟨rfl, rfl⟩
    | exact ⟨rfl, rfl, rfl⟩
    | exact Memory.wf_clear (by assumption) _ _
    | exact Memory.wf_filter (by assumption) _
    | exact Memory.wf_writeBytes (by assumption) _ _
    | with_reducible apply Keeps.mk_all
    | assumption
    | simp_all [Run.ok])

theorem actNop_keeps {a s : State} (h : Keeps a s) {x1 x2 x3} : Keeps a (actNop x1 x2 s x3) := by
  unfold actNop
  iterate 24 all_goals (try first
    | with_reducible assumption
    | with_reducible apply State.consume_keeps
    | with_reducible apply State.signalAtIssue_keeps
    | (with_reducible apply foldl_keeps)
    | (with_reducible apply foldl_fst_keeps)
    | with_reducible apply Keeps.ite
    | with_reducible apply Keeps.ite_fst
    | with_reducible apply Keeps.ite_snd
    | intro _
    | dsimp only
    | split
    | (refine Keeps.fst (by with_reducible assumption) ?_)
    | (refine Keeps.snd (by with_reducible assumption) ?_)
    | rfl
    | exact ⟨rfl, rfl⟩
    | exact ⟨rfl, rfl, rfl⟩
    | exact Memory.wf_clear (by assumption) _ _
    | exact Memory.wf_filter (by assumption) _
    | exact Memory.wf_writeBytes (by assumption) _ _
    | with_reducible apply Keeps.mk_all
    | assumption
    | simp_all [Run.ok])

theorem State.microBatch_keeps {a s : State} (h : Keeps a s) {x1 x2 x3} : Keeps a (State.microBatch s x1 x2 x3) := by
  unfold State.microBatch
  iterate 24 all_goals (try first
    | with_reducible assumption
    | with_reducible apply State.modRun_keeps
    | (with_reducible apply foldl_keeps)
    | (with_reducible apply foldl_fst_keeps)
    | with_reducible apply Keeps.ite
    | with_reducible apply Keeps.ite_fst
    | with_reducible apply Keeps.ite_snd
    | intro _
    | dsimp only
    | split
    | (refine Keeps.fst (by with_reducible assumption) ?_)
    | (refine Keeps.snd (by with_reducible assumption) ?_)
    | rfl
    | exact ⟨rfl, rfl⟩
    | exact ⟨rfl, rfl, rfl⟩
    | exact Memory.wf_clear (by assumption) _ _
    | exact Memory.wf_filter (by assumption) _
    | exact Memory.wf_writeBytes (by assumption) _ _
    | with_reducible apply Keeps.mk_all
    | assumption
    | simp_all [Run.ok])

theorem actLoopBegin_keeps {a s : State} (h : Keeps a s) {x1 x2 x3} : Keeps a (actLoopBegin x1 x2 s x3) := by
  unfold actLoopBegin
  iterate 24 all_goals (try first
    | with_reducible assumption
    | with_reducible apply State.modSeq_keeps
    | with_reducible apply State.consume_keeps
    | with_reducible apply State.signalAtIssue_keeps
    | with_reducible apply State.microBatch_keeps
    | (with_reducible apply foldl_keeps)
    | (with_reducible apply foldl_fst_keeps)
    | with_reducible apply Keeps.ite
    | with_reducible apply Keeps.ite_fst
    | with_reducible apply Keeps.ite_snd
    | intro _
    | dsimp only
    | split
    | (refine Keeps.fst (by with_reducible assumption) ?_)
    | (refine Keeps.snd (by with_reducible assumption) ?_)
    | rfl
    | exact ⟨rfl, rfl⟩
    | exact ⟨rfl, rfl, rfl⟩
    | exact Memory.wf_clear (by assumption) _ _
    | exact Memory.wf_filter (by assumption) _
    | exact Memory.wf_writeBytes (by assumption) _ _
    | with_reducible apply Keeps.mk_all
    | assumption
    | simp_all [Run.ok])

theorem actLoopEnd_keeps {a s : State} (h : Keeps a s) {x1 x2 x3} : Keeps a (actLoopEnd x1 x2 s x3) := by
  unfold actLoopEnd
  iterate 24 all_goals (try first
    | with_reducible assumption
    | with_reducible apply State.modSeq_keeps
    | with_reducible apply State.consume_keeps
    | with_reducible apply State.signalAtIssue_keeps
    | with_reducible apply State.microBatch_keeps
    | (with_reducible apply foldl_keeps)
    | (with_reducible apply foldl_fst_keeps)
    | with_reducible apply Keeps.ite
    | with_reducible apply Keeps.ite_fst
    | with_reducible apply Keeps.ite_snd
    | intro _
    | dsimp only
    | split
    | (refine Keeps.fst (by with_reducible assumption) ?_)
    | (refine Keeps.snd (by with_reducible assumption) ?_)
    | rfl
    | exact ⟨rfl, rfl⟩
    | exact ⟨rfl, rfl, rfl⟩
    | exact Memory.wf_clear (by assumption) _ _
    | exact Memory.wf_filter (by assumption) _
    | exact Memory.wf_writeBytes (by assumption) _ _
    | with_reducible apply Keeps.mk_all
    | assumption
    | simp_all [Run.ok])

theorem actGroupBegin_keeps {a s : State} (h : Keeps a s) {x1 x2 x3} : Keeps a (actGroupBegin x1 x2 s x3) := by
  unfold actGroupBegin
  iterate 24 all_goals (try first
    | with_reducible assumption
    | with_reducible apply State.modSeq_keeps
    | with_reducible apply State.streamMalformed_keeps
    | with_reducible apply State.consume_keeps
    | with_reducible apply State.signalAtIssue_keeps
    | with_reducible apply State.selectBlock_keeps
    | (with_reducible apply foldl_keeps)
    | (with_reducible apply foldl_fst_keeps)
    | with_reducible apply Keeps.ite
    | with_reducible apply Keeps.ite_fst
    | with_reducible apply Keeps.ite_snd
    | intro _
    | dsimp only
    | split
    | (refine Keeps.fst (by with_reducible assumption) ?_)
    | (refine Keeps.snd (by with_reducible assumption) ?_)
    | rfl
    | exact ⟨rfl, rfl⟩
    | exact ⟨rfl, rfl, rfl⟩
    | exact Memory.wf_clear (by assumption) _ _
    | exact Memory.wf_filter (by assumption) _
    | exact Memory.wf_writeBytes (by assumption) _ _
    | with_reducible apply Keeps.mk_all
    | assumption
    | simp_all [Run.ok])

theorem actBlockEnd_keeps {a s : State} (h : Keeps a s) {x1 x2 x3} : Keeps a (actBlockEnd x1 x2 s x3) := by
  unfold actBlockEnd
  iterate 24 all_goals (try first
    | with_reducible assumption
    | with_reducible apply State.modSeq_keeps
    | with_reducible apply State.consume_keeps
    | with_reducible apply State.signalAtIssue_keeps
    | with_reducible apply State.selectBlock_keeps
    | (with_reducible apply foldl_keeps)
    | (with_reducible apply foldl_fst_keeps)
    | with_reducible apply Keeps.ite
    | with_reducible apply Keeps.ite_fst
    | with_reducible apply Keeps.ite_snd
    | intro _
    | dsimp only
    | split
    | (refine Keeps.fst (by with_reducible assumption) ?_)
    | (refine Keeps.snd (by with_reducible assumption) ?_)
    | rfl
    | exact ⟨rfl, rfl⟩
    | exact ⟨rfl, rfl, rfl⟩
    | exact Memory.wf_clear (by assumption) _ _
    | exact Memory.wf_filter (by assumption) _
    | exact Memory.wf_writeBytes (by assumption) _ _
    | with_reducible apply Keeps.mk_all
    | assumption
    | simp_all [Run.ok])

theorem State.onePass_keeps {a s : State} (h : Keeps a s) {x1 x2} : Keeps a (State.onePass s x1 x2) := by
  unfold State.onePass
  iterate 24 all_goals (try first
    | with_reducible assumption
    | with_reducible apply State.microBatch_keeps
    | (with_reducible apply foldl_keeps)
    | (with_reducible apply foldl_fst_keeps)
    | with_reducible apply Keeps.ite
    | with_reducible apply Keeps.ite_fst
    | with_reducible apply Keeps.ite_snd
    | intro _
    | dsimp only
    | split
    | (refine Keeps.fst (by with_reducible assumption) ?_)
    | (refine Keeps.snd (by with_reducible assumption) ?_)
    | rfl
    | exact ⟨rfl, rfl⟩
    | exact ⟨rfl, rfl, rfl⟩
    | exact Memory.wf_clear (by assumption) _ _
    | exact Memory.wf_filter (by assumption) _
    | exact Memory.wf_writeBytes (by assumption) _ _
    | with_reducible apply Keeps.mk_all
    | assumption
    | simp_all [Run.ok])

theorem actPassEnd_keeps {a s : State} (h : Keeps a s) {x1 x2 x3} : Keeps a (actPassEnd x1 x2 s x3) := by
  unfold actPassEnd
  iterate 24 all_goals (try first
    | with_reducible assumption
    | with_reducible apply State.modRun_keeps
    | with_reducible apply State.modSeq_keeps
    | with_reducible apply State.consume_keeps
    | with_reducible apply State.signalAtIssue_keeps
    | with_reducible apply State.onePass_keeps
    | (with_reducible apply foldl_keeps)
    | (with_reducible apply foldl_fst_keeps)
    | with_reducible apply Keeps.ite
    | with_reducible apply Keeps.ite_fst
    | with_reducible apply Keeps.ite_snd
    | intro _
    | dsimp only
    | split
    | (refine Keeps.fst (by with_reducible assumption) ?_)
    | (refine Keeps.snd (by with_reducible assumption) ?_)
    | rfl
    | exact ⟨rfl, rfl⟩
    | exact ⟨rfl, rfl, rfl⟩
    | exact Memory.wf_clear (by assumption) _ _
    | exact Memory.wf_filter (by assumption) _
    | exact Memory.wf_writeBytes (by assumption) _ _
    | with_reducible apply Keeps.mk_all
    | assumption
    | simp_all [Run.ok])

theorem actStepEnd_keeps {a s : State} (h : Keeps a s) {x1 x2 x3} : Keeps a (actStepEnd x1 x2 s x3) := by
  unfold actStepEnd
  iterate 24 all_goals (try first
    | with_reducible assumption
    | with_reducible apply State.modRun_keeps
    | with_reducible apply State.modSeq_keeps
    | with_reducible apply State.block_keeps
    | with_reducible apply State.consume_keeps
    | with_reducible apply State.signalAtIssue_keeps
    | (with_reducible apply foldl_keeps)
    | (with_reducible apply foldl_fst_keeps)
    | with_reducible apply Keeps.ite
    | with_reducible apply Keeps.ite_fst
    | with_reducible apply Keeps.ite_snd
    | intro _
    | dsimp only
    | split
    | (refine Keeps.fst (by with_reducible assumption) ?_)
    | (refine Keeps.snd (by with_reducible assumption) ?_)
    | rfl
    | exact ⟨rfl, rfl⟩
    | exact ⟨rfl, rfl, rfl⟩
    | exact Memory.wf_clear (by assumption) _ _
    | exact Memory.wf_filter (by assumption) _
    | exact Memory.wf_writeBytes (by assumption) _ _
    | with_reducible apply Keeps.mk_all
    | assumption
    | simp_all [Run.ok])

theorem execCtrlNop_keeps {s t : State} {x1 x2} (e : execCtrlNop x1 x2 s = .next t) : Keeps s t := by
  refine answer_keeps e ?_
  have h := Keeps.refl s
  iterate 24 all_goals (try first
    | with_reducible assumption
    | with_reducible apply State.issueRow_keeps
    | with_reducible apply actNop_keeps
    | (with_reducible apply foldl_keeps)
    | (with_reducible apply foldl_fst_keeps)
    | with_reducible apply Keeps.ite
    | with_reducible apply Keeps.ite_fst
    | with_reducible apply Keeps.ite_snd
    | intro _
    | dsimp only
    | split
    | (refine Keeps.fst (by with_reducible assumption) ?_)
    | (refine Keeps.snd (by with_reducible assumption) ?_)
    | rfl
    | exact ⟨rfl, rfl⟩
    | exact ⟨rfl, rfl, rfl⟩
    | exact Memory.wf_clear (by assumption) _ _
    | exact Memory.wf_filter (by assumption) _
    | exact Memory.wf_writeBytes (by assumption) _ _
    | with_reducible apply Keeps.mk_all
    | assumption
    | simp_all [Run.ok])

theorem execLoopBegin_keeps {s t : State} {x1 x2} (e : execLoopBegin x1 x2 s = .next t) : Keeps s t := by
  refine answer_keeps e ?_
  have h := Keeps.refl s
  iterate 24 all_goals (try first
    | with_reducible assumption
    | with_reducible apply State.issueRow_keeps
    | with_reducible apply actLoopBegin_keeps
    | (with_reducible apply foldl_keeps)
    | (with_reducible apply foldl_fst_keeps)
    | with_reducible apply Keeps.ite
    | with_reducible apply Keeps.ite_fst
    | with_reducible apply Keeps.ite_snd
    | intro _
    | dsimp only
    | split
    | (refine Keeps.fst (by with_reducible assumption) ?_)
    | (refine Keeps.snd (by with_reducible assumption) ?_)
    | rfl
    | exact ⟨rfl, rfl⟩
    | exact ⟨rfl, rfl, rfl⟩
    | exact Memory.wf_clear (by assumption) _ _
    | exact Memory.wf_filter (by assumption) _
    | exact Memory.wf_writeBytes (by assumption) _ _
    | with_reducible apply Keeps.mk_all
    | assumption
    | simp_all [Run.ok])

theorem execLoopEnd_keeps {s t : State} {x1 x2} (e : execLoopEnd x1 x2 s = .next t) : Keeps s t := by
  refine answer_keeps e ?_
  have h := Keeps.refl s
  iterate 24 all_goals (try first
    | with_reducible assumption
    | with_reducible apply State.issueRow_keeps
    | with_reducible apply actLoopEnd_keeps
    | (with_reducible apply foldl_keeps)
    | (with_reducible apply foldl_fst_keeps)
    | with_reducible apply Keeps.ite
    | with_reducible apply Keeps.ite_fst
    | with_reducible apply Keeps.ite_snd
    | intro _
    | dsimp only
    | split
    | (refine Keeps.fst (by with_reducible assumption) ?_)
    | (refine Keeps.snd (by with_reducible assumption) ?_)
    | rfl
    | exact ⟨rfl, rfl⟩
    | exact ⟨rfl, rfl, rfl⟩
    | exact Memory.wf_clear (by assumption) _ _
    | exact Memory.wf_filter (by assumption) _
    | exact Memory.wf_writeBytes (by assumption) _ _
    | with_reducible apply Keeps.mk_all
    | assumption
    | simp_all [Run.ok])

theorem execGroupBegin_keeps {s t : State} {x1 x2} (e : execGroupBegin x1 x2 s = .next t) : Keeps s t := by
  refine answer_keeps e ?_
  have h := Keeps.refl s
  iterate 24 all_goals (try first
    | with_reducible assumption
    | with_reducible apply State.issueRow_keeps
    | with_reducible apply actGroupBegin_keeps
    | (with_reducible apply foldl_keeps)
    | (with_reducible apply foldl_fst_keeps)
    | with_reducible apply Keeps.ite
    | with_reducible apply Keeps.ite_fst
    | with_reducible apply Keeps.ite_snd
    | intro _
    | dsimp only
    | split
    | (refine Keeps.fst (by with_reducible assumption) ?_)
    | (refine Keeps.snd (by with_reducible assumption) ?_)
    | rfl
    | exact ⟨rfl, rfl⟩
    | exact ⟨rfl, rfl, rfl⟩
    | exact Memory.wf_clear (by assumption) _ _
    | exact Memory.wf_filter (by assumption) _
    | exact Memory.wf_writeBytes (by assumption) _ _
    | with_reducible apply Keeps.mk_all
    | assumption
    | simp_all [Run.ok])

theorem execBlockEnd_keeps {s t : State} {x1 x2} (e : execBlockEnd x1 x2 s = .next t) : Keeps s t := by
  refine answer_keeps e ?_
  have h := Keeps.refl s
  iterate 24 all_goals (try first
    | with_reducible assumption
    | with_reducible apply State.issueRow_keeps
    | with_reducible apply actBlockEnd_keeps
    | (with_reducible apply foldl_keeps)
    | (with_reducible apply foldl_fst_keeps)
    | with_reducible apply Keeps.ite
    | with_reducible apply Keeps.ite_fst
    | with_reducible apply Keeps.ite_snd
    | intro _
    | dsimp only
    | split
    | (refine Keeps.fst (by with_reducible assumption) ?_)
    | (refine Keeps.snd (by with_reducible assumption) ?_)
    | rfl
    | exact ⟨rfl, rfl⟩
    | exact ⟨rfl, rfl, rfl⟩
    | exact Memory.wf_clear (by assumption) _ _
    | exact Memory.wf_filter (by assumption) _
    | exact Memory.wf_writeBytes (by assumption) _ _
    | with_reducible apply Keeps.mk_all
    | assumption
    | simp_all [Run.ok])

theorem execPassEnd_keeps {s t : State} {x1 x2} (e : execPassEnd x1 x2 s = .next t) : Keeps s t := by
  refine answer_keeps e ?_
  have h := Keeps.refl s
  iterate 24 all_goals (try first
    | with_reducible assumption
    | with_reducible apply State.issueRow_keeps
    | with_reducible apply actPassEnd_keeps
    | (with_reducible apply foldl_keeps)
    | (with_reducible apply foldl_fst_keeps)
    | with_reducible apply Keeps.ite
    | with_reducible apply Keeps.ite_fst
    | with_reducible apply Keeps.ite_snd
    | intro _
    | dsimp only
    | split
    | (refine Keeps.fst (by with_reducible assumption) ?_)
    | (refine Keeps.snd (by with_reducible assumption) ?_)
    | rfl
    | exact ⟨rfl, rfl⟩
    | exact ⟨rfl, rfl, rfl⟩
    | exact Memory.wf_clear (by assumption) _ _
    | exact Memory.wf_filter (by assumption) _
    | exact Memory.wf_writeBytes (by assumption) _ _
    | with_reducible apply Keeps.mk_all
    | assumption
    | simp_all [Run.ok])

theorem execStepEnd_keeps {s t : State} {x1 x2} (e : execStepEnd x1 x2 s = .next t) : Keeps s t := by
  refine answer_keeps e ?_
  have h := Keeps.refl s
  iterate 24 all_goals (try first
    | with_reducible assumption
    | with_reducible apply State.issueRow_keeps
    | with_reducible apply actStepEnd_keeps
    | (with_reducible apply foldl_keeps)
    | (with_reducible apply foldl_fst_keeps)
    | with_reducible apply Keeps.ite
    | with_reducible apply Keeps.ite_fst
    | with_reducible apply Keeps.ite_snd
    | intro _
    | dsimp only
    | split
    | (refine Keeps.fst (by with_reducible assumption) ?_)
    | (refine Keeps.snd (by with_reducible assumption) ?_)
    | rfl
    | exact ⟨rfl, rfl⟩
    | exact ⟨rfl, rfl, rfl⟩
    | exact Memory.wf_clear (by assumption) _ _
    | exact Memory.wf_filter (by assumption) _
    | exact Memory.wf_writeBytes (by assumption) _ _
    | with_reducible apply Keeps.mk_all
    | assumption
    | simp_all [Run.ok])

theorem doReadyBlockSelect_keeps {a s : State} (h : Keeps a s) {x1 x2} : Keeps a (doReadyBlockSelect x1 x2 s) := by
  unfold doReadyBlockSelect
  iterate 24 all_goals (try first
    | with_reducible assumption
    | with_reducible apply State.meet_keeps
    | with_reducible apply State.selectBlock_keeps
    | (with_reducible apply foldl_keeps)
    | (with_reducible apply foldl_fst_keeps)
    | with_reducible apply Keeps.ite
    | with_reducible apply Keeps.ite_fst
    | with_reducible apply Keeps.ite_snd
    | intro _
    | dsimp only
    | split
    | (refine Keeps.fst (by with_reducible assumption) ?_)
    | (refine Keeps.snd (by with_reducible assumption) ?_)
    | rfl
    | exact ⟨rfl, rfl⟩
    | exact ⟨rfl, rfl, rfl⟩
    | exact Memory.wf_clear (by assumption) _ _
    | exact Memory.wf_filter (by assumption) _
    | exact Memory.wf_writeBytes (by assumption) _ _
    | with_reducible apply Keeps.mk_all
    | assumption
    | simp_all [Run.ok])

theorem execReadyBlockSelect_keeps {s t : State} {x1 x2} (e : execReadyBlockSelect x1 x2 s = .next t) : Keeps s t := by
  refine answer_keeps e ?_
  have h := Keeps.refl s
  iterate 24 all_goals (try first
    | with_reducible assumption
    | with_reducible apply doReadyBlockSelect_keeps
    | (with_reducible apply foldl_keeps)
    | (with_reducible apply foldl_fst_keeps)
    | with_reducible apply Keeps.ite
    | with_reducible apply Keeps.ite_fst
    | with_reducible apply Keeps.ite_snd
    | intro _
    | dsimp only
    | split
    | (refine Keeps.fst (by with_reducible assumption) ?_)
    | (refine Keeps.snd (by with_reducible assumption) ?_)
    | rfl
    | exact ⟨rfl, rfl⟩
    | exact ⟨rfl, rfl, rfl⟩
    | exact Memory.wf_clear (by assumption) _ _
    | exact Memory.wf_filter (by assumption) _
    | exact Memory.wf_writeBytes (by assumption) _ _
    | with_reducible apply Keeps.mk_all
    | assumption
    | simp_all [Run.ok])

theorem actHearth_keeps {a s : State} (h : Keeps a s) {x1 x2 x3} : Keeps a (actHearth x1 x2 s x3) := by
  unfold actHearth
  iterate 24 all_goals (try first
    | with_reducible assumption
    | with_reducible apply State.modHearth_keeps
    | with_reducible apply State.issueDesc_keeps
    | (with_reducible apply State.each_keeps; intro _ _ _)
    | (with_reducible apply foldl_keeps)
    | (with_reducible apply foldl_fst_keeps)
    | with_reducible apply Keeps.ite
    | with_reducible apply Keeps.ite_fst
    | with_reducible apply Keeps.ite_snd
    | intro _
    | dsimp only
    | split
    | (refine Keeps.fst (by with_reducible assumption) ?_)
    | (refine Keeps.snd (by with_reducible assumption) ?_)
    | rfl
    | exact ⟨rfl, rfl⟩
    | exact ⟨rfl, rfl, rfl⟩
    | exact Memory.wf_clear (by assumption) _ _
    | exact Memory.wf_filter (by assumption) _
    | exact Memory.wf_writeBytes (by assumption) _ _
    | with_reducible apply Keeps.mk_all
    | assumption
    | simp_all [Run.ok])

theorem execHearthPass_keeps {s t : State} {x1 x2} (e : execHearthPass x1 x2 s = .next t) : Keeps s t := by
  refine answer_keeps e ?_
  have h := Keeps.refl s
  iterate 24 all_goals (try first
    | with_reducible assumption
    | with_reducible apply State.issueRow_keeps
    | with_reducible apply actHearth_keeps
    | (with_reducible apply foldl_keeps)
    | (with_reducible apply foldl_fst_keeps)
    | with_reducible apply Keeps.ite
    | with_reducible apply Keeps.ite_fst
    | with_reducible apply Keeps.ite_snd
    | intro _
    | dsimp only
    | split
    | (refine Keeps.fst (by with_reducible assumption) ?_)
    | (refine Keeps.snd (by with_reducible assumption) ?_)
    | rfl
    | exact ⟨rfl, rfl⟩
    | exact ⟨rfl, rfl, rfl⟩
    | exact Memory.wf_clear (by assumption) _ _
    | exact Memory.wf_filter (by assumption) _
    | exact Memory.wf_writeBytes (by assumption) _ _
    | with_reducible apply Keeps.mk_all
    | assumption
    | simp_all [Run.ok])

theorem actTemper_keeps {a s : State} (h : Keeps a s) {x1 x2 x3} : Keeps a (actTemper x1 x2 s x3) := by
  unfold actTemper
  iterate 24 all_goals (try first
    | with_reducible assumption
    | with_reducible apply State.modTemper_keeps
    | with_reducible apply State.issueDesc_keeps
    | (with_reducible apply State.each_keeps; intro _ _ _)
    | (with_reducible apply foldl_keeps)
    | (with_reducible apply foldl_fst_keeps)
    | with_reducible apply Keeps.ite
    | with_reducible apply Keeps.ite_fst
    | with_reducible apply Keeps.ite_snd
    | intro _
    | dsimp only
    | split
    | (refine Keeps.fst (by with_reducible assumption) ?_)
    | (refine Keeps.snd (by with_reducible assumption) ?_)
    | rfl
    | exact ⟨rfl, rfl⟩
    | exact ⟨rfl, rfl, rfl⟩
    | exact Memory.wf_clear (by assumption) _ _
    | exact Memory.wf_filter (by assumption) _
    | exact Memory.wf_writeBytes (by assumption) _ _
    | with_reducible apply Keeps.mk_all
    | assumption
    | simp_all [Run.ok])

theorem execTemperRunInsn_keeps {s t : State} {x1 x2} (e : execTemperRunInsn x1 x2 s = .next t) : Keeps s t := by
  refine answer_keeps e ?_
  have h := Keeps.refl s
  iterate 24 all_goals (try first
    | with_reducible assumption
    | with_reducible apply State.issueRow_keeps
    | with_reducible apply actTemper_keeps
    | (with_reducible apply foldl_keeps)
    | (with_reducible apply foldl_fst_keeps)
    | with_reducible apply Keeps.ite
    | with_reducible apply Keeps.ite_fst
    | with_reducible apply Keeps.ite_snd
    | intro _
    | dsimp only
    | split
    | (refine Keeps.fst (by with_reducible assumption) ?_)
    | (refine Keeps.snd (by with_reducible assumption) ?_)
    | rfl
    | exact ⟨rfl, rfl⟩
    | exact ⟨rfl, rfl, rfl⟩
    | exact Memory.wf_clear (by assumption) _ _
    | exact Memory.wf_filter (by assumption) _
    | exact Memory.wf_writeBytes (by assumption) _ _
    | with_reducible apply Keeps.mk_all
    | assumption
    | simp_all [Run.ok])

theorem actTongs_keeps {a s : State} (h : Keeps a s) {x1 x2 x3 x4} : Keeps a (actTongs x1 x2 x3 s x4) := by
  unfold actTongs
  iterate 24 all_goals (try first
    | with_reducible assumption
    | with_reducible apply State.tongsPlace_keeps
    | with_reducible apply State.issueDesc_keeps
    | (with_reducible apply foldl_keeps)
    | (with_reducible apply foldl_fst_keeps)
    | with_reducible apply Keeps.ite
    | with_reducible apply Keeps.ite_fst
    | with_reducible apply Keeps.ite_snd
    | intro _
    | dsimp only
    | split
    | (refine Keeps.fst (by with_reducible assumption) ?_)
    | (refine Keeps.snd (by with_reducible assumption) ?_)
    | rfl
    | exact ⟨rfl, rfl⟩
    | exact ⟨rfl, rfl, rfl⟩
    | exact Memory.wf_clear (by assumption) _ _
    | exact Memory.wf_filter (by assumption) _
    | exact Memory.wf_writeBytes (by assumption) _ _
    | with_reducible apply Keeps.mk_all
    | assumption
    | simp_all [Run.ok])

theorem execCopy_keeps {s t : State} {x1 x2} (e : execCopy x1 x2 s = .next t) : Keeps s t := by
  refine answer_keeps e ?_
  have h := Keeps.refl s
  iterate 24 all_goals (try first
    | with_reducible assumption
    | with_reducible apply State.issueRow_keeps
    | with_reducible apply actTongs_keeps
    | (with_reducible apply foldl_keeps)
    | (with_reducible apply foldl_fst_keeps)
    | with_reducible apply Keeps.ite
    | with_reducible apply Keeps.ite_fst
    | with_reducible apply Keeps.ite_snd
    | intro _
    | dsimp only
    | split
    | (refine Keeps.fst (by with_reducible assumption) ?_)
    | (refine Keeps.snd (by with_reducible assumption) ?_)
    | rfl
    | exact ⟨rfl, rfl⟩
    | exact ⟨rfl, rfl, rfl⟩
    | exact Memory.wf_clear (by assumption) _ _
    | exact Memory.wf_filter (by assumption) _
    | exact Memory.wf_writeBytes (by assumption) _ _
    | with_reducible apply Keeps.mk_all
    | assumption
    | simp_all [Run.ok])

theorem execTongsGather_keeps {s t : State} {x1 x2} (e : execTongsGather x1 x2 s = .next t) : Keeps s t := by
  refine answer_keeps e ?_
  have h := Keeps.refl s
  iterate 24 all_goals (try first
    | with_reducible assumption
    | with_reducible apply State.issueRow_keeps
    | with_reducible apply actTongs_keeps
    | (with_reducible apply foldl_keeps)
    | (with_reducible apply foldl_fst_keeps)
    | with_reducible apply Keeps.ite
    | with_reducible apply Keeps.ite_fst
    | with_reducible apply Keeps.ite_snd
    | intro _
    | dsimp only
    | split
    | (refine Keeps.fst (by with_reducible assumption) ?_)
    | (refine Keeps.snd (by with_reducible assumption) ?_)
    | rfl
    | exact ⟨rfl, rfl⟩
    | exact ⟨rfl, rfl, rfl⟩
    | exact Memory.wf_clear (by assumption) _ _
    | exact Memory.wf_filter (by assumption) _
    | exact Memory.wf_writeBytes (by assumption) _ _
    | with_reducible apply Keeps.mk_all
    | assumption
    | simp_all [Run.ok])

theorem execFill_keeps {s t : State} {x1 x2} (e : execFill x1 x2 s = .next t) : Keeps s t := by
  refine answer_keeps e ?_
  have h := Keeps.refl s
  iterate 24 all_goals (try first
    | with_reducible assumption
    | with_reducible apply State.issueRow_keeps
    | with_reducible apply actTongs_keeps
    | (with_reducible apply foldl_keeps)
    | (with_reducible apply foldl_fst_keeps)
    | with_reducible apply Keeps.ite
    | with_reducible apply Keeps.ite_fst
    | with_reducible apply Keeps.ite_snd
    | intro _
    | dsimp only
    | split
    | (refine Keeps.fst (by with_reducible assumption) ?_)
    | (refine Keeps.snd (by with_reducible assumption) ?_)
    | rfl
    | exact ⟨rfl, rfl⟩
    | exact ⟨rfl, rfl, rfl⟩
    | exact Memory.wf_clear (by assumption) _ _
    | exact Memory.wf_filter (by assumption) _
    | exact Memory.wf_writeBytes (by assumption) _ _
    | with_reducible apply Keeps.mk_all
    | assumption
    | simp_all [Run.ok])

theorem execPrefetch_keeps {s t : State} {x1 x2} (e : execPrefetch x1 x2 s = .next t) : Keeps s t := by
  refine answer_keeps e ?_
  have h := Keeps.refl s
  iterate 24 all_goals (try first
    | with_reducible assumption
    | with_reducible apply State.issueRow_keeps
    | with_reducible apply actTongs_keeps
    | (with_reducible apply foldl_keeps)
    | (with_reducible apply foldl_fst_keeps)
    | with_reducible apply Keeps.ite
    | with_reducible apply Keeps.ite_fst
    | with_reducible apply Keeps.ite_snd
    | intro _
    | dsimp only
    | split
    | (refine Keeps.fst (by with_reducible assumption) ?_)
    | (refine Keeps.snd (by with_reducible assumption) ?_)
    | rfl
    | exact ⟨rfl, rfl⟩
    | exact ⟨rfl, rfl, rfl⟩
    | exact Memory.wf_clear (by assumption) _ _
    | exact Memory.wf_filter (by assumption) _
    | exact Memory.wf_writeBytes (by assumption) _ _
    | with_reducible apply Keeps.mk_all
    | assumption
    | simp_all [Run.ok])

theorem execEvict_keeps {s t : State} {x1 x2} (e : execEvict x1 x2 s = .next t) : Keeps s t := by
  refine answer_keeps e ?_
  have h := Keeps.refl s
  iterate 24 all_goals (try first
    | with_reducible assumption
    | with_reducible apply State.issueRow_keeps
    | with_reducible apply actTongs_keeps
    | (with_reducible apply foldl_keeps)
    | (with_reducible apply foldl_fst_keeps)
    | with_reducible apply Keeps.ite
    | with_reducible apply Keeps.ite_fst
    | with_reducible apply Keeps.ite_snd
    | intro _
    | dsimp only
    | split
    | (refine Keeps.fst (by with_reducible assumption) ?_)
    | (refine Keeps.snd (by with_reducible assumption) ?_)
    | rfl
    | exact ⟨rfl, rfl⟩
    | exact ⟨rfl, rfl, rfl⟩
    | exact Memory.wf_clear (by assumption) _ _
    | exact Memory.wf_filter (by assumption) _
    | exact Memory.wf_writeBytes (by assumption) _ _
    | with_reducible apply Keeps.mk_all
    | assumption
    | simp_all [Run.ok])

theorem actColl_keeps {a s : State} (h : Keeps a s) {x1 x2 x3 x4} : Keeps a (actColl x1 x2 x3 s x4) := by
  unfold actColl
  iterate 24 all_goals (try first
    | with_reducible assumption
    | with_reducible apply State.collPlace_keeps
    | with_reducible apply State.collStart_keeps
    | with_reducible apply State.issueDesc_keeps
    | (with_reducible apply foldl_keeps)
    | (with_reducible apply foldl_fst_keeps)
    | with_reducible apply Keeps.ite
    | with_reducible apply Keeps.ite_fst
    | with_reducible apply Keeps.ite_snd
    | intro _
    | dsimp only
    | split
    | (refine Keeps.fst (by with_reducible assumption) ?_)
    | (refine Keeps.snd (by with_reducible assumption) ?_)
    | rfl
    | exact ⟨rfl, rfl⟩
    | exact ⟨rfl, rfl, rfl⟩
    | exact Memory.wf_clear (by assumption) _ _
    | exact Memory.wf_filter (by assumption) _
    | exact Memory.wf_writeBytes (by assumption) _ _
    | with_reducible apply Keeps.mk_all
    | assumption
    | simp_all [Run.ok])

theorem execReduce_keeps {s t : State} {x1 x2} (e : execReduce x1 x2 s = .next t) : Keeps s t := by
  refine answer_keeps e ?_
  have h := Keeps.refl s
  iterate 24 all_goals (try first
    | with_reducible assumption
    | with_reducible apply State.issueRow_keeps
    | with_reducible apply actColl_keeps
    | (with_reducible apply foldl_keeps)
    | (with_reducible apply foldl_fst_keeps)
    | with_reducible apply Keeps.ite
    | with_reducible apply Keeps.ite_fst
    | with_reducible apply Keeps.ite_snd
    | intro _
    | dsimp only
    | split
    | (refine Keeps.fst (by with_reducible assumption) ?_)
    | (refine Keeps.snd (by with_reducible assumption) ?_)
    | rfl
    | exact ⟨rfl, rfl⟩
    | exact ⟨rfl, rfl, rfl⟩
    | exact Memory.wf_clear (by assumption) _ _
    | exact Memory.wf_filter (by assumption) _
    | exact Memory.wf_writeBytes (by assumption) _ _
    | with_reducible apply Keeps.mk_all
    | assumption
    | simp_all [Run.ok])

theorem execCollGather_keeps {s t : State} {x1 x2} (e : execCollGather x1 x2 s = .next t) : Keeps s t := by
  refine answer_keeps e ?_
  have h := Keeps.refl s
  iterate 24 all_goals (try first
    | with_reducible assumption
    | with_reducible apply State.issueRow_keeps
    | with_reducible apply actColl_keeps
    | (with_reducible apply foldl_keeps)
    | (with_reducible apply foldl_fst_keeps)
    | with_reducible apply Keeps.ite
    | with_reducible apply Keeps.ite_fst
    | with_reducible apply Keeps.ite_snd
    | intro _
    | dsimp only
    | split
    | (refine Keeps.fst (by with_reducible assumption) ?_)
    | (refine Keeps.snd (by with_reducible assumption) ?_)
    | rfl
    | exact ⟨rfl, rfl⟩
    | exact ⟨rfl, rfl, rfl⟩
    | exact Memory.wf_clear (by assumption) _ _
    | exact Memory.wf_filter (by assumption) _
    | exact Memory.wf_writeBytes (by assumption) _ _
    | with_reducible apply Keeps.mk_all
    | assumption
    | simp_all [Run.ok])

theorem execCollFlag_keeps {s t : State} {x1 x2} (e : execCollFlag x1 x2 s = .next t) : Keeps s t := by
  refine answer_keeps e ?_
  have h := Keeps.refl s
  iterate 24 all_goals (try first
    | with_reducible assumption
    | with_reducible apply State.issueRow_keeps
    | with_reducible apply actColl_keeps
    | (with_reducible apply foldl_keeps)
    | (with_reducible apply foldl_fst_keeps)
    | with_reducible apply Keeps.ite
    | with_reducible apply Keeps.ite_fst
    | with_reducible apply Keeps.ite_snd
    | intro _
    | dsimp only
    | split
    | (refine Keeps.fst (by with_reducible assumption) ?_)
    | (refine Keeps.snd (by with_reducible assumption) ?_)
    | rfl
    | exact ⟨rfl, rfl⟩
    | exact ⟨rfl, rfl, rfl⟩
    | exact Memory.wf_clear (by assumption) _ _
    | exact Memory.wf_filter (by assumption) _
    | exact Memory.wf_writeBytes (by assumption) _ _
    | with_reducible apply Keeps.mk_all
    | assumption
    | simp_all [Run.ok])

theorem actCommit_keeps {a s : State} (h : Keeps a s) {x1 x2 x3} : Keeps a (actCommit x1 x2 s x3) := by
  unfold actCommit
  iterate 24 all_goals (try first
    | with_reducible assumption
    | with_reducible apply State.modUnit_keeps
    | with_reducible apply State.issueDesc_keeps
    | (with_reducible apply foldl_keeps)
    | (with_reducible apply foldl_fst_keeps)
    | with_reducible apply Keeps.ite
    | with_reducible apply Keeps.ite_fst
    | with_reducible apply Keeps.ite_snd
    | intro _
    | dsimp only
    | split
    | (refine Keeps.fst (by with_reducible assumption) ?_)
    | (refine Keeps.snd (by with_reducible assumption) ?_)
    | rfl
    | exact ⟨rfl, rfl⟩
    | exact ⟨rfl, rfl, rfl⟩
    | exact Memory.wf_clear (by assumption) _ _
    | exact Memory.wf_filter (by assumption) _
    | exact Memory.wf_writeBytes (by assumption) _ _
    | with_reducible apply Keeps.mk_all
    | assumption
    | simp_all [Run.ok])

theorem execCommit_keeps {s t : State} {x1 x2} (e : execCommit x1 x2 s = .next t) : Keeps s t := by
  refine answer_keeps e ?_
  have h := Keeps.refl s
  iterate 24 all_goals (try first
    | with_reducible assumption
    | with_reducible apply State.issueRow_keeps
    | with_reducible apply actCommit_keeps
    | (with_reducible apply foldl_keeps)
    | (with_reducible apply foldl_fst_keeps)
    | with_reducible apply Keeps.ite
    | with_reducible apply Keeps.ite_fst
    | with_reducible apply Keeps.ite_snd
    | intro _
    | dsimp only
    | split
    | (refine Keeps.fst (by with_reducible assumption) ?_)
    | (refine Keeps.snd (by with_reducible assumption) ?_)
    | rfl
    | exact ⟨rfl, rfl⟩
    | exact ⟨rfl, rfl, rfl⟩
    | exact Memory.wf_clear (by assumption) _ _
    | exact Memory.wf_filter (by assumption) _
    | exact Memory.wf_writeBytes (by assumption) _ _
    | with_reducible apply Keeps.mk_all
    | assumption
    | simp_all [Run.ok])

theorem State.modActq_keeps {a s : State} (h : Keeps a s) {x1 x2 x3} : Keeps a (State.modActq s x1 x2 x3) := by
  unfold State.modActq
  iterate 24 all_goals (try first
    | with_reducible assumption
    | with_reducible apply State.modPart_keeps
    | (with_reducible apply foldl_keeps)
    | (with_reducible apply foldl_fst_keeps)
    | with_reducible apply Keeps.ite
    | with_reducible apply Keeps.ite_fst
    | with_reducible apply Keeps.ite_snd
    | intro _
    | dsimp only
    | split
    | (refine Keeps.fst (by with_reducible assumption) ?_)
    | (refine Keeps.snd (by with_reducible assumption) ?_)
    | rfl
    | exact ⟨rfl, rfl⟩
    | exact ⟨rfl, rfl, rfl⟩
    | exact Memory.wf_clear (by assumption) _ _
    | exact Memory.wf_filter (by assumption) _
    | exact Memory.wf_writeBytes (by assumption) _ _
    | with_reducible apply Keeps.mk_all
    | assumption
    | simp_all [Run.ok])

theorem actPush_keeps {a s : State} (h : Keeps a s) {x1 x2 x3} : Keeps a (actPush x1 x2 s x3) := by
  unfold actPush
  iterate 24 all_goals (try first
    | with_reducible assumption
    | with_reducible apply State.saveMarked_keeps
    | with_reducible apply State.remoteWrite_keeps
    | with_reducible apply State.streamMalformed_keeps
    | with_reducible apply State.block_keeps
    | with_reducible apply State.consume_keeps
    | with_reducible apply State.openInsn_keeps
    | with_reducible apply State.modActq_keeps
    | (with_reducible apply foldl_keeps)
    | (with_reducible apply foldl_fst_keeps)
    | with_reducible apply Keeps.ite
    | with_reducible apply Keeps.ite_fst
    | with_reducible apply Keeps.ite_snd
    | intro _
    | dsimp only
    | split
    | (refine Keeps.fst (by with_reducible assumption) ?_)
    | (refine Keeps.snd (by with_reducible assumption) ?_)
    | rfl
    | exact ⟨rfl, rfl⟩
    | exact ⟨rfl, rfl, rfl⟩
    | exact Memory.wf_clear (by assumption) _ _
    | exact Memory.wf_filter (by assumption) _
    | exact Memory.wf_writeBytes (by assumption) _ _
    | with_reducible apply Keeps.mk_all
    | assumption
    | simp_all [Run.ok])

theorem execPush_keeps {s t : State} {x1 x2} (e : execPush x1 x2 s = .next t) : Keeps s t := by
  refine answer_keeps e ?_
  have h := Keeps.refl s
  iterate 24 all_goals (try first
    | with_reducible assumption
    | with_reducible apply State.issueRow_keeps
    | with_reducible apply actPush_keeps
    | (with_reducible apply foldl_keeps)
    | (with_reducible apply foldl_fst_keeps)
    | with_reducible apply Keeps.ite
    | with_reducible apply Keeps.ite_fst
    | with_reducible apply Keeps.ite_snd
    | intro _
    | dsimp only
    | split
    | (refine Keeps.fst (by with_reducible assumption) ?_)
    | (refine Keeps.snd (by with_reducible assumption) ?_)
    | rfl
    | exact ⟨rfl, rfl⟩
    | exact ⟨rfl, rfl, rfl⟩
    | exact Memory.wf_clear (by assumption) _ _
    | exact Memory.wf_filter (by assumption) _
    | exact Memory.wf_writeBytes (by assumption) _ _
    | with_reducible apply Keeps.mk_all
    | assumption
    | simp_all [Run.ok])

theorem actPop_keeps {a s : State} (h : Keeps a s) {x1 x2 x3} : Keeps a (actPop x1 x2 s x3) := by
  unfold actPop
  iterate 24 all_goals (try first
    | with_reducible assumption
    | with_reducible apply State.streamMalformed_keeps
    | with_reducible apply State.block_keeps
    | with_reducible apply State.consume_keeps
    | with_reducible apply State.signalAtIssue_keeps
    | with_reducible apply State.modActq_keeps
    | (with_reducible apply foldl_keeps)
    | (with_reducible apply foldl_fst_keeps)
    | with_reducible apply Keeps.ite
    | with_reducible apply Keeps.ite_fst
    | with_reducible apply Keeps.ite_snd
    | intro _
    | dsimp only
    | split
    | (refine Keeps.fst (by with_reducible assumption) ?_)
    | (refine Keeps.snd (by with_reducible assumption) ?_)
    | rfl
    | exact ⟨rfl, rfl⟩
    | exact ⟨rfl, rfl, rfl⟩
    | exact Memory.wf_clear (by assumption) _ _
    | exact Memory.wf_filter (by assumption) _
    | exact Memory.wf_writeBytes (by assumption) _ _
    | with_reducible apply Keeps.mk_all
    | assumption
    | simp_all [Run.ok])

theorem execPop_keeps {s t : State} {x1 x2} (e : execPop x1 x2 s = .next t) : Keeps s t := by
  refine answer_keeps e ?_
  have h := Keeps.refl s
  iterate 24 all_goals (try first
    | with_reducible assumption
    | with_reducible apply State.issueRow_keeps
    | with_reducible apply actPop_keeps
    | (with_reducible apply foldl_keeps)
    | (with_reducible apply foldl_fst_keeps)
    | with_reducible apply Keeps.ite
    | with_reducible apply Keeps.ite_fst
    | with_reducible apply Keeps.ite_snd
    | intro _
    | dsimp only
    | split
    | (refine Keeps.fst (by with_reducible assumption) ?_)
    | (refine Keeps.snd (by with_reducible assumption) ?_)
    | rfl
    | exact ⟨rfl, rfl⟩
    | exact ⟨rfl, rfl, rfl⟩
    | exact Memory.wf_clear (by assumption) _ _
    | exact Memory.wf_filter (by assumption) _
    | exact Memory.wf_writeBytes (by assumption) _ _
    | with_reducible apply Keeps.mk_all
    | assumption
    | simp_all [Run.ok])

theorem actRelease_keeps {a s : State} (h : Keeps a s) {x1 x2 x3} : Keeps a (actRelease x1 x2 s x3) := by
  unfold actRelease
  iterate 24 all_goals (try first
    | with_reducible assumption
    | with_reducible apply State.send_keeps
    | with_reducible apply State.streamMalformed_keeps
    | with_reducible apply State.consume_keeps
    | with_reducible apply State.signalAtIssue_keeps
    | with_reducible apply State.modActq_keeps
    | (with_reducible apply foldl_keeps)
    | (with_reducible apply foldl_fst_keeps)
    | with_reducible apply Keeps.ite
    | with_reducible apply Keeps.ite_fst
    | with_reducible apply Keeps.ite_snd
    | intro _
    | dsimp only
    | split
    | (refine Keeps.fst (by with_reducible assumption) ?_)
    | (refine Keeps.snd (by with_reducible assumption) ?_)
    | rfl
    | exact ⟨rfl, rfl⟩
    | exact ⟨rfl, rfl, rfl⟩
    | exact Memory.wf_clear (by assumption) _ _
    | exact Memory.wf_filter (by assumption) _
    | exact Memory.wf_writeBytes (by assumption) _ _
    | with_reducible apply Keeps.mk_all
    | assumption
    | simp_all [Run.ok])

theorem execRelease_keeps {s t : State} {x1 x2} (e : execRelease x1 x2 s = .next t) : Keeps s t := by
  refine answer_keeps e ?_
  have h := Keeps.refl s
  iterate 24 all_goals (try first
    | with_reducible assumption
    | with_reducible apply State.issueRow_keeps
    | with_reducible apply actRelease_keeps
    | (with_reducible apply foldl_keeps)
    | (with_reducible apply foldl_fst_keeps)
    | with_reducible apply Keeps.ite
    | with_reducible apply Keeps.ite_fst
    | with_reducible apply Keeps.ite_snd
    | intro _
    | dsimp only
    | split
    | (refine Keeps.fst (by with_reducible assumption) ?_)
    | (refine Keeps.snd (by with_reducible assumption) ?_)
    | rfl
    | exact ⟨rfl, rfl⟩
    | exact ⟨rfl, rfl, rfl⟩
    | exact Memory.wf_clear (by assumption) _ _
    | exact Memory.wf_filter (by assumption) _
    | exact Memory.wf_writeBytes (by assumption) _ _
    | with_reducible apply Keeps.mk_all
    | assumption
    | simp_all [Run.ok])

theorem actTrack_keeps {a s : State} (h : Keeps a s) {x1 x2 x3} : Keeps a (actTrack x1 x2 s x3) := by
  unfold actTrack
  iterate 24 all_goals (try first
    | with_reducible assumption
    | with_reducible apply State.modPyro_keeps
    | with_reducible apply State.streamMalformed_keeps
    | with_reducible apply State.consume_keeps
    | with_reducible apply State.signalAtIssue_keeps
    | (with_reducible apply foldl_keeps)
    | (with_reducible apply foldl_fst_keeps)
    | with_reducible apply Keeps.ite
    | with_reducible apply Keeps.ite_fst
    | with_reducible apply Keeps.ite_snd
    | intro _
    | dsimp only
    | split
    | (refine Keeps.fst (by with_reducible assumption) ?_)
    | (refine Keeps.snd (by with_reducible assumption) ?_)
    | rfl
    | exact ⟨rfl, rfl⟩
    | exact ⟨rfl, rfl, rfl⟩
    | exact Memory.wf_clear (by assumption) _ _
    | exact Memory.wf_filter (by assumption) _
    | exact Memory.wf_writeBytes (by assumption) _ _
    | with_reducible apply Keeps.mk_all
    | assumption
    | simp_all [Run.ok])

theorem execTrack_keeps {s t : State} {x1 x2} (e : execTrack x1 x2 s = .next t) : Keeps s t := by
  refine answer_keeps e ?_
  have h := Keeps.refl s
  iterate 24 all_goals (try first
    | with_reducible assumption
    | with_reducible apply State.issueRow_keeps
    | with_reducible apply actTrack_keeps
    | (with_reducible apply foldl_keeps)
    | (with_reducible apply foldl_fst_keeps)
    | with_reducible apply Keeps.ite
    | with_reducible apply Keeps.ite_fst
    | with_reducible apply Keeps.ite_snd
    | intro _
    | dsimp only
    | split
    | (refine Keeps.fst (by with_reducible assumption) ?_)
    | (refine Keeps.snd (by with_reducible assumption) ?_)
    | rfl
    | exact ⟨rfl, rfl⟩
    | exact ⟨rfl, rfl, rfl⟩
    | exact Memory.wf_clear (by assumption) _ _
    | exact Memory.wf_filter (by assumption) _
    | exact Memory.wf_writeBytes (by assumption) _ _
    | with_reducible apply Keeps.mk_all
    | assumption
    | simp_all [Run.ok])

theorem actSample_keeps {a s : State} (h : Keeps a s) {x1 x2 x3} : Keeps a (actSample x1 x2 s x3) := by
  unfold actSample
  iterate 24 all_goals (try first
    | with_reducible assumption
    | with_reducible apply State.modRun_keeps
    | with_reducible apply State.modPyro_keeps
    | with_reducible apply State.streamMalformed_keeps
    | with_reducible apply State.consume_keeps
    | with_reducible apply State.signalAtIssue_keeps
    | (with_reducible apply foldl_keeps)
    | (with_reducible apply foldl_fst_keeps)
    | with_reducible apply Keeps.ite
    | with_reducible apply Keeps.ite_fst
    | with_reducible apply Keeps.ite_snd
    | intro _
    | dsimp only
    | split
    | (refine Keeps.fst (by with_reducible assumption) ?_)
    | (refine Keeps.snd (by with_reducible assumption) ?_)
    | rfl
    | exact ⟨rfl, rfl⟩
    | exact ⟨rfl, rfl, rfl⟩
    | exact Memory.wf_clear (by assumption) _ _
    | exact Memory.wf_filter (by assumption) _
    | exact Memory.wf_writeBytes (by assumption) _ _
    | with_reducible apply Keeps.mk_all
    | assumption
    | simp_all [Run.ok])

theorem execSample_keeps {s t : State} {x1 x2} (e : execSample x1 x2 s = .next t) : Keeps s t := by
  refine answer_keeps e ?_
  have h := Keeps.refl s
  iterate 24 all_goals (try first
    | with_reducible assumption
    | with_reducible apply State.issueRow_keeps
    | with_reducible apply actSample_keeps
    | (with_reducible apply foldl_keeps)
    | (with_reducible apply foldl_fst_keeps)
    | with_reducible apply Keeps.ite
    | with_reducible apply Keeps.ite_fst
    | with_reducible apply Keeps.ite_snd
    | intro _
    | dsimp only
    | split
    | (refine Keeps.fst (by with_reducible assumption) ?_)
    | (refine Keeps.snd (by with_reducible assumption) ?_)
    | rfl
    | exact ⟨rfl, rfl⟩
    | exact ⟨rfl, rfl, rfl⟩
    | exact Memory.wf_clear (by assumption) _ _
    | exact Memory.wf_filter (by assumption) _
    | exact Memory.wf_writeBytes (by assumption) _ _
    | with_reducible apply Keeps.mk_all
    | assumption
    | simp_all [Run.ok])

theorem actScaleFlag_keeps {a s : State} (h : Keeps a s) {x1 x2 x3} : Keeps a (actScaleFlag x1 x2 s x3) := by
  unfold actScaleFlag
  iterate 24 all_goals (try first
    | with_reducible assumption
    | with_reducible apply State.modRun_keeps
    | with_reducible apply State.consume_keeps
    | with_reducible apply State.signalAtIssue_keeps
    | (with_reducible apply foldl_keeps)
    | (with_reducible apply foldl_fst_keeps)
    | with_reducible apply Keeps.ite
    | with_reducible apply Keeps.ite_fst
    | with_reducible apply Keeps.ite_snd
    | intro _
    | dsimp only
    | split
    | (refine Keeps.fst (by with_reducible assumption) ?_)
    | (refine Keeps.snd (by with_reducible assumption) ?_)
    | rfl
    | exact ⟨rfl, rfl⟩
    | exact ⟨rfl, rfl, rfl⟩
    | exact Memory.wf_clear (by assumption) _ _
    | exact Memory.wf_filter (by assumption) _
    | exact Memory.wf_writeBytes (by assumption) _ _
    | with_reducible apply Keeps.mk_all
    | assumption
    | simp_all [Run.ok])

theorem execScaleFlag_keeps {s t : State} {x1 x2} (e : execScaleFlag x1 x2 s = .next t) : Keeps s t := by
  refine answer_keeps e ?_
  have h := Keeps.refl s
  iterate 24 all_goals (try first
    | with_reducible assumption
    | with_reducible apply State.issueRow_keeps
    | with_reducible apply actScaleFlag_keeps
    | (with_reducible apply foldl_keeps)
    | (with_reducible apply foldl_fst_keeps)
    | with_reducible apply Keeps.ite
    | with_reducible apply Keeps.ite_fst
    | with_reducible apply Keeps.ite_snd
    | intro _
    | dsimp only
    | split
    | (refine Keeps.fst (by with_reducible assumption) ?_)
    | (refine Keeps.snd (by with_reducible assumption) ?_)
    | rfl
    | exact ⟨rfl, rfl⟩
    | exact ⟨rfl, rfl, rfl⟩
    | exact Memory.wf_clear (by assumption) _ _
    | exact Memory.wf_filter (by assumption) _
    | exact Memory.wf_writeBytes (by assumption) _ _
    | with_reducible apply Keeps.mk_all
    | assumption
    | simp_all [Run.ok])

theorem State.completeIf_keeps {a s : State} (h : Keeps a s) {x1 x2 x3 x4 x5 x6} (hF : ∀ t o, Keeps a t → Keeps a (x6 t o)) : Keeps a (State.completeIf s x1 x2 x3 x4 x5 x6) := by
  unfold State.completeIf
  iterate 24 all_goals (try first
    | with_reducible assumption
    | with_reducible apply hF
    | with_reducible apply State.complete_keeps
    | (with_reducible apply foldl_keeps)
    | (with_reducible apply foldl_fst_keeps)
    | with_reducible apply Keeps.ite
    | with_reducible apply Keeps.ite_fst
    | with_reducible apply Keeps.ite_snd
    | intro _
    | dsimp only
    | split
    | (refine Keeps.fst (by with_reducible assumption) ?_)
    | (refine Keeps.snd (by with_reducible assumption) ?_)
    | rfl
    | exact ⟨rfl, rfl⟩
    | exact ⟨rfl, rfl, rfl⟩
    | exact Memory.wf_clear (by assumption) _ _
    | exact Memory.wf_filter (by assumption) _
    | exact Memory.wf_writeBytes (by assumption) _ _
    | with_reducible apply Keeps.mk_all
    | assumption
    | simp_all [Run.ok])

theorem execHearthPassDone_keeps {s t : State} {x1 x2 x3} (e : execHearthPassDone x1 x2 x3 s = .next t) : Keeps s t := by
  refine answer_keeps e ?_
  have h := Keeps.refl s
  iterate 24 all_goals (try first
    | with_reducible assumption
    | with_reducible apply State.completeIf_keeps
    | (with_reducible apply foldl_keeps)
    | (with_reducible apply foldl_fst_keeps)
    | with_reducible apply Keeps.ite
    | with_reducible apply Keeps.ite_fst
    | with_reducible apply Keeps.ite_snd
    | intro _
    | dsimp only
    | split
    | (refine Keeps.fst (by with_reducible assumption) ?_)
    | (refine Keeps.snd (by with_reducible assumption) ?_)
    | rfl
    | exact ⟨rfl, rfl⟩
    | exact ⟨rfl, rfl, rfl⟩
    | exact Memory.wf_clear (by assumption) _ _
    | exact Memory.wf_filter (by assumption) _
    | exact Memory.wf_writeBytes (by assumption) _ _
    | with_reducible apply Keeps.mk_all
    | assumption
    | simp_all [Run.ok])

theorem execTemperLaunchDone_keeps {s t : State} {x1 x2 x3} (e : execTemperLaunchDone x1 x2 x3 s = .next t) : Keeps s t := by
  refine answer_keeps e ?_
  have h := Keeps.refl s
  iterate 24 all_goals (try first
    | with_reducible assumption
    | with_reducible apply State.completeIf_keeps
    | (with_reducible apply foldl_keeps)
    | (with_reducible apply foldl_fst_keeps)
    | with_reducible apply Keeps.ite
    | with_reducible apply Keeps.ite_fst
    | with_reducible apply Keeps.ite_snd
    | intro _
    | dsimp only
    | split
    | (refine Keeps.fst (by with_reducible assumption) ?_)
    | (refine Keeps.snd (by with_reducible assumption) ?_)
    | rfl
    | exact ⟨rfl, rfl⟩
    | exact ⟨rfl, rfl, rfl⟩
    | exact Memory.wf_clear (by assumption) _ _
    | exact Memory.wf_filter (by assumption) _
    | exact Memory.wf_writeBytes (by assumption) _ _
    | with_reducible apply Keeps.mk_all
    | assumption
    | simp_all [Run.ok])

theorem execTongsDone_keeps {s t : State} {x1 x2 x3} (e : execTongsDone x1 x2 x3 s = .next t) : Keeps s t := by
  refine answer_keeps e ?_
  have h := Keeps.refl s
  iterate 24 all_goals (try first
    | with_reducible assumption
    | with_reducible apply State.tongsDrop_keeps
    | with_reducible apply State.completeIf_keeps
    | (with_reducible apply foldl_keeps)
    | (with_reducible apply foldl_fst_keeps)
    | with_reducible apply Keeps.ite
    | with_reducible apply Keeps.ite_fst
    | with_reducible apply Keeps.ite_snd
    | intro _
    | dsimp only
    | split
    | (refine Keeps.fst (by with_reducible assumption) ?_)
    | (refine Keeps.snd (by with_reducible assumption) ?_)
    | rfl
    | exact ⟨rfl, rfl⟩
    | exact ⟨rfl, rfl, rfl⟩
    | exact Memory.wf_clear (by assumption) _ _
    | exact Memory.wf_filter (by assumption) _
    | exact Memory.wf_writeBytes (by assumption) _ _
    | with_reducible apply Keeps.mk_all
    | assumption
    | simp_all [Run.ok])

theorem execCollDone_keeps {s t : State} {x1 x2 x3} (e : execCollDone x1 x2 x3 s = .next t) : Keeps s t := by
  refine answer_keeps e ?_
  have h := Keeps.refl s
  iterate 24 all_goals (try first
    | with_reducible assumption
    | with_reducible apply State.completeIf_keeps
    | (with_reducible apply foldl_keeps)
    | (with_reducible apply foldl_fst_keeps)
    | with_reducible apply Keeps.ite
    | with_reducible apply Keeps.ite_fst
    | with_reducible apply Keeps.ite_snd
    | intro _
    | dsimp only
    | split
    | (refine Keeps.fst (by with_reducible assumption) ?_)
    | (refine Keeps.snd (by with_reducible assumption) ?_)
    | rfl
    | exact ⟨rfl, rfl⟩
    | exact ⟨rfl, rfl, rfl⟩
    | exact Memory.wf_clear (by assumption) _ _
    | exact Memory.wf_filter (by assumption) _
    | exact Memory.wf_writeBytes (by assumption) _ _
    | with_reducible apply Keeps.mk_all
    | assumption
    | simp_all [Run.ok])

theorem State.announcePush_keeps {a s : State} (h : Keeps a s) {x1 x2} : Keeps a (State.announcePush s x1 x2) := by
  unfold State.announcePush
  iterate 24 all_goals (try first
    | with_reducible assumption
    | with_reducible apply State.send_keeps
    | with_reducible apply State.modActq_keeps
    | (with_reducible apply foldl_keeps)
    | (with_reducible apply foldl_fst_keeps)
    | with_reducible apply Keeps.ite
    | with_reducible apply Keeps.ite_fst
    | with_reducible apply Keeps.ite_snd
    | intro _
    | dsimp only
    | split
    | (refine Keeps.fst (by with_reducible assumption) ?_)
    | (refine Keeps.snd (by with_reducible assumption) ?_)
    | rfl
    | exact ⟨rfl, rfl⟩
    | exact ⟨rfl, rfl, rfl⟩
    | exact Memory.wf_clear (by assumption) _ _
    | exact Memory.wf_filter (by assumption) _
    | exact Memory.wf_writeBytes (by assumption) _ _
    | with_reducible apply Keeps.mk_all
    | assumption
    | simp_all [Run.ok])

theorem execPushDone_keeps {s t : State} {x1 x2 x3} (e : execPushDone x1 x2 x3 s = .next t) : Keeps s t := by
  refine answer_keeps e ?_
  have h := Keeps.refl s
  iterate 24 all_goals (try first
    | with_reducible assumption
    | with_reducible apply State.completeIf_keeps
    | with_reducible apply State.announcePush_keeps
    | (with_reducible apply foldl_keeps)
    | (with_reducible apply foldl_fst_keeps)
    | with_reducible apply Keeps.ite
    | with_reducible apply Keeps.ite_fst
    | with_reducible apply Keeps.ite_snd
    | intro _
    | dsimp only
    | split
    | (refine Keeps.fst (by with_reducible assumption) ?_)
    | (refine Keeps.snd (by with_reducible assumption) ?_)
    | rfl
    | exact ⟨rfl, rfl⟩
    | exact ⟨rfl, rfl, rfl⟩
    | exact Memory.wf_clear (by assumption) _ _
    | exact Memory.wf_filter (by assumption) _
    | exact Memory.wf_writeBytes (by assumption) _ _
    | with_reducible apply Keeps.mk_all
    | assumption
    | simp_all [Run.ok])

theorem doStreamHang_keeps {a s : State} (h : Keeps a s) {x1 x2} : Keeps a (doStreamHang x1 x2 s) := by
  unfold doStreamHang
  iterate 24 all_goals (try first
    | with_reducible assumption
    | with_reducible apply State.raise_keeps
    | with_reducible apply State.modSeq_keeps
    | with_reducible apply State.unblock_keeps
    | (with_reducible apply foldl_keeps)
    | (with_reducible apply foldl_fst_keeps)
    | with_reducible apply Keeps.ite
    | with_reducible apply Keeps.ite_fst
    | with_reducible apply Keeps.ite_snd
    | intro _
    | dsimp only
    | split
    | (refine Keeps.fst (by with_reducible assumption) ?_)
    | (refine Keeps.snd (by with_reducible assumption) ?_)
    | rfl
    | exact ⟨rfl, rfl⟩
    | exact ⟨rfl, rfl, rfl⟩
    | exact Memory.wf_clear (by assumption) _ _
    | exact Memory.wf_filter (by assumption) _
    | exact Memory.wf_writeBytes (by assumption) _ _
    | with_reducible apply Keeps.mk_all
    | assumption
    | simp_all [Run.ok])

theorem execStreamHang_keeps {s t : State} {x1 x2} (e : execStreamHang x1 x2 s = .next t) : Keeps s t := by
  refine answer_keeps e ?_
  have h := Keeps.refl s
  iterate 24 all_goals (try first
    | with_reducible assumption
    | with_reducible apply doStreamHang_keeps
    | (with_reducible apply foldl_keeps)
    | (with_reducible apply foldl_fst_keeps)
    | with_reducible apply Keeps.ite
    | with_reducible apply Keeps.ite_fst
    | with_reducible apply Keeps.ite_snd
    | intro _
    | dsimp only
    | split
    | (refine Keeps.fst (by with_reducible assumption) ?_)
    | (refine Keeps.snd (by with_reducible assumption) ?_)
    | rfl
    | exact ⟨rfl, rfl⟩
    | exact ⟨rfl, rfl, rfl⟩
    | exact Memory.wf_clear (by assumption) _ _
    | exact Memory.wf_filter (by assumption) _
    | exact Memory.wf_writeBytes (by assumption) _ _
    | with_reducible apply Keeps.mk_all
    | assumption
    | simp_all [Run.ok])

theorem State.queueEvent_keeps {a s : State} (h : Keeps a s) {x1 x2 x3 x4 x5} : Keeps a (State.queueEvent s x1 x2 x3 x4 x5) := by
  unfold State.queueEvent
  iterate 24 all_goals (try first
    | with_reducible assumption
    | with_reducible apply State.count_keeps
    | with_reducible apply State.receive_keeps
    | with_reducible apply State.bufErrors_keeps
    | with_reducible apply State.ackIfDue_keeps
    | with_reducible apply State.dataArrived_keeps
    | with_reducible apply State.actMark_keeps
    | with_reducible apply State.modActq_keeps
    | (with_reducible apply foldl_keeps)
    | (with_reducible apply foldl_fst_keeps)
    | with_reducible apply Keeps.ite
    | with_reducible apply Keeps.ite_fst
    | with_reducible apply Keeps.ite_snd
    | intro _
    | dsimp only
    | split
    | (refine Keeps.fst (by with_reducible assumption) ?_)
    | (refine Keeps.snd (by with_reducible assumption) ?_)
    | rfl
    | exact ⟨rfl, rfl⟩
    | exact ⟨rfl, rfl, rfl⟩
    | exact Memory.wf_clear (by assumption) _ _
    | exact Memory.wf_filter (by assumption) _
    | exact Memory.wf_writeBytes (by assumption) _ _
    | with_reducible apply Keeps.mk_all
    | assumption
    | simp_all [Run.ok])

theorem execActqCredit_keeps {s t : State} {x1 x2 x3} (e : execActqCredit x1 x2 x3 s = .next t) : Keeps s t := by
  refine answer_keeps e ?_
  have h := Keeps.refl s
  iterate 24 all_goals (try first
    | with_reducible assumption
    | with_reducible apply State.queueEvent_keeps
    | (with_reducible apply foldl_keeps)
    | (with_reducible apply foldl_fst_keeps)
    | with_reducible apply Keeps.ite
    | with_reducible apply Keeps.ite_fst
    | with_reducible apply Keeps.ite_snd
    | intro _
    | dsimp only
    | split
    | (refine Keeps.fst (by with_reducible assumption) ?_)
    | (refine Keeps.snd (by with_reducible assumption) ?_)
    | rfl
    | exact ⟨rfl, rfl⟩
    | exact ⟨rfl, rfl, rfl⟩
    | exact Memory.wf_clear (by assumption) _ _
    | exact Memory.wf_filter (by assumption) _
    | exact Memory.wf_writeBytes (by assumption) _ _
    | with_reducible apply Keeps.mk_all
    | assumption
    | simp_all [Run.ok])

theorem execActqFullNotice_keeps {s t : State} {x1 x2 x3} (e : execActqFullNotice x1 x2 x3 s = .next t) : Keeps s t := by
  refine answer_keeps e ?_
  have h := Keeps.refl s
  iterate 24 all_goals (try first
    | with_reducible assumption
    | with_reducible apply State.queueEvent_keeps
    | (with_reducible apply foldl_keeps)
    | (with_reducible apply foldl_fst_keeps)
    | with_reducible apply Keeps.ite
    | with_reducible apply Keeps.ite_fst
    | with_reducible apply Keeps.ite_snd
    | intro _
    | dsimp only
    | split
    | (refine Keeps.fst (by with_reducible assumption) ?_)
    | (refine Keeps.snd (by with_reducible assumption) ?_)
    | rfl
    | exact ⟨rfl, rfl⟩
    | exact ⟨rfl, rfl, rfl⟩
    | exact Memory.wf_clear (by assumption) _ _
    | exact Memory.wf_filter (by assumption) _
    | exact Memory.wf_writeBytes (by assumption) _ _
    | with_reducible apply Keeps.mk_all
    | assumption
    | simp_all [Run.ok])

end Sys2Proof.Machine
end

