-- ==== Sys2Proof/Laws/KeepsNet.lean ====
section
/-! SUPPORT. What each operation of Mailbox, Recover, Collective, Rounds, Manifest, HostPath keeps (Keeps.lean). -/

set_option linter.unusedTactic false
set_option linter.unreachableTactic false
set_option linter.unusedSimpArgs false
set_option linter.unusedVariables false

namespace Sys2Proof.Machine

theorem State.putHdr_keeps {a s : State} (h : Keeps a s) {x1 x2} : Keeps a (State.putHdr s x1 x2) := by
  unfold State.putHdr
  iterate 24 all_goals (try first
    | with_reducible assumption
    | with_reducible apply State.put4_keeps
    | (with_reducible apply foldl_keeps)
    | (with_reducible apply foldl_fst_keeps)
    | with_reducible apply Keeps.ite
    | with_reducible apply Keeps.ite_fst
    | with_reducible apply Keeps.ite_snd
    | intro _
    | dsimp only
    | split
    | (refine Keeps.fst (by with_reducible assumption) ?_)
    | (refine Keeps.snd (by with_reducible assumption) ?_)
    | rfl
    | exact ⟨rfl, rfl⟩
    | exact ⟨rfl, rfl, rfl⟩
    | exact Memory.wf_clear (by assumption) _ _
    | exact Memory.wf_filter (by assumption) _
    | exact Memory.wf_writeBytes (by assumption) _ _
    | with_reducible apply Keeps.mk_all
    | assumption
    | simp_all [Run.ok])

theorem State.finishMbx_keeps {a s : State} (h : Keeps a s) {x1 x2 x3 x4} : Keeps a (State.finishMbx s x1 x2 x3 x4) := by
  unfold State.finishMbx
  iterate 24 all_goals (try first
    | with_reducible assumption
    | with_reducible apply State.put4_keeps
    | with_reducible apply State.putHdr_keeps
    | (with_reducible apply foldl_keeps)
    | (with_reducible apply foldl_fst_keeps)
    | with_reducible apply Keeps.ite
    | with_reducible apply Keeps.ite_fst
    | with_reducible apply Keeps.ite_snd
    | intro _
    | dsimp only
    | split
    | (refine Keeps.fst (by with_reducible assumption) ?_)
    | (refine Keeps.snd (by with_reducible assumption) ?_)
    | rfl
    | exact ⟨rfl, rfl⟩
    | exact ⟨rfl, rfl, rfl⟩
    | exact Memory.wf_clear (by assumption) _ _
    | exact Memory.wf_filter (by assumption) _
    | exact Memory.wf_writeBytes (by assumption) _ _
    | with_reducible apply Keeps.mk_all
    | assumption
    | simp_all [Run.ok])

theorem State.discardMbx_keeps {a s : State} (h : Keeps a s) {x1} : Keeps a (State.discardMbx s x1) := by
  unfold State.discardMbx
  iterate 24 all_goals (try first
    | with_reducible assumption
    | with_reducible apply State.finishMbx_keeps
    | (with_reducible apply State.each_keeps; intro _ _ _)
    | (with_reducible apply foldl_keeps)
    | (with_reducible apply foldl_fst_keeps)
    | with_reducible apply Keeps.ite
    | with_reducible apply Keeps.ite_fst
    | with_reducible apply Keeps.ite_snd
    | intro _
    | dsimp only
    | split
    | (refine Keeps.fst (by with_reducible assumption) ?_)
    | (refine Keeps.snd (by with_reducible assumption) ?_)
    | rfl
    | exact ⟨rfl, rfl⟩
    | exact ⟨rfl, rfl, rfl⟩
    | exact Memory.wf_clear (by assumption) _ _
    | exact Memory.wf_filter (by assumption) _
    | exact Memory.wf_writeBytes (by assumption) _ _
    | with_reducible apply Keeps.mk_all
    | assumption
    | simp_all [Run.ok])

theorem State.control_keeps {a s : State} (h : Keeps a s) {x1 x2 x3 x4 x5 x6} : Keeps a (State.control s x1 x2 x3 x4 x5 x6) := by
  unfold State.control
  iterate 24 all_goals (try first
    | with_reducible assumption
    | with_reducible apply State.send_keeps
    | (with_reducible apply foldl_keeps)
    | (with_reducible apply foldl_fst_keeps)
    | with_reducible apply Keeps.ite
    | with_reducible apply Keeps.ite_fst
    | with_reducible apply Keeps.ite_snd
    | intro _
    | dsimp only
    | split
    | (refine Keeps.fst (by with_reducible assumption) ?_)
    | (refine Keeps.snd (by with_reducible assumption) ?_)
    | rfl
    | exact ⟨rfl, rfl⟩
    | exact ⟨rfl, rfl, rfl⟩
    | exact Memory.wf_clear (by assumption) _ _
    | exact Memory.wf_filter (by assumption) _
    | exact Memory.wf_writeBytes (by assumption) _ _
    | with_reducible apply Keeps.mk_all
    | assumption
    | simp_all [Run.ok])

theorem State.controlAll_keeps {a s : State} (h : Keeps a s) {x1 x2 x3 x4 x5} : Keeps a (State.controlAll s x1 x2 x3 x4 x5) := by
  unfold State.controlAll
  iterate 24 all_goals (try first
    | with_reducible assumption
    | with_reducible apply State.control_keeps
    | (with_reducible apply State.each_keeps; intro _ _ _)
    | (with_reducible apply foldl_keeps)
    | (with_reducible apply foldl_fst_keeps)
    | with_reducible apply Keeps.ite
    | with_reducible apply Keeps.ite_fst
    | with_reducible apply Keeps.ite_snd
    | intro _
    | dsimp only
    | split
    | (refine Keeps.fst (by with_reducible assumption) ?_)
    | (refine Keeps.snd (by with_reducible assumption) ?_)
    | rfl
    | exact ⟨rfl, rfl⟩
    | exact ⟨rfl, rfl, rfl⟩
    | exact Memory.wf_clear (by assumption) _ _
    | exact Memory.wf_filter (by assumption) _
    | exact Memory.wf_writeBytes (by assumption) _ _
    | with_reducible apply Keeps.mk_all
    | assumption
    | simp_all [Run.ok])

theorem State.lose_keeps {a s : State} (h : Keeps a s) {x1 x2} : Keeps a (State.lose s x1 x2) := by
  unfold State.lose
  iterate 24 all_goals (try first
    | with_reducible assumption
    | with_reducible apply State.modFab_keeps
    | with_reducible apply State.ownerLost_keeps
    | (with_reducible apply State.each_keeps; intro _ _ _)
    | (with_reducible apply foldl_keeps)
    | (with_reducible apply foldl_fst_keeps)
    | with_reducible apply Keeps.ite
    | with_reducible apply Keeps.ite_fst
    | with_reducible apply Keeps.ite_snd
    | intro _
    | dsimp only
    | split
    | (refine Keeps.fst (by with_reducible assumption) ?_)
    | (refine Keeps.snd (by with_reducible assumption) ?_)
    | rfl
    | exact ⟨rfl, rfl⟩
    | exact ⟨rfl, rfl, rfl⟩
    | exact Memory.wf_clear (by assumption) _ _
    | exact Memory.wf_filter (by assumption) _
    | exact Memory.wf_writeBytes (by assumption) _ _
    | with_reducible apply Keeps.mk_all
    | assumption
    | simp_all [Run.ok])

theorem State.heartbeats_keeps {a s : State} (h : Keeps a s) {x1 x2} : Keeps a (State.heartbeats s x1 x2) := by
  unfold State.heartbeats
  iterate 24 all_goals (try first
    | with_reducible assumption
    | with_reducible apply State.emitHall_keeps
    | (with_reducible apply State.each_keeps; intro _ _ _)
    | (with_reducible apply foldl_keeps)
    | (with_reducible apply foldl_fst_keeps)
    | with_reducible apply Keeps.ite
    | with_reducible apply Keeps.ite_fst
    | with_reducible apply Keeps.ite_snd
    | intro _
    | dsimp only
    | split
    | (refine Keeps.fst (by with_reducible assumption) ?_)
    | (refine Keeps.snd (by with_reducible assumption) ?_)
    | rfl
    | exact ⟨rfl, rfl⟩
    | exact ⟨rfl, rfl, rfl⟩
    | exact Memory.wf_clear (by assumption) _ _
    | exact Memory.wf_filter (by assumption) _
    | exact Memory.wf_writeBytes (by assumption) _ _
    | with_reducible apply Keeps.mk_all
    | assumption
    | simp_all [Run.ok])

theorem State.sendLeft_keeps {a s : State} (h : Keeps a s) {x1} : Keeps a (State.sendLeft s x1) := by
  unfold State.sendLeft
  iterate 24 all_goals (try first
    | with_reducible assumption
    | with_reducible apply State.heartbeats_keeps
    | (with_reducible apply foldl_keeps)
    | (with_reducible apply foldl_fst_keeps)
    | with_reducible apply Keeps.ite
    | with_reducible apply Keeps.ite_fst
    | with_reducible apply Keeps.ite_snd
    | intro _
    | dsimp only
    | split
    | (refine Keeps.fst (by with_reducible assumption) ?_)
    | (refine Keeps.snd (by with_reducible assumption) ?_)
    | rfl
    | exact ⟨rfl, rfl⟩
    | exact ⟨rfl, rfl, rfl⟩
    | exact Memory.wf_clear (by assumption) _ _
    | exact Memory.wf_filter (by assumption) _
    | exact Memory.wf_writeBytes (by assumption) _ _
    | with_reducible apply Keeps.mk_all
    | assumption
    | simp_all [Run.ok])

theorem State.refreshLocal_keeps {a s : State} (h : Keeps a s) {x1} : Keeps a (State.refreshLocal s x1) := by
  unfold State.refreshLocal
  iterate 24 all_goals (try first
    | with_reducible assumption
    | with_reducible apply State.trySave_keeps
    | (with_reducible apply State.each_keeps; intro _ _ _)
    | (with_reducible apply foldl_keeps)
    | (with_reducible apply foldl_fst_keeps)
    | with_reducible apply Keeps.ite
    | with_reducible apply Keeps.ite_fst
    | with_reducible apply Keeps.ite_snd
    | intro _
    | dsimp only
    | split
    | (refine Keeps.fst (by with_reducible assumption) ?_)
    | (refine Keeps.snd (by with_reducible assumption) ?_)
    | rfl
    | exact ⟨rfl, rfl⟩
    | exact ⟨rfl, rfl, rfl⟩
    | exact Memory.wf_clear (by assumption) _ _
    | exact Memory.wf_filter (by assumption) _
    | exact Memory.wf_writeBytes (by assumption) _ _
    | with_reducible apply Keeps.mk_all
    | assumption
    | simp_all [Run.ok])

theorem State.imageWrite_keeps {a s : State} (h : Keeps a s) {x1 x2 x3 x4} : Keeps a (State.imageWrite s x1 x2 x3 x4) := by
  unfold State.imageWrite
  iterate 24 all_goals (try first
    | with_reducible assumption
    | with_reducible apply State.modPart_keeps
    | with_reducible apply State.remoteWrite_keeps
    | (with_reducible apply foldl_keeps)
    | (with_reducible apply foldl_fst_keeps)
    | with_reducible apply Keeps.ite
    | with_reducible apply Keeps.ite_fst
    | with_reducible apply Keeps.ite_snd
    | intro _
    | dsimp only
    | split
    | (refine Keeps.fst (by with_reducible assumption) ?_)
    | (refine Keeps.snd (by with_reducible assumption) ?_)
    | rfl
    | exact ⟨rfl, rfl⟩
    | exact ⟨rfl, rfl, rfl⟩
    | exact Memory.wf_clear (by assumption) _ _
    | exact Memory.wf_filter (by assumption) _
    | exact Memory.wf_writeBytes (by assumption) _ _
    | with_reducible apply Keeps.mk_all
    | assumption
    | simp_all [Run.ok])

theorem State.imageAdvance_keeps {a : State} : ∀ {n p : Nat} {s : State}, Keeps a s → Keeps a (State.imageAdvance n p s)
  | 0, _, _, h => h
  | _ + 1, _, _, h => by
    unfold State.imageAdvance
    iterate 24 all_goals (try first
    | with_reducible assumption
    | with_reducible apply State.imageAdvance_keeps
    | with_reducible apply State.modPart_keeps
    | with_reducible apply State.imageWrite_keeps
    | (with_reducible apply State.each_keeps; intro _ _ _)
    | with_reducible apply Keeps.ite
    | with_reducible apply Keeps.ite_fst
    | with_reducible apply Keeps.ite_snd
    | intro _
    | dsimp only
    | split
    | (refine Keeps.fst (by with_reducible assumption) ?_)
    | (refine Keeps.snd (by with_reducible assumption) ?_)
    | rfl
    | exact ⟨rfl, rfl⟩
    | exact ⟨rfl, rfl, rfl⟩
    | exact Memory.wf_clear (by assumption) _ _
    | exact Memory.wf_filter (by assumption) _
    | exact Memory.wf_writeBytes (by assumption) _ _
    | with_reducible apply Keeps.mk_all
    | assumption
    | simp_all [Run.ok])

theorem State.startRefresh_keeps {a s : State} (h : Keeps a s) {x1} : Keeps a (State.startRefresh s x1) := by
  unfold State.startRefresh
  iterate 24 all_goals (try first
    | with_reducible assumption
    | with_reducible apply State.modPart_keeps
    | with_reducible apply State.modColl_keeps
    | with_reducible apply State.hold_keeps
    | with_reducible apply State.voteShards_keeps
    | with_reducible apply State.refreshLocal_keeps
    | with_reducible apply State.imageWrite_keeps
    | with_reducible apply State.imageAdvance_keeps
    | (with_reducible apply foldl_keeps)
    | (with_reducible apply foldl_fst_keeps)
    | with_reducible apply Keeps.ite
    | with_reducible apply Keeps.ite_fst
    | with_reducible apply Keeps.ite_snd
    | intro _
    | dsimp only
    | split
    | (refine Keeps.fst (by with_reducible assumption) ?_)
    | (refine Keeps.snd (by with_reducible assumption) ?_)
    | rfl
    | exact ⟨rfl, rfl⟩
    | exact ⟨rfl, rfl, rfl⟩
    | exact Memory.wf_clear (by assumption) _ _
    | exact Memory.wf_filter (by assumption) _
    | exact Memory.wf_writeBytes (by assumption) _ _
    | with_reducible apply Keeps.mk_all
    | assumption
    | simp_all [Run.ok])

theorem State.startGather_keeps {a s : State} (h : Keeps a s) {x1} : Keeps a (State.startGather s x1) := by
  unfold State.startGather
  iterate 24 all_goals (try first
    | with_reducible assumption
    | with_reducible apply State.modColl_keeps
    | with_reducible apply State.unhold_keeps
    | with_reducible apply State.collPlace_keeps
    | with_reducible apply State.collStart_keeps
    | (with_reducible apply State.each_keeps; intro _ _ _)
    | (with_reducible apply foldl_keeps)
    | (with_reducible apply foldl_fst_keeps)
    | with_reducible apply Keeps.ite
    | with_reducible apply Keeps.ite_fst
    | with_reducible apply Keeps.ite_snd
    | intro _
    | dsimp only
    | split
    | (refine Keeps.fst (by with_reducible assumption) ?_)
    | (refine Keeps.snd (by with_reducible assumption) ?_)
    | rfl
    | exact ⟨rfl, rfl⟩
    | exact ⟨rfl, rfl, rfl⟩
    | exact Memory.wf_clear (by assumption) _ _
    | exact Memory.wf_filter (by assumption) _
    | exact Memory.wf_writeBytes (by assumption) _ _
    | with_reducible apply Keeps.mk_all
    | assumption
    | simp_all [Run.ok])

theorem State.keepCommitted_keeps {a s : State} (h : Keeps a s) {x1 x2} : Keeps a (State.keepCommitted s x1 x2) := by
  unfold State.keepCommitted
  iterate 24 all_goals (try first
    | with_reducible assumption
    | with_reducible apply State.saveMarked_keeps
    | with_reducible apply State.raise_keeps
    | with_reducible apply State.voteGen_keeps
    | (with_reducible apply foldl_keeps)
    | (with_reducible apply foldl_fst_keeps)
    | with_reducible apply Keeps.ite
    | with_reducible apply Keeps.ite_fst
    | with_reducible apply Keeps.ite_snd
    | intro _
    | dsimp only
    | split
    | (refine Keeps.fst (by with_reducible assumption) ?_)
    | (refine Keeps.snd (by with_reducible assumption) ?_)
    | rfl
    | exact ⟨rfl, rfl⟩
    | exact ⟨rfl, rfl, rfl⟩
    | exact Memory.wf_clear (by assumption) _ _
    | exact Memory.wf_filter (by assumption) _
    | exact Memory.wf_writeBytes (by assumption) _ _
    | with_reducible apply Keeps.mk_all
    | assumption
    | simp_all [Run.ok])

theorem State.adopt_keeps {a s : State} (h : Keeps a s) {x1 x2} : Keeps a (State.adopt s x1 x2) := by
  unfold State.adopt
  iterate 24 all_goals (try first
    | with_reducible assumption
    | with_reducible apply State.writeGen_keeps
    | with_reducible apply State.rederive_keeps
    | (with_reducible apply foldl_keeps)
    | (with_reducible apply foldl_fst_keeps)
    | with_reducible apply Keeps.ite
    | with_reducible apply Keeps.ite_fst
    | with_reducible apply Keeps.ite_snd
    | intro _
    | dsimp only
    | split
    | (refine Keeps.fst (by with_reducible assumption) ?_)
    | (refine Keeps.snd (by with_reducible assumption) ?_)
    | rfl
    | exact ⟨rfl, rfl⟩
    | exact ⟨rfl, rfl, rfl⟩
    | exact Memory.wf_clear (by assumption) _ _
    | exact Memory.wf_filter (by assumption) _
    | exact Memory.wf_writeBytes (by assumption) _ _
    | with_reducible apply Keeps.mk_all
    | assumption
    | simp_all [Run.ok])

theorem State.degrade_keeps {a s : State} (h : Keeps a s) {x1 x2 x3 x4} : Keeps a (State.degrade s x1 x2 x3 x4).1 := by
  unfold State.degrade
  iterate 24 all_goals (try first
    | with_reducible assumption
    | with_reducible apply State.modRun_keeps
    | with_reducible apply State.saveMarked_keeps
    | with_reducible apply State.raise_keeps
    | with_reducible apply State.adopt_keeps
    | (with_reducible apply foldl_keeps)
    | (with_reducible apply foldl_fst_keeps)
    | with_reducible apply Keeps.ite
    | with_reducible apply Keeps.ite_fst
    | with_reducible apply Keeps.ite_snd
    | intro _
    | dsimp only
    | split
    | (refine Keeps.fst (by with_reducible assumption) ?_)
    | (refine Keeps.snd (by with_reducible assumption) ?_)
    | rfl
    | exact ⟨rfl, rfl⟩
    | exact ⟨rfl, rfl, rfl⟩
    | exact Memory.wf_clear (by assumption) _ _
    | exact Memory.wf_filter (by assumption) _
    | exact Memory.wf_writeBytes (by assumption) _ _
    | with_reducible apply Keeps.mk_all
    | assumption
    | simp_all [Run.ok])

theorem State.degradeAll_keeps {a s : State} (h : Keeps a s) {x1 x2 x3 x4} : Keeps a (State.degradeAll s x1 x2 x3 x4) := by
  unfold State.degradeAll
  iterate 24 all_goals (try first
    | with_reducible assumption
    | with_reducible apply State.raise_keeps
    | with_reducible apply State.degrade_keeps
    | (with_reducible apply foldl_keeps)
    | (with_reducible apply foldl_fst_keeps)
    | with_reducible apply Keeps.ite
    | with_reducible apply Keeps.ite_fst
    | with_reducible apply Keeps.ite_snd
    | intro _
    | dsimp only
    | split
    | (refine Keeps.fst (by with_reducible assumption) ?_)
    | (refine Keeps.snd (by with_reducible assumption) ?_)
    | rfl
    | exact ⟨rfl, rfl⟩
    | exact ⟨rfl, rfl, rfl⟩
    | exact Memory.wf_clear (by assumption) _ _
    | exact Memory.wf_filter (by assumption) _
    | exact Memory.wf_writeBytes (by assumption) _ _
    | with_reducible apply Keeps.mk_all
    | assumption
    | simp_all [Run.ok])

theorem State.restoreLocal_keeps {a s : State} (h : Keeps a s) {x1 x2} : Keeps a (State.restoreLocal s x1 x2) := by
  unfold State.restoreLocal
  iterate 24 all_goals (try first
    | with_reducible assumption
    | with_reducible apply State.store_keeps
    | with_reducible apply State.adopt_keeps
    | with_reducible apply State.degradeAll_keeps
    | (with_reducible apply State.each_keeps; intro _ _ _)
    | (with_reducible apply foldl_keeps)
    | (with_reducible apply foldl_fst_keeps)
    | with_reducible apply Keeps.ite
    | with_reducible apply Keeps.ite_fst
    | with_reducible apply Keeps.ite_snd
    | intro _
    | dsimp only
    | split
    | (refine Keeps.fst (by with_reducible assumption) ?_)
    | (refine Keeps.snd (by with_reducible assumption) ?_)
    | rfl
    | exact ⟨rfl, rfl⟩
    | exact ⟨rfl, rfl, rfl⟩
    | exact Memory.wf_clear (by assumption) _ _
    | exact Memory.wf_filter (by assumption) _
    | exact Memory.wf_writeBytes (by assumption) _ _
    | with_reducible apply Keeps.mk_all
    | assumption
    | simp_all [Run.ok])

theorem State.askRestore_keeps {a : State} : ∀ {n p : Nat} {s : State}, Keeps a s → Keeps a (State.askRestore n p s)
  | 0, _, _, h => h
  | _ + 1, _, _, h => by
    unfold State.askRestore
    iterate 24 all_goals (try first
    | with_reducible assumption
    | with_reducible apply State.askRestore_keeps
    | with_reducible apply State.remoteRead_keeps
    | with_reducible apply State.modPart_keeps
    | with_reducible apply Keeps.ite
    | with_reducible apply Keeps.ite_fst
    | with_reducible apply Keeps.ite_snd
    | intro _
    | dsimp only
    | split
    | (refine Keeps.fst (by with_reducible assumption) ?_)
    | (refine Keeps.snd (by with_reducible assumption) ?_)
    | rfl
    | exact ⟨rfl, rfl⟩
    | exact ⟨rfl, rfl, rfl⟩
    | exact Memory.wf_clear (by assumption) _ _
    | exact Memory.wf_filter (by assumption) _
    | exact Memory.wf_writeBytes (by assumption) _ _
    | with_reducible apply Keeps.mk_all
    | assumption
    | simp_all [Run.ok])

theorem State.redoRestore_keeps {a s : State} (h : Keeps a s) {x1} : Keeps a (State.redoRestore s x1) := by
  unfold State.redoRestore
  iterate 24 all_goals (try first
    | with_reducible assumption
    | with_reducible apply State.askRestore_keeps
    | (with_reducible apply foldl_keeps)
    | (with_reducible apply foldl_fst_keeps)
    | with_reducible apply Keeps.ite
    | with_reducible apply Keeps.ite_fst
    | with_reducible apply Keeps.ite_snd
    | intro _
    | dsimp only
    | split
    | (refine Keeps.fst (by with_reducible assumption) ?_)
    | (refine Keeps.snd (by with_reducible assumption) ?_)
    | rfl
    | exact ⟨rfl, rfl⟩
    | exact ⟨rfl, rfl, rfl⟩
    | exact Memory.wf_clear (by assumption) _ _
    | exact Memory.wf_filter (by assumption) _
    | exact Memory.wf_writeBytes (by assumption) _ _
    | with_reducible apply Keeps.mk_all
    | assumption
    | simp_all [Run.ok])

theorem State.restoreRemote_keeps {a s : State} (h : Keeps a s) {x1 x2 x3 x4} : Keeps a (State.restoreRemote s x1 x2 x3 x4) := by
  unfold State.restoreRemote
  iterate 24 all_goals (try first
    | with_reducible assumption
    | with_reducible apply State.modPart_keeps
    | with_reducible apply State.askRestore_keeps
    | (with_reducible apply foldl_keeps)
    | (with_reducible apply foldl_fst_keeps)
    | with_reducible apply Keeps.ite
    | with_reducible apply Keeps.ite_fst
    | with_reducible apply Keeps.ite_snd
    | intro _
    | dsimp only
    | split
    | (refine Keeps.fst (by with_reducible assumption) ?_)
    | (refine Keeps.snd (by with_reducible assumption) ?_)
    | rfl
    | exact ⟨rfl, rfl⟩
    | exact ⟨rfl, rfl, rfl⟩
    | exact Memory.wf_clear (by assumption) _ _
    | exact Memory.wf_filter (by assumption) _
    | exact Memory.wf_writeBytes (by assumption) _ _
    | with_reducible apply Keeps.mk_all
    | assumption
    | simp_all [Run.ok])

theorem State.askPeer_keeps {a s : State} (h : Keeps a s) {x1 x2 x3} : Keeps a (State.askPeer s x1 x2 x3) := by
  unfold State.askPeer
  iterate 24 all_goals (try first
    | with_reducible assumption
    | with_reducible apply State.modPart_keeps
    | with_reducible apply State.askRestore_keeps
    | (with_reducible apply foldl_keeps)
    | (with_reducible apply foldl_fst_keeps)
    | with_reducible apply Keeps.ite
    | with_reducible apply Keeps.ite_fst
    | with_reducible apply Keeps.ite_snd
    | intro _
    | dsimp only
    | split
    | (refine Keeps.fst (by with_reducible assumption) ?_)
    | (refine Keeps.snd (by with_reducible assumption) ?_)
    | rfl
    | exact ⟨rfl, rfl⟩
    | exact ⟨rfl, rfl, rfl⟩
    | exact Memory.wf_clear (by assumption) _ _
    | exact Memory.wf_filter (by assumption) _
    | exact Memory.wf_writeBytes (by assumption) _ _
    | with_reducible apply Keeps.mk_all
    | assumption
    | simp_all [Run.ok])

theorem State.finishRestore_keeps {a s : State} (h : Keeps a s) {x1} : Keeps a (State.finishRestore s x1) := by
  unfold State.finishRestore
  iterate 24 all_goals (try first
    | with_reducible assumption
    | with_reducible apply State.modPart_keeps
    | with_reducible apply State.modPyro_keeps
    | with_reducible apply State.writeGen_keeps
    | with_reducible apply State.rederive_keeps
    | with_reducible apply State.adopt_keeps
    | with_reducible apply State.degradeAll_keeps
    | with_reducible apply State.askPeer_keeps
    | (with_reducible apply State.each_keeps; intro _ _ _)
    | (with_reducible apply foldl_keeps)
    | (with_reducible apply foldl_fst_keeps)
    | with_reducible apply Keeps.ite
    | with_reducible apply Keeps.ite_fst
    | with_reducible apply Keeps.ite_snd
    | intro _
    | dsimp only
    | split
    | (refine Keeps.fst (by with_reducible assumption) ?_)
    | (refine Keeps.snd (by with_reducible assumption) ?_)
    | rfl
    | exact ⟨rfl, rfl⟩
    | exact ⟨rfl, rfl, rfl⟩
    | exact Memory.wf_clear (by assumption) _ _
    | exact Memory.wf_filter (by assumption) _
    | exact Memory.wf_writeBytes (by assumption) _ _
    | with_reducible apply Keeps.mk_all
    | assumption
    | simp_all [Run.ok])

theorem State.gatherNext_keeps {a s : State} (h : Keeps a s) {x1} : Keeps a (State.gatherNext s x1) := by
  unfold State.gatherNext
  iterate 24 all_goals (try first
    | with_reducible assumption
    | with_reducible apply State.startGather_keeps
    | (with_reducible apply foldl_keeps)
    | (with_reducible apply foldl_fst_keeps)
    | with_reducible apply Keeps.ite
    | with_reducible apply Keeps.ite_fst
    | with_reducible apply Keeps.ite_snd
    | intro _
    | dsimp only
    | split
    | (refine Keeps.fst (by with_reducible assumption) ?_)
    | (refine Keeps.snd (by with_reducible assumption) ?_)
    | rfl
    | exact ⟨rfl, rfl⟩
    | exact ⟨rfl, rfl, rfl⟩
    | exact Memory.wf_clear (by assumption) _ _
    | exact Memory.wf_filter (by assumption) _
    | exact Memory.wf_writeBytes (by assumption) _ _
    | with_reducible apply Keeps.mk_all
    | assumption
    | simp_all [Run.ok])

theorem State.refreshNext_keeps {a s : State} (h : Keeps a s) {x1} : Keeps a (State.refreshNext s x1) := by
  unfold State.refreshNext
  iterate 24 all_goals (try first
    | with_reducible assumption
    | with_reducible apply State.modPart_keeps
    | with_reducible apply State.hold_keeps
    | with_reducible apply State.startRefresh_keeps
    | (with_reducible apply foldl_keeps)
    | (with_reducible apply foldl_fst_keeps)
    | with_reducible apply Keeps.ite
    | with_reducible apply Keeps.ite_fst
    | with_reducible apply Keeps.ite_snd
    | intro _
    | dsimp only
    | split
    | (refine Keeps.fst (by with_reducible assumption) ?_)
    | (refine Keeps.snd (by with_reducible assumption) ?_)
    | rfl
    | exact ⟨rfl, rfl⟩
    | exact ⟨rfl, rfl, rfl⟩
    | exact Memory.wf_clear (by assumption) _ _
    | exact Memory.wf_filter (by assumption) _
    | exact Memory.wf_writeBytes (by assumption) _ _
    | with_reducible apply Keeps.mk_all
    | assumption
    | simp_all [Run.ok])

theorem State.refreshDue_keeps {a s : State} (h : Keeps a s) {x1} : Keeps a (State.refreshDue s x1) := by
  unfold State.refreshDue
  iterate 24 all_goals (try first
    | with_reducible assumption
    | with_reducible apply State.startRefresh_keeps
    | (with_reducible apply foldl_keeps)
    | (with_reducible apply foldl_fst_keeps)
    | with_reducible apply Keeps.ite
    | with_reducible apply Keeps.ite_fst
    | with_reducible apply Keeps.ite_snd
    | intro _
    | dsimp only
    | split
    | (refine Keeps.fst (by with_reducible assumption) ?_)
    | (refine Keeps.snd (by with_reducible assumption) ?_)
    | rfl
    | exact ⟨rfl, rfl⟩
    | exact ⟨rfl, rfl, rfl⟩
    | exact Memory.wf_clear (by assumption) _ _
    | exact Memory.wf_filter (by assumption) _
    | exact Memory.wf_writeBytes (by assumption) _ _
    | with_reducible apply Keeps.mk_all
    | assumption
    | simp_all [Run.ok])

theorem State.startMoves_keeps {a s : State} (h : Keeps a s) {x1 x2} : Keeps a (State.startMoves s x1 x2) := by
  unfold State.startMoves
  iterate 24 all_goals (try first
    | with_reducible assumption
    | with_reducible apply State.modPart_keeps
    | with_reducible apply State.askRestore_keeps
    | with_reducible apply State.finishRestore_keeps
    | (with_reducible apply foldl_keeps)
    | (with_reducible apply foldl_fst_keeps)
    | with_reducible apply Keeps.ite
    | with_reducible apply Keeps.ite_fst
    | with_reducible apply Keeps.ite_snd
    | intro _
    | dsimp only
    | split
    | (refine Keeps.fst (by with_reducible assumption) ?_)
    | (refine Keeps.snd (by with_reducible assumption) ?_)
    | rfl
    | exact ⟨rfl, rfl⟩
    | exact ⟨rfl, rfl, rfl⟩
    | exact Memory.wf_clear (by assumption) _ _
    | exact Memory.wf_filter (by assumption) _
    | exact Memory.wf_writeBytes (by assumption) _ _
    | with_reducible apply Keeps.mk_all
    | assumption
    | simp_all [Run.ok])

theorem State.restoreDegraded_keeps {a s : State} (h : Keeps a s) {x1 x2 x3} : Keeps a (State.restoreDegraded s x1 x2 x3) := by
  unfold State.restoreDegraded
  iterate 24 all_goals (try first
    | with_reducible assumption
    | with_reducible apply State.modPart_keeps
    | with_reducible apply State.modRun_keeps
    | with_reducible apply State.askRestore_keeps
    | with_reducible apply State.finishRestore_keeps
    | (with_reducible apply foldl_keeps)
    | (with_reducible apply foldl_fst_keeps)
    | with_reducible apply Keeps.ite
    | with_reducible apply Keeps.ite_fst
    | with_reducible apply Keeps.ite_snd
    | intro _
    | dsimp only
    | split
    | (refine Keeps.fst (by with_reducible assumption) ?_)
    | (refine Keeps.snd (by with_reducible assumption) ?_)
    | rfl
    | exact ⟨rfl, rfl⟩
    | exact ⟨rfl, rfl, rfl⟩
    | exact Memory.wf_clear (by assumption) _ _
    | exact Memory.wf_filter (by assumption) _
    | exact Memory.wf_writeBytes (by assumption) _ _
    | with_reducible apply Keeps.mk_all
    | assumption
    | simp_all [Run.ok])

theorem State.landRestore_keeps {a s : State} (h : Keeps a s) {x1 x2 x3 x4} : Keeps a (State.landRestore s x1 x2 x3 x4) := by
  unfold State.landRestore
  iterate 24 all_goals (try first
    | with_reducible assumption
    | with_reducible apply State.modPart_keeps
    | with_reducible apply State.store_keeps
    | with_reducible apply State.saveMarked_keeps
    | with_reducible apply State.askRestore_keeps
    | with_reducible apply State.finishRestore_keeps
    | with_reducible apply State.gatherNext_keeps
    | with_reducible apply State.refreshDue_keeps
    | with_reducible apply State.restoreDegraded_keeps
    | (with_reducible apply foldl_keeps)
    | (with_reducible apply foldl_fst_keeps)
    | with_reducible apply Keeps.ite
    | with_reducible apply Keeps.ite_fst
    | with_reducible apply Keeps.ite_snd
    | intro _
    | dsimp only
    | split
    | (refine Keeps.fst (by with_reducible assumption) ?_)
    | (refine Keeps.snd (by with_reducible assumption) ?_)
    | rfl
    | exact ⟨rfl, rfl⟩
    | exact ⟨rfl, rfl, rfl⟩
    | exact Memory.wf_clear (by assumption) _ _
    | exact Memory.wf_filter (by assumption) _
    | exact Memory.wf_writeBytes (by assumption) _ _
    | with_reducible apply Keeps.mk_all
    | assumption
    | simp_all [Run.ok])

theorem State.restoreRound_keeps {a s : State} (h : Keeps a s) {x1} : Keeps a (State.restoreRound s x1) := by
  unfold State.restoreRound
  iterate 24 all_goals (try first
    | with_reducible assumption
    | with_reducible apply State.modPart_keeps
    | with_reducible apply State.modPyro_keeps
    | with_reducible apply State.keepCommitted_keeps
    | with_reducible apply State.degradeAll_keeps
    | with_reducible apply State.restoreLocal_keeps
    | with_reducible apply State.restoreRemote_keeps
    | (with_reducible apply State.each_keeps; intro _ _ _)
    | (with_reducible apply foldl_keeps)
    | (with_reducible apply foldl_fst_keeps)
    | with_reducible apply Keeps.ite
    | with_reducible apply Keeps.ite_fst
    | with_reducible apply Keeps.ite_snd
    | intro _
    | dsimp only
    | split
    | (refine Keeps.fst (by with_reducible assumption) ?_)
    | (refine Keeps.snd (by with_reducible assumption) ?_)
    | rfl
    | exact ⟨rfl, rfl⟩
    | exact ⟨rfl, rfl, rfl⟩
    | exact Memory.wf_clear (by assumption) _ _
    | exact Memory.wf_filter (by assumption) _
    | exact Memory.wf_writeBytes (by assumption) _ _
    | with_reducible apply Keeps.mk_all
    | assumption
    | simp_all [Run.ok])

theorem State.mendFlips_keeps {a s : State} (h : Keeps a s) {x1} : Keeps a (State.mendFlips s x1) := by
  unfold State.mendFlips
  iterate 24 all_goals (try first
    | with_reducible assumption
    | with_reducible apply State.modPart_keeps
    | with_reducible apply State.lostState_keeps
    | with_reducible apply State.voteGen_keeps
    | with_reducible apply State.rederive_keeps
    | (with_reducible apply State.each_keeps; intro _ _ _)
    | (with_reducible apply foldl_keeps)
    | (with_reducible apply foldl_fst_keeps)
    | with_reducible apply Keeps.ite
    | with_reducible apply Keeps.ite_fst
    | with_reducible apply Keeps.ite_snd
    | intro _
    | dsimp only
    | split
    | (refine Keeps.fst (by with_reducible assumption) ?_)
    | (refine Keeps.snd (by with_reducible assumption) ?_)
    | rfl
    | exact ⟨rfl, rfl⟩
    | exact ⟨rfl, rfl, rfl⟩
    | exact Memory.wf_clear (by assumption) _ _
    | exact Memory.wf_filter (by assumption) _
    | exact Memory.wf_writeBytes (by assumption) _ _
    | with_reducible apply Keeps.mk_all
    | assumption
    | simp_all [Run.ok])

theorem State.localDiscard_keeps {a s : State} (h : Keeps a s) {x1} : Keeps a (State.localDiscard s x1) := by
  unfold State.localDiscard
  iterate 24 all_goals (try first
    | with_reducible assumption
    | with_reducible apply State.modPart_keeps
    | with_reducible apply State.modRun_keeps
    | with_reducible apply State.modArena_keeps
    | with_reducible apply State.modPyro_keeps
    | with_reducible apply State.modColl_keeps
    | with_reducible apply State.modFab_keeps
    | with_reducible apply State.modHearth_keeps
    | with_reducible apply State.modTemper_keeps
    | with_reducible apply State.dropRequests_keeps
    | with_reducible apply State.tongsDiscard_keeps
    | with_reducible apply State.updateDiscard_keeps
    | (with_reducible apply State.each_keeps; intro _ _ _)
    | (with_reducible apply foldl_keeps)
    | (with_reducible apply foldl_fst_keeps)
    | with_reducible apply Keeps.ite
    | with_reducible apply Keeps.ite_fst
    | with_reducible apply Keeps.ite_snd
    | intro _
    | dsimp only
    | split
    | (refine Keeps.fst (by with_reducible assumption) ?_)
    | (refine Keeps.snd (by with_reducible assumption) ?_)
    | rfl
    | exact ⟨rfl, rfl⟩
    | exact ⟨rfl, rfl, rfl⟩
    | exact Memory.wf_clear (by assumption) _ _
    | exact Memory.wf_filter (by assumption) _
    | exact Memory.wf_writeBytes (by assumption) _ _
    | with_reducible apply Keeps.mk_all
    | assumption
    | simp_all [Run.ok])

theorem State.noFaults_keeps {a s : State} (h : Keeps a s) {x1} : Keeps a (State.noFaults s x1) := by
  unfold State.noFaults
  iterate 24 all_goals (try first
    | with_reducible assumption
    | with_reducible apply State.modHearth_keeps
    | (with_reducible apply State.each_keeps; intro _ _ _)
    | (with_reducible apply foldl_keeps)
    | (with_reducible apply foldl_fst_keeps)
    | with_reducible apply Keeps.ite
    | with_reducible apply Keeps.ite_fst
    | with_reducible apply Keeps.ite_snd
    | intro _
    | dsimp only
    | split
    | (refine Keeps.fst (by with_reducible assumption) ?_)
    | (refine Keeps.snd (by with_reducible assumption) ?_)
    | rfl
    | exact ⟨rfl, rfl⟩
    | exact ⟨rfl, rfl, rfl⟩
    | exact Memory.wf_clear (by assumption) _ _
    | exact Memory.wf_filter (by assumption) _
    | exact Memory.wf_writeBytes (by assumption) _ _
    | with_reducible apply Keeps.mk_all
    | assumption
    | simp_all [Run.ok])

theorem State.tellLoss_keeps {a s : State} (h : Keeps a s) {x1 x2} : Keeps a (State.tellLoss s x1 x2) := by
  unfold State.tellLoss
  iterate 24 all_goals (try first
    | with_reducible assumption
    | with_reducible apply State.control_keeps
    | (with_reducible apply foldl_keeps)
    | (with_reducible apply foldl_fst_keeps)
    | with_reducible apply Keeps.ite
    | with_reducible apply Keeps.ite_fst
    | with_reducible apply Keeps.ite_snd
    | intro _
    | dsimp only
    | split
    | (refine Keeps.fst (by with_reducible assumption) ?_)
    | (refine Keeps.snd (by with_reducible assumption) ?_)
    | rfl
    | exact ⟨rfl, rfl⟩
    | exact ⟨rfl, rfl, rfl⟩
    | exact Memory.wf_clear (by assumption) _ _
    | exact Memory.wf_filter (by assumption) _
    | exact Memory.wf_writeBytes (by assumption) _ _
    | with_reducible apply Keeps.mk_all
    | assumption
    | simp_all [Run.ok])

theorem State.spareRollback_keeps {a s : State} (h : Keeps a s) {x1} : Keeps a (State.spareRollback s x1) := by
  unfold State.spareRollback
  iterate 24 all_goals (try first
    | with_reducible assumption
    | with_reducible apply State.modFab_keeps
    | (with_reducible apply foldl_keeps)
    | (with_reducible apply foldl_fst_keeps)
    | with_reducible apply Keeps.ite
    | with_reducible apply Keeps.ite_fst
    | with_reducible apply Keeps.ite_snd
    | intro _
    | dsimp only
    | split
    | (refine Keeps.fst (by with_reducible assumption) ?_)
    | (refine Keeps.snd (by with_reducible assumption) ?_)
    | rfl
    | exact ⟨rfl, rfl⟩
    | exact ⟨rfl, rfl, rfl⟩
    | exact Memory.wf_clear (by assumption) _ _
    | exact Memory.wf_filter (by assumption) _
    | exact Memory.wf_writeBytes (by assumption) _ _
    | with_reducible apply Keeps.mk_all
    | assumption
    | simp_all [Run.ok])

theorem State.recount_keeps {a s : State} (h : Keeps a s) {x1} : Keeps a (State.recount s x1) := by
  unfold State.recount
  iterate 24 all_goals (try first
    | with_reducible assumption
    | with_reducible apply State.modOuter_keeps
    | (with_reducible apply foldl_keeps)
    | (with_reducible apply foldl_fst_keeps)
    | with_reducible apply Keeps.ite
    | with_reducible apply Keeps.ite_fst
    | with_reducible apply Keeps.ite_snd
    | intro _
    | dsimp only
    | split
    | (refine Keeps.fst (by with_reducible assumption) ?_)
    | (refine Keeps.snd (by with_reducible assumption) ?_)
    | rfl
    | exact ⟨rfl, rfl⟩
    | exact ⟨rfl, rfl, rfl⟩
    | exact Memory.wf_clear (by assumption) _ _
    | exact Memory.wf_filter (by assumption) _
    | exact Memory.wf_writeBytes (by assumption) _ _
    | with_reducible apply Keeps.mk_all
    | assumption
    | simp_all [Run.ok])

theorem State.doRollback_keeps {a s : State} (h : Keeps a s) {x1 x2} : Keeps a (State.doRollback s x1 x2) := by
  unfold State.doRollback
  iterate 24 all_goals (try first
    | with_reducible assumption
    | with_reducible apply State.modPart_keeps
    | with_reducible apply State.modRun_keeps
    | with_reducible apply State.modPyro_keeps
    | with_reducible apply State.modColl_keeps
    | with_reducible apply State.modFab_keeps
    | with_reducible apply State.modOuter_keeps
    | with_reducible apply State.roundCount_keeps
    | with_reducible apply State.pump_keeps
    | with_reducible apply State.tongsClear_keeps
    | with_reducible apply State.stepRecEnd_keeps
    | with_reducible apply State.discardMbx_keeps
    | with_reducible apply State.lose_keeps
    | with_reducible apply State.redoRestore_keeps
    | with_reducible apply State.restoreRound_keeps
    | with_reducible apply State.localDiscard_keeps
    | with_reducible apply State.noFaults_keeps
    | with_reducible apply State.tellLoss_keeps
    | with_reducible apply State.spareRollback_keeps
    | with_reducible apply State.recount_keeps
    | (with_reducible apply State.each_keeps; intro _ _ _)
    | (with_reducible apply foldl_keeps)
    | (with_reducible apply foldl_fst_keeps)
    | with_reducible apply Keeps.ite
    | with_reducible apply Keeps.ite_fst
    | with_reducible apply Keeps.ite_snd
    | intro _
    | dsimp only
    | split
    | (refine Keeps.fst (by with_reducible assumption) ?_)
    | (refine Keeps.snd (by with_reducible assumption) ?_)
    | rfl
    | exact ⟨rfl, rfl⟩
    | exact ⟨rfl, rfl, rfl⟩
    | exact Memory.wf_clear (by assumption) _ _
    | exact Memory.wf_filter (by assumption) _
    | exact Memory.wf_writeBytes (by assumption) _ _
    | with_reducible apply Keeps.mk_all
    | assumption
    | simp_all [Run.ok])

theorem State.fence_keeps {a s : State} (h : Keeps a s) {x1 x2} : Keeps a (State.fence s x1 x2) := by
  unfold State.fence
  iterate 24 all_goals (try first
    | with_reducible assumption
    | with_reducible apply State.emitHall_keeps
    | (with_reducible apply State.each_keeps; intro _ _ _)
    | (with_reducible apply foldl_keeps)
    | (with_reducible apply foldl_fst_keeps)
    | with_reducible apply Keeps.ite
    | with_reducible apply Keeps.ite_fst
    | with_reducible apply Keeps.ite_snd
    | intro _
    | dsimp only
    | split
    | (refine Keeps.fst (by with_reducible assumption) ?_)
    | (refine Keeps.snd (by with_reducible assumption) ?_)
    | rfl
    | exact ⟨rfl, rfl⟩
    | exact ⟨rfl, rfl, rfl⟩
    | exact Memory.wf_clear (by assumption) _ _
    | exact Memory.wf_filter (by assumption) _
    | exact Memory.wf_writeBytes (by assumption) _ _
    | with_reducible apply Keeps.mk_all
    | assumption
    | simp_all [Run.ok])

theorem State.updateRoutes_keeps {a s : State} (h : Keeps a s) {x1 x2 x3 x4 x5 x6} : Keeps a (State.updateRoutes s x1 x2 x3 x4 x5 x6) := by
  unfold State.updateRoutes
  iterate 24 all_goals (try first
    | with_reducible assumption
    | with_reducible apply State.modFab_keeps
    | with_reducible apply State.control_keeps
    | (with_reducible apply State.each_keeps; intro _ _ _)
    | (with_reducible apply foldl_keeps)
    | (with_reducible apply foldl_fst_keeps)
    | with_reducible apply Keeps.ite
    | with_reducible apply Keeps.ite_fst
    | with_reducible apply Keeps.ite_snd
    | intro _
    | dsimp only
    | split
    | (refine Keeps.fst (by with_reducible assumption) ?_)
    | (refine Keeps.snd (by with_reducible assumption) ?_)
    | rfl
    | exact ⟨rfl, rfl⟩
    | exact ⟨rfl, rfl, rfl⟩
    | exact Memory.wf_clear (by assumption) _ _
    | exact Memory.wf_filter (by assumption) _
    | exact Memory.wf_writeBytes (by assumption) _ _
    | with_reducible apply Keeps.mk_all
    | assumption
    | simp_all [Run.ok])

theorem State.takeOver_keeps {a s : State} (h : Keeps a s) {x1} : Keeps a (State.takeOver s x1) := by
  unfold State.takeOver
  iterate 24 all_goals (try first
    | with_reducible assumption
    | with_reducible apply State.updateRoutes_keeps
    | (with_reducible apply State.each_keeps; intro _ _ _)
    | (with_reducible apply foldl_keeps)
    | (with_reducible apply foldl_fst_keeps)
    | with_reducible apply Keeps.ite
    | with_reducible apply Keeps.ite_fst
    | with_reducible apply Keeps.ite_snd
    | intro _
    | dsimp only
    | split
    | (refine Keeps.fst (by with_reducible assumption) ?_)
    | (refine Keeps.snd (by with_reducible assumption) ?_)
    | rfl
    | exact ⟨rfl, rfl⟩
    | exact ⟨rfl, rfl, rfl⟩
    | exact Memory.wf_clear (by assumption) _ _
    | exact Memory.wf_filter (by assumption) _
    | exact Memory.wf_writeBytes (by assumption) _ _
    | with_reducible apply Keeps.mk_all
    | assumption
    | simp_all [Run.ok])

theorem State.coordinatorLoss_keeps {a s : State} (h : Keeps a s) {x1 x2} : Keeps a (State.coordinatorLoss s x1 x2) := by
  unfold State.coordinatorLoss
  iterate 24 all_goals (try first
    | with_reducible assumption
    | with_reducible apply State.modFab_keeps
    | with_reducible apply State.store_keeps
    | with_reducible apply State.controlAll_keeps
    | with_reducible apply State.lose_keeps
    | with_reducible apply State.doRollback_keeps
    | with_reducible apply State.fence_keeps
    | with_reducible apply State.takeOver_keeps
    | (with_reducible apply State.each_keeps; intro _ _ _)
    | (with_reducible apply foldl_keeps)
    | (with_reducible apply foldl_fst_keeps)
    | with_reducible apply Keeps.ite
    | with_reducible apply Keeps.ite_fst
    | with_reducible apply Keeps.ite_snd
    | intro _
    | dsimp only
    | split
    | (refine Keeps.fst (by with_reducible assumption) ?_)
    | (refine Keeps.snd (by with_reducible assumption) ?_)
    | rfl
    | exact ⟨rfl, rfl⟩
    | exact ⟨rfl, rfl, rfl⟩
    | exact Memory.wf_clear (by assumption) _ _
    | exact Memory.wf_filter (by assumption) _
    | exact Memory.wf_writeBytes (by assumption) _ _
    | with_reducible apply Keeps.mk_all
    | assumption
    | simp_all [Run.ok])

theorem State.declareLost_keeps {a s : State} (h : Keeps a s) {x1 x2} : Keeps a (State.declareLost s x1 x2) := by
  unfold State.declareLost
  iterate 24 all_goals (try first
    | with_reducible assumption
    | with_reducible apply State.raise_keeps
    | with_reducible apply State.lose_keeps
    | with_reducible apply State.tellLoss_keeps
    | with_reducible apply State.coordinatorLoss_keeps
    | (with_reducible apply foldl_keeps)
    | (with_reducible apply foldl_fst_keeps)
    | with_reducible apply Keeps.ite
    | with_reducible apply Keeps.ite_fst
    | with_reducible apply Keeps.ite_snd
    | intro _
    | dsimp only
    | split
    | (refine Keeps.fst (by with_reducible assumption) ?_)
    | (refine Keeps.snd (by with_reducible assumption) ?_)
    | rfl
    | exact ⟨rfl, rfl⟩
    | exact ⟨rfl, rfl, rfl⟩
    | exact Memory.wf_clear (by assumption) _ _
    | exact Memory.wf_filter (by assumption) _
    | exact Memory.wf_writeBytes (by assumption) _ _
    | with_reducible apply Keeps.mk_all
    | assumption
    | simp_all [Run.ok])

theorem State.abortLost_keeps {a s : State} (h : Keeps a s) {x1 x2} : Keeps a (State.abortLost s x1 x2) := by
  unfold State.abortLost
  iterate 24 all_goals (try first
    | with_reducible assumption
    | with_reducible apply State.control_keeps
    | with_reducible apply State.declareLost_keeps
    | (with_reducible apply foldl_keeps)
    | (with_reducible apply foldl_fst_keeps)
    | with_reducible apply Keeps.ite
    | with_reducible apply Keeps.ite_fst
    | with_reducible apply Keeps.ite_snd
    | intro _
    | dsimp only
    | split
    | (refine Keeps.fst (by with_reducible assumption) ?_)
    | (refine Keeps.snd (by with_reducible assumption) ?_)
    | rfl
    | exact ⟨rfl, rfl⟩
    | exact ⟨rfl, rfl, rfl⟩
    | exact Memory.wf_clear (by assumption) _ _
    | exact Memory.wf_filter (by assumption) _
    | exact Memory.wf_writeBytes (by assumption) _ _
    | with_reducible apply Keeps.mk_all
    | assumption
    | simp_all [Run.ok])

theorem State.abortClose_keeps {a s : State} (h : Keeps a s) {x1 x2 x3 x4} : Keeps a (State.abortClose s x1 x2 x3 x4) := by
  unfold State.abortClose
  iterate 24 all_goals (try first
    | with_reducible assumption
    | with_reducible apply State.modColl_keeps
    | with_reducible apply State.rootClose_keeps
    | (with_reducible apply foldl_keeps)
    | (with_reducible apply foldl_fst_keeps)
    | with_reducible apply Keeps.ite
    | with_reducible apply Keeps.ite_fst
    | with_reducible apply Keeps.ite_snd
    | intro _
    | dsimp only
    | split
    | (refine Keeps.fst (by with_reducible assumption) ?_)
    | (refine Keeps.snd (by with_reducible assumption) ?_)
    | rfl
    | exact ⟨rfl, rfl⟩
    | exact ⟨rfl, rfl, rfl⟩
    | exact Memory.wf_clear (by assumption) _ _
    | exact Memory.wf_filter (by assumption) _
    | exact Memory.wf_writeBytes (by assumption) _ _
    | with_reducible apply Keeps.mk_all
    | assumption
    | simp_all [Run.ok])

theorem State.rootAbort_keeps {a s : State} (h : Keeps a s) {x1 x2 x3 x4} : Keeps a (State.rootAbort s x1 x2 x3 x4) := by
  unfold State.rootAbort
  iterate 24 all_goals (try first
    | with_reducible assumption
    | with_reducible apply State.modColl_keeps
    | with_reducible apply State.abortLost_keeps
    | with_reducible apply State.abortClose_keeps
    | (with_reducible apply foldl_keeps)
    | (with_reducible apply foldl_fst_keeps)
    | with_reducible apply Keeps.ite
    | with_reducible apply Keeps.ite_fst
    | with_reducible apply Keeps.ite_snd
    | intro _
    | dsimp only
    | split
    | (refine Keeps.fst (by with_reducible assumption) ?_)
    | (refine Keeps.snd (by with_reducible assumption) ?_)
    | rfl
    | exact ⟨rfl, rfl⟩
    | exact ⟨rfl, rfl, rfl⟩
    | exact Memory.wf_clear (by assumption) _ _
    | exact Memory.wf_filter (by assumption) _
    | exact Memory.wf_writeBytes (by assumption) _ _
    | with_reducible apply Keeps.mk_all
    | assumption
    | simp_all [Run.ok])

theorem State.abortsDue_keeps {a s : State} (h : Keeps a s) {x1} : Keeps a (State.abortsDue s x1) := by
  unfold State.abortsDue
  iterate 24 all_goals (try first
    | with_reducible assumption
    | with_reducible apply State.modColl_keeps
    | with_reducible apply State.abortLost_keeps
    | with_reducible apply State.abortClose_keeps
    | (with_reducible apply State.each_keeps; intro _ _ _)
    | (with_reducible apply foldl_keeps)
    | (with_reducible apply foldl_fst_keeps)
    | with_reducible apply Keeps.ite
    | with_reducible apply Keeps.ite_fst
    | with_reducible apply Keeps.ite_snd
    | intro _
    | dsimp only
    | split
    | (refine Keeps.fst (by with_reducible assumption) ?_)
    | (refine Keeps.snd (by with_reducible assumption) ?_)
    | rfl
    | exact ⟨rfl, rfl⟩
    | exact ⟨rfl, rfl, rfl⟩
    | exact Memory.wf_clear (by assumption) _ _
    | exact Memory.wf_filter (by assumption) _
    | exact Memory.wf_writeBytes (by assumption) _ _
    | with_reducible apply Keeps.mk_all
    | assumption
    | simp_all [Run.ok])

theorem State.sendAbort_keeps {a s : State} (h : Keeps a s) {x1} : Keeps a (State.sendAbort s x1) := by
  unfold State.sendAbort
  iterate 24 all_goals (try first
    | with_reducible assumption
    | with_reducible apply State.sendSeg_keeps
    | with_reducible apply State.rootAbort_keeps
    | (with_reducible apply foldl_keeps)
    | (with_reducible apply foldl_fst_keeps)
    | with_reducible apply Keeps.ite
    | with_reducible apply Keeps.ite_fst
    | with_reducible apply Keeps.ite_snd
    | intro _
    | dsimp only
    | split
    | (refine Keeps.fst (by with_reducible assumption) ?_)
    | (refine Keeps.snd (by with_reducible assumption) ?_)
    | rfl
    | exact ⟨rfl, rfl⟩
    | exact ⟨rfl, rfl, rfl⟩
    | exact Memory.wf_clear (by assumption) _ _
    | exact Memory.wf_filter (by assumption) _
    | exact Memory.wf_writeBytes (by assumption) _ _
    | with_reducible apply Keeps.mk_all
    | assumption
    | simp_all [Run.ok])

theorem State.beginDiscard_keeps {a s : State} (h : Keeps a s) {x1 x2} : Keeps a (State.beginDiscard s x1 x2) := by
  unfold State.beginDiscard
  iterate 24 all_goals (try first
    | with_reducible assumption
    | with_reducible apply State.modPart_keeps
    | with_reducible apply State.discardMbx_keeps
    | with_reducible apply State.localDiscard_keeps
    | with_reducible apply State.sendAbort_keeps
    | (with_reducible apply foldl_keeps)
    | (with_reducible apply foldl_fst_keeps)
    | with_reducible apply Keeps.ite
    | with_reducible apply Keeps.ite_fst
    | with_reducible apply Keeps.ite_snd
    | intro _
    | dsimp only
    | split
    | (refine Keeps.fst (by with_reducible assumption) ?_)
    | (refine Keeps.snd (by with_reducible assumption) ?_)
    | rfl
    | exact ⟨rfl, rfl⟩
    | exact ⟨rfl, rfl, rfl⟩
    | exact Memory.wf_clear (by assumption) _ _
    | exact Memory.wf_filter (by assumption) _
    | exact Memory.wf_writeBytes (by assumption) _ _
    | with_reducible apply Keeps.mk_all
    | assumption
    | simp_all [Run.ok])

theorem State.leaveJob_keeps {a s : State} (h : Keeps a s) {x1} : Keeps a (State.leaveJob s x1) := by
  unfold State.leaveJob
  iterate 24 all_goals (try first
    | with_reducible assumption
    | with_reducible apply State.modPart_keeps
    | with_reducible apply State.stepRecEnd_keeps
    | with_reducible apply State.sendLeft_keeps
    | with_reducible apply State.noFaults_keeps
    | (with_reducible apply foldl_keeps)
    | (with_reducible apply foldl_fst_keeps)
    | with_reducible apply Keeps.ite
    | with_reducible apply Keeps.ite_fst
    | with_reducible apply Keeps.ite_snd
    | intro _
    | dsimp only
    | split
    | (refine Keeps.fst (by with_reducible assumption) ?_)
    | (refine Keeps.snd (by with_reducible assumption) ?_)
    | rfl
    | exact ⟨rfl, rfl⟩
    | exact ⟨rfl, rfl, rfl⟩
    | exact Memory.wf_clear (by assumption) _ _
    | exact Memory.wf_filter (by assumption) _
    | exact Memory.wf_writeBytes (by assumption) _ _
    | with_reducible apply Keeps.mk_all
    | assumption
    | simp_all [Run.ok])

theorem State.dropOut_keeps {a s : State} (h : Keeps a s) {x1} : Keeps a (State.dropOut s x1) := by
  unfold State.dropOut
  iterate 24 all_goals (try first
    | with_reducible assumption
    | with_reducible apply State.localDiscard_keeps
    | with_reducible apply State.leaveJob_keeps
    | (with_reducible apply foldl_keeps)
    | (with_reducible apply foldl_fst_keeps)
    | with_reducible apply Keeps.ite
    | with_reducible apply Keeps.ite_fst
    | with_reducible apply Keeps.ite_snd
    | intro _
    | dsimp only
    | split
    | (refine Keeps.fst (by with_reducible assumption) ?_)
    | (refine Keeps.snd (by with_reducible assumption) ?_)
    | rfl
    | exact ⟨rfl, rfl⟩
    | exact ⟨rfl, rfl, rfl⟩
    | exact Memory.wf_clear (by assumption) _ _
    | exact Memory.wf_filter (by assumption) _
    | exact Memory.wf_writeBytes (by assumption) _ _
    | with_reducible apply Keeps.mk_all
    | assumption
    | simp_all [Run.ok])

theorem State.cipherless_keeps {a s : State} (h : Keeps a s) {x1} : Keeps a (State.cipherless s x1) := by
  unfold State.cipherless
  iterate 24 all_goals (try first
    | with_reducible assumption
    | with_reducible apply State.raise_keeps
    | with_reducible apply State.dropOut_keeps
    | (with_reducible apply foldl_keeps)
    | (with_reducible apply foldl_fst_keeps)
    | with_reducible apply Keeps.ite
    | with_reducible apply Keeps.ite_fst
    | with_reducible apply Keeps.ite_snd
    | intro _
    | dsimp only
    | split
    | (refine Keeps.fst (by with_reducible assumption) ?_)
    | (refine Keeps.snd (by with_reducible assumption) ?_)
    | rfl
    | exact ⟨rfl, rfl⟩
    | exact ⟨rfl, rfl, rfl⟩
    | exact Memory.wf_clear (by assumption) _ _
    | exact Memory.wf_filter (by assumption) _
    | exact Memory.wf_writeBytes (by assumption) _ _
    | with_reducible apply Keeps.mk_all
    | assumption
    | simp_all [Run.ok])

theorem State.sendFail_keeps {a s : State} (h : Keeps a s) {x1 x2} : Keeps a (State.sendFail s x1 x2) := by
  unfold State.sendFail
  iterate 24 all_goals (try first
    | with_reducible assumption
    | with_reducible apply State.notice_keeps
    | (with_reducible apply foldl_keeps)
    | (with_reducible apply foldl_fst_keeps)
    | with_reducible apply Keeps.ite
    | with_reducible apply Keeps.ite_fst
    | with_reducible apply Keeps.ite_snd
    | intro _
    | dsimp only
    | split
    | (refine Keeps.fst (by with_reducible assumption) ?_)
    | (refine Keeps.snd (by with_reducible assumption) ?_)
    | rfl
    | exact ⟨rfl, rfl⟩
    | exact ⟨rfl, rfl, rfl⟩
    | exact Memory.wf_clear (by assumption) _ _
    | exact Memory.wf_filter (by assumption) _
    | exact Memory.wf_writeBytes (by assumption) _ _
    | with_reducible apply Keeps.mk_all
    | assumption
    | simp_all [Run.ok])

theorem State.partitionReset_keeps {a s : State} (h : Keeps a s) {x1 x2} : Keeps a (State.partitionReset s x1 x2) := by
  unfold State.partitionReset
  iterate 24 all_goals (try first
    | with_reducible assumption
    | with_reducible apply State.modPart_keeps
    | with_reducible apply State.modHearth_keeps
    | with_reducible apply State.modCipher_keeps
    | with_reducible apply State.modNet_keeps
    | with_reducible apply State.zeroSlots_keeps
    | with_reducible apply State.tongsClear_keeps
    | with_reducible apply State.stepRecEnd_keeps
    | with_reducible apply State.discardMbx_keeps
    | with_reducible apply State.sendLeft_keeps
    | with_reducible apply State.localDiscard_keeps
    | with_reducible apply State.sendFail_keeps
    | (with_reducible apply State.each_keeps; intro _ _ _)
    | (with_reducible apply foldl_keeps)
    | (with_reducible apply foldl_fst_keeps)
    | with_reducible apply Keeps.ite
    | with_reducible apply Keeps.ite_fst
    | with_reducible apply Keeps.ite_snd
    | intro _
    | dsimp only
    | split
    | (refine Keeps.fst (by with_reducible assumption) ?_)
    | (refine Keeps.snd (by with_reducible assumption) ?_)
    | rfl
    | exact ⟨rfl, rfl⟩
    | exact ⟨rfl, rfl, rfl⟩
    | exact Memory.wf_clear (by assumption) _ _
    | exact Memory.wf_filter (by assumption) _
    | exact Memory.wf_writeBytes (by assumption) _ _
    | with_reducible apply Keeps.mk_all
    | assumption
    | simp_all [Run.ok])

theorem doStepFlagTaken_keeps {a s : State} (h : Keeps a s) {x1} : Keeps a (doStepFlagTaken x1 s) := by
  unfold doStepFlagTaken
  iterate 24 all_goals (try first
    | with_reducible assumption
    | with_reducible apply State.modRun_keeps
    | with_reducible apply State.flagSend_keeps
    | with_reducible apply State.collSettle_keeps
    | with_reducible apply State.abortsDue_keeps
    | (with_reducible apply State.each_keeps; intro _ _ _)
    | (with_reducible apply foldl_keeps)
    | (with_reducible apply foldl_fst_keeps)
    | with_reducible apply Keeps.ite
    | with_reducible apply Keeps.ite_fst
    | with_reducible apply Keeps.ite_snd
    | intro _
    | dsimp only
    | split
    | (refine Keeps.fst (by with_reducible assumption) ?_)
    | (refine Keeps.snd (by with_reducible assumption) ?_)
    | rfl
    | exact ⟨rfl, rfl⟩
    | exact ⟨rfl, rfl, rfl⟩
    | exact Memory.wf_clear (by assumption) _ _
    | exact Memory.wf_filter (by assumption) _
    | exact Memory.wf_writeBytes (by assumption) _ _
    | with_reducible apply Keeps.mk_all
    | assumption
    | simp_all [Run.ok])

theorem execStepFlagTaken_keeps {s t : State} {x1} (e : execStepFlagTaken x1 s = .next t) : Keeps s t := by
  refine answer_keeps e ?_
  have h := Keeps.refl s
  iterate 24 all_goals (try first
    | with_reducible assumption
    | with_reducible apply doStepFlagTaken_keeps
    | (with_reducible apply foldl_keeps)
    | (with_reducible apply foldl_fst_keeps)
    | with_reducible apply Keeps.ite
    | with_reducible apply Keeps.ite_fst
    | with_reducible apply Keeps.ite_snd
    | intro _
    | dsimp only
    | split
    | (refine Keeps.fst (by with_reducible assumption) ?_)
    | (refine Keeps.snd (by with_reducible assumption) ?_)
    | rfl
    | exact ⟨rfl, rfl⟩
    | exact ⟨rfl, rfl, rfl⟩
    | exact Memory.wf_clear (by assumption) _ _
    | exact Memory.wf_filter (by assumption) _
    | exact Memory.wf_writeBytes (by assumption) _ _
    | with_reducible apply Keeps.mk_all
    | assumption
    | simp_all [Run.ok])

theorem State.releaseOp_keeps {a s : State} (h : Keeps a s) {x1 x2} : Keeps a (State.releaseOp s x1 x2) := by
  unfold State.releaseOp
  iterate 24 all_goals (try first
    | with_reducible assumption
    | with_reducible apply State.modOp_keeps
    | with_reducible apply State.collRuns_keeps
    | with_reducible apply State.nextStage_keeps
    | with_reducible apply State.advanceOp_keeps
    | with_reducible apply State.collSettle_keeps
    | (with_reducible apply foldl_keeps)
    | (with_reducible apply foldl_fst_keeps)
    | with_reducible apply Keeps.ite
    | with_reducible apply Keeps.ite_fst
    | with_reducible apply Keeps.ite_snd
    | intro _
    | dsimp only
    | split
    | (refine Keeps.fst (by with_reducible assumption) ?_)
    | (refine Keeps.snd (by with_reducible assumption) ?_)
    | rfl
    | exact ⟨rfl, rfl⟩
    | exact ⟨rfl, rfl, rfl⟩
    | exact Memory.wf_clear (by assumption) _ _
    | exact Memory.wf_filter (by assumption) _
    | exact Memory.wf_writeBytes (by assumption) _ _
    | with_reducible apply Keeps.mk_all
    | assumption
    | simp_all [Run.ok])

theorem State.reduceNeverFits_keeps {a s : State} (h : Keeps a s) {x1 x2} : Keeps a (State.reduceNeverFits s x1 x2) := by
  unfold State.reduceNeverFits
  iterate 24 all_goals (try first
    | with_reducible assumption
    | with_reducible apply State.raise_keeps
    | with_reducible apply State.stopStream_keeps
    | (with_reducible apply foldl_keeps)
    | (with_reducible apply foldl_fst_keeps)
    | with_reducible apply Keeps.ite
    | with_reducible apply Keeps.ite_fst
    | with_reducible apply Keeps.ite_snd
    | intro _
    | dsimp only
    | split
    | (refine Keeps.fst (by with_reducible assumption) ?_)
    | (refine Keeps.snd (by with_reducible assumption) ?_)
    | rfl
    | exact ⟨rfl, rfl⟩
    | exact ⟨rfl, rfl, rfl⟩
    | exact Memory.wf_clear (by assumption) _ _
    | exact Memory.wf_filter (by assumption) _
    | exact Memory.wf_writeBytes (by assumption) _ _
    | with_reducible apply Keeps.mk_all
    | assumption
    | simp_all [Run.ok])

theorem doReduceRelease_keeps {a s : State} (h : Keeps a s) {x1 x2} : Keeps a (doReduceRelease x1 x2 s) := by
  unfold doReduceRelease
  iterate 24 all_goals (try first
    | with_reducible assumption
    | with_reducible apply State.meet_keeps
    | with_reducible apply State.releaseOp_keeps
    | with_reducible apply State.reduceNeverFits_keeps
    | (with_reducible apply foldl_keeps)
    | (with_reducible apply foldl_fst_keeps)
    | with_reducible apply Keeps.ite
    | with_reducible apply Keeps.ite_fst
    | with_reducible apply Keeps.ite_snd
    | intro _
    | dsimp only
    | split
    | (refine Keeps.fst (by with_reducible assumption) ?_)
    | (refine Keeps.snd (by with_reducible assumption) ?_)
    | rfl
    | exact ⟨rfl, rfl⟩
    | exact ⟨rfl, rfl, rfl⟩
    | exact Memory.wf_clear (by assumption) _ _
    | exact Memory.wf_filter (by assumption) _
    | exact Memory.wf_writeBytes (by assumption) _ _
    | with_reducible apply Keeps.mk_all
    | assumption
    | simp_all [Run.ok])

theorem execReduceRelease_keeps {s t : State} {x1} (e : execReduceRelease x1 s = .next t) : Keeps s t := by
  refine answer_keeps e ?_
  have h := Keeps.refl s
  iterate 24 all_goals (try first
    | with_reducible assumption
    | with_reducible apply doReduceRelease_keeps
    | (with_reducible apply foldl_keeps)
    | (with_reducible apply foldl_fst_keeps)
    | with_reducible apply Keeps.ite
    | with_reducible apply Keeps.ite_fst
    | with_reducible apply Keeps.ite_snd
    | intro _
    | dsimp only
    | split
    | (refine Keeps.fst (by with_reducible assumption) ?_)
    | (refine Keeps.snd (by with_reducible assumption) ?_)
    | rfl
    | exact ⟨rfl, rfl⟩
    | exact ⟨rfl, rfl, rfl⟩
    | exact Memory.wf_clear (by assumption) _ _
    | exact Memory.wf_filter (by assumption) _
    | exact Memory.wf_writeBytes (by assumption) _ _
    | with_reducible apply Keeps.mk_all
    | assumption
    | simp_all [Run.ok])

theorem State.driftFound_keeps {a s : State} (h : Keeps a s) {x1 x2 x3 x4 x5} : Keeps a (State.driftFound s x1 x2 x3 x4 x5) := by
  unfold State.driftFound
  iterate 24 all_goals (try first
    | with_reducible assumption
    | with_reducible apply State.modRun_keeps
    | with_reducible apply State.modPyro_keeps
    | with_reducible apply State.raise_keeps
    | (with_reducible apply foldl_keeps)
    | (with_reducible apply foldl_fst_keeps)
    | with_reducible apply Keeps.ite
    | with_reducible apply Keeps.ite_fst
    | with_reducible apply Keeps.ite_snd
    | intro _
    | dsimp only
    | split
    | (refine Keeps.fst (by with_reducible assumption) ?_)
    | (refine Keeps.snd (by with_reducible assumption) ?_)
    | rfl
    | exact ⟨rfl, rfl⟩
    | exact ⟨rfl, rfl, rfl⟩
    | exact Memory.wf_clear (by assumption) _ _
    | exact Memory.wf_filter (by assumption) _
    | exact Memory.wf_writeBytes (by assumption) _ _
    | with_reducible apply Keeps.mk_all
    | assumption
    | simp_all [Run.ok])

theorem doSamplePositionCheck_keeps {a s : State} (h : Keeps a s) {x1 x2} : Keeps a (doSamplePositionCheck x1 x2 s) := by
  unfold doSamplePositionCheck
  iterate 24 all_goals (try first
    | with_reducible assumption
    | with_reducible apply State.modPyro_keeps
    | with_reducible apply State.meet_keeps
    | with_reducible apply State.sampleSlag_keeps
    | with_reducible apply State.driftFound_keeps
    | (with_reducible apply foldl_keeps)
    | (with_reducible apply foldl_fst_keeps)
    | with_reducible apply Keeps.ite
    | with_reducible apply Keeps.ite_fst
    | with_reducible apply Keeps.ite_snd
    | intro _
    | dsimp only
    | split
    | (refine Keeps.fst (by with_reducible assumption) ?_)
    | (refine Keeps.snd (by with_reducible assumption) ?_)
    | rfl
    | exact ⟨rfl, rfl⟩
    | exact ⟨rfl, rfl, rfl⟩
    | exact Memory.wf_clear (by assumption) _ _
    | exact Memory.wf_filter (by assumption) _
    | exact Memory.wf_writeBytes (by assumption) _ _
    | with_reducible apply Keeps.mk_all
    | assumption
    | simp_all [Run.ok])

theorem execSamplePositionCheck_keeps {s t : State} {x1} (e : execSamplePositionCheck x1 s = .next t) : Keeps s t := by
  refine answer_keeps e ?_
  have h := Keeps.refl s
  iterate 24 all_goals (try first
    | with_reducible assumption
    | with_reducible apply doSamplePositionCheck_keeps
    | (with_reducible apply foldl_keeps)
    | (with_reducible apply foldl_fst_keeps)
    | with_reducible apply Keeps.ite
    | with_reducible apply Keeps.ite_fst
    | with_reducible apply Keeps.ite_snd
    | intro _
    | dsimp only
    | split
    | (refine Keeps.fst (by with_reducible assumption) ?_)
    | (refine Keeps.snd (by with_reducible assumption) ?_)
    | rfl
    | exact ⟨rfl, rfl⟩
    | exact ⟨rfl, rfl, rfl⟩
    | exact Memory.wf_clear (by assumption) _ _
    | exact Memory.wf_filter (by assumption) _
    | exact Memory.wf_writeBytes (by assumption) _ _
    | with_reducible apply Keeps.mk_all
    | assumption
    | simp_all [Run.ok])

theorem State.epochDrop_keeps {a s : State} (h : Keeps a s) {x1 x2 x3} : Keeps a (State.epochDrop s x1 x2 x3) := by
  unfold State.epochDrop
  iterate 24 all_goals (try first
    | with_reducible assumption
    | with_reducible apply State.count_keeps
    | with_reducible apply State.modOp_keeps
    | (with_reducible apply foldl_keeps)
    | (with_reducible apply foldl_fst_keeps)
    | with_reducible apply Keeps.ite
    | with_reducible apply Keeps.ite_fst
    | with_reducible apply Keeps.ite_snd
    | intro _
    | dsimp only
    | split
    | (refine Keeps.fst (by with_reducible assumption) ?_)
    | (refine Keeps.snd (by with_reducible assumption) ?_)
    | rfl
    | exact ⟨rfl, rfl⟩
    | exact ⟨rfl, rfl, rfl⟩
    | exact Memory.wf_clear (by assumption) _ _
    | exact Memory.wf_filter (by assumption) _
    | exact Memory.wf_writeBytes (by assumption) _ _
    | with_reducible apply Keeps.mk_all
    | assumption
    | simp_all [Run.ok])

theorem State.segEvent_keeps {a s : State} (h : Keeps a s) {x1 x2 x3} (hF : ∀ t p m x, Keeps a t → Keeps a (x3 t p m x)) : Keeps a (State.segEvent s x1 x2 x3) := by
  unfold State.segEvent
  iterate 24 all_goals (try first
    | with_reducible assumption
    | with_reducible apply hF
    | with_reducible apply State.receive_keeps
    | with_reducible apply State.bufErrors_keeps
    | with_reducible apply State.ackIfDue_keeps
    | with_reducible apply State.dataArrived_keeps
    | with_reducible apply State.badSeg_keeps
    | with_reducible apply State.epochDrop_keeps
    | (with_reducible apply foldl_keeps)
    | (with_reducible apply foldl_fst_keeps)
    | with_reducible apply Keeps.ite
    | with_reducible apply Keeps.ite_fst
    | with_reducible apply Keeps.ite_snd
    | intro _
    | dsimp only
    | split
    | (refine Keeps.fst (by with_reducible assumption) ?_)
    | (refine Keeps.snd (by with_reducible assumption) ?_)
    | rfl
    | exact ⟨rfl, rfl⟩
    | exact ⟨rfl, rfl, rfl⟩
    | exact Memory.wf_clear (by assumption) _ _
    | exact Memory.wf_filter (by assumption) _
    | exact Memory.wf_writeBytes (by assumption) _ _
    | with_reducible apply Keeps.mk_all
    | assumption
    | simp_all [Run.ok])

theorem State.keepSeg_keeps {a s : State} (h : Keeps a s) {x1 x2 x3} : Keeps a (State.keepSeg s x1 x2 x3) := by
  unfold State.keepSeg
  iterate 24 all_goals (try first
    | with_reducible assumption
    | with_reducible apply State.holdSeg_keeps
    | with_reducible apply State.collSettle_keeps
    | (with_reducible apply foldl_keeps)
    | (with_reducible apply foldl_fst_keeps)
    | with_reducible apply Keeps.ite
    | with_reducible apply Keeps.ite_fst
    | with_reducible apply Keeps.ite_snd
    | intro _
    | dsimp only
    | split
    | (refine Keeps.fst (by with_reducible assumption) ?_)
    | (refine Keeps.snd (by with_reducible assumption) ?_)
    | rfl
    | exact ⟨rfl, rfl⟩
    | exact ⟨rfl, rfl, rfl⟩
    | exact Memory.wf_clear (by assumption) _ _
    | exact Memory.wf_filter (by assumption) _
    | exact Memory.wf_writeBytes (by assumption) _ _
    | with_reducible apply Keeps.mk_all
    | assumption
    | simp_all [Run.ok])

theorem State.storeErrors_keeps {a s : State} (h : Keeps a s) {x1 x2 x3} : Keeps a (State.storeErrors s x1 x2 x3) := by
  unfold State.storeErrors
  iterate 24 all_goals (try first
    | with_reducible assumption
    | with_reducible apply State.raiseMem_keeps
    | (with_reducible apply State.each_keeps; intro _ _ _)
    | (with_reducible apply foldl_keeps)
    | (with_reducible apply foldl_fst_keeps)
    | with_reducible apply Keeps.ite
    | with_reducible apply Keeps.ite_fst
    | with_reducible apply Keeps.ite_snd
    | intro _
    | dsimp only
    | split
    | (refine Keeps.fst (by with_reducible assumption) ?_)
    | (refine Keeps.snd (by with_reducible assumption) ?_)
    | rfl
    | exact ⟨rfl, rfl⟩
    | exact ⟨rfl, rfl, rfl⟩
    | exact Memory.wf_clear (by assumption) _ _
    | exact Memory.wf_filter (by assumption) _
    | exact Memory.wf_writeBytes (by assumption) _ _
    | with_reducible apply Keeps.mk_all
    | assumption
    | simp_all [Run.ok])

theorem State.heldErrors_keeps {a s : State} (h : Keeps a s) {x1 x2 x3} : Keeps a (State.heldErrors s x1 x2 x3) := by
  unfold State.heldErrors
  iterate 24 all_goals (try first
    | with_reducible assumption
    | with_reducible apply State.storeErrors_keeps
    | (with_reducible apply foldl_keeps)
    | (with_reducible apply foldl_fst_keeps)
    | with_reducible apply Keeps.ite
    | with_reducible apply Keeps.ite_fst
    | with_reducible apply Keeps.ite_snd
    | intro _
    | dsimp only
    | split
    | (refine Keeps.fst (by with_reducible assumption) ?_)
    | (refine Keeps.snd (by with_reducible assumption) ?_)
    | rfl
    | exact ⟨rfl, rfl⟩
    | exact ⟨rfl, rfl, rfl⟩
    | exact Memory.wf_clear (by assumption) _ _
    | exact Memory.wf_filter (by assumption) _
    | exact Memory.wf_writeBytes (by assumption) _ _
    | with_reducible apply Keeps.mk_all
    | assumption
    | simp_all [Run.ok])

theorem State.addErrors_keeps {a s : State} (h : Keeps a s) {x1 x2 x3 x4} : Keeps a (State.addErrors s x1 x2 x3 x4) := by
  unfold State.addErrors
  iterate 24 all_goals (try first
    | with_reducible assumption
    | with_reducible apply runErrors_keeps
    | with_reducible apply State.storeErrors_keeps
    | (with_reducible apply foldl_keeps)
    | (with_reducible apply foldl_fst_keeps)
    | with_reducible apply Keeps.ite
    | with_reducible apply Keeps.ite_fst
    | with_reducible apply Keeps.ite_snd
    | intro _
    | dsimp only
    | split
    | (refine Keeps.fst (by with_reducible assumption) ?_)
    | (refine Keeps.snd (by with_reducible assumption) ?_)
    | rfl
    | exact ⟨rfl, rfl⟩
    | exact ⟨rfl, rfl, rfl⟩
    | exact Memory.wf_clear (by assumption) _ _
    | exact Memory.wf_filter (by assumption) _
    | exact Memory.wf_writeBytes (by assumption) _ _
    | with_reducible apply Keeps.mk_all
    | assumption
    | simp_all [Run.ok])

theorem State.accErrors_keeps {a s : State} (h : Keeps a s) {x1 x2 x3 x4} : Keeps a (State.accErrors s x1 x2 x3 x4) := by
  unfold State.accErrors
  iterate 24 all_goals (try first
    | with_reducible assumption
    | with_reducible apply State.modColl_keeps
    | with_reducible apply State.modOp_keeps
    | with_reducible apply State.addErrors_keeps
    | (with_reducible apply foldl_keeps)
    | (with_reducible apply foldl_fst_keeps)
    | with_reducible apply Keeps.ite
    | with_reducible apply Keeps.ite_fst
    | with_reducible apply Keeps.ite_snd
    | intro _
    | dsimp only
    | split
    | (refine Keeps.fst (by with_reducible assumption) ?_)
    | (refine Keeps.snd (by with_reducible assumption) ?_)
    | rfl
    | exact ⟨rfl, rfl⟩
    | exact ⟨rfl, rfl, rfl⟩
    | exact Memory.wf_clear (by assumption) _ _
    | exact Memory.wf_filter (by assumption) _
    | exact Memory.wf_writeBytes (by assumption) _ _
    | with_reducible apply Keeps.mk_all
    | assumption
    | simp_all [Run.ok])

theorem execContrib_keeps {s t : State} {x1 x2 x3} (e : execContrib x1 x2 x3 s = .next t) : Keeps s t := by
  refine answer_keeps e ?_
  have h := Keeps.refl s
  iterate 24 all_goals (try first
    | with_reducible assumption
    | with_reducible apply State.segEvent_keeps
    | with_reducible apply State.keepSeg_keeps
    | with_reducible apply State.accErrors_keeps
    | (with_reducible apply foldl_keeps)
    | (with_reducible apply foldl_fst_keeps)
    | with_reducible apply Keeps.ite
    | with_reducible apply Keeps.ite_fst
    | with_reducible apply Keeps.ite_snd
    | intro _
    | dsimp only
    | split
    | (refine Keeps.fst (by with_reducible assumption) ?_)
    | (refine Keeps.snd (by with_reducible assumption) ?_)
    | rfl
    | exact ⟨rfl, rfl⟩
    | exact ⟨rfl, rfl, rfl⟩
    | exact Memory.wf_clear (by assumption) _ _
    | exact Memory.wf_filter (by assumption) _
    | exact Memory.wf_writeBytes (by assumption) _ _
    | with_reducible apply Keeps.mk_all
    | assumption
    | simp_all [Run.ok])

theorem execResult_keeps {s t : State} {x1} (e : execResult x1 s = .next t) : Keeps s t := by
  refine answer_keeps e ?_
  have h := Keeps.refl s
  iterate 24 all_goals (try first
    | with_reducible assumption
    | with_reducible apply State.segEvent_keeps
    | with_reducible apply State.keepSeg_keeps
    | with_reducible apply State.heldErrors_keeps
    | (with_reducible apply foldl_keeps)
    | (with_reducible apply foldl_fst_keeps)
    | with_reducible apply Keeps.ite
    | with_reducible apply Keeps.ite_fst
    | with_reducible apply Keeps.ite_snd
    | intro _
    | dsimp only
    | split
    | (refine Keeps.fst (by with_reducible assumption) ?_)
    | (refine Keeps.snd (by with_reducible assumption) ?_)
    | rfl
    | exact ⟨rfl, rfl⟩
    | exact ⟨rfl, rfl, rfl⟩
    | exact Memory.wf_clear (by assumption) _ _
    | exact Memory.wf_filter (by assumption) _
    | exact Memory.wf_writeBytes (by assumption) _ _
    | with_reducible apply Keeps.mk_all
    | assumption
    | simp_all [Run.ok])

theorem execStat_keeps {s t : State} {x1} (e : execStat x1 s = .next t) : Keeps s t := by
  refine answer_keeps e ?_
  have h := Keeps.refl s
  iterate 24 all_goals (try first
    | with_reducible assumption
    | with_reducible apply State.segEvent_keeps
    | with_reducible apply State.keepSeg_keeps
    | with_reducible apply State.heldErrors_keeps
    | (with_reducible apply foldl_keeps)
    | (with_reducible apply foldl_fst_keeps)
    | with_reducible apply Keeps.ite
    | with_reducible apply Keeps.ite_fst
    | with_reducible apply Keeps.ite_snd
    | intro _
    | dsimp only
    | split
    | (refine Keeps.fst (by with_reducible assumption) ?_)
    | (refine Keeps.snd (by with_reducible assumption) ?_)
    | rfl
    | exact ⟨rfl, rfl⟩
    | exact ⟨rfl, rfl, rfl⟩
    | exact Memory.wf_clear (by assumption) _ _
    | exact Memory.wf_filter (by assumption) _
    | exact Memory.wf_writeBytes (by assumption) _ _
    | with_reducible apply Keeps.mk_all
    | assumption
    | simp_all [Run.ok])

theorem State.tryRejoin_keeps {a s : State} (h : Keeps a s) {x1} : Keeps a (State.tryRejoin s x1) := by
  unfold State.tryRejoin
  iterate 24 all_goals (try first
    | with_reducible assumption
    | with_reducible apply State.modRun_keeps
    | with_reducible apply State.modPyro_keeps
    | with_reducible apply State.modColl_keeps
    | with_reducible apply State.unhold_keeps
    | (with_reducible apply foldl_keeps)
    | (with_reducible apply foldl_fst_keeps)
    | with_reducible apply Keeps.ite
    | with_reducible apply Keeps.ite_fst
    | with_reducible apply Keeps.ite_snd
    | intro _
    | dsimp only
    | split
    | (refine Keeps.fst (by with_reducible assumption) ?_)
    | (refine Keeps.snd (by with_reducible assumption) ?_)
    | rfl
    | exact ⟨rfl, rfl⟩
    | exact ⟨rfl, rfl, rfl⟩
    | exact Memory.wf_clear (by assumption) _ _
    | exact Memory.wf_filter (by assumption) _
    | exact Memory.wf_writeBytes (by assumption) _ _
    | with_reducible apply Keeps.mk_all
    | assumption
    | simp_all [Run.ok])

theorem State.takeGather_keeps {a s : State} (h : Keeps a s) {x1 x2 x3} : Keeps a (State.takeGather s x1 x2 x3) := by
  unfold State.takeGather
  iterate 24 all_goals (try first
    | with_reducible assumption
    | with_reducible apply State.holdSeg_keeps
    | with_reducible apply State.keepSeg_keeps
    | with_reducible apply State.tryRejoin_keeps
    | (with_reducible apply foldl_keeps)
    | (with_reducible apply foldl_fst_keeps)
    | with_reducible apply Keeps.ite
    | with_reducible apply Keeps.ite_fst
    | with_reducible apply Keeps.ite_snd
    | intro _
    | dsimp only
    | split
    | (refine Keeps.fst (by with_reducible assumption) ?_)
    | (refine Keeps.snd (by with_reducible assumption) ?_)
    | rfl
    | exact ⟨rfl, rfl⟩
    | exact ⟨rfl, rfl, rfl⟩
    | exact Memory.wf_clear (by assumption) _ _
    | exact Memory.wf_filter (by assumption) _
    | exact Memory.wf_writeBytes (by assumption) _ _
    | with_reducible apply Keeps.mk_all
    | assumption
    | simp_all [Run.ok])

theorem execGatherSegment_keeps {s t : State} {x1} (e : execGatherSegment x1 s = .next t) : Keeps s t := by
  refine answer_keeps e ?_
  have h := Keeps.refl s
  iterate 24 all_goals (try first
    | with_reducible assumption
    | with_reducible apply State.segEvent_keeps
    | with_reducible apply State.takeGather_keeps
    | (with_reducible apply foldl_keeps)
    | (with_reducible apply foldl_fst_keeps)
    | with_reducible apply Keeps.ite
    | with_reducible apply Keeps.ite_fst
    | with_reducible apply Keeps.ite_snd
    | intro _
    | dsimp only
    | split
    | (refine Keeps.fst (by with_reducible assumption) ?_)
    | (refine Keeps.snd (by with_reducible assumption) ?_)
    | rfl
    | exact ⟨rfl, rfl⟩
    | exact ⟨rfl, rfl, rfl⟩
    | exact Memory.wf_clear (by assumption) _ _
    | exact Memory.wf_filter (by assumption) _
    | exact Memory.wf_writeBytes (by assumption) _ _
    | with_reducible apply Keeps.mk_all
    | assumption
    | simp_all [Run.ok])

theorem State.answerRejoins_keeps {a s : State} (h : Keeps a s) {x1} : Keeps a (State.answerRejoins s x1) := by
  unfold State.answerRejoins
  iterate 24 all_goals (try first
    | with_reducible assumption
    | with_reducible apply State.modColl_keeps
    | with_reducible apply State.sendSeg_keeps
    | (with_reducible apply State.each_keeps; intro _ _ _)
    | (with_reducible apply foldl_keeps)
    | (with_reducible apply foldl_fst_keeps)
    | with_reducible apply Keeps.ite
    | with_reducible apply Keeps.ite_fst
    | with_reducible apply Keeps.ite_snd
    | intro _
    | dsimp only
    | split
    | (refine Keeps.fst (by with_reducible assumption) ?_)
    | (refine Keeps.snd (by with_reducible assumption) ?_)
    | rfl
    | exact ⟨rfl, rfl⟩
    | exact ⟨rfl, rfl, rfl⟩
    | exact Memory.wf_clear (by assumption) _ _
    | exact Memory.wf_filter (by assumption) _
    | exact Memory.wf_writeBytes (by assumption) _ _
    | with_reducible apply Keeps.mk_all
    | assumption
    | simp_all [Run.ok])

theorem State.takeFlag_keeps {a s : State} (h : Keeps a s) {x1 x2 x3} : Keeps a (State.takeFlag s x1 x2 x3) := by
  unfold State.takeFlag
  iterate 24 all_goals (try first
    | with_reducible assumption
    | with_reducible apply State.count_keeps
    | with_reducible apply State.badSeg_keeps
    | with_reducible apply State.rootAdd_keeps
    | with_reducible apply State.collSettle_keeps
    | with_reducible apply State.abortClose_keeps
    | (with_reducible apply foldl_keeps)
    | (with_reducible apply foldl_fst_keeps)
    | with_reducible apply Keeps.ite
    | with_reducible apply Keeps.ite_fst
    | with_reducible apply Keeps.ite_snd
    | intro _
    | dsimp only
    | split
    | (refine Keeps.fst (by with_reducible assumption) ?_)
    | (refine Keeps.snd (by with_reducible assumption) ?_)
    | rfl
    | exact ⟨rfl, rfl⟩
    | exact ⟨rfl, rfl, rfl⟩
    | exact Memory.wf_clear (by assumption) _ _
    | exact Memory.wf_filter (by assumption) _
    | exact Memory.wf_writeBytes (by assumption) _ _
    | with_reducible apply Keeps.mk_all
    | assumption
    | simp_all [Run.ok])

theorem execFlagSegment_keeps {s t : State} {x1} (e : execFlagSegment x1 s = .next t) : Keeps s t := by
  refine answer_keeps e ?_
  have h := Keeps.refl s
  iterate 24 all_goals (try first
    | with_reducible assumption
    | with_reducible apply State.segEvent_keeps
    | with_reducible apply State.heldErrors_keeps
    | with_reducible apply State.takeFlag_keeps
    | (with_reducible apply foldl_keeps)
    | (with_reducible apply foldl_fst_keeps)
    | with_reducible apply Keeps.ite
    | with_reducible apply Keeps.ite_fst
    | with_reducible apply Keeps.ite_snd
    | intro _
    | dsimp only
    | split
    | (refine Keeps.fst (by with_reducible assumption) ?_)
    | (refine Keeps.snd (by with_reducible assumption) ?_)
    | rfl
    | exact ⟨rfl, rfl⟩
    | exact ⟨rfl, rfl, rfl⟩
    | exact Memory.wf_clear (by assumption) _ _
    | exact Memory.wf_filter (by assumption) _
    | exact Memory.wf_writeBytes (by assumption) _ _
    | with_reducible apply Keeps.mk_all
    | assumption
    | simp_all [Run.ok])

theorem doFlagRootTimeout_keeps {a s : State} (h : Keeps a s) {x1 x2} : Keeps a (doFlagRootTimeout x1 x2 s) := by
  unfold doFlagRootTimeout
  iterate 24 all_goals (try first
    | with_reducible assumption
    | with_reducible apply State.rootClose_keeps
    | with_reducible apply State.collSettle_keeps
    | (with_reducible apply foldl_keeps)
    | (with_reducible apply foldl_fst_keeps)
    | with_reducible apply Keeps.ite
    | with_reducible apply Keeps.ite_fst
    | with_reducible apply Keeps.ite_snd
    | intro _
    | dsimp only
    | split
    | (refine Keeps.fst (by with_reducible assumption) ?_)
    | (refine Keeps.snd (by with_reducible assumption) ?_)
    | rfl
    | exact ⟨rfl, rfl⟩
    | exact ⟨rfl, rfl, rfl⟩
    | exact Memory.wf_clear (by assumption) _ _
    | exact Memory.wf_filter (by assumption) _
    | exact Memory.wf_writeBytes (by assumption) _ _
    | with_reducible apply Keeps.mk_all
    | assumption
    | simp_all [Run.ok])

theorem execFlagRootTimeout_keeps {s t : State} {x1 x2} (e : execFlagRootTimeout x1 x2 s = .next t) : Keeps s t := by
  refine answer_keeps e ?_
  have h := Keeps.refl s
  iterate 24 all_goals (try first
    | with_reducible assumption
    | with_reducible apply doFlagRootTimeout_keeps
    | (with_reducible apply foldl_keeps)
    | (with_reducible apply foldl_fst_keeps)
    | with_reducible apply Keeps.ite
    | with_reducible apply Keeps.ite_fst
    | with_reducible apply Keeps.ite_snd
    | intro _
    | dsimp only
    | split
    | (refine Keeps.fst (by with_reducible assumption) ?_)
    | (refine Keeps.snd (by with_reducible assumption) ?_)
    | rfl
    | exact ⟨rfl, rfl⟩
    | exact ⟨rfl, rfl, rfl⟩
    | exact Memory.wf_clear (by assumption) _ _
    | exact Memory.wf_filter (by assumption) _
    | exact Memory.wf_writeBytes (by assumption) _ _
    | with_reducible apply Keeps.mk_all
    | assumption
    | simp_all [Run.ok])

theorem execDecide_keeps {s t : State} {x1} (e : execDecide x1 s = .next t) : Keeps s t := by
  refine answer_keeps e ?_
  have h := Keeps.refl s
  iterate 24 all_goals (try first
    | with_reducible assumption
    | with_reducible apply State.segEvent_keeps
    | with_reducible apply State.keepSeg_keeps
    | (with_reducible apply foldl_keeps)
    | (with_reducible apply foldl_fst_keeps)
    | with_reducible apply Keeps.ite
    | with_reducible apply Keeps.ite_fst
    | with_reducible apply Keeps.ite_snd
    | intro _
    | dsimp only
    | split
    | (refine Keeps.fst (by with_reducible assumption) ?_)
    | (refine Keeps.snd (by with_reducible assumption) ?_)
    | rfl
    | exact ⟨rfl, rfl⟩
    | exact ⟨rfl, rfl, rfl⟩
    | exact Memory.wf_clear (by assumption) _ _
    | exact Memory.wf_filter (by assumption) _
    | exact Memory.wf_writeBytes (by assumption) _ _
    | with_reducible apply Keeps.mk_all
    | assumption
    | simp_all [Run.ok])

theorem doDecideTimeout_keeps {a s : State} (h : Keeps a s) {x1} : Keeps a (doDecideTimeout x1 s) := by
  unfold doDecideTimeout
  iterate 24 all_goals (try first
    | with_reducible assumption
    | with_reducible apply State.declareLost_keeps
    | (with_reducible apply State.each_keeps; intro _ _ _)
    | (with_reducible apply foldl_keeps)
    | (with_reducible apply foldl_fst_keeps)
    | with_reducible apply Keeps.ite
    | with_reducible apply Keeps.ite_fst
    | with_reducible apply Keeps.ite_snd
    | intro _
    | dsimp only
    | split
    | (refine Keeps.fst (by with_reducible assumption) ?_)
    | (refine Keeps.snd (by with_reducible assumption) ?_)
    | rfl
    | exact ⟨rfl, rfl⟩
    | exact ⟨rfl, rfl, rfl⟩
    | exact Memory.wf_clear (by assumption) _ _
    | exact Memory.wf_filter (by assumption) _
    | exact Memory.wf_writeBytes (by assumption) _ _
    | with_reducible apply Keeps.mk_all
    | assumption
    | simp_all [Run.ok])

theorem execDecideTimeout_keeps {s t : State} {x1} (e : execDecideTimeout x1 s = .next t) : Keeps s t := by
  refine answer_keeps e ?_
  have h := Keeps.refl s
  iterate 24 all_goals (try first
    | with_reducible assumption
    | with_reducible apply doDecideTimeout_keeps
    | (with_reducible apply foldl_keeps)
    | (with_reducible apply foldl_fst_keeps)
    | with_reducible apply Keeps.ite
    | with_reducible apply Keeps.ite_fst
    | with_reducible apply Keeps.ite_snd
    | intro _
    | dsimp only
    | split
    | (refine Keeps.fst (by with_reducible assumption) ?_)
    | (refine Keeps.snd (by with_reducible assumption) ?_)
    | rfl
    | exact ⟨rfl, rfl⟩
    | exact ⟨rfl, rfl, rfl⟩
    | exact Memory.wf_clear (by assumption) _ _
    | exact Memory.wf_filter (by assumption) _
    | exact Memory.wf_writeBytes (by assumption) _ _
    | with_reducible apply Keeps.mk_all
    | assumption
    | simp_all [Run.ok])

theorem State.takeAbort_keeps {a s : State} (h : Keeps a s) {x1 x2 x3} : Keeps a (State.takeAbort s x1 x2 x3) := by
  unfold State.takeAbort
  iterate 24 all_goals (try first
    | with_reducible assumption
    | with_reducible apply State.badSeg_keeps
    | with_reducible apply State.collSettle_keeps
    | with_reducible apply State.declareLost_keeps
    | with_reducible apply State.rootAbort_keeps
    | (with_reducible apply foldl_keeps)
    | (with_reducible apply foldl_fst_keeps)
    | with_reducible apply Keeps.ite
    | with_reducible apply Keeps.ite_fst
    | with_reducible apply Keeps.ite_snd
    | intro _
    | dsimp only
    | split
    | (refine Keeps.fst (by with_reducible assumption) ?_)
    | (refine Keeps.snd (by with_reducible assumption) ?_)
    | rfl
    | exact ⟨rfl, rfl⟩
    | exact ⟨rfl, rfl, rfl⟩
    | exact Memory.wf_clear (by assumption) _ _
    | exact Memory.wf_filter (by assumption) _
    | exact Memory.wf_writeBytes (by assumption) _ _
    | with_reducible apply Keeps.mk_all
    | assumption
    | simp_all [Run.ok])

theorem execAbort_keeps {s t : State} {x1} (e : execAbort x1 s = .next t) : Keeps s t := by
  refine answer_keeps e ?_
  have h := Keeps.refl s
  iterate 24 all_goals (try first
    | with_reducible assumption
    | with_reducible apply State.segEvent_keeps
    | with_reducible apply State.takeAbort_keeps
    | (with_reducible apply foldl_keeps)
    | (with_reducible apply foldl_fst_keeps)
    | with_reducible apply Keeps.ite
    | with_reducible apply Keeps.ite_fst
    | with_reducible apply Keeps.ite_snd
    | intro _
    | dsimp only
    | split
    | (refine Keeps.fst (by with_reducible assumption) ?_)
    | (refine Keeps.snd (by with_reducible assumption) ?_)
    | rfl
    | exact ⟨rfl, rfl⟩
    | exact ⟨rfl, rfl, rfl⟩
    | exact Memory.wf_clear (by assumption) _ _
    | exact Memory.wf_filter (by assumption) _
    | exact Memory.wf_writeBytes (by assumption) _ _
    | with_reducible apply Keeps.mk_all
    | assumption
    | simp_all [Run.ok])

theorem doDirectStageTimeout_keeps {a s : State} (h : Keeps a s) {x1 x2} : Keeps a (doDirectStageTimeout x1 x2 s) := by
  unfold doDirectStageTimeout
  iterate 24 all_goals (try first
    | with_reducible assumption
    | with_reducible apply State.modOp_keeps
    | with_reducible apply State.closeDirect_keeps
    | with_reducible apply State.nextStage_keeps
    | with_reducible apply State.advanceOp_keeps
    | with_reducible apply State.collSettle_keeps
    | with_reducible apply State.addErrors_keeps
    | (with_reducible apply foldl_keeps)
    | (with_reducible apply foldl_fst_keeps)
    | with_reducible apply Keeps.ite
    | with_reducible apply Keeps.ite_fst
    | with_reducible apply Keeps.ite_snd
    | intro _
    | dsimp only
    | split
    | (refine Keeps.fst (by with_reducible assumption) ?_)
    | (refine Keeps.snd (by with_reducible assumption) ?_)
    | rfl
    | exact ⟨rfl, rfl⟩
    | exact ⟨rfl, rfl, rfl⟩
    | exact Memory.wf_clear (by assumption) _ _
    | exact Memory.wf_filter (by assumption) _
    | exact Memory.wf_writeBytes (by assumption) _ _
    | with_reducible apply Keeps.mk_all
    | assumption
    | simp_all [Run.ok])

theorem execDirectStageTimeout_keeps {s t : State} {x1 x2} (e : execDirectStageTimeout x1 x2 s = .next t) : Keeps s t := by
  refine answer_keeps e ?_
  have h := Keeps.refl s
  iterate 24 all_goals (try first
    | with_reducible assumption
    | with_reducible apply doDirectStageTimeout_keeps
    | (with_reducible apply foldl_keeps)
    | (with_reducible apply foldl_fst_keeps)
    | with_reducible apply Keeps.ite
    | with_reducible apply Keeps.ite_fst
    | with_reducible apply Keeps.ite_snd
    | intro _
    | dsimp only
    | split
    | (refine Keeps.fst (by with_reducible assumption) ?_)
    | (refine Keeps.snd (by with_reducible assumption) ?_)
    | rfl
    | exact ⟨rfl, rfl⟩
    | exact ⟨rfl, rfl, rfl⟩
    | exact Memory.wf_clear (by assumption) _ _
    | exact Memory.wf_filter (by assumption) _
    | exact Memory.wf_writeBytes (by assumption) _ _
    | with_reducible apply Keeps.mk_all
    | assumption
    | simp_all [Run.ok])

theorem State.takeBarrier_keeps {a s : State} (h : Keeps a s) {x1 x2 x3} : Keeps a (State.takeBarrier s x1 x2 x3) := by
  unfold State.takeBarrier
  iterate 24 all_goals (try first
    | with_reducible assumption
    | with_reducible apply State.modColl_keeps
    | with_reducible apply State.badSeg_keeps
    | with_reducible apply State.barrierHeard_keeps
    | (with_reducible apply foldl_keeps)
    | (with_reducible apply foldl_fst_keeps)
    | with_reducible apply Keeps.ite
    | with_reducible apply Keeps.ite_fst
    | with_reducible apply Keeps.ite_snd
    | intro _
    | dsimp only
    | split
    | (refine Keeps.fst (by with_reducible assumption) ?_)
    | (refine Keeps.snd (by with_reducible assumption) ?_)
    | rfl
    | exact ⟨rfl, rfl⟩
    | exact ⟨rfl, rfl, rfl⟩
    | exact Memory.wf_clear (by assumption) _ _
    | exact Memory.wf_filter (by assumption) _
    | exact Memory.wf_writeBytes (by assumption) _ _
    | with_reducible apply Keeps.mk_all
    | assumption
    | simp_all [Run.ok])

theorem execBarrier_keeps {s t : State} {x1} (e : execBarrier x1 s = .next t) : Keeps s t := by
  refine answer_keeps e ?_
  have h := Keeps.refl s
  iterate 24 all_goals (try first
    | with_reducible assumption
    | with_reducible apply State.segEvent_keeps
    | with_reducible apply State.takeBarrier_keeps
    | (with_reducible apply foldl_keeps)
    | (with_reducible apply foldl_fst_keeps)
    | with_reducible apply Keeps.ite
    | with_reducible apply Keeps.ite_fst
    | with_reducible apply Keeps.ite_snd
    | intro _
    | dsimp only
    | split
    | (refine Keeps.fst (by with_reducible assumption) ?_)
    | (refine Keeps.snd (by with_reducible assumption) ?_)
    | rfl
    | exact ⟨rfl, rfl⟩
    | exact ⟨rfl, rfl, rfl⟩
    | exact Memory.wf_clear (by assumption) _ _
    | exact Memory.wf_filter (by assumption) _
    | exact Memory.wf_writeBytes (by assumption) _ _
    | with_reducible apply Keeps.mk_all
    | assumption
    | simp_all [Run.ok])

theorem State.takeAnswer_keeps {a s : State} (h : Keeps a s) {x1 x2 x3} : Keeps a (State.takeAnswer s x1 x2 x3) := by
  unfold State.takeAnswer
  iterate 24 all_goals (try first
    | with_reducible assumption
    | with_reducible apply State.holdSeg_keeps
    | with_reducible apply State.barrierAnswered_keeps
    | with_reducible apply State.tryRejoin_keeps
    | (with_reducible apply foldl_keeps)
    | (with_reducible apply foldl_fst_keeps)
    | with_reducible apply Keeps.ite
    | with_reducible apply Keeps.ite_fst
    | with_reducible apply Keeps.ite_snd
    | intro _
    | dsimp only
    | split
    | (refine Keeps.fst (by with_reducible assumption) ?_)
    | (refine Keeps.snd (by with_reducible assumption) ?_)
    | rfl
    | exact ⟨rfl, rfl⟩
    | exact ⟨rfl, rfl, rfl⟩
    | exact Memory.wf_clear (by assumption) _ _
    | exact Memory.wf_filter (by assumption) _
    | exact Memory.wf_writeBytes (by assumption) _ _
    | with_reducible apply Keeps.mk_all
    | assumption
    | simp_all [Run.ok])

theorem execBarrierAnswer_keeps {s t : State} {x1} (e : execBarrierAnswer x1 s = .next t) : Keeps s t := by
  refine answer_keeps e ?_
  have h := Keeps.refl s
  iterate 24 all_goals (try first
    | with_reducible assumption
    | with_reducible apply State.segEvent_keeps
    | with_reducible apply State.takeAnswer_keeps
    | (with_reducible apply foldl_keeps)
    | (with_reducible apply foldl_fst_keeps)
    | with_reducible apply Keeps.ite
    | with_reducible apply Keeps.ite_fst
    | with_reducible apply Keeps.ite_snd
    | intro _
    | dsimp only
    | split
    | (refine Keeps.fst (by with_reducible assumption) ?_)
    | (refine Keeps.snd (by with_reducible assumption) ?_)
    | rfl
    | exact ⟨rfl, rfl⟩
    | exact ⟨rfl, rfl, rfl⟩
    | exact Memory.wf_clear (by assumption) _ _
    | exact Memory.wf_filter (by assumption) _
    | exact Memory.wf_writeBytes (by assumption) _ _
    | with_reducible apply Keeps.mk_all
    | assumption
    | simp_all [Run.ok])

theorem doGroupCfg_keeps {a s : State} (h : Keeps a s) {x1 x2} : Keeps a (doGroupCfg x1 x2 s) := by
  unfold doGroupCfg
  iterate 24 all_goals (try first
    | with_reducible assumption
    | with_reducible apply State.modColl_keeps
    | with_reducible apply State.raise_keeps
    | (with_reducible apply foldl_keeps)
    | (with_reducible apply foldl_fst_keeps)
    | with_reducible apply Keeps.ite
    | with_reducible apply Keeps.ite_fst
    | with_reducible apply Keeps.ite_snd
    | intro _
    | dsimp only
    | split
    | (refine Keeps.fst (by with_reducible assumption) ?_)
    | (refine Keeps.snd (by with_reducible assumption) ?_)
    | rfl
    | exact ⟨rfl, rfl⟩
    | exact ⟨rfl, rfl, rfl⟩
    | exact Memory.wf_clear (by assumption) _ _
    | exact Memory.wf_filter (by assumption) _
    | exact Memory.wf_writeBytes (by assumption) _ _
    | with_reducible apply Keeps.mk_all
    | assumption
    | simp_all [Run.ok])

theorem execGroupCfg_keeps {s t : State} {x1 x2} (e : execGroupCfg x1 x2 s = .next t) : Keeps s t := by
  refine answer_keeps e ?_
  have h := Keeps.refl s
  iterate 24 all_goals (try first
    | with_reducible assumption
    | with_reducible apply doGroupCfg_keeps
    | (with_reducible apply foldl_keeps)
    | (with_reducible apply foldl_fst_keeps)
    | with_reducible apply Keeps.ite
    | with_reducible apply Keeps.ite_fst
    | with_reducible apply Keeps.ite_snd
    | intro _
    | dsimp only
    | split
    | (refine Keeps.fst (by with_reducible assumption) ?_)
    | (refine Keeps.snd (by with_reducible assumption) ?_)
    | rfl
    | exact ⟨rfl, rfl⟩
    | exact ⟨rfl, rfl, rfl⟩
    | exact Memory.wf_clear (by assumption) _ _
    | exact Memory.wf_filter (by assumption) _
    | exact Memory.wf_writeBytes (by assumption) _ _
    | with_reducible apply Keeps.mk_all
    | assumption
    | simp_all [Run.ok])

theorem State.modSlab_keeps {a s : State} (h : Keeps a s) {x1 x2 x3} : Keeps a (State.modSlab s x1 x2 x3) := by
  unfold State.modSlab
  iterate 24 all_goals (try first
    | with_reducible assumption
    | with_reducible apply State.modOuter_keeps
    | (with_reducible apply foldl_keeps)
    | (with_reducible apply foldl_fst_keeps)
    | with_reducible apply Keeps.ite
    | with_reducible apply Keeps.ite_fst
    | with_reducible apply Keeps.ite_snd
    | intro _
    | dsimp only
    | split
    | (refine Keeps.fst (by with_reducible assumption) ?_)
    | (refine Keeps.snd (by with_reducible assumption) ?_)
    | rfl
    | exact ⟨rfl, rfl⟩
    | exact ⟨rfl, rfl, rfl⟩
    | exact Memory.wf_clear (by assumption) _ _
    | exact Memory.wf_filter (by assumption) _
    | exact Memory.wf_writeBytes (by assumption) _ _
    | with_reducible apply Keeps.mk_all
    | assumption
    | simp_all [Run.ok])

theorem State.setProgress_keeps {a s : State} (h : Keeps a s) {x1 x2 x3} : Keeps a (State.setProgress s x1 x2 x3) := by
  unfold State.setProgress
  iterate 24 all_goals (try first
    | with_reducible assumption
    | with_reducible apply State.store_keeps
    | (with_reducible apply State.each_keeps; intro _ _ _)
    | (with_reducible apply foldl_keeps)
    | (with_reducible apply foldl_fst_keeps)
    | with_reducible apply Keeps.ite
    | with_reducible apply Keeps.ite_fst
    | with_reducible apply Keeps.ite_snd
    | intro _
    | dsimp only
    | split
    | (refine Keeps.fst (by with_reducible assumption) ?_)
    | (refine Keeps.snd (by with_reducible assumption) ?_)
    | rfl
    | exact ⟨rfl, rfl⟩
    | exact ⟨rfl, rfl, rfl⟩
    | exact Memory.wf_clear (by assumption) _ _
    | exact Memory.wf_filter (by assumption) _
    | exact Memory.wf_writeBytes (by assumption) _ _
    | with_reducible apply Keeps.mk_all
    | assumption
    | simp_all [Run.ok])

theorem State.readProgress_keeps {a s : State} (h : Keeps a s) {x1 x2 x3} : Keeps a (State.readProgress s x1 x2 x3).1 := by
  unfold State.readProgress
  iterate 24 all_goals (try first
    | with_reducible assumption
    | with_reducible apply State.raise_keeps
    | with_reducible apply State.setProgress_keeps
    | (with_reducible apply foldl_keeps)
    | (with_reducible apply foldl_fst_keeps)
    | with_reducible apply Keeps.ite
    | with_reducible apply Keeps.ite_fst
    | with_reducible apply Keeps.ite_snd
    | intro _
    | dsimp only
    | split
    | (refine Keeps.fst (by with_reducible assumption) ?_)
    | (refine Keeps.snd (by with_reducible assumption) ?_)
    | rfl
    | exact ⟨rfl, rfl⟩
    | exact ⟨rfl, rfl, rfl⟩
    | exact Memory.wf_clear (by assumption) _ _
    | exact Memory.wf_filter (by assumption) _
    | exact Memory.wf_writeBytes (by assumption) _ _
    | with_reducible apply Keeps.mk_all
    | assumption
    | simp_all [Run.ok])

theorem State.clearRecords_keeps {a s : State} (h : Keeps a s) {x1 x2} : Keeps a (State.clearRecords s x1 x2) := by
  unfold State.clearRecords
  iterate 24 all_goals (try first
    | with_reducible assumption
    | with_reducible apply State.store_keeps
    | (with_reducible apply State.each_keeps; intro _ _ _)
    | (with_reducible apply foldl_keeps)
    | (with_reducible apply foldl_fst_keeps)
    | with_reducible apply Keeps.ite
    | with_reducible apply Keeps.ite_fst
    | with_reducible apply Keeps.ite_snd
    | intro _
    | dsimp only
    | split
    | (refine Keeps.fst (by with_reducible assumption) ?_)
    | (refine Keeps.snd (by with_reducible assumption) ?_)
    | rfl
    | exact ⟨rfl, rfl⟩
    | exact ⟨rfl, rfl, rfl⟩
    | exact Memory.wf_clear (by assumption) _ _
    | exact Memory.wf_filter (by assumption) _
    | exact Memory.wf_writeBytes (by assumption) _ _
    | with_reducible apply Keeps.mk_all
    | assumption
    | simp_all [Run.ok])

theorem State.slabWork_keeps {a s : State} (h : Keeps a s) {x1 x2 x3 x4} : Keeps a (State.slabWork s x1 x2 x3 x4) := by
  unfold State.slabWork
  iterate 24 all_goals (try first
    | with_reducible assumption
    | with_reducible apply State.roundCount_keeps
    | with_reducible apply State.store_keeps
    | with_reducible apply State.saveMarked_keeps
    | with_reducible apply State.raise_keeps
    | with_reducible apply State.modSlab_keeps
    | with_reducible apply State.setProgress_keeps
    | (with_reducible apply foldl_keeps)
    | (with_reducible apply foldl_fst_keeps)
    | with_reducible apply Keeps.ite
    | with_reducible apply Keeps.ite_fst
    | with_reducible apply Keeps.ite_snd
    | intro _
    | dsimp only
    | split
    | (refine Keeps.fst (by with_reducible assumption) ?_)
    | (refine Keeps.snd (by with_reducible assumption) ?_)
    | rfl
    | exact ⟨rfl, rfl⟩
    | exact ⟨rfl, rfl, rfl⟩
    | exact Memory.wf_clear (by assumption) _ _
    | exact Memory.wf_filter (by assumption) _
    | exact Memory.wf_writeBytes (by assumption) _ _
    | with_reducible apply Keeps.mk_all
    | assumption
    | simp_all [Run.ok])

theorem State.slabResume_keeps {a s : State} (h : Keeps a s) {x1 x2 x3 x4} : Keeps a (State.slabResume s x1 x2 x3 x4) := by
  unfold State.slabResume
  iterate 24 all_goals (try first
    | with_reducible assumption
    | with_reducible apply State.store_keeps
    | with_reducible apply State.raise_keeps
    | with_reducible apply State.voteShards_keeps
    | with_reducible apply State.rederive_keeps
    | with_reducible apply State.modSlab_keeps
    | with_reducible apply State.setProgress_keeps
    | (with_reducible apply State.each_keeps; intro _ _ _)
    | (with_reducible apply foldl_keeps)
    | (with_reducible apply foldl_fst_keeps)
    | with_reducible apply Keeps.ite
    | with_reducible apply Keeps.ite_fst
    | with_reducible apply Keeps.ite_snd
    | intro _
    | dsimp only
    | split
    | (refine Keeps.fst (by with_reducible assumption) ?_)
    | (refine Keeps.snd (by with_reducible assumption) ?_)
    | rfl
    | exact ⟨rfl, rfl⟩
    | exact ⟨rfl, rfl, rfl⟩
    | exact Memory.wf_clear (by assumption) _ _
    | exact Memory.wf_filter (by assumption) _
    | exact Memory.wf_writeBytes (by assumption) _ _
    | with_reducible apply Keeps.mk_all
    | assumption
    | simp_all [Run.ok])

theorem State.slabBoundary_keeps {a s : State} (h : Keeps a s) {x1 x2 x3 x4} : Keeps a (State.slabBoundary s x1 x2 x3 x4) := by
  unfold State.slabBoundary
  iterate 24 all_goals (try first
    | with_reducible assumption
    | with_reducible apply State.meet_keeps
    | with_reducible apply State.readProgress_keeps
    | with_reducible apply State.slabWork_keeps
    | with_reducible apply State.slabResume_keeps
    | (with_reducible apply foldl_keeps)
    | (with_reducible apply foldl_fst_keeps)
    | with_reducible apply Keeps.ite
    | with_reducible apply Keeps.ite_fst
    | with_reducible apply Keeps.ite_snd
    | intro _
    | dsimp only
    | split
    | (refine Keeps.fst (by with_reducible assumption) ?_)
    | (refine Keeps.snd (by with_reducible assumption) ?_)
    | rfl
    | exact ⟨rfl, rfl⟩
    | exact ⟨rfl, rfl, rfl⟩
    | exact Memory.wf_clear (by assumption) _ _
    | exact Memory.wf_filter (by assumption) _
    | exact Memory.wf_writeBytes (by assumption) _ _
    | with_reducible apply Keeps.mk_all
    | assumption
    | simp_all [Run.ok])

theorem State.releaseSlot_keeps {a s : State} (h : Keeps a s) {x1 x2} : Keeps a (State.releaseSlot s x1 x2) := by
  unfold State.releaseSlot
  iterate 24 all_goals (try first
    | with_reducible assumption
    | with_reducible apply State.modOuter_keeps
    | with_reducible apply State.roundCount_keeps
    | with_reducible apply State.store_keeps
    | (with_reducible apply State.each_keeps; intro _ _ _)
    | (with_reducible apply foldl_keeps)
    | (with_reducible apply foldl_fst_keeps)
    | with_reducible apply Keeps.ite
    | with_reducible apply Keeps.ite_fst
    | with_reducible apply Keeps.ite_snd
    | intro _
    | dsimp only
    | split
    | (refine Keeps.fst (by with_reducible assumption) ?_)
    | (refine Keeps.snd (by with_reducible assumption) ?_)
    | rfl
    | exact ⟨rfl, rfl⟩
    | exact ⟨rfl, rfl, rfl⟩
    | exact Memory.wf_clear (by assumption) _ _
    | exact Memory.wf_filter (by assumption) _
    | exact Memory.wf_writeBytes (by assumption) _ _
    | with_reducible apply Keeps.mk_all
    | assumption
    | simp_all [Run.ok])

theorem State.pendingFolds_keeps {a s : State} (h : Keeps a s) {x1 x2} : Keeps a (State.pendingFolds s x1 x2) := by
  unfold State.pendingFolds
  iterate 24 all_goals (try first
    | with_reducible assumption
    | with_reducible apply State.modRun_keeps
    | with_reducible apply State.smithCommit_keeps
    | (with_reducible apply State.each_keeps; intro _ _ _)
    | (with_reducible apply foldl_keeps)
    | (with_reducible apply foldl_fst_keeps)
    | with_reducible apply Keeps.ite
    | with_reducible apply Keeps.ite_fst
    | with_reducible apply Keeps.ite_snd
    | intro _
    | dsimp only
    | split
    | (refine Keeps.fst (by with_reducible assumption) ?_)
    | (refine Keeps.snd (by with_reducible assumption) ?_)
    | rfl
    | exact ⟨rfl, rfl⟩
    | exact ⟨rfl, rfl, rfl⟩
    | exact Memory.wf_clear (by assumption) _ _
    | exact Memory.wf_filter (by assumption) _
    | exact Memory.wf_writeBytes (by assumption) _ _
    | with_reducible apply Keeps.mk_all
    | assumption
    | simp_all [Run.ok])

theorem State.loadSeals_keeps {a s : State} (h : Keeps a s) {x1} : Keeps a (State.loadSeals s x1) := by
  unfold State.loadSeals
  iterate 24 all_goals (try first
    | with_reducible assumption
    | with_reducible apply State.raise_keeps
    | with_reducible apply State.modSlab_keeps
    | (with_reducible apply State.each_keeps; intro _ _ _)
    | (with_reducible apply foldl_keeps)
    | (with_reducible apply foldl_fst_keeps)
    | with_reducible apply Keeps.ite
    | with_reducible apply Keeps.ite_fst
    | with_reducible apply Keeps.ite_snd
    | intro _
    | dsimp only
    | split
    | (refine Keeps.fst (by with_reducible assumption) ?_)
    | (refine Keeps.snd (by with_reducible assumption) ?_)
    | rfl
    | exact ⟨rfl, rfl⟩
    | exact ⟨rfl, rfl, rfl⟩
    | exact Memory.wf_clear (by assumption) _ _
    | exact Memory.wf_filter (by assumption) _
    | exact Memory.wf_writeBytes (by assumption) _ _
    | with_reducible apply Keeps.mk_all
    | assumption
    | simp_all [Run.ok])

theorem State.writeSealRec_keeps {a s : State} (h : Keeps a s) {x1 x2 x3 x4 x5 x6 x7} : Keeps a (State.writeSealRec s x1 x2 x3 x4 x5 x6 x7) := by
  unfold State.writeSealRec
  iterate 24 all_goals (try first
    | with_reducible assumption
    | with_reducible apply State.roundCount_keeps
    | with_reducible apply State.store_keeps
    | with_reducible apply State.remoteWrite_keeps
    | with_reducible apply State.hold_keeps
    | with_reducible apply State.modSlab_keeps
    | (with_reducible apply foldl_keeps)
    | (with_reducible apply foldl_fst_keeps)
    | with_reducible apply Keeps.ite
    | with_reducible apply Keeps.ite_fst
    | with_reducible apply Keeps.ite_snd
    | intro _
    | dsimp only
    | split
    | (refine Keeps.fst (by with_reducible assumption) ?_)
    | (refine Keeps.snd (by with_reducible assumption) ?_)
    | rfl
    | exact ⟨rfl, rfl⟩
    | exact ⟨rfl, rfl, rfl⟩
    | exact Memory.wf_clear (by assumption) _ _
    | exact Memory.wf_filter (by assumption) _
    | exact Memory.wf_writeBytes (by assumption) _ _
    | with_reducible apply Keeps.mk_all
    | assumption
    | simp_all [Run.ok])

theorem State.sealSlab_keeps {a s : State} (h : Keeps a s) {x1 x2 x3} : Keeps a (State.sealSlab s x1 x2 x3) := by
  unfold State.sealSlab
  iterate 24 all_goals (try first
    | with_reducible assumption
    | with_reducible apply State.writeSealRec_keeps
    | (with_reducible apply foldl_keeps)
    | (with_reducible apply foldl_fst_keeps)
    | with_reducible apply Keeps.ite
    | with_reducible apply Keeps.ite_fst
    | with_reducible apply Keeps.ite_snd
    | intro _
    | dsimp only
    | split
    | (refine Keeps.fst (by with_reducible assumption) ?_)
    | (refine Keeps.snd (by with_reducible assumption) ?_)
    | rfl
    | exact ⟨rfl, rfl⟩
    | exact ⟨rfl, rfl, rfl⟩
    | exact Memory.wf_clear (by assumption) _ _
    | exact Memory.wf_filter (by assumption) _
    | exact Memory.wf_writeBytes (by assumption) _ _
    | with_reducible apply Keeps.mk_all
    | assumption
    | simp_all [Run.ok])

theorem State.sealTest_keeps {a s : State} (h : Keeps a s) {x1 x2} : Keeps a (State.sealTest s x1 x2) := by
  unfold State.sealTest
  iterate 24 all_goals (try first
    | with_reducible assumption
    | with_reducible apply State.sealSlab_keeps
    | (with_reducible apply State.each_keeps; intro _ _ _)
    | (with_reducible apply foldl_keeps)
    | (with_reducible apply foldl_fst_keeps)
    | with_reducible apply Keeps.ite
    | with_reducible apply Keeps.ite_fst
    | with_reducible apply Keeps.ite_snd
    | intro _
    | dsimp only
    | split
    | (refine Keeps.fst (by with_reducible assumption) ?_)
    | (refine Keeps.snd (by with_reducible assumption) ?_)
    | rfl
    | exact ⟨rfl, rfl⟩
    | exact ⟨rfl, rfl, rfl⟩
    | exact Memory.wf_clear (by assumption) _ _
    | exact Memory.wf_filter (by assumption) _
    | exact Memory.wf_writeBytes (by assumption) _ _
    | with_reducible apply Keeps.mk_all
    | assumption
    | simp_all [Run.ok])

theorem State.heldTest_keeps {a s : State} (h : Keeps a s) {x1} : Keeps a (State.heldTest s x1) := by
  unfold State.heldTest
  iterate 24 all_goals (try first
    | with_reducible assumption
    | with_reducible apply State.sealTest_keeps
    | (with_reducible apply foldl_keeps)
    | (with_reducible apply foldl_fst_keeps)
    | with_reducible apply Keeps.ite
    | with_reducible apply Keeps.ite_fst
    | with_reducible apply Keeps.ite_snd
    | intro _
    | dsimp only
    | split
    | (refine Keeps.fst (by with_reducible assumption) ?_)
    | (refine Keeps.snd (by with_reducible assumption) ?_)
    | rfl
    | exact ⟨rfl, rfl⟩
    | exact ⟨rfl, rfl, rfl⟩
    | exact Memory.wf_clear (by assumption) _ _
    | exact Memory.wf_filter (by assumption) _
    | exact Memory.wf_writeBytes (by assumption) _ _
    | with_reducible apply Keeps.mk_all
    | assumption
    | simp_all [Run.ok])

theorem State.sealsLanded_keeps {a s : State} (h : Keeps a s) {x1 x2 x3} : Keeps a (State.sealsLanded s x1 x2 x3) := by
  unfold State.sealsLanded
  iterate 24 all_goals (try first
    | with_reducible assumption
    | with_reducible apply State.loadSeals_keeps
    | (with_reducible apply foldl_keeps)
    | (with_reducible apply foldl_fst_keeps)
    | with_reducible apply Keeps.ite
    | with_reducible apply Keeps.ite_fst
    | with_reducible apply Keeps.ite_snd
    | intro _
    | dsimp only
    | split
    | (refine Keeps.fst (by with_reducible assumption) ?_)
    | (refine Keeps.snd (by with_reducible assumption) ?_)
    | rfl
    | exact ⟨rfl, rfl⟩
    | exact ⟨rfl, rfl, rfl⟩
    | exact Memory.wf_clear (by assumption) _ _
    | exact Memory.wf_filter (by assumption) _
    | exact Memory.wf_writeBytes (by assumption) _ _
    | with_reducible apply Keeps.mk_all
    | assumption
    | simp_all [Run.ok])

theorem State.initWords_keeps {a s : State} (h : Keeps a s) {x1 x2} : Keeps a (State.initWords s x1 x2) := by
  unfold State.initWords
  iterate 24 all_goals (try first
    | with_reducible assumption
    | with_reducible apply State.store_keeps
    | (with_reducible apply State.each_keeps; intro _ _ _)
    | (with_reducible apply foldl_keeps)
    | (with_reducible apply foldl_fst_keeps)
    | with_reducible apply Keeps.ite
    | with_reducible apply Keeps.ite_fst
    | with_reducible apply Keeps.ite_snd
    | intro _
    | dsimp only
    | split
    | (refine Keeps.fst (by with_reducible assumption) ?_)
    | (refine Keeps.snd (by with_reducible assumption) ?_)
    | rfl
    | exact ⟨rfl, rfl⟩
    | exact ⟨rfl, rfl, rfl⟩
    | exact Memory.wf_clear (by assumption) _ _
    | exact Memory.wf_filter (by assumption) _
    | exact Memory.wf_writeBytes (by assumption) _ _
    | with_reducible apply Keeps.mk_all
    | assumption
    | simp_all [Run.ok])

theorem State.wordReleased_keeps {a s : State} (h : Keeps a s) {x1} : Keeps a (State.wordReleased s x1) := by
  unfold State.wordReleased
  iterate 24 all_goals (try first
    | with_reducible assumption
    | with_reducible apply State.roundCount_keeps
    | with_reducible apply State.unhold_keeps
    | (with_reducible apply foldl_keeps)
    | (with_reducible apply foldl_fst_keeps)
    | with_reducible apply Keeps.ite
    | with_reducible apply Keeps.ite_fst
    | with_reducible apply Keeps.ite_snd
    | intro _
    | dsimp only
    | split
    | (refine Keeps.fst (by with_reducible assumption) ?_)
    | (refine Keeps.snd (by with_reducible assumption) ?_)
    | rfl
    | exact ⟨rfl, rfl⟩
    | exact ⟨rfl, rfl, rfl⟩
    | exact Memory.wf_clear (by assumption) _ _
    | exact Memory.wf_filter (by assumption) _
    | exact Memory.wf_writeBytes (by assumption) _ _
    | with_reducible apply Keeps.mk_all
    | assumption
    | simp_all [Run.ok])

theorem State.wordHold_keeps {a s : State} (h : Keeps a s) {x1} : Keeps a (State.wordHold s x1) := by
  unfold State.wordHold
  iterate 24 all_goals (try first
    | with_reducible assumption
    | with_reducible apply State.modRun_keeps
    | with_reducible apply State.hold_keeps
    | (with_reducible apply foldl_keeps)
    | (with_reducible apply foldl_fst_keeps)
    | with_reducible apply Keeps.ite
    | with_reducible apply Keeps.ite_fst
    | with_reducible apply Keeps.ite_snd
    | intro _
    | dsimp only
    | split
    | (refine Keeps.fst (by with_reducible assumption) ?_)
    | (refine Keeps.snd (by with_reducible assumption) ?_)
    | rfl
    | exact ⟨rfl, rfl⟩
    | exact ⟨rfl, rfl, rfl⟩
    | exact Memory.wf_clear (by assumption) _ _
    | exact Memory.wf_filter (by assumption) _
    | exact Memory.wf_writeBytes (by assumption) _ _
    | with_reducible apply Keeps.mk_all
    | assumption
    | simp_all [Run.ok])

theorem State.roundRec_keeps {a s : State} (h : Keeps a s) {x1 x2} : Keeps a (State.roundRec s x1 x2) := by
  unfold State.roundRec
  iterate 24 all_goals (try first
    | with_reducible assumption
    | with_reducible apply State.modOuter_keeps
    | with_reducible apply State.recordPart_keeps
    | (with_reducible apply foldl_keeps)
    | (with_reducible apply foldl_fst_keeps)
    | with_reducible apply Keeps.ite
    | with_reducible apply Keeps.ite_fst
    | with_reducible apply Keeps.ite_snd
    | intro _
    | dsimp only
    | split
    | (refine Keeps.fst (by with_reducible assumption) ?_)
    | (refine Keeps.snd (by with_reducible assumption) ?_)
    | rfl
    | exact ⟨rfl, rfl⟩
    | exact ⟨rfl, rfl, rfl⟩
    | exact Memory.wf_clear (by assumption) _ _
    | exact Memory.wf_filter (by assumption) _
    | exact Memory.wf_writeBytes (by assumption) _ _
    | with_reducible apply Keeps.mk_all
    | assumption
    | simp_all [Run.ok])

theorem State.restart_keeps {a s : State} (h : Keeps a s) {x1 x2 x3} : Keeps a (State.restart s x1 x2 x3) := by
  unfold State.restart
  iterate 24 all_goals (try first
    | with_reducible assumption
    | with_reducible apply State.store_keeps
    | with_reducible apply State.writeGen_keeps
    | with_reducible apply State.writeWork_keeps
    | (with_reducible apply foldl_keeps)
    | (with_reducible apply foldl_fst_keeps)
    | with_reducible apply Keeps.ite
    | with_reducible apply Keeps.ite_fst
    | with_reducible apply Keeps.ite_snd
    | intro _
    | dsimp only
    | split
    | (refine Keeps.fst (by with_reducible assumption) ?_)
    | (refine Keeps.snd (by with_reducible assumption) ?_)
    | rfl
    | exact ⟨rfl, rfl⟩
    | exact ⟨rfl, rfl, rfl⟩
    | exact Memory.wf_clear (by assumption) _ _
    | exact Memory.wf_filter (by assumption) _
    | exact Memory.wf_writeBytes (by assumption) _ _
    | with_reducible apply Keeps.mk_all
    | assumption
    | simp_all [Run.ok])

theorem State.initOuter_keeps {a s : State} (h : Keeps a s) {x1} : Keeps a (State.initOuter s x1) := by
  unfold State.initOuter
  iterate 24 all_goals (try first
    | with_reducible assumption
    | with_reducible apply State.store_keeps
    | with_reducible apply State.saveMarked_keeps
    | with_reducible apply State.modSlab_keeps
    | with_reducible apply State.setProgress_keeps
    | with_reducible apply State.clearRecords_keeps
    | with_reducible apply State.initWords_keeps
    | (with_reducible apply State.each_keeps; intro _ _ _)
    | (with_reducible apply foldl_keeps)
    | (with_reducible apply foldl_fst_keeps)
    | with_reducible apply Keeps.ite
    | with_reducible apply Keeps.ite_fst
    | with_reducible apply Keeps.ite_snd
    | intro _
    | dsimp only
    | split
    | (refine Keeps.fst (by with_reducible assumption) ?_)
    | (refine Keeps.snd (by with_reducible assumption) ?_)
    | rfl
    | exact ⟨rfl, rfl⟩
    | exact ⟨rfl, rfl, rfl⟩
    | exact Memory.wf_clear (by assumption) _ _
    | exact Memory.wf_filter (by assumption) _
    | exact Memory.wf_writeBytes (by assumption) _ _
    | with_reducible apply Keeps.mk_all
    | assumption
    | simp_all [Run.ok])

theorem State.installJob_keeps {a s : State} (h : Keeps a s) {x1 x2 x3 x4} : Keeps a (State.installJob s x1 x2 x3 x4) := by
  unfold State.installJob
  iterate 24 all_goals (try first
    | with_reducible assumption
    | with_reducible apply State.modPart_keeps
    | with_reducible apply State.modOuter_keeps
    | with_reducible apply State.writeGen_keeps
    | with_reducible apply State.restart_keeps
    | with_reducible apply State.initOuter_keeps
    | (with_reducible apply State.each_keeps; intro _ _ _)
    | (with_reducible apply foldl_keeps)
    | (with_reducible apply foldl_fst_keeps)
    | with_reducible apply Keeps.ite
    | with_reducible apply Keeps.ite_fst
    | with_reducible apply Keeps.ite_snd
    | intro _
    | dsimp only
    | split
    | (refine Keeps.fst (by with_reducible assumption) ?_)
    | (refine Keeps.snd (by with_reducible assumption) ?_)
    | rfl
    | exact ⟨rfl, rfl⟩
    | exact ⟨rfl, rfl, rfl⟩
    | exact Memory.wf_clear (by assumption) _ _
    | exact Memory.wf_filter (by assumption) _
    | exact Memory.wf_writeBytes (by assumption) _ _
    | with_reducible apply Keeps.mk_all
    | assumption
    | simp_all [Run.ok])

theorem State.loadJob_keeps {a s : State} (h : Keeps a s) {x1 x2} {t : State} (e : State.loadJob s x1 x2 = some t) : Keeps a t := by
  unfold State.loadJob at e
  repeat' split at e
  all_goals first | (cases e; done) | skip
  all_goals (cases e)
  all_goals exact State.installJob_keeps h

theorem State.applyLayout_keeps {a s : State} (h : Keeps a s) {x1 x2 x3} : Keeps a (State.applyLayout s x1 x2 x3) := by
  unfold State.applyLayout
  iterate 24 all_goals (try first
    | with_reducible assumption
    | with_reducible apply State.modPart_keeps
    | with_reducible apply State.modRun_keeps
    | with_reducible apply State.startMoves_keeps
    | (with_reducible apply foldl_keeps)
    | (with_reducible apply foldl_fst_keeps)
    | with_reducible apply Keeps.ite
    | with_reducible apply Keeps.ite_fst
    | with_reducible apply Keeps.ite_snd
    | intro _
    | dsimp only
    | split
    | (refine Keeps.fst (by with_reducible assumption) ?_)
    | (refine Keeps.snd (by with_reducible assumption) ?_)
    | rfl
    | exact ⟨rfl, rfl⟩
    | exact ⟨rfl, rfl, rfl⟩
    | exact Memory.wf_clear (by assumption) _ _
    | exact Memory.wf_filter (by assumption) _
    | exact Memory.wf_writeBytes (by assumption) _ _
    | with_reducible apply Keeps.mk_all
    | assumption
    | simp_all [Run.ok])

theorem State.applyForced_keeps {a s : State} (h : Keeps a s) {x1 x2 x3} : Keeps a (State.applyForced s x1 x2 x3) := by
  unfold State.applyForced
  iterate 24 all_goals (try first
    | with_reducible assumption
    | with_reducible apply State.applyLayout_keeps
    | (with_reducible apply foldl_keeps)
    | (with_reducible apply foldl_fst_keeps)
    | with_reducible apply Keeps.ite
    | with_reducible apply Keeps.ite_fst
    | with_reducible apply Keeps.ite_snd
    | intro _
    | dsimp only
    | split
    | (refine Keeps.fst (by with_reducible assumption) ?_)
    | (refine Keeps.snd (by with_reducible assumption) ?_)
    | rfl
    | exact ⟨rfl, rfl⟩
    | exact ⟨rfl, rfl, rfl⟩
    | exact Memory.wf_clear (by assumption) _ _
    | exact Memory.wf_filter (by assumption) _
    | exact Memory.wf_writeBytes (by assumption) _ _
    | with_reducible apply Keeps.mk_all
    | assumption
    | simp_all [Run.ok])

theorem State.roundLayout_keeps {a s : State} (h : Keeps a s) {x1} : Keeps a (State.roundLayout s x1) := by
  unfold State.roundLayout
  iterate 24 all_goals (try first
    | with_reducible assumption
    | with_reducible apply State.modPart_keeps
    | with_reducible apply State.applyForced_keeps
    | (with_reducible apply foldl_keeps)
    | (with_reducible apply foldl_fst_keeps)
    | with_reducible apply Keeps.ite
    | with_reducible apply Keeps.ite_fst
    | with_reducible apply Keeps.ite_snd
    | intro _
    | dsimp only
    | split
    | (refine Keeps.fst (by with_reducible assumption) ?_)
    | (refine Keeps.snd (by with_reducible assumption) ?_)
    | rfl
    | exact ⟨rfl, rfl⟩
    | exact ⟨rfl, rfl, rfl⟩
    | exact Memory.wf_clear (by assumption) _ _
    | exact Memory.wf_filter (by assumption) _
    | exact Memory.wf_writeBytes (by assumption) _ _
    | with_reducible apply Keeps.mk_all
    | assumption
    | simp_all [Run.ok])

theorem State.modQp_keeps {a s : State} (h : Keeps a s) {x1 x2} : Keeps a (State.modQp s x1 x2) := by
  unfold State.modQp
  iterate 24 all_goals (try first
    | with_reducible assumption
    | with_reducible apply State.modNet_keeps
    | (with_reducible apply foldl_keeps)
    | (with_reducible apply foldl_fst_keeps)
    | with_reducible apply Keeps.ite
    | with_reducible apply Keeps.ite_fst
    | with_reducible apply Keeps.ite_snd
    | intro _
    | dsimp only
    | split
    | (refine Keeps.fst (by with_reducible assumption) ?_)
    | (refine Keeps.snd (by with_reducible assumption) ?_)
    | rfl
    | exact ⟨rfl, rfl⟩
    | exact ⟨rfl, rfl, rfl⟩
    | exact Memory.wf_clear (by assumption) _ _
    | exact Memory.wf_filter (by assumption) _
    | exact Memory.wf_writeBytes (by assumption) _ _
    | with_reducible apply Keeps.mk_all
    | assumption
    | simp_all [Run.ok])

theorem State.hostFrame_keeps {a s : State} (h : Keeps a s) {x1 x2 x3} : Keeps a (State.hostFrame s x1 x2 x3) := by
  unfold State.hostFrame
  iterate 24 all_goals (try first
    | with_reducible assumption
    | with_reducible apply State.egress_keeps
    | (with_reducible apply foldl_keeps)
    | (with_reducible apply foldl_fst_keeps)
    | with_reducible apply Keeps.ite
    | with_reducible apply Keeps.ite_fst
    | with_reducible apply Keeps.ite_snd
    | intro _
    | dsimp only
    | split
    | (refine Keeps.fst (by with_reducible assumption) ?_)
    | (refine Keeps.snd (by with_reducible assumption) ?_)
    | rfl
    | exact ⟨rfl, rfl⟩
    | exact ⟨rfl, rfl, rfl⟩
    | exact Memory.wf_clear (by assumption) _ _
    | exact Memory.wf_filter (by assumption) _
    | exact Memory.wf_writeBytes (by assumption) _ _
    | with_reducible apply Keeps.mk_all
    | assumption
    | simp_all [Run.ok])

theorem State.writeFrame_keeps {a s : State} (h : Keeps a s) {x1 x2} : Keeps a (State.writeFrame s x1 x2) := by
  unfold State.writeFrame
  iterate 24 all_goals (try first
    | with_reducible assumption
    | with_reducible apply State.hostFrame_keeps
    | (with_reducible apply foldl_keeps)
    | (with_reducible apply foldl_fst_keeps)
    | with_reducible apply Keeps.ite
    | with_reducible apply Keeps.ite_fst
    | with_reducible apply Keeps.ite_snd
    | intro _
    | dsimp only
    | split
    | (refine Keeps.fst (by with_reducible assumption) ?_)
    | (refine Keeps.snd (by with_reducible assumption) ?_)
    | rfl
    | exact ⟨rfl, rfl⟩
    | exact ⟨rfl, rfl, rfl⟩
    | exact Memory.wf_clear (by assumption) _ _
    | exact Memory.wf_filter (by assumption) _
    | exact Memory.wf_writeBytes (by assumption) _ _
    | with_reducible apply Keeps.mk_all
    | assumption
    | simp_all [Run.ok])

theorem State.hostWrite_keeps {a s : State} (h : Keeps a s) {x1 x2 x3 x4 x5} : Keeps a (State.hostWrite s x1 x2 x3 x4 x5).1 := by
  unfold State.hostWrite
  iterate 24 all_goals (try first
    | with_reducible assumption
    | with_reducible apply State.modQp_keeps
    | with_reducible apply State.writeFrame_keeps
    | (with_reducible apply State.each_keeps; intro _ _ _)
    | (with_reducible apply foldl_keeps)
    | (with_reducible apply foldl_fst_keeps)
    | with_reducible apply Keeps.ite
    | with_reducible apply Keeps.ite_fst
    | with_reducible apply Keeps.ite_snd
    | intro _
    | dsimp only
    | split
    | (refine Keeps.fst (by with_reducible assumption) ?_)
    | (refine Keeps.snd (by with_reducible assumption) ?_)
    | rfl
    | exact ⟨rfl, rfl⟩
    | exact ⟨rfl, rfl, rfl⟩
    | exact Memory.wf_clear (by assumption) _ _
    | exact Memory.wf_filter (by assumption) _
    | exact Memory.wf_writeBytes (by assumption) _ _
    | with_reducible apply Keeps.mk_all
    | assumption
    | simp_all [Run.ok])

theorem State.modBg_keeps {a s : State} (h : Keeps a s) {x1 x2 x3} : Keeps a (State.modBg s x1 x2 x3) := by
  unfold State.modBg
  iterate 24 all_goals (try first
    | with_reducible assumption
    | with_reducible apply State.modPart_keeps
    | (with_reducible apply foldl_keeps)
    | (with_reducible apply foldl_fst_keeps)
    | with_reducible apply Keeps.ite
    | with_reducible apply Keeps.ite_fst
    | with_reducible apply Keeps.ite_snd
    | intro _
    | dsimp only
    | split
    | (refine Keeps.fst (by with_reducible assumption) ?_)
    | (refine Keeps.snd (by with_reducible assumption) ?_)
    | rfl
    | exact ⟨rfl, rfl⟩
    | exact ⟨rfl, rfl, rfl⟩
    | exact Memory.wf_clear (by assumption) _ _
    | exact Memory.wf_filter (by assumption) _
    | exact Memory.wf_writeBytes (by assumption) _ _
    | with_reducible apply Keeps.mk_all
    | assumption
    | simp_all [Run.ok])

theorem State.dropBg_keeps {a s : State} (h : Keeps a s) {x1 x2} : Keeps a (State.dropBg s x1 x2) := by
  unfold State.dropBg
  iterate 24 all_goals (try first
    | with_reducible assumption
    | with_reducible apply State.modPart_keeps
    | (with_reducible apply foldl_keeps)
    | (with_reducible apply foldl_fst_keeps)
    | with_reducible apply Keeps.ite
    | with_reducible apply Keeps.ite_fst
    | with_reducible apply Keeps.ite_snd
    | intro _
    | dsimp only
    | split
    | (refine Keeps.fst (by with_reducible assumption) ?_)
    | (refine Keeps.snd (by with_reducible assumption) ?_)
    | rfl
    | exact ⟨rfl, rfl⟩
    | exact ⟨rfl, rfl, rfl⟩
    | exact Memory.wf_clear (by assumption) _ _
    | exact Memory.wf_filter (by assumption) _
    | exact Memory.wf_writeBytes (by assumption) _ _
    | with_reducible apply Keeps.mk_all
    | assumption
    | simp_all [Run.ok])

theorem State.addBg_keeps {a s : State} (h : Keeps a s) {x1 x2} : Keeps a (State.addBg s x1 x2) := by
  unfold State.addBg
  iterate 24 all_goals (try first
    | with_reducible assumption
    | with_reducible apply State.modPart_keeps
    | (with_reducible apply foldl_keeps)
    | (with_reducible apply foldl_fst_keeps)
    | with_reducible apply Keeps.ite
    | with_reducible apply Keeps.ite_fst
    | with_reducible apply Keeps.ite_snd
    | intro _
    | dsimp only
    | split
    | (refine Keeps.fst (by with_reducible assumption) ?_)
    | (refine Keeps.snd (by with_reducible assumption) ?_)
    | rfl
    | exact ⟨rfl, rfl⟩
    | exact ⟨rfl, rfl, rfl⟩
    | exact Memory.wf_clear (by assumption) _ _
    | exact Memory.wf_filter (by assumption) _
    | exact Memory.wf_writeBytes (by assumption) _ _
    | with_reducible apply Keeps.mk_all
    | assumption
    | simp_all [Run.ok])

theorem State.pieceBytes_keeps {a s : State} (h : Keeps a s) {x1 x2 x3} : Keeps a (State.pieceBytes s x1 x2 x3).1 := by
  unfold State.pieceBytes
  iterate 24 all_goals (try first
    | with_reducible assumption
    | with_reducible apply State.addrErr_keeps
    | (with_reducible apply foldl_keeps)
    | (with_reducible apply foldl_fst_keeps)
    | with_reducible apply Keeps.ite
    | with_reducible apply Keeps.ite_fst
    | with_reducible apply Keeps.ite_snd
    | intro _
    | dsimp only
    | split
    | (refine Keeps.fst (by with_reducible assumption) ?_)
    | (refine Keeps.snd (by with_reducible assumption) ?_)
    | rfl
    | exact ⟨rfl, rfl⟩
    | exact ⟨rfl, rfl, rfl⟩
    | exact Memory.wf_clear (by assumption) _ _
    | exact Memory.wf_filter (by assumption) _
    | exact Memory.wf_writeBytes (by assumption) _ _
    | with_reducible apply Keeps.mk_all
    | assumption
    | simp_all [Run.ok])

theorem State.pieceSent_keeps {a s : State} (h : Keeps a s) {x1 x2 x3 x4} : Keeps a (State.pieceSent s x1 x2 x3 x4) := by
  unfold State.pieceSent
  iterate 24 all_goals (try first
    | with_reducible assumption
    | with_reducible apply State.slagBite_keeps
    | with_reducible apply State.modBg_keeps
    | (with_reducible apply foldl_keeps)
    | (with_reducible apply foldl_fst_keeps)
    | with_reducible apply Keeps.ite
    | with_reducible apply Keeps.ite_fst
    | with_reducible apply Keeps.ite_snd
    | intro _
    | dsimp only
    | split
    | (refine Keeps.fst (by with_reducible assumption) ?_)
    | (refine Keeps.snd (by with_reducible assumption) ?_)
    | rfl
    | exact ⟨rfl, rfl⟩
    | exact ⟨rfl, rfl, rfl⟩
    | exact Memory.wf_clear (by assumption) _ _
    | exact Memory.wf_filter (by assumption) _
    | exact Memory.wf_writeBytes (by assumption) _ _
    | with_reducible apply Keeps.mk_all
    | assumption
    | simp_all [Run.ok])

theorem State.sendPiece_keeps {a s : State} (h : Keeps a s) {x1 x2 x3} (hF : ∀ t, Keeps a t → Keeps a (x3 t)) : Keeps a (State.sendPiece s x1 x2 x3) := by
  unfold State.sendPiece
  iterate 24 all_goals (try first
    | with_reducible assumption
    | with_reducible apply hF
    | with_reducible apply State.hostWrite_keeps
    | with_reducible apply State.pieceBytes_keeps
    | with_reducible apply State.pieceSent_keeps
    | (with_reducible apply foldl_keeps)
    | (with_reducible apply foldl_fst_keeps)
    | with_reducible apply Keeps.ite
    | with_reducible apply Keeps.ite_fst
    | with_reducible apply Keeps.ite_snd
    | intro _
    | dsimp only
    | split
    | (refine Keeps.fst (by with_reducible assumption) ?_)
    | (refine Keeps.snd (by with_reducible assumption) ?_)
    | rfl
    | exact ⟨rfl, rfl⟩
    | exact ⟨rfl, rfl, rfl⟩
    | exact Memory.wf_clear (by assumption) _ _
    | exact Memory.wf_filter (by assumption) _
    | exact Memory.wf_writeBytes (by assumption) _ _
    | with_reducible apply Keeps.mk_all
    | assumption
    | simp_all [Run.ok])

theorem State.renewCapture_keeps {a s : State} (h : Keeps a s) {x1 x2} : Keeps a (State.renewCapture s x1 x2) := by
  unfold State.renewCapture
  iterate 24 all_goals (try first
    | with_reducible assumption
    | with_reducible apply State.modBg_keeps
    | (with_reducible apply foldl_keeps)
    | (with_reducible apply foldl_fst_keeps)
    | with_reducible apply Keeps.ite
    | with_reducible apply Keeps.ite_fst
    | with_reducible apply Keeps.ite_snd
    | intro _
    | dsimp only
    | split
    | (refine Keeps.fst (by with_reducible assumption) ?_)
    | (refine Keeps.snd (by with_reducible assumption) ?_)
    | rfl
    | exact ⟨rfl, rfl⟩
    | exact ⟨rfl, rfl, rfl⟩
    | exact Memory.wf_clear (by assumption) _ _
    | exact Memory.wf_filter (by assumption) _
    | exact Memory.wf_writeBytes (by assumption) _ _
    | with_reducible apply Keeps.mk_all
    | assumption
    | simp_all [Run.ok])

theorem State.armedBoundary_keeps {a s : State} (h : Keeps a s) {x1 x2} : Keeps a (State.armedBoundary s x1 x2) := by
  unfold State.armedBoundary
  iterate 24 all_goals (try first
    | with_reducible assumption
    | with_reducible apply State.modPart_keeps
    | with_reducible apply State.modRun_keeps
    | with_reducible apply State.notice_keeps
    | with_reducible apply State.addBg_keeps
    | (with_reducible apply foldl_keeps)
    | (with_reducible apply foldl_fst_keeps)
    | with_reducible apply Keeps.ite
    | with_reducible apply Keeps.ite_fst
    | with_reducible apply Keeps.ite_snd
    | intro _
    | dsimp only
    | split
    | (refine Keeps.fst (by with_reducible assumption) ?_)
    | (refine Keeps.snd (by with_reducible assumption) ?_)
    | rfl
    | exact ⟨rfl, rfl⟩
    | exact ⟨rfl, rfl, rfl⟩
    | exact Memory.wf_clear (by assumption) _ _
    | exact Memory.wf_filter (by assumption) _
    | exact Memory.wf_writeBytes (by assumption) _ _
    | with_reducible apply Keeps.mk_all
    | assumption
    | simp_all [Run.ok])

theorem State.missedBoundary_keeps {a s : State} (h : Keeps a s) {x1 x2 x3} : Keeps a (State.missedBoundary s x1 x2 x3) := by
  unfold State.missedBoundary
  iterate 24 all_goals (try first
    | with_reducible assumption
    | with_reducible apply State.modPart_keeps
    | with_reducible apply State.armedBoundary_keeps
    | (with_reducible apply foldl_keeps)
    | (with_reducible apply foldl_fst_keeps)
    | with_reducible apply Keeps.ite
    | with_reducible apply Keeps.ite_fst
    | with_reducible apply Keeps.ite_snd
    | intro _
    | dsimp only
    | split
    | (refine Keeps.fst (by with_reducible assumption) ?_)
    | (refine Keeps.snd (by with_reducible assumption) ?_)
    | rfl
    | exact ⟨rfl, rfl⟩
    | exact ⟨rfl, rfl, rfl⟩
    | exact Memory.wf_clear (by assumption) _ _
    | exact Memory.wf_filter (by assumption) _
    | exact Memory.wf_writeBytes (by assumption) _ _
    | with_reducible apply Keeps.mk_all
    | assumption
    | simp_all [Run.ok])

theorem State.captureShard_keeps {a s : State} (h : Keeps a s) {x1 x2 x3} : Keeps a (State.captureShard s x1 x2 x3) := by
  unfold State.captureShard
  iterate 24 all_goals (try first
    | with_reducible assumption
    | with_reducible apply State.modPart_keeps
    | with_reducible apply State.saveMarked_keeps
    | with_reducible apply State.voteShards_keeps
    | with_reducible apply State.modBg_keeps
    | with_reducible apply State.renewCapture_keeps
    | (with_reducible apply foldl_keeps)
    | (with_reducible apply foldl_fst_keeps)
    | with_reducible apply Keeps.ite
    | with_reducible apply Keeps.ite_fst
    | with_reducible apply Keeps.ite_snd
    | intro _
    | dsimp only
    | split
    | (refine Keeps.fst (by with_reducible assumption) ?_)
    | (refine Keeps.snd (by with_reducible assumption) ?_)
    | rfl
    | exact ⟨rfl, rfl⟩
    | exact ⟨rfl, rfl, rfl⟩
    | exact Memory.wf_clear (by assumption) _ _
    | exact Memory.wf_filter (by assumption) _
    | exact Memory.wf_writeBytes (by assumption) _ _
    | with_reducible apply Keeps.mk_all
    | assumption
    | simp_all [Run.ok])

theorem State.finishCapture_keeps {a s : State} (h : Keeps a s) {x1 x2} : Keeps a (State.finishCapture s x1 x2) := by
  unfold State.finishCapture
  iterate 24 all_goals (try first
    | with_reducible assumption
    | with_reducible apply State.captureShard_keeps
    | (with_reducible apply State.each_keeps; intro _ _ _)
    | (with_reducible apply foldl_keeps)
    | (with_reducible apply foldl_fst_keeps)
    | with_reducible apply Keeps.ite
    | with_reducible apply Keeps.ite_fst
    | with_reducible apply Keeps.ite_snd
    | intro _
    | dsimp only
    | split
    | (refine Keeps.fst (by with_reducible assumption) ?_)
    | (refine Keeps.snd (by with_reducible assumption) ?_)
    | rfl
    | exact ⟨rfl, rfl⟩
    | exact ⟨rfl, rfl, rfl⟩
    | exact Memory.wf_clear (by assumption) _ _
    | exact Memory.wf_filter (by assumption) _
    | exact Memory.wf_writeBytes (by assumption) _ _
    | with_reducible apply Keeps.mk_all
    | assumption
    | simp_all [Run.ok])

theorem State.sealPart_keeps {a s : State} (h : Keeps a s) {x1 x2} : Keeps a (State.sealPart s x1 x2) := by
  unfold State.sealPart
  iterate 24 all_goals (try first
    | with_reducible assumption
    | with_reducible apply State.store_keeps
    | with_reducible apply State.slagBite_keeps
    | with_reducible apply State.modBg_keeps
    | (with_reducible apply State.each_keeps; intro _ _ _)
    | (with_reducible apply foldl_keeps)
    | (with_reducible apply foldl_fst_keeps)
    | with_reducible apply Keeps.ite
    | with_reducible apply Keeps.ite_fst
    | with_reducible apply Keeps.ite_snd
    | intro _
    | dsimp only
    | split
    | (refine Keeps.fst (by with_reducible assumption) ?_)
    | (refine Keeps.snd (by with_reducible assumption) ?_)
    | rfl
    | exact ⟨rfl, rfl⟩
    | exact ⟨rfl, rfl, rfl⟩
    | exact Memory.wf_clear (by assumption) _ _
    | exact Memory.wf_filter (by assumption) _
    | exact Memory.wf_writeBytes (by assumption) _ _
    | with_reducible apply Keeps.mk_all
    | assumption
    | simp_all [Run.ok])

theorem doBackgroundPieceFeed_keeps {a s : State} (h : Keeps a s) {x1 x2 x3} : Keeps a (doBackgroundPieceFeed x1 x2 x3 s) := by
  unfold doBackgroundPieceFeed
  iterate 24 all_goals (try first
    | with_reducible assumption
    | with_reducible apply State.readEcc_keeps
    | with_reducible apply State.sendFail_keeps
    | with_reducible apply State.modBg_keeps
    | with_reducible apply State.dropBg_keeps
    | with_reducible apply State.sendPiece_keeps
    | with_reducible apply State.captureShard_keeps
    | with_reducible apply State.sealPart_keeps
    | (with_reducible apply foldl_keeps)
    | (with_reducible apply foldl_fst_keeps)
    | with_reducible apply Keeps.ite
    | with_reducible apply Keeps.ite_fst
    | with_reducible apply Keeps.ite_snd
    | intro _
    | dsimp only
    | split
    | (refine Keeps.fst (by with_reducible assumption) ?_)
    | (refine Keeps.snd (by with_reducible assumption) ?_)
    | rfl
    | exact ⟨rfl, rfl⟩
    | exact ⟨rfl, rfl, rfl⟩
    | exact Memory.wf_clear (by assumption) _ _
    | exact Memory.wf_filter (by assumption) _
    | exact Memory.wf_writeBytes (by assumption) _ _
    | with_reducible apply Keeps.mk_all
    | assumption
    | simp_all [Run.ok])

theorem execBackgroundPieceFeed_keeps {s t : State} {x1 x2 x3} (e : execBackgroundPieceFeed x1 x2 x3 s = .next t) : Keeps s t := by
  refine answer_keeps e ?_
  have h := Keeps.refl s
  iterate 24 all_goals (try first
    | with_reducible assumption
    | with_reducible apply doBackgroundPieceFeed_keeps
    | (with_reducible apply foldl_keeps)
    | (with_reducible apply foldl_fst_keeps)
    | with_reducible apply Keeps.ite
    | with_reducible apply Keeps.ite_fst
    | with_reducible apply Keeps.ite_snd
    | intro _
    | dsimp only
    | split
    | (refine Keeps.fst (by with_reducible assumption) ?_)
    | (refine Keeps.snd (by with_reducible assumption) ?_)
    | rfl
    | exact ⟨rfl, rfl⟩
    | exact ⟨rfl, rfl, rfl⟩
    | exact Memory.wf_clear (by assumption) _ _
    | exact Memory.wf_filter (by assumption) _
    | exact Memory.wf_writeBytes (by assumption) _ _
    | with_reducible apply Keeps.mk_all
    | assumption
    | simp_all [Run.ok])

theorem State.landed_keeps {a s : State} (h : Keeps a s) {x1} : Keeps a (State.landed s x1) := by
  unfold State.landed
  iterate 24 all_goals (try first
    | with_reducible assumption
    | with_reducible apply State.modNet_keeps
    | (with_reducible apply foldl_keeps)
    | (with_reducible apply foldl_fst_keeps)
    | with_reducible apply Keeps.ite
    | with_reducible apply Keeps.ite_fst
    | with_reducible apply Keeps.ite_snd
    | intro _
    | dsimp only
    | split
    | (refine Keeps.fst (by with_reducible assumption) ?_)
    | (refine Keeps.snd (by with_reducible assumption) ?_)
    | rfl
    | exact ⟨rfl, rfl⟩
    | exact ⟨rfl, rfl, rfl⟩
    | exact Memory.wf_clear (by assumption) _ _
    | exact Memory.wf_filter (by assumption) _
    | exact Memory.wf_writeBytes (by assumption) _ _
    | with_reducible apply Keeps.mk_all
    | assumption
    | simp_all [Run.ok])

theorem doHostTransferAck_keeps {a s : State} (h : Keeps a s) {x1 x2} : Keeps a (doHostTransferAck x1 x2 s) := by
  unfold doHostTransferAck
  iterate 24 all_goals (try first
    | with_reducible assumption
    | with_reducible apply State.modPart_keeps
    | with_reducible apply State.modStream_keeps
    | with_reducible apply State.dropBg_keeps
    | with_reducible apply State.landed_keeps
    | (with_reducible apply foldl_keeps)
    | (with_reducible apply foldl_fst_keeps)
    | with_reducible apply Keeps.ite
    | with_reducible apply Keeps.ite_fst
    | with_reducible apply Keeps.ite_snd
    | intro _
    | dsimp only
    | split
    | (refine Keeps.fst (by with_reducible assumption) ?_)
    | (refine Keeps.snd (by with_reducible assumption) ?_)
    | rfl
    | exact ⟨rfl, rfl⟩
    | exact ⟨rfl, rfl, rfl⟩
    | exact Memory.wf_clear (by assumption) _ _
    | exact Memory.wf_filter (by assumption) _
    | exact Memory.wf_writeBytes (by assumption) _ _
    | with_reducible apply Keeps.mk_all
    | assumption
    | simp_all [Run.ok])

theorem execHostTransferAck_keeps {s t : State} {x1 x2} (e : execHostTransferAck x1 x2 s = .next t) : Keeps s t := by
  refine answer_keeps e ?_
  have h := Keeps.refl s
  iterate 24 all_goals (try first
    | with_reducible assumption
    | with_reducible apply doHostTransferAck_keeps
    | (with_reducible apply foldl_keeps)
    | (with_reducible apply foldl_fst_keeps)
    | with_reducible apply Keeps.ite
    | with_reducible apply Keeps.ite_fst
    | with_reducible apply Keeps.ite_snd
    | intro _
    | dsimp only
    | split
    | (refine Keeps.fst (by with_reducible assumption) ?_)
    | (refine Keeps.snd (by with_reducible assumption) ?_)
    | rfl
    | exact ⟨rfl, rfl⟩
    | exact ⟨rfl, rfl, rfl⟩
    | exact Memory.wf_clear (by assumption) _ _
    | exact Memory.wf_filter (by assumption) _
    | exact Memory.wf_writeBytes (by assumption) _ _
    | with_reducible apply Keeps.mk_all
    | assumption
    | simp_all [Run.ok])

theorem State.failTransfer_keeps {a s : State} (h : Keeps a s) {x1 x2} : Keeps a (State.failTransfer s x1 x2) := by
  unfold State.failTransfer
  iterate 24 all_goals (try first
    | with_reducible assumption
    | with_reducible apply State.sendFail_keeps
    | with_reducible apply State.modBg_keeps
    | with_reducible apply State.dropBg_keeps
    | (with_reducible apply foldl_keeps)
    | (with_reducible apply foldl_fst_keeps)
    | with_reducible apply Keeps.ite
    | with_reducible apply Keeps.ite_fst
    | with_reducible apply Keeps.ite_snd
    | intro _
    | dsimp only
    | split
    | (refine Keeps.fst (by with_reducible assumption) ?_)
    | (refine Keeps.snd (by with_reducible assumption) ?_)
    | rfl
    | exact ⟨rfl, rfl⟩
    | exact ⟨rfl, rfl, rfl⟩
    | exact Memory.wf_clear (by assumption) _ _
    | exact Memory.wf_filter (by assumption) _
    | exact Memory.wf_writeBytes (by assumption) _ _
    | with_reducible apply Keeps.mk_all
    | assumption
    | simp_all [Run.ok])

theorem State.qpError_keeps {a s : State} (h : Keeps a s) {x1} : Keeps a (State.qpError s x1) := by
  unfold State.qpError
  iterate 24 all_goals (try first
    | with_reducible assumption
    | with_reducible apply State.modNet_keeps
    | with_reducible apply State.modStream_keeps
    | with_reducible apply State.modQp_keeps
    | with_reducible apply State.failTransfer_keeps
    | (with_reducible apply State.each_keeps; intro _ _ _)
    | (with_reducible apply foldl_keeps)
    | (with_reducible apply foldl_fst_keeps)
    | with_reducible apply Keeps.ite
    | with_reducible apply Keeps.ite_fst
    | with_reducible apply Keeps.ite_snd
    | intro _
    | dsimp only
    | split
    | (refine Keeps.fst (by with_reducible assumption) ?_)
    | (refine Keeps.snd (by with_reducible assumption) ?_)
    | rfl
    | exact ⟨rfl, rfl⟩
    | exact ⟨rfl, rfl, rfl⟩
    | exact Memory.wf_clear (by assumption) _ _
    | exact Memory.wf_filter (by assumption) _
    | exact Memory.wf_writeBytes (by assumption) _ _
    | with_reducible apply Keeps.mk_all
    | assumption
    | simp_all [Run.ok])

theorem doHostWriteFail_keeps {a s : State} (h : Keeps a s) {x1} : Keeps a (doHostWriteFail x1 s) := by
  unfold doHostWriteFail
  iterate 24 all_goals (try first
    | with_reducible assumption
    | with_reducible apply State.qpError_keeps
    | (with_reducible apply foldl_keeps)
    | (with_reducible apply foldl_fst_keeps)
    | with_reducible apply Keeps.ite
    | with_reducible apply Keeps.ite_fst
    | with_reducible apply Keeps.ite_snd
    | intro _
    | dsimp only
    | split
    | (refine Keeps.fst (by with_reducible assumption) ?_)
    | (refine Keeps.snd (by with_reducible assumption) ?_)
    | rfl
    | exact ⟨rfl, rfl⟩
    | exact ⟨rfl, rfl, rfl⟩
    | exact Memory.wf_clear (by assumption) _ _
    | exact Memory.wf_filter (by assumption) _
    | exact Memory.wf_writeBytes (by assumption) _ _
    | with_reducible apply Keeps.mk_all
    | assumption
    | simp_all [Run.ok])

theorem execHostWriteFail_keeps {s t : State} {x1} (e : execHostWriteFail x1 s = .next t) : Keeps s t := by
  refine answer_keeps e ?_
  have h := Keeps.refl s
  iterate 24 all_goals (try first
    | with_reducible assumption
    | with_reducible apply doHostWriteFail_keeps
    | (with_reducible apply foldl_keeps)
    | (with_reducible apply foldl_fst_keeps)
    | with_reducible apply Keeps.ite
    | with_reducible apply Keeps.ite_fst
    | with_reducible apply Keeps.ite_snd
    | intro _
    | dsimp only
    | split
    | (refine Keeps.fst (by with_reducible assumption) ?_)
    | (refine Keeps.snd (by with_reducible assumption) ?_)
    | rfl
    | exact ⟨rfl, rfl⟩
    | exact ⟨rfl, rfl, rfl⟩
    | exact Memory.wf_clear (by assumption) _ _
    | exact Memory.wf_filter (by assumption) _
    | exact Memory.wf_writeBytes (by assumption) _ _
    | with_reducible apply Keeps.mk_all
    | assumption
    | simp_all [Run.ok])

theorem doHostRetransmit_keeps {a s : State} (h : Keeps a s) {x1} : Keeps a (doHostRetransmit x1 s) := by
  unfold doHostRetransmit
  iterate 24 all_goals (try first
    | with_reducible assumption
    | with_reducible apply State.writeFrame_keeps
    | (with_reducible apply State.each_keeps; intro _ _ _)
    | (with_reducible apply foldl_keeps)
    | (with_reducible apply foldl_fst_keeps)
    | with_reducible apply Keeps.ite
    | with_reducible apply Keeps.ite_fst
    | with_reducible apply Keeps.ite_snd
    | intro _
    | dsimp only
    | split
    | (refine Keeps.fst (by with_reducible assumption) ?_)
    | (refine Keeps.snd (by with_reducible assumption) ?_)
    | rfl
    | exact ⟨rfl, rfl⟩
    | exact ⟨rfl, rfl, rfl⟩
    | exact Memory.wf_clear (by assumption) _ _
    | exact Memory.wf_filter (by assumption) _
    | exact Memory.wf_writeBytes (by assumption) _ _
    | with_reducible apply Keeps.mk_all
    | assumption
    | simp_all [Run.ok])

theorem execHostRetransmit_keeps {s t : State} {x1} (e : execHostRetransmit x1 s = .next t) : Keeps s t := by
  refine answer_keeps e ?_
  have h := Keeps.refl s
  iterate 24 all_goals (try first
    | with_reducible assumption
    | with_reducible apply doHostRetransmit_keeps
    | (with_reducible apply foldl_keeps)
    | (with_reducible apply foldl_fst_keeps)
    | with_reducible apply Keeps.ite
    | with_reducible apply Keeps.ite_fst
    | with_reducible apply Keeps.ite_snd
    | intro _
    | dsimp only
    | split
    | (refine Keeps.fst (by with_reducible assumption) ?_)
    | (refine Keeps.snd (by with_reducible assumption) ?_)
    | rfl
    | exact ⟨rfl, rfl⟩
    | exact ⟨rfl, rfl, rfl⟩
    | exact Memory.wf_clear (by assumption) _ _
    | exact Memory.wf_filter (by assumption) _
    | exact Memory.wf_writeBytes (by assumption) _ _
    | with_reducible apply Keeps.mk_all
    | assumption
    | simp_all [Run.ok])

end Sys2Proof.Machine
end

