-- ==== Sys2Proof/Laws/KeepsNet2.lean ====
section
/-! SUPPORT. What each operation of Audit, Boundary, UnitLoss, Transport, Outer, Island keeps (Keeps.lean). -/

set_option linter.unusedTactic false
set_option linter.unreachableTactic false
set_option linter.unusedSimpArgs false
set_option linter.unusedVariables false

namespace Sys2Proof.Machine

theorem State.auditGrants_keeps {a s : State} (h : Keeps a s) : Keeps a (State.auditGrants s) := by
  unfold State.auditGrants
  iterate 24 all_goals (try first
    | with_reducible assumption
    | with_reducible apply State.modDuty_keeps
    | with_reducible apply State.modHub_keeps
    | with_reducible apply State.raise_keeps
    | (with_reducible apply State.each_keeps; intro _ _ _)
    | (with_reducible apply foldl_keeps)
    | (with_reducible apply foldl_fst_keeps)
    | with_reducible apply Keeps.ite
    | with_reducible apply Keeps.ite_fst
    | with_reducible apply Keeps.ite_snd
    | intro _
    | dsimp only
    | split
    | (refine Keeps.fst (by with_reducible assumption) ?_)
    | (refine Keeps.snd (by with_reducible assumption) ?_)
    | rfl
    | exact ⟨rfl, rfl⟩
    | exact ⟨rfl, rfl, rfl⟩
    | exact Memory.wf_clear (by assumption) _ _
    | exact Memory.wf_filter (by assumption) _
    | exact Memory.wf_writeBytes (by assumption) _ _
    | with_reducible apply Keeps.mk_all
    | assumption
    | simp_all [Run.ok])

theorem State.bookFault_keeps {a s : State} (h : Keeps a s) {x1} : Keeps a (State.bookFault s x1) := by
  unfold State.bookFault
  iterate 24 all_goals (try first
    | with_reducible assumption
    | with_reducible apply State.raise_keeps
    | (with_reducible apply foldl_keeps)
    | (with_reducible apply foldl_fst_keeps)
    | with_reducible apply Keeps.ite
    | with_reducible apply Keeps.ite_fst
    | with_reducible apply Keeps.ite_snd
    | intro _
    | dsimp only
    | split
    | (refine Keeps.fst (by with_reducible assumption) ?_)
    | (refine Keeps.snd (by with_reducible assumption) ?_)
    | rfl
    | exact ⟨rfl, rfl⟩
    | exact ⟨rfl, rfl, rfl⟩
    | exact Memory.wf_clear (by assumption) _ _
    | exact Memory.wf_filter (by assumption) _
    | exact Memory.wf_writeBytes (by assumption) _ _
    | with_reducible apply Keeps.mk_all
    | assumption
    | simp_all [Run.ok])

theorem State.auditPart_keeps {a s : State} (h : Keeps a s) {x1} : Keeps a (State.auditPart s x1) := by
  unfold State.auditPart
  iterate 24 all_goals (try first
    | with_reducible assumption
    | with_reducible apply doKeyFault_keeps
    | with_reducible apply State.bookFault_keeps
    | (with_reducible apply State.each_keeps; intro _ _ _)
    | (with_reducible apply foldl_keeps)
    | (with_reducible apply foldl_fst_keeps)
    | with_reducible apply Keeps.ite
    | with_reducible apply Keeps.ite_fst
    | with_reducible apply Keeps.ite_snd
    | intro _
    | dsimp only
    | split
    | (refine Keeps.fst (by with_reducible assumption) ?_)
    | (refine Keeps.snd (by with_reducible assumption) ?_)
    | rfl
    | exact ⟨rfl, rfl⟩
    | exact ⟨rfl, rfl, rfl⟩
    | exact Memory.wf_clear (by assumption) _ _
    | exact Memory.wf_filter (by assumption) _
    | exact Memory.wf_writeBytes (by assumption) _ _
    | with_reducible apply Keeps.mk_all
    | assumption
    | simp_all [Run.ok])

theorem State.audit_keeps {a s : State} (h : Keeps a s) : Keeps a (State.audit s) := by
  unfold State.audit
  iterate 24 all_goals (try first
    | with_reducible assumption
    | with_reducible apply State.raise_keeps
    | with_reducible apply State.auditGrants_keeps
    | (with_reducible apply State.each_keeps; intro _ _ _)
    | (with_reducible apply foldl_keeps)
    | (with_reducible apply foldl_fst_keeps)
    | with_reducible apply Keeps.ite
    | with_reducible apply Keeps.ite_fst
    | with_reducible apply Keeps.ite_snd
    | intro _
    | dsimp only
    | split
    | (refine Keeps.fst (by with_reducible assumption) ?_)
    | (refine Keeps.snd (by with_reducible assumption) ?_)
    | rfl
    | exact ⟨rfl, rfl⟩
    | exact ⟨rfl, rfl, rfl⟩
    | exact Memory.wf_clear (by assumption) _ _
    | exact Memory.wf_filter (by assumption) _
    | exact Memory.wf_writeBytes (by assumption) _ _
    | with_reducible apply Keeps.mk_all
    | assumption
    | simp_all [Run.ok])

theorem doDrainTimeout_keeps {a s : State} (h : Keeps a s) {x1} : Keeps a (doDrainTimeout x1 s) := by
  unfold doDrainTimeout
  iterate 24 all_goals (try first
    | with_reducible assumption
    | with_reducible apply State.modRun_keeps
    | with_reducible apply State.raise_keeps
    | (with_reducible apply foldl_keeps)
    | (with_reducible apply foldl_fst_keeps)
    | with_reducible apply Keeps.ite
    | with_reducible apply Keeps.ite_fst
    | with_reducible apply Keeps.ite_snd
    | intro _
    | dsimp only
    | split
    | (refine Keeps.fst (by with_reducible assumption) ?_)
    | (refine Keeps.snd (by with_reducible assumption) ?_)
    | rfl
    | exact ⟨rfl, rfl⟩
    | exact ⟨rfl, rfl, rfl⟩
    | exact Memory.wf_clear (by assumption) _ _
    | exact Memory.wf_filter (by assumption) _
    | exact Memory.wf_writeBytes (by assumption) _ _
    | with_reducible apply Keeps.mk_all
    | assumption
    | simp_all [Run.ok])

theorem execDrainTimeout_keeps {s t : State} {x1} (e : execDrainTimeout x1 s = .next t) : Keeps s t := by
  refine answer_keeps e ?_
  have h := Keeps.refl s
  iterate 24 all_goals (try first
    | with_reducible assumption
    | with_reducible apply doDrainTimeout_keeps
    | (with_reducible apply foldl_keeps)
    | (with_reducible apply foldl_fst_keeps)
    | with_reducible apply Keeps.ite
    | with_reducible apply Keeps.ite_fst
    | with_reducible apply Keeps.ite_snd
    | intro _
    | dsimp only
    | split
    | (refine Keeps.fst (by with_reducible assumption) ?_)
    | (refine Keeps.snd (by with_reducible assumption) ?_)
    | rfl
    | exact ⟨rfl, rfl⟩
    | exact ⟨rfl, rfl, rfl⟩
    | exact Memory.wf_clear (by assumption) _ _
    | exact Memory.wf_filter (by assumption) _
    | exact Memory.wf_writeBytes (by assumption) _ _
    | with_reducible apply Keeps.mk_all
    | assumption
    | simp_all [Run.ok])

theorem State.boundaryRecords_keeps {a s : State} (h : Keeps a s) {x1 x2} : Keeps a (State.boundaryRecords s x1 x2) := by
  unfold State.boundaryRecords
  iterate 24 all_goals (try first
    | with_reducible assumption
    | with_reducible apply State.modRun_keeps
    | with_reducible apply State.fresh_keeps
    | with_reducible apply State.record_keeps
    | with_reducible apply State.recordPart_keeps
    | (with_reducible apply State.each_keeps; intro _ _ _)
    | (with_reducible apply foldl_keeps)
    | (with_reducible apply foldl_fst_keeps)
    | with_reducible apply Keeps.ite
    | with_reducible apply Keeps.ite_fst
    | with_reducible apply Keeps.ite_snd
    | intro _
    | dsimp only
    | split
    | (refine Keeps.fst (by with_reducible assumption) ?_)
    | (refine Keeps.snd (by with_reducible assumption) ?_)
    | rfl
    | exact ⟨rfl, rfl⟩
    | exact ⟨rfl, rfl, rfl⟩
    | exact Memory.wf_clear (by assumption) _ _
    | exact Memory.wf_filter (by assumption) _
    | exact Memory.wf_writeBytes (by assumption) _ _
    | with_reducible apply Keeps.mk_all
    | assumption
    | simp_all [Run.ok])

theorem State.noiseBoundary_keeps {a s : State} (h : Keeps a s) {x1 x2} : Keeps a (State.noiseBoundary s x1 x2) := by
  unfold State.noiseBoundary
  iterate 24 all_goals (try first
    | with_reducible assumption
    | with_reducible apply State.modColl_keeps
    | (with_reducible apply foldl_keeps)
    | (with_reducible apply foldl_fst_keeps)
    | with_reducible apply Keeps.ite
    | with_reducible apply Keeps.ite_fst
    | with_reducible apply Keeps.ite_snd
    | intro _
    | dsimp only
    | split
    | (refine Keeps.fst (by with_reducible assumption) ?_)
    | (refine Keeps.snd (by with_reducible assumption) ?_)
    | rfl
    | exact ⟨rfl, rfl⟩
    | exact ⟨rfl, rfl, rfl⟩
    | exact Memory.wf_clear (by assumption) _ _
    | exact Memory.wf_filter (by assumption) _
    | exact Memory.wf_writeBytes (by assumption) _ _
    | with_reducible apply Keeps.mk_all
    | assumption
    | simp_all [Run.ok])

theorem State.accBoundary_keeps {a s : State} (h : Keeps a s) {x1} : Keeps a (State.accBoundary s x1) := by
  unfold State.accBoundary
  iterate 24 all_goals (try first
    | with_reducible assumption
    | with_reducible apply State.modRun_keeps
    | with_reducible apply State.modColl_keeps
    | with_reducible apply State.notice_keeps
    | (with_reducible apply foldl_keeps)
    | (with_reducible apply foldl_fst_keeps)
    | with_reducible apply Keeps.ite
    | with_reducible apply Keeps.ite_fst
    | with_reducible apply Keeps.ite_snd
    | intro _
    | dsimp only
    | split
    | (refine Keeps.fst (by with_reducible assumption) ?_)
    | (refine Keeps.snd (by with_reducible assumption) ?_)
    | rfl
    | exact ⟨rfl, rfl⟩
    | exact ⟨rfl, rfl, rfl⟩
    | exact Memory.wf_clear (by assumption) _ _
    | exact Memory.wf_filter (by assumption) _
    | exact Memory.wf_writeBytes (by assumption) _ _
    | with_reducible apply Keeps.mk_all
    | assumption
    | simp_all [Run.ok])

theorem State.forcedLayout_keeps {a s : State} (h : Keeps a s) {x1 x2} : Keeps a (State.forcedLayout s x1 x2) := by
  unfold State.forcedLayout
  iterate 24 all_goals (try first
    | with_reducible assumption
    | with_reducible apply State.modRun_keeps
    | with_reducible apply State.hold_keeps
    | with_reducible apply State.unhold_keeps
    | with_reducible apply State.barrierReach_keeps
    | with_reducible apply State.applyForced_keeps
    | (with_reducible apply foldl_keeps)
    | (with_reducible apply foldl_fst_keeps)
    | with_reducible apply Keeps.ite
    | with_reducible apply Keeps.ite_fst
    | with_reducible apply Keeps.ite_snd
    | intro _
    | dsimp only
    | split
    | (refine Keeps.fst (by with_reducible assumption) ?_)
    | (refine Keeps.snd (by with_reducible assumption) ?_)
    | rfl
    | exact ⟨rfl, rfl⟩
    | exact ⟨rfl, rfl, rfl⟩
    | exact Memory.wf_clear (by assumption) _ _
    | exact Memory.wf_filter (by assumption) _
    | exact Memory.wf_writeBytes (by assumption) _ _
    | with_reducible apply Keeps.mk_all
    | assumption
    | simp_all [Run.ok])

theorem State.layoutBoundary_keeps {a s : State} (h : Keeps a s) {x1 x2} : Keeps a (State.layoutBoundary s x1 x2) := by
  unfold State.layoutBoundary
  iterate 24 all_goals (try first
    | with_reducible assumption
    | with_reducible apply State.applyLayout_keeps
    | with_reducible apply State.forcedLayout_keeps
    | (with_reducible apply foldl_keeps)
    | (with_reducible apply foldl_fst_keeps)
    | with_reducible apply Keeps.ite
    | with_reducible apply Keeps.ite_fst
    | with_reducible apply Keeps.ite_snd
    | intro _
    | dsimp only
    | split
    | (refine Keeps.fst (by with_reducible assumption) ?_)
    | (refine Keeps.snd (by with_reducible assumption) ?_)
    | rfl
    | exact ⟨rfl, rfl⟩
    | exact ⟨rfl, rfl, rfl⟩
    | exact Memory.wf_clear (by assumption) _ _
    | exact Memory.wf_filter (by assumption) _
    | exact Memory.wf_writeBytes (by assumption) _ _
    | with_reducible apply Keeps.mk_all
    | assumption
    | simp_all [Run.ok])

theorem State.startPairing_keeps {a s : State} (h : Keeps a s) {x1} : Keeps a (State.startPairing s x1) := by
  unfold State.startPairing
  iterate 24 all_goals (try first
    | with_reducible assumption
    | with_reducible apply State.modRun_keeps
    | with_reducible apply State.modArena_keeps
    | with_reducible apply State.send_keeps
    | with_reducible apply State.hold_keeps
    | (with_reducible apply State.each_keeps; intro _ _ _)
    | (with_reducible apply foldl_keeps)
    | (with_reducible apply foldl_fst_keeps)
    | with_reducible apply Keeps.ite
    | with_reducible apply Keeps.ite_fst
    | with_reducible apply Keeps.ite_snd
    | intro _
    | dsimp only
    | split
    | (refine Keeps.fst (by with_reducible assumption) ?_)
    | (refine Keeps.snd (by with_reducible assumption) ?_)
    | rfl
    | exact ⟨rfl, rfl⟩
    | exact ⟨rfl, rfl, rfl⟩
    | exact Memory.wf_clear (by assumption) _ _
    | exact Memory.wf_filter (by assumption) _
    | exact Memory.wf_writeBytes (by assumption) _ _
    | with_reducible apply Keeps.mk_all
    | assumption
    | simp_all [Run.ok])

theorem State.pairingHeard_keeps {a s : State} (h : Keeps a s) {x1 x2 x3 x4} : Keeps a (State.pairingHeard s x1 x2 x3 x4) := by
  unfold State.pairingHeard
  iterate 24 all_goals (try first
    | with_reducible assumption
    | with_reducible apply State.modArena_keeps
    | with_reducible apply State.send_keeps
    | with_reducible apply State.unhold_keeps
    | (with_reducible apply foldl_keeps)
    | (with_reducible apply foldl_fst_keeps)
    | with_reducible apply Keeps.ite
    | with_reducible apply Keeps.ite_fst
    | with_reducible apply Keeps.ite_snd
    | intro _
    | dsimp only
    | split
    | (refine Keeps.fst (by with_reducible assumption) ?_)
    | (refine Keeps.snd (by with_reducible assumption) ?_)
    | rfl
    | exact ⟨rfl, rfl⟩
    | exact ⟨rfl, rfl, rfl⟩
    | exact Memory.wf_clear (by assumption) _ _
    | exact Memory.wf_filter (by assumption) _
    | exact Memory.wf_writeBytes (by assumption) _ _
    | with_reducible apply Keeps.mk_all
    | assumption
    | simp_all [Run.ok])

theorem execPairingConfirm_keeps {s t : State} {x1 x2} (e : execPairingConfirm x1 x2 s = .next t) : Keeps s t := by
  refine answer_keeps e ?_
  have h := Keeps.refl s
  iterate 24 all_goals (try first
    | with_reducible assumption
    | with_reducible apply State.receive_keeps
    | with_reducible apply State.bufErrors_keeps
    | with_reducible apply State.ackIfDue_keeps
    | with_reducible apply State.dataArrived_keeps
    | with_reducible apply State.pairingHeard_keeps
    | (with_reducible apply foldl_keeps)
    | (with_reducible apply foldl_fst_keeps)
    | with_reducible apply Keeps.ite
    | with_reducible apply Keeps.ite_fst
    | with_reducible apply Keeps.ite_snd
    | intro _
    | dsimp only
    | split
    | (refine Keeps.fst (by with_reducible assumption) ?_)
    | (refine Keeps.snd (by with_reducible assumption) ?_)
    | rfl
    | exact ⟨rfl, rfl⟩
    | exact ⟨rfl, rfl, rfl⟩
    | exact Memory.wf_clear (by assumption) _ _
    | exact Memory.wf_filter (by assumption) _
    | exact Memory.wf_writeBytes (by assumption) _ _
    | with_reducible apply Keeps.mk_all
    | assumption
    | simp_all [Run.ok])

theorem doArenaLendTimeout_keeps {a s : State} (h : Keeps a s) {x1} : Keeps a (doArenaLendTimeout x1 s) := by
  unfold doArenaLendTimeout
  iterate 24 all_goals (try first
    | with_reducible assumption
    | with_reducible apply State.modRun_keeps
    | with_reducible apply State.raise_keeps
    | (with_reducible apply foldl_keeps)
    | (with_reducible apply foldl_fst_keeps)
    | with_reducible apply Keeps.ite
    | with_reducible apply Keeps.ite_fst
    | with_reducible apply Keeps.ite_snd
    | intro _
    | dsimp only
    | split
    | (refine Keeps.fst (by with_reducible assumption) ?_)
    | (refine Keeps.snd (by with_reducible assumption) ?_)
    | rfl
    | exact ⟨rfl, rfl⟩
    | exact ⟨rfl, rfl, rfl⟩
    | exact Memory.wf_clear (by assumption) _ _
    | exact Memory.wf_filter (by assumption) _
    | exact Memory.wf_writeBytes (by assumption) _ _
    | with_reducible apply Keeps.mk_all
    | assumption
    | simp_all [Run.ok])

theorem execArenaLendTimeout_keeps {s t : State} {x1} (e : execArenaLendTimeout x1 s = .next t) : Keeps s t := by
  refine answer_keeps e ?_
  have h := Keeps.refl s
  iterate 24 all_goals (try first
    | with_reducible assumption
    | with_reducible apply doArenaLendTimeout_keeps
    | (with_reducible apply foldl_keeps)
    | (with_reducible apply foldl_fst_keeps)
    | with_reducible apply Keeps.ite
    | with_reducible apply Keeps.ite_fst
    | with_reducible apply Keeps.ite_snd
    | intro _
    | dsimp only
    | split
    | (refine Keeps.fst (by with_reducible assumption) ?_)
    | (refine Keeps.snd (by with_reducible assumption) ?_)
    | rfl
    | exact ⟨rfl, rfl⟩
    | exact ⟨rfl, rfl, rfl⟩
    | exact Memory.wf_clear (by assumption) _ _
    | exact Memory.wf_filter (by assumption) _
    | exact Memory.wf_writeBytes (by assumption) _ _
    | with_reducible apply Keeps.mk_all
    | assumption
    | simp_all [Run.ok])

theorem State.repairSlabs_keeps {a s : State} (h : Keeps a s) {x1} : Keeps a (State.repairSlabs s x1) := by
  unfold State.repairSlabs
  iterate 24 all_goals (try first
    | with_reducible assumption
    | with_reducible apply State.modPyro_keeps
    | with_reducible apply State.voteShards_keeps
    | with_reducible apply State.rederive_keeps
    | (with_reducible apply State.each_keeps; intro _ _ _)
    | (with_reducible apply foldl_keeps)
    | (with_reducible apply foldl_fst_keeps)
    | with_reducible apply Keeps.ite
    | with_reducible apply Keeps.ite_fst
    | with_reducible apply Keeps.ite_snd
    | intro _
    | dsimp only
    | split
    | (refine Keeps.fst (by with_reducible assumption) ?_)
    | (refine Keeps.snd (by with_reducible assumption) ?_)
    | rfl
    | exact ⟨rfl, rfl⟩
    | exact ⟨rfl, rfl, rfl⟩
    | exact Memory.wf_clear (by assumption) _ _
    | exact Memory.wf_filter (by assumption) _
    | exact Memory.wf_writeBytes (by assumption) _ _
    | with_reducible apply Keeps.mk_all
    | assumption
    | simp_all [Run.ok])

theorem State.driftRepair_keeps {a s : State} (h : Keeps a s) {x1} : Keeps a (State.driftRepair s x1) := by
  unfold State.driftRepair
  iterate 24 all_goals (try first
    | with_reducible assumption
    | with_reducible apply State.repairSlabs_keeps
    | (with_reducible apply foldl_keeps)
    | (with_reducible apply foldl_fst_keeps)
    | with_reducible apply Keeps.ite
    | with_reducible apply Keeps.ite_fst
    | with_reducible apply Keeps.ite_snd
    | intro _
    | dsimp only
    | split
    | (refine Keeps.fst (by with_reducible assumption) ?_)
    | (refine Keeps.snd (by with_reducible assumption) ?_)
    | rfl
    | exact ⟨rfl, rfl⟩
    | exact ⟨rfl, rfl, rfl⟩
    | exact Memory.wf_clear (by assumption) _ _
    | exact Memory.wf_filter (by assumption) _
    | exact Memory.wf_writeBytes (by assumption) _ _
    | with_reducible apply Keeps.mk_all
    | assumption
    | simp_all [Run.ok])

theorem State.driftStart_keeps {a s : State} (h : Keeps a s) {x1} : Keeps a (State.driftStart s x1) := by
  unfold State.driftStart
  iterate 24 all_goals (try first
    | with_reducible assumption
    | with_reducible apply State.modPyro_keeps
    | with_reducible apply State.repairSlabs_keeps
    | (with_reducible apply foldl_keeps)
    | (with_reducible apply foldl_fst_keeps)
    | with_reducible apply Keeps.ite
    | with_reducible apply Keeps.ite_fst
    | with_reducible apply Keeps.ite_snd
    | intro _
    | dsimp only
    | split
    | (refine Keeps.fst (by with_reducible assumption) ?_)
    | (refine Keeps.snd (by with_reducible assumption) ?_)
    | rfl
    | exact ⟨rfl, rfl⟩
    | exact ⟨rfl, rfl, rfl⟩
    | exact Memory.wf_clear (by assumption) _ _
    | exact Memory.wf_filter (by assumption) _
    | exact Memory.wf_writeBytes (by assumption) _ _
    | with_reducible apply Keeps.mk_all
    | assumption
    | simp_all [Run.ok])

theorem State.wake_keeps {a s : State} (h : Keeps a s) : Keeps a (State.wake s) := by
  unfold State.wake
  iterate 24 all_goals (try first
    | with_reducible assumption
    | with_reducible apply State.modPower_keeps
    | (with_reducible apply foldl_keeps)
    | (with_reducible apply foldl_fst_keeps)
    | with_reducible apply Keeps.ite
    | with_reducible apply Keeps.ite_fst
    | with_reducible apply Keeps.ite_snd
    | intro _
    | dsimp only
    | split
    | (refine Keeps.fst (by with_reducible assumption) ?_)
    | (refine Keeps.snd (by with_reducible assumption) ?_)
    | rfl
    | exact ⟨rfl, rfl⟩
    | exact ⟨rfl, rfl, rfl⟩
    | exact Memory.wf_clear (by assumption) _ _
    | exact Memory.wf_filter (by assumption) _
    | exact Memory.wf_writeBytes (by assumption) _ _
    | with_reducible apply Keeps.mk_all
    | assumption
    | simp_all [Run.ok])

theorem State.startStep_keeps {a s : State} (h : Keeps a s) {x1} : Keeps a (State.startStep s x1) := by
  unfold State.startStep
  iterate 24 all_goals (try first
    | with_reducible assumption
    | with_reducible apply State.modPart_keeps
    | with_reducible apply State.modRun_keeps
    | with_reducible apply State.actMark_keeps
    | with_reducible apply State.signalN_keeps
    | with_reducible apply State.collSettle_keeps
    | with_reducible apply State.noFaults_keeps
    | with_reducible apply State.answerRejoins_keeps
    | with_reducible apply State.loadSeals_keeps
    | with_reducible apply State.missedBoundary_keeps
    | with_reducible apply State.driftStart_keeps
    | with_reducible apply State.wake_keeps
    | (with_reducible apply State.each_keeps; intro _ _ _)
    | (with_reducible apply foldl_keeps)
    | (with_reducible apply foldl_fst_keeps)
    | with_reducible apply Keeps.ite
    | with_reducible apply Keeps.ite_fst
    | with_reducible apply Keeps.ite_snd
    | intro _
    | dsimp only
    | split
    | (refine Keeps.fst (by with_reducible assumption) ?_)
    | (refine Keeps.snd (by with_reducible assumption) ?_)
    | rfl
    | exact ⟨rfl, rfl⟩
    | exact ⟨rfl, rfl, rfl⟩
    | exact Memory.wf_clear (by assumption) _ _
    | exact Memory.wf_filter (by assumption) _
    | exact Memory.wf_writeBytes (by assumption) _ _
    | with_reducible apply Keeps.mk_all
    | assumption
    | simp_all [Run.ok])

theorem State.stopNow_keeps {a s : State} (h : Keeps a s) {x1} : Keeps a (State.stopNow s x1) := by
  unfold State.stopNow
  iterate 24 all_goals (try first
    | with_reducible assumption
    | with_reducible apply State.modPart_keeps
    | with_reducible apply State.modRun_keeps
    | (with_reducible apply foldl_keeps)
    | (with_reducible apply foldl_fst_keeps)
    | with_reducible apply Keeps.ite
    | with_reducible apply Keeps.ite_fst
    | with_reducible apply Keeps.ite_snd
    | intro _
    | dsimp only
    | split
    | (refine Keeps.fst (by with_reducible assumption) ?_)
    | (refine Keeps.snd (by with_reducible assumption) ?_)
    | rfl
    | exact ⟨rfl, rfl⟩
    | exact ⟨rfl, rfl, rfl⟩
    | exact Memory.wf_clear (by assumption) _ _
    | exact Memory.wf_filter (by assumption) _
    | exact Memory.wf_writeBytes (by assumption) _ _
    | with_reducible apply Keeps.mk_all
    | assumption
    | simp_all [Run.ok])

theorem State.goOn_keeps {a s : State} (h : Keeps a s) {x1} : Keeps a (State.goOn s x1) := by
  unfold State.goOn
  iterate 24 all_goals (try first
    | with_reducible assumption
    | with_reducible apply State.hold_keeps
    | with_reducible apply State.haltHold_keeps
    | with_reducible apply State.startStep_keeps
    | with_reducible apply State.stopNow_keeps
    | (with_reducible apply foldl_keeps)
    | (with_reducible apply foldl_fst_keeps)
    | with_reducible apply Keeps.ite
    | with_reducible apply Keeps.ite_fst
    | with_reducible apply Keeps.ite_snd
    | intro _
    | dsimp only
    | split
    | (refine Keeps.fst (by with_reducible assumption) ?_)
    | (refine Keeps.snd (by with_reducible assumption) ?_)
    | rfl
    | exact ⟨rfl, rfl⟩
    | exact ⟨rfl, rfl, rfl⟩
    | exact Memory.wf_clear (by assumption) _ _
    | exact Memory.wf_filter (by assumption) _
    | exact Memory.wf_writeBytes (by assumption) _ _
    | with_reducible apply Keeps.mk_all
    | assumption
    | simp_all [Run.ok])

theorem execHeldStepStart_keeps {s t : State} {x1} (e : execHeldStepStart x1 s = .next t) : Keeps s t := by
  refine answer_keeps e ?_
  have h := Keeps.refl s
  iterate 24 all_goals (try first
    | with_reducible assumption
    | with_reducible apply State.goOn_keeps
    | (with_reducible apply foldl_keeps)
    | (with_reducible apply foldl_fst_keeps)
    | with_reducible apply Keeps.ite
    | with_reducible apply Keeps.ite_fst
    | with_reducible apply Keeps.ite_snd
    | intro _
    | dsimp only
    | split
    | (refine Keeps.fst (by with_reducible assumption) ?_)
    | (refine Keeps.snd (by with_reducible assumption) ?_)
    | rfl
    | exact ⟨rfl, rfl⟩
    | exact ⟨rfl, rfl, rfl⟩
    | exact Memory.wf_clear (by assumption) _ _
    | exact Memory.wf_filter (by assumption) _
    | exact Memory.wf_writeBytes (by assumption) _ _
    | with_reducible apply Keeps.mk_all
    | assumption
    | simp_all [Run.ok])

theorem State.tokenAction_keeps {a s : State} (h : Keeps a s) {x1} : Keeps a (State.tokenAction s x1) := by
  unfold State.tokenAction
  iterate 24 all_goals (try first
    | with_reducible assumption
    | with_reducible apply State.modRun_keeps
    | with_reducible apply State.raise_keeps
    | (with_reducible apply State.each_keeps; intro _ _ _)
    | (with_reducible apply foldl_keeps)
    | (with_reducible apply foldl_fst_keeps)
    | with_reducible apply Keeps.ite
    | with_reducible apply Keeps.ite_fst
    | with_reducible apply Keeps.ite_snd
    | intro _
    | dsimp only
    | split
    | (refine Keeps.fst (by with_reducible assumption) ?_)
    | (refine Keeps.snd (by with_reducible assumption) ?_)
    | rfl
    | exact ⟨rfl, rfl⟩
    | exact ⟨rfl, rfl, rfl⟩
    | exact Memory.wf_clear (by assumption) _ _
    | exact Memory.wf_filter (by assumption) _
    | exact Memory.wf_writeBytes (by assumption) _ _
    | with_reducible apply Keeps.mk_all
    | assumption
    | simp_all [Run.ok])

theorem State.emptyAction_keeps {a s : State} (h : Keeps a s) {x1} : Keeps a (State.emptyAction s x1) := by
  unfold State.emptyAction
  iterate 24 all_goals (try first
    | with_reducible assumption
    | with_reducible apply State.modHearth_keeps
    | with_reducible apply State.modTemper_keeps
    | with_reducible apply State.raise_keeps
    | with_reducible apply State.arenaBoundary_keeps
    | (with_reducible apply State.each_keeps; intro _ _ _)
    | (with_reducible apply foldl_keeps)
    | (with_reducible apply foldl_fst_keeps)
    | with_reducible apply Keeps.ite
    | with_reducible apply Keeps.ite_fst
    | with_reducible apply Keeps.ite_snd
    | intro _
    | dsimp only
    | split
    | (refine Keeps.fst (by with_reducible assumption) ?_)
    | (refine Keeps.snd (by with_reducible assumption) ?_)
    | rfl
    | exact ⟨rfl, rfl⟩
    | exact ⟨rfl, rfl, rfl⟩
    | exact Memory.wf_clear (by assumption) _ _
    | exact Memory.wf_filter (by assumption) _
    | exact Memory.wf_writeBytes (by assumption) _ _
    | with_reducible apply Keeps.mk_all
    | assumption
    | simp_all [Run.ok])

theorem State.roundAction_keeps {a s : State} (h : Keeps a s) {x1 x2} : Keeps a (State.roundAction s x1 x2) := by
  unfold State.roundAction
  iterate 24 all_goals (try first
    | with_reducible assumption
    | with_reducible apply State.modRun_keeps
    | with_reducible apply State.modPyro_keeps
    | with_reducible apply State.hold_keeps
    | with_reducible apply State.refreshNext_keeps
    | with_reducible apply State.pendingFolds_keeps
    | with_reducible apply State.finishCapture_keeps
    | (with_reducible apply foldl_keeps)
    | (with_reducible apply foldl_fst_keeps)
    | with_reducible apply Keeps.ite
    | with_reducible apply Keeps.ite_fst
    | with_reducible apply Keeps.ite_snd
    | intro _
    | dsimp only
    | split
    | (refine Keeps.fst (by with_reducible assumption) ?_)
    | (refine Keeps.snd (by with_reducible assumption) ?_)
    | rfl
    | exact ⟨rfl, rfl⟩
    | exact ⟨rfl, rfl, rfl⟩
    | exact Memory.wf_clear (by assumption) _ _
    | exact Memory.wf_filter (by assumption) _
    | exact Memory.wf_writeBytes (by assumption) _ _
    | with_reducible apply Keeps.mk_all
    | assumption
    | simp_all [Run.ok])

theorem State.stopAction_keeps {a s : State} (h : Keeps a s) {x1} : Keeps a (State.stopAction s x1) := by
  unfold State.stopAction
  iterate 24 all_goals (try first
    | with_reducible assumption
    | with_reducible apply State.modRun_keeps
    | with_reducible apply State.hold_keeps
    | with_reducible apply State.stepRecOut_keeps
    | with_reducible apply State.haltHold_keeps
    | with_reducible apply State.goOn_keeps
    | (with_reducible apply foldl_keeps)
    | (with_reducible apply foldl_fst_keeps)
    | with_reducible apply Keeps.ite
    | with_reducible apply Keeps.ite_fst
    | with_reducible apply Keeps.ite_snd
    | intro _
    | dsimp only
    | split
    | (refine Keeps.fst (by with_reducible assumption) ?_)
    | (refine Keeps.snd (by with_reducible assumption) ?_)
    | rfl
    | exact ⟨rfl, rfl⟩
    | exact ⟨rfl, rfl, rfl⟩
    | exact Memory.wf_clear (by assumption) _ _
    | exact Memory.wf_filter (by assumption) _
    | exact Memory.wf_writeBytes (by assumption) _ _
    | with_reducible apply Keeps.mk_all
    | assumption
    | simp_all [Run.ok])

theorem State.limitStop_keeps {a s : State} (h : Keeps a s) {x1} : Keeps a (State.limitStop s x1) := by
  unfold State.limitStop
  iterate 24 all_goals (try first
    | with_reducible assumption
    | with_reducible apply State.modRun_keeps
    | with_reducible apply State.raise_keeps
    | with_reducible apply State.hold_keeps
    | with_reducible apply State.stepRecOut_keeps
    | (with_reducible apply foldl_keeps)
    | (with_reducible apply foldl_fst_keeps)
    | with_reducible apply Keeps.ite
    | with_reducible apply Keeps.ite_fst
    | with_reducible apply Keeps.ite_snd
    | intro _
    | dsimp only
    | split
    | (refine Keeps.fst (by with_reducible assumption) ?_)
    | (refine Keeps.snd (by with_reducible assumption) ?_)
    | rfl
    | exact ⟨rfl, rfl⟩
    | exact ⟨rfl, rfl, rfl⟩
    | exact Memory.wf_clear (by assumption) _ _
    | exact Memory.wf_filter (by assumption) _
    | exact Memory.wf_writeBytes (by assumption) _ _
    | with_reducible apply Keeps.mk_all
    | assumption
    | simp_all [Run.ok])

theorem State.closeStep_keeps {a s : State} (h : Keeps a s) {x1 x2} : Keeps a (State.closeStep s x1 x2) := by
  unfold State.closeStep
  iterate 24 all_goals (try first
    | with_reducible assumption
    | with_reducible apply State.retryStores_keeps
    | with_reducible apply closePyro_keeps
    | with_reducible apply State.auditPart_keeps
    | with_reducible apply State.audit_keeps
    | with_reducible apply State.boundaryRecords_keeps
    | with_reducible apply State.noiseBoundary_keeps
    | with_reducible apply State.driftRepair_keeps
    | with_reducible apply State.tokenAction_keeps
    | with_reducible apply State.emptyAction_keeps
    | (with_reducible apply foldl_keeps)
    | (with_reducible apply foldl_fst_keeps)
    | with_reducible apply Keeps.ite
    | with_reducible apply Keeps.ite_fst
    | with_reducible apply Keeps.ite_snd
    | intro _
    | dsimp only
    | split
    | (refine Keeps.fst (by with_reducible assumption) ?_)
    | (refine Keeps.snd (by with_reducible assumption) ?_)
    | rfl
    | exact ⟨rfl, rfl⟩
    | exact ⟨rfl, rfl, rfl⟩
    | exact Memory.wf_clear (by assumption) _ _
    | exact Memory.wf_filter (by assumption) _
    | exact Memory.wf_writeBytes (by assumption) _ _
    | with_reducible apply Keeps.mk_all
    | assumption
    | simp_all [Run.ok])

theorem State.nextNumber_keeps {a s : State} (h : Keeps a s) {x1 x2} : Keeps a (State.nextNumber s x1 x2) := by
  unfold State.nextNumber
  iterate 24 all_goals (try first
    | with_reducible assumption
    | with_reducible apply State.modRun_keeps
    | with_reducible apply State.modColl_keeps
    | with_reducible apply State.layoutBoundary_keeps
    | (with_reducible apply foldl_keeps)
    | (with_reducible apply foldl_fst_keeps)
    | with_reducible apply Keeps.ite
    | with_reducible apply Keeps.ite_fst
    | with_reducible apply Keeps.ite_snd
    | intro _
    | dsimp only
    | split
    | (refine Keeps.fst (by with_reducible assumption) ?_)
    | (refine Keeps.snd (by with_reducible assumption) ?_)
    | rfl
    | exact ⟨rfl, rfl⟩
    | exact ⟨rfl, rfl, rfl⟩
    | exact Memory.wf_clear (by assumption) _ _
    | exact Memory.wf_filter (by assumption) _
    | exact Memory.wf_writeBytes (by assumption) _ _
    | with_reducible apply Keeps.mk_all
    | assumption
    | simp_all [Run.ok])

theorem State.roundTest_keeps {a s : State} (h : Keeps a s) {x1 x2} : Keeps a (State.roundTest s x1 x2) := by
  unfold State.roundTest
  iterate 24 all_goals (try first
    | with_reducible assumption
    | with_reducible apply State.sealTest_keeps
    | with_reducible apply State.wordHold_keeps
    | with_reducible apply State.armedBoundary_keeps
    | with_reducible apply State.accBoundary_keeps
    | with_reducible apply State.roundAction_keeps
    | (with_reducible apply foldl_keeps)
    | (with_reducible apply foldl_fst_keeps)
    | with_reducible apply Keeps.ite
    | with_reducible apply Keeps.ite_fst
    | with_reducible apply Keeps.ite_snd
    | intro _
    | dsimp only
    | split
    | (refine Keeps.fst (by with_reducible assumption) ?_)
    | (refine Keeps.snd (by with_reducible assumption) ?_)
    | rfl
    | exact ⟨rfl, rfl⟩
    | exact ⟨rfl, rfl, rfl⟩
    | exact Memory.wf_clear (by assumption) _ _
    | exact Memory.wf_filter (by assumption) _
    | exact Memory.wf_writeBytes (by assumption) _ _
    | with_reducible apply Keeps.mk_all
    | assumption
    | simp_all [Run.ok])

theorem State.boundary_keeps {a s : State} (h : Keeps a s) {x1} : Keeps a (State.boundary s x1) := by
  unfold State.boundary
  iterate 24 all_goals (try first
    | with_reducible assumption
    | with_reducible apply State.stopAction_keeps
    | with_reducible apply State.limitStop_keeps
    | with_reducible apply State.closeStep_keeps
    | with_reducible apply State.nextNumber_keeps
    | with_reducible apply State.roundTest_keeps
    | (with_reducible apply foldl_keeps)
    | (with_reducible apply foldl_fst_keeps)
    | with_reducible apply Keeps.ite
    | with_reducible apply Keeps.ite_fst
    | with_reducible apply Keeps.ite_snd
    | intro _
    | dsimp only
    | split
    | (refine Keeps.fst (by with_reducible assumption) ?_)
    | (refine Keeps.snd (by with_reducible assumption) ?_)
    | rfl
    | exact ⟨rfl, rfl⟩
    | exact ⟨rfl, rfl, rfl⟩
    | exact Memory.wf_clear (by assumption) _ _
    | exact Memory.wf_filter (by assumption) _
    | exact Memory.wf_writeBytes (by assumption) _ _
    | with_reducible apply Keeps.mk_all
    | assumption
    | simp_all [Run.ok])

theorem execStepBoundary_keeps {s t : State} {x1} (e : execStepBoundary x1 s = .next t) : Keeps s t := by
  refine answer_keeps e ?_
  have h := Keeps.refl s
  iterate 24 all_goals (try first
    | with_reducible assumption
    | with_reducible apply State.boundary_keeps
    | (with_reducible apply foldl_keeps)
    | (with_reducible apply foldl_fst_keeps)
    | with_reducible apply Keeps.ite
    | with_reducible apply Keeps.ite_fst
    | with_reducible apply Keeps.ite_snd
    | intro _
    | dsimp only
    | split
    | (refine Keeps.fst (by with_reducible assumption) ?_)
    | (refine Keeps.snd (by with_reducible assumption) ?_)
    | rfl
    | exact ⟨rfl, rfl⟩
    | exact ⟨rfl, rfl, rfl⟩
    | exact Memory.wf_clear (by assumption) _ _
    | exact Memory.wf_filter (by assumption) _
    | exact Memory.wf_writeBytes (by assumption) _ _
    | with_reducible apply Keeps.mk_all
    | assumption
    | simp_all [Run.ok])

theorem doImageRefreshDone_keeps {a s : State} (h : Keeps a s) {x1} : Keeps a (doImageRefreshDone x1 s) := by
  unfold doImageRefreshDone
  iterate 24 all_goals (try first
    | with_reducible assumption
    | with_reducible apply State.modPart_keeps
    | with_reducible apply State.modColl_keeps
    | with_reducible apply State.unhold_keeps
    | with_reducible apply State.barrierReach_keeps
    | (with_reducible apply foldl_keeps)
    | (with_reducible apply foldl_fst_keeps)
    | with_reducible apply Keeps.ite
    | with_reducible apply Keeps.ite_fst
    | with_reducible apply Keeps.ite_snd
    | intro _
    | dsimp only
    | split
    | (refine Keeps.fst (by with_reducible assumption) ?_)
    | (refine Keeps.snd (by with_reducible assumption) ?_)
    | rfl
    | exact ⟨rfl, rfl⟩
    | exact ⟨rfl, rfl, rfl⟩
    | exact Memory.wf_clear (by assumption) _ _
    | exact Memory.wf_filter (by assumption) _
    | exact Memory.wf_writeBytes (by assumption) _ _
    | with_reducible apply Keeps.mk_all
    | assumption
    | simp_all [Run.ok])

theorem execImageRefreshDone_keeps {s t : State} {x1} (e : execImageRefreshDone x1 s = .next t) : Keeps s t := by
  refine answer_keeps e ?_
  have h := Keeps.refl s
  iterate 24 all_goals (try first
    | with_reducible assumption
    | with_reducible apply doImageRefreshDone_keeps
    | (with_reducible apply foldl_keeps)
    | (with_reducible apply foldl_fst_keeps)
    | with_reducible apply Keeps.ite
    | with_reducible apply Keeps.ite_fst
    | with_reducible apply Keeps.ite_snd
    | intro _
    | dsimp only
    | split
    | (refine Keeps.fst (by with_reducible assumption) ?_)
    | (refine Keeps.snd (by with_reducible assumption) ?_)
    | rfl
    | exact ⟨rfl, rfl⟩
    | exact ⟨rfl, rfl, rfl⟩
    | exact Memory.wf_clear (by assumption) _ _
    | exact Memory.wf_filter (by assumption) _
    | exact Memory.wf_writeBytes (by assumption) _ _
    | with_reducible apply Keeps.mk_all
    | assumption
    | simp_all [Run.ok])

theorem doAnchorTimeout_keeps {a s : State} (h : Keeps a s) {x1} : Keeps a (doAnchorTimeout x1 s) := by
  unfold doAnchorTimeout
  iterate 24 all_goals (try first
    | with_reducible assumption
    | with_reducible apply State.modColl_keeps
    | with_reducible apply State.declareLost_keeps
    | (with_reducible apply State.each_keeps; intro _ _ _)
    | (with_reducible apply foldl_keeps)
    | (with_reducible apply foldl_fst_keeps)
    | with_reducible apply Keeps.ite
    | with_reducible apply Keeps.ite_fst
    | with_reducible apply Keeps.ite_snd
    | intro _
    | dsimp only
    | split
    | (refine Keeps.fst (by with_reducible assumption) ?_)
    | (refine Keeps.snd (by with_reducible assumption) ?_)
    | rfl
    | exact ⟨rfl, rfl⟩
    | exact ⟨rfl, rfl, rfl⟩
    | exact Memory.wf_clear (by assumption) _ _
    | exact Memory.wf_filter (by assumption) _
    | exact Memory.wf_writeBytes (by assumption) _ _
    | with_reducible apply Keeps.mk_all
    | assumption
    | simp_all [Run.ok])

theorem execAnchorTimeout_keeps {s t : State} {x1} (e : execAnchorTimeout x1 s = .next t) : Keeps s t := by
  refine answer_keeps e ?_
  have h := Keeps.refl s
  iterate 24 all_goals (try first
    | with_reducible assumption
    | with_reducible apply doAnchorTimeout_keeps
    | (with_reducible apply foldl_keeps)
    | (with_reducible apply foldl_fst_keeps)
    | with_reducible apply Keeps.ite
    | with_reducible apply Keeps.ite_fst
    | with_reducible apply Keeps.ite_snd
    | intro _
    | dsimp only
    | split
    | (refine Keeps.fst (by with_reducible assumption) ?_)
    | (refine Keeps.snd (by with_reducible assumption) ?_)
    | rfl
    | exact ⟨rfl, rfl⟩
    | exact ⟨rfl, rfl, rfl⟩
    | exact Memory.wf_clear (by assumption) _ _
    | exact Memory.wf_filter (by assumption) _
    | exact Memory.wf_writeBytes (by assumption) _ _
    | with_reducible apply Keeps.mk_all
    | assumption
    | simp_all [Run.ok])

theorem doOuterBoundaryWorkDone_keeps {a s : State} (h : Keeps a s) {x1 x2} : Keeps a (doOuterBoundaryWorkDone x1 x2 s) := by
  unfold doOuterBoundaryWorkDone
  iterate 24 all_goals (try first
    | with_reducible assumption
    | with_reducible apply State.modOuter_keeps
    | with_reducible apply State.unhold_keeps
    | with_reducible apply State.refreshNext_keeps
    | with_reducible apply State.slabBoundary_keeps
    | with_reducible apply State.releaseSlot_keeps
    | with_reducible apply State.sealTest_keeps
    | with_reducible apply State.initWords_keeps
    | with_reducible apply State.roundRec_keeps
    | (with_reducible apply State.each_keeps; intro _ _ _)
    | (with_reducible apply foldl_keeps)
    | (with_reducible apply foldl_fst_keeps)
    | with_reducible apply Keeps.ite
    | with_reducible apply Keeps.ite_fst
    | with_reducible apply Keeps.ite_snd
    | intro _
    | dsimp only
    | split
    | (refine Keeps.fst (by with_reducible assumption) ?_)
    | (refine Keeps.snd (by with_reducible assumption) ?_)
    | rfl
    | exact ⟨rfl, rfl⟩
    | exact ⟨rfl, rfl, rfl⟩
    | exact Memory.wf_clear (by assumption) _ _
    | exact Memory.wf_filter (by assumption) _
    | exact Memory.wf_writeBytes (by assumption) _ _
    | with_reducible apply Keeps.mk_all
    | assumption
    | simp_all [Run.ok])

theorem execOuterBoundaryWorkDone_keeps {s t : State} {x1} (e : execOuterBoundaryWorkDone x1 s = .next t) : Keeps s t := by
  refine answer_keeps e ?_
  have h := Keeps.refl s
  iterate 24 all_goals (try first
    | with_reducible assumption
    | with_reducible apply doOuterBoundaryWorkDone_keeps
    | (with_reducible apply foldl_keeps)
    | (with_reducible apply foldl_fst_keeps)
    | with_reducible apply Keeps.ite
    | with_reducible apply Keeps.ite_fst
    | with_reducible apply Keeps.ite_snd
    | intro _
    | dsimp only
    | split
    | (refine Keeps.fst (by with_reducible assumption) ?_)
    | (refine Keeps.snd (by with_reducible assumption) ?_)
    | rfl
    | exact ⟨rfl, rfl⟩
    | exact ⟨rfl, rfl, rfl⟩
    | exact Memory.wf_clear (by assumption) _ _
    | exact Memory.wf_filter (by assumption) _
    | exact Memory.wf_writeBytes (by assumption) _ _
    | with_reducible apply Keeps.mk_all
    | assumption
    | simp_all [Run.ok])

theorem State.startJob_keeps {a s : State} (h : Keeps a s) {x1} : Keeps a (State.startJob s x1) := by
  unfold State.startJob
  iterate 24 all_goals (try first
    | with_reducible assumption
    | with_reducible apply State.modPart_keeps
    | with_reducible apply State.modRun_keeps
    | with_reducible apply State.startConfirm_keeps
    | with_reducible apply State.startRefresh_keeps
    | with_reducible apply State.startPairing_keeps
    | with_reducible apply State.goOn_keeps
    | (with_reducible apply foldl_keeps)
    | (with_reducible apply foldl_fst_keeps)
    | with_reducible apply Keeps.ite
    | with_reducible apply Keeps.ite_fst
    | with_reducible apply Keeps.ite_snd
    | intro _
    | dsimp only
    | split
    | (refine Keeps.fst (by with_reducible assumption) ?_)
    | (refine Keeps.snd (by with_reducible assumption) ?_)
    | rfl
    | exact ⟨rfl, rfl⟩
    | exact ⟨rfl, rfl, rfl⟩
    | exact Memory.wf_clear (by assumption) _ _
    | exact Memory.wf_filter (by assumption) _
    | exact Memory.wf_writeBytes (by assumption) _ _
    | with_reducible apply Keeps.mk_all
    | assumption
    | simp_all [Run.ok])

theorem doUpdateUnitRetired_keeps {a s : State} (h : Keeps a s) {x1} : Keeps a (doUpdateUnitRetired x1 s) := by
  unfold doUpdateUnitRetired
  iterate 24 all_goals (try first
    | with_reducible assumption
    | with_reducible apply State.modPart_keeps
    | with_reducible apply State.modUnit_keeps
    | with_reducible apply State.raise_keeps
    | with_reducible apply State.placeRedo_keeps
    | with_reducible apply State.dropOut_keeps
    | (with_reducible apply State.each_keeps; intro _ _ _)
    | (with_reducible apply foldl_keeps)
    | (with_reducible apply foldl_fst_keeps)
    | with_reducible apply Keeps.ite
    | with_reducible apply Keeps.ite_fst
    | with_reducible apply Keeps.ite_snd
    | intro _
    | dsimp only
    | split
    | (refine Keeps.fst (by with_reducible assumption) ?_)
    | (refine Keeps.snd (by with_reducible assumption) ?_)
    | rfl
    | exact ⟨rfl, rfl⟩
    | exact ⟨rfl, rfl, rfl⟩
    | exact Memory.wf_clear (by assumption) _ _
    | exact Memory.wf_filter (by assumption) _
    | exact Memory.wf_writeBytes (by assumption) _ _
    | with_reducible apply Keeps.mk_all
    | assumption
    | simp_all [Run.ok])

theorem execUpdateUnitRetired_keeps {s t : State} {x1} (e : execUpdateUnitRetired x1 s = .next t) : Keeps s t := by
  refine answer_keeps e ?_
  have h := Keeps.refl s
  iterate 24 all_goals (try first
    | with_reducible assumption
    | with_reducible apply doUpdateUnitRetired_keeps
    | (with_reducible apply foldl_keeps)
    | (with_reducible apply foldl_fst_keeps)
    | with_reducible apply Keeps.ite
    | with_reducible apply Keeps.ite_fst
    | with_reducible apply Keeps.ite_snd
    | intro _
    | dsimp only
    | split
    | (refine Keeps.fst (by with_reducible assumption) ?_)
    | (refine Keeps.snd (by with_reducible assumption) ?_)
    | rfl
    | exact ⟨rfl, rfl⟩
    | exact ⟨rfl, rfl, rfl⟩
    | exact Memory.wf_clear (by assumption) _ _
    | exact Memory.wf_filter (by assumption) _
    | exact Memory.wf_writeBytes (by assumption) _ _
    | with_reducible apply Keeps.mk_all
    | assumption
    | simp_all [Run.ok])

theorem State.packetEvent_keeps {a s : State} (h : Keeps a s) {x1 x2 x3 x4} (hF : ∀ t p, Keeps a t → Keeps a (x4 t p)) : Keeps a (State.packetEvent s x1 x2 x3 x4) := by
  unfold State.packetEvent
  iterate 24 all_goals (try first
    | with_reducible assumption
    | with_reducible apply hF
    | with_reducible apply State.receive_keeps
    | with_reducible apply State.bufErrors_keeps
    | with_reducible apply State.ackIfDue_keeps
    | with_reducible apply State.dataArrived_keeps
    | (with_reducible apply foldl_keeps)
    | (with_reducible apply foldl_fst_keeps)
    | with_reducible apply Keeps.ite
    | with_reducible apply Keeps.ite_fst
    | with_reducible apply Keeps.ite_snd
    | intro _
    | dsimp only
    | split
    | (refine Keeps.fst (by with_reducible assumption) ?_)
    | (refine Keeps.snd (by with_reducible assumption) ?_)
    | rfl
    | exact ⟨rfl, rfl⟩
    | exact ⟨rfl, rfl, rfl⟩
    | exact Memory.wf_clear (by assumption) _ _
    | exact Memory.wf_filter (by assumption) _
    | exact Memory.wf_writeBytes (by assumption) _ _
    | with_reducible apply Keeps.mk_all
    | assumption
    | simp_all [Run.ok])

theorem State.takeWrite_keeps {a s : State} (h : Keeps a s) {x1 x2 x3 x4} : Keeps a (State.takeWrite s x1 x2 x3 x4) := by
  unfold State.takeWrite
  iterate 24 all_goals (try first
    | with_reducible assumption
    | with_reducible apply State.save_keeps
    | with_reducible apply State.saveMarked_keeps
    | with_reducible apply State.raiseMem_keeps
    | with_reducible apply State.addrErr_keeps
    | with_reducible apply State.sealsLanded_keeps
    | (with_reducible apply State.each_keeps; intro _ _ _)
    | (with_reducible apply foldl_keeps)
    | (with_reducible apply foldl_fst_keeps)
    | with_reducible apply Keeps.ite
    | with_reducible apply Keeps.ite_fst
    | with_reducible apply Keeps.ite_snd
    | intro _
    | dsimp only
    | split
    | (refine Keeps.fst (by with_reducible assumption) ?_)
    | (refine Keeps.snd (by with_reducible assumption) ?_)
    | rfl
    | exact ⟨rfl, rfl⟩
    | exact ⟨rfl, rfl, rfl⟩
    | exact Memory.wf_clear (by assumption) _ _
    | exact Memory.wf_filter (by assumption) _
    | exact Memory.wf_writeBytes (by assumption) _ _
    | with_reducible apply Keeps.mk_all
    | assumption
    | simp_all [Run.ok])

theorem execHtWrite_keeps {s t : State} {x1 x2 x3} (e : execHtWrite x1 x2 x3 s = .next t) : Keeps s t := by
  refine answer_keeps e ?_
  have h := Keeps.refl s
  iterate 24 all_goals (try first
    | with_reducible assumption
    | with_reducible apply State.packetEvent_keeps
    | with_reducible apply State.takeWrite_keeps
    | (with_reducible apply foldl_keeps)
    | (with_reducible apply foldl_fst_keeps)
    | with_reducible apply Keeps.ite
    | with_reducible apply Keeps.ite_fst
    | with_reducible apply Keeps.ite_snd
    | intro _
    | dsimp only
    | split
    | (refine Keeps.fst (by with_reducible assumption) ?_)
    | (refine Keeps.snd (by with_reducible assumption) ?_)
    | rfl
    | exact ⟨rfl, rfl⟩
    | exact ⟨rfl, rfl, rfl⟩
    | exact Memory.wf_clear (by assumption) _ _
    | exact Memory.wf_filter (by assumption) _
    | exact Memory.wf_writeBytes (by assumption) _ _
    | with_reducible apply Keeps.mk_all
    | assumption
    | simp_all [Run.ok])

theorem State.respond_keeps {a s : State} (h : Keeps a s) {x1 x2 x3 x4 x5} : Keeps a (State.respond s x1 x2 x3 x4 x5) := by
  unfold State.respond
  iterate 24 all_goals (try first
    | with_reducible assumption
    | with_reducible apply State.sendNow_keeps
    | (with_reducible apply foldl_keeps)
    | (with_reducible apply foldl_fst_keeps)
    | with_reducible apply Keeps.ite
    | with_reducible apply Keeps.ite_fst
    | with_reducible apply Keeps.ite_snd
    | intro _
    | dsimp only
    | split
    | (refine Keeps.fst (by with_reducible assumption) ?_)
    | (refine Keeps.snd (by with_reducible assumption) ?_)
    | rfl
    | exact ⟨rfl, rfl⟩
    | exact ⟨rfl, rfl, rfl⟩
    | exact Memory.wf_clear (by assumption) _ _
    | exact Memory.wf_filter (by assumption) _
    | exact Memory.wf_writeBytes (by assumption) _ _
    | with_reducible apply Keeps.mk_all
    | assumption
    | simp_all [Run.ok])

theorem State.takeRead_keeps {a s : State} (h : Keeps a s) {x1 x2} : Keeps a (State.takeRead s x1 x2) := by
  unfold State.takeRead
  iterate 24 all_goals (try first
    | with_reducible assumption
    | with_reducible apply State.addRbw_keeps
    | with_reducible apply State.addrErr_keeps
    | with_reducible apply State.meet_keeps
    | with_reducible apply State.respond_keeps
    | (with_reducible apply foldl_keeps)
    | (with_reducible apply foldl_fst_keeps)
    | with_reducible apply Keeps.ite
    | with_reducible apply Keeps.ite_fst
    | with_reducible apply Keeps.ite_snd
    | intro _
    | dsimp only
    | split
    | (refine Keeps.fst (by with_reducible assumption) ?_)
    | (refine Keeps.snd (by with_reducible assumption) ?_)
    | rfl
    | exact ⟨rfl, rfl⟩
    | exact ⟨rfl, rfl, rfl⟩
    | exact Memory.wf_clear (by assumption) _ _
    | exact Memory.wf_filter (by assumption) _
    | exact Memory.wf_writeBytes (by assumption) _ _
    | with_reducible apply Keeps.mk_all
    | assumption
    | simp_all [Run.ok])

theorem execReadReq_keeps {s t : State} {x1} (e : execReadReq x1 s = .next t) : Keeps s t := by
  refine answer_keeps e ?_
  have h := Keeps.refl s
  iterate 24 all_goals (try first
    | with_reducible assumption
    | with_reducible apply State.packetEvent_keeps
    | with_reducible apply State.takeRead_keeps
    | (with_reducible apply foldl_keeps)
    | (with_reducible apply foldl_fst_keeps)
    | with_reducible apply Keeps.ite
    | with_reducible apply Keeps.ite_fst
    | with_reducible apply Keeps.ite_snd
    | intro _
    | dsimp only
    | split
    | (refine Keeps.fst (by with_reducible assumption) ?_)
    | (refine Keeps.snd (by with_reducible assumption) ?_)
    | rfl
    | exact ⟨rfl, rfl⟩
    | exact ⟨rfl, rfl, rfl⟩
    | exact Memory.wf_clear (by assumption) _ _
    | exact Memory.wf_filter (by assumption) _
    | exact Memory.wf_writeBytes (by assumption) _ _
    | with_reducible apply Keeps.mk_all
    | assumption
    | simp_all [Run.ok])

theorem State.takeAtomic_keeps {a s : State} (h : Keeps a s) {x1 x2} : Keeps a (State.takeAtomic s x1 x2) := by
  unfold State.takeAtomic
  iterate 24 all_goals (try first
    | with_reducible assumption
    | with_reducible apply State.modFab_keeps
    | with_reducible apply State.store_keeps
    | with_reducible apply State.addrErr_keeps
    | with_reducible apply State.slagBite_keeps
    | with_reducible apply State.meet_keeps
    | with_reducible apply State.respond_keeps
    | (with_reducible apply foldl_keeps)
    | (with_reducible apply foldl_fst_keeps)
    | with_reducible apply Keeps.ite
    | with_reducible apply Keeps.ite_fst
    | with_reducible apply Keeps.ite_snd
    | intro _
    | dsimp only
    | split
    | (refine Keeps.fst (by with_reducible assumption) ?_)
    | (refine Keeps.snd (by with_reducible assumption) ?_)
    | rfl
    | exact ⟨rfl, rfl⟩
    | exact ⟨rfl, rfl, rfl⟩
    | exact Memory.wf_clear (by assumption) _ _
    | exact Memory.wf_filter (by assumption) _
    | exact Memory.wf_writeBytes (by assumption) _ _
    | with_reducible apply Keeps.mk_all
    | assumption
    | simp_all [Run.ok])

theorem execFetchAdd_keeps {s t : State} {x1} (e : execFetchAdd x1 s = .next t) : Keeps s t := by
  refine answer_keeps e ?_
  have h := Keeps.refl s
  iterate 24 all_goals (try first
    | with_reducible assumption
    | with_reducible apply State.packetEvent_keeps
    | with_reducible apply State.takeAtomic_keeps
    | (with_reducible apply foldl_keeps)
    | (with_reducible apply foldl_fst_keeps)
    | with_reducible apply Keeps.ite
    | with_reducible apply Keeps.ite_fst
    | with_reducible apply Keeps.ite_snd
    | intro _
    | dsimp only
    | split
    | (refine Keeps.fst (by with_reducible assumption) ?_)
    | (refine Keeps.snd (by with_reducible assumption) ?_)
    | rfl
    | exact ⟨rfl, rfl⟩
    | exact ⟨rfl, rfl, rfl⟩
    | exact Memory.wf_clear (by assumption) _ _
    | exact Memory.wf_filter (by assumption) _
    | exact Memory.wf_writeBytes (by assumption) _ _
    | with_reducible apply Keeps.mk_all
    | assumption
    | simp_all [Run.ok])

theorem execCmpSwap_keeps {s t : State} {x1} (e : execCmpSwap x1 s = .next t) : Keeps s t := by
  refine answer_keeps e ?_
  have h := Keeps.refl s
  iterate 24 all_goals (try first
    | with_reducible assumption
    | with_reducible apply State.packetEvent_keeps
    | with_reducible apply State.takeAtomic_keeps
    | (with_reducible apply foldl_keeps)
    | (with_reducible apply foldl_fst_keeps)
    | with_reducible apply Keeps.ite
    | with_reducible apply Keeps.ite_fst
    | with_reducible apply Keeps.ite_snd
    | intro _
    | dsimp only
    | split
    | (refine Keeps.fst (by with_reducible assumption) ?_)
    | (refine Keeps.snd (by with_reducible assumption) ?_)
    | rfl
    | exact ⟨rfl, rfl⟩
    | exact ⟨rfl, rfl, rfl⟩
    | exact Memory.wf_clear (by assumption) _ _
    | exact Memory.wf_filter (by assumption) _
    | exact Memory.wf_writeBytes (by assumption) _ _
    | with_reducible apply Keeps.mk_all
    | assumption
    | simp_all [Run.ok])

theorem execSwap_keeps {s t : State} {x1} (e : execSwap x1 s = .next t) : Keeps s t := by
  refine answer_keeps e ?_
  have h := Keeps.refl s
  iterate 24 all_goals (try first
    | with_reducible assumption
    | with_reducible apply State.packetEvent_keeps
    | with_reducible apply State.takeAtomic_keeps
    | (with_reducible apply foldl_keeps)
    | (with_reducible apply foldl_fst_keeps)
    | with_reducible apply Keeps.ite
    | with_reducible apply Keeps.ite_fst
    | with_reducible apply Keeps.ite_snd
    | intro _
    | dsimp only
    | split
    | (refine Keeps.fst (by with_reducible assumption) ?_)
    | (refine Keeps.snd (by with_reducible assumption) ?_)
    | rfl
    | exact ⟨rfl, rfl⟩
    | exact ⟨rfl, rfl, rfl⟩
    | exact Memory.wf_clear (by assumption) _ _
    | exact Memory.wf_filter (by assumption) _
    | exact Memory.wf_writeBytes (by assumption) _ _
    | with_reducible apply Keeps.mk_all
    | assumption
    | simp_all [Run.ok])

theorem State.sendBitmap_keeps {a s : State} (h : Keeps a s) {x1 x2 x3 x4} : Keeps a (State.sendBitmap s x1 x2 x3 x4) := by
  unfold State.sendBitmap
  iterate 24 all_goals (try first
    | with_reducible assumption
    | with_reducible apply State.remoteWrite_keeps
    | (with_reducible apply State.each_keeps; intro _ _ _)
    | (with_reducible apply foldl_keeps)
    | (with_reducible apply foldl_fst_keeps)
    | with_reducible apply Keeps.ite
    | with_reducible apply Keeps.ite_fst
    | with_reducible apply Keeps.ite_snd
    | intro _
    | dsimp only
    | split
    | (refine Keeps.fst (by with_reducible assumption) ?_)
    | (refine Keeps.snd (by with_reducible assumption) ?_)
    | rfl
    | exact ⟨rfl, rfl⟩
    | exact ⟨rfl, rfl, rfl⟩
    | exact Memory.wf_clear (by assumption) _ _
    | exact Memory.wf_filter (by assumption) _
    | exact Memory.wf_writeBytes (by assumption) _ _
    | with_reducible apply Keeps.mk_all
    | assumption
    | simp_all [Run.ok])

theorem State.ownerDone_keeps {a s : State} (h : Keeps a s) {x1 x2} : Keeps a (State.ownerDone s x1 x2) := by
  unfold State.ownerDone
  iterate 24 all_goals (try first
    | with_reducible assumption
    | with_reducible apply State.modPart_keeps
    | with_reducible apply State.modOuter_keeps
    | with_reducible apply State.pieceEnded_keeps
    | with_reducible apply State.unhold_keeps
    | with_reducible apply State.imageAdvance_keeps
    | with_reducible apply State.modSlab_keeps
    | with_reducible apply State.heldTest_keeps
    | with_reducible apply State.sendBitmap_keeps
    | (with_reducible apply foldl_keeps)
    | (with_reducible apply foldl_fst_keeps)
    | with_reducible apply Keeps.ite
    | with_reducible apply Keeps.ite_fst
    | with_reducible apply Keeps.ite_snd
    | intro _
    | dsimp only
    | split
    | (refine Keeps.fst (by with_reducible assumption) ?_)
    | (refine Keeps.snd (by with_reducible assumption) ?_)
    | rfl
    | exact ⟨rfl, rfl⟩
    | exact ⟨rfl, rfl, rfl⟩
    | exact Memory.wf_clear (by assumption) _ _
    | exact Memory.wf_filter (by assumption) _
    | exact Memory.wf_writeBytes (by assumption) _ _
    | with_reducible apply Keeps.mk_all
    | assumption
    | simp_all [Run.ok])

theorem State.landRead_keeps {a s : State} (h : Keeps a s) {x1 x2 x3 x4} : Keeps a (State.landRead s x1 x2 x3 x4) := by
  unfold State.landRead
  iterate 24 all_goals (try first
    | with_reducible assumption
    | with_reducible apply State.modOuter_keeps
    | with_reducible apply State.landArena_keeps
    | with_reducible apply State.landTongs_keeps
    | with_reducible apply State.landRestore_keeps
    | with_reducible apply State.wordReleased_keeps
    | (with_reducible apply foldl_keeps)
    | (with_reducible apply foldl_fst_keeps)
    | with_reducible apply Keeps.ite
    | with_reducible apply Keeps.ite_fst
    | with_reducible apply Keeps.ite_snd
    | intro _
    | dsimp only
    | split
    | (refine Keeps.fst (by with_reducible assumption) ?_)
    | (refine Keeps.snd (by with_reducible assumption) ?_)
    | rfl
    | exact ⟨rfl, rfl⟩
    | exact ⟨rfl, rfl, rfl⟩
    | exact Memory.wf_clear (by assumption) _ _
    | exact Memory.wf_filter (by assumption) _
    | exact Memory.wf_writeBytes (by assumption) _ _
    | with_reducible apply Keeps.mk_all
    | assumption
    | simp_all [Run.ok])

theorem State.takeAnswerPkt_keeps {a s : State} (h : Keeps a s) {x1 x2} : Keeps a (State.takeAnswerPkt s x1 x2) := by
  unfold State.takeAnswerPkt
  iterate 24 all_goals (try first
    | with_reducible assumption
    | with_reducible apply State.modFab_keeps
    | with_reducible apply State.modOuter_keeps
    | with_reducible apply State.pump_keeps
    | with_reducible apply State.serveGrants_keeps
    | with_reducible apply State.landRead_keeps
    | (with_reducible apply foldl_keeps)
    | (with_reducible apply foldl_fst_keeps)
    | with_reducible apply Keeps.ite
    | with_reducible apply Keeps.ite_fst
    | with_reducible apply Keeps.ite_snd
    | intro _
    | dsimp only
    | split
    | (refine Keeps.fst (by with_reducible assumption) ?_)
    | (refine Keeps.snd (by with_reducible assumption) ?_)
    | rfl
    | exact ⟨rfl, rfl⟩
    | exact ⟨rfl, rfl, rfl⟩
    | exact Memory.wf_clear (by assumption) _ _
    | exact Memory.wf_filter (by assumption) _
    | exact Memory.wf_writeBytes (by assumption) _ _
    | with_reducible apply Keeps.mk_all
    | assumption
    | simp_all [Run.ok])

theorem execAtomicResp_keeps {s t : State} {x1} (e : execAtomicResp x1 s = .next t) : Keeps s t := by
  refine answer_keeps e ?_
  have h := Keeps.refl s
  iterate 24 all_goals (try first
    | with_reducible assumption
    | with_reducible apply State.packetEvent_keeps
    | with_reducible apply State.takeAnswerPkt_keeps
    | (with_reducible apply foldl_keeps)
    | (with_reducible apply foldl_fst_keeps)
    | with_reducible apply Keeps.ite
    | with_reducible apply Keeps.ite_fst
    | with_reducible apply Keeps.ite_snd
    | intro _
    | dsimp only
    | split
    | (refine Keeps.fst (by with_reducible assumption) ?_)
    | (refine Keeps.snd (by with_reducible assumption) ?_)
    | rfl
    | exact ⟨rfl, rfl⟩
    | exact ⟨rfl, rfl, rfl⟩
    | exact Memory.wf_clear (by assumption) _ _
    | exact Memory.wf_filter (by assumption) _
    | exact Memory.wf_writeBytes (by assumption) _ _
    | with_reducible apply Keeps.mk_all
    | assumption
    | simp_all [Run.ok])

theorem State.takeAck_keeps {a s : State} (h : Keeps a s) {x1 x2} : Keeps a (State.takeAck s x1 x2) := by
  unfold State.takeAck
  iterate 24 all_goals (try first
    | with_reducible assumption
    | with_reducible apply State.modFab_keeps
    | with_reducible apply State.pump_keeps
    | with_reducible apply State.ownerDone_keeps
    | (with_reducible apply State.each_keeps; intro _ _ _)
    | (with_reducible apply foldl_keeps)
    | (with_reducible apply foldl_fst_keeps)
    | with_reducible apply Keeps.ite
    | with_reducible apply Keeps.ite_fst
    | with_reducible apply Keeps.ite_snd
    | intro _
    | dsimp only
    | split
    | (refine Keeps.fst (by with_reducible assumption) ?_)
    | (refine Keeps.snd (by with_reducible assumption) ?_)
    | rfl
    | exact ⟨rfl, rfl⟩
    | exact ⟨rfl, rfl, rfl⟩
    | exact Memory.wf_clear (by assumption) _ _
    | exact Memory.wf_filter (by assumption) _
    | exact Memory.wf_writeBytes (by assumption) _ _
    | with_reducible apply Keeps.mk_all
    | assumption
    | simp_all [Run.ok])

theorem execHtAck_keeps {s t : State} {x1} (e : execHtAck x1 s = .next t) : Keeps s t := by
  refine answer_keeps e ?_
  have h := Keeps.refl s
  iterate 24 all_goals (try first
    | with_reducible assumption
    | with_reducible apply State.packetEvent_keeps
    | with_reducible apply State.takeAck_keeps
    | (with_reducible apply foldl_keeps)
    | (with_reducible apply foldl_fst_keeps)
    | with_reducible apply Keeps.ite
    | with_reducible apply Keeps.ite_fst
    | with_reducible apply Keeps.ite_snd
    | intro _
    | dsimp only
    | split
    | (refine Keeps.fst (by with_reducible assumption) ?_)
    | (refine Keeps.snd (by with_reducible assumption) ?_)
    | rfl
    | exact ⟨rfl, rfl⟩
    | exact ⟨rfl, rfl, rfl⟩
    | exact Memory.wf_clear (by assumption) _ _
    | exact Memory.wf_filter (by assumption) _
    | exact Memory.wf_writeBytes (by assumption) _ _
    | with_reducible apply Keeps.mk_all
    | assumption
    | simp_all [Run.ok])

theorem doHtAckTimer_keeps {a s : State} (h : Keeps a s) {x1 x2 x3} : Keeps a (doHtAckTimer x1 x2 x3 s) := by
  unfold doHtAckTimer
  iterate 24 all_goals (try first
    | with_reducible assumption
    | with_reducible apply State.sendAck_keeps
    | (with_reducible apply foldl_keeps)
    | (with_reducible apply foldl_fst_keeps)
    | with_reducible apply Keeps.ite
    | with_reducible apply Keeps.ite_fst
    | with_reducible apply Keeps.ite_snd
    | intro _
    | dsimp only
    | split
    | (refine Keeps.fst (by with_reducible assumption) ?_)
    | (refine Keeps.snd (by with_reducible assumption) ?_)
    | rfl
    | exact ⟨rfl, rfl⟩
    | exact ⟨rfl, rfl, rfl⟩
    | exact Memory.wf_clear (by assumption) _ _
    | exact Memory.wf_filter (by assumption) _
    | exact Memory.wf_writeBytes (by assumption) _ _
    | with_reducible apply Keeps.mk_all
    | assumption
    | simp_all [Run.ok])

theorem execHtAckTimer_keeps {s t : State} {x1 x2 x3} (e : execHtAckTimer x1 x2 x3 s = .next t) : Keeps s t := by
  refine answer_keeps e ?_
  have h := Keeps.refl s
  iterate 24 all_goals (try first
    | with_reducible assumption
    | with_reducible apply doHtAckTimer_keeps
    | (with_reducible apply foldl_keeps)
    | (with_reducible apply foldl_fst_keeps)
    | with_reducible apply Keeps.ite
    | with_reducible apply Keeps.ite_fst
    | with_reducible apply Keeps.ite_snd
    | intro _
    | dsimp only
    | split
    | (refine Keeps.fst (by with_reducible assumption) ?_)
    | (refine Keeps.snd (by with_reducible assumption) ?_)
    | rfl
    | exact ⟨rfl, rfl⟩
    | exact ⟨rfl, rfl, rfl⟩
    | exact Memory.wf_clear (by assumption) _ _
    | exact Memory.wf_filter (by assumption) _
    | exact Memory.wf_writeBytes (by assumption) _ _
    | with_reducible apply Keeps.mk_all
    | assumption
    | simp_all [Run.ok])

theorem State.takeRequest_keeps {a s : State} (h : Keeps a s) {x1 x2} : Keeps a (State.takeRequest s x1 x2) := by
  unfold State.takeRequest
  iterate 24 all_goals (try first
    | with_reducible assumption
    | with_reducible apply State.modFab_keeps
    | with_reducible apply State.serveGrants_keeps
    | (with_reducible apply foldl_keeps)
    | (with_reducible apply foldl_fst_keeps)
    | with_reducible apply Keeps.ite
    | with_reducible apply Keeps.ite_fst
    | with_reducible apply Keeps.ite_snd
    | intro _
    | dsimp only
    | split
    | (refine Keeps.fst (by with_reducible assumption) ?_)
    | (refine Keeps.snd (by with_reducible assumption) ?_)
    | rfl
    | exact ⟨rfl, rfl⟩
    | exact ⟨rfl, rfl, rfl⟩
    | exact Memory.wf_clear (by assumption) _ _
    | exact Memory.wf_filter (by assumption) _
    | exact Memory.wf_writeBytes (by assumption) _ _
    | with_reducible apply Keeps.mk_all
    | assumption
    | simp_all [Run.ok])

theorem execRequest_keeps {s t : State} {x1} (e : execRequest x1 s = .next t) : Keeps s t := by
  refine answer_keeps e ?_
  have h := Keeps.refl s
  iterate 24 all_goals (try first
    | with_reducible assumption
    | with_reducible apply State.packetEvent_keeps
    | with_reducible apply State.takeRequest_keeps
    | (with_reducible apply foldl_keeps)
    | (with_reducible apply foldl_fst_keeps)
    | with_reducible apply Keeps.ite
    | with_reducible apply Keeps.ite_fst
    | with_reducible apply Keeps.ite_snd
    | intro _
    | dsimp only
    | split
    | (refine Keeps.fst (by with_reducible assumption) ?_)
    | (refine Keeps.snd (by with_reducible assumption) ?_)
    | rfl
    | exact ⟨rfl, rfl⟩
    | exact ⟨rfl, rfl, rfl⟩
    | exact Memory.wf_clear (by assumption) _ _
    | exact Memory.wf_filter (by assumption) _
    | exact Memory.wf_writeBytes (by assumption) _ _
    | with_reducible apply Keeps.mk_all
    | assumption
    | simp_all [Run.ok])

theorem State.takeGrant_keeps {a s : State} (h : Keeps a s) {x1 x2} : Keeps a (State.takeGrant s x1 x2) := by
  unfold State.takeGrant
  iterate 24 all_goals (try first
    | with_reducible assumption
    | with_reducible apply State.modFab_keeps
    | with_reducible apply State.pump_keeps
    | (with_reducible apply foldl_keeps)
    | (with_reducible apply foldl_fst_keeps)
    | with_reducible apply Keeps.ite
    | with_reducible apply Keeps.ite_fst
    | with_reducible apply Keeps.ite_snd
    | intro _
    | dsimp only
    | split
    | (refine Keeps.fst (by with_reducible assumption) ?_)
    | (refine Keeps.snd (by with_reducible assumption) ?_)
    | rfl
    | exact ⟨rfl, rfl⟩
    | exact ⟨rfl, rfl, rfl⟩
    | exact Memory.wf_clear (by assumption) _ _
    | exact Memory.wf_filter (by assumption) _
    | exact Memory.wf_writeBytes (by assumption) _ _
    | with_reducible apply Keeps.mk_all
    | assumption
    | simp_all [Run.ok])

theorem execGrant_keeps {s t : State} {x1} (e : execGrant x1 s = .next t) : Keeps s t := by
  refine answer_keeps e ?_
  have h := Keeps.refl s
  iterate 24 all_goals (try first
    | with_reducible assumption
    | with_reducible apply State.packetEvent_keeps
    | with_reducible apply State.takeGrant_keeps
    | (with_reducible apply foldl_keeps)
    | (with_reducible apply foldl_fst_keeps)
    | with_reducible apply Keeps.ite
    | with_reducible apply Keeps.ite_fst
    | with_reducible apply Keeps.ite_snd
    | intro _
    | dsimp only
    | split
    | (refine Keeps.fst (by with_reducible assumption) ?_)
    | (refine Keeps.snd (by with_reducible assumption) ?_)
    | rfl
    | exact ⟨rfl, rfl⟩
    | exact ⟨rfl, rfl, rfl⟩
    | exact Memory.wf_clear (by assumption) _ _
    | exact Memory.wf_filter (by assumption) _
    | exact Memory.wf_writeBytes (by assumption) _ _
    | with_reducible apply Keeps.mk_all
    | assumption
    | simp_all [Run.ok])

theorem State.takeReturn_keeps {a s : State} (h : Keeps a s) {x1 x2} : Keeps a (State.takeReturn s x1 x2) := by
  unfold State.takeReturn
  iterate 24 all_goals (try first
    | with_reducible assumption
    | with_reducible apply State.modFab_keeps
    | with_reducible apply State.serveGrants_keeps
    | (with_reducible apply foldl_keeps)
    | (with_reducible apply foldl_fst_keeps)
    | with_reducible apply Keeps.ite
    | with_reducible apply Keeps.ite_fst
    | with_reducible apply Keeps.ite_snd
    | intro _
    | dsimp only
    | split
    | (refine Keeps.fst (by with_reducible assumption) ?_)
    | (refine Keeps.snd (by with_reducible assumption) ?_)
    | rfl
    | exact ⟨rfl, rfl⟩
    | exact ⟨rfl, rfl, rfl⟩
    | exact Memory.wf_clear (by assumption) _ _
    | exact Memory.wf_filter (by assumption) _
    | exact Memory.wf_writeBytes (by assumption) _ _
    | with_reducible apply Keeps.mk_all
    | assumption
    | simp_all [Run.ok])

theorem execReturnGrant_keeps {s t : State} {x1} (e : execReturnGrant x1 s = .next t) : Keeps s t := by
  refine answer_keeps e ?_
  have h := Keeps.refl s
  iterate 24 all_goals (try first
    | with_reducible assumption
    | with_reducible apply State.packetEvent_keeps
    | with_reducible apply State.takeReturn_keeps
    | (with_reducible apply foldl_keeps)
    | (with_reducible apply foldl_fst_keeps)
    | with_reducible apply Keeps.ite
    | with_reducible apply Keeps.ite_fst
    | with_reducible apply Keeps.ite_snd
    | intro _
    | dsimp only
    | split
    | (refine Keeps.fst (by with_reducible assumption) ?_)
    | (refine Keeps.snd (by with_reducible assumption) ?_)
    | rfl
    | exact ⟨rfl, rfl⟩
    | exact ⟨rfl, rfl, rfl⟩
    | exact Memory.wf_clear (by assumption) _ _
    | exact Memory.wf_filter (by assumption) _
    | exact Memory.wf_writeBytes (by assumption) _ _
    | with_reducible apply Keeps.mk_all
    | assumption
    | simp_all [Run.ok])

theorem doGrantIdleTimeout_keeps {a s : State} (h : Keeps a s) {x1 x2 x3} : Keeps a (doGrantIdleTimeout x1 x2 x3 s) := by
  unfold doGrantIdleTimeout
  iterate 24 all_goals (try first
    | with_reducible assumption
    | with_reducible apply State.modFab_keeps
    | with_reducible apply State.send_keeps
    | (with_reducible apply foldl_keeps)
    | (with_reducible apply foldl_fst_keeps)
    | with_reducible apply Keeps.ite
    | with_reducible apply Keeps.ite_fst
    | with_reducible apply Keeps.ite_snd
    | intro _
    | dsimp only
    | split
    | (refine Keeps.fst (by with_reducible assumption) ?_)
    | (refine Keeps.snd (by with_reducible assumption) ?_)
    | rfl
    | exact ⟨rfl, rfl⟩
    | exact ⟨rfl, rfl, rfl⟩
    | exact Memory.wf_clear (by assumption) _ _
    | exact Memory.wf_filter (by assumption) _
    | exact Memory.wf_writeBytes (by assumption) _ _
    | with_reducible apply Keeps.mk_all
    | assumption
    | simp_all [Run.ok])

theorem execGrantIdleTimeout_keeps {s t : State} {x1 x2 x3} (e : execGrantIdleTimeout x1 x2 x3 s = .next t) : Keeps s t := by
  refine answer_keeps e ?_
  have h := Keeps.refl s
  iterate 24 all_goals (try first
    | with_reducible assumption
    | with_reducible apply doGrantIdleTimeout_keeps
    | (with_reducible apply foldl_keeps)
    | (with_reducible apply foldl_fst_keeps)
    | with_reducible apply Keeps.ite
    | with_reducible apply Keeps.ite_fst
    | with_reducible apply Keeps.ite_snd
    | intro _
    | dsimp only
    | split
    | (refine Keeps.fst (by with_reducible assumption) ?_)
    | (refine Keeps.snd (by with_reducible assumption) ?_)
    | rfl
    | exact ⟨rfl, rfl⟩
    | exact ⟨rfl, rfl, rfl⟩
    | exact Memory.wf_clear (by assumption) _ _
    | exact Memory.wf_filter (by assumption) _
    | exact Memory.wf_writeBytes (by assumption) _ _
    | with_reducible apply Keeps.mk_all
    | assumption
    | simp_all [Run.ok])

theorem doPacketTimeout_keeps {a s : State} (h : Keeps a s) {x1 x2 x3 x4} : Keeps a (doPacketTimeout x1 x2 x3 x4 s) := by
  unfold doPacketTimeout
  iterate 24 all_goals (try first
    | with_reducible assumption
    | with_reducible apply State.modFab_keeps
    | with_reducible apply State.launch_keeps
    | with_reducible apply State.ownerLost_keeps
    | with_reducible apply State.declareLost_keeps
    | (with_reducible apply foldl_keeps)
    | (with_reducible apply foldl_fst_keeps)
    | with_reducible apply Keeps.ite
    | with_reducible apply Keeps.ite_fst
    | with_reducible apply Keeps.ite_snd
    | intro _
    | dsimp only
    | split
    | (refine Keeps.fst (by with_reducible assumption) ?_)
    | (refine Keeps.snd (by with_reducible assumption) ?_)
    | rfl
    | exact ⟨rfl, rfl⟩
    | exact ⟨rfl, rfl, rfl⟩
    | exact Memory.wf_clear (by assumption) _ _
    | exact Memory.wf_filter (by assumption) _
    | exact Memory.wf_writeBytes (by assumption) _ _
    | with_reducible apply Keeps.mk_all
    | assumption
    | simp_all [Run.ok])

theorem execPacketTimeout_keeps {s t : State} {x1 x2 x3 x4} (e : execPacketTimeout x1 x2 x3 x4 s = .next t) : Keeps s t := by
  refine answer_keeps e ?_
  have h := Keeps.refl s
  iterate 24 all_goals (try first
    | with_reducible assumption
    | with_reducible apply doPacketTimeout_keeps
    | (with_reducible apply foldl_keeps)
    | (with_reducible apply foldl_fst_keeps)
    | with_reducible apply Keeps.ite
    | with_reducible apply Keeps.ite_fst
    | with_reducible apply Keeps.ite_snd
    | intro _
    | dsimp only
    | split
    | (refine Keeps.fst (by with_reducible assumption) ?_)
    | (refine Keeps.snd (by with_reducible assumption) ?_)
    | rfl
    | exact ⟨rfl, rfl⟩
    | exact ⟨rfl, rfl, rfl⟩
    | exact Memory.wf_clear (by assumption) _ _
    | exact Memory.wf_filter (by assumption) _
    | exact Memory.wf_writeBytes (by assumption) _ _
    | with_reducible apply Keeps.mk_all
    | assumption
    | simp_all [Run.ok])

theorem doHeartbeatTimer_keeps {a s : State} (h : Keeps a s) {x1} : Keeps a (doHeartbeatTimer x1 s) := by
  unfold doHeartbeatTimer
  iterate 24 all_goals (try first
    | with_reducible assumption
    | with_reducible apply State.modFab_keeps
    | with_reducible apply State.heartbeats_keeps
    | (with_reducible apply foldl_keeps)
    | (with_reducible apply foldl_fst_keeps)
    | with_reducible apply Keeps.ite
    | with_reducible apply Keeps.ite_fst
    | with_reducible apply Keeps.ite_snd
    | intro _
    | dsimp only
    | split
    | (refine Keeps.fst (by with_reducible assumption) ?_)
    | (refine Keeps.snd (by with_reducible assumption) ?_)
    | rfl
    | exact ⟨rfl, rfl⟩
    | exact ⟨rfl, rfl, rfl⟩
    | exact Memory.wf_clear (by assumption) _ _
    | exact Memory.wf_filter (by assumption) _
    | exact Memory.wf_writeBytes (by assumption) _ _
    | with_reducible apply Keeps.mk_all
    | assumption
    | simp_all [Run.ok])

theorem execHeartbeatTimer_keeps {s t : State} {x1} (e : execHeartbeatTimer x1 s = .next t) : Keeps s t := by
  refine answer_keeps e ?_
  have h := Keeps.refl s
  iterate 24 all_goals (try first
    | with_reducible assumption
    | with_reducible apply doHeartbeatTimer_keeps
    | (with_reducible apply foldl_keeps)
    | (with_reducible apply foldl_fst_keeps)
    | with_reducible apply Keeps.ite
    | with_reducible apply Keeps.ite_fst
    | with_reducible apply Keeps.ite_snd
    | intro _
    | dsimp only
    | split
    | (refine Keeps.fst (by with_reducible assumption) ?_)
    | (refine Keeps.snd (by with_reducible assumption) ?_)
    | rfl
    | exact ⟨rfl, rfl⟩
    | exact ⟨rfl, rfl, rfl⟩
    | exact Memory.wf_clear (by assumption) _ _
    | exact Memory.wf_filter (by assumption) _
    | exact Memory.wf_writeBytes (by assumption) _ _
    | with_reducible apply Keeps.mk_all
    | assumption
    | simp_all [Run.ok])

theorem State.takeHeartbeat_keeps {a s : State} (h : Keeps a s) {x1 x2} : Keeps a (State.takeHeartbeat s x1 x2) := by
  unfold State.takeHeartbeat
  iterate 24 all_goals (try first
    | with_reducible assumption
    | with_reducible apply State.modFab_keeps
    | with_reducible apply State.pump_keeps
    | with_reducible apply State.declareLost_keeps
    | (with_reducible apply foldl_keeps)
    | (with_reducible apply foldl_fst_keeps)
    | with_reducible apply Keeps.ite
    | with_reducible apply Keeps.ite_fst
    | with_reducible apply Keeps.ite_snd
    | intro _
    | dsimp only
    | split
    | (refine Keeps.fst (by with_reducible assumption) ?_)
    | (refine Keeps.snd (by with_reducible assumption) ?_)
    | rfl
    | exact ⟨rfl, rfl⟩
    | exact ⟨rfl, rfl, rfl⟩
    | exact Memory.wf_clear (by assumption) _ _
    | exact Memory.wf_filter (by assumption) _
    | exact Memory.wf_writeBytes (by assumption) _ _
    | with_reducible apply Keeps.mk_all
    | assumption
    | simp_all [Run.ok])

theorem execHeartbeat_keeps {s t : State} {x1} (e : execHeartbeat x1 s = .next t) : Keeps s t := by
  refine answer_keeps e ?_
  have h := Keeps.refl s
  iterate 24 all_goals (try first
    | with_reducible assumption
    | with_reducible apply State.packetEvent_keeps
    | with_reducible apply State.takeHeartbeat_keeps
    | (with_reducible apply foldl_keeps)
    | (with_reducible apply foldl_fst_keeps)
    | with_reducible apply Keeps.ite
    | with_reducible apply Keeps.ite_fst
    | with_reducible apply Keeps.ite_snd
    | intro _
    | dsimp only
    | split
    | (refine Keeps.fst (by with_reducible assumption) ?_)
    | (refine Keeps.snd (by with_reducible assumption) ?_)
    | rfl
    | exact ⟨rfl, rfl⟩
    | exact ⟨rfl, rfl, rfl⟩
    | exact Memory.wf_clear (by assumption) _ _
    | exact Memory.wf_filter (by assumption) _
    | exact Memory.wf_writeBytes (by assumption) _ _
    | with_reducible apply Keeps.mk_all
    | assumption
    | simp_all [Run.ok])

theorem doPlaneDown_keeps {a s : State} (h : Keeps a s) {x1 x2 x3} : Keeps a (doPlaneDown x1 x2 x3 s) := by
  unfold doPlaneDown
  iterate 24 all_goals (try first
    | with_reducible assumption
    | with_reducible apply State.modFab_keeps
    | (with_reducible apply foldl_keeps)
    | (with_reducible apply foldl_fst_keeps)
    | with_reducible apply Keeps.ite
    | with_reducible apply Keeps.ite_fst
    | with_reducible apply Keeps.ite_snd
    | intro _
    | dsimp only
    | split
    | (refine Keeps.fst (by with_reducible assumption) ?_)
    | (refine Keeps.snd (by with_reducible assumption) ?_)
    | rfl
    | exact ⟨rfl, rfl⟩
    | exact ⟨rfl, rfl, rfl⟩
    | exact Memory.wf_clear (by assumption) _ _
    | exact Memory.wf_filter (by assumption) _
    | exact Memory.wf_writeBytes (by assumption) _ _
    | with_reducible apply Keeps.mk_all
    | assumption
    | simp_all [Run.ok])

theorem execPlaneDown_keeps {s t : State} {x1 x2 x3} (e : execPlaneDown x1 x2 x3 s = .next t) : Keeps s t := by
  refine answer_keeps e ?_
  have h := Keeps.refl s
  iterate 24 all_goals (try first
    | with_reducible assumption
    | with_reducible apply doPlaneDown_keeps
    | (with_reducible apply foldl_keeps)
    | (with_reducible apply foldl_fst_keeps)
    | with_reducible apply Keeps.ite
    | with_reducible apply Keeps.ite_fst
    | with_reducible apply Keeps.ite_snd
    | intro _
    | dsimp only
    | split
    | (refine Keeps.fst (by with_reducible assumption) ?_)
    | (refine Keeps.snd (by with_reducible assumption) ?_)
    | rfl
    | exact ⟨rfl, rfl⟩
    | exact ⟨rfl, rfl, rfl⟩
    | exact Memory.wf_clear (by assumption) _ _
    | exact Memory.wf_filter (by assumption) _
    | exact Memory.wf_writeBytes (by assumption) _ _
    | with_reducible apply Keeps.mk_all
    | assumption
    | simp_all [Run.ok])

theorem doPeerLost_keeps {a s : State} (h : Keeps a s) {x1 x2} : Keeps a (doPeerLost x1 x2 s) := by
  unfold doPeerLost
  iterate 24 all_goals (try first
    | with_reducible assumption
    | with_reducible apply State.declareLost_keeps
    | (with_reducible apply foldl_keeps)
    | (with_reducible apply foldl_fst_keeps)
    | with_reducible apply Keeps.ite
    | with_reducible apply Keeps.ite_fst
    | with_reducible apply Keeps.ite_snd
    | intro _
    | dsimp only
    | split
    | (refine Keeps.fst (by with_reducible assumption) ?_)
    | (refine Keeps.snd (by with_reducible assumption) ?_)
    | rfl
    | exact ⟨rfl, rfl⟩
    | exact ⟨rfl, rfl, rfl⟩
    | exact Memory.wf_clear (by assumption) _ _
    | exact Memory.wf_filter (by assumption) _
    | exact Memory.wf_writeBytes (by assumption) _ _
    | with_reducible apply Keeps.mk_all
    | assumption
    | simp_all [Run.ok])

theorem execPeerLost_keeps {s t : State} {x1 x2} (e : execPeerLost x1 x2 s = .next t) : Keeps s t := by
  refine answer_keeps e ?_
  have h := Keeps.refl s
  iterate 24 all_goals (try first
    | with_reducible assumption
    | with_reducible apply doPeerLost_keeps
    | (with_reducible apply foldl_keeps)
    | (with_reducible apply foldl_fst_keeps)
    | with_reducible apply Keeps.ite
    | with_reducible apply Keeps.ite_fst
    | with_reducible apply Keeps.ite_snd
    | intro _
    | dsimp only
    | split
    | (refine Keeps.fst (by with_reducible assumption) ?_)
    | (refine Keeps.snd (by with_reducible assumption) ?_)
    | rfl
    | exact ⟨rfl, rfl⟩
    | exact ⟨rfl, rfl, rfl⟩
    | exact Memory.wf_clear (by assumption) _ _
    | exact Memory.wf_filter (by assumption) _
    | exact Memory.wf_writeBytes (by assumption) _ _
    | with_reducible apply Keeps.mk_all
    | assumption
    | simp_all [Run.ok])

theorem State.resendSub_keeps {a s : State} (h : Keeps a s) {x1 x2} : Keeps a (State.resendSub s x1 x2) := by
  unfold State.resendSub
  iterate 24 all_goals (try first
    | with_reducible assumption
    | with_reducible apply State.modPort_keeps
    | with_reducible apply State.launch_keeps
    | (with_reducible apply State.each_keeps; intro _ _ _)
    | (with_reducible apply foldl_keeps)
    | (with_reducible apply foldl_fst_keeps)
    | with_reducible apply Keeps.ite
    | with_reducible apply Keeps.ite_fst
    | with_reducible apply Keeps.ite_snd
    | intro _
    | dsimp only
    | split
    | (refine Keeps.fst (by with_reducible assumption) ?_)
    | (refine Keeps.snd (by with_reducible assumption) ?_)
    | rfl
    | exact ⟨rfl, rfl⟩
    | exact ⟨rfl, rfl, rfl⟩
    | exact Memory.wf_clear (by assumption) _ _
    | exact Memory.wf_filter (by assumption) _
    | exact Memory.wf_writeBytes (by assumption) _ _
    | with_reducible apply Keeps.mk_all
    | assumption
    | simp_all [Run.ok])

theorem State.flap_keeps {a s : State} (h : Keeps a s) {x1 x2} : Keeps a (State.flap s x1 x2) := by
  unfold State.flap
  iterate 24 all_goals (try first
    | with_reducible assumption
    | with_reducible apply State.raise_keeps
    | with_reducible apply State.modPort_keeps
    | (with_reducible apply foldl_keeps)
    | (with_reducible apply foldl_fst_keeps)
    | with_reducible apply Keeps.ite
    | with_reducible apply Keeps.ite_fst
    | with_reducible apply Keeps.ite_snd
    | intro _
    | dsimp only
    | split
    | (refine Keeps.fst (by with_reducible assumption) ?_)
    | (refine Keeps.snd (by with_reducible assumption) ?_)
    | rfl
    | exact ⟨rfl, rfl⟩
    | exact ⟨rfl, rfl, rfl⟩
    | exact Memory.wf_clear (by assumption) _ _
    | exact Memory.wf_filter (by assumption) _
    | exact Memory.wf_writeBytes (by assumption) _ _
    | with_reducible apply Keeps.mk_all
    | assumption
    | simp_all [Run.ok])

theorem doLinkDown_keeps {a s : State} (h : Keeps a s) {x1 x2} : Keeps a (doLinkDown x1 x2 s) := by
  unfold doLinkDown
  iterate 24 all_goals (try first
    | with_reducible assumption
    | with_reducible apply State.modPort_keeps
    | with_reducible apply State.resendSub_keeps
    | with_reducible apply State.flap_keeps
    | (with_reducible apply foldl_keeps)
    | (with_reducible apply foldl_fst_keeps)
    | with_reducible apply Keeps.ite
    | with_reducible apply Keeps.ite_fst
    | with_reducible apply Keeps.ite_snd
    | intro _
    | dsimp only
    | split
    | (refine Keeps.fst (by with_reducible assumption) ?_)
    | (refine Keeps.snd (by with_reducible assumption) ?_)
    | rfl
    | exact ⟨rfl, rfl⟩
    | exact ⟨rfl, rfl, rfl⟩
    | exact Memory.wf_clear (by assumption) _ _
    | exact Memory.wf_filter (by assumption) _
    | exact Memory.wf_writeBytes (by assumption) _ _
    | with_reducible apply Keeps.mk_all
    | assumption
    | simp_all [Run.ok])

theorem execLinkDown_keeps {s t : State} {x1 x2} (e : execLinkDown x1 x2 s = .next t) : Keeps s t := by
  refine answer_keeps e ?_
  have h := Keeps.refl s
  iterate 24 all_goals (try first
    | with_reducible assumption
    | with_reducible apply doLinkDown_keeps
    | (with_reducible apply foldl_keeps)
    | (with_reducible apply foldl_fst_keeps)
    | with_reducible apply Keeps.ite
    | with_reducible apply Keeps.ite_fst
    | with_reducible apply Keeps.ite_snd
    | intro _
    | dsimp only
    | split
    | (refine Keeps.fst (by with_reducible assumption) ?_)
    | (refine Keeps.snd (by with_reducible assumption) ?_)
    | rfl
    | exact ⟨rfl, rfl⟩
    | exact ⟨rfl, rfl, rfl⟩
    | exact Memory.wf_clear (by assumption) _ _
    | exact Memory.wf_filter (by assumption) _
    | exact Memory.wf_writeBytes (by assumption) _ _
    | with_reducible apply Keeps.mk_all
    | assumption
    | simp_all [Run.ok])

theorem doLinkUp_keeps {a s : State} (h : Keeps a s) {x1 x2} : Keeps a (doLinkUp x1 x2 s) := by
  unfold doLinkUp
  iterate 24 all_goals (try first
    | with_reducible assumption
    | with_reducible apply State.modFab_keeps
    | with_reducible apply State.modPort_keeps
    | with_reducible apply State.pump_keeps
    | (with_reducible apply State.each_keeps; intro _ _ _)
    | (with_reducible apply foldl_keeps)
    | (with_reducible apply foldl_fst_keeps)
    | with_reducible apply Keeps.ite
    | with_reducible apply Keeps.ite_fst
    | with_reducible apply Keeps.ite_snd
    | intro _
    | dsimp only
    | split
    | (refine Keeps.fst (by with_reducible assumption) ?_)
    | (refine Keeps.snd (by with_reducible assumption) ?_)
    | rfl
    | exact ⟨rfl, rfl⟩
    | exact ⟨rfl, rfl, rfl⟩
    | exact Memory.wf_clear (by assumption) _ _
    | exact Memory.wf_filter (by assumption) _
    | exact Memory.wf_writeBytes (by assumption) _ _
    | with_reducible apply Keeps.mk_all
    | assumption
    | simp_all [Run.ok])

theorem execLinkUp_keeps {s t : State} {x1 x2} (e : execLinkUp x1 x2 s = .next t) : Keeps s t := by
  refine answer_keeps e ?_
  have h := Keeps.refl s
  iterate 24 all_goals (try first
    | with_reducible assumption
    | with_reducible apply doLinkUp_keeps
    | (with_reducible apply foldl_keeps)
    | (with_reducible apply foldl_fst_keeps)
    | with_reducible apply Keeps.ite
    | with_reducible apply Keeps.ite_fst
    | with_reducible apply Keeps.ite_snd
    | intro _
    | dsimp only
    | split
    | (refine Keeps.fst (by with_reducible assumption) ?_)
    | (refine Keeps.snd (by with_reducible assumption) ?_)
    | rfl
    | exact ⟨rfl, rfl⟩
    | exact ⟨rfl, rfl, rfl⟩
    | exact Memory.wf_clear (by assumption) _ _
    | exact Memory.wf_filter (by assumption) _
    | exact Memory.wf_writeBytes (by assumption) _ _
    | with_reducible apply Keeps.mk_all
    | assumption
    | simp_all [Run.ok])

theorem doLinkHoldExpiry_keeps {a s : State} (h : Keeps a s) {x1 x2} : Keeps a (doLinkHoldExpiry x1 x2 s) := by
  unfold doLinkHoldExpiry
  iterate 24 all_goals (try first
    | with_reducible assumption
    | with_reducible apply State.modPort_keeps
    | (with_reducible apply foldl_keeps)
    | (with_reducible apply foldl_fst_keeps)
    | with_reducible apply Keeps.ite
    | with_reducible apply Keeps.ite_fst
    | with_reducible apply Keeps.ite_snd
    | intro _
    | dsimp only
    | split
    | (refine Keeps.fst (by with_reducible assumption) ?_)
    | (refine Keeps.snd (by with_reducible assumption) ?_)
    | rfl
    | exact ⟨rfl, rfl⟩
    | exact ⟨rfl, rfl, rfl⟩
    | exact Memory.wf_clear (by assumption) _ _
    | exact Memory.wf_filter (by assumption) _
    | exact Memory.wf_writeBytes (by assumption) _ _
    | with_reducible apply Keeps.mk_all
    | assumption
    | simp_all [Run.ok])

theorem execLinkHoldExpiry_keeps {s t : State} {x1 x2} (e : execLinkHoldExpiry x1 x2 s = .next t) : Keeps s t := by
  refine answer_keeps e ?_
  have h := Keeps.refl s
  iterate 24 all_goals (try first
    | with_reducible assumption
    | with_reducible apply doLinkHoldExpiry_keeps
    | (with_reducible apply foldl_keeps)
    | (with_reducible apply foldl_fst_keeps)
    | with_reducible apply Keeps.ite
    | with_reducible apply Keeps.ite_fst
    | with_reducible apply Keeps.ite_snd
    | intro _
    | dsimp only
    | split
    | (refine Keeps.fst (by with_reducible assumption) ?_)
    | (refine Keeps.snd (by with_reducible assumption) ?_)
    | rfl
    | exact ⟨rfl, rfl⟩
    | exact ⟨rfl, rfl, rfl⟩
    | exact Memory.wf_clear (by assumption) _ _
    | exact Memory.wf_filter (by assumption) _
    | exact Memory.wf_writeBytes (by assumption) _ _
    | with_reducible apply Keeps.mk_all
    | assumption
    | simp_all [Run.ok])

theorem State.modDest_keeps {a s : State} (h : Keeps a s) {x1 x2 x3 x4 x5} : Keeps a (State.modDest s x1 x2 x3 x4 x5) := by
  unfold State.modDest
  iterate 24 all_goals (try first
    | with_reducible assumption
    | with_reducible apply State.modOuter_keeps
    | (with_reducible apply foldl_keeps)
    | (with_reducible apply foldl_fst_keeps)
    | with_reducible apply Keeps.ite
    | with_reducible apply Keeps.ite_fst
    | with_reducible apply Keeps.ite_snd
    | intro _
    | dsimp only
    | split
    | (refine Keeps.fst (by with_reducible assumption) ?_)
    | (refine Keeps.snd (by with_reducible assumption) ?_)
    | rfl
    | exact ⟨rfl, rfl⟩
    | exact ⟨rfl, rfl, rfl⟩
    | exact Memory.wf_clear (by assumption) _ _
    | exact Memory.wf_filter (by assumption) _
    | exact Memory.wf_writeBytes (by assumption) _ _
    | with_reducible apply Keeps.mk_all
    | assumption
    | simp_all [Run.ok])

theorem State.sendOuter_keeps {a s : State} (h : Keeps a s) {x1 x2 x3 x4 x5 x6} : Keeps a (State.sendOuter s x1 x2 x3 x4 x5 x6).1 := by
  unfold State.sendOuter
  iterate 24 all_goals (try first
    | with_reducible assumption
    | (with_reducible refine State.sealIf_keeps ?_ (by with_reducible assumption))
    | with_reducible apply State.modOuter_keeps
    | with_reducible apply State.raise_keeps
    | (with_reducible refine State.sealNow_keeps ?_ (by with_reducible assumption))
    | with_reducible apply State.egress_keeps
    | with_reducible apply State.modDest_keeps
    | (with_reducible apply foldl_keeps)
    | (with_reducible apply foldl_fst_keeps)
    | with_reducible apply Keeps.ite
    | with_reducible apply Keeps.ite_fst
    | with_reducible apply Keeps.ite_snd
    | intro _
    | dsimp only
    | split
    | (refine Keeps.fst (by with_reducible assumption) ?_)
    | (refine Keeps.snd (by with_reducible assumption) ?_)
    | rfl
    | exact ⟨rfl, rfl⟩
    | exact ⟨rfl, rfl, rfl⟩
    | exact Memory.wf_clear (by assumption) _ _
    | exact Memory.wf_filter (by assumption) _
    | exact Memory.wf_writeBytes (by assumption) _ _
    | with_reducible apply Keeps.mk_all
    | assumption
    | simp_all [Run.ok])

theorem State.sendOuterAck_keeps {a s : State} (h : Keeps a s) {x1 x2 x3 x4 x5 x6 x7 x8 x9} : Keeps a (State.sendOuterAck s x1 x2 x3 x4 x5 x6 x7 x8 x9) := by
  unfold State.sendOuterAck
  iterate 24 all_goals (try first
    | with_reducible assumption
    | with_reducible apply State.sendOuter_keeps
    | (with_reducible apply foldl_keeps)
    | (with_reducible apply foldl_fst_keeps)
    | with_reducible apply Keeps.ite
    | with_reducible apply Keeps.ite_fst
    | with_reducible apply Keeps.ite_snd
    | intro _
    | dsimp only
    | split
    | (refine Keeps.fst (by with_reducible assumption) ?_)
    | (refine Keeps.snd (by with_reducible assumption) ?_)
    | rfl
    | exact ⟨rfl, rfl⟩
    | exact ⟨rfl, rfl, rfl⟩
    | exact Memory.wf_clear (by assumption) _ _
    | exact Memory.wf_filter (by assumption) _
    | exact Memory.wf_writeBytes (by assumption) _ _
    | with_reducible apply Keeps.mk_all
    | assumption
    | simp_all [Run.ok])

theorem State.ackRx_keeps {a s : State} (h : Keeps a s) {x1 x2 x3} : Keeps a (State.ackRx s x1 x2 x3) := by
  unfold State.ackRx
  iterate 24 all_goals (try first
    | with_reducible assumption
    | with_reducible apply State.modOuter_keeps
    | with_reducible apply State.sendOuterAck_keeps
    | (with_reducible apply foldl_keeps)
    | (with_reducible apply foldl_fst_keeps)
    | with_reducible apply Keeps.ite
    | with_reducible apply Keeps.ite_fst
    | with_reducible apply Keeps.ite_snd
    | intro _
    | dsimp only
    | split
    | (refine Keeps.fst (by with_reducible assumption) ?_)
    | (refine Keeps.snd (by with_reducible assumption) ?_)
    | rfl
    | exact ⟨rfl, rfl⟩
    | exact ⟨rfl, rfl, rfl⟩
    | exact Memory.wf_clear (by assumption) _ _
    | exact Memory.wf_filter (by assumption) _
    | exact Memory.wf_writeBytes (by assumption) _ _
    | with_reducible apply Keeps.mk_all
    | assumption
    | simp_all [Run.ok])

theorem State.sendHello_keeps {a s : State} (h : Keeps a s) {x1 x2 x3 x4 x5 x6} : Keeps a (State.sendHello s x1 x2 x3 x4 x5 x6) := by
  unfold State.sendHello
  iterate 24 all_goals (try first
    | with_reducible assumption
    | with_reducible apply State.modDest_keeps
    | with_reducible apply State.sendOuter_keeps
    | (with_reducible apply foldl_keeps)
    | (with_reducible apply foldl_fst_keeps)
    | with_reducible apply Keeps.ite
    | with_reducible apply Keeps.ite_fst
    | with_reducible apply Keeps.ite_snd
    | intro _
    | dsimp only
    | split
    | (refine Keeps.fst (by with_reducible assumption) ?_)
    | (refine Keeps.snd (by with_reducible assumption) ?_)
    | rfl
    | exact ⟨rfl, rfl⟩
    | exact ⟨rfl, rfl, rfl⟩
    | exact Memory.wf_clear (by assumption) _ _
    | exact Memory.wf_filter (by assumption) _
    | exact Memory.wf_writeBytes (by assumption) _ _
    | with_reducible apply Keeps.mk_all
    | assumption
    | simp_all [Run.ok])

theorem State.dataSegment_keeps {a s : State} (h : Keeps a s) {x1 x2 x3 x4 x5 x6 x7 x8} : Keeps a (State.dataSegment s x1 x2 x3 x4 x5 x6 x7 x8).1 := by
  unfold State.dataSegment
  iterate 24 all_goals (try first
    | with_reducible assumption
    | with_reducible apply State.slagBite_keeps
    | with_reducible apply State.sendOuter_keeps
    | (with_reducible apply foldl_keeps)
    | (with_reducible apply foldl_fst_keeps)
    | with_reducible apply Keeps.ite
    | with_reducible apply Keeps.ite_fst
    | with_reducible apply Keeps.ite_snd
    | intro _
    | dsimp only
    | split
    | (refine Keeps.fst (by with_reducible assumption) ?_)
    | (refine Keeps.snd (by with_reducible assumption) ?_)
    | rfl
    | exact ⟨rfl, rfl⟩
    | exact ⟨rfl, rfl, rfl⟩
    | exact Memory.wf_clear (by assumption) _ _
    | exact Memory.wf_filter (by assumption) _
    | exact Memory.wf_writeBytes (by assumption) _ _
    | with_reducible apply Keeps.mk_all
    | assumption
    | simp_all [Run.ok])

theorem doOuterSend_keeps {a s : State} (h : Keeps a s) {x1 x2 x3 x4 x5} : Keeps a (doOuterSend x1 x2 x3 x4 x5 s) := by
  unfold doOuterSend
  iterate 24 all_goals (try first
    | with_reducible assumption
    | with_reducible apply State.modOuter_keeps
    | with_reducible apply State.roundCount_keeps
    | with_reducible apply State.meet_keeps
    | with_reducible apply State.dataSegment_keeps
    | (with_reducible apply foldl_keeps)
    | (with_reducible apply foldl_fst_keeps)
    | with_reducible apply Keeps.ite
    | with_reducible apply Keeps.ite_fst
    | with_reducible apply Keeps.ite_snd
    | intro _
    | dsimp only
    | split
    | (refine Keeps.fst (by with_reducible assumption) ?_)
    | (refine Keeps.snd (by with_reducible assumption) ?_)
    | rfl
    | exact ⟨rfl, rfl⟩
    | exact ⟨rfl, rfl, rfl⟩
    | exact Memory.wf_clear (by assumption) _ _
    | exact Memory.wf_filter (by assumption) _
    | exact Memory.wf_writeBytes (by assumption) _ _
    | with_reducible apply Keeps.mk_all
    | assumption
    | simp_all [Run.ok])

theorem execOuterSend_keeps {s t : State} {x1 x2 x3 x4} (e : execOuterSend x1 x2 x3 x4 s = .next t) : Keeps s t := by
  refine answer_keeps e ?_
  have h := Keeps.refl s
  iterate 24 all_goals (try first
    | with_reducible assumption
    | with_reducible apply doOuterSend_keeps
    | (with_reducible apply foldl_keeps)
    | (with_reducible apply foldl_fst_keeps)
    | with_reducible apply Keeps.ite
    | with_reducible apply Keeps.ite_fst
    | with_reducible apply Keeps.ite_snd
    | intro _
    | dsimp only
    | split
    | (refine Keeps.fst (by with_reducible assumption) ?_)
    | (refine Keeps.snd (by with_reducible assumption) ?_)
    | rfl
    | exact ⟨rfl, rfl⟩
    | exact ⟨rfl, rfl, rfl⟩
    | exact Memory.wf_clear (by assumption) _ _
    | exact Memory.wf_filter (by assumption) _
    | exact Memory.wf_writeBytes (by assumption) _ _
    | with_reducible apply Keeps.mk_all
    | assumption
    | simp_all [Run.ok])

theorem State.resendOuter_keeps {a s : State} (h : Keeps a s) {x1 x2} : Keeps a (State.resendOuter s x1 x2) := by
  unfold State.resendOuter
  iterate 24 all_goals (try first
    | with_reducible assumption
    | with_reducible apply State.modOuter_keeps
    | with_reducible apply State.roundCount_keeps
    | with_reducible apply State.dataSegment_keeps
    | (with_reducible apply foldl_keeps)
    | (with_reducible apply foldl_fst_keeps)
    | with_reducible apply Keeps.ite
    | with_reducible apply Keeps.ite_fst
    | with_reducible apply Keeps.ite_snd
    | intro _
    | dsimp only
    | split
    | (refine Keeps.fst (by with_reducible assumption) ?_)
    | (refine Keeps.snd (by with_reducible assumption) ?_)
    | rfl
    | exact ⟨rfl, rfl⟩
    | exact ⟨rfl, rfl, rfl⟩
    | exact Memory.wf_clear (by assumption) _ _
    | exact Memory.wf_filter (by assumption) _
    | exact Memory.wf_writeBytes (by assumption) _ _
    | with_reducible apply Keeps.mk_all
    | assumption
    | simp_all [Run.ok])

theorem State.outerBad_keeps {a s : State} (h : Keeps a s) {x1 x2} : Keeps a (State.outerBad s x1 x2) := by
  unfold State.outerBad
  iterate 24 all_goals (try first
    | with_reducible assumption
    | with_reducible apply State.packetBad_keeps
    | (with_reducible apply foldl_keeps)
    | (with_reducible apply foldl_fst_keeps)
    | with_reducible apply Keeps.ite
    | with_reducible apply Keeps.ite_fst
    | with_reducible apply Keeps.ite_snd
    | intro _
    | dsimp only
    | split
    | (refine Keeps.fst (by with_reducible assumption) ?_)
    | (refine Keeps.snd (by with_reducible assumption) ?_)
    | rfl
    | exact ⟨rfl, rfl⟩
    | exact ⟨rfl, rfl, rfl⟩
    | exact Memory.wf_clear (by assumption) _ _
    | exact Memory.wf_filter (by assumption) _
    | exact Memory.wf_writeBytes (by assumption) _ _
    | with_reducible apply Keeps.mk_all
    | assumption
    | simp_all [Run.ok])

theorem State.accepted_keeps {a s : State} (h : Keeps a s) {x1 x2 x3 x4 x5} : Keeps a (State.accepted s x1 x2 x3 x4 x5) := by
  unfold State.accepted
  iterate 24 all_goals (try first
    | with_reducible assumption
    | with_reducible apply State.modOuter_keeps
    | with_reducible apply State.modCipher_keeps
    | with_reducible apply State.modDest_keeps
    | (with_reducible apply foldl_keeps)
    | (with_reducible apply foldl_fst_keeps)
    | with_reducible apply Keeps.ite
    | with_reducible apply Keeps.ite_fst
    | with_reducible apply Keeps.ite_snd
    | intro _
    | dsimp only
    | split
    | (refine Keeps.fst (by with_reducible assumption) ?_)
    | (refine Keeps.snd (by with_reducible assumption) ?_)
    | rfl
    | exact ⟨rfl, rfl⟩
    | exact ⟨rfl, rfl, rfl⟩
    | exact Memory.wf_clear (by assumption) _ _
    | exact Memory.wf_filter (by assumption) _
    | exact Memory.wf_writeBytes (by assumption) _ _
    | with_reducible apply Keeps.mk_all
    | assumption
    | simp_all [Run.ok])

theorem State.outerDrop_keeps {a s : State} (h : Keeps a s) {x1 x2} : Keeps a (State.outerDrop s x1 x2) := by
  unfold State.outerDrop
  iterate 24 all_goals (try first
    | with_reducible assumption
    | with_reducible apply State.count_keeps
    | with_reducible apply State.roundCount_keeps
    | (with_reducible apply foldl_keeps)
    | (with_reducible apply foldl_fst_keeps)
    | with_reducible apply Keeps.ite
    | with_reducible apply Keeps.ite_fst
    | with_reducible apply Keeps.ite_snd
    | intro _
    | dsimp only
    | split
    | (refine Keeps.fst (by with_reducible assumption) ?_)
    | (refine Keeps.snd (by with_reducible assumption) ?_)
    | rfl
    | exact ⟨rfl, rfl⟩
    | exact ⟨rfl, rfl, rfl⟩
    | exact Memory.wf_clear (by assumption) _ _
    | exact Memory.wf_filter (by assumption) _
    | exact Memory.wf_writeBytes (by assumption) _ _
    | with_reducible apply Keeps.mk_all
    | assumption
    | simp_all [Run.ok])

theorem State.outerReceive_keeps {a s : State} (h : Keeps a s) {x1 x2} : Keeps a (State.outerReceive s x1 x2).1 := by
  unfold State.outerReceive
  iterate 24 all_goals (try first
    | with_reducible assumption
    | with_reducible apply State.modCipher_keeps
    | with_reducible apply State.count_keeps
    | with_reducible apply State.modDest_keeps
    | with_reducible apply State.outerBad_keeps
    | with_reducible apply State.outerDrop_keeps
    | (with_reducible apply foldl_keeps)
    | (with_reducible apply foldl_fst_keeps)
    | with_reducible apply Keeps.ite
    | with_reducible apply Keeps.ite_fst
    | with_reducible apply Keeps.ite_snd
    | intro _
    | dsimp only
    | split
    | (refine Keeps.fst (by with_reducible assumption) ?_)
    | (refine Keeps.snd (by with_reducible assumption) ?_)
    | rfl
    | exact ⟨rfl, rfl⟩
    | exact ⟨rfl, rfl, rfl⟩
    | exact Memory.wf_clear (by assumption) _ _
    | exact Memory.wf_filter (by assumption) _
    | exact Memory.wf_writeBytes (by assumption) _ _
    | with_reducible apply Keeps.mk_all
    | assumption
    | simp_all [Run.ok])

theorem State.noteArrival_keeps {a s : State} (h : Keeps a s) {x1 x2 x3 x4 x5} : Keeps a (State.noteArrival s x1 x2 x3 x4 x5) := by
  unfold State.noteArrival
  iterate 24 all_goals (try first
    | with_reducible assumption
    | with_reducible apply State.store_keeps
    | (with_reducible apply foldl_keeps)
    | (with_reducible apply foldl_fst_keeps)
    | with_reducible apply Keeps.ite
    | with_reducible apply Keeps.ite_fst
    | with_reducible apply Keeps.ite_snd
    | intro _
    | dsimp only
    | split
    | (refine Keeps.fst (by with_reducible assumption) ?_)
    | (refine Keeps.snd (by with_reducible assumption) ?_)
    | rfl
    | exact ⟨rfl, rfl⟩
    | exact ⟨rfl, rfl, rfl⟩
    | exact Memory.wf_clear (by assumption) _ _
    | exact Memory.wf_filter (by assumption) _
    | exact Memory.wf_writeBytes (by assumption) _ _
    | with_reducible apply Keeps.mk_all
    | assumption
    | simp_all [Run.ok])

theorem State.placeData_keeps {a s : State} (h : Keeps a s) {x1 x2 x3 x4 x5 x6 x7} : Keeps a (State.placeData s x1 x2 x3 x4 x5 x6 x7) := by
  unfold State.placeData
  iterate 24 all_goals (try first
    | with_reducible assumption
    | with_reducible apply State.modOuter_keeps
    | with_reducible apply State.store_keeps
    | with_reducible apply State.raise_keeps
    | with_reducible apply State.remoteWrite_keeps
    | with_reducible apply State.heldTest_keeps
    | with_reducible apply State.ackRx_keeps
    | with_reducible apply State.noteArrival_keeps
    | (with_reducible apply foldl_keeps)
    | (with_reducible apply foldl_fst_keeps)
    | with_reducible apply Keeps.ite
    | with_reducible apply Keeps.ite_fst
    | with_reducible apply Keeps.ite_snd
    | intro _
    | dsimp only
    | split
    | (refine Keeps.fst (by with_reducible assumption) ?_)
    | (refine Keeps.snd (by with_reducible assumption) ?_)
    | rfl
    | exact ⟨rfl, rfl⟩
    | exact ⟨rfl, rfl, rfl⟩
    | exact Memory.wf_clear (by assumption) _ _
    | exact Memory.wf_filter (by assumption) _
    | exact Memory.wf_writeBytes (by assumption) _ _
    | with_reducible apply Keeps.mk_all
    | assumption
    | simp_all [Run.ok])

theorem State.takeOuterData_keeps {a s : State} (h : Keeps a s) {x1 x2} : Keeps a (State.takeOuterData s x1 x2) := by
  unfold State.takeOuterData
  iterate 24 all_goals (try first
    | with_reducible assumption
    | with_reducible apply State.count_keeps
    | with_reducible apply State.roundCount_keeps
    | with_reducible apply State.sendOuterAck_keeps
    | with_reducible apply State.ackRx_keeps
    | with_reducible apply State.accepted_keeps
    | with_reducible apply State.outerDrop_keeps
    | with_reducible apply State.placeData_keeps
    | (with_reducible apply foldl_keeps)
    | (with_reducible apply foldl_fst_keeps)
    | with_reducible apply Keeps.ite
    | with_reducible apply Keeps.ite_fst
    | with_reducible apply Keeps.ite_snd
    | intro _
    | dsimp only
    | split
    | (refine Keeps.fst (by with_reducible assumption) ?_)
    | (refine Keeps.snd (by with_reducible assumption) ?_)
    | rfl
    | exact ⟨rfl, rfl⟩
    | exact ⟨rfl, rfl, rfl⟩
    | exact Memory.wf_clear (by assumption) _ _
    | exact Memory.wf_filter (by assumption) _
    | exact Memory.wf_writeBytes (by assumption) _ _
    | with_reducible apply Keeps.mk_all
    | assumption
    | simp_all [Run.ok])

theorem execOuterDataSegment_keeps {s t : State} {x1} (e : execOuterDataSegment x1 s = .next t) : Keeps s t := by
  refine answer_keeps e ?_
  have h := Keeps.refl s
  iterate 24 all_goals (try first
    | with_reducible assumption
    | with_reducible apply State.outerReceive_keeps
    | with_reducible apply State.takeOuterData_keeps
    | (with_reducible apply foldl_keeps)
    | (with_reducible apply foldl_fst_keeps)
    | with_reducible apply Keeps.ite
    | with_reducible apply Keeps.ite_fst
    | with_reducible apply Keeps.ite_snd
    | intro _
    | dsimp only
    | split
    | (refine Keeps.fst (by with_reducible assumption) ?_)
    | (refine Keeps.snd (by with_reducible assumption) ?_)
    | rfl
    | exact ⟨rfl, rfl⟩
    | exact ⟨rfl, rfl, rfl⟩
    | exact Memory.wf_clear (by assumption) _ _
    | exact Memory.wf_filter (by assumption) _
    | exact Memory.wf_writeBytes (by assumption) _ _
    | with_reducible apply Keeps.mk_all
    | assumption
    | simp_all [Run.ok])

theorem doOuterAckTimer_keeps {a s : State} (h : Keeps a s) {x1 x2 x3 x4} : Keeps a (doOuterAckTimer x1 x2 x3 x4 s) := by
  unfold doOuterAckTimer
  iterate 24 all_goals (try first
    | with_reducible assumption
    | with_reducible apply State.ackRx_keeps
    | (with_reducible apply foldl_keeps)
    | (with_reducible apply foldl_fst_keeps)
    | with_reducible apply Keeps.ite
    | with_reducible apply Keeps.ite_fst
    | with_reducible apply Keeps.ite_snd
    | intro _
    | dsimp only
    | split
    | (refine Keeps.fst (by with_reducible assumption) ?_)
    | (refine Keeps.snd (by with_reducible assumption) ?_)
    | rfl
    | exact ⟨rfl, rfl⟩
    | exact ⟨rfl, rfl, rfl⟩
    | exact Memory.wf_clear (by assumption) _ _
    | exact Memory.wf_filter (by assumption) _
    | exact Memory.wf_writeBytes (by assumption) _ _
    | with_reducible apply Keeps.mk_all
    | assumption
    | simp_all [Run.ok])

theorem execOuterAckTimer_keeps {s t : State} {x1 x2 x3 x4} (e : execOuterAckTimer x1 x2 x3 x4 s = .next t) : Keeps s t := by
  refine answer_keeps e ?_
  have h := Keeps.refl s
  iterate 24 all_goals (try first
    | with_reducible assumption
    | with_reducible apply doOuterAckTimer_keeps
    | (with_reducible apply foldl_keeps)
    | (with_reducible apply foldl_fst_keeps)
    | with_reducible apply Keeps.ite
    | with_reducible apply Keeps.ite_fst
    | with_reducible apply Keeps.ite_snd
    | intro _
    | dsimp only
    | split
    | (refine Keeps.fst (by with_reducible assumption) ?_)
    | (refine Keeps.snd (by with_reducible assumption) ?_)
    | rfl
    | exact ⟨rfl, rfl⟩
    | exact ⟨rfl, rfl, rfl⟩
    | exact Memory.wf_clear (by assumption) _ _
    | exact Memory.wf_filter (by assumption) _
    | exact Memory.wf_writeBytes (by assumption) _ _
    | with_reducible apply Keeps.mk_all
    | assumption
    | simp_all [Run.ok])

theorem State.ackSample_keeps {a s : State} (h : Keeps a s) {x1 x2 x3 x4} : Keeps a (State.ackSample s x1 x2 x3 x4) := by
  unfold State.ackSample
  iterate 24 all_goals (try first
    | with_reducible assumption
    | with_reducible apply State.roundCount_keeps
    | with_reducible apply State.modDest_keeps
    | (with_reducible apply foldl_keeps)
    | (with_reducible apply foldl_fst_keeps)
    | with_reducible apply Keeps.ite
    | with_reducible apply Keeps.ite_fst
    | with_reducible apply Keeps.ite_snd
    | intro _
    | dsimp only
    | split
    | (refine Keeps.fst (by with_reducible assumption) ?_)
    | (refine Keeps.snd (by with_reducible assumption) ?_)
    | rfl
    | exact ⟨rfl, rfl⟩
    | exact ⟨rfl, rfl, rfl⟩
    | exact Memory.wf_clear (by assumption) _ _
    | exact Memory.wf_filter (by assumption) _
    | exact Memory.wf_writeBytes (by assumption) _ _
    | with_reducible apply Keeps.mk_all
    | assumption
    | simp_all [Run.ok])

theorem State.ackCover_keeps {a s : State} (h : Keeps a s) {x1 x2 x3 x4} : Keeps a (State.ackCover s x1 x2 x3 x4) := by
  unfold State.ackCover
  iterate 24 all_goals (try first
    | with_reducible assumption
    | with_reducible apply State.modOuter_keeps
    | with_reducible apply State.modDest_keeps
    | (with_reducible apply foldl_keeps)
    | (with_reducible apply foldl_fst_keeps)
    | with_reducible apply Keeps.ite
    | with_reducible apply Keeps.ite_fst
    | with_reducible apply Keeps.ite_snd
    | intro _
    | dsimp only
    | split
    | (refine Keeps.fst (by with_reducible assumption) ?_)
    | (refine Keeps.snd (by with_reducible assumption) ?_)
    | rfl
    | exact ⟨rfl, rfl⟩
    | exact ⟨rfl, rfl, rfl⟩
    | exact Memory.wf_clear (by assumption) _ _
    | exact Memory.wf_filter (by assumption) _
    | exact Memory.wf_writeBytes (by assumption) _ _
    | with_reducible apply Keeps.mk_all
    | assumption
    | simp_all [Run.ok])

theorem State.takeOuterAck_keeps {a s : State} (h : Keeps a s) {x1 x2} : Keeps a (State.takeOuterAck s x1 x2) := by
  unfold State.takeOuterAck
  iterate 24 all_goals (try first
    | with_reducible assumption
    | with_reducible apply State.resendOuter_keeps
    | with_reducible apply State.accepted_keeps
    | with_reducible apply State.outerDrop_keeps
    | with_reducible apply State.ackSample_keeps
    | with_reducible apply State.ackCover_keeps
    | (with_reducible apply State.each_keeps; intro _ _ _)
    | (with_reducible apply foldl_keeps)
    | (with_reducible apply foldl_fst_keeps)
    | with_reducible apply Keeps.ite
    | with_reducible apply Keeps.ite_fst
    | with_reducible apply Keeps.ite_snd
    | intro _
    | dsimp only
    | split
    | (refine Keeps.fst (by with_reducible assumption) ?_)
    | (refine Keeps.snd (by with_reducible assumption) ?_)
    | rfl
    | exact ⟨rfl, rfl⟩
    | exact ⟨rfl, rfl, rfl⟩
    | exact Memory.wf_clear (by assumption) _ _
    | exact Memory.wf_filter (by assumption) _
    | exact Memory.wf_writeBytes (by assumption) _ _
    | with_reducible apply Keeps.mk_all
    | assumption
    | simp_all [Run.ok])

theorem execOuterAck_keeps {s t : State} {x1} (e : execOuterAck x1 s = .next t) : Keeps s t := by
  refine answer_keeps e ?_
  have h := Keeps.refl s
  iterate 24 all_goals (try first
    | with_reducible assumption
    | with_reducible apply State.outerReceive_keeps
    | with_reducible apply State.takeOuterAck_keeps
    | (with_reducible apply foldl_keeps)
    | (with_reducible apply foldl_fst_keeps)
    | with_reducible apply Keeps.ite
    | with_reducible apply Keeps.ite_fst
    | with_reducible apply Keeps.ite_snd
    | intro _
    | dsimp only
    | split
    | (refine Keeps.fst (by with_reducible assumption) ?_)
    | (refine Keeps.snd (by with_reducible assumption) ?_)
    | rfl
    | exact ⟨rfl, rfl⟩
    | exact ⟨rfl, rfl, rfl⟩
    | exact Memory.wf_clear (by assumption) _ _
    | exact Memory.wf_filter (by assumption) _
    | exact Memory.wf_writeBytes (by assumption) _ _
    | with_reducible apply Keeps.mk_all
    | assumption
    | simp_all [Run.ok])

theorem doReorderLoss_keeps {a s : State} (h : Keeps a s) {x1 x2 x3 x4 x5} : Keeps a (doReorderLoss x1 x2 x3 x4 x5 s) := by
  unfold doReorderLoss
  iterate 24 all_goals (try first
    | with_reducible assumption
    | with_reducible apply State.resendOuter_keeps
    | (with_reducible apply foldl_keeps)
    | (with_reducible apply foldl_fst_keeps)
    | with_reducible apply Keeps.ite
    | with_reducible apply Keeps.ite_fst
    | with_reducible apply Keeps.ite_snd
    | intro _
    | dsimp only
    | split
    | (refine Keeps.fst (by with_reducible assumption) ?_)
    | (refine Keeps.snd (by with_reducible assumption) ?_)
    | rfl
    | exact ⟨rfl, rfl⟩
    | exact ⟨rfl, rfl, rfl⟩
    | exact Memory.wf_clear (by assumption) _ _
    | exact Memory.wf_filter (by assumption) _
    | exact Memory.wf_writeBytes (by assumption) _ _
    | with_reducible apply Keeps.mk_all
    | assumption
    | simp_all [Run.ok])

theorem execReorderLoss_keeps {s t : State} {x1 x2 x3 x4 x5} (e : execReorderLoss x1 x2 x3 x4 x5 s = .next t) : Keeps s t := by
  refine answer_keeps e ?_
  have h := Keeps.refl s
  iterate 24 all_goals (try first
    | with_reducible assumption
    | with_reducible apply doReorderLoss_keeps
    | (with_reducible apply foldl_keeps)
    | (with_reducible apply foldl_fst_keeps)
    | with_reducible apply Keeps.ite
    | with_reducible apply Keeps.ite_fst
    | with_reducible apply Keeps.ite_snd
    | intro _
    | dsimp only
    | split
    | (refine Keeps.fst (by with_reducible assumption) ?_)
    | (refine Keeps.snd (by with_reducible assumption) ?_)
    | rfl
    | exact ⟨rfl, rfl⟩
    | exact ⟨rfl, rfl, rfl⟩
    | exact Memory.wf_clear (by assumption) _ _
    | exact Memory.wf_filter (by assumption) _
    | exact Memory.wf_writeBytes (by assumption) _ _
    | with_reducible apply Keeps.mk_all
    | assumption
    | simp_all [Run.ok])

theorem doOuterRtoExpiry_keeps {a s : State} (h : Keeps a s) {x1 x2 x3 x4 x5} : Keeps a (doOuterRtoExpiry x1 x2 x3 x4 x5 s) := by
  unfold doOuterRtoExpiry
  iterate 24 all_goals (try first
    | with_reducible assumption
    | with_reducible apply State.modOuter_keeps
    | with_reducible apply State.roundCount_keeps
    | with_reducible apply State.modDest_keeps
    | with_reducible apply State.sendOuter_keeps
    | (with_reducible apply foldl_keeps)
    | (with_reducible apply foldl_fst_keeps)
    | with_reducible apply Keeps.ite
    | with_reducible apply Keeps.ite_fst
    | with_reducible apply Keeps.ite_snd
    | intro _
    | dsimp only
    | split
    | (refine Keeps.fst (by with_reducible assumption) ?_)
    | (refine Keeps.snd (by with_reducible assumption) ?_)
    | rfl
    | exact ⟨rfl, rfl⟩
    | exact ⟨rfl, rfl, rfl⟩
    | exact Memory.wf_clear (by assumption) _ _
    | exact Memory.wf_filter (by assumption) _
    | exact Memory.wf_writeBytes (by assumption) _ _
    | with_reducible apply Keeps.mk_all
    | assumption
    | simp_all [Run.ok])

theorem execOuterRtoExpiry_keeps {s t : State} {x1 x2 x3 x4 x5} (e : execOuterRtoExpiry x1 x2 x3 x4 x5 s = .next t) : Keeps s t := by
  refine answer_keeps e ?_
  have h := Keeps.refl s
  iterate 24 all_goals (try first
    | with_reducible assumption
    | with_reducible apply doOuterRtoExpiry_keeps
    | (with_reducible apply foldl_keeps)
    | (with_reducible apply foldl_fst_keeps)
    | with_reducible apply Keeps.ite
    | with_reducible apply Keeps.ite_fst
    | with_reducible apply Keeps.ite_snd
    | intro _
    | dsimp only
    | split
    | (refine Keeps.fst (by with_reducible assumption) ?_)
    | (refine Keeps.snd (by with_reducible assumption) ?_)
    | rfl
    | exact ⟨rfl, rfl⟩
    | exact ⟨rfl, rfl, rfl⟩
    | exact Memory.wf_clear (by assumption) _ _
    | exact Memory.wf_filter (by assumption) _
    | exact Memory.wf_writeBytes (by assumption) _ _
    | with_reducible apply Keeps.mk_all
    | assumption
    | simp_all [Run.ok])

theorem State.takeProbe_keeps {a s : State} (h : Keeps a s) {x1 x2} : Keeps a (State.takeProbe s x1 x2) := by
  unfold State.takeProbe
  iterate 24 all_goals (try first
    | with_reducible assumption
    | with_reducible apply State.sendOuterAck_keeps
    | with_reducible apply State.ackRx_keeps
    | with_reducible apply State.accepted_keeps
    | with_reducible apply State.outerDrop_keeps
    | (with_reducible apply foldl_keeps)
    | (with_reducible apply foldl_fst_keeps)
    | with_reducible apply Keeps.ite
    | with_reducible apply Keeps.ite_fst
    | with_reducible apply Keeps.ite_snd
    | intro _
    | dsimp only
    | split
    | (refine Keeps.fst (by with_reducible assumption) ?_)
    | (refine Keeps.snd (by with_reducible assumption) ?_)
    | rfl
    | exact ⟨rfl, rfl⟩
    | exact ⟨rfl, rfl, rfl⟩
    | exact Memory.wf_clear (by assumption) _ _
    | exact Memory.wf_filter (by assumption) _
    | exact Memory.wf_writeBytes (by assumption) _ _
    | with_reducible apply Keeps.mk_all
    | assumption
    | simp_all [Run.ok])

theorem execProbe_keeps {s t : State} {x1} (e : execProbe x1 s = .next t) : Keeps s t := by
  refine answer_keeps e ?_
  have h := Keeps.refl s
  iterate 24 all_goals (try first
    | with_reducible assumption
    | with_reducible apply State.outerReceive_keeps
    | with_reducible apply State.takeProbe_keeps
    | (with_reducible apply foldl_keeps)
    | (with_reducible apply foldl_fst_keeps)
    | with_reducible apply Keeps.ite
    | with_reducible apply Keeps.ite_fst
    | with_reducible apply Keeps.ite_snd
    | intro _
    | dsimp only
    | split
    | (refine Keeps.fst (by with_reducible assumption) ?_)
    | (refine Keeps.snd (by with_reducible assumption) ?_)
    | rfl
    | exact ⟨rfl, rfl⟩
    | exact ⟨rfl, rfl, rfl⟩
    | exact Memory.wf_clear (by assumption) _ _
    | exact Memory.wf_filter (by assumption) _
    | exact Memory.wf_writeBytes (by assumption) _ _
    | with_reducible apply Keeps.mk_all
    | assumption
    | simp_all [Run.ok])

theorem State.takeHello_keeps {a s : State} (h : Keeps a s) {x1 x2} : Keeps a (State.takeHello s x1 x2) := by
  unfold State.takeHello
  iterate 24 all_goals (try first
    | with_reducible assumption
    | with_reducible apply State.modOuter_keeps
    | with_reducible apply State.raise_keeps
    | with_reducible apply State.modDest_keeps
    | with_reducible apply State.sendHello_keeps
    | with_reducible apply State.accepted_keeps
    | (with_reducible apply foldl_keeps)
    | (with_reducible apply foldl_fst_keeps)
    | with_reducible apply Keeps.ite
    | with_reducible apply Keeps.ite_fst
    | with_reducible apply Keeps.ite_snd
    | intro _
    | dsimp only
    | split
    | (refine Keeps.fst (by with_reducible assumption) ?_)
    | (refine Keeps.snd (by with_reducible assumption) ?_)
    | rfl
    | exact ⟨rfl, rfl⟩
    | exact ⟨rfl, rfl, rfl⟩
    | exact Memory.wf_clear (by assumption) _ _
    | exact Memory.wf_filter (by assumption) _
    | exact Memory.wf_writeBytes (by assumption) _ _
    | with_reducible apply Keeps.mk_all
    | assumption
    | simp_all [Run.ok])

theorem execHello_keeps {s t : State} {x1} (e : execHello x1 s = .next t) : Keeps s t := by
  refine answer_keeps e ?_
  have h := Keeps.refl s
  iterate 24 all_goals (try first
    | with_reducible assumption
    | with_reducible apply State.outerReceive_keeps
    | with_reducible apply State.takeHello_keeps
    | (with_reducible apply foldl_keeps)
    | (with_reducible apply foldl_fst_keeps)
    | with_reducible apply Keeps.ite
    | with_reducible apply Keeps.ite_fst
    | with_reducible apply Keeps.ite_snd
    | intro _
    | dsimp only
    | split
    | (refine Keeps.fst (by with_reducible assumption) ?_)
    | (refine Keeps.snd (by with_reducible assumption) ?_)
    | rfl
    | exact ⟨rfl, rfl⟩
    | exact ⟨rfl, rfl, rfl⟩
    | exact Memory.wf_clear (by assumption) _ _
    | exact Memory.wf_filter (by assumption) _
    | exact Memory.wf_writeBytes (by assumption) _ _
    | with_reducible apply Keeps.mk_all
    | assumption
    | simp_all [Run.ok])

theorem doHelloTimer_keeps {a s : State} (h : Keeps a s) {x1 x2 x3} : Keeps a (doHelloTimer x1 x2 x3 s) := by
  unfold doHelloTimer
  iterate 24 all_goals (try first
    | with_reducible assumption
    | with_reducible apply State.sendHello_keeps
    | (with_reducible apply foldl_keeps)
    | (with_reducible apply foldl_fst_keeps)
    | with_reducible apply Keeps.ite
    | with_reducible apply Keeps.ite_fst
    | with_reducible apply Keeps.ite_snd
    | intro _
    | dsimp only
    | split
    | (refine Keeps.fst (by with_reducible assumption) ?_)
    | (refine Keeps.snd (by with_reducible assumption) ?_)
    | rfl
    | exact ⟨rfl, rfl⟩
    | exact ⟨rfl, rfl, rfl⟩
    | exact Memory.wf_clear (by assumption) _ _
    | exact Memory.wf_filter (by assumption) _
    | exact Memory.wf_writeBytes (by assumption) _ _
    | with_reducible apply Keeps.mk_all
    | assumption
    | simp_all [Run.ok])

theorem execHelloTimer_keeps {s t : State} {x1 x2 x3} (e : execHelloTimer x1 x2 x3 s = .next t) : Keeps s t := by
  refine answer_keeps e ?_
  have h := Keeps.refl s
  iterate 24 all_goals (try first
    | with_reducible assumption
    | with_reducible apply doHelloTimer_keeps
    | (with_reducible apply foldl_keeps)
    | (with_reducible apply foldl_fst_keeps)
    | with_reducible apply Keeps.ite
    | with_reducible apply Keeps.ite_fst
    | with_reducible apply Keeps.ite_snd
    | intro _
    | dsimp only
    | split
    | (refine Keeps.fst (by with_reducible assumption) ?_)
    | (refine Keeps.snd (by with_reducible assumption) ?_)
    | rfl
    | exact ⟨rfl, rfl⟩
    | exact ⟨rfl, rfl, rfl⟩
    | exact Memory.wf_clear (by assumption) _ _
    | exact Memory.wf_filter (by assumption) _
    | exact Memory.wf_writeBytes (by assumption) _ _
    | with_reducible apply Keeps.mk_all
    | assumption
    | simp_all [Run.ok])

theorem doGraceWindowClose_keeps {a s : State} (h : Keeps a s) {x1 x2} : Keeps a (doGraceWindowClose x1 x2 s) := by
  unfold doGraceWindowClose
  iterate 24 all_goals (try first
    | with_reducible assumption
    | with_reducible apply State.modOuter_keeps
    | (with_reducible apply foldl_keeps)
    | (with_reducible apply foldl_fst_keeps)
    | with_reducible apply Keeps.ite
    | with_reducible apply Keeps.ite_fst
    | with_reducible apply Keeps.ite_snd
    | intro _
    | dsimp only
    | split
    | (refine Keeps.fst (by with_reducible assumption) ?_)
    | (refine Keeps.snd (by with_reducible assumption) ?_)
    | rfl
    | exact ⟨rfl, rfl⟩
    | exact ⟨rfl, rfl, rfl⟩
    | exact Memory.wf_clear (by assumption) _ _
    | exact Memory.wf_filter (by assumption) _
    | exact Memory.wf_writeBytes (by assumption) _ _
    | with_reducible apply Keeps.mk_all
    | assumption
    | simp_all [Run.ok])

theorem execGraceWindowClose_keeps {s t : State} {x1 x2} (e : execGraceWindowClose x1 x2 s = .next t) : Keeps s t := by
  refine answer_keeps e ?_
  have h := Keeps.refl s
  iterate 24 all_goals (try first
    | with_reducible assumption
    | with_reducible apply doGraceWindowClose_keeps
    | (with_reducible apply foldl_keeps)
    | (with_reducible apply foldl_fst_keeps)
    | with_reducible apply Keeps.ite
    | with_reducible apply Keeps.ite_fst
    | with_reducible apply Keeps.ite_snd
    | intro _
    | dsimp only
    | split
    | (refine Keeps.fst (by with_reducible assumption) ?_)
    | (refine Keeps.snd (by with_reducible assumption) ?_)
    | rfl
    | exact ⟨rfl, rfl⟩
    | exact ⟨rfl, rfl, rfl⟩
    | exact Memory.wf_clear (by assumption) _ _
    | exact Memory.wf_filter (by assumption) _
    | exact Memory.wf_writeBytes (by assumption) _ _
    | with_reducible apply Keeps.mk_all
    | assumption
    | simp_all [Run.ok])

theorem State.atomicTo_keeps {a s : State} (h : Keeps a s) {x1 x2 x3 x4 x5 x6} : Keeps a (State.atomicTo s x1 x2 x3 x4 x5 x6) := by
  unfold State.atomicTo
  iterate 24 all_goals (try first
    | with_reducible assumption
    | with_reducible apply State.addrErr_keeps
    | with_reducible apply State.send_keeps
    | (with_reducible apply foldl_keeps)
    | (with_reducible apply foldl_fst_keeps)
    | with_reducible apply Keeps.ite
    | with_reducible apply Keeps.ite_fst
    | with_reducible apply Keeps.ite_snd
    | intro _
    | dsimp only
    | split
    | (refine Keeps.fst (by with_reducible assumption) ?_)
    | (refine Keeps.snd (by with_reducible assumption) ?_)
    | rfl
    | exact ⟨rfl, rfl⟩
    | exact ⟨rfl, rfl, rfl⟩
    | exact Memory.wf_clear (by assumption) _ _
    | exact Memory.wf_filter (by assumption) _
    | exact Memory.wf_writeBytes (by assumption) _ _
    | with_reducible apply Keeps.mk_all
    | assumption
    | simp_all [Run.ok])

theorem doRoundWordAdd_keeps {a s : State} (h : Keeps a s) {x1 x2} : Keeps a (doRoundWordAdd x1 x2 s) := by
  unfold doRoundWordAdd
  iterate 24 all_goals (try first
    | with_reducible assumption
    | with_reducible apply State.modOuter_keeps
    | with_reducible apply State.store_keeps
    | with_reducible apply State.slagBite_keeps
    | with_reducible apply State.atomicTo_keeps
    | (with_reducible apply foldl_keeps)
    | (with_reducible apply foldl_fst_keeps)
    | with_reducible apply Keeps.ite
    | with_reducible apply Keeps.ite_fst
    | with_reducible apply Keeps.ite_snd
    | intro _
    | dsimp only
    | split
    | (refine Keeps.fst (by with_reducible assumption) ?_)
    | (refine Keeps.snd (by with_reducible assumption) ?_)
    | rfl
    | exact ⟨rfl, rfl⟩
    | exact ⟨rfl, rfl, rfl⟩
    | exact Memory.wf_clear (by assumption) _ _
    | exact Memory.wf_filter (by assumption) _
    | exact Memory.wf_writeBytes (by assumption) _ _
    | with_reducible apply Keeps.mk_all
    | assumption
    | simp_all [Run.ok])

theorem execRoundWordAdd_keeps {s t : State} {x1 x2} (e : execRoundWordAdd x1 x2 s = .next t) : Keeps s t := by
  refine answer_keeps e ?_
  have h := Keeps.refl s
  iterate 24 all_goals (try first
    | with_reducible assumption
    | with_reducible apply doRoundWordAdd_keeps
    | (with_reducible apply foldl_keeps)
    | (with_reducible apply foldl_fst_keeps)
    | with_reducible apply Keeps.ite
    | with_reducible apply Keeps.ite_fst
    | with_reducible apply Keeps.ite_snd
    | intro _
    | dsimp only
    | split
    | (refine Keeps.fst (by with_reducible assumption) ?_)
    | (refine Keeps.snd (by with_reducible assumption) ?_)
    | rfl
    | exact ⟨rfl, rfl⟩
    | exact ⟨rfl, rfl, rfl⟩
    | exact Memory.wf_clear (by assumption) _ _
    | exact Memory.wf_filter (by assumption) _
    | exact Memory.wf_writeBytes (by assumption) _ _
    | with_reducible apply Keeps.mk_all
    | assumption
    | simp_all [Run.ok])

theorem doRoundWordPoll_keeps {a s : State} (h : Keeps a s) {x1} : Keeps a (doRoundWordPoll x1 s) := by
  unfold doRoundWordPoll
  iterate 24 all_goals (try first
    | with_reducible assumption
    | with_reducible apply State.addrErr_keeps
    | with_reducible apply State.remoteRead_keeps
    | with_reducible apply State.landRead_keeps
    | (with_reducible apply foldl_keeps)
    | (with_reducible apply foldl_fst_keeps)
    | with_reducible apply Keeps.ite
    | with_reducible apply Keeps.ite_fst
    | with_reducible apply Keeps.ite_snd
    | intro _
    | dsimp only
    | split
    | (refine Keeps.fst (by with_reducible assumption) ?_)
    | (refine Keeps.snd (by with_reducible assumption) ?_)
    | rfl
    | exact ⟨rfl, rfl⟩
    | exact ⟨rfl, rfl, rfl⟩
    | exact Memory.wf_clear (by assumption) _ _
    | exact Memory.wf_filter (by assumption) _
    | exact Memory.wf_writeBytes (by assumption) _ _
    | with_reducible apply Keeps.mk_all
    | assumption
    | simp_all [Run.ok])

theorem execRoundWordPoll_keeps {s t : State} {x1} (e : execRoundWordPoll x1 s = .next t) : Keeps s t := by
  refine answer_keeps e ?_
  have h := Keeps.refl s
  iterate 24 all_goals (try first
    | with_reducible assumption
    | with_reducible apply doRoundWordPoll_keeps
    | (with_reducible apply foldl_keeps)
    | (with_reducible apply foldl_fst_keeps)
    | with_reducible apply Keeps.ite
    | with_reducible apply Keeps.ite_fst
    | with_reducible apply Keeps.ite_snd
    | intro _
    | dsimp only
    | split
    | (refine Keeps.fst (by with_reducible assumption) ?_)
    | (refine Keeps.snd (by with_reducible assumption) ?_)
    | rfl
    | exact ⟨rfl, rfl⟩
    | exact ⟨rfl, rfl, rfl⟩
    | exact Memory.wf_clear (by assumption) _ _
    | exact Memory.wf_filter (by assumption) _
    | exact Memory.wf_writeBytes (by assumption) _ _
    | with_reducible apply Keeps.mk_all
    | assumption
    | simp_all [Run.ok])

theorem doRoundHold_keeps {a s : State} (h : Keeps a s) {x1} : Keeps a (doRoundHold x1 s) := by
  unfold doRoundHold
  iterate 24 all_goals (try first
    | with_reducible assumption
    | with_reducible apply State.modRun_keeps
    | with_reducible apply State.notice_keeps
    | (with_reducible apply foldl_keeps)
    | (with_reducible apply foldl_fst_keeps)
    | with_reducible apply Keeps.ite
    | with_reducible apply Keeps.ite_fst
    | with_reducible apply Keeps.ite_snd
    | intro _
    | dsimp only
    | split
    | (refine Keeps.fst (by with_reducible assumption) ?_)
    | (refine Keeps.snd (by with_reducible assumption) ?_)
    | rfl
    | exact ⟨rfl, rfl⟩
    | exact ⟨rfl, rfl, rfl⟩
    | exact Memory.wf_clear (by assumption) _ _
    | exact Memory.wf_filter (by assumption) _
    | exact Memory.wf_writeBytes (by assumption) _ _
    | with_reducible apply Keeps.mk_all
    | assumption
    | simp_all [Run.ok])

theorem execRoundHold_keeps {s t : State} {x1} (e : execRoundHold x1 s = .next t) : Keeps s t := by
  refine answer_keeps e ?_
  have h := Keeps.refl s
  iterate 24 all_goals (try first
    | with_reducible assumption
    | with_reducible apply doRoundHold_keeps
    | (with_reducible apply foldl_keeps)
    | (with_reducible apply foldl_fst_keeps)
    | with_reducible apply Keeps.ite
    | with_reducible apply Keeps.ite_fst
    | with_reducible apply Keeps.ite_snd
    | intro _
    | dsimp only
    | split
    | (refine Keeps.fst (by with_reducible assumption) ?_)
    | (refine Keeps.snd (by with_reducible assumption) ?_)
    | rfl
    | exact ⟨rfl, rfl⟩
    | exact ⟨rfl, rfl, rfl⟩
    | exact Memory.wf_clear (by assumption) _ _
    | exact Memory.wf_filter (by assumption) _
    | exact Memory.wf_writeBytes (by assumption) _ _
    | with_reducible apply Keeps.mk_all
    | assumption
    | simp_all [Run.ok])

theorem State.putOut_keeps {a s : State} (h : Keeps a s) {x1} : Keeps a (State.putOut s x1) := by
  unfold State.putOut
  iterate 24 all_goals (try first
    | with_reducible assumption
    | with_reducible apply State.raise_keeps
    | with_reducible apply State.dropOut_keeps
    | (with_reducible apply foldl_keeps)
    | (with_reducible apply foldl_fst_keeps)
    | with_reducible apply Keeps.ite
    | with_reducible apply Keeps.ite_fst
    | with_reducible apply Keeps.ite_snd
    | intro _
    | dsimp only
    | split
    | (refine Keeps.fst (by with_reducible assumption) ?_)
    | (refine Keeps.snd (by with_reducible assumption) ?_)
    | rfl
    | exact ⟨rfl, rfl⟩
    | exact ⟨rfl, rfl, rfl⟩
    | exact Memory.wf_clear (by assumption) _ _
    | exact Memory.wf_filter (by assumption) _
    | exact Memory.wf_writeBytes (by assumption) _ _
    | with_reducible apply Keeps.mk_all
    | assumption
    | simp_all [Run.ok])

theorem doIsolationTimeout_keeps {a s : State} (h : Keeps a s) {x1} : Keeps a (doIsolationTimeout x1 s) := by
  unfold doIsolationTimeout
  iterate 24 all_goals (try first
    | with_reducible assumption
    | with_reducible apply State.putOut_keeps
    | (with_reducible apply foldl_keeps)
    | (with_reducible apply foldl_fst_keeps)
    | with_reducible apply Keeps.ite
    | with_reducible apply Keeps.ite_fst
    | with_reducible apply Keeps.ite_snd
    | intro _
    | dsimp only
    | split
    | (refine Keeps.fst (by with_reducible assumption) ?_)
    | (refine Keeps.snd (by with_reducible assumption) ?_)
    | rfl
    | exact ⟨rfl, rfl⟩
    | exact ⟨rfl, rfl, rfl⟩
    | exact Memory.wf_clear (by assumption) _ _
    | exact Memory.wf_filter (by assumption) _
    | exact Memory.wf_writeBytes (by assumption) _ _
    | with_reducible apply Keeps.mk_all
    | assumption
    | simp_all [Run.ok])

theorem execIsolationTimeout_keeps {s t : State} {x1} (e : execIsolationTimeout x1 s = .next t) : Keeps s t := by
  refine answer_keeps e ?_
  have h := Keeps.refl s
  iterate 24 all_goals (try first
    | with_reducible assumption
    | with_reducible apply doIsolationTimeout_keeps
    | (with_reducible apply foldl_keeps)
    | (with_reducible apply foldl_fst_keeps)
    | with_reducible apply Keeps.ite
    | with_reducible apply Keeps.ite_fst
    | with_reducible apply Keeps.ite_snd
    | intro _
    | dsimp only
    | split
    | (refine Keeps.fst (by with_reducible assumption) ?_)
    | (refine Keeps.snd (by with_reducible assumption) ?_)
    | rfl
    | exact ⟨rfl, rfl⟩
    | exact ⟨rfl, rfl, rfl⟩
    | exact Memory.wf_clear (by assumption) _ _
    | exact Memory.wf_filter (by assumption) _
    | exact Memory.wf_writeBytes (by assumption) _ _
    | with_reducible apply Keeps.mk_all
    | assumption
    | simp_all [Run.ok])

theorem State.announce_keeps {a s : State} (h : Keeps a s) {x1 x2 x3} : Keeps a (State.announce s x1 x2 x3) := by
  unfold State.announce
  iterate 24 all_goals (try first
    | with_reducible assumption
    | with_reducible apply State.control_keeps
    | (with_reducible apply foldl_keeps)
    | (with_reducible apply foldl_fst_keeps)
    | with_reducible apply Keeps.ite
    | with_reducible apply Keeps.ite_fst
    | with_reducible apply Keeps.ite_snd
    | intro _
    | dsimp only
    | split
    | (refine Keeps.fst (by with_reducible assumption) ?_)
    | (refine Keeps.snd (by with_reducible assumption) ?_)
    | rfl
    | exact ⟨rfl, rfl⟩
    | exact ⟨rfl, rfl, rfl⟩
    | exact Memory.wf_clear (by assumption) _ _
    | exact Memory.wf_filter (by assumption) _
    | exact Memory.wf_writeBytes (by assumption) _ _
    | with_reducible apply Keeps.mk_all
    | assumption
    | simp_all [Run.ok])

theorem State.reannounce_keeps {a s : State} (h : Keeps a s) {x1} : Keeps a (State.reannounce s x1) := by
  unfold State.reannounce
  iterate 24 all_goals (try first
    | with_reducible assumption
    | with_reducible apply State.announce_keeps
    | (with_reducible apply foldl_keeps)
    | (with_reducible apply foldl_fst_keeps)
    | with_reducible apply Keeps.ite
    | with_reducible apply Keeps.ite_fst
    | with_reducible apply Keeps.ite_snd
    | intro _
    | dsimp only
    | split
    | (refine Keeps.fst (by with_reducible assumption) ?_)
    | (refine Keeps.snd (by with_reducible assumption) ?_)
    | rfl
    | exact ⟨rfl, rfl⟩
    | exact ⟨rfl, rfl, rfl⟩
    | exact Memory.wf_clear (by assumption) _ _
    | exact Memory.wf_filter (by assumption) _
    | exact Memory.wf_writeBytes (by assumption) _ _
    | with_reducible apply Keeps.mk_all
    | assumption
    | simp_all [Run.ok])

theorem State.takeLoss_keeps {a s : State} (h : Keeps a s) {x1 x2} : Keeps a (State.takeLoss s x1 x2) := by
  unfold State.takeLoss
  iterate 24 all_goals (try first
    | with_reducible assumption
    | with_reducible apply State.lose_keeps
    | with_reducible apply State.tellLoss_keeps
    | with_reducible apply State.coordinatorLoss_keeps
    | (with_reducible apply State.each_keeps; intro _ _ _)
    | (with_reducible apply foldl_keeps)
    | (with_reducible apply foldl_fst_keeps)
    | with_reducible apply Keeps.ite
    | with_reducible apply Keeps.ite_fst
    | with_reducible apply Keeps.ite_snd
    | intro _
    | dsimp only
    | split
    | (refine Keeps.fst (by with_reducible assumption) ?_)
    | (refine Keeps.snd (by with_reducible assumption) ?_)
    | rfl
    | exact ⟨rfl, rfl⟩
    | exact ⟨rfl, rfl, rfl⟩
    | exact Memory.wf_clear (by assumption) _ _
    | exact Memory.wf_filter (by assumption) _
    | exact Memory.wf_writeBytes (by assumption) _ _
    | with_reducible apply Keeps.mk_all
    | assumption
    | simp_all [Run.ok])

theorem execLoss_keeps {s t : State} {x1 x2} (e : execLoss x1 x2 s = .next t) : Keeps s t := by
  refine answer_keeps e ?_
  have h := Keeps.refl s
  iterate 24 all_goals (try first
    | with_reducible assumption
    | with_reducible apply State.packetEvent_keeps
    | with_reducible apply State.takeLoss_keeps
    | (with_reducible apply foldl_keeps)
    | (with_reducible apply foldl_fst_keeps)
    | with_reducible apply Keeps.ite
    | with_reducible apply Keeps.ite_fst
    | with_reducible apply Keeps.ite_snd
    | intro _
    | dsimp only
    | split
    | (refine Keeps.fst (by with_reducible assumption) ?_)
    | (refine Keeps.snd (by with_reducible assumption) ?_)
    | rfl
    | exact ⟨rfl, rfl⟩
    | exact ⟨rfl, rfl, rfl⟩
    | exact Memory.wf_clear (by assumption) _ _
    | exact Memory.wf_filter (by assumption) _
    | exact Memory.wf_writeBytes (by assumption) _ _
    | with_reducible apply Keeps.mk_all
    | assumption
    | simp_all [Run.ok])

theorem State.takeRollback_keeps {a s : State} (h : Keeps a s) {x1 x2 x3 x4} : Keeps a (State.takeRollback s x1 x2 x3 x4) := by
  unfold State.takeRollback
  iterate 24 all_goals (try first
    | with_reducible assumption
    | with_reducible apply State.modFab_keeps
    | with_reducible apply State.sendAck_keeps
    | with_reducible apply State.doRollback_keeps
    | with_reducible apply State.reannounce_keeps
    | (with_reducible apply foldl_keeps)
    | (with_reducible apply foldl_fst_keeps)
    | with_reducible apply Keeps.ite
    | with_reducible apply Keeps.ite_fst
    | with_reducible apply Keeps.ite_snd
    | intro _
    | dsimp only
    | split
    | (refine Keeps.fst (by with_reducible assumption) ?_)
    | (refine Keeps.snd (by with_reducible assumption) ?_)
    | rfl
    | exact ⟨rfl, rfl⟩
    | exact ⟨rfl, rfl, rfl⟩
    | exact Memory.wf_clear (by assumption) _ _
    | exact Memory.wf_filter (by assumption) _
    | exact Memory.wf_writeBytes (by assumption) _ _
    | with_reducible apply Keeps.mk_all
    | assumption
    | simp_all [Run.ok])

theorem execRollback_keeps {s t : State} {x1 x2 x3} (e : execRollback x1 x2 x3 s = .next t) : Keeps s t := by
  refine answer_keeps e ?_
  have h := Keeps.refl s
  iterate 24 all_goals (try first
    | with_reducible assumption
    | with_reducible apply State.packetEvent_keeps
    | with_reducible apply State.takeRollback_keeps
    | (with_reducible apply foldl_keeps)
    | (with_reducible apply foldl_fst_keeps)
    | with_reducible apply Keeps.ite
    | with_reducible apply Keeps.ite_fst
    | with_reducible apply Keeps.ite_snd
    | intro _
    | dsimp only
    | split
    | (refine Keeps.fst (by with_reducible assumption) ?_)
    | (refine Keeps.snd (by with_reducible assumption) ?_)
    | rfl
    | exact ⟨rfl, rfl⟩
    | exact ⟨rfl, rfl, rfl⟩
    | exact Memory.wf_clear (by assumption) _ _
    | exact Memory.wf_filter (by assumption) _
    | exact Memory.wf_writeBytes (by assumption) _ _
    | with_reducible apply Keeps.mk_all
    | assumption
    | simp_all [Run.ok])

theorem State.takeFence_keeps {a s : State} (h : Keeps a s) {x1} : Keeps a (State.takeFence s x1) := by
  unfold State.takeFence
  iterate 24 all_goals (try first
    | with_reducible assumption
    | with_reducible apply State.modFab_keeps
    | with_reducible apply State.raise_keeps
    | with_reducible apply State.putOut_keeps
    | (with_reducible apply foldl_keeps)
    | (with_reducible apply foldl_fst_keeps)
    | with_reducible apply Keeps.ite
    | with_reducible apply Keeps.ite_fst
    | with_reducible apply Keeps.ite_snd
    | intro _
    | dsimp only
    | split
    | (refine Keeps.fst (by with_reducible assumption) ?_)
    | (refine Keeps.snd (by with_reducible assumption) ?_)
    | rfl
    | exact ⟨rfl, rfl⟩
    | exact ⟨rfl, rfl, rfl⟩
    | exact Memory.wf_clear (by assumption) _ _
    | exact Memory.wf_filter (by assumption) _
    | exact Memory.wf_writeBytes (by assumption) _ _
    | with_reducible apply Keeps.mk_all
    | assumption
    | simp_all [Run.ok])

theorem execFence_keeps {s t : State} {x1} (e : execFence x1 s = .next t) : Keeps s t := by
  refine answer_keeps e ?_
  have h := Keeps.refl s
  iterate 24 all_goals (try first
    | with_reducible assumption
    | with_reducible apply State.packetEvent_keeps
    | with_reducible apply State.takeFence_keeps
    | (with_reducible apply foldl_keeps)
    | (with_reducible apply foldl_fst_keeps)
    | with_reducible apply Keeps.ite
    | with_reducible apply Keeps.ite_fst
    | with_reducible apply Keeps.ite_snd
    | intro _
    | dsimp only
    | split
    | (refine Keeps.fst (by with_reducible assumption) ?_)
    | (refine Keeps.snd (by with_reducible assumption) ?_)
    | rfl
    | exact ⟨rfl, rfl⟩
    | exact ⟨rfl, rfl, rfl⟩
    | exact Memory.wf_clear (by assumption) _ _
    | exact Memory.wf_filter (by assumption) _
    | exact Memory.wf_writeBytes (by assumption) _ _
    | with_reducible apply Keeps.mk_all
    | assumption
    | simp_all [Run.ok])

theorem State.takeAnnounce_keeps {a s : State} (h : Keeps a s) {x1 x2 x3} : Keeps a (State.takeAnnounce s x1 x2 x3) := by
  unfold State.takeAnnounce
  iterate 24 all_goals (try first
    | with_reducible assumption
    | with_reducible apply State.modFab_keeps
    | with_reducible apply State.control_keeps
    | with_reducible apply State.updateRoutes_keeps
    | (with_reducible apply foldl_keeps)
    | (with_reducible apply foldl_fst_keeps)
    | with_reducible apply Keeps.ite
    | with_reducible apply Keeps.ite_fst
    | with_reducible apply Keeps.ite_snd
    | intro _
    | dsimp only
    | split
    | (refine Keeps.fst (by with_reducible assumption) ?_)
    | (refine Keeps.snd (by with_reducible assumption) ?_)
    | rfl
    | exact ⟨rfl, rfl⟩
    | exact ⟨rfl, rfl, rfl⟩
    | exact Memory.wf_clear (by assumption) _ _
    | exact Memory.wf_filter (by assumption) _
    | exact Memory.wf_writeBytes (by assumption) _ _
    | with_reducible apply Keeps.mk_all
    | assumption
    | simp_all [Run.ok])

theorem execAnnounce_keeps {s t : State} {x1 x2} (e : execAnnounce x1 x2 s = .next t) : Keeps s t := by
  refine answer_keeps e ?_
  have h := Keeps.refl s
  iterate 24 all_goals (try first
    | with_reducible assumption
    | with_reducible apply State.packetEvent_keeps
    | with_reducible apply State.takeAnnounce_keeps
    | (with_reducible apply foldl_keeps)
    | (with_reducible apply foldl_fst_keeps)
    | with_reducible apply Keeps.ite
    | with_reducible apply Keeps.ite_fst
    | with_reducible apply Keeps.ite_snd
    | intro _
    | dsimp only
    | split
    | (refine Keeps.fst (by with_reducible assumption) ?_)
    | (refine Keeps.snd (by with_reducible assumption) ?_)
    | rfl
    | exact ⟨rfl, rfl⟩
    | exact ⟨rfl, rfl, rfl⟩
    | exact Memory.wf_clear (by assumption) _ _
    | exact Memory.wf_filter (by assumption) _
    | exact Memory.wf_writeBytes (by assumption) _ _
    | with_reducible apply Keeps.mk_all
    | assumption
    | simp_all [Run.ok])

theorem State.takeRouteUpd_keeps {a s : State} (h : Keeps a s) {x1 x2 x3 x4 x5 x6} : Keeps a (State.takeRouteUpd s x1 x2 x3 x4 x5 x6) := by
  unfold State.takeRouteUpd
  iterate 24 all_goals (try first
    | with_reducible assumption
    | with_reducible apply State.modFab_keeps
    | with_reducible apply State.sendAck_keeps
    | with_reducible apply State.control_keeps
    | (with_reducible apply State.each_keeps; intro _ _ _)
    | (with_reducible apply foldl_keeps)
    | (with_reducible apply foldl_fst_keeps)
    | with_reducible apply Keeps.ite
    | with_reducible apply Keeps.ite_fst
    | with_reducible apply Keeps.ite_snd
    | intro _
    | dsimp only
    | split
    | (refine Keeps.fst (by with_reducible assumption) ?_)
    | (refine Keeps.snd (by with_reducible assumption) ?_)
    | rfl
    | exact ⟨rfl, rfl⟩
    | exact ⟨rfl, rfl, rfl⟩
    | exact Memory.wf_clear (by assumption) _ _
    | exact Memory.wf_filter (by assumption) _
    | exact Memory.wf_writeBytes (by assumption) _ _
    | with_reducible apply Keeps.mk_all
    | assumption
    | simp_all [Run.ok])

theorem execRouteUpd_keeps {s t : State} {x1 x2 x3 x4 x5} (e : execRouteUpd x1 x2 x3 x4 x5 s = .next t) : Keeps s t := by
  refine answer_keeps e ?_
  have h := Keeps.refl s
  iterate 24 all_goals (try first
    | with_reducible assumption
    | with_reducible apply State.packetEvent_keeps
    | with_reducible apply State.takeRouteUpd_keeps
    | (with_reducible apply foldl_keeps)
    | (with_reducible apply foldl_fst_keeps)
    | with_reducible apply Keeps.ite
    | with_reducible apply Keeps.ite_fst
    | with_reducible apply Keeps.ite_snd
    | intro _
    | dsimp only
    | split
    | (refine Keeps.fst (by with_reducible assumption) ?_)
    | (refine Keeps.snd (by with_reducible assumption) ?_)
    | rfl
    | exact ⟨rfl, rfl⟩
    | exact ⟨rfl, rfl, rfl⟩
    | exact Memory.wf_clear (by assumption) _ _
    | exact Memory.wf_filter (by assumption) _
    | exact Memory.wf_writeBytes (by assumption) _ _
    | with_reducible apply Keeps.mk_all
    | assumption
    | simp_all [Run.ok])

theorem State.resumeMember_keeps {a s : State} (h : Keeps a s) {x1} : Keeps a (State.resumeMember s x1) := by
  unfold State.resumeMember
  iterate 24 all_goals (try first
    | with_reducible assumption
    | with_reducible apply State.modPart_keeps
    | with_reducible apply State.modColl_keeps
    | with_reducible apply State.modFab_keeps
    | with_reducible apply State.unhold_keeps
    | with_reducible apply State.gatherNext_keeps
    | with_reducible apply State.refreshNext_keeps
    | with_reducible apply State.roundLayout_keeps
    | (with_reducible apply foldl_keeps)
    | (with_reducible apply foldl_fst_keeps)
    | with_reducible apply Keeps.ite
    | with_reducible apply Keeps.ite_fst
    | with_reducible apply Keeps.ite_snd
    | intro _
    | dsimp only
    | split
    | (refine Keeps.fst (by with_reducible assumption) ?_)
    | (refine Keeps.snd (by with_reducible assumption) ?_)
    | rfl
    | exact ⟨rfl, rfl⟩
    | exact ⟨rfl, rfl, rfl⟩
    | exact Memory.wf_clear (by assumption) _ _
    | exact Memory.wf_filter (by assumption) _
    | exact Memory.wf_writeBytes (by assumption) _ _
    | with_reducible apply Keeps.mk_all
    | assumption
    | simp_all [Run.ok])

theorem State.takeRouteAck_keeps {a s : State} (h : Keeps a s) {x1 x2} : Keeps a (State.takeRouteAck s x1 x2) := by
  unfold State.takeRouteAck
  iterate 24 all_goals (try first
    | with_reducible assumption
    | with_reducible apply State.modFab_keeps
    | with_reducible apply State.controlAll_keeps
    | with_reducible apply State.resumeMember_keeps
    | (with_reducible apply foldl_keeps)
    | (with_reducible apply foldl_fst_keeps)
    | with_reducible apply Keeps.ite
    | with_reducible apply Keeps.ite_fst
    | with_reducible apply Keeps.ite_snd
    | intro _
    | dsimp only
    | split
    | (refine Keeps.fst (by with_reducible assumption) ?_)
    | (refine Keeps.snd (by with_reducible assumption) ?_)
    | rfl
    | exact ⟨rfl, rfl⟩
    | exact ⟨rfl, rfl, rfl⟩
    | exact Memory.wf_clear (by assumption) _ _
    | exact Memory.wf_filter (by assumption) _
    | exact Memory.wf_writeBytes (by assumption) _ _
    | with_reducible apply Keeps.mk_all
    | assumption
    | simp_all [Run.ok])

theorem execRouteAck_keeps {s t : State} {x1} (e : execRouteAck x1 s = .next t) : Keeps s t := by
  refine answer_keeps e ?_
  have h := Keeps.refl s
  iterate 24 all_goals (try first
    | with_reducible assumption
    | with_reducible apply State.packetEvent_keeps
    | with_reducible apply State.takeRouteAck_keeps
    | (with_reducible apply foldl_keeps)
    | (with_reducible apply foldl_fst_keeps)
    | with_reducible apply Keeps.ite
    | with_reducible apply Keeps.ite_fst
    | with_reducible apply Keeps.ite_snd
    | intro _
    | dsimp only
    | split
    | (refine Keeps.fst (by with_reducible assumption) ?_)
    | (refine Keeps.snd (by with_reducible assumption) ?_)
    | rfl
    | exact ⟨rfl, rfl⟩
    | exact ⟨rfl, rfl, rfl⟩
    | exact Memory.wf_clear (by assumption) _ _
    | exact Memory.wf_filter (by assumption) _
    | exact Memory.wf_writeBytes (by assumption) _ _
    | with_reducible apply Keeps.mk_all
    | assumption
    | simp_all [Run.ok])

theorem State.adoptHeader_keeps {a s : State} (h : Keeps a s) {x1 x2} : Keeps a (State.adoptHeader s x1 x2) := by
  unfold State.adoptHeader
  iterate 24 all_goals (try first
    | with_reducible assumption
    | with_reducible apply State.modRun_keeps
    | (with_reducible apply foldl_keeps)
    | (with_reducible apply foldl_fst_keeps)
    | with_reducible apply Keeps.ite
    | with_reducible apply Keeps.ite_fst
    | with_reducible apply Keeps.ite_snd
    | intro _
    | dsimp only
    | split
    | (refine Keeps.fst (by with_reducible assumption) ?_)
    | (refine Keeps.snd (by with_reducible assumption) ?_)
    | rfl
    | exact ⟨rfl, rfl⟩
    | exact ⟨rfl, rfl, rfl⟩
    | exact Memory.wf_clear (by assumption) _ _
    | exact Memory.wf_filter (by assumption) _
    | exact Memory.wf_writeBytes (by assumption) _ _
    | with_reducible apply Keeps.mk_all
    | assumption
    | simp_all [Run.ok])

theorem State.loadArrivals_keeps {a s : State} (h : Keeps a s) {x1} : Keeps a (State.loadArrivals s x1) := by
  unfold State.loadArrivals
  iterate 24 all_goals (try first
    | with_reducible assumption
    | with_reducible apply State.modOuter_keeps
    | (with_reducible apply foldl_keeps)
    | (with_reducible apply foldl_fst_keeps)
    | with_reducible apply Keeps.ite
    | with_reducible apply Keeps.ite_fst
    | with_reducible apply Keeps.ite_snd
    | intro _
    | dsimp only
    | split
    | (refine Keeps.fst (by with_reducible assumption) ?_)
    | (refine Keeps.snd (by with_reducible assumption) ?_)
    | rfl
    | exact ⟨rfl, rfl⟩
    | exact ⟨rfl, rfl, rfl⟩
    | exact Memory.wf_clear (by assumption) _ _
    | exact Memory.wf_filter (by assumption) _
    | exact Memory.wf_writeBytes (by assumption) _ _
    | with_reducible apply Keeps.mk_all
    | assumption
    | simp_all [Run.ok])

theorem State.spareDone_keeps {a s : State} (h : Keeps a s) {x1} : Keeps a (State.spareDone s x1) := by
  unfold State.spareDone
  iterate 24 all_goals (try first
    | with_reducible assumption
    | with_reducible apply State.modRun_keeps
    | with_reducible apply State.modFab_keeps
    | with_reducible apply State.store_keeps
    | with_reducible apply State.saveMarked_keeps
    | with_reducible apply State.raise_keeps
    | with_reducible apply State.hold_keeps
    | with_reducible apply State.startRefresh_keeps
    | with_reducible apply State.gatherNext_keeps
    | with_reducible apply State.modSlab_keeps
    | with_reducible apply State.setProgress_keeps
    | with_reducible apply State.clearRecords_keeps
    | with_reducible apply State.loadSeals_keeps
    | with_reducible apply State.sendHello_keeps
    | with_reducible apply State.loadArrivals_keeps
    | (with_reducible apply State.each_keeps; intro _ _ _)
    | (with_reducible apply foldl_keeps)
    | (with_reducible apply foldl_fst_keeps)
    | with_reducible apply Keeps.ite
    | with_reducible apply Keeps.ite_fst
    | with_reducible apply Keeps.ite_snd
    | intro _
    | dsimp only
    | split
    | (refine Keeps.fst (by with_reducible assumption) ?_)
    | (refine Keeps.snd (by with_reducible assumption) ?_)
    | rfl
    | exact ⟨rfl, rfl⟩
    | exact ⟨rfl, rfl, rfl⟩
    | exact Memory.wf_clear (by assumption) _ _
    | exact Memory.wf_filter (by assumption) _
    | exact Memory.wf_writeBytes (by assumption) _ _
    | with_reducible apply Keeps.mk_all
    | assumption
    | simp_all [Run.ok])

theorem State.spareDegraded_keeps {a s : State} (h : Keeps a s) {x1} : Keeps a (State.spareDegraded s x1) := by
  unfold State.spareDegraded
  iterate 24 all_goals (try first
    | with_reducible assumption
    | with_reducible apply State.restoreDegraded_keeps
    | with_reducible apply State.spareDone_keeps
    | (with_reducible apply foldl_keeps)
    | (with_reducible apply foldl_fst_keeps)
    | with_reducible apply Keeps.ite
    | with_reducible apply Keeps.ite_fst
    | with_reducible apply Keeps.ite_snd
    | intro _
    | dsimp only
    | split
    | (refine Keeps.fst (by with_reducible assumption) ?_)
    | (refine Keeps.snd (by with_reducible assumption) ?_)
    | rfl
    | exact ⟨rfl, rfl⟩
    | exact ⟨rfl, rfl, rfl⟩
    | exact Memory.wf_clear (by assumption) _ _
    | exact Memory.wf_filter (by assumption) _
    | exact Memory.wf_writeBytes (by assumption) _ _
    | with_reducible apply Keeps.mk_all
    | assumption
    | simp_all [Run.ok])

theorem State.resumeSpare_keeps {a s : State} (h : Keeps a s) {x1 x2} : Keeps a (State.resumeSpare s x1 x2) := by
  unfold State.resumeSpare
  iterate 24 all_goals (try first
    | with_reducible assumption
    | with_reducible apply State.modPart_keeps
    | with_reducible apply State.modRun_keeps
    | with_reducible apply State.modArena_keeps
    | with_reducible apply State.modColl_keeps
    | with_reducible apply State.modFab_keeps
    | with_reducible apply State.raise_keeps
    | with_reducible apply State.restoreRemote_keeps
    | with_reducible apply State.cipherless_keeps
    | (with_reducible refine State.loadJob_keeps ?_ (by with_reducible assumption))
    | with_reducible apply State.wake_keeps
    | with_reducible apply State.spareDone_keeps
    | with_reducible apply State.spareDegraded_keeps
    | (with_reducible apply foldl_keeps)
    | (with_reducible apply foldl_fst_keeps)
    | with_reducible apply Keeps.ite
    | with_reducible apply Keeps.ite_fst
    | with_reducible apply Keeps.ite_snd
    | intro _
    | dsimp only
    | split
    | (refine Keeps.fst (by with_reducible assumption) ?_)
    | (refine Keeps.snd (by with_reducible assumption) ?_)
    | rfl
    | exact ⟨rfl, rfl⟩
    | exact ⟨rfl, rfl, rfl⟩
    | exact Memory.wf_clear (by assumption) _ _
    | exact Memory.wf_filter (by assumption) _
    | exact Memory.wf_writeBytes (by assumption) _ _
    | with_reducible apply Keeps.mk_all
    | assumption
    | simp_all [Run.ok])

theorem State.takeResume_keeps {a s : State} (h : Keeps a s) {x1} : Keeps a (State.takeResume s x1) := by
  unfold State.takeResume
  iterate 24 all_goals (try first
    | with_reducible assumption
    | with_reducible apply State.resumeMember_keeps
    | with_reducible apply State.resumeSpare_keeps
    | (with_reducible apply foldl_keeps)
    | (with_reducible apply foldl_fst_keeps)
    | with_reducible apply Keeps.ite
    | with_reducible apply Keeps.ite_fst
    | with_reducible apply Keeps.ite_snd
    | intro _
    | dsimp only
    | split
    | (refine Keeps.fst (by with_reducible assumption) ?_)
    | (refine Keeps.snd (by with_reducible assumption) ?_)
    | rfl
    | exact ⟨rfl, rfl⟩
    | exact ⟨rfl, rfl, rfl⟩
    | exact Memory.wf_clear (by assumption) _ _
    | exact Memory.wf_filter (by assumption) _
    | exact Memory.wf_writeBytes (by assumption) _ _
    | with_reducible apply Keeps.mk_all
    | assumption
    | simp_all [Run.ok])

theorem execResume_keeps {s t : State} {x1} (e : execResume x1 s = .next t) : Keeps s t := by
  refine answer_keeps e ?_
  have h := Keeps.refl s
  iterate 24 all_goals (try first
    | with_reducible assumption
    | with_reducible apply State.packetEvent_keeps
    | with_reducible apply State.takeResume_keeps
    | (with_reducible apply foldl_keeps)
    | (with_reducible apply foldl_fst_keeps)
    | with_reducible apply Keeps.ite
    | with_reducible apply Keeps.ite_fst
    | with_reducible apply Keeps.ite_snd
    | intro _
    | dsimp only
    | split
    | (refine Keeps.fst (by with_reducible assumption) ?_)
    | (refine Keeps.snd (by with_reducible assumption) ?_)
    | rfl
    | exact ⟨rfl, rfl⟩
    | exact ⟨rfl, rfl, rfl⟩
    | exact Memory.wf_clear (by assumption) _ _
    | exact Memory.wf_filter (by assumption) _
    | exact Memory.wf_writeBytes (by assumption) _ _
    | with_reducible apply Keeps.mk_all
    | assumption
    | simp_all [Run.ok])

theorem State.takeReadResp_keeps {a s : State} (h : Keeps a s) {x1 x2} : Keeps a (State.takeReadResp s x1 x2) := by
  unfold State.takeReadResp
  iterate 24 all_goals (try first
    | with_reducible assumption
    | with_reducible apply State.roundLayout_keeps
    | with_reducible apply State.takeAnswerPkt_keeps
    | with_reducible apply State.adoptHeader_keeps
    | with_reducible apply State.spareDone_keeps
    | (with_reducible apply foldl_keeps)
    | (with_reducible apply foldl_fst_keeps)
    | with_reducible apply Keeps.ite
    | with_reducible apply Keeps.ite_fst
    | with_reducible apply Keeps.ite_snd
    | intro _
    | dsimp only
    | split
    | (refine Keeps.fst (by with_reducible assumption) ?_)
    | (refine Keeps.snd (by with_reducible assumption) ?_)
    | rfl
    | exact ⟨rfl, rfl⟩
    | exact ⟨rfl, rfl, rfl⟩
    | exact Memory.wf_clear (by assumption) _ _
    | exact Memory.wf_filter (by assumption) _
    | exact Memory.wf_writeBytes (by assumption) _ _
    | with_reducible apply Keeps.mk_all
    | assumption
    | simp_all [Run.ok])

theorem execReadResp_keeps {s t : State} {x1} (e : execReadResp x1 s = .next t) : Keeps s t := by
  refine answer_keeps e ?_
  have h := Keeps.refl s
  iterate 24 all_goals (try first
    | with_reducible assumption
    | with_reducible apply State.packetEvent_keeps
    | with_reducible apply State.takeReadResp_keeps
    | (with_reducible apply foldl_keeps)
    | (with_reducible apply foldl_fst_keeps)
    | with_reducible apply Keeps.ite
    | with_reducible apply Keeps.ite_fst
    | with_reducible apply Keeps.ite_snd
    | intro _
    | dsimp only
    | split
    | (refine Keeps.fst (by with_reducible assumption) ?_)
    | (refine Keeps.snd (by with_reducible assumption) ?_)
    | rfl
    | exact ⟨rfl, rfl⟩
    | exact ⟨rfl, rfl, rfl⟩
    | exact Memory.wf_clear (by assumption) _ _
    | exact Memory.wf_filter (by assumption) _
    | exact Memory.wf_writeBytes (by assumption) _ _
    | with_reducible apply Keeps.mk_all
    | assumption
    | simp_all [Run.ok])

theorem doLossHold_keeps {a s : State} (h : Keeps a s) {x1} : Keeps a (doLossHold x1 s) := by
  unfold doLossHold
  iterate 24 all_goals (try first
    | with_reducible assumption
    | with_reducible apply State.modFab_keeps
    | with_reducible apply State.notice_keeps
    | (with_reducible apply foldl_keeps)
    | (with_reducible apply foldl_fst_keeps)
    | with_reducible apply Keeps.ite
    | with_reducible apply Keeps.ite_fst
    | with_reducible apply Keeps.ite_snd
    | intro _
    | dsimp only
    | split
    | (refine Keeps.fst (by with_reducible assumption) ?_)
    | (refine Keeps.snd (by with_reducible assumption) ?_)
    | rfl
    | exact ⟨rfl, rfl⟩
    | exact ⟨rfl, rfl, rfl⟩
    | exact Memory.wf_clear (by assumption) _ _
    | exact Memory.wf_filter (by assumption) _
    | exact Memory.wf_writeBytes (by assumption) _ _
    | with_reducible apply Keeps.mk_all
    | assumption
    | simp_all [Run.ok])

theorem execLossHold_keeps {s t : State} {x1} (e : execLossHold x1 s = .next t) : Keeps s t := by
  refine answer_keeps e ?_
  have h := Keeps.refl s
  iterate 24 all_goals (try first
    | with_reducible assumption
    | with_reducible apply doLossHold_keeps
    | (with_reducible apply foldl_keeps)
    | (with_reducible apply foldl_fst_keeps)
    | with_reducible apply Keeps.ite
    | with_reducible apply Keeps.ite_fst
    | with_reducible apply Keeps.ite_snd
    | intro _
    | dsimp only
    | split
    | (refine Keeps.fst (by with_reducible assumption) ?_)
    | (refine Keeps.snd (by with_reducible assumption) ?_)
    | rfl
    | exact ⟨rfl, rfl⟩
    | exact ⟨rfl, rfl, rfl⟩
    | exact Memory.wf_clear (by assumption) _ _
    | exact Memory.wf_filter (by assumption) _
    | exact Memory.wf_writeBytes (by assumption) _ _
    | with_reducible apply Keeps.mk_all
    | assumption
    | simp_all [Run.ok])

end Sys2Proof.Machine
end

