-- ==== Sys2Proof/Laws/KeepsRst.lean ====
section
/-! SUPPORT. What each operation of Reset keeps (Keeps.lean). -/

set_option linter.unusedTactic false
set_option linter.unreachableTactic false
set_option linter.unusedSimpArgs false
set_option linter.unusedVariables false

namespace Sys2Proof.Machine

theorem State.streamRec_keeps {a s : State} (h : Keeps a s) {x1} : Keeps a (State.streamRec s x1) := by
  unfold State.streamRec
  iterate 24 all_goals (try first
    | with_reducible assumption
    | with_reducible apply State.record_keeps
    | (with_reducible apply foldl_keeps)
    | (with_reducible apply foldl_fst_keeps)
    | with_reducible apply Keeps.ite
    | with_reducible apply Keeps.ite_fst
    | with_reducible apply Keeps.ite_snd
    | intro _
    | dsimp only
    | split
    | (refine Keeps.fst (by with_reducible assumption) ?_)
    | (refine Keeps.snd (by with_reducible assumption) ?_)
    | rfl
    | exact ⟨rfl, rfl⟩
    | exact ⟨rfl, rfl, rfl⟩
    | exact Memory.wf_clear (by assumption) _ _
    | exact Memory.wf_filter (by assumption) _
    | exact Memory.wf_writeBytes (by assumption) _ _
    | with_reducible apply Keeps.mk_all
    | assumption
    | simp_all [Run.ok])

theorem Part.fresh_ok {q : Part} (h : q.run = {}) : q.run.ok := by rw [h]; exact ⟨rfl, List.length_replicate⟩

@[simp] theorem Sec.fromReset_life (x : Sec) : x.fromReset.life = x.life := rfl
@[simp] theorem Sec.fromReset_arb (x : Sec) : x.fromReset.arb = x.arb := rfl
@[simp] theorem Sec.boot_life (x : Sec) : x.boot.life = x.life := by
  unfold Sec.boot; dsimp only
  split_ifs <;> rfl
@[simp] theorem Sec.boot_arb (x : Sec) : x.boot.arb = x.arb := by
  unfold Sec.boot; dsimp only
  split_ifs <;> rfl
@[simp] theorem Hub.length_enqueue (h : Hub) (r : FaultRec) : (h.enqueue r).queue.length = h.queue.length := by
  unfold Hub.enqueue; split <;> simp
@[simp] theorem Hub.length_number (h : Hub) (r : FaultRec) : (h.number r).1.queue.length = h.queue.length := rfl

theorem State.replayOne_keeps {a s : State} (h : Keeps a s) {x1} : Keeps a (State.replayOne s x1) :=
  State.streamRec_keeps (s := { s with hub := (s.hub.number { x1 with hist := true }).1.enqueue (s.hub.number { x1 with hist := true }).2 })
    (h.step rfl id rfl id (by simp [State.sizes, Hub.number]) rfl rfl)

theorem State.replay_keeps {a s : State} (h : Keeps a s) : Keeps a (State.replay s) := by
  unfold State.replay
  iterate 24 all_goals (try first
    | with_reducible assumption
    | with_reducible apply State.modHub_keeps
    | with_reducible apply State.alertUpdate_keeps
    | with_reducible apply State.replayOne_keeps
    | (with_reducible apply State.each_keeps; intro _ _ _)
    | (with_reducible apply foldl_keeps)
    | (with_reducible apply foldl_fst_keeps)
    | with_reducible apply Keeps.ite
    | with_reducible apply Keeps.ite_fst
    | with_reducible apply Keeps.ite_snd
    | intro _
    | dsimp only
    | split
    | (refine Keeps.fst (by with_reducible assumption) ?_)
    | (refine Keeps.snd (by with_reducible assumption) ?_)
    | rfl
    | exact ⟨rfl, rfl⟩
    | exact ⟨rfl, rfl, rfl⟩
    | exact Memory.wf_clear (by assumption) _ _
    | exact Memory.wf_filter (by assumption) _
    | exact Memory.wf_writeBytes (by assumption) _ _
    | with_reducible apply Keeps.mk_all
    | assumption
    | simp_all [Run.ok])

theorem State.saveHistory_keeps {a s : State} (h : Keeps a s) {x1} : Keeps a (State.saveHistory s x1) := by
  unfold State.saveHistory
  iterate 24 all_goals (try first
    | with_reducible assumption
    | with_reducible apply State.modHub_keeps
    | with_reducible apply State.persist_keeps
    | (with_reducible apply foldl_keeps)
    | (with_reducible apply foldl_fst_keeps)
    | with_reducible apply Keeps.ite
    | with_reducible apply Keeps.ite_fst
    | with_reducible apply Keeps.ite_snd
    | intro _
    | dsimp only
    | split
    | (refine Keeps.fst (by with_reducible assumption) ?_)
    | (refine Keeps.snd (by with_reducible assumption) ?_)
    | rfl
    | exact ⟨rfl, rfl⟩
    | exact ⟨rfl, rfl, rfl⟩
    | exact Memory.wf_clear (by assumption) _ _
    | exact Memory.wf_filter (by assumption) _
    | exact Memory.wf_writeBytes (by assumption) _ _
    | with_reducible apply Keeps.mk_all
    | assumption
    | simp_all [Run.ok])

theorem State.repairRows_keeps {a s : State} (h : Keeps a s) : Keeps a (State.repairRows s) := by
  unfold State.repairRows
  iterate 24 all_goals (try first
    | with_reducible assumption
    | with_reducible apply State.modScrub_keeps
    | with_reducible apply State.persist_keeps
    | (with_reducible apply foldl_keeps)
    | (with_reducible apply foldl_fst_keeps)
    | with_reducible apply Keeps.ite
    | with_reducible apply Keeps.ite_fst
    | with_reducible apply Keeps.ite_snd
    | intro _
    | dsimp only
    | split
    | (refine Keeps.fst (by with_reducible assumption) ?_)
    | (refine Keeps.snd (by with_reducible assumption) ?_)
    | rfl
    | exact ⟨rfl, rfl⟩
    | exact ⟨rfl, rfl, rfl⟩
    | exact Memory.wf_clear (by assumption) _ _
    | exact Memory.wf_filter (by assumption) _
    | exact Memory.wf_writeBytes (by assumption) _ _
    | with_reducible apply Keeps.mk_all
    | assumption
    | simp_all [Run.ok])

set_option maxRecDepth 4000 in
theorem State.cleared_keeps {a s : State} (h : Keeps a s) {x1} : Keeps a (State.cleared s x1) := by
  refine h.trans ⟨rfl, fun x => ?_, fun x => ?_, rfl, rfl⟩
  · show Memory.wf (if x1 then s.mem.filter (fun c => c.1 < 3 * 2 ^ 41) else [])
    split
    · exact Memory.wf_filter x _
    · exact Memory.wf_nil
  · obtain ⟨_, h1, h2, h3, h4, h5, h6, h7, h8, h9, h10, h11, h12⟩ := x
    refine ⟨⟨rfl, ?_⟩, ?_, rfl, rfl, ?_, rfl, List.length_replicate, ?_, List.length_replicate, List.length_replicate, List.length_replicate, List.length_replicate, rfl⟩
    · unfold State.cleared
      dsimp only
      intro q hq
      simp only [List.mem_cons, List.not_mem_nil, or_false] at hq
      rcases hq with rfl | rfl | rfl | rfl <;> exact Part.fresh_ok rfl
    · unfold State.cleared; dsimp only; rw [List.length_map]; exact h1
    · unfold State.cleared; dsimp only; rw [List.length_map]; exact h4
    · unfold State.cleared Cipher.cleared; dsimp only; rw [List.length_map]; exact h7

theorem State.poweredOff_keeps {a s : State} (h : Keeps a s) {x1} : Keeps a (State.poweredOff s x1) := by
  unfold State.poweredOff
  iterate 24 all_goals (try first
    | with_reducible assumption
    | with_reducible apply State.modHub_keeps
    | with_reducible apply State.modPower_keeps
    | with_reducible apply State.cleared_keeps
    | (with_reducible apply foldl_keeps)
    | (with_reducible apply foldl_fst_keeps)
    | with_reducible apply Keeps.ite
    | with_reducible apply Keeps.ite_fst
    | with_reducible apply Keeps.ite_snd
    | intro _
    | dsimp only
    | split
    | (refine Keeps.fst (by with_reducible assumption) ?_)
    | (refine Keeps.snd (by with_reducible assumption) ?_)
    | rfl
    | exact ⟨rfl, rfl⟩
    | exact ⟨rfl, rfl, rfl⟩
    | exact Memory.wf_clear (by assumption) _ _
    | exact Memory.wf_filter (by assumption) _
    | exact Memory.wf_writeBytes (by assumption) _ _
    | with_reducible apply Keeps.mk_all
    | assumption
    | simp_all [Run.ok])

theorem State.firstRecords_keeps {a s : State} (h : Keeps a s) : Keeps a (State.firstRecords s) := by
  unfold State.firstRecords
  iterate 24 all_goals (try first
    | with_reducible assumption
    | with_reducible apply State.modSec_keeps
    | with_reducible apply State.modSide_keeps
    | with_reducible apply State.modPower_keeps
    | with_reducible apply State.raise_keeps
    | with_reducible apply State.replay_keeps
    | (with_reducible apply State.each_keeps; intro _ _ _)
    | (with_reducible apply foldl_keeps)
    | (with_reducible apply foldl_fst_keeps)
    | with_reducible apply Keeps.ite
    | with_reducible apply Keeps.ite_fst
    | with_reducible apply Keeps.ite_snd
    | intro _
    | dsimp only
    | split
    | (refine Keeps.fst (by with_reducible assumption) ?_)
    | (refine Keeps.snd (by with_reducible assumption) ?_)
    | rfl
    | exact ⟨rfl, rfl⟩
    | exact ⟨rfl, rfl, rfl⟩
    | exact Memory.wf_clear (by assumption) _ _
    | exact Memory.wf_filter (by assumption) _
    | exact Memory.wf_writeBytes (by assumption) _ _
    | with_reducible apply Keeps.mk_all
    | assumption
    | simp_all [Run.ok])

theorem State.testHearths_keeps {a s : State} (h : Keeps a s) : Keeps a (State.testHearths s) := by
  unfold State.testHearths
  iterate 24 all_goals (try first
    | with_reducible assumption
    | (with_reducible apply foldl_keeps)
    | (with_reducible apply foldl_fst_keeps)
    | with_reducible apply Keeps.ite
    | with_reducible apply Keeps.ite_fst
    | with_reducible apply Keeps.ite_snd
    | intro _
    | dsimp only
    | split
    | (refine Keeps.fst (by with_reducible assumption) ?_)
    | (refine Keeps.snd (by with_reducible assumption) ?_)
    | rfl
    | exact ⟨rfl, rfl⟩
    | exact ⟨rfl, rfl, rfl⟩
    | exact Memory.wf_clear (by assumption) _ _
    | exact Memory.wf_filter (by assumption) _
    | exact Memory.wf_writeBytes (by assumption) _ _
    | with_reducible apply Keeps.mk_all
    | assumption
    | simp_all [Run.ok])

theorem State.testAll_keeps {a s : State} (h : Keeps a s) : Keeps a (State.testAll s) := by
  unfold State.testAll
  iterate 24 all_goals (try first
    | with_reducible assumption
    | with_reducible apply State.modCipher_keeps
    | with_reducible apply State.testHearths_keeps
    | (with_reducible apply foldl_keeps)
    | (with_reducible apply foldl_fst_keeps)
    | with_reducible apply Keeps.ite
    | with_reducible apply Keeps.ite_fst
    | with_reducible apply Keeps.ite_snd
    | intro _
    | dsimp only
    | split
    | (refine Keeps.fst (by with_reducible assumption) ?_)
    | (refine Keeps.snd (by with_reducible assumption) ?_)
    | rfl
    | exact ⟨rfl, rfl⟩
    | exact ⟨rfl, rfl, rfl⟩
    | exact Memory.wf_clear (by assumption) _ _
    | exact Memory.wf_filter (by assumption) _
    | exact Memory.wf_writeBytes (by assumption) _ _
    | with_reducible apply Keeps.mk_all
    | assumption
    | simp_all [Run.ok])

set_option maxRecDepth 4000 in
theorem State.ready_keeps {a s : State} (h : Keeps a s) : Keeps a (State.ready s) := by
  unfold State.ready
  with_reducible apply State.firstRecords_keeps
  with_reducible apply State.modHub_keeps
  · with_reducible apply State.modPower_keeps
    refine h.trans ⟨rfl, id, fun x => ?_, rfl, rfl⟩
    refine ⟨⟨rfl, ?_⟩, x.2⟩
    dsimp only
    intro q hq
    simp only [List.mem_cons, List.not_mem_nil, or_false] at hq
    rcases hq with rfl | rfl | rfl | rfl <;> exact Part.fresh_ok rfl
  · rfl

theorem State.testsOver_keeps {a s : State} (h : Keeps a s) : Keeps a (State.testsOver s) := by
  unfold State.testsOver
  iterate 24 all_goals (try first
    | with_reducible assumption
    | with_reducible apply State.modPart_keeps
    | with_reducible apply State.ready_keeps
    | (with_reducible apply State.each_keeps; intro _ _ _)
    | (with_reducible apply foldl_keeps)
    | (with_reducible apply foldl_fst_keeps)
    | with_reducible apply Keeps.ite
    | with_reducible apply Keeps.ite_fst
    | with_reducible apply Keeps.ite_snd
    | intro _
    | dsimp only
    | split
    | (refine Keeps.fst (by with_reducible assumption) ?_)
    | (refine Keeps.snd (by with_reducible assumption) ?_)
    | rfl
    | exact ⟨rfl, rfl⟩
    | exact ⟨rfl, rfl, rfl⟩
    | exact Memory.wf_clear (by assumption) _ _
    | exact Memory.wf_filter (by assumption) _
    | exact Memory.wf_writeBytes (by assumption) _ _
    | with_reducible apply Keeps.mk_all
    | assumption
    | simp_all [Run.ok])

theorem State.startUp_keeps {a s : State} (h : Keeps a s) : Keeps a (State.startUp s) := by
  unfold State.startUp
  dsimp only
  exact Keeps.ite h (State.modPower_keeps (State.modSec_keeps h ⟨Sec.boot_life _, Sec.boot_arb _⟩))

theorem State.tryStart_keeps {a s : State} (h : Keeps a s) : Keeps a (State.tryStart s) := by
  unfold State.tryStart
  iterate 24 all_goals (try first
    | with_reducible assumption
    | with_reducible apply State.modPower_keeps
    | (with_reducible apply foldl_keeps)
    | (with_reducible apply foldl_fst_keeps)
    | with_reducible apply Keeps.ite
    | with_reducible apply Keeps.ite_fst
    | with_reducible apply Keeps.ite_snd
    | intro _
    | dsimp only
    | split
    | (refine Keeps.fst (by with_reducible assumption) ?_)
    | (refine Keeps.snd (by with_reducible assumption) ?_)
    | rfl
    | exact ⟨rfl, rfl⟩
    | exact ⟨rfl, rfl, rfl⟩
    | exact Memory.wf_clear (by assumption) _ _
    | exact Memory.wf_filter (by assumption) _
    | exact Memory.wf_writeBytes (by assumption) _ _
    | with_reducible apply Keeps.mk_all
    | assumption
    | simp_all [Run.ok])

theorem State.vcoLock_keeps {a s : State} (h : Keeps a s) : Keeps a (State.vcoLock s) := by
  unfold State.vcoLock
  iterate 24 all_goals (try first
    | with_reducible assumption
    | with_reducible apply State.modHub_keeps
    | with_reducible apply State.modPower_keeps
    | (with_reducible apply foldl_keeps)
    | (with_reducible apply foldl_fst_keeps)
    | with_reducible apply Keeps.ite
    | with_reducible apply Keeps.ite_fst
    | with_reducible apply Keeps.ite_snd
    | intro _
    | dsimp only
    | split
    | (refine Keeps.fst (by with_reducible assumption) ?_)
    | (refine Keeps.snd (by with_reducible assumption) ?_)
    | rfl
    | exact ⟨rfl, rfl⟩
    | exact ⟨rfl, rfl, rfl⟩
    | exact Memory.wf_clear (by assumption) _ _
    | exact Memory.wf_filter (by assumption) _
    | exact Memory.wf_writeBytes (by assumption) _ _
    | with_reducible apply Keeps.mk_all
    | assumption
    | simp_all [Run.ok])

theorem State.nextRow_keeps {a s : State} (h : Keeps a s) : Keeps a (State.nextRow s) := by
  unfold State.nextRow
  iterate 24 all_goals (try first
    | with_reducible assumption
    | with_reducible apply State.modPower_keeps
    | with_reducible apply State.repairRows_keeps
    | with_reducible apply State.testAll_keeps
    | with_reducible apply State.testsOver_keeps
    | with_reducible apply State.startUp_keeps
    | with_reducible apply State.tryStart_keeps
    | with_reducible apply State.vcoLock_keeps
    | (with_reducible apply foldl_keeps)
    | (with_reducible apply foldl_fst_keeps)
    | with_reducible apply Keeps.ite
    | with_reducible apply Keeps.ite_fst
    | with_reducible apply Keeps.ite_snd
    | intro _
    | dsimp only
    | split
    | (refine Keeps.fst (by with_reducible assumption) ?_)
    | (refine Keeps.snd (by with_reducible assumption) ?_)
    | rfl
    | exact ⟨rfl, rfl⟩
    | exact ⟨rfl, rfl, rfl⟩
    | exact Memory.wf_clear (by assumption) _ _
    | exact Memory.wf_filter (by assumption) _
    | exact Memory.wf_writeBytes (by assumption) _ _
    | with_reducible apply Keeps.mk_all
    | assumption
    | simp_all [Run.ok])

theorem State.moduleReset_keeps {a s : State} (h : Keeps a s) {x1} : Keeps a (State.moduleReset s x1) := by
  unfold State.moduleReset
  iterate 24 all_goals (try first
    | with_reducible assumption
    | with_reducible apply State.cleared_keeps
    | with_reducible apply State.startUp_keeps
    | (with_reducible apply foldl_keeps)
    | (with_reducible apply foldl_fst_keeps)
    | with_reducible apply Keeps.ite
    | with_reducible apply Keeps.ite_fst
    | with_reducible apply Keeps.ite_snd
    | intro _
    | dsimp only
    | split
    | (refine Keeps.fst (by with_reducible assumption) ?_)
    | (refine Keeps.snd (by with_reducible assumption) ?_)
    | rfl
    | exact ⟨rfl, rfl⟩
    | exact ⟨rfl, rfl, rfl⟩
    | exact Memory.wf_clear (by assumption) _ _
    | exact Memory.wf_filter (by assumption) _
    | exact Memory.wf_writeBytes (by assumption) _ _
    | with_reducible apply Keeps.mk_all
    | assumption
    | simp_all [Run.ok])

theorem State.countReset_keeps {a s : State} (h : Keeps a s) : Keeps a (State.countReset s) := by
  unfold State.countReset
  iterate 24 all_goals (try first
    | with_reducible assumption
    | with_reducible apply State.modHub_keeps
    | with_reducible apply State.modPower_keeps
    | with_reducible apply State.saveHistory_keeps
    | (with_reducible apply foldl_keeps)
    | (with_reducible apply foldl_fst_keeps)
    | with_reducible apply Keeps.ite
    | with_reducible apply Keeps.ite_fst
    | with_reducible apply Keeps.ite_snd
    | intro _
    | dsimp only
    | split
    | (refine Keeps.fst (by with_reducible assumption) ?_)
    | (refine Keeps.snd (by with_reducible assumption) ?_)
    | rfl
    | exact ⟨rfl, rfl⟩
    | exact ⟨rfl, rfl, rfl⟩
    | exact Memory.wf_clear (by assumption) _ _
    | exact Memory.wf_filter (by assumption) _
    | exact Memory.wf_writeBytes (by assumption) _ _
    | with_reducible apply Keeps.mk_all
    | assumption
    | simp_all [Run.ok])

theorem State.fatalReset_keeps {a s : State} (h : Keeps a s) {x1} : Keeps a (State.fatalReset s x1) := by
  unfold State.fatalReset
  iterate 24 all_goals (try first
    | with_reducible assumption
    | with_reducible apply State.cleared_keeps
    | with_reducible apply State.startUp_keeps
    | with_reducible apply State.countReset_keeps
    | (with_reducible apply foldl_keeps)
    | (with_reducible apply foldl_fst_keeps)
    | with_reducible apply Keeps.ite
    | with_reducible apply Keeps.ite_fst
    | with_reducible apply Keeps.ite_snd
    | intro _
    | dsimp only
    | split
    | (refine Keeps.fst (by with_reducible assumption) ?_)
    | (refine Keeps.snd (by with_reducible assumption) ?_)
    | rfl
    | exact ⟨rfl, rfl⟩
    | exact ⟨rfl, rfl, rfl⟩
    | exact Memory.wf_clear (by assumption) _ _
    | exact Memory.wf_filter (by assumption) _
    | exact Memory.wf_writeBytes (by assumption) _ _
    | with_reducible apply Keeps.mk_all
    | assumption
    | simp_all [Run.ok])

theorem State.powerFail_keeps {a s : State} (h : Keeps a s) {x1 x2} : Keeps a (State.powerFail s x1 x2) := by
  unfold State.powerFail
  iterate 24 all_goals (try first
    | with_reducible assumption
    | with_reducible apply State.modHub_keeps
    | with_reducible apply State.modPower_keeps
    | with_reducible apply State.flash_keeps
    | with_reducible apply State.poweredOff_keeps
    | with_reducible apply State.countReset_keeps
    | (with_reducible apply foldl_keeps)
    | (with_reducible apply foldl_fst_keeps)
    | with_reducible apply Keeps.ite
    | with_reducible apply Keeps.ite_fst
    | with_reducible apply Keeps.ite_snd
    | intro _
    | dsimp only
    | split
    | (refine Keeps.fst (by with_reducible assumption) ?_)
    | (refine Keeps.snd (by with_reducible assumption) ?_)
    | rfl
    | exact ⟨rfl, rfl⟩
    | exact ⟨rfl, rfl, rfl⟩
    | exact Memory.wf_clear (by assumption) _ _
    | exact Memory.wf_filter (by assumption) _
    | exact Memory.wf_writeBytes (by assumption) _ _
    | with_reducible apply Keeps.mk_all
    | assumption
    | simp_all [Run.ok])

set_option maxRecDepth 4000 in
theorem State.partsFor_keeps {a u : State} (h : Keeps a u) {x1} : Keeps a (State.partsFor u x1) := by
  unfold State.partsFor
  refine h.trans ⟨rfl, fun x => Memory.wf_filter x _, fun x => ?_, rfl, rfl⟩
  obtain ⟨_, h1, h2, h3, h4, h5, h6, h7, h8, h9, h10, h11, h12⟩ := x
  refine ⟨⟨?_, ?_⟩, h1, List.length_replicate, List.length_replicate, ?_, h5, List.length_replicate, ?_, ?_, ?_, h10, h11, rfl⟩
  · show (List.map _ (List.range 4)).length = 4
    rw [List.length_map, List.length_range]
  · show ∀ q ∈ List.map (fun p => if p < countOf x1 then ({ st := UnitSt.reset } : Part) else {}) (List.range 4), q.run.ok
    refine List.forall_mem_map.2 fun p _ => Part.fresh_ok ?_
    split <;> rfl
  · show (List.map _ u.units).length = 8
    rw [List.length_map]; exact h4
  · show (List.map _ u.cipher.cores).length = 16
    rw [List.length_map]; exact h7
  · show (List.map _ u.net.qps).length = 64
    rw [List.length_map]; exact h8
  · show (List.map _ u.net.targets).length = 256
    rw [List.length_map]; exact h9

theorem State.repartition_keeps {a s : State} (h : Keeps a s) {x1} : Keeps a (State.repartition s x1) := by
  unfold State.repartition
  iterate 24 all_goals (try first
    | with_reducible assumption
    | with_reducible apply State.modPower_keeps
    | with_reducible apply State.finishMbx_keeps
    | with_reducible apply State.testAll_keeps
    | with_reducible apply State.testsOver_keeps
    | with_reducible apply State.partsFor_keeps
    | (with_reducible apply State.each_keeps; intro _ _ _)
    | (with_reducible apply foldl_keeps)
    | (with_reducible apply foldl_fst_keeps)
    | with_reducible apply Keeps.ite
    | with_reducible apply Keeps.ite_fst
    | with_reducible apply Keeps.ite_snd
    | intro _
    | dsimp only
    | split
    | (refine Keeps.fst (by with_reducible assumption) ?_)
    | (refine Keeps.snd (by with_reducible assumption) ?_)
    | rfl
    | exact ⟨rfl, rfl⟩
    | exact ⟨rfl, rfl, rfl⟩
    | exact Memory.wf_clear (by assumption) _ _
    | exact Memory.wf_filter (by assumption) _
    | exact Memory.wf_writeBytes (by assumption) _ _
    | with_reducible apply Keeps.mk_all
    | assumption
    | simp_all [Run.ok])

end Sys2Proof.Machine
end

