-- ==== Sys2Proof/Laws/State.lean ====
section
/-! SUPPORT. Every field of the state after each named update of one of them: what is written, and that the others are as they were. -/

namespace Sys2Proof.Machine

variable (s : State)

/-! `modPart` -/

@[simp] theorem State.modPart_pending (p : Nat) (f : Part → Part) : (s.modPart p f).pending = s.pending := rfl
@[simp] theorem State.modPart_tick (p : Nat) (f : Part → Part) : (s.modPart p f).tick = s.tick := rfl
@[simp] theorem State.modPart_free (p : Nat) (f : Part → Part) : (s.modPart p f).free = s.free := rfl
@[simp] theorem State.modPart_moduleId (p : Nat) (f : Part → Part) : (s.modPart p f).moduleId = s.moduleId := rfl
@[simp] theorem State.modPart_idValid (p : Nat) (f : Part → Part) : (s.modPart p f).idValid = s.idValid := rfl
@[simp] theorem State.modPart_partCfg (p : Nat) (f : Part → Part) : (s.modPart p f).partCfg = s.partCfg := rfl
@[simp] theorem State.modPart_parts (p : Nat) (f : Part → Part) : (s.modPart p f).parts = updAt s.parts p f := rfl
@[simp] theorem State.modPart_hearths (p : Nat) (f : Part → Part) : (s.modPart p f).hearths = s.hearths := rfl
@[simp] theorem State.modPart_tempers (p : Nat) (f : Part → Part) : (s.modPart p f).tempers = s.tempers := rfl
@[simp] theorem State.modPart_tongs (p : Nat) (f : Part → Part) : (s.modPart p f).tongs = s.tongs := rfl
@[simp] theorem State.modPart_units (p : Nat) (f : Part → Part) : (s.modPart p f).units = s.units := rfl
@[simp] theorem State.modPart_mem (p : Nat) (f : Part → Part) : (s.modPart p f).mem = s.mem := rfl
@[simp] theorem State.modPart_marks (p : Nat) (f : Part → Part) : (s.modPart p f).marks = s.marks := rfl
@[simp] theorem State.modPart_wmarks (p : Nat) (f : Part → Part) : (s.modPart p f).wmarks = s.wmarks := rfl
@[simp] theorem State.modPart_observed (p : Nat) (f : Part → Part) : (s.modPart p f).observed = s.observed := rfl
@[simp] theorem State.modPart_smithOwns (p : Nat) (f : Part → Part) : (s.modPart p f).smithOwns = s.smithOwns := rfl
@[simp] theorem State.modPart_cipher (p : Nat) (f : Part → Part) : (s.modPart p f).cipher = s.cipher := rfl
@[simp] theorem State.modPart_sec (p : Nat) (f : Part → Part) : (s.modPart p f).sec = s.sec := rfl
@[simp] theorem State.modPart_hub (p : Nat) (f : Part → Part) : (s.modPart p f).hub = s.hub := rfl
@[simp] theorem State.modPart_scrub (p : Nat) (f : Part → Part) : (s.modPart p f).scrub = s.scrub := rfl
@[simp] theorem State.modPart_streams (p : Nat) (f : Part → Part) : (s.modPart p f).streams = s.streams := rfl
@[simp] theorem State.modPart_net (p : Nat) (f : Part → Part) : (s.modPart p f).net = s.net := rfl
@[simp] theorem State.modPart_side (p : Nat) (f : Part → Part) : (s.modPart p f).side = s.side := rfl
@[simp] theorem State.modPart_power (p : Nat) (f : Part → Part) : (s.modPart p f).power = s.power := rfl
@[simp] theorem State.modPart_counts (p : Nat) (f : Part → Part) : (s.modPart p f).counts = s.counts := rfl
@[simp] theorem State.modPart_out (p : Nat) (f : Part → Part) : (s.modPart p f).out = s.out := rfl

/-! `modRun` -/

@[simp] theorem State.modRun_pending (p : Nat) (f : Run → Run) : (s.modRun p f).pending = s.pending := rfl
@[simp] theorem State.modRun_tick (p : Nat) (f : Run → Run) : (s.modRun p f).tick = s.tick := rfl
@[simp] theorem State.modRun_free (p : Nat) (f : Run → Run) : (s.modRun p f).free = s.free := rfl
@[simp] theorem State.modRun_moduleId (p : Nat) (f : Run → Run) : (s.modRun p f).moduleId = s.moduleId := rfl
@[simp] theorem State.modRun_idValid (p : Nat) (f : Run → Run) : (s.modRun p f).idValid = s.idValid := rfl
@[simp] theorem State.modRun_partCfg (p : Nat) (f : Run → Run) : (s.modRun p f).partCfg = s.partCfg := rfl
@[simp] theorem State.modRun_parts (p : Nat) (f : Run → Run) : (s.modRun p f).parts = updAt s.parts p fun q => { q with run := f q.run } := rfl
@[simp] theorem State.modRun_hearths (p : Nat) (f : Run → Run) : (s.modRun p f).hearths = s.hearths := rfl
@[simp] theorem State.modRun_tempers (p : Nat) (f : Run → Run) : (s.modRun p f).tempers = s.tempers := rfl
@[simp] theorem State.modRun_tongs (p : Nat) (f : Run → Run) : (s.modRun p f).tongs = s.tongs := rfl
@[simp] theorem State.modRun_units (p : Nat) (f : Run → Run) : (s.modRun p f).units = s.units := rfl
@[simp] theorem State.modRun_mem (p : Nat) (f : Run → Run) : (s.modRun p f).mem = s.mem := rfl
@[simp] theorem State.modRun_marks (p : Nat) (f : Run → Run) : (s.modRun p f).marks = s.marks := rfl
@[simp] theorem State.modRun_wmarks (p : Nat) (f : Run → Run) : (s.modRun p f).wmarks = s.wmarks := rfl
@[simp] theorem State.modRun_observed (p : Nat) (f : Run → Run) : (s.modRun p f).observed = s.observed := rfl
@[simp] theorem State.modRun_smithOwns (p : Nat) (f : Run → Run) : (s.modRun p f).smithOwns = s.smithOwns := rfl
@[simp] theorem State.modRun_cipher (p : Nat) (f : Run → Run) : (s.modRun p f).cipher = s.cipher := rfl
@[simp] theorem State.modRun_sec (p : Nat) (f : Run → Run) : (s.modRun p f).sec = s.sec := rfl
@[simp] theorem State.modRun_hub (p : Nat) (f : Run → Run) : (s.modRun p f).hub = s.hub := rfl
@[simp] theorem State.modRun_scrub (p : Nat) (f : Run → Run) : (s.modRun p f).scrub = s.scrub := rfl
@[simp] theorem State.modRun_streams (p : Nat) (f : Run → Run) : (s.modRun p f).streams = s.streams := rfl
@[simp] theorem State.modRun_net (p : Nat) (f : Run → Run) : (s.modRun p f).net = s.net := rfl
@[simp] theorem State.modRun_side (p : Nat) (f : Run → Run) : (s.modRun p f).side = s.side := rfl
@[simp] theorem State.modRun_power (p : Nat) (f : Run → Run) : (s.modRun p f).power = s.power := rfl
@[simp] theorem State.modRun_counts (p : Nat) (f : Run → Run) : (s.modRun p f).counts = s.counts := rfl
@[simp] theorem State.modRun_out (p : Nat) (f : Run → Run) : (s.modRun p f).out = s.out := rfl

/-! `modArena` -/

@[simp] theorem State.modArena_pending (p : Nat) (f : Arena → Arena) : (s.modArena p f).pending = s.pending := rfl
@[simp] theorem State.modArena_tick (p : Nat) (f : Arena → Arena) : (s.modArena p f).tick = s.tick := rfl
@[simp] theorem State.modArena_free (p : Nat) (f : Arena → Arena) : (s.modArena p f).free = s.free := rfl
@[simp] theorem State.modArena_moduleId (p : Nat) (f : Arena → Arena) : (s.modArena p f).moduleId = s.moduleId := rfl
@[simp] theorem State.modArena_idValid (p : Nat) (f : Arena → Arena) : (s.modArena p f).idValid = s.idValid := rfl
@[simp] theorem State.modArena_partCfg (p : Nat) (f : Arena → Arena) : (s.modArena p f).partCfg = s.partCfg := rfl
@[simp] theorem State.modArena_parts (p : Nat) (f : Arena → Arena) : (s.modArena p f).parts = updAt s.parts p fun q => { q with arena := f q.arena } := rfl
@[simp] theorem State.modArena_hearths (p : Nat) (f : Arena → Arena) : (s.modArena p f).hearths = s.hearths := rfl
@[simp] theorem State.modArena_tempers (p : Nat) (f : Arena → Arena) : (s.modArena p f).tempers = s.tempers := rfl
@[simp] theorem State.modArena_tongs (p : Nat) (f : Arena → Arena) : (s.modArena p f).tongs = s.tongs := rfl
@[simp] theorem State.modArena_units (p : Nat) (f : Arena → Arena) : (s.modArena p f).units = s.units := rfl
@[simp] theorem State.modArena_mem (p : Nat) (f : Arena → Arena) : (s.modArena p f).mem = s.mem := rfl
@[simp] theorem State.modArena_marks (p : Nat) (f : Arena → Arena) : (s.modArena p f).marks = s.marks := rfl
@[simp] theorem State.modArena_wmarks (p : Nat) (f : Arena → Arena) : (s.modArena p f).wmarks = s.wmarks := rfl
@[simp] theorem State.modArena_observed (p : Nat) (f : Arena → Arena) : (s.modArena p f).observed = s.observed := rfl
@[simp] theorem State.modArena_smithOwns (p : Nat) (f : Arena → Arena) : (s.modArena p f).smithOwns = s.smithOwns := rfl
@[simp] theorem State.modArena_cipher (p : Nat) (f : Arena → Arena) : (s.modArena p f).cipher = s.cipher := rfl
@[simp] theorem State.modArena_sec (p : Nat) (f : Arena → Arena) : (s.modArena p f).sec = s.sec := rfl
@[simp] theorem State.modArena_hub (p : Nat) (f : Arena → Arena) : (s.modArena p f).hub = s.hub := rfl
@[simp] theorem State.modArena_scrub (p : Nat) (f : Arena → Arena) : (s.modArena p f).scrub = s.scrub := rfl
@[simp] theorem State.modArena_streams (p : Nat) (f : Arena → Arena) : (s.modArena p f).streams = s.streams := rfl
@[simp] theorem State.modArena_net (p : Nat) (f : Arena → Arena) : (s.modArena p f).net = s.net := rfl
@[simp] theorem State.modArena_side (p : Nat) (f : Arena → Arena) : (s.modArena p f).side = s.side := rfl
@[simp] theorem State.modArena_power (p : Nat) (f : Arena → Arena) : (s.modArena p f).power = s.power := rfl
@[simp] theorem State.modArena_counts (p : Nat) (f : Arena → Arena) : (s.modArena p f).counts = s.counts := rfl
@[simp] theorem State.modArena_out (p : Nat) (f : Arena → Arena) : (s.modArena p f).out = s.out := rfl

/-! `modPyro` -/

@[simp] theorem State.modPyro_pending (p : Nat) (f : Pyro → Pyro) : (s.modPyro p f).pending = s.pending := rfl
@[simp] theorem State.modPyro_tick (p : Nat) (f : Pyro → Pyro) : (s.modPyro p f).tick = s.tick := rfl
@[simp] theorem State.modPyro_free (p : Nat) (f : Pyro → Pyro) : (s.modPyro p f).free = s.free := rfl
@[simp] theorem State.modPyro_moduleId (p : Nat) (f : Pyro → Pyro) : (s.modPyro p f).moduleId = s.moduleId := rfl
@[simp] theorem State.modPyro_idValid (p : Nat) (f : Pyro → Pyro) : (s.modPyro p f).idValid = s.idValid := rfl
@[simp] theorem State.modPyro_partCfg (p : Nat) (f : Pyro → Pyro) : (s.modPyro p f).partCfg = s.partCfg := rfl
@[simp] theorem State.modPyro_parts (p : Nat) (f : Pyro → Pyro) : (s.modPyro p f).parts = updAt s.parts p fun q => { q with pyro := f q.pyro } := rfl
@[simp] theorem State.modPyro_hearths (p : Nat) (f : Pyro → Pyro) : (s.modPyro p f).hearths = s.hearths := rfl
@[simp] theorem State.modPyro_tempers (p : Nat) (f : Pyro → Pyro) : (s.modPyro p f).tempers = s.tempers := rfl
@[simp] theorem State.modPyro_tongs (p : Nat) (f : Pyro → Pyro) : (s.modPyro p f).tongs = s.tongs := rfl
@[simp] theorem State.modPyro_units (p : Nat) (f : Pyro → Pyro) : (s.modPyro p f).units = s.units := rfl
@[simp] theorem State.modPyro_mem (p : Nat) (f : Pyro → Pyro) : (s.modPyro p f).mem = s.mem := rfl
@[simp] theorem State.modPyro_marks (p : Nat) (f : Pyro → Pyro) : (s.modPyro p f).marks = s.marks := rfl
@[simp] theorem State.modPyro_wmarks (p : Nat) (f : Pyro → Pyro) : (s.modPyro p f).wmarks = s.wmarks := rfl
@[simp] theorem State.modPyro_observed (p : Nat) (f : Pyro → Pyro) : (s.modPyro p f).observed = s.observed := rfl
@[simp] theorem State.modPyro_smithOwns (p : Nat) (f : Pyro → Pyro) : (s.modPyro p f).smithOwns = s.smithOwns := rfl
@[simp] theorem State.modPyro_cipher (p : Nat) (f : Pyro → Pyro) : (s.modPyro p f).cipher = s.cipher := rfl
@[simp] theorem State.modPyro_sec (p : Nat) (f : Pyro → Pyro) : (s.modPyro p f).sec = s.sec := rfl
@[simp] theorem State.modPyro_hub (p : Nat) (f : Pyro → Pyro) : (s.modPyro p f).hub = s.hub := rfl
@[simp] theorem State.modPyro_scrub (p : Nat) (f : Pyro → Pyro) : (s.modPyro p f).scrub = s.scrub := rfl
@[simp] theorem State.modPyro_streams (p : Nat) (f : Pyro → Pyro) : (s.modPyro p f).streams = s.streams := rfl
@[simp] theorem State.modPyro_net (p : Nat) (f : Pyro → Pyro) : (s.modPyro p f).net = s.net := rfl
@[simp] theorem State.modPyro_side (p : Nat) (f : Pyro → Pyro) : (s.modPyro p f).side = s.side := rfl
@[simp] theorem State.modPyro_power (p : Nat) (f : Pyro → Pyro) : (s.modPyro p f).power = s.power := rfl
@[simp] theorem State.modPyro_counts (p : Nat) (f : Pyro → Pyro) : (s.modPyro p f).counts = s.counts := rfl
@[simp] theorem State.modPyro_out (p : Nat) (f : Pyro → Pyro) : (s.modPyro p f).out = s.out := rfl

/-! `modColl` -/

@[simp] theorem State.modColl_pending (p : Nat) (f : Coll → Coll) : (s.modColl p f).pending = s.pending := rfl
@[simp] theorem State.modColl_tick (p : Nat) (f : Coll → Coll) : (s.modColl p f).tick = s.tick := rfl
@[simp] theorem State.modColl_free (p : Nat) (f : Coll → Coll) : (s.modColl p f).free = s.free := rfl
@[simp] theorem State.modColl_moduleId (p : Nat) (f : Coll → Coll) : (s.modColl p f).moduleId = s.moduleId := rfl
@[simp] theorem State.modColl_idValid (p : Nat) (f : Coll → Coll) : (s.modColl p f).idValid = s.idValid := rfl
@[simp] theorem State.modColl_partCfg (p : Nat) (f : Coll → Coll) : (s.modColl p f).partCfg = s.partCfg := rfl
@[simp] theorem State.modColl_parts (p : Nat) (f : Coll → Coll) : (s.modColl p f).parts = updAt s.parts p fun q => { q with coll := f q.coll } := rfl
@[simp] theorem State.modColl_hearths (p : Nat) (f : Coll → Coll) : (s.modColl p f).hearths = s.hearths := rfl
@[simp] theorem State.modColl_tempers (p : Nat) (f : Coll → Coll) : (s.modColl p f).tempers = s.tempers := rfl
@[simp] theorem State.modColl_tongs (p : Nat) (f : Coll → Coll) : (s.modColl p f).tongs = s.tongs := rfl
@[simp] theorem State.modColl_units (p : Nat) (f : Coll → Coll) : (s.modColl p f).units = s.units := rfl
@[simp] theorem State.modColl_mem (p : Nat) (f : Coll → Coll) : (s.modColl p f).mem = s.mem := rfl
@[simp] theorem State.modColl_marks (p : Nat) (f : Coll → Coll) : (s.modColl p f).marks = s.marks := rfl
@[simp] theorem State.modColl_wmarks (p : Nat) (f : Coll → Coll) : (s.modColl p f).wmarks = s.wmarks := rfl
@[simp] theorem State.modColl_observed (p : Nat) (f : Coll → Coll) : (s.modColl p f).observed = s.observed := rfl
@[simp] theorem State.modColl_smithOwns (p : Nat) (f : Coll → Coll) : (s.modColl p f).smithOwns = s.smithOwns := rfl
@[simp] theorem State.modColl_cipher (p : Nat) (f : Coll → Coll) : (s.modColl p f).cipher = s.cipher := rfl
@[simp] theorem State.modColl_sec (p : Nat) (f : Coll → Coll) : (s.modColl p f).sec = s.sec := rfl
@[simp] theorem State.modColl_hub (p : Nat) (f : Coll → Coll) : (s.modColl p f).hub = s.hub := rfl
@[simp] theorem State.modColl_scrub (p : Nat) (f : Coll → Coll) : (s.modColl p f).scrub = s.scrub := rfl
@[simp] theorem State.modColl_streams (p : Nat) (f : Coll → Coll) : (s.modColl p f).streams = s.streams := rfl
@[simp] theorem State.modColl_net (p : Nat) (f : Coll → Coll) : (s.modColl p f).net = s.net := rfl
@[simp] theorem State.modColl_side (p : Nat) (f : Coll → Coll) : (s.modColl p f).side = s.side := rfl
@[simp] theorem State.modColl_power (p : Nat) (f : Coll → Coll) : (s.modColl p f).power = s.power := rfl
@[simp] theorem State.modColl_counts (p : Nat) (f : Coll → Coll) : (s.modColl p f).counts = s.counts := rfl
@[simp] theorem State.modColl_out (p : Nat) (f : Coll → Coll) : (s.modColl p f).out = s.out := rfl

/-! `modFab` -/

@[simp] theorem State.modFab_pending (p : Nat) (f : Fabric → Fabric) : (s.modFab p f).pending = s.pending := rfl
@[simp] theorem State.modFab_tick (p : Nat) (f : Fabric → Fabric) : (s.modFab p f).tick = s.tick := rfl
@[simp] theorem State.modFab_free (p : Nat) (f : Fabric → Fabric) : (s.modFab p f).free = s.free := rfl
@[simp] theorem State.modFab_moduleId (p : Nat) (f : Fabric → Fabric) : (s.modFab p f).moduleId = s.moduleId := rfl
@[simp] theorem State.modFab_idValid (p : Nat) (f : Fabric → Fabric) : (s.modFab p f).idValid = s.idValid := rfl
@[simp] theorem State.modFab_partCfg (p : Nat) (f : Fabric → Fabric) : (s.modFab p f).partCfg = s.partCfg := rfl
@[simp] theorem State.modFab_parts (p : Nat) (f : Fabric → Fabric) : (s.modFab p f).parts = updAt s.parts p fun q => { q with fab := f q.fab } := rfl
@[simp] theorem State.modFab_hearths (p : Nat) (f : Fabric → Fabric) : (s.modFab p f).hearths = s.hearths := rfl
@[simp] theorem State.modFab_tempers (p : Nat) (f : Fabric → Fabric) : (s.modFab p f).tempers = s.tempers := rfl
@[simp] theorem State.modFab_tongs (p : Nat) (f : Fabric → Fabric) : (s.modFab p f).tongs = s.tongs := rfl
@[simp] theorem State.modFab_units (p : Nat) (f : Fabric → Fabric) : (s.modFab p f).units = s.units := rfl
@[simp] theorem State.modFab_mem (p : Nat) (f : Fabric → Fabric) : (s.modFab p f).mem = s.mem := rfl
@[simp] theorem State.modFab_marks (p : Nat) (f : Fabric → Fabric) : (s.modFab p f).marks = s.marks := rfl
@[simp] theorem State.modFab_wmarks (p : Nat) (f : Fabric → Fabric) : (s.modFab p f).wmarks = s.wmarks := rfl
@[simp] theorem State.modFab_observed (p : Nat) (f : Fabric → Fabric) : (s.modFab p f).observed = s.observed := rfl
@[simp] theorem State.modFab_smithOwns (p : Nat) (f : Fabric → Fabric) : (s.modFab p f).smithOwns = s.smithOwns := rfl
@[simp] theorem State.modFab_cipher (p : Nat) (f : Fabric → Fabric) : (s.modFab p f).cipher = s.cipher := rfl
@[simp] theorem State.modFab_sec (p : Nat) (f : Fabric → Fabric) : (s.modFab p f).sec = s.sec := rfl
@[simp] theorem State.modFab_hub (p : Nat) (f : Fabric → Fabric) : (s.modFab p f).hub = s.hub := rfl
@[simp] theorem State.modFab_scrub (p : Nat) (f : Fabric → Fabric) : (s.modFab p f).scrub = s.scrub := rfl
@[simp] theorem State.modFab_streams (p : Nat) (f : Fabric → Fabric) : (s.modFab p f).streams = s.streams := rfl
@[simp] theorem State.modFab_net (p : Nat) (f : Fabric → Fabric) : (s.modFab p f).net = s.net := rfl
@[simp] theorem State.modFab_side (p : Nat) (f : Fabric → Fabric) : (s.modFab p f).side = s.side := rfl
@[simp] theorem State.modFab_power (p : Nat) (f : Fabric → Fabric) : (s.modFab p f).power = s.power := rfl
@[simp] theorem State.modFab_counts (p : Nat) (f : Fabric → Fabric) : (s.modFab p f).counts = s.counts := rfl
@[simp] theorem State.modFab_out (p : Nat) (f : Fabric → Fabric) : (s.modFab p f).out = s.out := rfl

/-! `modOuter` -/

@[simp] theorem State.modOuter_pending (p : Nat) (f : Outer → Outer) : (s.modOuter p f).pending = s.pending := rfl
@[simp] theorem State.modOuter_tick (p : Nat) (f : Outer → Outer) : (s.modOuter p f).tick = s.tick := rfl
@[simp] theorem State.modOuter_free (p : Nat) (f : Outer → Outer) : (s.modOuter p f).free = s.free := rfl
@[simp] theorem State.modOuter_moduleId (p : Nat) (f : Outer → Outer) : (s.modOuter p f).moduleId = s.moduleId := rfl
@[simp] theorem State.modOuter_idValid (p : Nat) (f : Outer → Outer) : (s.modOuter p f).idValid = s.idValid := rfl
@[simp] theorem State.modOuter_partCfg (p : Nat) (f : Outer → Outer) : (s.modOuter p f).partCfg = s.partCfg := rfl
@[simp] theorem State.modOuter_parts (p : Nat) (f : Outer → Outer) : (s.modOuter p f).parts = updAt s.parts p fun q => { q with outer := f q.outer } := rfl
@[simp] theorem State.modOuter_hearths (p : Nat) (f : Outer → Outer) : (s.modOuter p f).hearths = s.hearths := rfl
@[simp] theorem State.modOuter_tempers (p : Nat) (f : Outer → Outer) : (s.modOuter p f).tempers = s.tempers := rfl
@[simp] theorem State.modOuter_tongs (p : Nat) (f : Outer → Outer) : (s.modOuter p f).tongs = s.tongs := rfl
@[simp] theorem State.modOuter_units (p : Nat) (f : Outer → Outer) : (s.modOuter p f).units = s.units := rfl
@[simp] theorem State.modOuter_mem (p : Nat) (f : Outer → Outer) : (s.modOuter p f).mem = s.mem := rfl
@[simp] theorem State.modOuter_marks (p : Nat) (f : Outer → Outer) : (s.modOuter p f).marks = s.marks := rfl
@[simp] theorem State.modOuter_wmarks (p : Nat) (f : Outer → Outer) : (s.modOuter p f).wmarks = s.wmarks := rfl
@[simp] theorem State.modOuter_observed (p : Nat) (f : Outer → Outer) : (s.modOuter p f).observed = s.observed := rfl
@[simp] theorem State.modOuter_smithOwns (p : Nat) (f : Outer → Outer) : (s.modOuter p f).smithOwns = s.smithOwns := rfl
@[simp] theorem State.modOuter_cipher (p : Nat) (f : Outer → Outer) : (s.modOuter p f).cipher = s.cipher := rfl
@[simp] theorem State.modOuter_sec (p : Nat) (f : Outer → Outer) : (s.modOuter p f).sec = s.sec := rfl
@[simp] theorem State.modOuter_hub (p : Nat) (f : Outer → Outer) : (s.modOuter p f).hub = s.hub := rfl
@[simp] theorem State.modOuter_scrub (p : Nat) (f : Outer → Outer) : (s.modOuter p f).scrub = s.scrub := rfl
@[simp] theorem State.modOuter_streams (p : Nat) (f : Outer → Outer) : (s.modOuter p f).streams = s.streams := rfl
@[simp] theorem State.modOuter_net (p : Nat) (f : Outer → Outer) : (s.modOuter p f).net = s.net := rfl
@[simp] theorem State.modOuter_side (p : Nat) (f : Outer → Outer) : (s.modOuter p f).side = s.side := rfl
@[simp] theorem State.modOuter_power (p : Nat) (f : Outer → Outer) : (s.modOuter p f).power = s.power := rfl
@[simp] theorem State.modOuter_counts (p : Nat) (f : Outer → Outer) : (s.modOuter p f).counts = s.counts := rfl
@[simp] theorem State.modOuter_out (p : Nat) (f : Outer → Outer) : (s.modOuter p f).out = s.out := rfl

/-! `modDuty` -/

@[simp] theorem State.modDuty_pending (p : Nat) (f : Duty → Duty) : (s.modDuty p f).pending = s.pending := rfl
@[simp] theorem State.modDuty_tick (p : Nat) (f : Duty → Duty) : (s.modDuty p f).tick = s.tick := rfl
@[simp] theorem State.modDuty_free (p : Nat) (f : Duty → Duty) : (s.modDuty p f).free = s.free := rfl
@[simp] theorem State.modDuty_moduleId (p : Nat) (f : Duty → Duty) : (s.modDuty p f).moduleId = s.moduleId := rfl
@[simp] theorem State.modDuty_idValid (p : Nat) (f : Duty → Duty) : (s.modDuty p f).idValid = s.idValid := rfl
@[simp] theorem State.modDuty_partCfg (p : Nat) (f : Duty → Duty) : (s.modDuty p f).partCfg = s.partCfg := rfl
@[simp] theorem State.modDuty_parts (p : Nat) (f : Duty → Duty) : (s.modDuty p f).parts = updAt s.parts p fun q => { q with duty := f q.duty } := rfl
@[simp] theorem State.modDuty_hearths (p : Nat) (f : Duty → Duty) : (s.modDuty p f).hearths = s.hearths := rfl
@[simp] theorem State.modDuty_tempers (p : Nat) (f : Duty → Duty) : (s.modDuty p f).tempers = s.tempers := rfl
@[simp] theorem State.modDuty_tongs (p : Nat) (f : Duty → Duty) : (s.modDuty p f).tongs = s.tongs := rfl
@[simp] theorem State.modDuty_units (p : Nat) (f : Duty → Duty) : (s.modDuty p f).units = s.units := rfl
@[simp] theorem State.modDuty_mem (p : Nat) (f : Duty → Duty) : (s.modDuty p f).mem = s.mem := rfl
@[simp] theorem State.modDuty_marks (p : Nat) (f : Duty → Duty) : (s.modDuty p f).marks = s.marks := rfl
@[simp] theorem State.modDuty_wmarks (p : Nat) (f : Duty → Duty) : (s.modDuty p f).wmarks = s.wmarks := rfl
@[simp] theorem State.modDuty_observed (p : Nat) (f : Duty → Duty) : (s.modDuty p f).observed = s.observed := rfl
@[simp] theorem State.modDuty_smithOwns (p : Nat) (f : Duty → Duty) : (s.modDuty p f).smithOwns = s.smithOwns := rfl
@[simp] theorem State.modDuty_cipher (p : Nat) (f : Duty → Duty) : (s.modDuty p f).cipher = s.cipher := rfl
@[simp] theorem State.modDuty_sec (p : Nat) (f : Duty → Duty) : (s.modDuty p f).sec = s.sec := rfl
@[simp] theorem State.modDuty_hub (p : Nat) (f : Duty → Duty) : (s.modDuty p f).hub = s.hub := rfl
@[simp] theorem State.modDuty_scrub (p : Nat) (f : Duty → Duty) : (s.modDuty p f).scrub = s.scrub := rfl
@[simp] theorem State.modDuty_streams (p : Nat) (f : Duty → Duty) : (s.modDuty p f).streams = s.streams := rfl
@[simp] theorem State.modDuty_net (p : Nat) (f : Duty → Duty) : (s.modDuty p f).net = s.net := rfl
@[simp] theorem State.modDuty_side (p : Nat) (f : Duty → Duty) : (s.modDuty p f).side = s.side := rfl
@[simp] theorem State.modDuty_power (p : Nat) (f : Duty → Duty) : (s.modDuty p f).power = s.power := rfl
@[simp] theorem State.modDuty_counts (p : Nat) (f : Duty → Duty) : (s.modDuty p f).counts = s.counts := rfl
@[simp] theorem State.modDuty_out (p : Nat) (f : Duty → Duty) : (s.modDuty p f).out = s.out := rfl

/-! `modHearth` -/

@[simp] theorem State.modHearth_pending (h : Nat) (f : Hearth → Hearth) : (s.modHearth h f).pending = s.pending := rfl
@[simp] theorem State.modHearth_tick (h : Nat) (f : Hearth → Hearth) : (s.modHearth h f).tick = s.tick := rfl
@[simp] theorem State.modHearth_free (h : Nat) (f : Hearth → Hearth) : (s.modHearth h f).free = s.free := rfl
@[simp] theorem State.modHearth_moduleId (h : Nat) (f : Hearth → Hearth) : (s.modHearth h f).moduleId = s.moduleId := rfl
@[simp] theorem State.modHearth_idValid (h : Nat) (f : Hearth → Hearth) : (s.modHearth h f).idValid = s.idValid := rfl
@[simp] theorem State.modHearth_partCfg (h : Nat) (f : Hearth → Hearth) : (s.modHearth h f).partCfg = s.partCfg := rfl
@[simp] theorem State.modHearth_parts (h : Nat) (f : Hearth → Hearth) : (s.modHearth h f).parts = s.parts := rfl
@[simp] theorem State.modHearth_hearths (h : Nat) (f : Hearth → Hearth) : (s.modHearth h f).hearths = updAt s.hearths h f := rfl
@[simp] theorem State.modHearth_tempers (h : Nat) (f : Hearth → Hearth) : (s.modHearth h f).tempers = s.tempers := rfl
@[simp] theorem State.modHearth_tongs (h : Nat) (f : Hearth → Hearth) : (s.modHearth h f).tongs = s.tongs := rfl
@[simp] theorem State.modHearth_units (h : Nat) (f : Hearth → Hearth) : (s.modHearth h f).units = s.units := rfl
@[simp] theorem State.modHearth_mem (h : Nat) (f : Hearth → Hearth) : (s.modHearth h f).mem = s.mem := rfl
@[simp] theorem State.modHearth_marks (h : Nat) (f : Hearth → Hearth) : (s.modHearth h f).marks = s.marks := rfl
@[simp] theorem State.modHearth_wmarks (h : Nat) (f : Hearth → Hearth) : (s.modHearth h f).wmarks = s.wmarks := rfl
@[simp] theorem State.modHearth_observed (h : Nat) (f : Hearth → Hearth) : (s.modHearth h f).observed = s.observed := rfl
@[simp] theorem State.modHearth_smithOwns (h : Nat) (f : Hearth → Hearth) : (s.modHearth h f).smithOwns = s.smithOwns := rfl
@[simp] theorem State.modHearth_cipher (h : Nat) (f : Hearth → Hearth) : (s.modHearth h f).cipher = s.cipher := rfl
@[simp] theorem State.modHearth_sec (h : Nat) (f : Hearth → Hearth) : (s.modHearth h f).sec = s.sec := rfl
@[simp] theorem State.modHearth_hub (h : Nat) (f : Hearth → Hearth) : (s.modHearth h f).hub = s.hub := rfl
@[simp] theorem State.modHearth_scrub (h : Nat) (f : Hearth → Hearth) : (s.modHearth h f).scrub = s.scrub := rfl
@[simp] theorem State.modHearth_streams (h : Nat) (f : Hearth → Hearth) : (s.modHearth h f).streams = s.streams := rfl
@[simp] theorem State.modHearth_net (h : Nat) (f : Hearth → Hearth) : (s.modHearth h f).net = s.net := rfl
@[simp] theorem State.modHearth_side (h : Nat) (f : Hearth → Hearth) : (s.modHearth h f).side = s.side := rfl
@[simp] theorem State.modHearth_power (h : Nat) (f : Hearth → Hearth) : (s.modHearth h f).power = s.power := rfl
@[simp] theorem State.modHearth_counts (h : Nat) (f : Hearth → Hearth) : (s.modHearth h f).counts = s.counts := rfl
@[simp] theorem State.modHearth_out (h : Nat) (f : Hearth → Hearth) : (s.modHearth h f).out = s.out := rfl

/-! `modTemper` -/

@[simp] theorem State.modTemper_pending (h : Nat) (f : Temper → Temper) : (s.modTemper h f).pending = s.pending := rfl
@[simp] theorem State.modTemper_tick (h : Nat) (f : Temper → Temper) : (s.modTemper h f).tick = s.tick := rfl
@[simp] theorem State.modTemper_free (h : Nat) (f : Temper → Temper) : (s.modTemper h f).free = s.free := rfl
@[simp] theorem State.modTemper_moduleId (h : Nat) (f : Temper → Temper) : (s.modTemper h f).moduleId = s.moduleId := rfl
@[simp] theorem State.modTemper_idValid (h : Nat) (f : Temper → Temper) : (s.modTemper h f).idValid = s.idValid := rfl
@[simp] theorem State.modTemper_partCfg (h : Nat) (f : Temper → Temper) : (s.modTemper h f).partCfg = s.partCfg := rfl
@[simp] theorem State.modTemper_parts (h : Nat) (f : Temper → Temper) : (s.modTemper h f).parts = s.parts := rfl
@[simp] theorem State.modTemper_hearths (h : Nat) (f : Temper → Temper) : (s.modTemper h f).hearths = s.hearths := rfl
@[simp] theorem State.modTemper_tempers (h : Nat) (f : Temper → Temper) : (s.modTemper h f).tempers = updAt s.tempers h f := rfl
@[simp] theorem State.modTemper_tongs (h : Nat) (f : Temper → Temper) : (s.modTemper h f).tongs = s.tongs := rfl
@[simp] theorem State.modTemper_units (h : Nat) (f : Temper → Temper) : (s.modTemper h f).units = s.units := rfl
@[simp] theorem State.modTemper_mem (h : Nat) (f : Temper → Temper) : (s.modTemper h f).mem = s.mem := rfl
@[simp] theorem State.modTemper_marks (h : Nat) (f : Temper → Temper) : (s.modTemper h f).marks = s.marks := rfl
@[simp] theorem State.modTemper_wmarks (h : Nat) (f : Temper → Temper) : (s.modTemper h f).wmarks = s.wmarks := rfl
@[simp] theorem State.modTemper_observed (h : Nat) (f : Temper → Temper) : (s.modTemper h f).observed = s.observed := rfl
@[simp] theorem State.modTemper_smithOwns (h : Nat) (f : Temper → Temper) : (s.modTemper h f).smithOwns = s.smithOwns := rfl
@[simp] theorem State.modTemper_cipher (h : Nat) (f : Temper → Temper) : (s.modTemper h f).cipher = s.cipher := rfl
@[simp] theorem State.modTemper_sec (h : Nat) (f : Temper → Temper) : (s.modTemper h f).sec = s.sec := rfl
@[simp] theorem State.modTemper_hub (h : Nat) (f : Temper → Temper) : (s.modTemper h f).hub = s.hub := rfl
@[simp] theorem State.modTemper_scrub (h : Nat) (f : Temper → Temper) : (s.modTemper h f).scrub = s.scrub := rfl
@[simp] theorem State.modTemper_streams (h : Nat) (f : Temper → Temper) : (s.modTemper h f).streams = s.streams := rfl
@[simp] theorem State.modTemper_net (h : Nat) (f : Temper → Temper) : (s.modTemper h f).net = s.net := rfl
@[simp] theorem State.modTemper_side (h : Nat) (f : Temper → Temper) : (s.modTemper h f).side = s.side := rfl
@[simp] theorem State.modTemper_power (h : Nat) (f : Temper → Temper) : (s.modTemper h f).power = s.power := rfl
@[simp] theorem State.modTemper_counts (h : Nat) (f : Temper → Temper) : (s.modTemper h f).counts = s.counts := rfl
@[simp] theorem State.modTemper_out (h : Nat) (f : Temper → Temper) : (s.modTemper h f).out = s.out := rfl

/-! `modUnit` -/

@[simp] theorem State.modUnit_pending (u : Nat) (f : UUnit → UUnit) : (s.modUnit u f).pending = s.pending := rfl
@[simp] theorem State.modUnit_tick (u : Nat) (f : UUnit → UUnit) : (s.modUnit u f).tick = s.tick := rfl
@[simp] theorem State.modUnit_free (u : Nat) (f : UUnit → UUnit) : (s.modUnit u f).free = s.free := rfl
@[simp] theorem State.modUnit_moduleId (u : Nat) (f : UUnit → UUnit) : (s.modUnit u f).moduleId = s.moduleId := rfl
@[simp] theorem State.modUnit_idValid (u : Nat) (f : UUnit → UUnit) : (s.modUnit u f).idValid = s.idValid := rfl
@[simp] theorem State.modUnit_partCfg (u : Nat) (f : UUnit → UUnit) : (s.modUnit u f).partCfg = s.partCfg := rfl
@[simp] theorem State.modUnit_parts (u : Nat) (f : UUnit → UUnit) : (s.modUnit u f).parts = s.parts := rfl
@[simp] theorem State.modUnit_hearths (u : Nat) (f : UUnit → UUnit) : (s.modUnit u f).hearths = s.hearths := rfl
@[simp] theorem State.modUnit_tempers (u : Nat) (f : UUnit → UUnit) : (s.modUnit u f).tempers = s.tempers := rfl
@[simp] theorem State.modUnit_tongs (u : Nat) (f : UUnit → UUnit) : (s.modUnit u f).tongs = s.tongs := rfl
@[simp] theorem State.modUnit_units (u : Nat) (f : UUnit → UUnit) : (s.modUnit u f).units = updAt s.units u f := rfl
@[simp] theorem State.modUnit_mem (u : Nat) (f : UUnit → UUnit) : (s.modUnit u f).mem = s.mem := rfl
@[simp] theorem State.modUnit_marks (u : Nat) (f : UUnit → UUnit) : (s.modUnit u f).marks = s.marks := rfl
@[simp] theorem State.modUnit_wmarks (u : Nat) (f : UUnit → UUnit) : (s.modUnit u f).wmarks = s.wmarks := rfl
@[simp] theorem State.modUnit_observed (u : Nat) (f : UUnit → UUnit) : (s.modUnit u f).observed = s.observed := rfl
@[simp] theorem State.modUnit_smithOwns (u : Nat) (f : UUnit → UUnit) : (s.modUnit u f).smithOwns = s.smithOwns := rfl
@[simp] theorem State.modUnit_cipher (u : Nat) (f : UUnit → UUnit) : (s.modUnit u f).cipher = s.cipher := rfl
@[simp] theorem State.modUnit_sec (u : Nat) (f : UUnit → UUnit) : (s.modUnit u f).sec = s.sec := rfl
@[simp] theorem State.modUnit_hub (u : Nat) (f : UUnit → UUnit) : (s.modUnit u f).hub = s.hub := rfl
@[simp] theorem State.modUnit_scrub (u : Nat) (f : UUnit → UUnit) : (s.modUnit u f).scrub = s.scrub := rfl
@[simp] theorem State.modUnit_streams (u : Nat) (f : UUnit → UUnit) : (s.modUnit u f).streams = s.streams := rfl
@[simp] theorem State.modUnit_net (u : Nat) (f : UUnit → UUnit) : (s.modUnit u f).net = s.net := rfl
@[simp] theorem State.modUnit_side (u : Nat) (f : UUnit → UUnit) : (s.modUnit u f).side = s.side := rfl
@[simp] theorem State.modUnit_power (u : Nat) (f : UUnit → UUnit) : (s.modUnit u f).power = s.power := rfl
@[simp] theorem State.modUnit_counts (u : Nat) (f : UUnit → UUnit) : (s.modUnit u f).counts = s.counts := rfl
@[simp] theorem State.modUnit_out (u : Nat) (f : UUnit → UUnit) : (s.modUnit u f).out = s.out := rfl

/-! `modTongs` -/

@[simp] theorem State.modTongs_pending (e : Nat) (f : List TEnt → List TEnt) : (s.modTongs e f).pending = s.pending := rfl
@[simp] theorem State.modTongs_tick (e : Nat) (f : List TEnt → List TEnt) : (s.modTongs e f).tick = s.tick := rfl
@[simp] theorem State.modTongs_free (e : Nat) (f : List TEnt → List TEnt) : (s.modTongs e f).free = s.free := rfl
@[simp] theorem State.modTongs_moduleId (e : Nat) (f : List TEnt → List TEnt) : (s.modTongs e f).moduleId = s.moduleId := rfl
@[simp] theorem State.modTongs_idValid (e : Nat) (f : List TEnt → List TEnt) : (s.modTongs e f).idValid = s.idValid := rfl
@[simp] theorem State.modTongs_partCfg (e : Nat) (f : List TEnt → List TEnt) : (s.modTongs e f).partCfg = s.partCfg := rfl
@[simp] theorem State.modTongs_parts (e : Nat) (f : List TEnt → List TEnt) : (s.modTongs e f).parts = s.parts := rfl
@[simp] theorem State.modTongs_hearths (e : Nat) (f : List TEnt → List TEnt) : (s.modTongs e f).hearths = s.hearths := rfl
@[simp] theorem State.modTongs_tempers (e : Nat) (f : List TEnt → List TEnt) : (s.modTongs e f).tempers = s.tempers := rfl
@[simp] theorem State.modTongs_tongs (e : Nat) (f : List TEnt → List TEnt) : (s.modTongs e f).tongs = updAt s.tongs e f := rfl
@[simp] theorem State.modTongs_units (e : Nat) (f : List TEnt → List TEnt) : (s.modTongs e f).units = s.units := rfl
@[simp] theorem State.modTongs_mem (e : Nat) (f : List TEnt → List TEnt) : (s.modTongs e f).mem = s.mem := rfl
@[simp] theorem State.modTongs_marks (e : Nat) (f : List TEnt → List TEnt) : (s.modTongs e f).marks = s.marks := rfl
@[simp] theorem State.modTongs_wmarks (e : Nat) (f : List TEnt → List TEnt) : (s.modTongs e f).wmarks = s.wmarks := rfl
@[simp] theorem State.modTongs_observed (e : Nat) (f : List TEnt → List TEnt) : (s.modTongs e f).observed = s.observed := rfl
@[simp] theorem State.modTongs_smithOwns (e : Nat) (f : List TEnt → List TEnt) : (s.modTongs e f).smithOwns = s.smithOwns := rfl
@[simp] theorem State.modTongs_cipher (e : Nat) (f : List TEnt → List TEnt) : (s.modTongs e f).cipher = s.cipher := rfl
@[simp] theorem State.modTongs_sec (e : Nat) (f : List TEnt → List TEnt) : (s.modTongs e f).sec = s.sec := rfl
@[simp] theorem State.modTongs_hub (e : Nat) (f : List TEnt → List TEnt) : (s.modTongs e f).hub = s.hub := rfl
@[simp] theorem State.modTongs_scrub (e : Nat) (f : List TEnt → List TEnt) : (s.modTongs e f).scrub = s.scrub := rfl
@[simp] theorem State.modTongs_streams (e : Nat) (f : List TEnt → List TEnt) : (s.modTongs e f).streams = s.streams := rfl
@[simp] theorem State.modTongs_net (e : Nat) (f : List TEnt → List TEnt) : (s.modTongs e f).net = s.net := rfl
@[simp] theorem State.modTongs_side (e : Nat) (f : List TEnt → List TEnt) : (s.modTongs e f).side = s.side := rfl
@[simp] theorem State.modTongs_power (e : Nat) (f : List TEnt → List TEnt) : (s.modTongs e f).power = s.power := rfl
@[simp] theorem State.modTongs_counts (e : Nat) (f : List TEnt → List TEnt) : (s.modTongs e f).counts = s.counts := rfl
@[simp] theorem State.modTongs_out (e : Nat) (f : List TEnt → List TEnt) : (s.modTongs e f).out = s.out := rfl

/-! `modStream` -/

@[simp] theorem State.modStream_pending (k : Nat) (f : TStream → TStream) : (s.modStream k f).pending = s.pending := rfl
@[simp] theorem State.modStream_tick (k : Nat) (f : TStream → TStream) : (s.modStream k f).tick = s.tick := rfl
@[simp] theorem State.modStream_free (k : Nat) (f : TStream → TStream) : (s.modStream k f).free = s.free := rfl
@[simp] theorem State.modStream_moduleId (k : Nat) (f : TStream → TStream) : (s.modStream k f).moduleId = s.moduleId := rfl
@[simp] theorem State.modStream_idValid (k : Nat) (f : TStream → TStream) : (s.modStream k f).idValid = s.idValid := rfl
@[simp] theorem State.modStream_partCfg (k : Nat) (f : TStream → TStream) : (s.modStream k f).partCfg = s.partCfg := rfl
@[simp] theorem State.modStream_parts (k : Nat) (f : TStream → TStream) : (s.modStream k f).parts = s.parts := rfl
@[simp] theorem State.modStream_hearths (k : Nat) (f : TStream → TStream) : (s.modStream k f).hearths = s.hearths := rfl
@[simp] theorem State.modStream_tempers (k : Nat) (f : TStream → TStream) : (s.modStream k f).tempers = s.tempers := rfl
@[simp] theorem State.modStream_tongs (k : Nat) (f : TStream → TStream) : (s.modStream k f).tongs = s.tongs := rfl
@[simp] theorem State.modStream_units (k : Nat) (f : TStream → TStream) : (s.modStream k f).units = s.units := rfl
@[simp] theorem State.modStream_mem (k : Nat) (f : TStream → TStream) : (s.modStream k f).mem = s.mem := rfl
@[simp] theorem State.modStream_marks (k : Nat) (f : TStream → TStream) : (s.modStream k f).marks = s.marks := rfl
@[simp] theorem State.modStream_wmarks (k : Nat) (f : TStream → TStream) : (s.modStream k f).wmarks = s.wmarks := rfl
@[simp] theorem State.modStream_observed (k : Nat) (f : TStream → TStream) : (s.modStream k f).observed = s.observed := rfl
@[simp] theorem State.modStream_smithOwns (k : Nat) (f : TStream → TStream) : (s.modStream k f).smithOwns = s.smithOwns := rfl
@[simp] theorem State.modStream_cipher (k : Nat) (f : TStream → TStream) : (s.modStream k f).cipher = s.cipher := rfl
@[simp] theorem State.modStream_sec (k : Nat) (f : TStream → TStream) : (s.modStream k f).sec = s.sec := rfl
@[simp] theorem State.modStream_hub (k : Nat) (f : TStream → TStream) : (s.modStream k f).hub = s.hub := rfl
@[simp] theorem State.modStream_scrub (k : Nat) (f : TStream → TStream) : (s.modStream k f).scrub = s.scrub := rfl
@[simp] theorem State.modStream_streams (k : Nat) (f : TStream → TStream) : (s.modStream k f).streams = updAt s.streams k f := rfl
@[simp] theorem State.modStream_net (k : Nat) (f : TStream → TStream) : (s.modStream k f).net = s.net := rfl
@[simp] theorem State.modStream_side (k : Nat) (f : TStream → TStream) : (s.modStream k f).side = s.side := rfl
@[simp] theorem State.modStream_power (k : Nat) (f : TStream → TStream) : (s.modStream k f).power = s.power := rfl
@[simp] theorem State.modStream_counts (k : Nat) (f : TStream → TStream) : (s.modStream k f).counts = s.counts := rfl
@[simp] theorem State.modStream_out (k : Nat) (f : TStream → TStream) : (s.modStream k f).out = s.out := rfl

/-! `modCipher` -/

@[simp] theorem State.modCipher_pending (f : Cipher → Cipher) : (s.modCipher f).pending = s.pending := rfl
@[simp] theorem State.modCipher_tick (f : Cipher → Cipher) : (s.modCipher f).tick = s.tick := rfl
@[simp] theorem State.modCipher_free (f : Cipher → Cipher) : (s.modCipher f).free = s.free := rfl
@[simp] theorem State.modCipher_moduleId (f : Cipher → Cipher) : (s.modCipher f).moduleId = s.moduleId := rfl
@[simp] theorem State.modCipher_idValid (f : Cipher → Cipher) : (s.modCipher f).idValid = s.idValid := rfl
@[simp] theorem State.modCipher_partCfg (f : Cipher → Cipher) : (s.modCipher f).partCfg = s.partCfg := rfl
@[simp] theorem State.modCipher_parts (f : Cipher → Cipher) : (s.modCipher f).parts = s.parts := rfl
@[simp] theorem State.modCipher_hearths (f : Cipher → Cipher) : (s.modCipher f).hearths = s.hearths := rfl
@[simp] theorem State.modCipher_tempers (f : Cipher → Cipher) : (s.modCipher f).tempers = s.tempers := rfl
@[simp] theorem State.modCipher_tongs (f : Cipher → Cipher) : (s.modCipher f).tongs = s.tongs := rfl
@[simp] theorem State.modCipher_units (f : Cipher → Cipher) : (s.modCipher f).units = s.units := rfl
@[simp] theorem State.modCipher_mem (f : Cipher → Cipher) : (s.modCipher f).mem = s.mem := rfl
@[simp] theorem State.modCipher_marks (f : Cipher → Cipher) : (s.modCipher f).marks = s.marks := rfl
@[simp] theorem State.modCipher_wmarks (f : Cipher → Cipher) : (s.modCipher f).wmarks = s.wmarks := rfl
@[simp] theorem State.modCipher_observed (f : Cipher → Cipher) : (s.modCipher f).observed = s.observed := rfl
@[simp] theorem State.modCipher_smithOwns (f : Cipher → Cipher) : (s.modCipher f).smithOwns = s.smithOwns := rfl
@[simp] theorem State.modCipher_cipher (f : Cipher → Cipher) : (s.modCipher f).cipher = f s.cipher := rfl
@[simp] theorem State.modCipher_sec (f : Cipher → Cipher) : (s.modCipher f).sec = s.sec := rfl
@[simp] theorem State.modCipher_hub (f : Cipher → Cipher) : (s.modCipher f).hub = s.hub := rfl
@[simp] theorem State.modCipher_scrub (f : Cipher → Cipher) : (s.modCipher f).scrub = s.scrub := rfl
@[simp] theorem State.modCipher_streams (f : Cipher → Cipher) : (s.modCipher f).streams = s.streams := rfl
@[simp] theorem State.modCipher_net (f : Cipher → Cipher) : (s.modCipher f).net = s.net := rfl
@[simp] theorem State.modCipher_side (f : Cipher → Cipher) : (s.modCipher f).side = s.side := rfl
@[simp] theorem State.modCipher_power (f : Cipher → Cipher) : (s.modCipher f).power = s.power := rfl
@[simp] theorem State.modCipher_counts (f : Cipher → Cipher) : (s.modCipher f).counts = s.counts := rfl
@[simp] theorem State.modCipher_out (f : Cipher → Cipher) : (s.modCipher f).out = s.out := rfl

/-! `modSec` -/

@[simp] theorem State.modSec_pending (f : Sec → Sec) : (s.modSec f).pending = s.pending := rfl
@[simp] theorem State.modSec_tick (f : Sec → Sec) : (s.modSec f).tick = s.tick := rfl
@[simp] theorem State.modSec_free (f : Sec → Sec) : (s.modSec f).free = s.free := rfl
@[simp] theorem State.modSec_moduleId (f : Sec → Sec) : (s.modSec f).moduleId = s.moduleId := rfl
@[simp] theorem State.modSec_idValid (f : Sec → Sec) : (s.modSec f).idValid = s.idValid := rfl
@[simp] theorem State.modSec_partCfg (f : Sec → Sec) : (s.modSec f).partCfg = s.partCfg := rfl
@[simp] theorem State.modSec_parts (f : Sec → Sec) : (s.modSec f).parts = s.parts := rfl
@[simp] theorem State.modSec_hearths (f : Sec → Sec) : (s.modSec f).hearths = s.hearths := rfl
@[simp] theorem State.modSec_tempers (f : Sec → Sec) : (s.modSec f).tempers = s.tempers := rfl
@[simp] theorem State.modSec_tongs (f : Sec → Sec) : (s.modSec f).tongs = s.tongs := rfl
@[simp] theorem State.modSec_units (f : Sec → Sec) : (s.modSec f).units = s.units := rfl
@[simp] theorem State.modSec_mem (f : Sec → Sec) : (s.modSec f).mem = s.mem := rfl
@[simp] theorem State.modSec_marks (f : Sec → Sec) : (s.modSec f).marks = s.marks := rfl
@[simp] theorem State.modSec_wmarks (f : Sec → Sec) : (s.modSec f).wmarks = s.wmarks := rfl
@[simp] theorem State.modSec_observed (f : Sec → Sec) : (s.modSec f).observed = s.observed := rfl
@[simp] theorem State.modSec_smithOwns (f : Sec → Sec) : (s.modSec f).smithOwns = s.smithOwns := rfl
@[simp] theorem State.modSec_cipher (f : Sec → Sec) : (s.modSec f).cipher = s.cipher := rfl
@[simp] theorem State.modSec_sec (f : Sec → Sec) : (s.modSec f).sec = f s.sec := rfl
@[simp] theorem State.modSec_hub (f : Sec → Sec) : (s.modSec f).hub = s.hub := rfl
@[simp] theorem State.modSec_scrub (f : Sec → Sec) : (s.modSec f).scrub = s.scrub := rfl
@[simp] theorem State.modSec_streams (f : Sec → Sec) : (s.modSec f).streams = s.streams := rfl
@[simp] theorem State.modSec_net (f : Sec → Sec) : (s.modSec f).net = s.net := rfl
@[simp] theorem State.modSec_side (f : Sec → Sec) : (s.modSec f).side = s.side := rfl
@[simp] theorem State.modSec_power (f : Sec → Sec) : (s.modSec f).power = s.power := rfl
@[simp] theorem State.modSec_counts (f : Sec → Sec) : (s.modSec f).counts = s.counts := rfl
@[simp] theorem State.modSec_out (f : Sec → Sec) : (s.modSec f).out = s.out := rfl

/-! `modHub` -/

@[simp] theorem State.modHub_pending (f : Hub → Hub) : (s.modHub f).pending = s.pending := rfl
@[simp] theorem State.modHub_tick (f : Hub → Hub) : (s.modHub f).tick = s.tick := rfl
@[simp] theorem State.modHub_free (f : Hub → Hub) : (s.modHub f).free = s.free := rfl
@[simp] theorem State.modHub_moduleId (f : Hub → Hub) : (s.modHub f).moduleId = s.moduleId := rfl
@[simp] theorem State.modHub_idValid (f : Hub → Hub) : (s.modHub f).idValid = s.idValid := rfl
@[simp] theorem State.modHub_partCfg (f : Hub → Hub) : (s.modHub f).partCfg = s.partCfg := rfl
@[simp] theorem State.modHub_parts (f : Hub → Hub) : (s.modHub f).parts = s.parts := rfl
@[simp] theorem State.modHub_hearths (f : Hub → Hub) : (s.modHub f).hearths = s.hearths := rfl
@[simp] theorem State.modHub_tempers (f : Hub → Hub) : (s.modHub f).tempers = s.tempers := rfl
@[simp] theorem State.modHub_tongs (f : Hub → Hub) : (s.modHub f).tongs = s.tongs := rfl
@[simp] theorem State.modHub_units (f : Hub → Hub) : (s.modHub f).units = s.units := rfl
@[simp] theorem State.modHub_mem (f : Hub → Hub) : (s.modHub f).mem = s.mem := rfl
@[simp] theorem State.modHub_marks (f : Hub → Hub) : (s.modHub f).marks = s.marks := rfl
@[simp] theorem State.modHub_wmarks (f : Hub → Hub) : (s.modHub f).wmarks = s.wmarks := rfl
@[simp] theorem State.modHub_observed (f : Hub → Hub) : (s.modHub f).observed = s.observed := rfl
@[simp] theorem State.modHub_smithOwns (f : Hub → Hub) : (s.modHub f).smithOwns = s.smithOwns := rfl
@[simp] theorem State.modHub_cipher (f : Hub → Hub) : (s.modHub f).cipher = s.cipher := rfl
@[simp] theorem State.modHub_sec (f : Hub → Hub) : (s.modHub f).sec = s.sec := rfl
@[simp] theorem State.modHub_hub (f : Hub → Hub) : (s.modHub f).hub = f s.hub := rfl
@[simp] theorem State.modHub_scrub (f : Hub → Hub) : (s.modHub f).scrub = s.scrub := rfl
@[simp] theorem State.modHub_streams (f : Hub → Hub) : (s.modHub f).streams = s.streams := rfl
@[simp] theorem State.modHub_net (f : Hub → Hub) : (s.modHub f).net = s.net := rfl
@[simp] theorem State.modHub_side (f : Hub → Hub) : (s.modHub f).side = s.side := rfl
@[simp] theorem State.modHub_power (f : Hub → Hub) : (s.modHub f).power = s.power := rfl
@[simp] theorem State.modHub_counts (f : Hub → Hub) : (s.modHub f).counts = s.counts := rfl
@[simp] theorem State.modHub_out (f : Hub → Hub) : (s.modHub f).out = s.out := rfl

/-! `modScrub` -/

@[simp] theorem State.modScrub_pending (f : Scrub → Scrub) : (s.modScrub f).pending = s.pending := rfl
@[simp] theorem State.modScrub_tick (f : Scrub → Scrub) : (s.modScrub f).tick = s.tick := rfl
@[simp] theorem State.modScrub_free (f : Scrub → Scrub) : (s.modScrub f).free = s.free := rfl
@[simp] theorem State.modScrub_moduleId (f : Scrub → Scrub) : (s.modScrub f).moduleId = s.moduleId := rfl
@[simp] theorem State.modScrub_idValid (f : Scrub → Scrub) : (s.modScrub f).idValid = s.idValid := rfl
@[simp] theorem State.modScrub_partCfg (f : Scrub → Scrub) : (s.modScrub f).partCfg = s.partCfg := rfl
@[simp] theorem State.modScrub_parts (f : Scrub → Scrub) : (s.modScrub f).parts = s.parts := rfl
@[simp] theorem State.modScrub_hearths (f : Scrub → Scrub) : (s.modScrub f).hearths = s.hearths := rfl
@[simp] theorem State.modScrub_tempers (f : Scrub → Scrub) : (s.modScrub f).tempers = s.tempers := rfl
@[simp] theorem State.modScrub_tongs (f : Scrub → Scrub) : (s.modScrub f).tongs = s.tongs := rfl
@[simp] theorem State.modScrub_units (f : Scrub → Scrub) : (s.modScrub f).units = s.units := rfl
@[simp] theorem State.modScrub_mem (f : Scrub → Scrub) : (s.modScrub f).mem = s.mem := rfl
@[simp] theorem State.modScrub_marks (f : Scrub → Scrub) : (s.modScrub f).marks = s.marks := rfl
@[simp] theorem State.modScrub_wmarks (f : Scrub → Scrub) : (s.modScrub f).wmarks = s.wmarks := rfl
@[simp] theorem State.modScrub_observed (f : Scrub → Scrub) : (s.modScrub f).observed = s.observed := rfl
@[simp] theorem State.modScrub_smithOwns (f : Scrub → Scrub) : (s.modScrub f).smithOwns = s.smithOwns := rfl
@[simp] theorem State.modScrub_cipher (f : Scrub → Scrub) : (s.modScrub f).cipher = s.cipher := rfl
@[simp] theorem State.modScrub_sec (f : Scrub → Scrub) : (s.modScrub f).sec = s.sec := rfl
@[simp] theorem State.modScrub_hub (f : Scrub → Scrub) : (s.modScrub f).hub = s.hub := rfl
@[simp] theorem State.modScrub_scrub (f : Scrub → Scrub) : (s.modScrub f).scrub = f s.scrub := rfl
@[simp] theorem State.modScrub_streams (f : Scrub → Scrub) : (s.modScrub f).streams = s.streams := rfl
@[simp] theorem State.modScrub_net (f : Scrub → Scrub) : (s.modScrub f).net = s.net := rfl
@[simp] theorem State.modScrub_side (f : Scrub → Scrub) : (s.modScrub f).side = s.side := rfl
@[simp] theorem State.modScrub_power (f : Scrub → Scrub) : (s.modScrub f).power = s.power := rfl
@[simp] theorem State.modScrub_counts (f : Scrub → Scrub) : (s.modScrub f).counts = s.counts := rfl
@[simp] theorem State.modScrub_out (f : Scrub → Scrub) : (s.modScrub f).out = s.out := rfl

/-! `modNet` -/

@[simp] theorem State.modNet_pending (f : Net → Net) : (s.modNet f).pending = s.pending := rfl
@[simp] theorem State.modNet_tick (f : Net → Net) : (s.modNet f).tick = s.tick := rfl
@[simp] theorem State.modNet_free (f : Net → Net) : (s.modNet f).free = s.free := rfl
@[simp] theorem State.modNet_moduleId (f : Net → Net) : (s.modNet f).moduleId = s.moduleId := rfl
@[simp] theorem State.modNet_idValid (f : Net → Net) : (s.modNet f).idValid = s.idValid := rfl
@[simp] theorem State.modNet_partCfg (f : Net → Net) : (s.modNet f).partCfg = s.partCfg := rfl
@[simp] theorem State.modNet_parts (f : Net → Net) : (s.modNet f).parts = s.parts := rfl
@[simp] theorem State.modNet_hearths (f : Net → Net) : (s.modNet f).hearths = s.hearths := rfl
@[simp] theorem State.modNet_tempers (f : Net → Net) : (s.modNet f).tempers = s.tempers := rfl
@[simp] theorem State.modNet_tongs (f : Net → Net) : (s.modNet f).tongs = s.tongs := rfl
@[simp] theorem State.modNet_units (f : Net → Net) : (s.modNet f).units = s.units := rfl
@[simp] theorem State.modNet_mem (f : Net → Net) : (s.modNet f).mem = s.mem := rfl
@[simp] theorem State.modNet_marks (f : Net → Net) : (s.modNet f).marks = s.marks := rfl
@[simp] theorem State.modNet_wmarks (f : Net → Net) : (s.modNet f).wmarks = s.wmarks := rfl
@[simp] theorem State.modNet_observed (f : Net → Net) : (s.modNet f).observed = s.observed := rfl
@[simp] theorem State.modNet_smithOwns (f : Net → Net) : (s.modNet f).smithOwns = s.smithOwns := rfl
@[simp] theorem State.modNet_cipher (f : Net → Net) : (s.modNet f).cipher = s.cipher := rfl
@[simp] theorem State.modNet_sec (f : Net → Net) : (s.modNet f).sec = s.sec := rfl
@[simp] theorem State.modNet_hub (f : Net → Net) : (s.modNet f).hub = s.hub := rfl
@[simp] theorem State.modNet_scrub (f : Net → Net) : (s.modNet f).scrub = s.scrub := rfl
@[simp] theorem State.modNet_streams (f : Net → Net) : (s.modNet f).streams = s.streams := rfl
@[simp] theorem State.modNet_net (f : Net → Net) : (s.modNet f).net = f s.net := rfl
@[simp] theorem State.modNet_side (f : Net → Net) : (s.modNet f).side = s.side := rfl
@[simp] theorem State.modNet_power (f : Net → Net) : (s.modNet f).power = s.power := rfl
@[simp] theorem State.modNet_counts (f : Net → Net) : (s.modNet f).counts = s.counts := rfl
@[simp] theorem State.modNet_out (f : Net → Net) : (s.modNet f).out = s.out := rfl

/-! `modSide` -/

@[simp] theorem State.modSide_pending (f : Side → Side) : (s.modSide f).pending = s.pending := rfl
@[simp] theorem State.modSide_tick (f : Side → Side) : (s.modSide f).tick = s.tick := rfl
@[simp] theorem State.modSide_free (f : Side → Side) : (s.modSide f).free = s.free := rfl
@[simp] theorem State.modSide_moduleId (f : Side → Side) : (s.modSide f).moduleId = s.moduleId := rfl
@[simp] theorem State.modSide_idValid (f : Side → Side) : (s.modSide f).idValid = s.idValid := rfl
@[simp] theorem State.modSide_partCfg (f : Side → Side) : (s.modSide f).partCfg = s.partCfg := rfl
@[simp] theorem State.modSide_parts (f : Side → Side) : (s.modSide f).parts = s.parts := rfl
@[simp] theorem State.modSide_hearths (f : Side → Side) : (s.modSide f).hearths = s.hearths := rfl
@[simp] theorem State.modSide_tempers (f : Side → Side) : (s.modSide f).tempers = s.tempers := rfl
@[simp] theorem State.modSide_tongs (f : Side → Side) : (s.modSide f).tongs = s.tongs := rfl
@[simp] theorem State.modSide_units (f : Side → Side) : (s.modSide f).units = s.units := rfl
@[simp] theorem State.modSide_mem (f : Side → Side) : (s.modSide f).mem = s.mem := rfl
@[simp] theorem State.modSide_marks (f : Side → Side) : (s.modSide f).marks = s.marks := rfl
@[simp] theorem State.modSide_wmarks (f : Side → Side) : (s.modSide f).wmarks = s.wmarks := rfl
@[simp] theorem State.modSide_observed (f : Side → Side) : (s.modSide f).observed = s.observed := rfl
@[simp] theorem State.modSide_smithOwns (f : Side → Side) : (s.modSide f).smithOwns = s.smithOwns := rfl
@[simp] theorem State.modSide_cipher (f : Side → Side) : (s.modSide f).cipher = s.cipher := rfl
@[simp] theorem State.modSide_sec (f : Side → Side) : (s.modSide f).sec = s.sec := rfl
@[simp] theorem State.modSide_hub (f : Side → Side) : (s.modSide f).hub = s.hub := rfl
@[simp] theorem State.modSide_scrub (f : Side → Side) : (s.modSide f).scrub = s.scrub := rfl
@[simp] theorem State.modSide_streams (f : Side → Side) : (s.modSide f).streams = s.streams := rfl
@[simp] theorem State.modSide_net (f : Side → Side) : (s.modSide f).net = s.net := rfl
@[simp] theorem State.modSide_side (f : Side → Side) : (s.modSide f).side = f s.side := rfl
@[simp] theorem State.modSide_power (f : Side → Side) : (s.modSide f).power = s.power := rfl
@[simp] theorem State.modSide_counts (f : Side → Side) : (s.modSide f).counts = s.counts := rfl
@[simp] theorem State.modSide_out (f : Side → Side) : (s.modSide f).out = s.out := rfl

/-! `modPower` -/

@[simp] theorem State.modPower_pending (f : Power → Power) : (s.modPower f).pending = s.pending := rfl
@[simp] theorem State.modPower_tick (f : Power → Power) : (s.modPower f).tick = s.tick := rfl
@[simp] theorem State.modPower_free (f : Power → Power) : (s.modPower f).free = s.free := rfl
@[simp] theorem State.modPower_moduleId (f : Power → Power) : (s.modPower f).moduleId = s.moduleId := rfl
@[simp] theorem State.modPower_idValid (f : Power → Power) : (s.modPower f).idValid = s.idValid := rfl
@[simp] theorem State.modPower_partCfg (f : Power → Power) : (s.modPower f).partCfg = s.partCfg := rfl
@[simp] theorem State.modPower_parts (f : Power → Power) : (s.modPower f).parts = s.parts := rfl
@[simp] theorem State.modPower_hearths (f : Power → Power) : (s.modPower f).hearths = s.hearths := rfl
@[simp] theorem State.modPower_tempers (f : Power → Power) : (s.modPower f).tempers = s.tempers := rfl
@[simp] theorem State.modPower_tongs (f : Power → Power) : (s.modPower f).tongs = s.tongs := rfl
@[simp] theorem State.modPower_units (f : Power → Power) : (s.modPower f).units = s.units := rfl
@[simp] theorem State.modPower_mem (f : Power → Power) : (s.modPower f).mem = s.mem := rfl
@[simp] theorem State.modPower_marks (f : Power → Power) : (s.modPower f).marks = s.marks := rfl
@[simp] theorem State.modPower_wmarks (f : Power → Power) : (s.modPower f).wmarks = s.wmarks := rfl
@[simp] theorem State.modPower_observed (f : Power → Power) : (s.modPower f).observed = s.observed := rfl
@[simp] theorem State.modPower_smithOwns (f : Power → Power) : (s.modPower f).smithOwns = s.smithOwns := rfl
@[simp] theorem State.modPower_cipher (f : Power → Power) : (s.modPower f).cipher = s.cipher := rfl
@[simp] theorem State.modPower_sec (f : Power → Power) : (s.modPower f).sec = s.sec := rfl
@[simp] theorem State.modPower_hub (f : Power → Power) : (s.modPower f).hub = s.hub := rfl
@[simp] theorem State.modPower_scrub (f : Power → Power) : (s.modPower f).scrub = s.scrub := rfl
@[simp] theorem State.modPower_streams (f : Power → Power) : (s.modPower f).streams = s.streams := rfl
@[simp] theorem State.modPower_net (f : Power → Power) : (s.modPower f).net = s.net := rfl
@[simp] theorem State.modPower_side (f : Power → Power) : (s.modPower f).side = s.side := rfl
@[simp] theorem State.modPower_power (f : Power → Power) : (s.modPower f).power = f s.power := rfl
@[simp] theorem State.modPower_counts (f : Power → Power) : (s.modPower f).counts = s.counts := rfl
@[simp] theorem State.modPower_out (f : Power → Power) : (s.modPower f).out = s.out := rfl

/-! `emit` -/

@[simp] theorem State.emit_pending (o : Out) : (s.emit o).pending = s.pending := rfl
@[simp] theorem State.emit_tick (o : Out) : (s.emit o).tick = s.tick := rfl
@[simp] theorem State.emit_free (o : Out) : (s.emit o).free = s.free := rfl
@[simp] theorem State.emit_moduleId (o : Out) : (s.emit o).moduleId = s.moduleId := rfl
@[simp] theorem State.emit_idValid (o : Out) : (s.emit o).idValid = s.idValid := rfl
@[simp] theorem State.emit_partCfg (o : Out) : (s.emit o).partCfg = s.partCfg := rfl
@[simp] theorem State.emit_parts (o : Out) : (s.emit o).parts = s.parts := rfl
@[simp] theorem State.emit_hearths (o : Out) : (s.emit o).hearths = s.hearths := rfl
@[simp] theorem State.emit_tempers (o : Out) : (s.emit o).tempers = s.tempers := rfl
@[simp] theorem State.emit_tongs (o : Out) : (s.emit o).tongs = s.tongs := rfl
@[simp] theorem State.emit_units (o : Out) : (s.emit o).units = s.units := rfl
@[simp] theorem State.emit_mem (o : Out) : (s.emit o).mem = s.mem := rfl
@[simp] theorem State.emit_marks (o : Out) : (s.emit o).marks = s.marks := rfl
@[simp] theorem State.emit_wmarks (o : Out) : (s.emit o).wmarks = s.wmarks := rfl
@[simp] theorem State.emit_observed (o : Out) : (s.emit o).observed = s.observed := rfl
@[simp] theorem State.emit_smithOwns (o : Out) : (s.emit o).smithOwns = s.smithOwns := rfl
@[simp] theorem State.emit_cipher (o : Out) : (s.emit o).cipher = s.cipher := rfl
@[simp] theorem State.emit_sec (o : Out) : (s.emit o).sec = s.sec := rfl
@[simp] theorem State.emit_hub (o : Out) : (s.emit o).hub = s.hub := rfl
@[simp] theorem State.emit_scrub (o : Out) : (s.emit o).scrub = s.scrub := rfl
@[simp] theorem State.emit_streams (o : Out) : (s.emit o).streams = s.streams := rfl
@[simp] theorem State.emit_net (o : Out) : (s.emit o).net = s.net := rfl
@[simp] theorem State.emit_side (o : Out) : (s.emit o).side = s.side := rfl
@[simp] theorem State.emit_power (o : Out) : (s.emit o).power = s.power := rfl
@[simp] theorem State.emit_counts (o : Out) : (s.emit o).counts = s.counts := rfl
@[simp] theorem State.emit_out (o : Out) : (s.emit o).out = s.out ++ [o] := rfl

/-! `count` -/

@[simp] theorem State.count_pending (c : Ctr) : (s.count c).pending = s.pending := rfl
@[simp] theorem State.count_tick (c : Ctr) : (s.count c).tick = s.tick := rfl
@[simp] theorem State.count_free (c : Ctr) : (s.count c).free = s.free := rfl
@[simp] theorem State.count_moduleId (c : Ctr) : (s.count c).moduleId = s.moduleId := rfl
@[simp] theorem State.count_idValid (c : Ctr) : (s.count c).idValid = s.idValid := rfl
@[simp] theorem State.count_partCfg (c : Ctr) : (s.count c).partCfg = s.partCfg := rfl
@[simp] theorem State.count_parts (c : Ctr) : (s.count c).parts = s.parts := rfl
@[simp] theorem State.count_hearths (c : Ctr) : (s.count c).hearths = s.hearths := rfl
@[simp] theorem State.count_tempers (c : Ctr) : (s.count c).tempers = s.tempers := rfl
@[simp] theorem State.count_tongs (c : Ctr) : (s.count c).tongs = s.tongs := rfl
@[simp] theorem State.count_units (c : Ctr) : (s.count c).units = s.units := rfl
@[simp] theorem State.count_mem (c : Ctr) : (s.count c).mem = s.mem := rfl
@[simp] theorem State.count_marks (c : Ctr) : (s.count c).marks = s.marks := rfl
@[simp] theorem State.count_wmarks (c : Ctr) : (s.count c).wmarks = s.wmarks := rfl
@[simp] theorem State.count_observed (c : Ctr) : (s.count c).observed = s.observed := rfl
@[simp] theorem State.count_smithOwns (c : Ctr) : (s.count c).smithOwns = s.smithOwns := rfl
@[simp] theorem State.count_cipher (c : Ctr) : (s.count c).cipher = s.cipher := rfl
@[simp] theorem State.count_sec (c : Ctr) : (s.count c).sec = s.sec := rfl
@[simp] theorem State.count_hub (c : Ctr) : (s.count c).hub = s.hub := rfl
@[simp] theorem State.count_scrub (c : Ctr) : (s.count c).scrub = s.scrub := rfl
@[simp] theorem State.count_streams (c : Ctr) : (s.count c).streams = s.streams := rfl
@[simp] theorem State.count_net (c : Ctr) : (s.count c).net = s.net := rfl
@[simp] theorem State.count_side (c : Ctr) : (s.count c).side = s.side := rfl
@[simp] theorem State.count_power (c : Ctr) : (s.count c).power = s.power := rfl
@[simp] theorem State.count_counts (c : Ctr) : (s.count c).counts = ctrUp c s.counts := rfl
@[simp] theorem State.count_out (c : Ctr) : (s.count c).out = s.out := rfl

/-! `raise` -/

@[simp] theorem State.raise_pending (r : FaultRec) : (s.raise r).pending = s.pending := rfl
@[simp] theorem State.raise_tick (r : FaultRec) : (s.raise r).tick = s.tick := rfl
@[simp] theorem State.raise_free (r : FaultRec) : (s.raise r).free = s.free := rfl
@[simp] theorem State.raise_moduleId (r : FaultRec) : (s.raise r).moduleId = s.moduleId := rfl
@[simp] theorem State.raise_idValid (r : FaultRec) : (s.raise r).idValid = s.idValid := rfl
@[simp] theorem State.raise_partCfg (r : FaultRec) : (s.raise r).partCfg = s.partCfg := rfl
@[simp] theorem State.raise_parts (r : FaultRec) : (s.raise r).parts = s.parts := rfl
@[simp] theorem State.raise_hearths (r : FaultRec) : (s.raise r).hearths = s.hearths := rfl
@[simp] theorem State.raise_tempers (r : FaultRec) : (s.raise r).tempers = s.tempers := rfl
@[simp] theorem State.raise_tongs (r : FaultRec) : (s.raise r).tongs = s.tongs := rfl
@[simp] theorem State.raise_units (r : FaultRec) : (s.raise r).units = s.units := rfl
@[simp] theorem State.raise_mem (r : FaultRec) : (s.raise r).mem = s.mem := rfl
@[simp] theorem State.raise_marks (r : FaultRec) : (s.raise r).marks = s.marks := rfl
@[simp] theorem State.raise_wmarks (r : FaultRec) : (s.raise r).wmarks = s.wmarks := rfl
@[simp] theorem State.raise_observed (r : FaultRec) : (s.raise r).observed = s.observed := rfl
@[simp] theorem State.raise_smithOwns (r : FaultRec) : (s.raise r).smithOwns = s.smithOwns := rfl
@[simp] theorem State.raise_cipher (r : FaultRec) : (s.raise r).cipher = s.cipher := rfl
@[simp] theorem State.raise_sec (r : FaultRec) : (s.raise r).sec = s.sec := rfl
@[simp] theorem State.raise_hub (r : FaultRec) : (s.raise r).hub = { s.hub with arriving := s.hub.arriving ++ [s.stamp r] } := rfl
@[simp] theorem State.raise_scrub (r : FaultRec) : (s.raise r).scrub = s.scrub := rfl
@[simp] theorem State.raise_streams (r : FaultRec) : (s.raise r).streams = s.streams := rfl
@[simp] theorem State.raise_net (r : FaultRec) : (s.raise r).net = s.net := rfl
@[simp] theorem State.raise_side (r : FaultRec) : (s.raise r).side = s.side := rfl
@[simp] theorem State.raise_power (r : FaultRec) : (s.raise r).power = s.power := rfl
@[simp] theorem State.raise_counts (r : FaultRec) : (s.raise r).counts = s.counts := rfl
@[simp] theorem State.raise_out (r : FaultRec) : (s.raise r).out = s.out := rfl

/-! `put4` -/

@[simp] theorem State.put4_pending (off : Nat) (bs : List Byte) : (s.put4 off bs).pending = s.pending := rfl
@[simp] theorem State.put4_tick (off : Nat) (bs : List Byte) : (s.put4 off bs).tick = s.tick := rfl
@[simp] theorem State.put4_free (off : Nat) (bs : List Byte) : (s.put4 off bs).free = s.free := rfl
@[simp] theorem State.put4_moduleId (off : Nat) (bs : List Byte) : (s.put4 off bs).moduleId = s.moduleId := rfl
@[simp] theorem State.put4_idValid (off : Nat) (bs : List Byte) : (s.put4 off bs).idValid = s.idValid := rfl
@[simp] theorem State.put4_partCfg (off : Nat) (bs : List Byte) : (s.put4 off bs).partCfg = s.partCfg := rfl
@[simp] theorem State.put4_parts (off : Nat) (bs : List Byte) : (s.put4 off bs).parts = s.parts := rfl
@[simp] theorem State.put4_hearths (off : Nat) (bs : List Byte) : (s.put4 off bs).hearths = s.hearths := rfl
@[simp] theorem State.put4_tempers (off : Nat) (bs : List Byte) : (s.put4 off bs).tempers = s.tempers := rfl
@[simp] theorem State.put4_tongs (off : Nat) (bs : List Byte) : (s.put4 off bs).tongs = s.tongs := rfl
@[simp] theorem State.put4_units (off : Nat) (bs : List Byte) : (s.put4 off bs).units = s.units := rfl
@[simp] theorem State.put4_mem (off : Nat) (bs : List Byte) : (s.put4 off bs).mem = Memory.writeBytes s.mem (localAddr 4 off) bs := rfl
@[simp] theorem State.put4_marks (off : Nat) (bs : List Byte) : (s.put4 off bs).marks = s.marks := rfl
@[simp] theorem State.put4_wmarks (off : Nat) (bs : List Byte) : (s.put4 off bs).wmarks = s.wmarks := rfl
@[simp] theorem State.put4_observed (off : Nat) (bs : List Byte) : (s.put4 off bs).observed = s.observed := rfl
@[simp] theorem State.put4_smithOwns (off : Nat) (bs : List Byte) : (s.put4 off bs).smithOwns = s.smithOwns := rfl
@[simp] theorem State.put4_cipher (off : Nat) (bs : List Byte) : (s.put4 off bs).cipher = s.cipher := rfl
@[simp] theorem State.put4_sec (off : Nat) (bs : List Byte) : (s.put4 off bs).sec = s.sec := rfl
@[simp] theorem State.put4_hub (off : Nat) (bs : List Byte) : (s.put4 off bs).hub = s.hub := rfl
@[simp] theorem State.put4_scrub (off : Nat) (bs : List Byte) : (s.put4 off bs).scrub = s.scrub := rfl
@[simp] theorem State.put4_streams (off : Nat) (bs : List Byte) : (s.put4 off bs).streams = s.streams := rfl
@[simp] theorem State.put4_net (off : Nat) (bs : List Byte) : (s.put4 off bs).net = s.net := rfl
@[simp] theorem State.put4_side (off : Nat) (bs : List Byte) : (s.put4 off bs).side = s.side := rfl
@[simp] theorem State.put4_power (off : Nat) (bs : List Byte) : (s.put4 off bs).power = s.power := rfl
@[simp] theorem State.put4_counts (off : Nat) (bs : List Byte) : (s.put4 off bs).counts = s.counts := rfl
@[simp] theorem State.put4_out (off : Nat) (bs : List Byte) : (s.put4 off bs).out = s.out := rfl

end Sys2Proof.Machine
end

