-- ==== Sys2Proof/Tests/Slice0.lean ====
section
/-! SUPPORT. Tests: ill-formed commands are refused, published check values hold, and every statement that has hypotheses has a witness that meets
them. The expected values come from the manual's tables or from the standards that a test names. -/

set_option maxRecDepth 100000
set_option Elab.async false
set_option linter.unusedVariables false

namespace Sys2Proof.Machine.Tests

/-! ## States for the witnesses -/

/-- A posted mailbox: opcode, target, arguments (in the bulk buffer where they do not fit), observed by the smith. -/
def box (s : State) (m op target len : Nat) (args : List Byte) : State :=
  let bulk := 4032 < len
  let h := pack [(16, target), (16, op), (8, 1), (8, 0), (16, len), (16, 0), (1, b01 bulk), (319, 1)]
  let s := s.put4 (mbxBase m) (leBytes 64 h)
  { s.put4 (if bulk then bulkBase m else mbxBase m + 0x40) args with observed := [m], smithOwns := [m] }

/-- A posted device command. -/
def dev (s : State) (op len : Nat) (args : List Byte) : State := box s 0 op 0 len args

/-- A posted command of partition 0. -/
def par (s : State) (op len : Nat) (args : List Byte) : State := box s 4 op 0x6000 len args

/-! ## Mailbox commands -/

/-- A queue pair connected for each owner, and host targets 0 (the device's) and 1 (partition 0's) of 2^30 bytes. -/
def hosts (s : State) : State := s.modNet fun n => { n with
  qps := updAt (updAt n.qps 0 fun _ => { st := 1, dev := true }) 1 fun _ => { st := 1 }
  targets := updAt (updAt n.targets 0 fun _ => pack [(40, 2 ^ 30), (6, 0), (2, 0), (1, 1), (111, 0)]) 1 fun _ => pack [(40, 2 ^ 30), (6, 1), (2, 0), (1, 0), (111, 0)] }

theorem test_box : (dev .reset 0x101 0 []).own 0 = 1 ∧ mhOpcode ((dev .reset 0x101 0 []).mbxHdr 0) = 0x101 ∧ mhVer ((dev .reset 0x101 0 []).mbxHdr 0) = 1 := by decide +kernel

/-- Witness of CompletionWritesMailbox at its bounds, inline and in the bulk buffer. -/
theorem test_wit_completion : (63 < 64 ∧ 255 < 256 ∧ 65535 < 65536) ∧ (List.replicate 4032 1#8).length ≤ 16384 ∧ ¬4032 < (List.replicate 4032 1#8).length ∧
    (List.replicate 16384 1#8).length ≤ 16384 ∧ 4032 < (List.replicate 16384 1#8).length := by simp only [List.length_replicate]; decide

/-- Witnesses of CommandChecksInOrder, one for each check. -/
theorem test_wit_checks_let : (State.reset.own 0 ≠ 1 ∨ 0 ∉ State.reset.observed) ∧ (dev .reset 0x103 32 []).atHead 0 = true ∧
    mhOpcode ((dev .reset 0x103 32 []).mbxHdr 0) = cmdPartCreate.op ∧ (dev .reset 0x103 32 []).mbxMarked 0 = false := by decide +kernel
theorem test_wit_checks_mark : let s : State := { dev .reset 0x103 32 [] with marks := [localAddr 4 0 / 64] }
    s.atHead 0 = true ∧ mhOpcode (s.mbxHdr 0) = cmdPartCreate.op ∧ s.mbxMarked 0 = true := by decide +kernel
theorem test_wit_checks_limited : let s : State := (dev .reset 0x103 32 []).modSec fun x => { x with verdict := [1, 1, 1] }
    s.atHead 0 = true ∧ mhOpcode (s.mbxHdr 0) = cmdPartCreate.op ∧ s.mbxMarked 0 = false ∧ (s.sec.limited && !cmdPartCreate.limited) = true := by decide +kernel
theorem test_wit_checks_version : let s : State := (dev .reset 0x103 32 []).put4 45 [2#8]
    s.atHead 0 = true ∧ mhOpcode (s.mbxHdr 0) = cmdPartCreate.op ∧ s.mbxMarked 0 = false ∧ (s.sec.limited && !cmdPartCreate.limited) = false ∧ mhVer (s.mbxHdr 0) = 2 := by decide +kernel
theorem test_wit_checks_scope : let s : State := box .reset 0 0x103 0xFFFF 32 []
    s.atHead 0 = true ∧ mhOpcode (s.mbxHdr 0) = cmdPartCreate.op ∧ s.mbxMarked 0 = false ∧ mhVer (s.mbxHdr 0) = 1 ∧ s.scopeOk 0 cmdPartCreate = false := by decide +kernel
theorem test_wit_checks_name : let s : State := par .reset 0x504 2 (leBytes 2 512)
    s.atHead 4 = true ∧ mhOpcode (s.mbxHdr 4) = cmdKeyOffer.op ∧ s.mbxMarked 4 = false ∧ mhVer (s.mbxHdr 4) = 1 ∧ s.scopeOk 4 cmdKeyOffer = true ∧
    slotScope false s (s.mbxFor 4) (s.mbxArgs 4) = some 0 := by decide +kernel
theorem test_wit_checks_denied : let s : State := (dev .reset 0x103 32 []).modSec fun x => { x with life := .retired }
    s.atHead 0 = true ∧ mhVer (s.mbxHdr 0) = 1 ∧ s.scopeOk 0 cmdPartCreate = true ∧ s.sec.forbids cmdPartCreate.op = true := by decide +kernel
theorem test_wit_checks_header : let s : State := dev .reset 0x103 31 []
    s.atHead 0 = true ∧ mhVer (s.mbxHdr 0) = 1 ∧ s.scopeOk 0 cmdPartCreate = true ∧ s.sec.forbids cmdPartCreate.op = false ∧ hdrOk (s.mbxHdr 0) cmdPartCreate = false := by decide +kernel
theorem test_wit_checks_zeros : let s : State := dev .reset 0x301 16 [0#8, 1#8]
    s.atHead 0 = true ∧ s.scopeOk 0 cmdPortConfig = true ∧ hdrOk (s.mbxHdr 0) cmdPortConfig = true ∧ zerosOk cmdPortConfig.zeros (s.mbxArgs 0) = false := by decide +kernel

/-! Witnesses of DeviceCommandsComplete, a clause each, with operands at a bound. -/
theorem test_wit_unitQuery : (dev .reset 0x101 0 []).takes 0 cmdUnitQuery ∧ (par .reset 0x101 0 []).takes 4 cmdUnitQuery := by unfold State.takes; decide +kernel
theorem test_wit_idAssign : let s := dev .reset 0x102 4 (leBytes 4 (2 ^ 20 - 1)); s.takes 0 cmdIdAssign ∧ s.arg 0 0 4 = 2 ^ 20 - 1 ∧ s.allFree = true := by
  unfold State.takes; decide +kernel
theorem test_wit_partCreate : let s := dev .reset 0x103 32 (leBytes 32 (2 * 2 ^ 254))
    s.takes 0 cmdPartCreate ∧ partCfgBad (s.arg 0 0 32) = none ∧ ∀ q ∈ s.parts.take s.nparts, q.st = .ready := by unfold State.takes; decide +kernel
theorem test_wit_scrubConfig : let s := dev .reset 0x104 4 (leBytes 4 (720 * 2 ^ 22 + 1 * 2 ^ 12)); s.takes 0 cmdScrubConfig ∧ bits (s.arg 0 0 4) 9 0 = 0 ∧
    1 ≤ bits (s.arg 0 0 4) 21 12 ∧ bits (s.arg 0 0 4) 31 22 ≤ 720 := by unfold State.takes; decide +kernel
theorem test_wit_portConfig : let s := dev .reset 0x301 16 (leBytes 8 7 ++ leBytes 8 (pack [(2, 0), (2, 0), (1, 0), (1, 0), (5, 8), (5, 4), (5, 4), (43, 0)])); s.takes 0 cmdPortConfig ∧
    s.arg 0 0 1 = 7 ∧ portCfgBad (s.arg 0 8 8) = none ∧ (s.part (portPart s.nparts (s.arg 0 0 1))).st = .ready := by unfold State.takes; decide +kernel
theorem test_wit_hostTarget : let s := dev .reset 0x302 40 (leBytes 8 255 ++ leBytes 32 (pack [(64, 4096), (32, 1), (40, 65536), (6, 1), (2, 0), (1, 1), (111, 0)])); s.takes 0 cmdHostTarget ∧
    mayRetarget (mbxPart s.nparts 0) (s.net.targets.getD (s.arg 0 0 1) 0) = true ∧ hostTargetBad s.nparts (mbxPart s.nparts 0) (s.arg 0 8 32) = none ∧
    s.targetInUse (s.arg 0 0 1) = false := by unfold State.takes; decide +kernel
theorem test_wit_telemConfig : let s := par (hosts .reset) 0x701 40 (leBytes 8 1 ++ leBytes 32 (pack [(64, 2 ^ 48 * 1), (32, 65536), (64, 2 ^ 48 * 1 + 65536), (32, 7), (16, 0), (48, 0)]))
    s.takes 4 cmdTelemConfig ∧ s.arg 4 0 1 = 1 + 0 ∧ mbxPart s.nparts 4 = some 0 ∧ s.telemBad (s.arg 4 0 1) (s.arg 4 8 32) = none := by unfold State.takes; decide +kernel
theorem test_wit_telemConfig_dev : let s := dev .reset 0x701 40 (leBytes 8 4); s.takes 0 cmdTelemConfig ∧ s.arg 0 0 1 < 5 ∧ mbxPart s.nparts 0 = none ∧
    s.telemBad (s.arg 0 0 1) (s.arg 0 8 32) = none := by unfold State.takes; decide +kernel
theorem test_wit_faultAck : let s := (dev .reset 0x702 4 []).modHub fun h => { h with seq := 1 }; s.takes 0 cmdFaultAck ∧ s.arg 0 0 4 < s.hub.seq := by
  unfold State.takes; decide +kernel
theorem test_wit_powerCap : let s := dev .reset 0x703 2 (leBytes 2 4400); s.takes 0 cmdPowerCap ∧ 1000 ≤ s.arg 0 0 2 ∧ s.arg 0 0 2 = 4400 := by unfold State.takes; decide +kernel
theorem test_wit_powerState : let s := dev .reset 0x704 1 [3#8]; s.takes 0 cmdPowerState ∧ s.arg 0 0 1 = 3 ∧ s.targetBusy 3 = false := by unfold State.takes; decide +kernel

/-! Witnesses of JobCommandsComplete, a clause each. -/

/-- A routing entry of one partition in a state of Table 10-6. -/
def ent (st : Nat) : Nat := pack [(32, 1), (16, 0), (3, st), (4, 1), (2, 0), (71, 0)]

/-- Module 0 in a table of modules 0 and 1. -/
def routed (s : State) (st0 st1 : Nat) : State :=
  { (s.modFab 0 fun f => { f with count := 2, banks := [[(0, ent st0), (1, ent st1)], []] }) with moduleId := 0, idValid := true }

/-- `JOB_PARAMS` with counts 1 to 4. -/
def prm : Nat := pack [(64, 0), (48, 0), (32, 0), (16, 0), (20, 0), (14, 0), (16, 1), (16, 1), (16, 4), (270, 0)]

/-- A job loaded. -/
def loaded (s : State) (j : Job) (st : UnitSt) : State := (routed s 1 1).modPart 0 fun q => { q with job := some j, st := st }

/-- Numbers of a width stored at a local address. -/
def at_ (s : State) (la k : Nat) (l : List Nat) : State := { s with mem := Memory.writeBytes s.mem la (l.flatMap (leBytes k)) }

/-- A job manifest of three empty streams and parameters, at address 0 of the HBM of module `m`. -/
def manifest (s : State) (m : Nat) : State :=
  at_ (at_ s 0 16 [pack [(32, 0x4E414D4A), (16, 1), (16, 2), (64, 0)], pack [(16, 1), (16, 0), (32, 3), (64, m * 2 ^ 44 + 64)], pack [(16, 2), (16, 0), (32, 1), (64, m * 2 ^ 44 + 128)]]) 128 64 [prm]

/-- A layout manifest that carries nothing, at address 0. -/
def layout (s : State) : State := at_ s 0 16 [pack [(32, 0x4E414D4A), (16, 1), (80, 0)]]

theorem test_wit_jobLoad : let s := par (manifest (routed .reset 1 1) 0) 0x201 8 []; s.takes 4 cmdJobLoad ∧ s.mbxFor 4 = 0 ∧ s.manifestAt 0 (s.arg 4 0 8) = true ∧
    ((s.part 0).fab.entry s.moduleId).isSome = true ∧ (s.loadJob 0 (s.arg 4 0 8)).isSome = true ∧ (s.part 0).job = none ∧ (s.part 0).st = .ready ∧
    (s.part 0).fab.entryState s.moduleId ≠ 3 := by unfold State.takes; decide +kernel
theorem test_wit_jobStart : let s := par (loaded .reset {} .ready) 0x202 0 []; s.takes 4 cmdJobStart ∧ (s.part 0).job.isSome = true ∧ (s.part 0).st = .ready ∧ s.idValid = true ∧
    s.power.pstate ≠ .p3 := by unfold State.takes; decide +kernel
theorem test_wit_jobStop : (par (loaded .reset {} .active) 0x203 0 []).takes 4 cmdJobStop := by unfold State.takes; decide +kernel
theorem test_wit_jobUnload : let s := par (loaded .reset {} .ready) 0x208 0 []; s.takes 4 cmdJobUnload ∧ (s.part (s.mbxFor 4)).st = .ready := by unfold State.takes; decide +kernel
theorem test_wit_accSet : let s := par (loaded .reset { params := prm } .active) 0x204 2 [4#8]; s.takes 4 cmdAccSet ∧ (s.part 0).job.isSome = true ∧ jpAccLo (s.params 0) ≤ s.arg 4 0 2 ∧
    s.arg 4 0 2 = jpAccHi (s.params 0) := by unfold State.takes; decide +kernel
theorem test_wit_inputPost_later : let s := par (loaded .reset {} .active) 0x205 8 [127#8, 63#8, 1#8]; s.takes 4 cmdInputPost ∧ (s.part 0).job.isSome = true ∧ s.arg 4 0 1 = 127 ∧
    s.arg 4 1 1 = 63 ∧ (s.part 0).run.step < s.arg 4 2 6 ∧ (s.part 0).run.posts.length < 16 := by unfold State.takes; decide +kernel
theorem test_wit_inputPost_now : let s := par (loaded .reset {} .active) 0x205 8 [127#8, 1#8]; s.takes 4 cmdInputPost ∧
    s.arg 4 0 1 = 127 ∧ s.arg 4 1 1 = 1 ∧ s.arg 4 2 6 = (s.part 0).run.step ∧ s.inStep 0 = true ∧ (s.part 0).run.tokens.getD 127 0 + 1 ≤ 65535 := by
  unfold State.takes; decide +kernel
theorem test_wit_apertureSet : let s := par .reset 0x206 8 (leBytes 8 (2 ^ 21)); s.takes 4 cmdApertureSet ∧ s.arg 4 0 8 % 2 ^ 21 = 0 ∧ s.ownRange 0 (s.arg 4 0 8) (2 ^ 21) [0, 1, 2] = true := by
  unfold State.takes; decide +kernel
theorem test_wit_memSend : let s := par (hosts .reset) 0x207 24 (leBytes 8 4096 ++ leBytes 8 1 ++ leBytes 8 (2 ^ 48)); s.takes 4 cmdMemSend ∧ s.arg 4 8 8 = 1 ∧
    s.ownRange 0 (s.arg 4 0 8) 1 [0, 1, 2] = true ∧ s.handleOk (some 0) (s.arg 4 16 8) 1 = true := by unfold State.takes; decide +kernel
theorem test_wit_ingotEmit : let s := par (hosts (loaded .reset {} .active)) 0x403 32 (leBytes 32 (pack [(64, 2 ^ 48), (64, 2 ^ 41), (32, 1), (48, 0), (30, 1), (18, 0)]))
    s.takes 4 cmdIngotEmit ∧ (s.part 0).job.isSome = true ∧ s.ingotBad 0 (s.arg 4 0 32) = none := by unfold State.takes; decide +kernel
theorem test_wit_layoutSet : ∃ x, let s := par (layout (loaded .reset {} .active)) 0x402 16 []; s.takes 4 cmdLayoutSet ∧ s.arg 4 0 1 = 0 ∧ (s.part 0).job.isSome = true ∧
    s.manifestAt 0 (s.arg 4 8 8) = true ∧ s.readManifest 0 (s.arg 4 8 8) = some x ∧ (s.layoutOf 0 x).isSome = true := ⟨[], by unfold State.takes; decide +kernel⟩
theorem test_wit_layoutSetForced : ∃ x, let s := par (layout (loaded .reset {} .active)) 0x402 16 [1#8]; s.takes 4 cmdLayoutSet ∧ s.arg 4 0 1 = 1 ∧ (s.part 0).job.isSome = true ∧
    s.manifestAt 0 (s.arg 4 8 8) = true ∧ s.readManifest 0 (s.arg 4 8 8) = some x ∧ (s.layoutOf 0 x).isSome = true := ⟨[], by unfold State.takes; decide +kernel⟩

def rhdr : Nat := pack [(384, 0), (16, 10), (16, 8), (16, 16), (16, 64), (32, 1), (32, 0)]
/-- A routing table of module 0 alone, at address 0. -/
def routes (s : State) : State :=
  at_ (at_ (at_ s 0 64 [rhdr]) 64 16 [ent 1]) 80 8 (List.replicate 16 (2 ^ 56))

theorem test_wit_routeLoad : let s := par (routes { State.reset with idValid := true }) 0x303 8 []; s.takes 4 cmdRouteLoad ∧ s.ownRange 0 (s.arg 4 0 8) 64 [0] = true ∧
    s.idValid = true ∧
    s.readRoutes 0 (s.arg 4 0 8) = some (rhdr, [ent 1], List.replicate 16 (2 ^ 56)) ∧
    ((s.part 0).fab.load rhdr [ent 1] (List.replicate 16 (2 ^ 56))).entryState s.moduleId = 1 ∧ (s.part 0).st = .ready := by unfold State.takes; decide +kernel
theorem test_wit_spareAssume : let s := par (manifest (routed .reset 3 2) 1) 0x304 16 (leBytes 8 1); s.takes 4 cmdSpareAssume ∧ (s.part 0).fab.entryState s.moduleId = 3 ∧
    (s.part 0).fab.entry (s.arg 4 0 4) = some (1, ent 2) ∧ reState (ent 2) = 2 ∧ rePartCount (ent 2) = s.nparts ∧ (entParts (ent 2)).contains 0 = true ∧
    (({ s with moduleId := s.arg 4 0 4 } : State).loadJob 0 (s.asLost (s.arg 4 0 4) (s.arg 4 8 8))).isSome = true ∧ (s.part 0).st = .ready ∧ (s.part 0).job = none := by
  unfold State.takes; decide +kernel

/-- A round configuration of two islands and one slab of 32 elements. -/
def rcfg : Nat := pack [(64, 2 ^ 41), (64, 256), (64, 64), (24, 1), (17, 16), (16, 0), (5, 2), (4, 0), (5, 2), (2, 0), (1, 0), (1, 0), (32, 0x3F800000), (32, 0x3F800000), (32, 0),
  (32, 0x3F000000), (16, 1), (13, 16), (16, 4791), (13, 0), (24, 1), (35, 0)]
def isl (id : Nat) : Nat := pack [(64, 1024), (64, 1088), (64, 1152), (32, 0x3F800000), (32, 0), (13, id), (20, 0), (18, 1), (9, 0), (9, 1), (9, 2), (9, 3), (1, 1), (40, 0)]
def islOwn : Nat := pack [(64, 1024), (64, 0), (64, 0), (32, 0x3F800000), (32, 0), (13, 0), (20, 0), (18, 1), (9, 0), (9, 1), (9, 2), (9, 3), (1, 1), (40, 0)]
def slab : Nat := pack [(64, 2048), (64, 2 ^ 41 + 2 ^ 26), (64, 2 ^ 41 + 2 ^ 27), (64, 2 ^ 41 + 2 ^ 28), (64, 0), (64, 0), (24, 0), (24, 32), (18, 0), (1, 1), (61, 0)]
def rounds (s : State) : State := at_ (at_ s 64 48 [islOwn, isl 1]) 256 64 [slab]

theorem test_wit_roundConfig : let s := par (rounds .reset) 0x401 64 (leBytes 64 rcfg); s.takes 4 cmdRoundConfig ∧ s.roundBad 0 (s.arg 4 0 64) = none ∧
    s.roundArrays 0 (s.arg 4 0 64) = some ([islOwn, isl 1], [slab]) ∧ (s.part 0).st = .ready := by unfold State.takes; decide +kernel

/-! Witnesses of KeyCommandsComplete and SecurityCommandsComplete, a clause each. -/

/-- An open session. -/
def sess (s : State) : State := s.modSec fun x => { x with sessions := [⟨7, .mailbox 4, 5, true⟩], negotiated := true }
/-- The last slot of partition 0 holds an AEAD key of epoch 0. -/
def keyed (s : State) : State := s.modCipher fun c => c.modSlot 511 fun _ => { words := copies3 (pack [(3, 1), (45, 0)]), key := 9, limit := 100 }

/-- The hold-up bank measured. -/
def powered (s : State) : State := s.modPower fun w => { w with cmeas := some 50000 }

theorem test_wit_keyInstall : let s := par (sess .reset) 0x501 92 (leBytes 4 7); s.takes 4 cmdKeyInstall ∧ s.sec.session (s.arg 4 0 4) = some ⟨7, .mailbox 4, 5, true⟩ := by
  unfold State.takes; decide +kernel
theorem test_wit_keyZero : let s := par .reset 0x502 2 (leBytes 2 511); s.takes 4 cmdKeyZero ∧ s.ownSlot 0 (s.arg 4 0 2) = true ∧ s.slotBusy 0 (s.arg 4 0 2) = false ∧
    s.arg 4 0 2 = 511 := by unfold State.takes; decide +kernel
theorem test_wit_keyZero_all : let s := par .reset 0x502 2 (leBytes 2 0xFFFF); s.takes 4 cmdKeyZero ∧ s.arg 4 0 2 = 0xFFFF ∧ ∀ k ∈ s.slotsOf 0, s.slotBusy 0 k = false := by
  unfold State.takes; decide +kernel
theorem test_wit_keyStatus : let s := par .reset 0x503 2 (leBytes 2 511); s.takes 4 cmdKeyStatus ∧ s.ownSlot 0 (s.arg 4 0 2) = true := by unfold State.takes; decide +kernel
theorem test_wit_keyOffer : let s := par .reset 0x504 2 (leBytes 2 511); s.takes 4 cmdKeyOffer ∧ s.ownSlot 0 (s.arg 4 0 2) = true ∧ (s.part 0).offers.length < 4 := by
  unfold State.takes; decide +kernel
theorem test_wit_keyWrap_draw : let s := par .reset 0x505 6843 (leBytes 2 0xFFFF); s.takes 4 cmdKeyWrap ∧ s.arg 4 0 2 = 0xFFFF := by unfold State.takes; decide +kernel
theorem test_wit_keyWrap_held : let s := par (keyed .reset) 0x505 6843 (leBytes 2 511); s.takes 4 cmdKeyWrap ∧ s.ownSlot 0 (s.arg 4 0 2) = true ∧
    (s.slot (s.arg 4 0 2)).held.isSome = true := by unfold State.takes; decide +kernel
theorem test_wit_keyUnwrap : let s := par (State.reset.modPart 0 fun q => { q with offers := [(0, 511, 3, 0)] }) 0x506 6945 []; s.takes 4 cmdKeyUnwrap ∧
    (s.part 0).offers.find? (fun o => o.1 == s.arg 4 1672 4 && decide (s.tick < o.2.2.2 + offerTicks)) = some (0, 511, 3, 0) := by unfold State.takes; decide +kernel

theorem test_wit_spdmMsg : (dev .reset 0x601 4 [0x10#8, 0x84#8]).takes 0 cmdSpdmMsg := by unfold State.takes; decide +kernel
theorem test_wit_fwStage : ∃ x, let s := dev .reset 0x602 8 [4#8]; s.takes 0 cmdFwStage ∧ 8 ≤ (s.mbxArgs 0).length ∧ s.arg 0 0 1 = 4 ∧ s.arg 0 1 1 ≤ 1 ∧
    s.sec.stage (s.arg 0 0 1) (s.arg 0 4 4) (s.arg 0 1 1 == 1) ((s.mbxArgs 0).drop 8) = some (x, stOK) :=
  ⟨{ ({} : Sec).erase 4 with staging := some 4, stagePart := [] }, by unfold State.takes; decide +kernel⟩
theorem test_wit_fwCommit : let s := (dev (powered .reset) 0x603 1 [1#8]).modSec fun x => { x with images := [factoryImages, factoryImages] }; s.takes 0 cmdFwCommit ∧ s.arg 0 0 1 = 1 ∧
    (∀ c ∈ [1, 2, 3, 4], ∃ i ∈ s.sec.bankOf !s.sec.bank, i.cls = c ∧ i.ok = true) ∧ s.sec.staging = none ∧ s.canStore .counters = true := by unfold State.takes; decide +kernel
theorem test_wit_debugNonce : (dev .reset 0x605 0 []).takes 0 cmdDebugNonce := by unfold State.takes; decide +kernel
theorem test_wit_debugEnter : let s := dev .reset 0x606 3405 (leBytes 96 (pack [(32, 0x4B544244), (8, 1), (2, 1), (726, 0)])); s.takes 0 cmdDebugEnter ∧
    tokenBad (s.arg 0 0 96) = none ∧ dtLevel (s.arg 0 0 96) = 1 := by unfold State.takes; decide +kernel
theorem test_wit_debugEnter_fill : let s := dev .reset 0x606 3405 (leBytes 96 (pack [(32, 0x4B544244), (8, 1), (2, 2), (726, 0)])); s.takes 0 cmdDebugEnter ∧
    tokenBad (s.arg 0 0 96) = none ∧ dtLevel (s.arg 0 0 96) = 2 ∧ s.allFree = true ∧ s.power.pstate ≠ .p2 ∧ s.power.pstate ≠ .p3 := by unfold State.takes; decide +kernel
theorem test_wit_debugExit : (dev .reset 0x607 0 []).takes 0 cmdDebugExit := by unfold State.takes; decide +kernel
theorem test_wit_lcAdvance : let s := (dev (powered .reset) 0x604 3437 [4#8, 1#8]).modSec fun x => { x with nonce := some (0, 0) }; s.takes 0 cmdLcAdvance ∧
    lifeOf (lcTarget (s.arg 0 0 128)) = some .retired ∧ lcSigner (s.arg 0 0 128) = 1 ∧ bits (s.arg 0 0 128) 255 16 = 0 ∧
    transitionOk s.sec.life .retired (lcSigner (s.arg 0 0 128)) s.sec.returns = true ∧ s.nonceIs (lcNonce (s.arg 0 0 128)) = true ∧ (∀ q ∈ s.parts, q.busy = false) ∧
    s.canStore .lifecycle = true := by unfold State.takes; decide +kernel

/-! ## The three streams -/

/-- A stream word with an operand. -/
def insn (c op x : Nat) : Nat := pack [(4, c), (6, op), (54, 0), (64, x)]

/-- Partition 0 runs a job whose three programs are the words `ws` at 4096. -/
def runs (s : State) (j : Job) (ws : List Nat) : State :=
  at_ (loaded s { j with streams := List.replicate 3 (4096, ws.length), params := prm } .active) 4096 16 ws
/-- A running job with a descriptor of `k` bytes at 8192. -/
def runsD (j : Job) (c op k d : Nat) : State := at_ (runs .reset j [insn c op 8192]) 8192 k [d]

theorem test_wit_token : (0 < State.reset.parts.length ∧ 127 < (State.reset.part 0).run.tokens.length ∧ (State.reset.part 0).run.tokens.getD 127 0 < 65535) ∧
    (let s := State.reset.modRun 0 fun r => { r with tokens := updAt r.tokens 127 fun _ => 65535 }
     0 < s.parts.length ∧ 127 < (s.part 0).run.tokens.length ∧ 65535 ≤ (s.part 0).run.tokens.getD 127 0) := by decide +kernel
theorem test_wit_issueConsumes : 3 < State.reset.parts.length ∧ (State.reset.part 3).run.tokens.length = 128 ∧ (State.reset.part 3).run.seqs.length = 3 := by decide +kernel
theorem test_wit_malformed_word : let s := runs .reset {} [insn 0 7 0]; s.seqRuns 0 .fwd = true ∧ (∀ g, (s.seq 0 .fwd).group = some g → g.cur.isSome = true) ∧
    s.fetch 0 .fwd (s.seq 0 .fwd).pc = some (insn 0 7 0) ∧ s.wordOk 0 .fwd (insn 0 7 0) = false :=
  ⟨by decide +kernel, (by intro g h; cases (show (none : Option Group) = some g from h)), by decide +kernel, by decide +kernel⟩
theorem test_wit_malformed_mark : let s : State := { runs .reset {} [insn 0 0 0] with marks := [64] }
    s.fetch 0 .fwd (s.seq 0 .fwd).pc = some (insn 0 0 0) ∧ s.marked (gLocal ((s.program 0 .fwd).1 + 16 * (s.seq 0 .fwd).pc)) 16 = true := by decide +kernel

/-- A stream that is in no group issues. -/
theorem issues_of {s : State} {p : Nat} {t : Sid} {c op : Nat} {w : Nat} (h0 : (s.seq p t).group = none) (h : p < 4 ∧ s.seqRuns p t = true ∧ s.fetch p t (s.seq p t).pc = some w ∧
    s.marked (gLocal ((s.program p t).1 + 16 * (s.seq p t).pc)) 16 = false ∧ s.wordOk p t w = true ∧ siClass w = c ∧ siOp w = op ∧ s.waitMet p t w = true ∧
    (s.seq p t).out.length < 32) : s.issues p t c op w :=
  ⟨h.1, h.2.1, (by intro g k; rw [h0] at k; cases k), h.2.2⟩

/-- Where the reads of a fetch meet no error, the state is as it was: the witnesses below are states `r` with `r.fetched p f = r`. -/
theorem fetched_clean (s : State) (p : Nat) (t : Sid) (h : s.scrub.wbacks = []) : s.fetched p ⟨t, ⟨[], []⟩⟩ = s := by
  simp [State.fetched, State.meet, State.each, h]
theorem meet_clean (s : State) (l : List (Nat × Nat)) (h : s.scrub.wbacks = []) : s.meet l ⟨[], []⟩ = s := by simp [State.meet, State.each, h]
theorem test_fetched : (runs .reset {} [insn 0 0 0]).scrub.wbacks = [] := by decide +kernel

theorem test_wit_nop : (runs .reset {} [insn 0 0 0]).issues 0 .upd 0 0 (insn 0 0 0) := issues_of (by decide +kernel) (by decide +kernel)
theorem test_wit_loopBegin : (runs .reset {} [insn 0 1 65535]).issues 0 .fwd 0 1 (insn 0 1 65535) := issues_of (by decide +kernel) (by decide +kernel)
theorem test_wit_loopBegin_acc : (runs .reset {} [insn 0 1 0]).issues 0 .bwd 0 1 (insn 0 1 0) ∧ siOperand (insn 0 1 0) = 0 := ⟨issues_of (by decide +kernel) (by decide +kernel), by decide⟩
theorem test_wit_loopEnd : ((runs .reset {} [insn 0 2 0]).modSeq 0 .fwd fun q => { q with loops := [(0, 2)] }).issues 0 .fwd 0 2 (insn 0 2 0) :=
  issues_of (by decide +kernel) (by decide +kernel)
theorem test_wit_groupBegin : let s := runs .reset {} [insn 0 3 1, insn 0 0 0, insn 0 4 0]; s.issues 0 .fwd 0 3 (insn 0 3 1) ∧
    s.scanGroup 0 .fwd ((s.program 0 .fwd).2 + 1) ((s.seq 0 .fwd).pc + 1) ((s.seq 0 .fwd).pc + 1) (siOperand (insn 0 3 1)) [] = some ([1], 3) :=
  ⟨issues_of (by decide +kernel) (by decide +kernel), by decide +kernel⟩
theorem test_wit_blockEnd : ((runs .reset {} [insn 0 4 0]).modSeq 0 .fwd fun q => { q with group := some { heads := [0], ran := [], cur := some 0, next := 1 } }).issues 0 .fwd 0 4 (insn 0 4 0) := by
  refine ⟨by decide, by decide +kernel, fun g h => ?_, by decide +kernel⟩
  obtain rfl := Option.some.inj (show some (_ : Group) = some g from h)
  rfl
theorem test_wit_passEnd : (runs .reset {} [insn 0 5 0]).shaped ∧ (runs .reset {} [insn 0 5 0]).issues 0 .bwd 0 5 (insn 0 5 0) :=
  ⟨by unfold State.shaped; decide +kernel, issues_of (by decide +kernel) (by decide +kernel)⟩
theorem test_wit_stepEnd : let s := runs .reset {} [insn 0 6 0]
    s.shaped ∧ s.issues 0 .upd 0 6 (insn 0 6 0) ∧ (Sid.upd = .upd → (s.part 0).coll.statsDone = true) :=
  ⟨by unfold State.shaped; decide +kernel, issues_of (by decide +kernel) (by decide +kernel), by decide +kernel⟩
theorem test_wit_readyBlock : let g : Group := { heads := [0], ran := [], cur := none, next := 1 }
    let s := (runs .reset {} [insn 0 0 0]).modSeq 0 .fwd fun q => { q with group := some g }
    s.seqRuns 0 .fwd = true ∧ (s.seq 0 .fwd).group = some g ∧ g.cur = none ∧ g.ran.length ≠ g.heads.length ∧ s.readyBlock 0 .fwd g = some (0, 0) := by decide +kernel

/-! Descriptor commands -/

/-- A 1 x 1 pass of K = 1 on hearth 255. -/
def hpd : Nat := pack [(22, 0), (22, 64), (22, 64), (22, 64), (22, 0), (22, 0), (16, 1), (4, 7), (4, 7), (2, 0), (8, 1), (8, 1), (2, 0), (1, 1), (8, 255), (9, 1), (16, 1), (46, 0)]
/-- A launch of one word on hearth 255. -/
def tld : Nat := pack [(64, 12288), (7, 1), (11, 1), (4, 0), (2, 0), (5, 0), (4, 0), (22, 0), (22, 0), (16, 1), (8, 255), (9, 1), (338, 0)]
/-- 64 bytes copied within HBM. -/
def tdd (n : Nat) : Nat := pack [(64, 65536), (64, 131072), (40, 64), (16, 1), (80, 0), (4, 15), (4, 15), (3, 0), (16, 0xFFFF), (40, 0), (24, 0), (18, n), (139, 0)]

theorem test_wit_hearthPass : let s := runsD {} 1 0 32 hpd; s.issues 0 .fwd 1 0 (insn 1 0 8192) ∧ s.names 0 (insn 1 0 8192) hpd ∧
    passOk hpd (hearthCount s.nparts) (s.offlineHearths 0) = true ∧ ∀ h ∈ s.named 0 (hpFirst hpd) (hpCount hpd), ((s.hearth h).queues.getD (queueOfSrc (srcOfSid .fwd)) []).length < 4 := by
  exact ⟨issues_of (by decide +kernel) (by decide +kernel), by unfold State.names; decide +kernel, by decide +kernel, by decide +kernel⟩
theorem test_wit_temperRunInsn : let s := runsD {} 2 0 64 tld; s.issues 0 .fwd 2 0 (insn 2 0 8192) ∧ s.names 0 (insn 2 0 8192) tld ∧
    launchOk tld (s.ownWord 0) (srcOfSid .fwd) (hearthCount s.nparts) (s.offlineHearths 0) = true ∧ s.ownRange 0 (tlProg tld) (8 * tlLen tld) [0] = true ∧
    ∀ h ∈ s.named 0 (tlFirst tld) (tlCount tld), ((s.temper h).queues.getD (srcIx (srcOfSid .fwd)) []).length < 4 := by
  exact ⟨issues_of (by decide +kernel) (by decide +kernel), by unfold State.names; decide +kernel, by decide +kernel, by decide +kernel, by decide +kernel⟩
theorem test_wit_copy : let s := runsD {} 3 0 64 (tdd 0); s.issues 0 .bwd 3 0 (insn 3 0 8192) ∧ s.names 0 (insn 3 0 8192) (tdd 0) ∧ s.tongsOk 0 0 (tdd 0) = true ∧
    ∀ e ∈ s.enginesFor 0 0 (tdd 0), s.tongsFree 0 .bwd e = true := by
  exact ⟨issues_of (by decide +kernel) (by decide +kernel), by unfold State.names; decide +kernel, by decide +kernel, by decide +kernel⟩
theorem test_wit_gather : let s := at_ (runsD {} 3 1 64 (tdd 1)) 131072 8 [262144]; s.issues 0 .bwd 3 1 (insn 3 1 8192) ∧ s.names 0 (insn 3 1 8192) (tdd 1) ∧ s.tongsOk 0 1 (tdd 1) = true ∧
    ∀ e ∈ s.enginesFor 0 1 (tdd 1), s.tongsFree 0 .bwd e = true := by
  exact ⟨issues_of (by decide +kernel) (by decide +kernel), by unfold State.names; decide +kernel, by decide +kernel, by decide +kernel⟩
/-- The arena of partition 0: a pool of 64 frames, and homes of one frame at the start of the crucible. -/
def arena : Nat := pack [(64, 0), (20, 4), (20, 64), (21, 0), (21, 1), (110, 0)]
/-- A FILL, PREFETCH or EVICT of `n` bytes at an address. -/
def tfd (g n : Nat) : Nat := pack [(64, 0), (64, g), (40, n), (16, 1), (80, 0), (4, 15), (4, 15), (3, 0), (16, 0xFFFF), (40, 0), (24, 0), (18, 0), (139, 0)]

theorem test_wit_fill : let d := tfd 131072 1; let s := runsD {} 3 2 64 d; s.issues 0 .upd 3 2 (insn 3 2 8192) ∧ s.names 0 (insn 3 2 8192) d ∧ s.tongsOk 0 2 d = true ∧
    ∀ e ∈ s.enginesFor 0 2 d, s.tongsFree 0 .upd e = true := by
  exact ⟨issues_of (by decide +kernel) (by decide +kernel), by unfold State.names; decide +kernel, by decide +kernel, by decide +kernel⟩
theorem test_wit_prefetch_evict : ∀ op ∈ [3, 4], let d := tfd (2 ^ 41) frameBytes; let s := runsD { arena := some arena } 3 op 64 d; s.names 0 (insn 3 op 8192) d ∧ s.tongsOk 0 op d = true ∧
    (∀ e ∈ s.enginesFor 0 op d, s.tongsFree 0 .fwd e = true) ∧ s.wordOk 0 .fwd (insn 3 op 8192) = true ∧ s.seqRuns 0 .fwd = true ∧ (s.seq 0 .fwd).group = none ∧
    s.fetch 0 .fwd (s.seq 0 .fwd).pc = some (insn 3 op 8192) ∧ s.waitMet 0 .fwd (insn 3 op 8192) = true ∧ (s.seq 0 .fwd).out.length < 32 := by unfold State.names; decide +kernel

/-- A group of modules 0 and 1 with two ranks, its list at 16384. -/
def grp : Nat := pack [(64, 16384), (18, 2), (18, 1), (18, 1), (17, 0), (3, 0), (12, 0), (17, 0), (17, 0), (32, 0), (1, 0), (1, 0), (6, 0), (32, 0)]
/-- A COLL descriptor of 64 elements, tensor 0. -/
def cdd (fmt : Nat) : Nat := pack [(64, 65536), (64, 131072), (32, 64), (16, 0), (6, 0), (3, 0), (4, fmt), (5, 0), (16, 0), (46, 0)]
def cdf : Nat := pack [(64, 65536), (64, 131072), (32, 0), (16, 0), (6, 0), (3, 0), (4, 0), (5, 16), (16, 3), (46, 0)]
/-- A reducing track of tensor `t`, or one in BF16. -/
def trk (t fmt : Nat) : Nat := pack [(16, t), (4, fmt), (2, 0), (16, 0), (16, 0), (9, 0), (3, 0), (3, 0), (4, 1), (7, 0), (32, 0x3F000000), (16, 0), (128, 0)]
/-- A running collective partition. -/
def colls (op d : Nat) : State :=
  at_ ((runsD { groups := [grp] } 4 op 32 d).modPyro 0 fun q => { q with tracks := [Track.fresh (trk 0 15)] }) 16384 4 [0, 2 ^ 12]

theorem test_wit_reduce : let d := cdd 9; let s := colls 0 d; s.issues 0 .bwd 4 0 (insn 4 0 8192) ∧ s.names 0 (insn 4 0 8192) d ∧ s.collOk 0 0 d = true ∧ (s.part 0).coll.occ 0 d < 65536 ∧
    ((s.part 0).coll.ops.filter fun o => !o.done).length < 16 := by
  exact ⟨issues_of (by decide +kernel) (by decide +kernel), by unfold State.names; decide +kernel, by decide +kernel, by decide +kernel, by decide +kernel⟩
theorem test_wit_collGather : let d := cdd 8; let s := colls 1 d; s.issues 0 .upd 4 1 (insn 4 1 8192) ∧ s.names 0 (insn 4 1 8192) d ∧ s.collOk 0 1 d = true ∧ (s.part 0).coll.occ 1 d < 65536 ∧
    ((s.part 0).coll.ops.filter fun o => !o.done).length < 16 := by
  exact ⟨issues_of (by decide +kernel) (by decide +kernel), by unfold State.names; decide +kernel, by decide +kernel, by decide +kernel, by decide +kernel⟩
theorem test_wit_collFlag : let d := cdf; let s := colls 2 d; s.issues 0 .bwd 4 2 (insn 4 2 8192) ∧ s.names 0 (insn 4 2 8192) d ∧ s.collOk 0 2 d = true ∧ (s.part 0).coll.occ 2 d < 65536 ∧
    ((s.part 0).coll.ops.filter fun o => !o.done).length < 16 := by
  exact ⟨issues_of (by decide +kernel) (by decide +kernel), by unfold State.names; decide +kernel, by decide +kernel, by decide +kernel, by decide +kernel⟩

/-- A shard of 16 elements of tensor 5 in BF16, plain. -/
def upd : Nat := pack [(64, 2 ^ 41), (40, 4096), (64, 32768), (64, 36864), (32, 16), (20, 0), (2, 0), (4, 7), (16, 5), (64, 2 ^ 41 + 65536), (8, 0), (32, 0x3F800000), (40, 0), (62, 0)]

theorem test_wit_commit : let s := runsD { shards := [upd] } 5 0 64 upd; s.issues 0 .upd 5 0 (insn 5 0 8192) ∧ s.names 0 (insn 5 0 8192) upd ∧ udOk upd = true ∧
    upd ∈ ((s.part 0).job.map (·.shards)).getD [] ∧ s.pickUnit 0 = some 0 ∧
    ((s.consume 0 .upd (insn 5 0 8192)).openInsn 0 .upd (insn 5 0 8192) upd).pickUnit 0 = some 0 := by
  exact ⟨issues_of (by decide +kernel) (by decide +kernel), by unfold State.names; decide +kernel, by decide +kernel, by decide +kernel, by decide +kernel, by decide +kernel⟩

/-! Queue, scale and completion commands -/

/-- Queue 255 of partition 0: one end, with one page and 1024 slots at 65536 of this module. -/
def aqd (consumer : Bool) : Nat := pack [(64, 65536), (20, 1), (12, 1024), (20, 0), (2, 0), (1, b01 consumer), (1, 0), (8, 255), (16, 0), (112, 0)]
def queued (s : State) (x : ActQ) : State := s.modPart 0 fun q => { q with actqs := [x] }

theorem test_wit_push : let x : ActQ := { desc := aqd false, credits := 1 }; let s := queued (runs .reset {} [insn 6 0 (4096 * 4 + 255)]) x; s.issues 0 .fwd 6 0 (insn 6 0 (4096 * 4 + 255)) ∧
    (s.part 0).queueFor .fwd false (siOperand (insn 6 0 (4096 * 4 + 255)) % 256) = some (0, x) ∧ s.reach 0 (siOperand (insn 6 0 (4096 * 4 + 255)) / 4096 * 4096) (aqPages x.desc * 4096) [0] = true ∧
    0 < x.credits ∧ s.ownRange 0 (slotAddr x.desc x.pushes) (aqPages x.desc * 4096) [0] = true ∧ 0 < s.parts.length ∧ 0 < (s.part 0).actqs.length := by
  exact ⟨issues_of (by decide +kernel) (by decide +kernel), by decide +kernel⟩
theorem test_wit_pop : let x : ActQ := { desc := aqd true, credits := 0, full := 1 }; let s := queued (runs .reset {} [insn 6 1 255]) x; s.issues 0 .fwd 6 1 (insn 6 1 255) ∧
    (s.part 0).queueFor .fwd true (siOperand (insn 6 1 255)) = some (0, x) ∧ 0 < x.full := by exact ⟨issues_of (by decide +kernel) (by decide +kernel), by decide +kernel⟩
theorem test_wit_release : let x : ActQ := { desc := aqd true, credits := 0, popped := 1 }; let s := queued (runs .reset {} [insn 6 2 255]) x; s.issues 0 .fwd 6 2 (insn 6 2 255) ∧
    (s.part 0).queueFor .fwd true (siOperand (insn 6 2 255)) = some (0, x) ∧ 0 < x.popped := by exact ⟨issues_of (by decide +kernel) (by decide +kernel), by decide +kernel⟩

/-- A running partition whose track of tensor 9 is in FP8. -/
def tracked (c op d : Nat) : State := (runsD {} c op 32 d).modPyro 0 fun q => { q with tracks := [Track.fresh (trk 9 0)] }
theorem test_wit_track : let d := trk 9 0; let s := tracked 7 0 d; s.issues 0 .upd 7 0 (insn 7 0 8192) ∧ s.names 0 (insn 7 0 8192) d ∧ s.trackChange 0 d = true ∧
    (s.part 0).pyro.find (trTensor d) = some (0, Track.fresh (trk 9 0)) ∧ 0 < s.parts.length ∧ 0 < (s.part 0).pyro.tracks.length := by
  exact ⟨issues_of (by decide +kernel) (by decide +kernel), by unfold State.names; decide +kernel, by decide +kernel⟩
def smp : Nat := pack [(64, 2 ^ 41), (64, 65536), (40, 1), (16, 9), (4, 8), (16, 1), (8, 4), (44, 0)]
theorem test_wit_sample : let s := tracked 7 1 smp; s.issues 0 .bwd 7 1 (insn 7 1 8192) ∧ s.names 0 (insn 7 1 8192) smp ∧ s.sampleOk 0 smp = true ∧ 0 < s.parts.length := by
  exact ⟨issues_of (by decide +kernel) (by decide +kernel), by unfold State.names; decide +kernel, by decide +kernel⟩
theorem test_wit_scaleFlag : let s := runs .reset {} [insn 7 2 32]; s.issues 0 .fwd 7 2 (insn 7 2 32) ∧ 0 < s.parts.length :=
  ⟨issues_of (by decide +kernel) (by decide +kernel), by decide +kernel⟩

/-- One outstanding instruction of a class. -/
def out1 (c : Nat) : OutInsn := { id := 5, cls := c, op := 0, sig := none, layer := 0, tensor := 0, operand := 255, desc := 0 }
def outs (c : Nat) : State := (runs .reset {} [insn 0 0 0]).modSeq 0 .fwd fun q => { q with out := [out1 c] }
theorem test_wit_done : ∀ c ∈ [1, 2, 3, 4, 6], (outs c).outInsn 0 .fwd 5 = some (out1 c) ∧ (∀ h ∈ (outs c).hearthsOf 0, ((outs c).hearth h).holds 5 = false ∧ ((outs c).hearth h).chain = none ∧
    ((outs c).temper h).holds 5 = false) ∧ (outs c).tongsIdle 0 .fwd 5 = true ∧ ((outs c).part 0).coll.op 5 = none ∧ (outs c).pushReady 0 .fwd (out1 c) = true := by decide +kernel
/-- A NOP that waits for one count of token 3. -/
def waits : Nat := 2 ^ 117 + 3 * 2 ^ 110 + 1 * 2 ^ 104
theorem test_wit_unblock : let s : State := (outs 1).modSeq 0 .fwd fun q => { q with blocked := some (.token, 0) }
    (s.seq 0 .fwd).blocked = some (.token, 0) ∧ s.stillBlocked 0 .fwd .token = false ∧ s.outInsn 0 .fwd 5 = some (out1 1) := by decide +kernel
theorem test_wit_streamHang : let s : State := { (runs .reset {} [waits]).modSeq 0 .fwd fun q => { q with out := [out1 1], blocked := some (.token, 0) } with tick := 30001 * 100000 }
    (s.seq 0 .fwd).blocked = some (.token, 0) ∧ s.stillBlocked 0 .fwd .token = true ∧ s.seqRuns 0 .fwd = true ∧ s.waitLimit 0 < s.tick - 0 ∧ s.outInsn 0 .fwd 5 = some (out1 1) := by decide +kernel

/-! ## The step boundary, hearths and temper engines -/

theorem shaped_modRun {s : State} (h : s.shaped) {p : Nat} {f : Run → Run} (hf : ∀ r : Run, r.ok → (f r).ok) : (s.modRun p f).shaped := (State.modRun_keeps (Keeps.refl s) hf).shaped h
theorem shaped_modHearth {s : State} (h : s.shaped) {k : Nat} {f : Hearth → Hearth} : (s.modHearth k f).shaped := (State.modHearth_keeps (Keeps.refl s)).shaped h
theorem shaped_modTemper {s : State} (h : s.shaped) {k : Nat} {f : Temper → Temper} : (s.modTemper k f).shaped := (State.modTemper_keeps (Keeps.refl s)).shaped h
/-- A running job is shaped. -/
theorem shaped_runs (j : Job) (ws : List Nat) : (runs .reset j ws).shaped := by
  have h : State.reset.shaped := by unfold State.shaped; decide +kernel
  have h1 : (State.reset.modFab 0 fun f => { f with count := 2, banks := [[(0, ent 1), (1, ent 1)], []] }).shaped := (State.modFab_keeps (Keeps.refl _)).shaped h
  have h2 : (routed .reset 1 1).shaped := h1
  have h3 : (loaded .reset { j with streams := List.replicate 3 (4096, ws.length), params := prm } .active).shaped := by
    unfold loaded
    refine (State.modPart_keeps (Keeps.refl _) ?_).shaped h2
    exact fun _ x => x
  exact h3

/-- A step whose streams have all ended. -/
def ended (st : Nat) : State := (runs .reset {} [insn 0 6 0]).modRun 0 fun r => { r with step := st, endTick := some 0, seqs := r.seqs.map fun q => { q with ended := true } }

theorem test_wit_stepBoundary : (ended 0).allEnded 0 = true ∧ (ended 0).unbalanced 0 = none ∧ ((ended 0).part 0).run.step < 2 ^ 48 - 1 ∧
    ((0 + 1) % ((ended 0).closeStep 0 false).roundLen 0 == 0) = false ∧ ((ended 0).part 0).run.decision = none := by decide +kernel
theorem test_wit_stepBoundary_round : (ended 1023).allEnded 0 = true ∧ (ended 1023).unbalanced 0 = none ∧ ((ended 1023).part 0).run.step = 1023 ∧
    ((1023 + 1) % ((ended 1023).closeStep 0 false).roundLen 0 == 0) = true ∧ ((ended 1023).part 0).run.round < 2 ^ 32 - 1 := by decide +kernel
theorem test_wit_stepBoundary_lastRound : let s := (ended 1023).modRun 0 fun r => { r with round := 2 ^ 32 - 1 }
    s.allEnded 0 = true ∧ s.unbalanced 0 = none ∧ (s.part 0).run.step = 1023 ∧ (s.part 0).run.decision = none ∧
    (let n := ((s.closeStep 0 false).modRun 0 fun r => { r with step := 1024, lastSkip := false }).modColl 0 fun c => c.closed 1024 false
     (1023 + 1) % (n.layoutBoundary 0 (1024 % n.roundLen 0 == 0)).roundLen 0 == 0) = true ∧ (s.part 0).run.round = 2 ^ 32 - 1 := by decide +kernel
theorem test_wit_stepBoundary_last : let s := ended (2 ^ 48 - 1); s.allEnded 0 = true ∧ s.unbalanced 0 = none ∧ (s.part 0).run.step = 2 ^ 48 - 1 := by decide +kernel
theorem test_wit_boundaryEmpties : State.reset.shaped ∧ 255 ∈ State.reset.hearthsOf 0 ∧ 255 ∉ State.reset.hearthsOf 1 := ⟨by unfold State.shaped; decide +kernel, by decide +kernel⟩

theorem test_wit_drainTimeout : let s : State := { (ended 0).modSeq 0 .fwd fun q => { q with out := [out1 1] } with tick := 10000001 }
    s.allEnded 0 = true ∧ (s.part 0).run.endTick = some 0 ∧ (s.unbalanced 0).isSome = true ∧ ticksMs (jpDrainMs (s.params 0)) < s.tick - 0 := by decide +kernel
/-- A partition held at action 8. -/
def held (l : List Hold) : State := (runs .reset { groups := [grp] } [insn 0 6 0]).modRun 0 fun r => { r with holds := l, atAction8 := true }
theorem test_wit_imageRefreshDone : let s := (held [.refresh]).modPart 0 fun q => { q with imageStage := 3 }; (s.part 0).run.holds.contains .refresh = true ∧ (s.part 0).imageStage = 3 ∧
    (s.part 0).imagePend = 0 ∧ (s.part 0).restore = none ∧ (s.part 0).run.holds.contains .rollback = false ∧ (s.part 0).run.holds.contains .gather = false ∧ (s.part 0).fenced = false := by decide +kernel
theorem test_wit_anchorTimeout : let s : State := { (held [.refresh]).modColl 0 fun c => { c with anchorFrom := some 0 } with tick := 30001 * 100000 }
    (s.part 0).coll.anchorFrom = some 0 ∧ s.flagGroup 0 = some grp ∧ cgRank grp = 0 ∧ (s.part 0).run.holds.contains .refresh = true ∧ s.waitLimit 0 < s.tick - 0 := by decide +kernel
/-- The group as rank 1 sees it. -/
def grp1 : Nat := pack [(64, 16384), (18, 2), (18, 1), (18, 1), (17, 1), (3, 0), (12, 0), (17, 0), (17, 0), (32, 0), (1, 0), (1, 0), (6, 0), (32, 0)]
theorem test_wit_anchorTimeout_member : let s : State := { ((held [.refresh]).modPart 0 fun q => { q with job := q.job.map fun j => { j with groups := [grp1] } }).modColl 0 fun c => { c with anchorFrom := some 0 }
      with tick := 30001 * 100000 }
    (s.part 0).coll.anchorFrom = some 0 ∧ s.flagGroup 0 = some grp1 ∧ cgRank grp1 = 1 ∧ (s.part 0).imageStage = 0 ∧ (s.part 0).run.holds.contains .refresh = true ∧
    s.waitLimit 0 < s.tick - 0 := by decide +kernel
theorem test_wit_outerBoundaryWork : ((held [.outerWork]).part 0).run.holds.contains .rollback = false ∧ ((held [.outerWork]).part 0).run.holds.contains .outerWork = true ∧ ((held [.outerWork]).part 0).fenced = false := by decide +kernel
theorem test_wit_heldStepStart : let s := held []; (s.part 0).run.atAction8 = true ∧ (s.part 0).run.stopArmed = false ∧ ((s.part 0).st = .active ∨ (s.part 0).st = .recovering) ∧
    (s.part 0).run.holds = [] ∧ s.mayStart 0 = true ∧ s.power.haltN = true ∧ s.power.target ≠ 2 := by decide +kernel
theorem test_wit_heldStepStart_stop : let s := (held []).modRun 0 fun r => { r with stopArmed := true }; (s.part 0).run.atAction8 = true ∧ (s.part 0).run.stopArmed = true ∧
    (s.part 0).st = .active ∧ (s.part 0).run.holds = [] := by decide +kernel

/-- A hearth of partition 0 with one queued pass, in P0. -/
def passes (acc : Nat) : State := ((runs .reset {} [insn 0 0 0]).modPower fun w => { w with pstate := .p0 }).modHearth 255 fun x => { x with queues := [[], [], [⟨hpd + acc * 2 ^ 80, 0, 0, 5⟩]] }
theorem test_wit_passAccept : ∀ acc ∈ [0, 1], let s := passes acc; (s.hearth 255).st ≠ .offline ∧ s.power.pstate = .p0 ∧ (s.hearth 255).outSets.length < 2 ∧
    (s.hearth 255).pick = some (2, ⟨hpd + acc * 2 ^ 80, 0, 0, 5⟩) ∧ chainBreaks (s.hearth 255) ⟨hpd + acc * 2 ^ 80, 0, 0, 5⟩ = (acc == 1) ∧ hpEmit (hpd + acc * 2 ^ 80) = true := by decide +kernel
theorem test_wit_passAccept_shaped (acc : Nat) : (passes acc).shaped := shaped_modHearth ((State.modPower_keeps (Keeps.refl _)).shaped (shaped_runs _ _))
theorem test_wit_passAccept_open : hpEmit (hpd - 2 ^ 79) = false := by decide

/-- A billet of a tensor for a source. -/
def bil (t : Nat) : Billet := { data := List.replicate 1024 f32Zero, tensor := t, src := .fwd }
def billets (free : Nat) : State := State.reset.modHearth 255 fun x => { x with outSets := [[bil 0xFFFF]], free := free, bq := List.replicate (16 - free) (bil 3), stallFrom := some 0 }
theorem test_wit_billetTransfer : (billets 1).shaped ∧ ((billets 1).hearth 255).outSets = [[bil 0xFFFF]] ∧ 0 < ((billets 1).hearth 255).free ∧ ((billets 1).hearth 255).book = true ∧
    ((billets 0).hearth 255).outSets = [[bil 0xFFFF]] ∧ ((billets 0).hearth 255).free = 0 :=
  ⟨shaped_modHearth (by unfold State.shaped; decide +kernel), by decide +kernel⟩
theorem test_wit_billetStall : let s : State := { billets 0 with tick := 30001 * 100000 }
    (s.hearth 255).stallFrom = some 0 ∧ (s.hearth 255).free = 0 ∧ (s.hearth 255).xout = 0 ∧ s.waitLimit (hearthPart s.nparts 255) < s.tick - 0 := by decide +kernel

/-- A queued launch of one word at 12288: HALT, or one with a reserved opcode. -/
def launches (w : Nat) : State := at_ ((runs .reset {} [insn 0 0 0]).modTemper 255 fun x => { x with queues := [[⟨tld, 0, 0, 5, 0⟩], [], [], []] }) 12288 8 [w]
theorem test_wit_programLoad : let s := launches 0
    s.reach 0 (tlProg tld) (8 * tlLen tld) [0] = true ∧ (s.temper 255).cur.getD 0 none = none ∧ ((s.temper 255).queues.getD 0 []).head? = some ⟨tld, 0, 0, 5, 0⟩ ∧
    ((enum ((chunks 8 (s.bytes (gLocal (tlProg tld)) (8 * tlLen tld))).map leNat)).find? fun (k, w) => s.marked (gLocal (tlProg tld) + 8 * k) 8 || !insnOk tld (s.ownWord 0) .fwd w) = none ∧
    extentOk tld ((chunks 8 (s.bytes (gLocal (tlProg tld)) (8 * tlLen tld))).map leNat) 0 = true ∧
    extentOk tld ((chunks 8 (s.bytes (gLocal (tlProg tld)) (8 * tlLen tld))).map leNat) 1 = true := by decide +kernel
theorem test_wit_programLoad_bad : let s := launches (63 * 2 ^ 58)
    s.reach 0 (tlProg tld) (8 * tlLen tld) [0] = true ∧ (s.temper 255).cur.getD 0 none = none ∧ ((s.temper 255).queues.getD 0 []).head? = some ⟨tld, 0, 0, 5, 0⟩ ∧
    ((enum ((chunks 8 (s.bytes (gLocal (tlProg tld)) (8 * tlLen tld))).map leNat)).find? fun (k, w) => s.marked (gLocal (tlProg tld) + 8 * k) 8 || !insnOk tld (s.ownWord 0) .fwd w) =
      some (0, 63 * 2 ^ 58) := by decide +kernel

/-- A launch in progress with input kind `k`. -/
def lch (k : Nat) : Launch := { ent := ⟨tld + k * 2 ^ 424, 0, 0, 5, 0⟩, prog := [0], run := 0, input := none, waitFrom := 0 }
def inRun (k : Nat) : State := (((runs .reset {} [insn 0 0 0]).modPower fun w => { w with pstate := .p0 }).modTemper 255 fun x => { x with cur := [some (lch k), none, none, none] }).modHearth 255 fun x =>
  { x with bq := [bil 3], free := 15 }
theorem inRun_shaped (k : Nat) : (inRun k).shaped := shaped_modHearth (shaped_modTemper ((State.modPower_keeps (Keeps.refl _)).shaped (shaped_runs _ _)))
theorem test_wit_starve : let s : State := { inRun 1 with tick := 30001 * 100000 }
    s.reach 0 (tlProg tld) (8 * tlLen tld) [0] = true ∧ (s.temper 255).cur.getD 0 none = some (lch 1) ∧ tlIn (lch 1).ent.desc = 1 ∧ (lch 1).input = none ∧ s.waitLimit 0 < s.tick - (lch 1).waitFrom := by decide +kernel
theorem test_wit_inputLoad : (inRun 1).shaped ∧ ((inRun 1).temper 255).cur.getD (srcIx .fwd) none = some (lch 1) ∧ srcIx .fwd < ((inRun 1).temper 255).cur.length ∧ (lch 1).input = none ∧
    (lch 1).run < tlRuns (lch 1).ent.desc ∧ tlIn (lch 1).ent.desc = 1 ∧ ((inRun 1).hearth 255).bq = [bil 3] ∧ (bil 3).src = .fwd :=
  ⟨inRun_shaped 1, by decide +kernel⟩
theorem test_wit_inputLoad_sram : (inRun 2).shaped ∧ ((inRun 2).temper 255).cur.getD (srcIx .fwd) none = some (lch 2) ∧ tlIn (lch 2).ent.desc = 2 ∧ (lch 2).run < tlRuns (lch 2).ent.desc :=
  ⟨inRun_shaped 2, by decide +kernel⟩
theorem test_wit_temperRun : (inRun 0).shaped ∧ (inRun 0).power.pstate = .p0 ∧ ((inRun 0).temper 255).ready = some (0, lch 0) := ⟨inRun_shaped 0, by decide +kernel⟩
/-- A run that permutes past its vector, with every flag's trap enabled: RANGE_ERR traps at word 0, element 0 (R111, R116, Table 05-7). -/
def trapLch : Launch := { ent := ⟨tld + 255 * 2 ^ 258, 0, 0, 5, 0⟩, prog := [0x28 * 2 ^ 58 + 2 ^ 33 + 9999], run := 0, input := none, waitFrom := 0 }
theorem test_wit_temperRun_trap : let s := (inRun 0).modTemper 255 fun x => { x with cur := [some trapLch, none, none, none] }
    (s.temper 255).ready = some (0, trapLch) ∧ s.power.pstate = .p0 ∧
    (TRun.program ⟨((s.part 0).job.map fun j => bits j.params 511 448).getD 0, (s.part 0).run.step⟩ trapLch.ent.desc 0 0 0 (inputReg trapLch.ent.desc 0) trapLch.prog []
      { temps := List.replicate 16 (List.replicate (tlVL trapLch.ent.desc) (f32Zero, false)), tregs := markRegs [] (s.temper 255).tregs }).trap = some (4, 0, 0) := by decide +kernel

/-! ## Tongs, arena, background copies, activation queues, commits, pyrometer -/

theorem shaped_modTongs {s : State} (h : s.shaped) {k : Nat} {f : List TEnt → List TEnt} : (s.modTongs k f).shaped := (State.modTongs_keeps (Keeps.refl s)).shaped h

/-- A COPY of `n` bytes. -/
def tcp (src dst n : Nat) : Nat := pack [(64, src), (64, dst), (40, n), (16, 1), (80, 0), (4, 15), (4, 15), (3, 0), (16, 0xFFFF), (40, 0), (24, 0), (18, 0), (139, 0)]
def tnt (op d : Nat) : TEnt := { part := 0, src := some .upd, insn := 5, op := op, desc := d, tensor := 0xFFFF }
/-- One entry at tongs engine 21. -/
def engine (x : TEnt) : State := (runs .reset {} [insn 0 0 0]).modTongs 21 fun _ => [x]
theorem engine_shaped (x : TEnt) : (engine x).shaped := shaped_modTongs (shaped_runs _ _)

theorem test_wit_piece_fill : ∀ n ∈ [1, 4096], let x := tnt 2 (tfd 131072 n); nextEnt ((engine x).tongs.getD 21 []) 0 = some x ∧ x.pieceLen (engine x) = n ∧
    (engine x).remoteEnd 0 (x.dstAddr (engine x)) = false ∧ (engine x).arenaMeets 0 (x.dstAddr (engine x)) n = false ∧
    (engine x).ownRange 0 (x.dstAddr (engine x)) n [0, 1, 2, 3] = true ∧ ((engine x).lentAt 0 (x.dstAddr (engine x)) n).isNone = true := by decide +kernel
theorem test_wit_piece_copy : let x := tnt 0 (tcp 65536 131072 64); nextEnt ((engine x).tongs.getD 21 []) 0 = some x ∧ x.pieceLen (engine x) = 64 ∧ tdConv x.desc = false ∧
    (∀ g ∈ [x.dstAddr (engine x), x.srcAddr], (engine x).remoteEnd 0 g = false ∧ (engine x).arenaMeets 0 g 64 = false ∧ (engine x).ownRange 0 g 64 [0, 1, 2, 3] = true ∧
      ((engine x).lentAt 0 g 64).isNone = true) := by decide +kernel
theorem test_wit_piece_remote : let x := tnt 2 (tfd (2 ^ 44) 64); nextEnt ((engine x).tongs.getD 21 []) 0 = some x ∧ x.pieceLen (engine x) = 64 ∧
    (engine x).remoteEnd 0 (x.dstAddr (engine x)) = true ∧ (engine x).arenaMeets 0 (x.dstAddr (engine x)) 64 = false := by decide +kernel

/-- A job with an arena of 64 pool frames, `n` of them taken, the first in a state. -/
def frames (n : Nat) (st : FrameSt) : State := (runs .reset { arena := some arena } [insn 0 0 0]).modArena 0 fun r =>
  { r with frames := (List.range n).map fun i => ⟨i, 2 ^ 20 + i, if i = 0 then st else .clean, i, 0, none⟩, free := 64 - n, clock := n }
theorem test_wit_arenaFill : let s := frames 1 .filling; s.arenaOf 0 = some arena ∧ (s.part 0).arena.find (2 ^ 20) = some ⟨0, 2 ^ 20, .filling, 0, 0, none⟩ ∧ s.homeLocal (2 ^ 20) = true ∧
    (s.part 0).arena.book arena = true := by decide +kernel
theorem test_wit_arenaWriteback : ∀ st ∈ [FrameSt.clean, .dirty], let s := frames 49 st; (∀ g ∈ (s.part 0).arena.frames, g.st ≠ .writeback) ∧ (s.part 0).arena.free = 15 ∧
    s.oldest 0 = some ⟨0, 2 ^ 20, st, 0, 0, none⟩ ∧ (s.part 0).arena.book arena = true := by decide +kernel
/-- One frame in write-back with `n` pages sent. -/
def back (n : Nat) : State := (frames 1 .writeback).modArena 0 fun r => { r with frames := r.frames.map fun f => { f with next := n } }
theorem test_wit_arenaWriteback_pages : (∀ g ∈ ((back 511).part 0).arena.frames, g.st = .writeback → g.next < 512) ∧
    ((back 511).part 0).arena.frames.find? (fun f => f.st == .writeback && f.next < 512) = some { pool := 0, home := 2 ^ 20, st := .writeback, used := 0, next := 511 } := by decide +kernel
theorem test_wit_arenaWriteback_acked : (((back 512).part 0).arena.frames.find? fun f => f.st == .writeback && 512 ≤ f.next &&
    !(back 512).awaits 0 (fun o => match o with | .arenaOut h => h == f.home | _ => false)) = some { pool := 0, home := 2 ^ 20, st := .writeback, used := 0, next := 512 } := by decide +kernel
theorem test_wit_arena_lines : (Instr.arenaFill 0 ⟨2 ^ 20, [32767], [0]⟩).wf = true ∧ (Instr.arenaWriteback ⟨0, [0], [32767]⟩).wf = true := by decide
theorem test_wit_arenaTake : (frames 1 .clean).part 0 |>.arena.take 64 (2 ^ 20 + 7) .filling |>.isSome := by decide +kernel
theorem test_wit_arenaStall : let s : State := { (frames 1 .dirty).modArena 0 fun r => { r with frames := r.frames.map fun f => { f with wait := some 0 } } with tick := 30001 * 100000 }
    (s.part 0).arena.waitFrom = some 0 ∧ s.waitLimit 0 < s.tick - 0 := by decide +kernel

/-- A packet of module 1's partition 0, complete. -/
def pkt (k : HtPkt) : HtPkt :=
  let k := { k with srcModule := 1, locator := 1, length := k.payload.length }
  { k with icrc := htIcrc k }
/-- The module's own network identity. -/
def networked (s : State) : State := s.modNet fun n => { n with locator := 7 }
theorem got {s : State} {types : List Nat} {k : HtPkt} {p : Nat} (h : (s.receive types k).2 = some p) : s.receive types k = ((s.receive types k).1, some p) := Prod.ext rfl h

/-- A borrowed (0) or lent (1) range of one frame at an address. -/
def lend (g role : Nat) : Nat := pack [(64, g), (20, 1), (20, 1), (2, 0), (1, role), (21, 0)]
def paired (g role : Nat) : State := networked ((runs .reset { arena := some arena, lends := [lend g role] } [insn 0 0 0]).modRun 0 fun r => { r with holds := [.pairing], atAction8 := true })

theorem test_wit_lendTimeout : let s : State := { paired (2 ^ 44) 0 with tick := 30001 * 100000 }; s.unconfirmed 0 = [(2 ^ 44, 1, 0)] ∧ (s.part 0).run.holds.contains .pairing = true ∧
    s.waitLimit 0 < s.tick - (s.part 0).run.holdFrom := by decide +kernel
theorem test_wit_pairing : ∀ role ∈ [0, 1], ∃ u, let k := pkt { type := 6, op := 2, payload := leBytes 8 (2 ^ 41) }; let s := paired (2 ^ 41) role; k.bufBad = [] ∧ s.receive [6] k = (u, some 0) ∧
    let v := ((u.dataArrived 0 k).bufErrors 0 k).ackIfDue 0 k.srcModule k.srcPart
    (role = 0 → (v.borrowed 0).contains (2 ^ 41, k.srcModule, k.srcPart) = true) ∧
    (role = 1 → (v.borrowed 0).contains (2 ^ 41, k.srcModule, k.srcPart) = false ∧ (v.lentOut 0).contains (2 ^ 41, k.srcModule, k.srcPart) = true) := by
  intro role h
  refine ⟨_, rfl, got (p := 0) ?_, ?_⟩ <;> revert h <;> revert role <;> decide +kernel

/-- Queue 255 toward partition 0 of module 1. -/
def aqx (consumer : Bool) : Nat := aqd consumer + 2 ^ 140
theorem test_wit_queueNotices : ∀ c ∈ [false, true], ∃ u, let k := pkt { type := 6, op := 1, payload := [] }
    let s := networked (queued (runs .reset {} [insn 0 0 0]) { desc := aqx c, credits := 0 }); k.bufBad = [] ∧ s.receive [6] k = (u, some 0) ∧
    let v := ((u.dataArrived 0 k).bufErrors 0 k).ackIfDue 0 k.srcModule k.srcPart
    (v.part 0).actq 255 = some (0, { desc := aqx c, credits := 0 }) ∧ aqMod (aqx c) = k.srcModule ∧ aqPart (aqx c) = k.srcPart ∧ aqConsumer (aqx c) = c ∧
    epochOlder 0 (v.part 0).run.epoch = false ∧ epochOlder 65535 (v.part 0).run.epoch = true := by
  intro c h
  refine ⟨_, rfl, got (p := 0) ?_, ?_⟩ <;> revert h <;> revert c <;> decide +kernel

/-- A background job of partition 0. -/
def job (b : Bg) (shards : List Nat) : State := (runs .reset { shards := shards } [insn 0 0 0]).modPart 0 fun q => { q with bgs := [b] }
def bgm (k : BgKind) : Bg := { kind := k, id := 1, src := 65536, dst := 2 ^ 48, len := 64 }
theorem test_wit_bg_mem : let s := job (bgm .memSend) []; s.bg 0 1 = some (bgm .memSend) ∧ s.feeds 0 = true ∧ (bgm .memSend).sent = false ∧ (bgm .memSend).retryStep = none := by decide +kernel
theorem test_wit_bg_capture : let b := bgm .ingotCapture; let s := job b [upd]; s.bg 0 1 = some b ∧ s.feeds 0 = true ∧ (s.shards 0)[b.fed]? = some upd := by decide +kernel
theorem test_wit_bg_seal : let b := { bgm .ingotCapture with fed := 1 }; let s := job b [upd]; s.bg 0 1 = some b ∧ s.feeds 0 = true ∧ b.fed = (s.shards 0).length := by decide +kernel
theorem test_wit_bg_ack : ∀ k ∈ [BgKind.memSend, .ingotSend], let b := { bgm k with fed := 64, sent := true }; (job b []).bg 0 1 = some b := by decide +kernel
theorem test_wit_qp : let s := (hosts .reset).modQp 1 fun q => { q with inflight := [(1, 0, 1)] }; (s.qp 1).st = 1 ∧ (s.qp 1).inflight ≠ [] := by decide +kernel

/-- A commit of `upd` queued at unit 7, at a step. -/
def uen : UEnt := { part := 0, stream := .upd, insn := 5, desc := upd }
def commits (st : Nat) (o : Option Open) : State := { (runs .reset { shards := [upd] } [insn 0 0 0]).modRun 0 (fun r => { r with step := st }) with
  units := updAt State.reset.units 7 fun y => { y with queue := if o.isNone then [uen] else [], opn := o.toList } }
theorem test_wit_commitOpen : let s := commits 1 none; (s.uunit 7).bufferFree = true ∧ (s.uunit 7).queue = [uen] ∧ (s.uunit 7).offline = false ∧ s.shardBusy 0 upd = false ∧
    s.guarded 0 upd = false ∧ s.voteGen 0 upd = (s, some 0) ∧ sgRank 0 = some 0 ∧ (s.part 0).run.step = 1 := by decide +kernel
theorem test_wit_commitOpen_slag : let s := commits 1 none; let v := s.modUnit 7 fun y => { y with queue := [] }; (v.form 0 upd 1 0 (some 0) true).slag = false := by decide +kernel
theorem test_wit_commitOpen_open : let s := commits 1 none; let v := (s.modUnit 7 fun y => { y with queue := [] }).placeRedo 0
    v.shardOpen 0 upd = true ∧ v.gradOpen 0 upd = true ∧ (v.form 0 upd 1 0 (some 0) true).slag = false := by decide +kernel
theorem test_wit_commitOpen_late : let s := at_ (at_ (commits 1 none) (2 ^ 41 + 65536) 8 [2 ^ 17]) (2 ^ 41 + 65536 + 4096) 8 [2 ^ 17]
    s.genCopies upd = [2 ^ 17, 2 ^ 17, 0] ∧ sgRank (2 ^ 17) = some 2 ∧ (s.part 0).run.step = 1 ∧ (s.voteGen 0 upd).2 = some (2 ^ 17) := by decide +kernel
def opn (bad decided : Bool) : Open := { ent := uen, step := 1, gen := 1, buf := List.replicate 16 0, bad := bad, redo := false, flipped := false, decided := decided }
def decided (k : Decision) (o : Open) : State := (commits 1 (some o)).modRun 0 fun r => { r with decision := some k }
theorem test_wit_commitDecision : ∀ bad ∈ [false, true], ∀ w ∈ [0, 1], let k : Decision := ⟨w, 0, 0, 1, 0⟩; let s := decided k (opn bad false)
    firstWith s.decidable (s.uunit 7).opn = some (0, opn bad false) ∧ (opn bad false).redo = false ∧ (s.part 0).run.decision = some k := by decide +kernel
theorem test_wit_commitDecision_flips : ∀ n ∈ [2, 3], let o := { opn false false with flips := n }; let s := decided ⟨0, 0, 0, 1, 0⟩ o
    firstWith s.decidable (s.uunit 7).opn = some (0, o) ∧ o.merged = false ∧ (3 ≤ o.flips → s.workOpen 0 upd = true) := by decide +kernel
theorem test_wit_commitDecision_skip : ∃ k1 k2 : Decision, k1.skip = true ∧ k2.skip = false := ⟨⟨1, 0, 0, 1, 0⟩, ⟨0, 0, 0, 1, 0⟩, by decide⟩
theorem test_wit_commitComplete : firstWith (·.decided) ((commits 1 (some (opn false true))).uunit 7).opn = some (0, opn false true) := by decide +kernel
/-- R166: two buffers. A unit with two undecided commits opens no third; a decided one has given up its buffer. -/
theorem test_buffers : ({ opn := [opn false false, opn false false] } : UUnit).bufferFree = false ∧ ({ opn := [opn false true, opn false false] } : UUnit).bufferFree = true := by decide +kernel
theorem test_wit_retire : (State.reset.uunit 7).offline = false ∧ 7 < State.reset.units.length := by decide +kernel

theorem test_wit_flagTaken : let s := (runs .reset { groups := [grp] } [insn 0 0 0]).modSeq 0 .bwd fun q => { q with passEnded := true }; s.flagDue 0 = true := by decide +kernel
/-- A held REDUCE. -/
def red : CollOp := { insn := 5, kind := 0, desc := cdd 9, group := grp, occ := 0 }
def reduces (room : Nat) : State := ((runs .reset { groups := [grp], staging := (2 ^ 30, room) } [insn 0 0 0]).modRun 0 fun r => { r with flagTaken := some 0 }).modColl 0 fun c => { c with ops := [red] }
theorem test_wit_release_fit : ∀ room ∈ [2 ^ 20, 1], let s := reduces room; (s.part 0).run.flagTaken = some 0 ∧ (s.part 0).fenced = false ∧ (s.part 0).st = .active ∧
    ((s.part 0).coll.ops.find? fun o => o.kind == 0 && !o.released && !o.abandoned && !o.done) = some red ∧
    let r := (((s.part 0).job.map (·.staging.2)).getD 0) - s.flagRootBytes 0; (room = 2 ^ 20 → (s.part 0).coll.taken red + red.need ≤ r) ∧ (room = 1 → r < red.need) := by decide +kernel
theorem test_wit_release_never : let y : OutInsn := { out1 4 with layer := 3, at_ := 4096, word := 9 }
    let s := (reduces 1).modSeq 0 .bwd fun q => { q with out := [y] }; ((s.seq 0 .bwd).out.find? fun y => y.id == red.insn) = some y := by decide +kernel
/-- A sampled check of one position in progress. -/
def smj : SampleJob := ⟨smp, 0, 5⟩
def sampled (marks : List Nat) : State := { (runs .reset {} [insn 0 0 0]).modPyro 0 (fun y => { y with samples := [smj] }) with marks := marks }
theorem test_wit_sampleCheck : let s := sampled []; (s.part 0).pyro.samples = [smj] ∧ s.commitOn 0 (ssWork smp) = false ∧ s.marked (gLocal (ssMaster smp)) 4 = false ∧ s.marked (gLocal (ssWork smp)) 2 = false ∧
    samplePos (jpSeed (s.params 0)) (ssTensor smp) (s.part 0).run.step 0 (ssCount smp) = 0 ∧
    (sampled [gLocal (ssMaster smp) / 64]).marked (gLocal (ssMaster smp)) 4 = true ∧ s.unreached (gLocal (ssMaster smp)) 4 = false ∧ s.unreached (gLocal (ssWork smp)) 2 = false ∧
    s.scrub.wbacks = [] := by decide +kernel

/-- A controlled track at the top of its range, with a hold, and with saturation beyond its limit. -/
def ctl (hold sat : Nat) : Track := { Track.fresh (trk 9 0) with e := 127, hold := hold, sat := sat, elements := 65536 }
theorem test_wit_controller : fmtControlled (trFmt (ctl 0 0).cfg) = true ∧ (ctl 0 0).e = fmtHi (trFmt (ctl 0 0).cfg) ∧ (ctl 0 0).quenchDue = false ∧ (ctl 1 0).quenchDue = false ∧ 0 < (ctl 1 0).hold ∧
    (ctl 0 65536).quenchDue = true := by decide +kernel

/-! ## Collectives -/

/-- A running partition of group `g`, its member list at 16384. -/
def colls0 (g : Nat) : State := (at_ (runs .reset { groups := [g] } [insn 0 0 0]) 16384 4 [0, 2 ^ 12])
theorem colls0_shaped (g : Nat) : (colls0 g).shaped := (shaped_runs _ _)
/-- A running member of group `g`, rank 0 of modules 0 and 1. -/
def member (g : Nat) : State := networked (colls0 g)
/-- A segment in a packet of module 1. -/
def seg (x : Seg) : HtPkt := pkt { type := 6, payload := x.bytes }
/-- The state and the segment that a packet let in gives. -/
def heardIn (s : State) (k : HtPkt) (p : Nat) : State := ((s.receive [6] k).1.dataArrived p k).bufErrors p k
def heardSeg (k : HtPkt) : Seg := (segOf k.payload).marked (senderOf k)
/-- A segment that the transport lets in is heard. -/
theorem hears_of {s : State} {k : HtPkt} {p : Nat} (h : (s.receive [6] k).2 = some p)
    (h' : (k.op = 0 ∨ 2 < k.op) ∧ k.dstPart = p ∧ (((heardSeg k).kind = 7 ∧ ((heardSeg k).body.headD 0#8).toNat = 2) ∨
      (((heardIn s k p).part p).run.holds.contains .rejoin = true ∧ isRejoin (heardSeg k) = true) ∨ (heardSeg k).epoch = ((heardIn s k p).part p).run.epoch) ∧
      (((heardIn s k p).part p).fenced = false ∨ 4 ≤ (heardSeg k).kind) ∧
      (heardIn s k p).segOk p (heardSeg k) (leNat (k.payload.take 32)) = true) : s.hears k p (heardIn s k p) (heardSeg k) := ⟨⟨_, got h, rfl⟩, rfl, h'⟩

/-- One block of a contribution or a result, a piece of 8 bytes, statistics, a flag word, a decision, an abort, a barrier. -/
def segs (k : Nat) : Seg := { kind := k, rank := 1, count := if k ≤ 1 then 1 else 0, body := List.replicate ([260, 260, 8, 48, 8, 12, 0, 8].getD k 0) 0#8 }
theorem test_wit_segKinds : ∀ k ∈ [0, 1, 2, 3, 4, 5, 6, 7], ∃ u x, (member grp).hears (seg (segs k)) 0 u x ∧ x.kind = k ∧ u.group 0 x.group = some grp ∧
    (u.storeErrors 0 0 0).group 0 x.group = some grp ∧ isRejoin x = false ∧ isAnswer x (member grp) 0 = false ∧ cgRank grp = 0 ∧ x.step = (u.part 0).run.step ∧
    (u.part 0).coll.aborts = [] := by
  intro k h
  refine ⟨_, _, hears_of (p := 0) ?_ ?_, ?_⟩ <;> revert h <;> revert k <;> decide +kernel
/-- Barriers of subkinds 2 and 3, an answer, and a rejoin piece of another epoch. -/
def bar (sub rank : Nat) : Seg := { kind := 7, rank := rank, body := leBytes 8 sub }
theorem test_wit_barriers : ∀ sub ∈ [2, 3], ∃ u x, (member grp).hears (seg (bar sub 1)) 0 u x ∧ isAnswer x (member grp) 0 = false ∧ (x.body.headD 0#8).toNat = sub := by
  intro k h
  refine ⟨_, _, hears_of (p := 0) ?_ ?_, ?_⟩ <;> revert h <;> revert k <;> decide +kernel
theorem test_wit_answers : ∀ sub ∈ [0, 2], ∃ u x, (member grp).hears (seg (bar sub 0)) 0 u x ∧ isAnswer x (member grp) 0 = true ∧ (x.body.headD 0#8).toNat ≠ 3 ∧
    (u.group 0 x.group).isSome = true ∧ x.epoch = (u.part 0).run.epoch := by
  intro k h
  refine ⟨_, _, hears_of (p := 0) ?_ ?_, ?_⟩ <;> revert h <;> revert k <;> decide +kernel
def rejoining : State := (member grp).modRun 0 fun r => { r with holds := [.rejoin] }
def rpiece : Seg := { kind := 2, tensor := 0xFFFF, flags := 1, epoch := 9, body := List.replicate 8 0#8 }
theorem test_wit_rejoinPiece : ∃ u x, rejoining.hears (seg rpiece) 0 u x ∧ x.kind = 2 ∧ isRejoin x = true ∧ (u.part 0).run.holds.contains .rejoin = true := by
  refine ⟨_, _, hears_of (p := 0) ?_ ?_, ?_⟩ <;> decide +kernel

theorem test_wit_otherEpoch : ∀ e ∈ [1, 32768, 32769, 65535], ∃ u, let k := seg { segs 0 with epoch := e }; (k.op = 0 ∨ 2 < k.op) ∧ k.dstPart = 0 ∧ (member grp).receive [6] k = (u, some 0) ∧
    (heardSeg k).epoch ≠ ((heardIn (member grp) k 0).part 0).run.epoch ∧ (heardSeg k).kind = 0 ∧
    epochOlder (heardSeg k).epoch ((heardIn (member grp) k 0).part 0).run.epoch = (e == 65535 || e == 32769 || e == 32768) := by
  intro e h
  refine ⟨((member grp).receive [6] (seg { segs 0 with epoch := e })).1, ?_, ?_, got ?_, ?_⟩ <;> revert h <;> revert e <;> decide +kernel

/-- Group 63 of modules 0 and 1: DIRECT axes, misses allowed, late carry, a wait of one tick. -/
def grpT (carry : Nat) : Nat := pack [(64, 16384), (18, 2), (18, 1), (18, 1), (17, 0), (3, 7), (12, 0), (17, 1), (17, 1), (32, 1), (1, carry), (1, 0), (6, 63), (32, 0)]
/-- A REDUCE in its first stage, with contributions ended. -/
def dir (carry : Nat) (l : List (Nat × Nat × W32 × W32)) : CollOp :=
  { insn := 5, kind := 0, desc := cdd 9, group := grpT carry, occ := 0, released := true, stages := [⟨0, false⟩], stageTick := some 0, heard := l }
def direct (carry : Nat) (l : List (Nat × Nat × W32 × W32)) : State := (colls0 (grpT carry)).modColl 0 fun c => { c with ops := [dir carry l] }
theorem direct_shaped (carry : Nat) (l : List (Nat × Nat × W32 × W32)) : (direct carry l).shaped := (State.modColl_keeps (Keeps.refl _)).shaped (colls0_shaped _)
theorem test_wit_directBooks : ∀ carry ∈ [0, 1], ∀ l ∈ [[], [(0, 0, f32Zero, f32Zero), (1, 1, f32Zero, f32Zero)]], let s := direct carry l; let o := dir carry l
    (s.part 0).coll.op o.insn = some o ∧ (cgPart o.group o.desc 0 (cgMine o.group 0)).2 ≠ 0 ∧ o.heard.length ≤ cgDim o.group 0 ∧ (∀ h ∈ o.heard, h.2.1 ≤ 1) ∧
    o.expected = o.received + o.late + o.dropped := by decide +kernel

theorem test_wit_directTimeout : let s : State := { direct 1 [] with tick := 1 }; let o := dir 1 []
    (s.part 0).coll.op 5 = some o ∧ o.stages = ⟨0, false⟩ :: [] ∧ o.stageTick = some 0 ∧ o.released = true ∧ o.done = false ∧ cgDirect o.group 0 = true ∧ cgWait o.group = 1 ∧
    cgWait o.group ≤ s.tick - 0 := by decide +kernel
theorem test_wit_flagRoot : let r : RootFlag := ⟨63, 0, 0, [], some 0, false, 0, 0⟩; let s : State := { (colls0 (grpT 0)).modColl 0 fun c => { c with roots := [r] } with tick := 1 }
    s.group 0 63 = some (grpT 0) ∧ cgWait (grpT 0) = 1 ∧ cgFlagMiss (grpT 0) ≠ 0 ∧ ((s.part 0).coll.roots.find? fun r => r.group == 63 && !r.closed &&
      (match r.taken with | some t => cgWait (grpT 0) ≤ s.tick - t | none => false)) = some r ∧ r.taken = some 0 := by decide +kernel
theorem test_wit_decideTimeout : let o : CollOp := { insn := 5, kind := 2, desc := cdf, group := grpT 0, occ := 0, sent := true }
    let s : State := { (colls0 (grpT 0)).modColl 0 fun c => { c with ops := [o] } with tick := 30001 * 100000 }
    (s.part 0).coll.ops.filter (fun o => o.kind == 2 && o.sent && !o.done && s.waitLimit 0 < s.tick - o.releaseTick) = [o] ∧ [o] ≠ [] := by decide +kernel
theorem test_wit_groupCfg : let s : State := { (colls0 (grpT 0)).modRun 0 fun r => { r with holds := [.confirm] } with tick := 30001 * 100000 }
    (s.part 0).run.holds.contains .confirm = true ∧ (s.group 0 63).isSome = true ∧ (s.part 0).coll.confirmed.contains 63 = false ∧ s.waitLimit 0 < s.tick - (s.part 0).coll.confirmFrom := by
  decide +kernel

/-! ## Hall transport -/

/-- A running module 0 with a network identity. -/
def hall : State := networked (runs .reset {} [insn 0 0 0])
theorem hall_shaped : hall.shaped := (State.modNet_keeps (Keeps.refl _) ⟨rfl, rfl, rfl⟩).shaped (shaped_runs _ _)
/-- A packet with its length and CRC set, its source fields as given. -/
def sign (k : HtPkt) : HtPkt := let k := { k with length := k.payload.length }; { k with icrc := htIcrc k }
def wr : HtPkt := { type := 0, srcModule := 1, locator := 1, addr := 65536, payload := List.replicate 64 7#8 }

/-- A packet that passes check 3, and the state and fabric that checks 4 and 5 look at. -/
def voted (s : State) (k : HtPkt) : State := (s.voteRoot k.dstPart).renewChan k.dstPart k
def votedFab (s : State) (k : HtPkt) : Fabric := ((voted s k).part k.dstPart).fab
def passes5 (s : State) (k : HtPkt) : Bool :=
  k.vid == 0 && s.power.pstate != .p3 && s.power.pstate != .p4 && s.hasNet && k.udpOk && k.icrc == htIcrc k && htFormOk k && s.idValid && k.dstModule == s.moduleId && decide (k.dstPart < s.nparts) &&
  (votedFab s k).senderOk (voted s k).moduleId k && k.routeGen == (votedFab s k).genOf (voted s k).moduleId && k.connGen == ((votedFab s k).chan k.srcModule k.srcPart).connGen
/-- The same module with its own entry SPARE. -/
def spareHall : State := hall.modFab 0 fun f => { f with banks := [[(0, ent 3), (1, ent 1)], []] }
def hbk : HtPkt := sign { wr with type := 0x0A, addr := 0, payload := List.replicate 10 0#8 ++ [3#8, 0#8] }

theorem test_wit_checks : passes5 hall (sign wr) = true ∧ (votedFab hall (sign wr)).takes (voted hall (sign wr)).moduleId 0 = true ∧ htReliable 0 = true ∧
    ((votedFab hall (sign wr)).chan 1 0).hasGot 0 = false ∧ psnAhead 0 ((votedFab hall (sign wr)).chan 1 0).cum ≤ 256 ∧
    ¬(unsolBytes (voted hall (sign wr)).nparts < (voted hall (sign wr)).unsolHeld 0 + (sign wr).payload.length) ∧ htReliable 0x0A = false ∧ passes5 hall hbk = true := by decide +kernel
theorem test_wit_checks_spare : passes5 spareHall (sign wr) = true ∧ (votedFab spareHall (sign wr)).takes (voted spareHall (sign wr)).moduleId 0 = false := by decide +kernel
theorem test_wit_checks_twice : let k := sign { wr with psn := 2 ^ 32 - 1 }; passes5 hall k = true ∧ (votedFab hall k).takes (voted hall k).moduleId 0 = true ∧
    ((votedFab hall k).chan 1 0).hasGot k.psn = true := by decide +kernel
theorem test_wit_checks_power : ({ sign wr with vid := 1 }).vid ≠ 0 ∧ ((hall.modPower fun w => { w with pstate := .p3 }).power.pstate = .p3) ∧
    ((hall.modPower fun w => { w with pstate := .p4 }).power.pstate = .p4) := by decide +kernel
theorem test_wit_checks_bad : ({ sign wr with icrc := 0 }).icrc ≠ htIcrc { sign wr with icrc := 0 } ∧ ({ sign wr with udpOk := false }).udpOk = false ∧
    htFormOk (sign { wr with version := 2 }) = false ∧ htFormOk (sign { wr with addr := 65537, payload := List.replicate 4096 0#8 }) = false ∧
    (sign { wr with dstModule := 2 }).dstModule ≠ hall.moduleId ∧ hall.nparts ≤ (sign { wr with dstPart := 1 }).dstPart ∧ hall.idValid = true ∧
    (votedFab hall (sign { wr with locator := 2 })).senderOk hall.moduleId (sign { wr with locator := 2 }) = false ∧
    (votedFab hall (sign { wr with srcModule := 2 })).senderOk hall.moduleId (sign { wr with srcModule := 2 }) = false ∧
    (sign { wr with routeGen := 1 }).routeGen ≠ (votedFab hall (sign wr)).genOf hall.moduleId ∧ (sign { wr with connGen := 1 }).connGen ≠ ((votedFab hall (sign wr)).chan 1 0).connGen := by decide +kernel
/-- Collective data of another module fills the buffer of unsolicited data. -/
def crowded (l : List Byte) : State := hall.modColl 0 fun c => { c with early := [(8, l)] }
theorem test_wit_checks_full (l : List Byte) (h : l.length = 2 ^ 22) : passes5 (crowded l) (sign wr) = true ∧ (votedFab (crowded l) (sign wr)).takes (voted (crowded l) (sign wr)).moduleId 0 = true ∧
    ((votedFab (crowded l) (sign wr)).chan 1 0).hasGot 0 = false ∧ psnAhead 0 ((votedFab (crowded l) (sign wr)).chan 1 0).cum ≤ 256 ∧
    ((votedFab (crowded l) (sign wr)).chan 1 0).unsolicited (sign wr) = true ∧
    unsolBytes (voted (crowded l) (sign wr)).nparts < (voted (crowded l) (sign wr)).unsolHeld 0 + (sign wr).payload.length := by
  have e : voted (crowded l) (sign wr) = crowded l := rfl
  have e2 : votedFab (crowded l) (sign wr) = (hall.part 0).fab := rfl
  have h4 : ((crowded l).part 0).coll.early = [(8, l)] := rfl
  have h5 : (crowded l).moduleId = 0 := rfl
  have h3 : (crowded l).unsolHeld 0 = l.length := by simp [State.unsolHeld, h4, h5, List.filter]
  have h6 : (crowded l).nparts = 1 := (show (crowded l).nparts = hall.nparts from rfl).trans (by decide +kernel)
  have h7 : passes5 (crowded l) (sign wr) = passes5 hall (sign wr) := by
    have e3 : voted hall (sign wr) = hall := rfl
    have e4 : votedFab hall (sign wr) = (hall.part 0).fab := rfl
    unfold passes5
    rw [e, e2, e3, e4]
    rfl
  rw [h7, e, e2, h3, h, h5, h6]
  exact ⟨test_wit_checks.1, by decide +kernel, by decide +kernel, by decide +kernel, by decide +kernel, by decide +kernel⟩
/-- A packet of a type that the transport lets in. -/
theorem gets_of {s : State} {l : List Nat} {k : HtPkt} {p : Nat} (h : (s.receive l k).2 = some p) : s.gets l k p ((s.receive l k).1.bufErrors p k) := ⟨_, got h, rfl⟩

theorem test_wit_write : ∀ n ∈ [1, 4096], ∃ u, let k := pkt { type := 0, addr := 65536, payload := List.replicate n 7#8 }; k.type = 0 ∧ 0 < k.length ∧ hall.gets [0] k 0 u ∧
    u.targetOk 0 k.srcModule k.srcPart k.addr k.length [0, 1, 2, 3] = true := by
  intro n h
  refine ⟨(hall.receive [0] (pkt { type := 0, addr := 65536, payload := List.replicate n 7#8 })).1.bufErrors 0 (pkt { type := 0, addr := 65536, payload := List.replicate n 7#8 }), rfl, ?_, gets_of ?_, ?_⟩ <;> revert h <;> revert n <;> decide +kernel
theorem test_wit_write_out : ∃ u, let k := pkt { type := 0, addr := 2 ^ 43, payload := [7#8] }; k.type = 0 ∧ 0 < k.length ∧ hall.gets [0] k 0 u ∧
    u.targetOk 0 k.srcModule k.srcPart k.addr k.length [0, 1, 2, 3] = false := ⟨_, rfl, by decide +kernel, gets_of (by decide +kernel), by decide +kernel⟩

def rdq (a : Nat) : HtPkt := pkt { type := 1, addr := a, aux := 4096 }
theorem test_wit_read : ∃ u, (rdq 4096).type = 1 ∧ hall.gets [1] (rdq 4096) 0 u ∧ u.targetOk 0 1 0 4096 4096 [0, 1, 2, 3] = true := ⟨_, rfl, gets_of (by decide +kernel), by decide +kernel⟩
theorem test_wit_read_out : ∃ u, (rdq (2 ^ 43)).type = 1 ∧ hall.gets [1] (rdq (2 ^ 43)) 0 u ∧ u.targetOk 0 1 0 (2 ^ 43) 4096 [0, 1, 2, 3] = false :=
  ⟨_, rfl, gets_of (by decide +kernel), by decide +kernel⟩
theorem test_wit_atomics : ∀ op ∈ [0, 1, 2], ∃ u, let k := pkt { type := 3, op := op, addr := 65536, payload := List.replicate 16 255#8 }; k.op = op ∧ hall.gets [3] k 0 u ∧ k.addr % 8 = 0 ∧
    u.targetOk 0 k.srcModule k.srcPart k.addr 8 [0, 1, 2] = true ∧ u.marked (gLocal k.addr) 8 = false ∧ k.bufBad = [] := by
  intro op h
  refine ⟨(hall.receive [3] (pkt { type := 3, op := op, addr := 65536, payload := List.replicate 16 255#8 })).1.bufErrors 0 (pkt { type := 3, op := op, addr := 65536, payload := List.replicate 16 255#8 }), rfl, gets_of ?_, ?_⟩ <;> revert h <;> revert op <;> decide +kernel

/-- A channel with one packet outstanding, or with a grant issued. -/
def txo (t aux : Nat) (o : Owner) : TxPkt := { pkt := { type := t, aux := aux, dstModule := 1 }, attempts := 0, plane := 0, deadline := 100, owner := o }
def tx (t aux : Nat) : TxPkt := txo t aux .none
def chans (c : Chan) : State := hall.modFab 0 fun f => { f with chans := [c] }
def acks (n : Nat) : HtPkt := pkt { type := 5, payload := leBytes 16 n }
theorem test_wit_ack : ∀ n ∈ [0, 1], ∃ u, (acks n).type = 5 ∧ (chans { mod := 1, part := 0, out := [tx 0 0] }).gets [5] (acks n) 0 u ∧
    (((u.part 0).fab.chan 1 0).out.filter (ackCovers (leNat ((acks n).payload.take 4)) (leNat (((acks n).payload.drop 4).take 8)))).isEmpty = (n == 0) := by
  intro n h
  refine ⟨((chans { mod := 1, part := 0, out := [tx 0 0] }).receive [5] (acks n)).1.bufErrors 0 (acks n), rfl, gets_of ?_, ?_⟩ <;> revert h <;> revert n <;> decide +kernel
theorem test_wit_atomicResp : ∀ slag ∈ [false, true], ∃ u, let k := pkt { type := 4, slag := slag, payload := List.replicate 8 0#8 }; k.slag = slag ∧
    (chans { mod := 1, part := 0, out := [txo 3 0 (.roundAdd 2)] }).gets [4] k 0 u ∧ ((u.part 0).fab.chan 1 0).outAt 3 k.psn = some (txo 3 0 (.roundAdd 2)) := by
  intro b h
  refine ⟨((chans { mod := 1, part := 0, out := [txo 3 0 (.roundAdd 2)] }).receive [4] (pkt { type := 4, slag := b, payload := List.replicate 8 0#8 })).1.bufErrors 0
    (pkt { type := 4, slag := b, payload := List.replicate 8 0#8 }), rfl, gets_of ?_, ?_⟩ <;> revert h <;> revert b <;> decide +kernel
/-- The state after the answer to a read, the partition held for gathers or not. -/
def reads (l : List Hold) : State := (chans { mod := 1, part := 0, out := [tx 1 64] }).modRun 0 fun r => { r with holds := l }
def resp : HtPkt := pkt { type := 2, payload := List.replicate 64 0#8 }
theorem test_wit_readResp : ∀ l ∈ [[], [Hold.gather], [Hold.gather, Hold.rollback]], ∃ u, (reads l).gets [2] resp 0 u ∧ (u.part 0).restore = none ∧
    ((u.part 0).fab.chan 1 0).outAt 1 resp.psn = some (tx 1 64) ∧
    (let t := ((((u.modFab 0 fun f => f.dropOut 1 0 (tx 1 64)).landRead 0 (tx 1 64).owner (padTo 64 0#8 (resp.payload.take 64)) (senderMarks (senderOf resp) 0 64))).serveGrants 0).pump 0 1 0
     decide ((t.part 0).run.holds.contains .gather = true ∧ (t.part 0).run.holds.contains .rollback = false) = (l == [.gather])) := by
  intro l h
  refine ⟨((reads l).receive [2] resp).1.bufErrors 0 resp, gets_of ?_, ?_⟩ <;> revert h <;> revert l <;> decide +kernel
theorem test_wit_grants : ∀ t ∈ [7, 8], ∃ u, let k := pkt { type := t, aux := 16384 }; k.type = t ∧ hall.gets [t] k 0 u := by
  intro t h
  refine ⟨(hall.receive [t] (pkt { type := t, aux := 16384 })).1.bufErrors 0 (pkt { type := t, aux := 16384 }), rfl, gets_of ?_⟩
  revert h; revert t; decide +kernel
theorem test_wit_returnGrant : ∃ u, let k := pkt { type := 9, aux := 1 }; (chans { mod := 1, part := 0, issued := 64 }).gets [9] k 0 u ∧ 64 * k.aux ≤ ((u.part 0).fab.chan 1 0).issued :=
  ⟨_, gets_of (by decide +kernel), by decide +kernel⟩

theorem test_wit_hallTimers : let s : State := { chans { mod := 1, part := 0, oldest := some 0, grant := 64, out := [tx 0 0] } with tick := 10000 }
    ((s.part 0).fab.chan 1 0).oldest = some 0 ∧ 0 + ticksUs 2 ≤ s.tick ∧ 0 < ((s.part 0).fab.chan 1 0).grant ∧ ((s.part 0).fab.chan 1 0).grantTick + ticksUs 100 ≤ s.tick ∧
    (((s.part 0).fab.chan 1 0).out.find? fun y => y.pkt.psn == 0) = some (tx 0 0) ∧ (tx 0 0).deadline ≤ s.tick ∧
    (tx 0 0).attempts < ((s.part 0).fab.planeTimeout s.moduleId 1 (tx 0 0).plane).retryMax ∧ 0 < s.parts.length := by decide +kernel
/-- A packet that has been sent as often as it may, with a job (the module is declared lost) or without. -/
def spent (s : State) : State := { s.modFab 0 fun f => { f with chans := [{ mod := 1, part := 0, out := [{ tx 0 0 with attempts := 8 }] }] } with tick := 10000 }
theorem test_wit_packetTimeout_lost : ∀ b ∈ [false, true], let s := spent (if b then hall else networked (routed .reset 1 1)); let x := { tx 0 0 with attempts := 8 }
    let f := (s.part 0).fab; let t := (s.modFab 0 fun f => f.planeTimeout s.moduleId 1 x.plane).declareLost 0 1
    ((f.chan 1 0).out.find? fun y => y.pkt.psn == 0) = some x ∧ x.deadline ≤ s.tick ∧ (f.planeTimeout s.moduleId 1 x.plane).retryMax ≤ x.attempts ∧ 0 < s.parts.length ∧
    ((t.part 0).fab.chan 1 0).out.contains x = !b := by decide +kernel
/-- Module 1 heard last at tick 0, five intervals ago. -/
def silent : State := { hall.modFab 0 fun f => { f with heardAt := [(1, 7, 0)], rolling := true, lostList := [1] } with tick := ticksSec 10 }
theorem test_wit_watch : (silent.part 0).job.isSome = true ∧ (silent.part 0).fab.hbTick + (silent.part 0).fab.hbTicks ≤ silent.tick ∧ (silent.part 0).fab.heard 1 7 = some 0 ∧
    ((silent.part 0).fab.watched silent.moduleId) = [1] ∧ 0 + 3 * (silent.part 0).fab.hbTicks ≤ silent.tick ∧ (silent.part 0).fab.silent silent.tick 1 5 = true ∧
    (silent.part 0).fab.rolling = true ∧ silent.isCoordinator 0 = true ∧ (silent.part 0).fab.lossTick + ticksSec 10 ≤ silent.tick := by decide +kernel
theorem test_wit_links : let up := hall.modPort 7 fun y => y.modSub 0 fun z => { z with up := true }; ((up.port 7).sub 0).up = true ∧ hall.mayTrain 7 0 = true ∧
    (let s : State := { hall.modPort 7 fun y => y.modSub 0 fun z => { z with heldAt := some 0 } with tick := ticksSec 2 }
     ((s.port 7).sub 0).heldAt = some 0 ∧ 0 + ticksSec 2 ≤ s.tick) := by decide +kernel

/-- Island packets: a heartbeat, and CONTROL of each op. -/
def ctlPkt (op : Nat) (b : List Byte) : HtPkt := pkt { type := 0x0B, op := op, payload := b }
theorem test_wit_heartbeat : ∃ u, let k := pkt { type := 0x0A, payload := List.replicate 10 0#8 ++ [3#8, 0#8] }; k.type = 0x0A ∧ hall.gets [0x0A] k 0 u ∧ (k.payload.getD 10 0#8).toNat ≠ 0x80 :=
  ⟨_, rfl, gets_of (by decide +kernel), by decide +kernel⟩
theorem test_wit_control : ∀ x ∈ [(0, idBytes [2]), (2, leBytes 4 2), (3, routeUpdBytes 2 1 5 3), (4, []), (5, []), (6, [])], ∃ u, (ctlPkt x.1 x.2).op = x.1 ∧ (ctlPkt x.1 x.2).payload = x.2 ∧
    hall.gets [0x0B] (ctlPkt x.1 x.2) 0 u ∧ (u.part 0).job.isSome = true ∧ (u.part 0).fab.assuming = none := by
  intro x h
  refine ⟨(hall.receive [0x0B] (ctlPkt x.1 x.2)).1, rfl, rfl, gets_of ?_, ?_⟩ <;> revert h <;> revert x <;> decide +kernel
/-- The member hears the coordinator, module 0, as module 1. -/
theorem test_wit_rollback : ∃ u, let s : State := { hall with moduleId := 1 }; let k := sign { type := 0x0B, op := 1, srcModule := 0, dstModule := 1, locator := 1, payload := leBytes 4 3 ++ idBytes [2] }
    s.gets [0x0B] k 0 u ∧ k.payload = leBytes 4 3 ++ idBytes [2] ∧ (u.part 0).fab.coordinator = some 0 ∧ k.srcModule ≤ 0 := ⟨_, gets_of (by decide +kernel), by decide +kernel⟩

theorem test_wit_reroute : let f := (hall.part 0).fab; f.banks.length = 2 ∧ f.maps.length = 2 ∧ f.entry 0 = some (0, ent 1) ∧ f.entry 1 = some (1, ent 1) ∧ 65535 < 65536 := by decide +kernel

theorem test_wit_window : (let c : Chan := { mod := 1, part := 0, win := 64, grant := 64 }; c.win ≤ 64 ∧ c.out.length ≤ c.win ∧ c.canSend { type := 0x0B } = true ∧ ({ c with out := [tx 0 0] } : Chan).canSend { type := 0x0B } = true ∧ 8 ≤ c.win ∧ c.win ≤ c.clean + 64) ∧
    (let c : Chan := { mod := 1, part := 0, win := 8, halved := 1 }; c.halved ≠ 0 ∧ ticksUs 16 < c.halved + ticksUs 16 ∧ c.halved + ticksUs 16 ≤ 1601 ∧ c.clean + 7 < c.win) := by decide +kernel
/-- A queue of hall data behind transport control, and one of hall data alone. -/
def eg (c n : Nat) : Egr := { cls := c, part := some 0, sub := 0, bytes := n, heads := {}, frame := .hall 1 {} }
theorem test_wit_egress : ∀ l ∈ [[eg 1 200, eg 0 60], [eg 1 200, eg 2 60], [eg 3 60]], let k : Sub := { queue := l }; k.queue ≠ [] ∧ (k.pick [8, 4, 0]).isSome = true := by decide +kernel

/-! ## The host path -/

/-- Queue pairs 0 (the device's) and 1 (partition 0's) connected. -/
def hosted : State := hosts (networked .reset)
theorem test_wit_host : hosted.connected 0 = true ∧ hosted.connected 1 = true ∧ hosted.mbxOpen (hosted.qp 0) 3 = true ∧ hosted.mbxOpen (hosted.qp 1) 4 = true ∧ hosted.mbxOpen (hosted.qp 1) 3 = false ∧
    plainRange 4 60 = true ∧ plainRange 0 4 = false ∧ hosted.rangeOpen 0 true 4 60 = true ∧ hosted.rangeOpen 1 true 0x1200000 4 = false ∧
    hosted.rangeOpen 0 false 0x1000000 64 = true ∧ hosted.marked (localAddr 4 0x1000000) 64 = false ∧ (hosted.qp 0).cnpTick + ticksUs 50 ≤ ticksUs 50 := by decide +kernel
theorem test_wit_host_aperture : let s := hosted.modPart 0 fun q => { q with aperture := some (2 ^ 21) }; s.connected 1 = true ∧ (s.qp 1).dev = false ∧ (s.qp 1).part = 0 ∧ 0x1FFFC0 + 64 ≤ 0x200000 ∧
    (s.part 0).aperture = some (2 ^ 21) ∧ s.reach 0 (2 ^ 21 + 0x1FFFC0) 64 [0, 1, 2] = true := by decide +kernel
theorem test_wit_host_connect : let s := networked .reset; s.hasNet = true ∧ (s.qp 63).st ≠ 1 ∧ s.power.pstate ≠ .p4 := by decide +kernel
/-- A request for the device, and one for partition 0, from an allowed source with room, at each path MTU; a reset module allows no source. -/
theorem test_wit_host_connects : let s : State := (networked .reset).modNet fun n => { n with allow := [(2 ^ 127, 64)] }; let n : Net := { s.net with qps := updAt s.net.qps 63 fun _ => {} }
    s.hasNet = true ∧ (s.qp 63).st ≠ 1 ∧ s.power.pstate ≠ .p4 ∧ (∃ e ∈ s.net.allow, allowMatch (2 ^ 127) e = true) ∧ n.bound true 0 < 4 ∧ s.hasPart 0 = true ∧ n.bound false 0 < 60 / s.nparts ∧
    (∀ m ∈ [256, 4096], m ∈ [256, 512, 1024, 2048, 4096]) ∧ 128 ∉ [256, 512, 1024, 2048, 4096] ∧ ¬(∃ e ∈ (networked .reset).net.allow, allowMatch 0 e = true) := by decide +kernel

/-- A mailbox in a state of its ownership word. -/
def owned (v op : Nat) : State := (box .reset 63 op 0 0 []).put4 (mbxBase 63) [BitVec.ofNat 8 v]
theorem test_wit_owner : (owned 0 0x101).own 63 = 0 ∧ (owned 3 0x101).own 63 = 3 ∧ opcodes.contains (mhOpcode ((owned 3 0x101).mbxHdr 63)) = true ∧
    opcodes.contains (mhOpcode ((owned 0 0x105).mbxHdr 63)) = false ∧ (owned 0 0x105).mbxMarked 63 = false ∧ (owned 1 0x101).smithHas 63 = true ∧
    ({ owned 0 0x101 with smithOwns := [] } : State).smithHas 63 = false ∧ 0x4000 - 1 + [7#8].length ≤ 0x4000 := by decide +kernel

/-! ## Outer rounds -/

/-- A state word of a key slot: state, direction, pair. -/
def kword (st dir pair : Nat) : Nat := pack [(3, st), (2, 0), (2, dir), (9, pair), (32, 0)]
/-- Module 0 speaks for slab 0 of island 0 and exchanges with island 1; round 1 is open, and the term of round 0 is staged. -/
def outer (g : Outer → Outer) : State :=
  let s := hall.modPort 0 fun y => y.modSub 0 fun z => { z with up := true }
  let s := s.modCipher fun c => (c.modSlot 0 fun _ => { words := copies3 (kword 1 0 1), limit := 1000 }).modSlot 2 fun _ => { words := copies3 (kword 1 1 3), limit := 1000 }
  let s := s.modRun 0 fun r => { r with round := 1 }
  (s.modOuter 0 fun _ => g { cfg := some rcfg, islands := [islOwn, isl 1], slabs := [{ desc := slab }] }).setProgress 0 0 (progressWord 0 1)
def outer0 : State := outer id
theorem test_wit_outerSend : let o := (outer0.part 0).outer; let x : SlabSt := { desc := slab }; let r := (outer0.part 0).run.openRound
    o.cfg = some rcfg ∧ o.island_ 1 = some (1, isl 1) ∧ o.slabIx 0 = some 0 ∧ o.slabs[0]? = some x ∧ 1 ≠ rcOwn rcfg ∧ oiEnabled (isl 1) = true ∧ osSpeaker x.desc = true ∧ outer0.feeds 0 = true ∧
    0 < slabSegs (rcFmt rcfg) (osCount x.desc) ∧ outer0.speaker (isl 1) 0 = (0, 0) ∧
    (o.outs.filter fun y => y.isl == 1 && outer0.speaker (isl 1) y.slab == (0, 0)).length < (o.dest 1 0 0).win ∧
    (([r - 2, r - 1].eraseDups.filter fun k => k + 1 ≤ r).find? fun k => outer0.staged rcfg 0 x k && jpRound0 (outer0.params 0) ≤ k && oiFirst (isl 1) ≤ k + 1 &&
        !(o.outs.any fun y => y.isl == 1 && y.slab == 0 && y.round == k && y.seg == 0) && !o.acked.contains (1, 0, k, 0)) = some 0 := by decide +kernel
theorem test_wit_outerSend_data : ∃ u n, (outer0.meet [(outer0.part 0).outer.segRange 0 0 0 { desc := slab }] ⟨[], []⟩).dataSegment 0 0 (isl 1) 0 0 0 0 { desc := slab } = (u, some n) :=
  ⟨_, 0, Prod.ext rfl (by decide +kernel)⟩

/-- A segment of island 1 with the tag that its key gives. -/
def tagged (key : List Byte) (y : OuterSeg) : OuterSeg :=
  { y with tag := toBytes (gcmTag (roundKeys (toNats key)) (beOf (toNats (gcmIv y.srcModule y.srcPart y.keyEpoch y.sendCtr)) * 2 ^ 32 + 1) (toNats (leBytes 48 (ohHeader y))) (toNats y.cipher)) }
theorem opens (key : List Byte) (y : OuterSeg) : ∃ b, gcmOpenBytes key (gcmIv y.srcModule y.srcPart y.keyEpoch y.sendCtr) (leBytes 48 (ohHeader (tagged key y))) y.cipher (tagged key y).tag = some b :=
  ⟨_, if_pos rfl⟩
/-- A segment that passes the checks of R247 under a key that opens it. -/
theorem outerReceive_of {s : State} {type : Nat} {x : OuterSeg} {c t e k : Nat} {b : List Byte}
    (h : s.hasNet = true ∧ x.type = type ∧ x.vid = 0 ∧ x.udpOk = true ∧ outerFormOk x = true ∧ s.outerShapeOk x = true ∧ (s.part x.dstPart).outer.cfg = some c ∧ x.dstIsland = rcIsland c ∧ x.dstModule = s.moduleId ∧ s.idValid = true ∧
      x.dstPart < s.nparts ∧ (s.part x.dstPart).outer.island_ x.srcIsland = some (t, e) ∧ t ≠ rcOwn c ∧ oiEnabled e = true ∧ oiBase e ≤ x.srcModule ∧ x.srcModule < oiBase e + oiCount e ∧
      s.rxSlot (s.part x.dstPart).outer e x.keyEpoch = some k ∧ ceilDiv x.cipher.length 16 + 1 ≤ (s.slot k).remaining ∧ (s.coresOf x.dstPart).isEmpty = false ∧
      ((s.part x.dstPart).outer.dest x.srcIsland x.srcModule x.srcPart).gen = x.assumeGen ∧ (s.part x.dstPart).outer.mute.contains x.srcIsland = false)
    (g : gcmOpenBytes (s.slot k).gcmKey (gcmIv x.srcModule x.srcPart x.keyEpoch x.sendCtr) (leBytes 48 (ohHeader x)) x.cipher x.tag = some b) :
    s.outerReceive type x = (s.modCipher fun y => y.modSlot k fun a => a.charge (ceilDiv x.cipher.length 16 + 1), some ⟨x.dstPart, e, k, b⟩) := by
  obtain ⟨h1, h2, h20, h3, h4, h21, h5, h6, h7, h8, h9, h10, h11, h12, h13, h14, h15, h16, h17, h18, h19⟩ := h
  unfold State.outerReceive
  rw [if_neg (by simp [h1, h2]), if_neg (by simp [h20]), if_neg (by simp [h3]), if_neg (by simp [h4, h21])]
  simp only [h5]
  rw [if_neg (by simp [h6, h7, h8]; omega)]
  simp only [h10]
  rw [if_neg (by simp [h11, h12]; omega)]
  simp only [h15]
  rw [if_neg (by simp [h17]; omega)]
  simp only [g, h18]
  rw [if_neg (by omega)]
  simp only [Nat.lt_irrefl, decide_false, Bool.false_eq_true, if_false]
  rw [if_neg (by rw [h19]; simp)]

/-- The segment of each type: DATA of one block, ACK, PROBE, HELLO. -/
def oseg (type : Nat) : OuterSeg := tagged ((outer0.slot 2).gcmKey) { type := type, srcIsland := 1, last := type == 0, blockCount := b01 (type == 0), cipher := List.replicate ([260, 44, 0, 12].getD type 0) 0#8 }
theorem oseg_ok : ∀ t ∈ [0, 1, 2, 3], outerFormOk (oseg t) = true := by decide +kernel
theorem oseg_use : ∀ t ∈ [0, 1, 2, 3], ceilDiv (oseg t).cipher.length 16 + 1 ≤ (outer0.slot 2).remaining := by decide +kernel
theorem oseg_shape : ∀ t ∈ [0, 1, 2, 3], outer0.outerShapeOk (oseg t) = true := by decide +kernel
theorem heard0 : ∀ t ∈ [0, 1, 2, 3], ∃ u v, outer0.outerReceive t (oseg t) = (u, some v) ∧ u = outer0.modCipher (fun y => y.modSlot 2 fun a => a.charge (ceilDiv (oseg t).cipher.length 16 + 1)) ∧
    v.p = 0 ∧ v.e = isl 1 := by
  intro t h
  obtain ⟨b, g⟩ := opens (outer0.slot 2).gcmKey { type := t, srcIsland := 1, last := t == 0, blockCount := b01 (t == 0), cipher := List.replicate ([260, 44, 0, 12].getD t 0) 0#8 }
  have k := outerReceive_of (s := outer0) (type := t) (x := oseg t) (c := rcfg) (t := 1) (e := isl 1) (k := 2) (b := b)
    ⟨by decide +kernel, rfl, rfl, rfl, oseg_ok t h, oseg_shape t h, by show (outer0.part 0).outer.cfg = _; decide +kernel, by show 0 = rcIsland rcfg; decide +kernel, by show 0 = outer0.moduleId; decide +kernel,
     by decide +kernel, by show 0 < outer0.nparts; decide +kernel, by show (outer0.part 0).outer.island_ 1 = _; decide +kernel, by decide +kernel, by decide +kernel,
     by show oiBase (isl 1) ≤ 0; decide +kernel, by show 0 < oiBase (isl 1) + _; decide +kernel, by show outer0.rxSlot (outer0.part 0).outer (isl 1) 0 = some 2; decide +kernel,
     oseg_use t h,
     by show (outer0.coresOf 0).isEmpty = false; decide +kernel, by show ((outer0.part 0).outer.dest 1 0 0).gen = 0; decide +kernel, by show (outer0.part 0).outer.mute.contains 1 = false; decide +kernel⟩ g
  exact ⟨_, _, k, rfl, rfl, rfl⟩
/-- What the clauses for received segments ask for besides, of each type. -/
theorem test_wit_outerReceive : ∀ t ∈ [0, 1, 2, 3], ∃ u v, outer0.outerReceive t (oseg t) = (u, some v) ∧ u.holdsRound v.p (oseg t).round = true := by
  intro t h
  obtain ⟨u, v, k, rfl, hp, -⟩ := heard0 t h
  refine ⟨_, _, k, ?_⟩
  rw [hp]
  show outer0.holdsRound 0 0 = true
  decide +kernel
theorem test_wit_outerData : ∃ u v, outer0.outerReceive 0 (oseg 0) = (u, some v) ∧ let sl : SlabSt := { desc := slab }
    (u.part v.p).outer.cfg = some rcfg ∧ (u.part v.p).outer.slabIx (oseg 0).slab = some 0 ∧ (u.part v.p).outer.slabs[0]? = some sl ∧
    u.speaker v.e (oseg 0).slab = ((oseg 0).srcModule, (oseg 0).srcPart) ∧ osSpeaker sl.desc = true ∧ oiFirst v.e ≤ (oseg 0).round ∧ (u.part v.p).outer.rxs = [] := by
  obtain ⟨u, v, k, rfl, hp, he⟩ := heard0 0 (by decide)
  refine ⟨_, _, k, ?_⟩
  rw [hp, he]
  decide +kernel

/-- A state for the timers. -/
def outerT (g : Outer → Outer) (tick : Nat) : State := { outer g with tick := tick }
def rx1 : OuterRx := { isl := 1, mod := 0, part := 0, slab := 0, round := 0, unacked := 1, oldest := some 0 }
theorem test_wit_outerAckTimer : let s := outerT (fun o => { o with rxs := [rx1] }) (ticksMs 1)
    ((s.part 0).outer.rxs.find? fun y => y.mod == 0 && y.slab == 0 && y.round == 0 && y.oldest.isSome) = some rx1 ∧ rx1.oldest = some 0 ∧ (s.part 0).outer.island_ rx1.isl = some (1, isl 1) ∧
    0 + ticksMs 1 ≤ s.tick := by decide +kernel
def osg : OutSeg := { isl := 1, slab := 0, round := 0, seg := 0, first := 0, last := 0, timer := 5, rto := 5, laterAck := some 0 }
theorem test_wit_outerTimers : let s := outerT (fun o => { o with outs := [osg] }) (ticksSec 1)
    ((s.part 0).outer.outs.find? fun y => y.isl == 1 && y.slab == 0 && y.round == 0 && y.seg == 0) = some osg ∧ (s.part 0).outer.island_ 1 = some (1, isl 1) ∧ osg.laterAck = some 0 ∧
    s.speaker (isl 1) 0 = (0, 0) ∧ 0 + ((s.part 0).outer.dest 1 0 0).reo ≤ s.tick ∧ osg.timer ≤ s.tick := by decide +kernel
theorem test_wit_outerProbe : ∃ u n, let s := outerT (fun o => { o with outs := [osg] }) (ticksSec 1); s.sendOuter 0 (isl 1) (s.speaker (isl 1) 0).1 (s.speaker (isl 1) 0).2
    { type := 2, fmt := rcFmt ((s.part 0).outer.cfg.getD 0), round := 0, slab := 0, segIndex := 0 } [] = (u, some n) := ⟨_, 0, Prod.ext rfl (by decide +kernel)⟩
theorem test_wit_hello : let o := (outer0.part 0).outer; o.cfg = some rcfg ∧ o.island_ 1 = some (1, isl 1) ∧ o.slabIx 0 = some 0 ∧ 1 ≠ rcOwn rcfg ∧ oiEnabled (isl 1) = true ∧
    ((o.slabs[0]?).any fun x => osSpeaker x.desc) = true ∧ (o.dest 1 (outer0.speaker (isl 1) 0).1 (outer0.speaker (isl 1) 0).2).helloAt = none := by decide +kernel
theorem test_wit_grace : let s := outerT (fun o => { o with grace := [(1, 0, 64, 2)] }) (ticksMs 1); ((s.part 0).outer.grace.find? fun g => g.1 == 1) = some (1, 0, 64, 2) ∧
    0 + (s.part 0).outer.srttTo 1 ≤ s.tick := by decide +kernel
/-- Slab 0 sealed for round 0, with holds at action 8. -/
def sealed_ (l : List Hold) : State := { (outer fun o => { o with slabs := [{ desc := slab, seals := [mkSeal 0 0 3 0 f32One] }] }).modRun 0 fun r => { r with holds := l, atAction8 := true } with
  tick := ticksSec 10 }
theorem test_wit_roundWord : let s := sealed_ []; (s.part 0).outer.cfg = some rcfg ∧ (s.part 0).fenced = false ∧ 0 + 1 = (s.part 0).run.openRound ∧ (s.part 0).outer.added.contains 0 = false ∧
    (s.part 0).outer.allSealed 0 = true ∧ s.wordPlace 0 0 = some (s.wordAt 0 rcfg 0) ∧ s.ownRange 0 (s.wordAt 0 rcfg 0) 8 [1, 2] = true ∧ s.marked (gLocal (s.wordAt 0 rcfg 0)) 8 = false ∧ 0 < s.parts.length := by decide +kernel
theorem test_wit_roundPoll : let s := sealed_ [.roundWord]; (s.part 0).run.holds.contains .roundWord = true ∧ (s.part 0).fenced = false ∧
    s.wordPlace 0 (s.part 0).run.waitRound = some (s.wordAt 0 rcfg (s.part 0).run.waitRound) ∧ s.ownRange 0 (s.wordAt 0 rcfg (s.part 0).run.waitRound) 8 [1, 2] = true ∧
    s.isCoordinator 0 = true ∧ (s.part 0).run.holdTick + ticksSec 10 ≤ s.tick := by decide +kernel

/-! ## The cipher engine -/

/-- A request of an op on the last slot of the module, of 4 KiB. -/
def creq (op cls : Nat) : Nat := pack [(64, 65536), (64, 69632), (64, if op ≤ 1 then 73728 else 0), (64, if op ≤ 1 then 77824 else 0), (128, 0), (16, 4096), (8, if op ≤ 1 then 48 else 0), (9, 511), (3, op), (2, cls), (2, 0), (2, 0),
  (16, 7), (11, 0), (1, 0), (58, 0)]
/-- The last slot holds a key for an op. -/
def slotted (op : Nat) : State := State.reset.modCipher fun c => c.modSlot 511 fun _ => { words := copies3 (pack [(3, 1), (2, op / 2), (2, op % 2), (9, 511), (32, 0)]), key := 9, limit := 257 }
theorem test_wit_cipher_ok : ∀ op ∈ [0, 1, 2, 3], let s := slotted op; cqOp (creq op 0) = op ∧ s.reqOk (creq op 0) = true ∧ s.cipher.room s.nparts (cqPart (creq op 0)) (cqReq (creq op 0)) = true ∧
    (s.part (cqPart (creq op 0))).fenced = false ∧ 0 < s.cipher.free ∧ s.cipher.book = true := by decide +kernel
/-- The request fills its unit's share of the queue; its partition is fenced. -/
theorem test_wit_cipher_held : ∀ op ∈ [0, 1, 2, 3], let s := (slotted op).modCipher fun c => { c with free := 0, queue := List.replicate 128 { raw := creq op 0, queued := 0, cls := 0 } }
    s.reqOk (creq op 0) = true ∧ (s.part (cqPart (creq op 0))).fenced = false ∧ s.cipher.room s.nparts (cqPart (creq op 0)) (cqReq (creq op 0)) = false := by decide +kernel
theorem test_wit_cipher_fenced : ∀ op ∈ [0, 1, 2, 3], let s := (slotted op).modPart 0 fun q => { q with fenced := true }
    s.reqOk (creq op 0) = true ∧ (s.part (cqPart (creq op 0))).fenced = true := by decide +kernel
theorem test_wit_keyFault_readBack : (State.reset.slot 511).state = 0 ∧ ((State.reset.modCipher fun c => c.modSlot 511 fun _ => Slot.faulted).slot 511).state = 4 := by decide +kernel
theorem test_wit_cipher_bad : ∀ op ∈ [0, 1, 2, 3], cqOp (creq op 0 + 1) = op ∧ (slotted op).reqOk (creq op 0 + 1) = false := by decide +kernel
def waiting (op : Nat) (tick : Nat) : State := { (slotted op).modCipher fun c => { c with free := 127, queue := [{ raw := creq op 2, queued := 0, cls := 2 }] } with tick := tick }
theorem test_wit_cipher_start : let s := waiting 0 0; s.power.pstate ≠ .p3 ∧ s.cipher.nextReq 0 = some (0, { raw := creq 0 2, queued := 0, cls := 2 }) ∧ s.coreLeft 0 = true ∧
    ((s.coresOf 0).filter fun k => (s.cipher.cores.getD k {}).run.isNone) = 0 :: (List.range' 1 15) ∧ cqPart (creq 0 2) = 0 ∧ ticksMs 1 ≤ (waiting 0 100000).tick - 0 := by decide +kernel
/-- A request of one block in core 15, its slot in a state; where `b` holds, the tag that its key gives is stored. -/
def run1 (op : Nat) : CReq := { raw := pack [(64, 65536), (64, 69632), (64, 73728), (64, 77824), (128, 0), (16, 16), (8, 0), (9, 511), (3, op), (92, 0)], queued := 0, cls := 0, slot := some 511, ctr := some 0 }
def running (op st : Nat) (b : Bool) : State :=
  let s := State.reset.modCipher fun c => { c.modSlot 511 fun _ => { words := copies3 (pack [(3, st), (2, op / 2), (2, op % 2), (9, 511), (32, 0)]), key := 9, limit := 257 } with
    cores := updAt c.cores 15 fun k => { k with run := some (run1 op) } }
  if b then s.store (gLocal (cqTag (run1 op).raw)) (toBytes (gcmTag (roundKeys (toNats (leBytes 32 9))) 1 [] (toNats (List.replicate 16 0#8)))) false else s
theorem test_wit_cipher_done : ∀ op ∈ [0, 2, 3], (((running op 1 false).cipher.cores.getD 15 {}).run = some (run1 op)) ∧ cqOp (run1 op).raw = op ∧
    ((running op 1 false).slot 511).state ≠ 0 ∧ ((running op 1 false).slot 511).state ≠ 4 ∧ ((running op 0 false).slot 511).state = 0 ∧ ((running op 4 false).slot 511).state = 4 := by decide +kernel
theorem test_wit_cipher_open : ∀ b ∈ [false, true], let s := running 1 1 b; let r := (run1 1).raw; (s.cipher.cores.getD 15 {}).run = some (run1 1) ∧ cqOp r = 1 ∧ (s.slot 511).state ≠ 0 ∧ (s.slot 511).state ≠ 4 ∧
    (gcmOpenBytes (s.slot 511).gcmKey (beBytes 12 (bits (cqIv r) 127 32)) (s.load (gLocal (cqAad r)) (cqAadLen r)) (s.load (gLocal (cqSrc r)) (cqLen r)) (s.load (gLocal (cqTag r)) 16)).isSome = b := by
  decide +kernel
theorem test_wit_offer : let o : Nat × Nat × Nat × Nat := (1, 511, 3, 0); let s : State := { State.reset.modPart 0 fun q => { q with offers := [o] } with tick := ticksSec 600 }
    o ∈ (s.part 0).offers ∧ o.1 = 1 ∧ o.2.2.2 + ticksSec 600 ≤ s.tick := by decide +kernel
theorem test_wit_nonce : let s : State := { State.reset.modSec fun x => { x with nonce := some (9, 0) } with tick := ticksSec 60 }; s.sec.nonce = some (9, 0) ∧ 0 + ticksSec 60 ≤ s.tick := by decide +kernel
theorem test_wit_fill_done : (State.reset.modSec fun x => { x with fill := some true }).sec.fill.isSome = true := by decide +kernel
/-- A request of 257 blocks of use bound on a slot with exactly that left, and on one that keeps enough for the smallest request. -/
theorem test_wit_bind : ∀ n ∈ [257, 259], ∃ r, let c := ((slotted 0).cipher).modSlot 511 fun a => { a with limit := n }; let x : CReq := { raw := creq 0 0, queued := 0, cls := 0 }; x.slot = none ∧
    (if cqCur x.raw then c.current (cqSlot x.raw) else some (cqSlot x.raw)) = some 511 ∧ c.bind x = .inr r ∧ 511 < c.slots.length ∧ cqUse x.raw = 257 ∧ 0 < cqUse x.raw ∧ cqOp x.raw = 0 ∧
    ((r.1.slots.getD 511 {}).limit - (r.1.slots.getD 511 {}).used < 2) = (n = 257) := by
  intro n h
  refine ⟨(((slotted 0).cipher.modSlot 511 fun a => { a with limit := n }).modSlot 511 fun a => { a.charge 257 with sendCtr := (a.sendCtr + 1) % 2 ^ 64 },
    { raw := creq 0 0, queued := 0, cls := 0, slot := some 511, ctr := some 0 }), ?_⟩
  revert h; revert n; decide +kernel
theorem test_wit_keyLength : (List.replicate 32 0#8).length = 32 := by decide

/-! ## SPDM and the sideband -/

def msg (c : Nat) : List Byte := [0x13#8, BitVec.ofNat 8 c, 0#8, 0#8]
/-- Algorithms negotiated, and `n` sessions. -/
def agreed (n : Nat) : Sec := { State.reset.sec with negotiated := true, sessions := List.replicate n ⟨1, .sideband, 5, true⟩ }
theorem test_wit_spdm : State.reset.power.standby = true ∧ State.reset.smithUp = true ∧
    (∀ c ∈ [0x84, 0xE1, 0xE3, 0x81, 0x82, 0x83, 0xE0, 0xE4, 0xE5, 0xE8, 0xEC], let x := agreed 0; x.unwrapMsg (msg c) = (none, msg c) ∧ argNat (msg c) 0 1 = 0x13 ∧ rqCode (msg c) = c ∧
      x.answers c = true ∧ x.negotiated = true ∧ x.sessions.length < 8 ∧ argNat (msg c) 2 1 = 0 ∧ argNat (msg c) 3 1 = 0 ∧ argNat (msg c) 4 2 ≤ x.certs.length) ∧
    ((agreed 8).unwrapMsg (msg 0xE4) = (none, msg 0xE4) ∧ 8 ≤ (agreed 8).sessions.length ∧ (agreed 8).answers 0xE4 = true) ∧
    (State.reset.sec.unwrapMsg (msg 0xFF) = (none, msg 0xFF) ∧ State.reset.sec.answers 0xFF = false ∧ spdmKnown.contains 0xFF = false) := by decide +kernel
/-- A CHALLENGE that asks for measurements, and GET_MEASUREMENTS of the last index, signed and not. -/
theorem test_wit_spdm_measure : (∀ k ∈ [0, 1], let m : List Byte := [0x13#8, 0xE0#8, BitVec.ofNat 8 k, 7#8]; (agreed 0).unwrapMsg m = (none, m) ∧ rqCode m = 0xE0 ∧ argNat m 3 1 ≠ 0 ∧
      (agreed 0).indices (argNat m 3 1) = some [7] ∧ argNat m 2 1 % 2 = k) ∧ argNat [0x13#8, 0x83#8, 0#8, 0xFF#8] 3 1 ≠ 0 := by decide +kernel
/-- GET_MEASUREMENTS of an index that there is not, in OPERATIONAL and in RETIRED. -/
theorem test_wit_spdm_noIndex : let m : List Byte := [0x13#8, 0xE0#8, 0#8, 8#8]; let y : Sec := { agreed 0 with life := .retired }
    (agreed 0).indices (argNat m 3 1) = none ∧ (agreed 0).life ≠ .retired ∧ y.indices (argNat m 3 1) = none ∧ y.unwrapMsg m = (none, m) ∧ y.answers 0xE0 = true := by decide +kernel
/-- NEGOTIATE_ALGORITHMS with the entries of ML-DSA-65 and SHAKE256, and structures of key exchange and AEAD. -/
def algs (v1 v2 v3 : Nat) : List Byte := [0x13#8, 0xE3#8, 2#8] ++ List.replicate 25 0#8 ++ [1#8, 1#8, 0#8, 0#8] ++ leBytes 4 v1 ++ leBytes 4 v2 ++ [2#8, 0x21#8, 0#8, 0#8] ++ leBytes 4 v3 ++ [3#8, 0x20#8, 2#8, 0#8]
theorem vendorEntry_lt (k : Nat) (h : k < 65536) : vendorEntry k < 256 ^ 4 := by unfold vendorEntry; omega
theorem extEntries_algs (v1 v2 v3 : Nat) (h1 : v1 < 256 ^ 4) (h2 : v2 < 256 ^ 4) : extEntries (algs v1 v2 v3) 32 1 = [v1] ∧ extEntries (algs v1 v2 v3) 36 1 = [v2] :=
  ⟨(show extEntries (algs v1 v2 v3) 32 1 = [leNat (leBytes 4 v1)] from rfl).trans (by rw [leNat_leBytes _ _ h1]),
   (show extEntries (algs v1 v2 v3) 36 1 = [leNat (leBytes 4 v2)] from rfl).trans (by rw [leNat_leBytes _ _ h2])⟩
theorem algStructs_algs (v1 v2 v3 : Nat) (h3 : v3 < 256 ^ 4) : algStructs 2 ((algs v1 v2 v3).drop 40) = [(2, 0, [v3]), (3, 2, [])] := by
  have e : (algs v1 v2 v3).drop 40 = [2#8, 0x21#8, 0#8, 0#8] ++ leBytes 4 v3 ++ [3#8, 0x20#8, 2#8, 0#8] := rfl
  have k : leNat (leBytes 4 v3) = v3 := leNat_leBytes _ _ h3
  rw [e]
  simp [leBytes, leNat] at k
  simp [algStructs, argNat, extEntries, leNat, leBytes, k]
theorem test_wit_spdm_algs : let m := algs (vendorEntry 1) (vendorEntry 2) (vendorEntry 3)
    (agreed 0).unwrapMsg m = (none, m) ∧ argNat m 0 1 = 0x13 ∧ rqCode m = 0xE3 ∧ offersOurs m = true ∧ offersSession m = true := by
  have e := extEntries_algs (vendorEntry 1) (vendorEntry 2) (vendorEntry 3) (vendorEntry_lt 1 (by decide)) (vendorEntry_lt 2 (by decide))
  have k := algStructs_algs (vendorEntry 1) (vendorEntry 2) (vendorEntry 3) (vendorEntry_lt 3 (by decide))
  have a : argNat (algs (vendorEntry 1) (vendorEntry 2) (vendorEntry 3)) 28 1 = 1 := rfl
  have b : argNat (algs (vendorEntry 1) (vendorEntry 2) (vendorEntry 3)) 29 1 = 1 := rfl
  have c : argNat (algs (vendorEntry 1) (vendorEntry 2) (vendorEntry 3)) 2 1 = 2 := rfl
  refine ⟨rfl, rfl, rfl, ?_, ?_⟩
  · simp [offersOurs, a, b, e.1, e.2]
  · simp [offersSession, a, b, c, k, Nat.testBit]
theorem test_wit_spdm_noAlgs : offersOurs (msg 0xE3) = false ∧ (agreed 0).unwrapMsg (msg 0xE3) = (none, msg 0xE3) := by decide +kernel
theorem test_wit_spdm_mailbox : ∀ c ∈ [0x84, 0xE1, 0xE3, 0x81, 0x82, 0x83, 0xE0, 0xE4, 0xE5, 0xE8, 0xEC, 0xFF], let s := box .reset 3 0x603 0xFFFF 4 (msg c);
    s.mbxArgs 3 = msg c ∧ s.msgCode (msg c) = c ∧ spdmKnown.contains c = (c != 0xFF) := by decide +kernel
/-- An open session of the sideband. -/
def sess1 : Session := ⟨7, .sideband, 5, true⟩
/-- What the clauses for sealed requests ask for; that a message opens under the session's key is the free value `Config.secOpen`, of which nothing is known. -/
theorem test_wit_spdm_sealed : (∀ b ∈ [false, true], let x := { State.reset.sec with negotiated := true, sessions := [{ sess1 with open_ := b }] }; let m := leBytes 4 7 ++ [1#8, 2#8]
    x.sessions.find? (fun y => y.id == argNat m 0 4) = some { sess1 with open_ := b } ∧ x.negotiated = true) ∧
    (∀ k ∈ [0xE5, 0xE8, 0xEC], (agreed 1).answers (rqCode (msg k)) = true ∧ argNat (msg k) 0 1 = 0x13 ∧ rqCode (msg k) = k) := by decide +kernel

theorem test_wit_sideband : State.reset.power.standby = true ∧ State.reset.smithUp = true ∧ State.reset.sec.life ≠ .retired ∧ isNumeric 5 = true ∧
    State.reset.targetBusy 3 = false ∧ (∀ q ∈ State.reset.parts, q.job = none) ∧ netIdFits (List.replicate 8 (2 ^ 64 - 1)) (2 ^ 32 - 1) 65535 = true := by decide +kernel
theorem test_wit_sensors : (∃ k, isNumeric k = true) ∧ (∃ k v, State.reset.stateSensor k = some v) := ⟨⟨5, by decide +kernel⟩, ⟨0x0200, _, rfl⟩⟩
theorem test_wit_fwUpdate : ∃ x, State.reset.sec.stage 4 0 false (List.replicate 16 0#8) = some (x, stOK) := ⟨_, rfl⟩
theorem test_wit_activate : (((powered .reset).modSec fun x => { x with images := [factoryImages, factoryImages] }).fwCommit false).1 = stOK := by decide +kernel

/-! ## The fault hub, scrubbing and telemetry -/

def rec (sev : Nat) : FaultRec := { recDev sev 0x10 with resClass := 3 }
def raised (sev : Nat) (l : List (Nat × Nat)) : State := State.reset.modHub fun h => { h with arriving := [rec sev], ceTick := l }
theorem test_wit_hub : ∀ sev ∈ [1, 2, 4, 5], (raised sev []).power.row = 11 ∧ (raised sev []).hub.arriving = [rec sev] ∧ (rec sev).sev = sev ∧ (∀ x ∈ (raised sev []).hub.ceTick, x.1 = ceKey (rec sev) → x.2 + ticksSec 1 ≤ 0) := by
  decide +kernel
/-- Room in the queue, with and without the 8 entries that a record below UCE_PART leaves free. -/
theorem test_wit_hub_room : let few := State.reset.modHub fun h => { h with queue := List.replicate 57 (some (rec 1)) ++ List.replicate 7 none, free := 7 }
    8 ≤ State.reset.hub.free ∧ none ∈ State.reset.hub.queue ∧ few.hub.free < 8 ∧ 0 < few.hub.free ∧ none ∈ few.hub.queue ∧ 3 ≤ (rec 4).sev ∧ (rec 4).sev < 5 ∧ (rec 2).sev ≤ 2 := by decide +kernel
theorem test_wit_hub_repeat : ∃ x ∈ (raised 1 [(ceKey (rec 1), 0)]).hub.ceTick, x.1 = ceKey (rec 1) ∧ (raised 1 [(ceKey (rec 1), 0)]).tick < x.2 + ticksSec 1 := by decide +kernel
theorem test_wit_hub_dispatch : let s := State.reset.modHub fun h => { h with dispatch := [rec 2, rec 4, rec 3] }; s.hub.dispatch.contains (rec 4) = true ∧ ∀ x ∈ s.hub.dispatch, x.sev ≤ (rec 4).sev := by decide +kernel

def fencedIn (st : UnitSt) : State := { State.reset.modPart 0 fun q => { q with st := st, fenced := true, discardFrom := some 0 } with tick := ticksSec 1 }
theorem test_wit_hub_books : (fencedIn .draining).power.row = 11 ∧ ((fencedIn .draining).part 0).fenced = true ∧ ((fencedIn .draining).part 0).fab.booksClosed = true ∧
    ((fencedIn .draining).part 0).st = .draining ∧ (fencedIn .reset).tested 0 = true ∧ ((fencedIn .reset).part 0).st = .reset ∧ ((fencedIn .reset).part 0).discardFrom = some 0 ∧
    ticksMs 100 < (fencedIn .reset).tick - 0 ∧ (fencedIn .reset).hub.auditTick + ticksSec 1 ≤ (fencedIn .reset).tick := by decide +kernel
theorem test_wit_hub_tests : ((State.reset.modHearth 255 fun x => { x with testing := true }).hearth 255).testing = true ∧
    ((State.reset.modCipher fun c => c.modCore 15 fun x => { x with testing := true }).cipher.cores.getD 15 {}).testing = true := by decide +kernel

theorem test_wit_scrub : State.reset.power.row = 11 ∧ State.reset.power.pstate ≠ .p3 ∧ bit State.reset.scrub.cfg 11 = true ∧ bit State.reset.scrub.cfg 10 = true ∧
    (let s := State.reset.modScrub fun x => { x with remaps := [[], [⟨5, 0, 1⟩]] }; ∃ r ∈ s.scrub.remaps.getD 1 [], r.page = 5 ∧ r.st = 1) ∧ vote3 State.reset.partCfg = some (0, true) ∧
    (let s : State := { State.reset with tick := ticksSec 1 }; s.scrub.walkTick + ticksSec 1 ≤ s.tick ∧ s.hub.countTick + ticksSec 1 ≤ s.tick) := by decide +kernel
/-- Stream 0 with a record formed and a ring behind a connected queue pair. -/
def streaming : State := { hosted with streams := updAt State.reset.streams 0 fun x => { x with cfg := pack [(64, 65536), (32, 65536), (64, 131072), (32, 7), (16, 1), (48, 0)], queue := [⟨1, 0, 0, 0, 0, 16, 0⟩] }, tick := ticksSec 60 }
theorem test_wit_telem : (streaming.streams.getD 0 {}).configured = true ∧ (streaming.streams.getD 0 {}).queue ≠ [] ∧ streaming.ringUp 0 (streaming.streams.getD 0 {}) = true ∧
    (streaming.streams.getD 0 {}).powerMs ≠ 0 ∧ ticksMs (streaming.streams.getD 0 {}).powerMs ≤ streaming.tick - streaming.power.recTick ∧ 0 < streaming.streams.length := by decide +kernel

/-! ## Power, pins and ports -/

theorem test_wit_power : State.reset.power.row = 11 ∧ State.reset.power.vco = true ∧ State.reset.power.cmeas = none ∧
    (let s : State := { State.reset with tick := ticksSec 3600 }; s.power.hoursTick + ticksSec 3600 ≤ s.tick ∧ s.power.retryTick + ticksSec 1 ≤ s.tick) ∧
    (let s : State := { State.reset.modPower fun w => { w with pstate := .p0 } with tick := ticksMs 10 }; s.power.pstate = .p0 ∧ s.power.target = 1 ∧ s.power.moving = none ∧ (∀ q ∈ s.parts, q.busy = false) ∧
      s.power.busyTick + ticksMs 10 ≤ s.tick) ∧
    (∀ x ∈ [PState.p0, .p1, .p2, .p3], let s := State.reset.modPower fun w => { w with moving := some x }; s.power.moving = some x ∧ s.allHeld = true ∧ s.allFree = true ∧ s.power.pstate ≠ .p3) ∧
    (let s := State.reset.modPower fun w => { w with pstate := .p3, moving := some .p1 }; s.power.moving = some .p1 ∧ s.power.pstate = .p3 ∧ ∀ h ∈ s.hearths, h.testing = false) ∧
    (let s : State := { State.reset.modRun 0 fun r => { r with holds := [.halt], atAction8 := true } with tick := ticksSec 10 }
     (s.part 0).run.holds.contains .halt = true ∧ (s.part 0).run.atAction8 = true ∧ ticksSec 10 ≤ s.tick - (s.part 0).run.haltTick) := by decide +kernel
/-- A level that differs from the accepted one, with and without an edge in the last millisecond. -/
theorem test_wit_edges : ∀ k ∈ [0, 1, 2], (∃ b, State.reset.pin k ≠ b) ∧ State.reset.power.edgeHold.getD k 0 = 0 ∧ State.reset.power.forced.getD k false = false ∧
    ((State.reset.modPower fun w => { w with edgeHold := [5, 5, 5] }).power.edgeHold.getD k 0 ≠ 0) := by decide +kernel
theorem test_wit_pins : State.reset.power.standby = true ∧ State.reset.power.forced = [false, false, false] ∧ 2 ≤ State.reset.power.row ∧
    (let s := State.reset.modPower fun w => { w with forced := [true, true, true] }; ∀ k < 3, s.power.forced.getD k false = true) ∧
    (let s := State.reset.modPower fun w => { w with standby := false, millivolts := 36000 }; s.power.standby = false ∧ 36000 ≤ s.power.millivolts) ∧
    (State.reset.modPower fun w => { w with latched := false }).power.latched = false ∧ State.reset.power.latched = true ∧ 63 % 64 ≠ State.reset.power.straps := by decide +kernel
theorem test_wit_ports : let s := (networked .reset).modPort 7 fun y => y.modSub 0 fun z => { z with up := true }; s.subUp 7 0 = true ∧ s.hasNet = true := by decide +kernel

/-! ## The block -/

theorem test_wit_step : State.reset.pending = [] ∧ (Instr.stepBoundary 3).wf = true ∧ (Instr.stepBoundary 4).wf = false := by decide +kernel
/-- A sound state with a command waiting, and a step of it. -/
theorem test_wit_sound : ∃ t, ({ State.reset with pending := [.capTick ⟨5, []⟩] } : State).sound ∧ step { State.reset with pending := [.capTick ⟨5, []⟩] } = .next t :=
  ⟨_, ⟨by decide +kernel, by unfold State.shaped; decide +kernel⟩, rfl⟩
theorem test_wit_exec : ∃ t, exec .faultRecord .reset = .next t := ⟨_, rfl⟩
theorem test_wit_reset_mailbox : 63 < 64 ∧ State.reset.nparts = 1 := by decide +kernel

/-! ## Ill-formed commands are refused -/

theorem test_wf_mailbox : (Instr.unitQuery 64).wf = false ∧ (Instr.unitQuery 63).wf = true := by decide
theorem test_wf_partition : (Instr.ctrlNop 4 ⟨.fwd, ⟨[], []⟩⟩).wf = false ∧ (Instr.ctrlNop 3 ⟨.fwd, ⟨[], []⟩⟩).wf = true := by decide
theorem test_wf_hearth : (Instr.billetStall 256).wf = false ∧ (Instr.billetStall 255).wf = true := by decide
theorem test_wf_tongs : (Instr.tongsPiece 22 0 .clean).wf = false ∧ (Instr.tongsPiece 21 4 .clean).wf = false ∧ (Instr.tongsPiece 21 3 .clean).wf = true := by decide
theorem test_wf_unit : (Instr.commitOpen ⟨8, ⟨[], []⟩⟩).wf = false ∧ (Instr.commitOpen ⟨7, ⟨[], []⟩⟩).wf = true := by decide
theorem test_wf_qp : (Instr.cnp ⟨64, 0⟩).wf = false ∧ (Instr.cnp ⟨63, 0⟩).wf = true := by decide
theorem test_wf_stream : (Instr.telemBatch 5).wf = false ∧ (Instr.telemBatch 4).wf = true := by decide
theorem test_wf_core : (Instr.cipherRequestDone 16 false).wf = false ∧ (Instr.cipherRequestDone 15 false).wf = true := by decide
theorem test_wf_slot : (Instr.keyFault 512 .keyOne).wf = false ∧ (Instr.keyFault 511 .keyOne).wf = true := by decide
theorem test_wf_port : (Instr.linkUp 8 0).wf = false ∧ (Instr.linkUp 7 8).wf = false ∧ (Instr.linkUp 7 7).wf = true := by decide
theorem test_wf_bellows : (Instr.phyPllRelock 4 true).wf = false ∧ (Instr.phyPllRelock 3 true).wf = true := by decide
theorem test_wf_crucible : (Instr.remapDone 2 0).wf = false ∧ (Instr.remapDone 1 0).wf = true := by decide
theorem test_wf_pin : (Instr.inputUnstable 3).wf = false ∧ (Instr.inputUnstable 2).wf = true := by decide
theorem test_wf_rail : (Instr.regulator 40).wf = false ∧ (Instr.regulator 39).wf = true := by decide
theorem test_wf_phy : (Instr.phyPll 22).wf = false ∧ (Instr.phyPll 21).wf = true := by decide
theorem test_wf_scrub : (Instr.scrubRead true 2 .clean).wf = false ∧ (Instr.scrubRead false 16 .clean).wf = false ∧ (Instr.scrubRead false 15 .clean).wf = true := by decide
theorem test_wf_selftest : (Instr.selftestDone true 256 true).wf = false ∧ (Instr.selftestDone false 16 true).wf = false ∧ (Instr.selftestDone true 255 true).wf = true := by decide
theorem test_wf_via : (Instr.getVersion (.mailbox 4) []).wf = false ∧ (Instr.getVersion (.mailbox 3) []).wf = true ∧ (Instr.getVersion .sideband []).wf = true := by decide
theorem test_wf_sram : (Instr.localScrub [.counter 512]).wf = false ∧ (Instr.localScrub [.routing 4 0]).wf = false ∧ (Instr.localScrub [.counter 511]).wf = true := by decide
theorem test_wf_ctl : (Instr.controlParity (.tongs 22)).wf = false ∧ (Instr.controlParity (.bellows 4)).wf = false ∧ (Instr.controlParity (.crucibleDie 2)).wf = false ∧
    (Instr.controlParity (.smithMem true)).wf = true := by decide
theorem test_illFormed_stops : exec (.unitQuery 64) .reset = .fault .noSuchUnit := rfl

/-! ## Published values -/

/-- The check values of CRC-32 and CRC-32C over the ASCII digits 1 to 9, and one entry of the AES S-box (FIPS 197). -/
theorem test_crc32 : crc32 ((List.range' 0x31 9).map (BitVec.ofNat 8)) = 0xCBF43926 := by decide +kernel
theorem test_crc32c : crc32c ((List.range' 0x31 9).map (BitVec.ofNat 8)) = 0xE3069283 := by decide +kernel
theorem test_sbox : sbox 0x53 = 0xED ∧ invSbox 0xED = 0x53 := by decide +kernel

/-! ## Values worked by hand from the number formats -/

/-- 1 + 2^-8 lies halfway between two BF16 values: to the even one. 1 + 3 * 2^-8 goes up. -/
theorem test_bf16_ties : (fmtBF16.enc .rne false (f32 0x3F808000#32)).1 = 0x3F80 ∧ (fmtBF16.enc .rne false (f32 0x3F818000#32)).1 = 0x3F82 := by decide +kernel
/-- 448 is the largest finite value of the first format of Table 06-2; 465 saturates to it. -/
theorem test_fp8_saturates : ((fmtOf 0).enc .rne true (f32 0x43E00000#32)).1 = 0x7E ∧ ((fmtOf 0).enc .rne true (f32 0x43E88000#32)).1 = 0x7E := by decide +kernel
/-- The sum of 2^24 and 1 rounds to 2^24, to even. -/
theorem test_fadd_even : fadd 0x4B800000#32 0x3F800000#32 = 0x4B800000#32 ∧ fadd 0x3F800000#32 0xBF800000#32 = 0#32 := by decide +kernel
/-- A write of zero leaves memory listing nothing; a read gives what a write put. -/
theorem test_memory : Memory.writeBytes [] 5 [1#8, 0#8] = Memory.writeBytes [] 5 [1#8] ∧ Memory.read (Memory.writeBytes [] 5 [7#8]) 5 = 7#8 ∧
    Memory.writeBytes (Memory.writeBytes [] 5 [7#8]) 5 [0#8] = [] := by decide +kernel
/-- An idle step lets one tick pass. -/
theorem test_idle : (match step .reset with | .next t => t.tick | _ => 0) = 1 := by decide +kernel

/-! Worked examples of the manual. -/

/-- Chapter 04: 7.2, -2.5, 0.7 and 0.2 converted to MXFP4 under rule 0 and rule 1. -/
theorem test_mxfp4 : let xs := [0x40E66666#32, 0xC0200000#32, 0x3F333333#32, 0x3E4CCCCD#32].map f32
    let r := List.replicate 4 Rnd.rne
    mxBlock 6 false r xs = (0x7F, [(0x7, .sat), (0xC, .none), (0x1, .none), (0x0, .udf)]) ∧
    (mxBlock 6 true r xs).1 = 0x80 ∧ (mxBlock 6 true r xs).2.map (·.1) = [0x6, 0xA, 0x1, 0x0] := by decide +kernel
/-- Chapter 04: AS8 under e = -20, an escape, and the BF16 that it leaves as. -/
theorem test_as8 : (as8Quant (-20) 0x380205FF#32).1 = 33 ∧ (as8Quant (-20) 0x3908509C#32).1 = 0x80 ∧ (fmtBF16.enc .rne false (f32 0x3908509C#32)).1 = 0x3908 := by decide +kernel
/-- Table 09-7: the values formed at hops 0 to 2 under e = -16. -/
theorem test_ring_escape : (as8Quant (-16) 0x3A6B8000#32).1 = 59 ∧ (as8Quant (-16) 0x3ADEC000#32).1 = 111 ∧ (as8Quant (-16) 0x3B1CE000#32).1 = 0x80 ∧
    (fmtBF16.enc .rne false (f32 0x3B1CE000#32)).1 = 0x3B1D := by decide +kernel
/-- Chapter 12: the IV of a seal by module 0x12345, partition 0, epoch 8, counter 480. -/
theorem test_gcmIv : gcmIv 0x12345 0 8 480 = [0x12#8, 0x34#8, 0x50#8, 0x08#8, 0#8, 0#8, 0#8, 0#8, 0#8, 0#8, 0x01#8, 0xE0#8] := by decide +kernel

end Sys2Proof.Machine.Tests
end

section
/-! PROOF. The statements about scope (chapter 00): what every command keeps, and the step boundary. -/

namespace Sys2Proof.Machine

/-! ## What every command and every step keeps -/

/-- The row of each command keeps what `Keeps` lists; LC.ADVANCE and FW.COMMIT, which may move a guarded field (R296, R297), are set apart. -/
theorem exec_keeps {c : Instr} {s t : State} (hl : ∀ m, c ≠ .lcAdvance m) (hf : ∀ m, c ≠ .fwCommit m) (e : exec c s = .next t) : Keeps s t := by
  cases c with
  | mbxOwnWrite => exact execMbxOwnWrite_keeps e
  | registerWrite => exact execRegisterWrite_keeps e
  | apertureWrite => exact execApertureWrite_keeps e
  | unitQuery => exact execUnitQuery_keeps e
  | idAssign => exact execIdAssign_keeps e
  | partCreate => exact execPartCreate_keeps e
  | scrubConfig => exact execScrubConfig_keeps e
  | jobLoad => exact execJobLoad_keeps e
  | jobStart => exact execJobStart_keeps e
  | jobStop => exact execJobStop_keeps e
  | accSet => exact execAccSet_keeps e
  | inputPost => exact execInputPost_keeps e
  | apertureSet => exact execApertureSet_keeps e
  | memSend => exact execMemSend_keeps e
  | jobUnload => exact execJobUnload_keeps e
  | portConfig => exact execPortConfig_keeps e
  | hostTarget => exact execHostTarget_keeps e
  | routeLoad => exact execRouteLoad_keeps e
  | spareAssume => exact execSpareAssume_keeps e
  | roundConfig => exact execRoundConfig_keeps e
  | layoutSet => exact execLayoutSet_keeps e
  | layoutSetForced => exact execLayoutSetForced_keeps e
  | ingotEmit => exact execIngotEmit_keeps e
  | keyInstall => exact execKeyInstall_keeps e
  | keyZero => exact execKeyZero_keeps e
  | keyStatus => exact execKeyStatus_keeps e
  | keyOffer => exact execKeyOffer_keeps e
  | keyWrap => exact execKeyWrap_keeps e
  | keyUnwrap => exact execKeyUnwrap_keeps e
  | spdmMsg => exact execSpdmMsg_keeps e
  | fwStage => exact execFwStage_keeps e
  | fwCommit m => exact absurd rfl (hf m)
  | lcAdvance m => exact absurd rfl (hl m)
  | debugNonce => exact execDebugNonce_keeps e
  | debugEnter => exact execDebugEnter_keeps e
  | debugExit => exact execDebugExit_keeps e
  | telemConfig => exact execTelemConfig_keeps e
  | faultAck => exact execFaultAck_keeps e
  | powerCap => exact execPowerCap_keeps e
  | powerState => exact execPowerState_keeps e
  | ctrlNop => exact execCtrlNop_keeps e
  | loopBegin => exact execLoopBegin_keeps e
  | loopEnd => exact execLoopEnd_keeps e
  | groupBegin => exact execGroupBegin_keeps e
  | blockEnd => exact execBlockEnd_keeps e
  | readyBlockSelect => exact execReadyBlockSelect_keeps e
  | passEnd => exact execPassEnd_keeps e
  | stepEnd => exact execStepEnd_keeps e
  | hearthPass => exact execHearthPass_keeps e
  | temperRunInsn => exact execTemperRunInsn_keeps e
  | copy => exact execCopy_keeps e
  | tongsGather => exact execTongsGather_keeps e
  | fill => exact execFill_keeps e
  | prefetch => exact execPrefetch_keeps e
  | evict => exact execEvict_keeps e
  | reduce => exact execReduce_keeps e
  | collGather => exact execCollGather_keeps e
  | collFlag => exact execCollFlag_keeps e
  | commit => exact execCommit_keeps e
  | push => exact execPush_keeps e
  | pop => exact execPop_keeps e
  | release => exact execRelease_keeps e
  | track => exact execTrack_keeps e
  | sample => exact execSample_keeps e
  | scaleFlag => exact execScaleFlag_keeps e
  | hearthPassDone => exact execHearthPassDone_keeps e
  | temperLaunchDone => exact execTemperLaunchDone_keeps e
  | tongsDone => exact execTongsDone_keeps e
  | collDone => exact execCollDone_keeps e
  | pushDone => exact execPushDone_keeps e
  | streamHang => exact execStreamHang_keeps e
  | stepBoundary => exact execStepBoundary_keeps e
  | imageRefreshDone => exact execImageRefreshDone_keeps e
  | anchorTimeout => exact execAnchorTimeout_keeps e
  | outerBoundaryWorkDone => exact execOuterBoundaryWorkDone_keeps e
  | heldStepStart => exact execHeldStepStart_keeps e
  | drainTimeout => exact execDrainTimeout_keeps e
  | passAccept => exact execPassAccept_keeps e
  | billetTransfer => exact execBilletTransfer_keeps e
  | billetStall => exact execBilletStall_keeps e
  | temperProgramLoad => exact execTemperProgramLoad_keeps e
  | temperInputLoad => exact execTemperInputLoad_keeps e
  | temperRun => exact execTemperRun_keeps e
  | temperStarve => exact execTemperStarve_keeps e
  | tongsPiece => exact execTongsPiece_keeps e
  | backgroundPieceFeed => exact execBackgroundPieceFeed_keeps e
  | arenaFill => exact execArenaFill_keeps e
  | arenaWriteback => exact execArenaWriteback_keeps e
  | arenaStall => exact execArenaStall_keeps e
  | arenaLendTimeout => exact execArenaLendTimeout_keeps e
  | pairingConfirm => exact execPairingConfirm_keeps e
  | actqCredit => exact execActqCredit_keeps e
  | actqFullNotice => exact execActqFullNotice_keeps e
  | commitOpen => exact execCommitOpen_keeps e
  | commitDecision => exact execCommitDecision_keeps e
  | commitComplete => exact execCommitComplete_keeps e
  | updateUnitRetired => exact execUpdateUnitRetired_keeps e
  | stepFlagTaken => exact execStepFlagTaken_keeps e
  | reduceRelease => exact execReduceRelease_keeps e
  | samplePositionCheck => exact execSamplePositionCheck_keeps e
  | contrib => exact execContrib_keeps e
  | directStageTimeout => exact execDirectStageTimeout_keeps e
  | result => exact execResult_keeps e
  | gatherSegment => exact execGatherSegment_keeps e
  | stat => exact execStat_keeps e
  | flagSegment => exact execFlagSegment_keeps e
  | flagRootTimeout => exact execFlagRootTimeout_keeps e
  | decide => exact execDecide_keeps e
  | decideTimeout => exact execDecideTimeout_keeps e
  | abort => exact execAbort_keeps e
  | barrier => exact execBarrier_keeps e
  | barrierAnswer => exact execBarrierAnswer_keeps e
  | groupCfg => exact execGroupCfg_keeps e
  | htWrite => exact execHtWrite_keeps e
  | readReq => exact execReadReq_keeps e
  | readResp => exact execReadResp_keeps e
  | fetchAdd => exact execFetchAdd_keeps e
  | cmpSwap => exact execCmpSwap_keeps e
  | swap => exact execSwap_keeps e
  | atomicResp => exact execAtomicResp_keeps e
  | htAck => exact execHtAck_keeps e
  | htAckTimer => exact execHtAckTimer_keeps e
  | request => exact execRequest_keeps e
  | grant => exact execGrant_keeps e
  | returnGrant => exact execReturnGrant_keeps e
  | grantIdleTimeout => exact execGrantIdleTimeout_keeps e
  | packetTimeout => exact execPacketTimeout_keeps e
  | heartbeatTimer => exact execHeartbeatTimer_keeps e
  | heartbeat => exact execHeartbeat_keeps e
  | planeDown => exact execPlaneDown_keeps e
  | peerLost => exact execPeerLost_keeps e
  | isolationTimeout => exact execIsolationTimeout_keeps e
  | loss => exact execLoss_keeps e
  | rollback => exact execRollback_keeps e
  | fence => exact execFence_keeps e
  | announce => exact execAnnounce_keeps e
  | routeUpd => exact execRouteUpd_keeps e
  | routeAck => exact execRouteAck_keeps e
  | resume => exact execResume_keeps e
  | lossHold => exact execLossHold_keeps e
  | linkDown => exact execLinkDown_keeps e
  | linkUp => exact execLinkUp_keeps e
  | linkHoldExpiry => exact execLinkHoldExpiry_keeps e
  | hostCmRequest => exact execHostCmRequest_keeps e
  | hostRdmaWrite => exact execHostRdmaWrite_keeps e
  | hostRdmaRead => exact execHostRdmaRead_keeps e
  | hostInvalidRequest => exact execHostInvalidRequest_keeps e
  | cnp => exact execCnp_keeps e
  | hostCeMark => exact execHostCeMark_keeps e
  | hostRateRecover => exact execHostRateRecover_keeps e
  | hostWriteFail => exact execHostWriteFail_keeps e
  | outerSend => exact execOuterSend_keeps e
  | outerDataSegment => exact execOuterDataSegment_keeps e
  | outerAck => exact execOuterAck_keeps e
  | probe => exact execProbe_keeps e
  | hello => exact execHello_keeps e
  | outerAckTimer => exact execOuterAckTimer_keeps e
  | reorderLoss => exact execReorderLoss_keeps e
  | outerRtoExpiry => exact execOuterRtoExpiry_keeps e
  | helloTimer => exact execHelloTimer_keeps e
  | graceWindowClose => exact execGraceWindowClose_keeps e
  | roundWordAdd => exact execRoundWordAdd_keeps e
  | roundWordPoll => exact execRoundWordPoll_keeps e
  | roundHold => exact execRoundHold_keeps e
  | gcmSeal => exact execGcmSeal_keeps e
  | gcmOpen => exact execGcmOpen_keeps e
  | xtsEncrypt => exact execXtsEncrypt_keeps e
  | xtsDecrypt => exact execXtsDecrypt_keeps e
  | cipherRequestStart => exact execCipherRequestStart_keeps e
  | cipherRequestDone => exact execCipherRequestDone_keeps e
  | cipherPromote => exact execCipherPromote_keeps e
  | keyFault => exact execKeyFault_keeps e
  | keyOfferExpiry => exact execKeyOfferExpiry_keeps e
  | getVersion => exact execGetVersion_keeps e
  | getCapabilities => exact execGetCapabilities_keeps e
  | negotiateAlgorithms => exact execNegotiateAlgorithms_keeps e
  | getDigests => exact execGetDigests_keeps e
  | getCertificate => exact execGetCertificate_keeps e
  | challenge => exact execChallenge_keeps e
  | getMeasurements => exact execGetMeasurements_keeps e
  | keyExchange => exact execKeyExchange_keeps e
  | finish => exact execFinish_keeps e
  | spdmHeartbeat => exact execSpdmHeartbeat_keeps e
  | endSession => exact execEndSession_keeps e
  | spdmUnsupportedRequest => exact execSpdmUnsupportedRequest_keeps e
  | setEndpointId => exact execSetEndpointId_keeps e
  | setTid => exact execSetTid_keeps e
  | getPdr => exact execGetPdr_keeps e
  | getSensorReading => exact execGetSensorReading_keeps e
  | getStateSensorReadings => exact execGetStateSensorReadings_keeps e
  | setNumericEffecterValue => exact execSetNumericEffecterValue_keeps e
  | getNumericEffecterValue => exact execGetNumericEffecterValue_keeps e
  | setStateEffecterStates => exact execSetStateEffecterStates_keeps e
  | getStateEffecterStates => exact execGetStateEffecterStates_keeps e
  | pldmFirmwareUpdate => exact execPldmFirmwareUpdate_keeps e
  | setNetId => exact execSetNetId_keeps e
  | setHostAllow => exact execSetHostAllow_keeps e
  | pldmUnsupportedCmd => exact execPldmUnsupportedCmd_keeps e
  | booksRestored => exact execBooksRestored_keeps e
  | discardTimeout => exact execDiscardTimeout_keeps e
  | controlParity => exact execControlParity_keeps e
  | scrubRead => exact execScrubRead_keeps e
  | localScrub => exact execLocalScrub_keeps e
  | correctedWriteback => exact execCorrectedWriteback_keeps e
  | telemBatch => exact execTelemBatch_keeps e
  | capTick => exact execCapTick_keeps e
  | thermalTick => exact execThermalTick_keeps e
  | clockCheck => exact execClockCheck_keeps e
  | phyPll => exact execPhyPll_keeps e
  | phyPllRelock => exact execPhyPllRelock_keeps e
  | slotIdLatch => exact execSlotIdLatch_keeps e
  | halt => exact execHalt_keeps e
  | inputUnstable => exact execInputUnstable_keeps e
  | inputUnstableRelease => exact execInputUnstableRelease_keeps e
  | inputBandChange => exact execInputBandChange_keeps e
  | regulator => exact execRegulator_keeps e
  | holdupMeasure => exact execHoldupMeasure_keeps e
  | hostTransferAck => exact execHostTransferAck_keeps e
  | hostRetransmit => exact execHostRetransmit_keeps e
  | remapDone => exact execRemapDone_keeps e
  | selftestDone => exact execSelftestDone_keeps e
  | neighborSolicitation => exact execNeighborSolicitation_keeps e
  | routerAdvertisement => exact execRouterAdvertisement_keeps e
  | pauseFrame => exact execPauseFrame_keeps e
  | i3cDynamicAddress => exact execI3cDynamicAddress_keeps e
  | inBandInterruptEnable => exact execInBandInterruptEnable_keeps e
  | jtagInstruction => exact execJtagInstruction_keeps e
  | strapChange => exact execStrapChange_keeps e
  | debugNonceExpiry => exact execDebugNonceExpiry_keeps e
  | debugFillDone => exact execDebugFillDone_keeps e
  | getEndpointId => exact execGetEndpointId_keeps e
  | getEndpointUuid => exact execGetEndpointUuid_keeps e
  | getMctpVersionSupport => exact execGetMctpVersionSupport_keeps e
  | getMessageTypeSupport => exact execGetMessageTypeSupport_keeps e
  | getTid => exact execGetTid_keeps e
  | getPldmVersion => exact execGetPldmVersion_keeps e
  | getPldmTypes => exact execGetPldmTypes_keeps e
  | getPldmCommands => exact execGetPldmCommands_keeps e
  | getPdrRepositoryInfo => exact execGetPdrRepositoryInfo_keeps e
  | getFruRecordTableMetadata => exact execGetFruRecordTableMetadata_keeps e
  | getFruRecordTable => exact execGetFruRecordTable_keeps e
  | activateFirmware => exact execActivateFirmware_keeps e
  | getNetId => exact execGetNetId_keeps e
  | getHostAllow => exact execGetHostAllow_keeps e
  | faultRecord => exact execFaultRecord_keeps e
  | faultDispatch => exact execFaultDispatch_keeps e
  | bookAudit => exact execBookAudit_keeps e
  | countRec => exact execCountRec_keeps e
  | powerRec => exact execPowerRec_keeps e
  | thermalTrip => exact execThermalTrip_keeps e
  | watchdogExpiry => exact execWatchdogExpiry_keeps e
  | standbyUp => exact execStandbyUp_keeps e
  | pwrEnAssert => exact execPwrEnAssert_keeps e
  | pwrEnDeassert => exact execPwrEnDeassert_keeps e
  | resetNAssert => exact execResetNAssert_keeps e
  | resetNDeassert => exact execResetNDeassert_keeps e
  | haltNAssert => exact execHaltNAssert_keeps e
  | haltNDeassert => exact execHaltNDeassert_keeps e
  | breakerOpen => exact execBreakerOpen_keeps e
  | pstoreRetry => exact execPstoreRetry_keeps e
  | wearCounterWrite => exact execWearCounterWrite_keeps e
  | idleEntry => exact execIdleEntry_keeps e
  | powerTransitionDone => exact execPowerTransitionDone_keeps e

/-- The two commands set apart keep the rest as well. -/
theorem exec_holds {c : Instr} {s t : State} (e : exec c s = .next t) : Holds s t := by
  by_cases hl : ∃ m, c = .lcAdvance m
  · obtain ⟨m, rfl⟩ := hl
    exact execLcAdvance_holds e
  by_cases hf : ∃ m, c = .fwCommit m
  · obtain ⟨m, rfl⟩ := hf
    exact execFwCommit_holds e
  · exact (exec_keeps (not_exists.mp hl) (not_exists.mp hf) e).holds

/-- What a step does: an idle tick where no command waits, else the first command on the state with the rest of the queue. -/
theorem step_cases {s t : State} (e : step s = .next t) :
    (s.pending = [] ∧ t = idleTick s) ∨ ∃ c rest, s.pending = c :: rest ∧ exec c { s with pending := rest } = .next t := by
  unfold step at e
  cases hq : s.pending with
  | nil => simp only [hq, Host.Outcome.next.injEq] at e; exact .inl ⟨rfl, e.symm⟩
  | cons c rest => simp only [hq] at e; exact .inr ⟨c, rest, rfl, e⟩

/-- Settles O6: neither the idle tick nor the row of a command touches the queue, so that it loses its head alone. -/
theorem stepTakesOnlyFront : Obligations.StepTakesOnlyFront := by
  intro s t e
  obtain ⟨hq, rfl⟩ | ⟨c, rest, hq, hc⟩ := step_cases e
  · rw [(idleTick_keeps (Keeps.refl s)).pending, hq, List.tail_nil]
  · rw [(exec_holds hc).pending, hq, List.tail_cons]

/-! ## The step boundary (Table 02-5) -/

variable {s : State} {p : Nat}

/-- Was the step that closes decided to be skipped? -/
def State.skips (s : State) (p : Nat) : Bool := match (s.part p).run.decision with | some d => d.skip | none => false

/-- The command runs the boundary once every stream has ended and the step's quantities balance (R42). -/
theorem exec_stepBoundary (hp : p < 4) (hended : s.allEnded p = true) (hbal : s.unbalanced p = none) :
    exec (.stepBoundary p) s = .next (s.boundary p) := by
  have hwf : (Instr.stepBoundary p).wf = true := decide_eq_true hp
  change execStepBoundary p s = _
  simp [execStepBoundary, answer, hwf, hended, hbal]

/-- At the last step number the boundary stops after its first actions (R7). -/
theorem State.boundary_lastStep (hst : (s.part p).run.step = 2 ^ 48 - 1) :
    s.boundary p = (s.closeStep p (s.skips p)).limitStop p := if_pos hst

/-- Below the last step number it goes on to the next number, and stops there at the end of the last round (R7). -/
theorem State.boundary_belowLast (hst : (s.part p).run.step < 2 ^ 48 - 1) :
    s.boundary p =
      let b := (s.closeStep p (s.skips p)).nextNumber p (s.skips p)
      if ((s.part p).run.step + 1) % b.roundLen p = 0 ∧ (s.part p).run.round = 2 ^ 32 - 1 then b.limitStop p
      else (b.roundTest p (s.part p).run.step).stopAction p := if_neg hst.ne

/-- Actions 6 and 7 at a round's last step. -/
theorem State.roundTest_roundEnd {st : Nat} (h : (st + 1) % s.roundLen p = 0) :
    s.roundTest p st = ((s.roundAction p st).accBoundary p).armedBoundary p st := by
  simp only [State.roundTest, if_pos h]

/-- Action 7 at a step within a round. -/
theorem State.roundTest_withinRound {st : Nat} (h : (st + 1) % s.roundLen p ≠ 0) :
    s.roundTest p st = ((s.sealTest p (st + 1)).wordHold p).armedBoundary p st := by
  simp only [State.roundTest, if_neg h]

/-- Settles O22: the boundary's first actions are those of `closeStep`; what follows depends on the step number, on whether the step is a round's last
and on the round number. -/
theorem stepBoundaryRunsItsActions : Obligations.StepBoundaryRunsItsActions := by
  intro s p hp hended hbal st skipped a k n b isRound
  have hskip : s.skips p = skipped := rfl
  have ha : s.closeStep p skipped = a := rfl
  rw [exec_stepBoundary hp hended hbal]
  refine ⟨rfl, ?_⟩
  -- Of the closed state `a` and of the state `b` with the next number only their names matter from here on.
  clear_value a skipped
  have hb : a.nextNumber p skipped = b := rfl
  clear_value b
  refine ⟨fun hst => ?lastStep, fun hst hr => ?withinRound, fun hst hr hlast => ?lastRound, fun hst hr hround => ?roundEnd⟩
  case lastStep => rw [State.boundary_lastStep hst, hskip, ha]
  case withinRound =>
    have hr : (st + 1) % b.roundLen p ≠ 0 := ne_of_beq_false hr
    rw [State.boundary_belowLast hst, hskip, ha, hb, if_neg fun h => hr h.1, State.roundTest_withinRound hr]
  case lastRound => rw [State.boundary_belowLast hst, hskip, ha, hb, if_pos ⟨eq_of_beq hr, hlast⟩]
  case roundEnd =>
    rw [State.boundary_belowLast hst, hskip, ha, hb, if_neg fun h => hround.ne h.2, State.roundTest_roundEnd (eq_of_beq hr)]

end Sys2Proof.Machine
end

section
/-! PROOF. The statements about the module's units and partitions (chapter 01): soundness of every step, the state after reset, well-formed commands,
the device commands, and the cipher requests. -/

namespace Sys2Proof.Machine

/-! ## Soundness (R11, R22) -/

/-- Settles O4: a step is an idle tick or the row of the front command, and either keeps memory canonical and every unit in its place; taking the
command out of the queue touches neither. -/
theorem stepKeepsSound : Obligations.StepKeepsSound := by
  intro s t hs e
  obtain ⟨-, rfl⟩ | ⟨c, rest, -, hc⟩ := step_cases e
  · exact (idleTick_keeps (Keeps.refl s)).sound hs
  · have hs' : State.sound { s with pending := rest } := hs
    exact (exec_holds hc).sound hs'

/-- After reset memory lists nothing, so that it is canonical. -/
theorem State.reset_mem_wf : Memory.wf State.reset.mem := ⟨List.Pairwise.nil, nofun⟩

/-- A partition's run after reset has its three sequencers and all its token counters. -/
theorem Run.ok_default : ({} : Run).ok := ⟨rfl, List.length_replicate⟩

/-- No partition has run anything after reset. -/
theorem State.run_of_mem_reset : ∀ q ∈ State.reset.parts, q.run = {} :=
  List.forall_mem_cons.2 ⟨rfl, List.forall_mem_cons.2 ⟨rfl, List.forall_mem_cons.2 ⟨rfl, List.forall_mem_singleton.2 rfl⟩⟩⟩

/-- Every list of units has its length after reset. -/
theorem State.sizes_reset : State.reset.sizes = [256, 256, 22, 8, 5, 512, 16, 64, 256, 8, 64, 3] := by
  have h : State.reset.sizes = [(List.replicate 256 _).length, (List.replicate 256 _).length, (List.replicate 22 _).length, (List.replicate 8 _).length,
    (List.replicate 5 _).length, (List.replicate 512 _).length, (List.replicate 16 _).length, (List.replicate 64 _).length, (List.replicate 256 _).length,
    (List.replicate 8 _).length, (List.replicate 64 _).length, 3] := rfl
  simpa only [List.length_replicate] using h

/-- Settles O5: memory lists nothing, no partition has run, and every list of units has its length. -/
theorem resetIsSound : Obligations.ResetIsSound :=
  ⟨State.reset_mem_wf, State.reset.shaped_iff.2 ⟨⟨rfl, fun q hq => State.run_of_mem_reset q hq ▸ Run.ok_default⟩, State.sizes_reset⟩⟩

/-! ## Well-formed commands (R11) -/

/-- The row of every command hands its next state to `answer`, under the check of the units that the command names. -/
theorem exec_eq_answer (c : Instr) (s : State) : ∃ t, exec c s = answer c.wf t := by
  cases c <;> exact ⟨_, rfl⟩

/-- A command whose units the module has answers the next state of its row. -/
theorem answer_of_ok {ok : Bool} {t u : State} (h : ok = true) (e : t = u) : answer ok t = .next u := by
  rw [h, e]
  rfl

/-- Settles O2: `answer` gives the next state of a well-formed command and the fault of any other. -/
theorem wellFormedCommandsComplete : Obligations.WellFormedCommandsComplete := by
  intro c s
  obtain ⟨t, e⟩ := exec_eq_answer c s
  refine ⟨fun h => ⟨t, e.trans (answer_of_ok h rfl)⟩, fun h => ?fault⟩
  case fault => rw [e, h]; rfl

/-! ## The state after reset (R20, R23, R51, R284, R287, R332, R347, R355) -/

/-- Every byte of an empty memory reads blank. -/
theorem Memory.fillFrom_nil : ∀ n a : Nat, Memory.fillFrom n a [] = List.replicate n Memory.blank
  | 0, _ => rfl
  | n + 1, a => by rw [Memory.fillFrom, Memory.fillFrom_nil n, List.replicate_succ]

/-- Blank bytes spell zero. -/
theorem leNat_replicate_blank : ∀ n : Nat, leNat (List.replicate n Memory.blank) = 0
  | 0 => rfl
  | n + 1 => by rw [List.replicate_succ, leNat, leNat_replicate_blank n]; rfl

theorem State.mbxHdr_reset (m : Nat) : State.reset.mbxHdr m = 0 := by
  have h : State.reset.get4 (mbxBase m) 64 = List.replicate 64 Memory.blank := Memory.fillFrom_nil _ _
  rw [State.mbxHdr, h, leNat_replicate_blank]

/-- The configuration word after reset is zero, which gives one partition (R23). -/
theorem State.nparts_reset : State.reset.nparts = 1 := by
  change countOf 0 = 1
  simp [countOf, bits]

theorem State.hearth_reset {h : Nat} (hh : h < 256) : State.reset.hearth h = { st := .ready } := List.getD_replicate _ hh

theorem State.slot_reset {k : Nat} (hk : k < 512) : State.reset.slot k = {} := List.getD_replicate _ hk

theorem State.stream_reset {k : Nat} (hk : k < 5) : State.reset.streams.getD k {} = {} := List.getD_replicate _ hk

/-- Settles O3: the fields are read off the reset state; of the families, one hearth, mailbox header and key slot is like another. -/
theorem resetStateHolds : Obligations.ResetStateHolds := by
  refine ⟨rfl, State.nparts_reset, rfl, rfl, fun h hh => ?hearths, fun m _ => State.mbxHdr_reset m, fun k hk => ?slots, rfl, fun k hk => ?streams, rfl, rfl, rfl, rfl⟩
  case hearths => rw [State.hearth_reset hh]
  case slots => rw [State.slot_reset hk]; rfl
  case streams => rw [State.stream_reset hk]; rfl

/-! ## The device commands (R24, R212, R217, R311, R338, R351, R353, R371) -/

/-- A row of a mailbox command that is let in completes OK where its own part answers so. -/
theorem answer_command_give {s t : State} {m : Nat} {c : Cmd} {body : State → Nat → List Byte → Reply} {scope : Scope} {resp : List Byte} (h : s.takes m c)
    (hscope : scope s (s.mbxFor m) (s.mbxArgs m) = none) (hbody : body s (s.mbxFor m) (s.mbxArgs m) = .give t resp) :
    answer (okMbx m) (s.command m c body scope) = .next (t.doneOK m resp) := by
  refine answer_of_ok (decide_eq_true h.1) ?_
  rw [State.command_of_scope h body scope hscope, hbody]
  rfl

/-- A row of a mailbox command that is let in, and goes on without an answer, leaves the state that its own part names. -/
theorem answer_command_keep {s t : State} {m : Nat} {c : Cmd} {body : State → Nat → List Byte → Reply} (h : s.takes m c)
    (hbody : body s (s.mbxFor m) (s.mbxArgs m) = .keep t) : answer (okMbx m) (s.command m c body) = .next t := by
  refine answer_of_ok (decide_eq_true h.1) ?_
  rw [State.command_of_takes h body, hbody]

/-- No field is faulty where every one of them holds. -/
theorem firstBad_eq_none_iff {l : List (Nat × Bool)} : firstBad l = none ↔ ∀ x ∈ l, x.2 = true := by
  simp [firstBad]

/-! The own part of each command, on operands that it accepts. -/

section
variable {s : State} {p : Nat} {args : List Byte}

theorem runIdAssign_ok (hid : argNat args 0 4 < 2 ^ 20) (hfree : s.allFree = true) :
    runIdAssign s p args = .ok { s with moduleId := argNat args 0 4, idValid := true } := by
  simp only [runIdAssign, if_neg (Nat.not_le.2 hid), hfree, Bool.not_true, Bool.false_eq_true, ↓reduceIte]

theorem runPartCreate_ok (hcfg : partCfgBad (argNat args 0 32) = none) (hready : ∀ q ∈ s.parts.take s.nparts, q.st = .ready) :
    runPartCreate s p args = .ok (s.repartition (argNat args 0 32)) := by
  have hall : ((s.parts.take s.nparts).all fun q => q.st == .ready) = true := List.all_eq_true.2 fun q hq => beq_iff_eq.2 (hready q hq)
  simp only [runPartCreate, hcfg, hall, ↓reduceIte]

theorem runScrubConfig_ok (hzero : bits (argNat args 0 4) 9 0 = 0) (hcru : 1 ≤ bits (argNat args 0 4) 21 12 ∧ bits (argNat args 0 4) 21 12 ≤ 720)
    (hhbm : 1 ≤ bits (argNat args 0 4) 31 22 ∧ bits (argNat args 0 4) 31 22 ≤ 720) :
    runScrubConfig s p args = .ok { s with scrub := { s.scrub with cfg := argNat args 0 4 } } := by
  have hgood : firstBad [(0, bits (argNat args 0 4) 9 0 == 0), (12, 1 ≤ bits (argNat args 0 4) 21 12 && bits (argNat args 0 4) 21 12 ≤ 720),
      (22, 1 ≤ bits (argNat args 0 4) 31 22 && bits (argNat args 0 4) 31 22 ≤ 720)] = none := by
    simp [firstBad_eq_none_iff, hzero, hcru, hhbm]
  simp only [runScrubConfig, hgood, State.modScrub]

theorem runPortConfig_ok (hport : argNat args 0 1 < 8) (hcfg : portCfgBad (argNat args 8 8) = none)
    (hready : (s.part (portPart s.nparts (argNat args 0 1))).st = .ready) :
    runPortConfig s p args = .ok (s.retrain (argNat args 0 1) (argNat args 8 8)) := by
  simp only [runPortConfig, if_neg (Nat.not_le.2 hport), hcfg, if_pos hready]

theorem runTelemConfig_ok (hk : argNat args 0 1 < 5) (hcfg : s.telemBad (argNat args 0 1) (argNat args 8 32) = none) :
    runTelemConfig s p args = .ok (s.startStream (argNat args 0 1) (argNat args 8 32)) := by
  simp only [runTelemConfig, if_neg (Nat.not_le.2 hk), hcfg]

theorem runFaultAck_give (hseq : argNat args 0 4 < s.hub.seq) :
    runFaultAck s p args = .give ({ s with hub := s.hub.close (argNat args 0 4) } : State).replay
      (leBytes 4 (s.hub.open_.filter fun r => r.seq ≤ argNat args 0 4).length) := by
  simp only [runFaultAck, if_neg (Nat.not_le.2 hseq), State.modHub]

theorem runPowerCap_ok (hlo : 1000 ≤ argNat args 0 2) (hhi : argNat args 0 2 ≤ 4400) :
    runPowerCap s p args = .ok { s with power := { s.power with cap := argNat args 0 2 } } := by
  have hcap : capOk (argNat args 0 2) = true := by simp [capOk, hlo, hhi]
  simp only [runPowerCap, hcap, ↓reduceIte, State.modPower]

theorem runHostTarget_ok {m : Nat} (hcfg : hostTargetBad s.nparts (mbxPart s.nparts m) (argNat args 8 32) = none)
    (hfree : s.targetInUse (argNat args 0 1) = false) :
    runHostTarget m s p args = .ok { s with net := { s.net with targets := updAt s.net.targets (argNat args 0 1) fun _ => argNat args 8 32,
                                                                deadTargets := s.net.deadTargets.filter (· != argNat args 0 1) } } := by
  simp only [runHostTarget, hcfg, hfree, Bool.false_eq_true, ↓reduceIte, State.modNet]

/-- A target value that is taken and is not a move to P2. -/
theorem runPowerState_ok {m : Nat} (hval : argNat args 0 1 ≤ 3) (hbusy : s.targetBusy (argNat args 0 1) = false)
    (hp2 : ¬(argNat args 0 1 = 2 ∧ s.power.pstate ≠ .p2)) : runPowerState m s p args = .ok (s.setTarget (argNat args 0 1)) := by
  simp only [runPowerState, if_neg (Nat.not_lt.2 hval), hbusy, Bool.false_eq_true, ↓reduceIte, if_neg hp2]

/-- A move to P2 holds the partitions at action 8 and keeps its mailbox TAKEN. -/
theorem runPowerState_p2 {m : Nat} (hbusy : s.targetBusy (argNat args 0 1) = false) (hp2 : argNat args 0 1 = 2 ∧ s.power.pstate ≠ .p2) :
    runPowerState m s p args = .keep ((s.setTarget 2).holdP2.takeMbx m) := by
  have hval : ¬3 < argNat args 0 1 := by omega
  simp only [runPowerState, if_neg hval, hbusy, Bool.false_eq_true, ↓reduceIte, if_pos hp2]
  rw [hp2.1]

end

/-! The scope of HOST.TARGET and TELEM.CONFIG (R217, R337). -/

/-- An entry without a faulty field is its partition's own. -/
theorem hostTargetBad_part {n p t : Nat} (h : hostTargetBad n (some p) t = none) : htDev t = false ∧ htPart t = p := by
  simp only [hostTargetBad, firstBad_eq_none_iff, List.forall_mem_cons, Option.isNone_some, Bool.false_or, Bool.not_eq_true', Bool.and_eq_true, beq_iff_eq] at h
  obtain ⟨-, hdev, ⟨-, hpart⟩, -⟩ := h
  exact ⟨hdev, hpart⟩

theorem targetScope_none {s : State} {m p : Nat} {args : List Byte} (hmay : mayRetarget (mbxPart s.nparts m) (s.net.targets.getD (argNat args 0 1) 0) = true)
    (hcfg : hostTargetBad s.nparts (mbxPart s.nparts m) (argNat args 8 32) = none) : targetScope m s p args = none := by
  unfold targetScope
  cases ho : mbxPart s.nparts m with
  | none => rfl
  | some q =>
    rw [ho] at hmay hcfg
    obtain ⟨hdev, hpart⟩ := hostTargetBad_part hcfg
    simp only [hmay, hdev, hpart, Bool.not_true, Bool.false_eq_true, ↓reduceIte, ne_eq, not_true_eq_false, or_self]

theorem State.nparts_le (s : State) : s.nparts ≤ 4 := by
  unfold State.nparts countOf
  split_ifs <;> decide

/-- A partition's mailbox belongs to one of the four partition places. -/
theorem State.mbxPart_lt {s : State} {m p : Nat} (h : mbxPart s.nparts m = some p) : p < 4 := by
  have hn := s.nparts_le
  unfold mbxPart at h
  split_ifs at h
  simp only [Option.some.injEq] at h
  omega

/-- A handle that fits its entry names one. -/
theorem State.target_isSome_of_handleOk {s : State} {o : Option Nat} {h n : Nat} (hok : s.handleOk o h n = true) : (s.target o h).isSome = true := by
  unfold State.handleOk at hok
  cases ht : s.target o h with
  | none => rw [ht] at hok; cases hok
  | some t => rfl

/-- The handles of a configured stream without a faulty field name entries of the stream's owner. -/
theorem State.telemBad_targets {s : State} {k c : Nat} (h : s.telemBad k c = none) (hon : TStream.configured { cfg := c } = true) :
    (s.target (streamOwner k) (TStream.prod { cfg := c })).isSome = true ∧ (s.target (streamOwner k) (TStream.ring { cfg := c })).isSome = true := by
  simp only [State.telemBad, firstBad_eq_none_iff, List.forall_mem_cons, hon, Bool.not_true, Bool.false_or] at h
  obtain ⟨-, -, hprod, -, hring, -⟩ := h
  exact ⟨State.target_isSome_of_handleOk hprod, State.target_isSome_of_handleOk hring⟩

/-- The stream that a mailbox may configure: a partition's own, or any for the device. -/
def State.mayStream (s : State) (m k : Nat) : Prop := match mbxPart s.nparts m with
  | some p => k = 1 + p
  | none => k < 5

theorem State.mayStream_lt {s : State} {m k : Nat} (h : s.mayStream m k) : k < 5 := by
  unfold State.mayStream at h
  cases ho : mbxPart s.nparts m with
  | none => rwa [ho] at h
  | some p =>
    have hp := State.mbxPart_lt ho
    simp only [ho] at h
    omega

theorem State.eq_of_mayStream {s : State} {m k p : Nat} (h : s.mayStream m k) (ho : mbxPart s.nparts m = some p) : k = 1 + p := by
  unfold State.mayStream at h
  rwa [ho] at h

/-- A stream within its mailbox's scope is checked for its handles alone. -/
theorem telemScope_of_mayStream {s : State} {m p : Nat} {args : List Byte} (hmine : s.mayStream m (argNat args 0 1)) :
    telemScope m s p args =
      let k := argNat args 0 1
      let t : TStream := { cfg := argNat args 8 32 }
      if !t.configured ∨ 5 ≤ k then none
      else if (s.target (streamOwner k) t.prod).isNone then some 20
      else if (s.target (streamOwner k) t.ring).isNone then some 32 else none := by
  unfold telemScope
  cases ho : mbxPart s.nparts m with
  | none => simp only [Bool.not_true, Bool.false_eq_true, ↓reduceIte]
  | some q =>
    have hk : (argNat args 0 1 == 1 + q) = true := beq_iff_eq.2 (State.eq_of_mayStream hmine ho)
    simp only [hk, Bool.not_true, Bool.false_eq_true, ↓reduceIte]

theorem telemScope_none {s : State} {m p : Nat} {args : List Byte} (hmine : s.mayStream m (argNat args 0 1))
    (hcfg : s.telemBad (argNat args 0 1) (argNat args 8 32) = none) : telemScope m s p args = none := by
  rw [telemScope_of_mayStream hmine]
  -- Only a configured stream names host targets.
  by_cases hon : TStream.configured { cfg := argNat args 8 32 } = true
  · obtain ⟨hprod, hring⟩ := State.telemBad_targets hcfg hon
    simp [Option.isSome_iff_ne_none.1 hprod, Option.isSome_iff_ne_none.1 hring]
  · simp [hon]

/-- Settles O11: each command is let in, names nothing out of its scope, and its own part accepts its operands. -/
theorem deviceCommandsComplete : Obligations.DeviceCommandsComplete := by
  intro s m
  refine ⟨fun h => ?unitQuery, fun h hid hfree => ?idAssign, fun h hcfg hready => ?partCreate, fun h hzero hcru hcru' hhbm hhbm' => ?scrubConfig,
    fun h hport hcfg hready => ?portConfig, fun h hmay hcfg hfree => ?hostTarget, fun h hmine hcfg => ?telemConfig, fun h hseq => ?faultAck,
    fun h hlo hhi => ?powerCap, fun h hval hbusy => ?powerState⟩
  case unitQuery => exact answer_command_give h rfl rfl
  case idAssign => exact answer_command_give h rfl (runIdAssign_ok hid hfree)
  case partCreate => exact answer_command_give h rfl (runPartCreate_ok hcfg hready)
  case scrubConfig => exact answer_command_give h rfl (runScrubConfig_ok hzero ⟨hcru, hcru'⟩ ⟨hhbm, hhbm'⟩)
  case portConfig => exact answer_command_give h rfl (runPortConfig_ok hport hcfg hready)
  case hostTarget => exact answer_command_give h (targetScope_none hmay hcfg) (runHostTarget_ok hcfg hfree)
  case telemConfig => exact answer_command_give h (telemScope_none hmine hcfg) (runTelemConfig_ok (State.mayStream_lt hmine) hcfg)
  case faultAck => exact answer_command_give h rfl (runFaultAck_give hseq)
  case powerCap => exact answer_command_give h rfl (runPowerCap_ok hlo hhi)
  case powerState =>
    split_ifs with hp2
    · exact answer_command_keep h (runPowerState_p2 hbusy hp2)
    · exact answer_command_give h rfl (runPowerState_ok hval hbusy hp2)

/-! ## Cipher requests: submission (R26, R273, R277, R287) -/

section
variable {s u : State} {r : Nat}

/-- A request is submitted by the row of its own op. -/
theorem exec_submit (h : doSubmit (cqOp r) r s = u) :
    (cqOp r = 0 → exec (.gcmSeal r) s = .next u) ∧ (cqOp r = 1 → exec (.gcmOpen r) s = .next u) ∧
    (cqOp r = 2 → exec (.xtsEncrypt r) s = .next u) ∧ (cqOp r = 3 → exec (.xtsDecrypt r) s = .next u) := by
  subst h
  refine ⟨fun e => ?_, fun e => ?_, fun e => ?_, fun e => ?_⟩ <;> rw [e] <;> rfl

theorem doSubmit_malformed (h : s.reqOk r = false) : doSubmit (cqOp r) r s = s.finish r 5 := by
  simp [doSubmit, h]

theorem doSubmit_fenced (h : s.reqOk r = true) (hf : (s.part (cqPart r)).fenced = true) : doSubmit (cqOp r) r s = s.finish r 4 := by
  simp [doSubmit, h, hf]

theorem doSubmit_enter (h : s.reqOk r = true) (hf : (s.part (cqPart r)).fenced = false) (hroom : s.cipher.room s.nparts (cqPart r) (cqReq r) = true) :
    doSubmit (cqOp r) r s = s.modCipher fun c => c.enter s.tick { raw := r, queued := s.tick, cls := cqClass r } := by
  simp [doSubmit, h, hf, hroom]

theorem doSubmit_wait (h : s.reqOk r = true) (hf : (s.part (cqPart r)).fenced = false) (hroom : s.cipher.room s.nparts (cqPart r) (cqReq r) = false) :
    doSubmit (cqOp r) r s = s.modCipher fun c => { c with waiting := c.waiting ++ [{ raw := r, queued := s.tick, cls := cqClass r }] } := by
  simp [doSubmit, h, hf, hroom]

end

/-- A request that enters takes a free entry, so that the book still balances. -/
theorem Cipher.book_enter {c : Cipher} (hfree : 0 < c.free) (hbook : c.book = true) (now : Nat) (x : CReq) : (c.enter now x).book = true := by
  simp only [Cipher.book, Cipher.entries, Cipher.enter, beq_iff_eq, List.length_append, List.length_singleton] at hbook ⊢
  omega

/-! ## Starts and promotions (R274, R277, R278) -/

/-- The next request starts on the free core of lowest index. -/
theorem doCipherRequestStart_free {s : State} {p i k : Nat} {x : CReq} {rest : List Nat} (hp3 : s.power.pstate ≠ .p3) (hnext : s.cipher.nextReq p = some (i, x))
    (hleft : s.coreLeft p = true) (hfree : ((s.coresOf p).filter fun k => (s.cipher.cores.getD k {}).run.isNone) = k :: rest) :
    doCipherRequestStart p s = s.startOn k i x := by
  simp only [doCipherRequestStart, hfree, if_neg hp3, hnext, hleft, Bool.not_true, Bool.false_eq_true, ↓reduceIte]

/-- A class-2 request that has waited 1 ms is of class 1. -/
theorem doCipherPromote_eq (s : State) (p : Nat) :
    doCipherPromote p s = s.modCipher fun c => { c with
      queue := c.queue.map fun x => if cqPart x.raw = p ∧ x.cls = 2 ∧ ticksMs 1 ≤ s.tick - x.queued then { x with cls := 1 } else x } := by
  simp only [doCipherPromote, Bool.and_eq_true, beq_iff_eq, decide_eq_true_eq, and_assoc]

/-! ## What a request does (R274, R276, R279) -/

/-- A core goes idle: its entry is free, the request completes under a status, and a request that waits may enter (R276). -/
def State.freeCore (s : State) (k r status : Nat) : State :=
  ((s.modCipher fun c => { c.modCore k fun q => { q with run := none } with free := c.free + 1 }).finish r status).letIn

section
variable {s t : State} {k : Nat} {x : CReq}

/-- A core whose pipelines disagree is retired. -/
theorem exec_cipherRequestDone_mismatch (hk : k < 16) (hrun : (s.cipher.cores.getD k {}).run = some x) :
    exec (.cipherRequestDone k true) s = .next ((s.retireCore k).coresGone (corePart s.nparts k)) := by
  refine answer_of_ok (decide_eq_true hk) ?_
  rw [doCipherRequestDone, hrun]
  rfl

/-- A request whose work gives any status but 1 completes with it. -/
theorem exec_cipherRequestDone_work {st : Nat} (hk : k < 16) (hrun : (s.cipher.cores.getD k {}).run = some x) (hst : st ≠ 1) (hwork : s.cipherWork x = (t, st)) :
    exec (.cipherRequestDone k false) s = .next (t.freeCore k x.raw st) := by
  refine answer_of_ok (decide_eq_true hk) ?_
  rw [doCipherRequestDone, hrun]
  simp only [Bool.false_eq_true, ↓reduceIte, State.coreDone, hwork, if_neg hst, State.freeCore]

/-- A request whose tag does not verify is counted before it completes. -/
theorem exec_cipherRequestDone_authFail (hk : k < 16) (hrun : (s.cipher.cores.getD k {}).run = some x) (hwork : s.cipherWork x = (s, 1)) :
    exec (.cipherRequestDone k false) s = .next ((s.authFail x).freeCore k x.raw 1) := by
  refine answer_of_ok (decide_eq_true hk) ?_
  rw [doCipherRequestDone, hrun]
  simp only [Bool.false_eq_true, ↓reduceIte, State.coreDone, hwork, State.freeCore]

/-- The slot of a request: the one bound, else the one named. -/
abbrev State.slotFor (s : State) (x : CReq) : Slot := s.slot (x.slot.getD (cqSlot x.raw))

/-- The data of a request. -/
abbrev State.cqData (s : State) (x : CReq) : List Byte := s.load (gLocal (cqSrc x.raw)) (cqLen x.raw)

/-- Its AAD. -/
abbrev State.cqAadBytes (s : State) (x : CReq) : List Byte := s.load (gLocal (cqAad x.raw)) (cqAadLen x.raw)

/-- The mark of its data. -/
abbrev State.cqMark (s : State) (x : CReq) : Bool := s.loadMark (gLocal (cqSrc x.raw)) (cqLen x.raw)

/-- What an open makes of its data: nothing where the stored tag does not verify. -/
abbrev State.cqOpen (s : State) (x : CReq) : Option (List Byte) :=
  gcmOpenBytes (s.slotFor x).gcmKey (beBytes 12 (bits (cqIv x.raw) 127 32)) (s.cqAadBytes x) (s.cqData x) (s.load (gLocal (cqTag x.raw)) 16)

theorem State.cipherWork_noKey (h : (s.slotFor x).state = 0 ∨ (s.slotFor x).state = 4) : s.cipherWork x = (s, 3) := if_pos h

end

section
variable {s : State} {x : CReq} (h0 : (s.slotFor x).state ≠ 0) (h4 : (s.slotFor x).state ≠ 4)
include h0 h4

theorem State.cipherWork_seal (hop : cqOp x.raw = 0) :
    s.cipherWork x =
      let r := x.raw
      let a := s.slotFor x
      let head := insertCtr (s.cqAadBytes x) (cqIns r) (swEpoch a.word) (x.ctr.getD 0)
      let out := gcmSealBytes a.gcmKey (gcmIv s.moduleId (cqPart r) (swEpoch a.word) (x.ctr.getD 0)) head (s.cqData x)
      (((s.save (gLocal (cqAad r)) head (s.loadMark (gLocal (cqAad r)) (cqAadLen r))).save (gLocal (cqDst r)) out.1 (s.cqMark x)).save
        (gLocal (cqTag r)) out.2 (s.cqMark x), 0) := by
  simp only [State.cipherWork, if_neg (not_or.2 ⟨h0, h4⟩), if_pos hop]

theorem State.cipherWork_open {m : List Byte} (hop : cqOp x.raw = 1) (hm : s.cqOpen x = some m) :
    s.cipherWork x = (s.save (gLocal (cqDst x.raw)) m (s.cqMark x), 0) := by
  have hne : cqOp x.raw ≠ 0 := by omega
  simp only [State.cipherWork, if_neg (not_or.2 ⟨h0, h4⟩), if_neg hne, if_pos hop, hm]

theorem State.cipherWork_openFails (hop : cqOp x.raw = 1) (hm : s.cqOpen x = none) : s.cipherWork x = (s, 1) := by
  have hne : cqOp x.raw ≠ 0 := by omega
  simp only [State.cipherWork, if_neg (not_or.2 ⟨h0, h4⟩), if_neg hne, if_pos hop, hm]

theorem State.cipherWork_xts (hop : 2 ≤ cqOp x.raw) :
    s.cipherWork x = (s.save (gLocal (cqDst x.raw)) ((if cqOp x.raw = 2 then xtsEnc else xtsDec) (s.slotFor x).xtsKey (cqIv x.raw) (s.cqData x)) (s.cqMark x), 0) := by
  have hne0 : cqOp x.raw ≠ 0 := by omega
  have hne1 : cqOp x.raw ≠ 1 := by omega
  simp only [State.cipherWork, if_neg (not_or.2 ⟨h0, h4⟩), if_neg hne0, if_neg hne1]

end

/-! ## Faults of slots, ends of offers, nonces and the fill (R285-R287, R299, R301) -/

theorem exec_keyFault {k : Nat} (hk : k < 512) (e : KeyErr) (s : State) : exec (.keyFault k e) s = .next (doKeyFault k e s) :=
  answer_of_ok (decide_eq_true hk) rfl

theorem doKeyFault_faulted {e : KeyErr} (he : e = .keyTwo ∨ e = .wordNone ∨ e = .counterTwo) (k : Nat) (s : State) :
    doKeyFault k e s = (s.modCipher fun c => c.modSlot k fun _ => Slot.faulted).raise (slotRec (slotPart s.nparts k) k 2 0x71) := by
  obtain rfl | rfl | rfl := he <;> rfl

/-- An offer that has stood for 600 s is destroyed. -/
theorem doKeyOfferExpiry_due {s : State} {p id : Nat} {o : Nat × Nat × Nat × Nat} (ho : o ∈ (s.part p).offers) (hid : o.1 = id)
    (hdue : o.2.2.2 + ticksSec 600 ≤ s.tick) :
    doKeyOfferExpiry p id s = s.modPart p fun q => { q with offers := q.offers.filter fun o => o.1 != id } := by
  have hany : ((s.part p).offers.any fun o => o.1 == id && o.2.2.2 + offerTicks ≤ s.tick) = true :=
    List.any_eq_true.2 ⟨o, ho, by simp [hid, offerTicks, hdue]⟩
  simp only [doKeyOfferExpiry, hany, ↓reduceIte]

theorem doDebugNonceExpiry_due {s : State} {n t : Nat} (hn : s.sec.nonce = some (n, t)) (hdue : t + ticksSec 60 ≤ s.tick) :
    doDebugNonceExpiry s = { s with sec := { s.sec with nonce := none } } := by
  have hlapsed : t + nonceTicks ≤ s.tick := by simp only [ticksSec] at hdue; simp only [nonceTicks]; omega
  have hany : (s.sec.nonce.any fun n => decide (n.2 + nonceTicks ≤ s.tick)) = true := by
    rw [hn, Option.any_some]
    exact decide_eq_true hlapsed
  exact if_pos hany

theorem doDebugFillDone_filling {s : State} (h : s.sec.fill.isSome = true) :
    doDebugFillDone s = s.zeroMemory.modSec fun x => { x with fill := none, debug := 2 } := if_pos h

/-- HBM and crucible read zero once they are zeroed, and the rest of memory as before. -/
theorem State.read_zeroMemory (s : State) (a : Nat) : Memory.read s.zeroMemory.mem a = if a < 3 * 2 ^ 41 then 0#8 else Memory.read s.mem a := by
  unfold State.zeroMemory Memory.read
  split_ifs with h
  · rw [Memory.find_filter_none fun c hc => by simp only [hc, decide_eq_false_iff_not]; omega]
    rfl
  · rw [Memory.find_filter fun c hc => by simp only [hc, decide_eq_true_eq]; omega]

/-- Settles O52: a clause each for what a request submitted, a core, a promotion, a slot, an offer, a nonce and the fill come to. -/
theorem cipherRequestsComplete : Obligations.CipherRequestsComplete := by
  refine ⟨fun s r hok => ⟨fun hf => ?fenced, fun hf hroom => ?queued, fun hf hroom => ?held, fun hfree hbook => ?book⟩, fun s r hbad => ?malformed,
    fun s p i k x rest hp hp3 hnext hleft hfree => ?start,
    fun s k x hk hrun => ⟨?retired, fun hst => ?noKey, fun h0 h4 =>
      ⟨fun hop => ?seals, fun m hop hm => ?opens, fun hop hm => ?fails, fun hop => ?encrypts, fun hop => ?decrypts⟩⟩,
    fun s p hp => ?promote, fun s k hk => ⟨exec_keyFault hk _ s, exec_keyFault hk _ s, fun e he => ?faulted, fun hst => ?readBack⟩,
    fun s p id o hp ho hid hdue => ?offer, fun s n t hn hdue => ?nonce, fun s hfill => ?fill⟩
  case fenced => exact exec_submit (doSubmit_fenced hok hf)
  case queued => exact exec_submit (doSubmit_enter hok hf hroom)
  case held => exact exec_submit (doSubmit_wait hok hf hroom)
  case book => exact Cipher.book_enter hfree hbook s.tick { raw := r, queued := s.tick, cls := cqClass r }
  case malformed => exact exec_submit (doSubmit_malformed hbad)
  case start => exact answer_of_ok (decide_eq_true hp) (doCipherRequestStart_free hp3 hnext hleft hfree)
  case retired => exact exec_cipherRequestDone_mismatch hk hrun
  case noKey => exact exec_cipherRequestDone_work hk hrun (by decide) (State.cipherWork_noKey hst)
  case seals => exact exec_cipherRequestDone_work hk hrun (by decide) (State.cipherWork_seal h0 h4 hop)
  case opens => exact exec_cipherRequestDone_work hk hrun (by decide) (State.cipherWork_open h0 h4 hop hm)
  case fails => exact exec_cipherRequestDone_authFail hk hrun (State.cipherWork_openFails h0 h4 hop hm)
  case encrypts =>
    have hwork := State.cipherWork_xts h0 h4 hop.ge
    rw [if_pos hop] at hwork
    exact exec_cipherRequestDone_work hk hrun (by decide) hwork
  case decrypts =>
    have hwork := State.cipherWork_xts h0 h4 (by omega)
    rw [if_neg (by omega)] at hwork
    exact exec_cipherRequestDone_work hk hrun (by decide) hwork
  case promote => exact answer_of_ok (decide_eq_true hp) (doCipherPromote_eq s p)
  case faulted => rw [exec_keyFault hk, doKeyFault_faulted he]
  case readBack => exact (exec_keyFault hk _ s).trans (congrArg _ (if_pos hst))
  case offer => exact answer_of_ok (decide_eq_true hp) (doKeyOfferExpiry_due ho hid hdue)
  case nonce => exact answer_of_ok rfl (doDebugNonceExpiry_due hn hdue)
  case fill =>
    refine ⟨_, answer_of_ok rfl (doDebugFillDone_filling hfill), rfl, fun a ha => ?_, fun a ha => ?_, rfl, rfl⟩
    · exact (State.read_zeroMemory s a).trans (if_pos ha)
    · exact (State.read_zeroMemory s a).trans (if_neg (Nat.not_lt.2 ha))

end Sys2Proof.Machine
end

section
/-! PROOF. The statements about the training step (chapter 02): what is read of a changed partition, token counters, and what an issue changes (R33, R34). -/

namespace Sys2Proof.Machine

/-! ## A partition changed, and what is read of it -/

/-- Two changes that agree on an entry leave the same list. -/
theorem updAt_congr {α : Type} {f g : α → α} (d : α) : ∀ {l : List α} {i : Nat}, f (l.getD i d) = g (l.getD i d) → updAt l i f = updAt l i g
  | [], _, _ => rfl
  | _ :: _, 0, h => congrArg (· :: _) h
  | x :: xs, i + 1, h => congrArg (x :: ·) (updAt_congr (l := xs) (i := i) d h)

section
variable {s : State} {p : Nat}

theorem State.part_modPart_self (hp : p < s.parts.length) (f : Part → Part) : (s.modPart p f).part p = f (s.part p) :=
  getD_updAt_self f {} s.parts p hp

theorem State.run_modRun_self (hp : p < s.parts.length) (f : Run → Run) : ((s.modRun p f).part p).run = f (s.part p).run :=
  congrArg Part.run (State.part_modPart_self hp _)

/-- What a change of partitions does not touch reads as before, of whatever partition. -/
theorem State.modPart_reads {α : Type} (π : Part → α) {f : Part → Part} (hf : ∀ q, π (f q) = π q) (s : State) (p q : Nat) :
    π ((s.modPart p f).part q) = π (s.part q) := by
  simp only [State.part, State.modPart_parts, getD_updAt]
  split_ifs with h
  · rw [hf, h.1]
  · rfl

theorem State.modRun_reads {α : Type} (π : Run → α) {f : Run → Run} (hf : ∀ r, π (f r) = π r) (s : State) (p q : Nat) :
    π ((s.modRun p f).part q).run = π (s.part q).run :=
  State.modPart_reads (fun x => π x.run) (fun x => hf x.run) s p q

theorem State.seq_modSeq_self (hp : p < s.parts.length) (hseqs : (s.part p).run.seqs.length = 3) (t : Sid) (f : Seq → Seq) :
    (s.modSeq p t f).seq p t = f (s.seq p t) := by
  have ht : sidIx t < (s.part p).run.seqs.length := by cases t <;> simp [hseqs, sidIx]
  rw [State.seq, State.modSeq, State.run_modRun_self hp]
  exact getD_updAt_self f {} _ _ ht

theorem State.seq_modSeq_ne {t u : Sid} (h : u ≠ t) (s : State) (p q : Nat) (f : Seq → Seq) : (s.modSeq p t f).seq q u = s.seq q u := by
  have hix : sidIx u ≠ sidIx t := by revert h; cases t <;> cases u <;> simp [sidIx]
  exact State.modRun_reads (fun r => r.seqs.getD (sidIx u) {}) (fun r => getD_updAt_ne f {} r.seqs _ _ hix) s p q

/-- What a change of one sequencer does not touch of a run. -/
theorem State.modSeq_reads {α : Type} (π : Run → α) (hπ : ∀ r l, π { r with seqs := l } = π r) (s : State) (p q : Nat) (t : Sid) (f : Seq → Seq) :
    π ((s.modSeq p t f).part q).run = π (s.part q).run :=
  State.modRun_reads π (fun r => hπ r _) s p q

end

/-! ## Token counters (R33, R34) -/

section
variable {s : State} {p k : Nat}

theorem State.signal_below (h : (s.part p).run.tokens.getD k 0 < 65535) :
    s.signal p k = s.modRun p fun r => { r with tokens := updAt r.tokens k (· + 1) } := if_neg (Nat.not_le.2 h)

theorem State.signal_atLimit (h : 65535 ≤ (s.part p).run.tokens.getD k 0) : s.signal p k = s.raise { recPart p sevPart 0x21 with detail := k } := if_pos h

/-- A run's counters rewritten with the value that a change gives them are the counters changed. -/
theorem State.modRun_tokens_eq (s : State) (p : Nat) (f : List Nat → List Nat) :
    (s.modRun p fun r => { r with tokens := f r.tokens }) = s.modRun p fun r => { r with tokens := f (s.part p).run.tokens } := by
  have h : updAt s.parts p (fun q => { q with run := { q.run with tokens := f q.run.tokens } }) =
      updAt s.parts p fun q => { q with run := { q.run with tokens := f (s.part p).run.tokens } } := updAt_congr {} rfl
  exact congrArg (fun l => { s with parts := l }) h

end

/-- Settles O15: below the limit a signal is a change of one counter; at it, a record and nothing else. -/
theorem tokenSignalCounts : Obligations.TokenSignalCounts := by
  intro s p k hp hk
  refine ⟨fun hlt => ?below, fun hge => ?atLimit⟩
  case below =>
    have htok : ((s.signal p k).part p).run.tokens = updAt (s.part p).run.tokens k (· + 1) := by
      rw [State.signal_below hlt, State.run_modRun_self hp]
    rw [htok]
    refine ⟨getD_updAt_self _ _ _ _ hk, fun j hj => getD_updAt_ne _ _ _ _ _ hj, ?_⟩
    rw [State.signal_below hlt]
    exact State.modRun_tokens_eq s p fun l => updAt l k (· + 1)
  case atLimit => exact ⟨_, State.signal_atLimit hge, rfl, rfl, rfl, rfl⟩

/-! ## Operations that move runs alone -/

/-- The wait of a word taken from its counter. -/
def State.takeWait (s : State) (p w : Nat) : State :=
  if siWaitEn w then s.modRun p fun r => { r with tokens := updAt r.tokens (siWaitTok w) (· - siWaitCnt w) } else s

theorem State.consume_eq (s : State) (p : Nat) (t : Sid) (w : Nat) :
    s.consume p t w = ((s.addStall p t).takeWait p w).modSeq p t fun q => { q with pc := q.pc + 1, blocked := none } := rfl

/-- From `s` to `t` nothing moved but the runs of partitions, and what the hub holds. -/
structure RunOnly (s t : State) : Prop where
  frame : t = { s with parts := t.parts, hub := t.hub }
  length : t.parts.length = s.parts.length
  part : ∀ q, t.part q = { s.part q with run := (t.part q).run }

section
variable {a s t : State} {p : Nat}

theorem RunOnly.refl (s : State) : RunOnly s s := ⟨rfl, rfl, fun _ => rfl⟩

theorem RunOnly.trans {u : State} (h : RunOnly s t) (k : RunOnly t u) : RunOnly s u where
  frame := by rw [k.frame, h.frame]
  length := k.length.trans h.length
  part q := by rw [k.part q, h.part q]

theorem RunOnly.modRun (h : RunOnly a s) (p : Nat) (f : Run → Run) : RunOnly a (s.modRun p f) where
  frame := by rw [h.frame]; rfl
  length := (length_updAt _ _ _).trans h.length
  part q := by
    have hq : ((s.modRun p f).part q) = { s.part q with run := ((s.modRun p f).part q).run } := by
      simp only [State.part, State.modRun_parts, getD_updAt]
      split_ifs with hc
      · rw [hc.1]
      · rfl
    rw [hq, h.part q]

theorem RunOnly.modSeq (h : RunOnly a s) (p : Nat) (t : Sid) (f : Seq → Seq) : RunOnly a (s.modSeq p t f) := h.modRun p _

theorem RunOnly.raise (h : RunOnly a s) (r : FaultRec) : RunOnly a (s.raise r) where
  frame := by rw [h.frame]; rfl
  length := h.length
  part q := h.part q

theorem RunOnly.signal (h : RunOnly a s) (p k : Nat) : RunOnly a (s.signal p k) := by
  unfold State.signal
  split_ifs
  · exact h.raise _
  · exact h.modRun p _

theorem RunOnly.signalAtIssue (h : RunOnly a s) (p w : Nat) : RunOnly a (s.signalAtIssue p w) := by
  unfold State.signalAtIssue
  split_ifs
  · exact h.signal p _
  · exact h

theorem RunOnly.addStall (h : RunOnly a s) (p : Nat) (t : Sid) : RunOnly a (s.addStall p t) := by
  unfold State.addStall
  split
  · exact h.modRun p _
  · exact h.modRun p _
  · exact h

theorem RunOnly.takeWait (h : RunOnly a s) (p w : Nat) : RunOnly a (s.takeWait p w) := by
  unfold State.takeWait
  split_ifs
  · exact h.modRun p _
  · exact h

theorem RunOnly.consume (h : RunOnly a s) (p : Nat) (t : Sid) (w : Nat) : RunOnly a (s.consume p t w) :=
  ((h.addStall p t).takeWait p w).modSeq p t _

theorem RunOnly.openInsn (h : RunOnly a s) (p : Nat) (t : Sid) (w d : Nat) : RunOnly a (s.openInsn p t w d) := (h.modRun p _).modSeq p t _

theorem RunOnly.microBatch (h : RunOnly a s) (p : Nat) (t : Sid) (begins : Bool) : RunOnly a (s.microBatch p t begins) := by
  unfold State.microBatch
  split
  · exact h.modRun p _
  · exact h.modRun p _
  · exact h

theorem RunOnly.onePass (h : RunOnly a s) (p : Nat) (t : Sid) : RunOnly a (s.onePass p t) := by
  unfold State.onePass
  dsimp only
  split_ifs
  · exact h.microBatch p t _
  · exact h.microBatch p t _
  · exact h

/-! What such an operation leaves as it was. -/

theorem RunOnly.mem (h : RunOnly s t) : t.mem = s.mem := by rw [h.frame]
theorem RunOnly.hearths (h : RunOnly s t) : t.hearths = s.hearths := by rw [h.frame]
theorem RunOnly.tempers (h : RunOnly s t) : t.tempers = s.tempers := by rw [h.frame]
theorem RunOnly.nparts (h : RunOnly s t) : t.nparts = s.nparts := by rw [h.frame]; rfl
theorem RunOnly.coll (h : RunOnly s t) (q : Nat) : (t.part q).coll = (s.part q).coll := by rw [h.part]
theorem RunOnly.pyro (h : RunOnly s t) (q : Nat) : (t.part q).pyro = (s.part q).pyro := by rw [h.part]

end

/-! ## What an issue changes of a run (R33, R35) -/

section
variable {s : State} {p : Nat} {t : Sid}

theorem State.signal_reads {α : Type} (π : Run → α) (hπ : ∀ r l, π { r with tokens := l } = π r) (s : State) (p k q : Nat) :
    π ((s.signal p k).part q).run = π (s.part q).run := by
  unfold State.signal
  split_ifs
  · rfl
  · exact State.modRun_reads π (fun r => hπ r _) s p q

theorem State.signalAtIssue_reads {α : Type} (π : Run → α) (hπ : ∀ r l, π { r with tokens := l } = π r) (s : State) (p w q : Nat) :
    π ((s.signalAtIssue p w).part q).run = π (s.part q).run := by
  unfold State.signalAtIssue
  split_ifs
  · exact State.signal_reads π hπ s p _ q
  · rfl

@[simp] theorem State.seq_signalAtIssue (s : State) (p w q : Nat) (u : Sid) : (s.signalAtIssue p w).seq q u = s.seq q u :=
  State.signalAtIssue_reads (fun r => r.seqs.getD (sidIx u) {}) (fun _ _ => rfl) s p w q

theorem State.addStall_reads {α : Type} (π : Run → α) (hπ : ∀ r l, π { r with stalls := l } = π r) (s : State) (p : Nat) (t : Sid) (q : Nat) :
    π ((s.addStall p t).part q).run = π (s.part q).run := by
  unfold State.addStall
  split
  · exact State.modRun_reads π (fun r => hπ r _) s p q
  · exact State.modRun_reads π (fun r => hπ r _) s p q
  · rfl

theorem State.takeWait_reads {α : Type} (π : Run → α) (hπ : ∀ r l, π { r with tokens := l } = π r) (s : State) (p w q : Nat) :
    π ((s.takeWait p w).part q).run = π (s.part q).run := by
  unfold State.takeWait
  split_ifs
  · exact State.modRun_reads π (fun r => hπ r _) s p q
  · rfl

theorem State.consume_reads {α : Type} (π : Run → α) (hstalls : ∀ r l, π { r with stalls := l } = π r) (htokens : ∀ r l, π { r with tokens := l } = π r)
    (hseqs : ∀ r l, π { r with seqs := l } = π r) (s : State) (p : Nat) (t : Sid) (w q : Nat) :
    π ((s.consume p t w).part q).run = π (s.part q).run := by
  rw [State.consume_eq, State.modSeq_reads π hseqs, State.takeWait_reads π htokens, State.addStall_reads π hstalls]

theorem State.hub_consume (s : State) (p : Nat) (t : Sid) (w : Nat) : (s.consume p t w).hub = s.hub := by
  have hstall : (s.addStall p t).hub = s.hub := by unfold State.addStall; split <;> rfl
  have hwait : ((s.addStall p t).takeWait p w).hub = (s.addStall p t).hub := by unfold State.takeWait; split_ifs <;> rfl
  exact hwait.trans hstall

/-- The stream goes on at the next word, and nothing blocks it. -/
theorem State.seq_consume_self (hp : p < s.parts.length) (hseqs : (s.part p).run.seqs.length = 3) (t : Sid) (w : Nat) :
    (s.consume p t w).seq p t = { s.seq p t with pc := (s.seq p t).pc + 1, blocked := none } := by
  have hread : ((s.addStall p t).takeWait p w).seq p t = s.seq p t := by
    rw [State.seq, State.takeWait_reads Run.seqs (fun _ _ => rfl), State.addStall_reads Run.seqs (fun _ _ => rfl), State.seq]
  have hlen := (((RunOnly.refl s).addStall p t).takeWait p w).length
  rw [State.consume_eq, State.seq_modSeq_self (hlen.symm ▸ hp), hread]
  · rw [State.takeWait_reads Run.seqs (fun _ _ => rfl), State.addStall_reads Run.seqs (fun _ _ => rfl)]; exact hseqs

theorem State.seq_consume_ne {u : Sid} (h : u ≠ t) (s : State) (p w : Nat) : (s.consume p t w).seq p u = s.seq p u := by
  rw [State.consume_eq, State.seq_modSeq_ne h, State.seq, State.takeWait_reads Run.seqs (fun _ _ => rfl), State.addStall_reads Run.seqs (fun _ _ => rfl), State.seq]

theorem State.tokens_consume (hp : p < s.parts.length) (t : Sid) (w : Nat) :
    ((s.consume p t w).part p).run.tokens =
      if siWaitEn w then updAt (s.part p).run.tokens (siWaitTok w) (· - siWaitCnt w) else (s.part p).run.tokens := by
  have hstall : ((s.addStall p t).part p).run.tokens = (s.part p).run.tokens := State.addStall_reads Run.tokens (fun _ _ => rfl) s p t p
  rw [State.consume_eq, State.modSeq_reads Run.tokens (fun _ _ => rfl), State.takeWait]
  split_ifs
  · rw [State.run_modRun_self (((RunOnly.refl s).addStall p t).length.symm ▸ hp), hstall]
  · exact hstall

/-- A change that leaves the default alone is what is read after it, whether or not the entry is there. -/
theorem getD_updAt_of_fix {α : Type} {f : α → α} {d : α} (h : f d = d) (l : List α) (i : Nat) : (updAt l i f).getD i d = f (l.getD i d) := by
  by_cases hi : i < l.length
  · exact getD_updAt_self f d l i hi
  · rw [updAt_past f l i (Nat.not_lt.1 hi), List.getD_eq_default _ _ (Nat.not_lt.1 hi), h]

end

/-- Settles O16: an issue counts the stall, takes the wait, and moves the stream on. -/
theorem issueConsumesWait : Obligations.IssueConsumesWait := by
  intro s p t w hp _ hseqs
  have h := (RunOnly.refl s).consume p t w
  refine ⟨?own, fun k hk => ?others, ?pc, fun u hu => State.seq_consume_ne hu s p w, h.mem, ?hub, h.hearths⟩
  case own =>
    rw [State.tokens_consume hp]
    split_ifs
    · exact getD_updAt_of_fix (f := (· - siWaitCnt w)) (Nat.zero_sub _) _ _
    · rfl
  case others =>
    rw [State.tokens_consume hp]
    split_ifs
    · exact getD_updAt_ne _ _ _ _ _ hk
    · rfl
  case pc => rw [State.seq_consume_self hp hseqs]
  case hub => exact State.hub_consume s p t w

end Sys2Proof.Machine
end

section
/-! PROOF. The issue of a stream's word and the CTRL instructions (R30, R31, R36, R39, R42, R47). -/

namespace Sys2Proof.Machine

/-! ## The issue of a word (R31, R33) -/

section
variable {s : State} {p : Nat} {t : Sid} {c op w : Nat}

/-- What becomes of the word that a running stream meets: outside a group, or in a group with a block running. -/
theorem State.issue_of_fetch (hruns : s.seqRuns p t = true) (hblock : ∀ g, (s.seq p t).group = some g → g.cur.isSome = true)
    (hfetch : s.fetch p t (s.seq p t).pc = some w) (act : State → Nat → State) :
    s.issue p t c op act =
      let a := (s.program p t).1 + 16 * (s.seq p t).pc
      if s.marked (gLocal a) 16 || !s.wordOk p t w then s.streamMalformed p t w a
      else if siClass w ≠ c ∨ siOp w ≠ op then s
      else if !s.waitMet p t w then s.block p t .token
      else if 32 ≤ (s.seq p t).out.length then s.block p t .full
      else act s w := by
  cases hg : (s.seq p t).group with
  | none => simp only [State.issue, hruns, hg, hfetch, Bool.not_true, Bool.or_self, Bool.false_eq_true, ↓reduceIte]
  | some g =>
    have hcur : g.cur.isNone = false := Option.isNone_eq_false_iff.2 (hblock g hg)
    simp only [State.issue, hruns, hg, hcur, hfetch, Bool.not_true, Bool.or_self, Bool.false_eq_true, ↓reduceIte]

theorem State.issue_of_issues (h : s.issues p t c op w) (act : State → Nat → State) : s.issue p t c op act = act s w := by
  obtain ⟨-, hruns, hblock, hfetch, hmark, hword, hc, hop, hwait, hroom⟩ := h
  have hmine : ¬(siClass w ≠ c ∨ siOp w ≠ op) := by simp [hc, hop]
  simp only [State.issue_of_fetch hruns hblock hfetch, hmark, hword, if_neg hmine, hwait, if_neg (Nat.not_le.2 hroom), Bool.not_true, Bool.or_self,
    Bool.false_eq_true, ↓reduceIte]

/-- Settles O17: the checks of R31 come before those of class and op, so that the word stops its stream under any stream command. -/
theorem malformedWordStops : Obligations.MalformedWordStops := by
  intro s p t c op act w hruns hblock hfetch hbad
  have hbad : (s.marked (gLocal ((s.program p t).1 + 16 * (s.seq p t).pc)) 16 || !s.wordOk p t w) = true := by simpa using hbad
  rw [State.issue_of_fetch hruns hblock hfetch]
  exact if_pos hbad

/-- The row of a stream command whose word issues answers what the word's own part does, in the state that the reads leave. -/
theorem answer_issueRow {r : State} {f : Fetch} (h : (r.fetched p f).issues p f.sid c op w) (act : Nat → Sid → State → Nat → State) :
    answer (okPart p) (r.issueRow p f c op act) = .next (act p f.sid (r.fetched p f) w) :=
  answer_of_ok (decide_eq_true h.1) (State.issue_of_issues h _)

end

/-! ## The CTRL instructions (R30, R36, R39, R42, R47) -/

section
variable {s : State} {p : Nat}

theorem State.length_of_shaped (h : s.shaped) (hp : p < 4) : p < s.parts.length := by
  obtain ⟨⟨hlen, -⟩, -⟩ := h
  rwa [hlen]

theorem State.part_mem_of_shaped (h : s.shaped) (hp : p < 4) : s.part p ∈ s.parts := by
  have hlt := State.length_of_shaped h hp
  rw [State.part, List.getD_eq_getElem _ _ hlt]
  exact List.getElem_mem hlt

theorem State.seqs_of_shaped (h : s.shaped) (hp : p < 4) : (s.part p).run.seqs.length = 3 := by
  have hmem := State.part_mem_of_shaped h hp
  obtain ⟨⟨-, hruns⟩, -⟩ := h
  exact (hruns _ hmem).1

/-! What leaves every sequencer of a run as it was. -/

theorem State.seq_of_seqs {s u : State} {p : Nat} (h : (u.part p).run.seqs = (s.part p).run.seqs) (t : Sid) : u.seq p t = s.seq p t := by
  rw [State.seq, h, State.seq]

theorem State.seqs_modRun (s : State) (p q : Nat) {f : Run → Run} (hf : ∀ r, (f r).seqs = r.seqs := by intro; rfl) :
    ((s.modRun p f).part q).run.seqs = (s.part q).run.seqs :=
  State.modRun_reads Run.seqs hf s p q

theorem State.seqs_signalAtIssue (s : State) (p w q : Nat) : ((s.signalAtIssue p w).part q).run.seqs = (s.part q).run.seqs :=
  State.signalAtIssue_reads Run.seqs (fun _ _ => rfl) s p w q

theorem State.seqs_microBatch (s : State) (p : Nat) (t : Sid) (begins : Bool) (q : Nat) : ((s.microBatch p t begins).part q).run.seqs = (s.part q).run.seqs := by
  unfold State.microBatch
  split
  · exact State.seqs_modRun s p q
  · exact State.seqs_modRun s p q
  · rfl

theorem State.seqs_onePass (s : State) (p : Nat) (t : Sid) (q : Nat) : ((s.onePass p t).part q).run.seqs = (s.part q).run.seqs := by
  unfold State.onePass
  dsimp only
  split_ifs
  · exact State.seqs_microBatch s p t _ q
  · exact State.seqs_microBatch s p t _ q
  · rfl

theorem State.length_seqs_consume (s : State) (p : Nat) (t : Sid) (w : Nat) :
    ((s.consume p t w).part p).run.seqs.length = (s.part p).run.seqs.length := by
  have hstep : ∀ u : State, ((u.modSeq p t fun q => { q with pc := q.pc + 1, blocked := none }).part p).run.seqs.length = (u.part p).run.seqs.length :=
    fun u => State.modRun_reads (fun r => r.seqs.length) (fun r => length_updAt _ r.seqs _) u p p
  rw [State.consume_eq, hstep, State.takeWait_reads Run.seqs (fun _ _ => rfl), State.addStall_reads Run.seqs (fun _ _ => rfl)]

/-! LOOP_END. -/

/-- The innermost loop goes round once more, or ends. -/
def Seq.turn (q : Seq) : Seq := match q.loops with
  | (a, n) :: r => if 1 < n then { q with pc := a, loops := (a, n - 1) :: r } else { q with loops := r }
  | [] => q

theorem Seq.turn_again {q : Seq} {a n : Nat} {r : List (Nat × Nat)} (h : q.loops = (a, n) :: r) (hn : 1 < n) :
    q.turn = { q with pc := a, loops := (a, n - 1) :: r } := by simp only [Seq.turn, h, if_pos hn]

theorem Seq.turn_last {q : Seq} {a n : Nat} {r : List (Nat × Nat)} (h : q.loops = (a, n) :: r) (hn : n ≤ 1) : q.turn = { q with loops := r } := by
  simp only [Seq.turn, h, if_neg (Nat.not_lt.2 hn)]

/-- The micro-batches that a LOOP_END ends and begins. -/
def State.turnBatches (s : State) (p : Nat) (t : Sid) : State := match (s.seq p t).loops with
  | (a, n) :: _ =>
    if s.microLoop p t a then
      if 1 < n then (s.microBatch p t false).microBatch p t true else s.microBatch p t false
    else s
  | [] => s

theorem actLoopEnd_eq (p : Nat) (t : Sid) (s : State) (w : Nat) :
    actLoopEnd p t s w = (((s.consume p t w).turnBatches p t).modSeq p t Seq.turn).signalAtIssue p w := rfl

theorem RunOnly.turnBatches {a : State} (h : RunOnly a s) (p : Nat) (t : Sid) : RunOnly a (s.turnBatches p t) := by
  unfold State.turnBatches
  split
  · split_ifs
    · exact (h.microBatch p t _).microBatch p t _
    · exact h.microBatch p t _
    · exact h
  · exact h

theorem RunOnly.actLoopEnd (s : State) (p : Nat) (t : Sid) (w : Nat) : RunOnly s (actLoopEnd p t s w) :=
  (((RunOnly.refl s).consume p t w).turnBatches p t).modSeq p t Seq.turn |>.signalAtIssue p w

theorem State.seqs_turnBatches (s : State) (p : Nat) (t : Sid) (q : Nat) : ((s.turnBatches p t).part q).run.seqs = (s.part q).run.seqs := by
  unfold State.turnBatches
  split
  · split_ifs
    · rw [State.seqs_microBatch, State.seqs_microBatch]
    · exact State.seqs_microBatch s p t _ q
    · rfl
  · rfl

section
variable {t : Sid} {w : Nat} (hp : p < s.parts.length) (hseqs : (s.part p).run.seqs.length = 3)
include hp hseqs

/-- The stream whose LOOP_END issues has turned its innermost loop. -/
theorem State.seq_actLoopEnd :
    (actLoopEnd p t s w).seq p t = Seq.turn { s.seq p t with pc := (s.seq p t).pc + 1, blocked := none } := by
  have hlen := (((RunOnly.refl s).consume p t w).turnBatches p t).length
  have hthree : (((s.consume p t w).turnBatches p t).part p).run.seqs.length = 3 := by
    rw [State.seqs_turnBatches, State.length_seqs_consume, hseqs]
  rw [actLoopEnd_eq, State.seq_of_seqs (State.seqs_signalAtIssue _ p w p), State.seq_modSeq_self (hlen.symm ▸ hp) hthree,
    State.seq_of_seqs (State.seqs_turnBatches _ p t p), State.seq_consume_self hp hseqs]

/-- The stream whose word issues, changed further under `f`. -/
theorem State.seq_consume_modSeq (f : Seq → Seq) :
    ((s.consume p t w).modSeq p t f).seq p t = f { s.seq p t with pc := (s.seq p t).pc + 1, blocked := none } := by
  have hlen := ((RunOnly.refl s).consume p t w).length
  rw [State.seq_modSeq_self (hlen.symm ▸ hp) ((State.length_seqs_consume s p t w).trans hseqs), State.seq_consume_self hp hseqs]

end

/-! PASS_END and STEP_END. -/

/-- The run notes the next issue number at the PASS_END of the backward stream. -/
def State.notePass (s : State) (p : Nat) (t : Sid) : State := if t = .bwd then s.modRun p fun r => { r with passAt := r.nextInsn } else s

theorem actPassEnd_eq (p : Nat) (t : Sid) (s : State) (w : Nat) :
    actPassEnd p t s w = ((((s.onePass p t).consume p t w).modSeq p t fun q => { q with passEnded := true }).notePass p t).signalAtIssue p w := rfl

theorem RunOnly.notePass {a : State} (h : RunOnly a s) (p : Nat) (t : Sid) : RunOnly a (s.notePass p t) := by
  unfold State.notePass
  split_ifs
  · exact h.modRun p _
  · exact h

theorem State.seqs_notePass (s : State) (p : Nat) (t : Sid) (q : Nat) : ((s.notePass p t).part q).run.seqs = (s.part q).run.seqs := by
  unfold State.notePass
  split_ifs
  · exact State.seqs_modRun s p q
  · rfl

theorem RunOnly.actPassEnd (s : State) (p : Nat) (t : Sid) (w : Nat) : RunOnly s (actPassEnd p t s w) :=
  ((((RunOnly.refl s).onePass p t).consume p t w).modSeq p t _).notePass p t |>.signalAtIssue p w

theorem State.seq_actPassEnd {t : Sid} {w : Nat} (hp : p < s.parts.length) (hseqs : (s.part p).run.seqs.length = 3) :
    (actPassEnd p t s w).seq p t = { s.seq p t with pc := (s.seq p t).pc + 1, blocked := none, passEnded := true } := by
  have hlen := ((RunOnly.refl s).onePass p t).length
  have hthree : ((s.onePass p t).part p).run.seqs.length = 3 := (congrArg List.length (State.seqs_onePass s p t p)).trans hseqs
  rw [actPassEnd_eq, State.seq_of_seqs (State.seqs_signalAtIssue _ p w p), State.seq_of_seqs (State.seqs_notePass _ p t p),
    State.seq_consume_modSeq (hlen.symm ▸ hp) hthree, State.seq_of_seqs (State.seqs_onePass s p t p)]

/-- The drain begins with the last STEP_END (R43). -/
def State.noteEnd (s : State) (p : Nat) : State := if (s.part p).run.seqs.all (·.ended) then s.modRun p fun r => { r with endTick := some s.tick } else s

/-- A STEP_END that need not wait for statistics. -/
theorem actStepEnd_eq {t : Sid} (h : t = .upd → (s.part p).coll.statsDone = true) (w : Nat) :
    actStepEnd p t s w = ((((s.consume p t w).modSeq p t fun q => { q with ended := true }).signalAtIssue p w).noteEnd p) := by
  have hwait : ¬(t = .upd ∧ !(s.part p).coll.statsDone) := fun ⟨ht, hstat⟩ => by simp [h ht] at hstat
  exact if_neg hwait

theorem RunOnly.noteEnd {a : State} (h : RunOnly a s) (p : Nat) : RunOnly a (s.noteEnd p) := by
  unfold State.noteEnd
  split_ifs
  · exact h.modRun p _
  · exact h

theorem State.seqs_noteEnd (s : State) (p q : Nat) : ((s.noteEnd p).part q).run.seqs = (s.part q).run.seqs := by
  unfold State.noteEnd
  split_ifs
  · exact State.seqs_modRun s p q
  · rfl

theorem RunOnly.actStepEnd {t : Sid} (h : t = .upd → (s.part p).coll.statsDone = true) (w : Nat) : RunOnly s (actStepEnd p t s w) := by
  rw [actStepEnd_eq h]
  exact ((((RunOnly.refl s).consume p t w).modSeq p t _).signalAtIssue p w).noteEnd p

theorem State.seq_actStepEnd {t : Sid} {w : Nat} (hp : p < s.parts.length) (hseqs : (s.part p).run.seqs.length = 3)
    (h : t = .upd → (s.part p).coll.statsDone = true) :
    (actStepEnd p t s w).seq p t = { s.seq p t with pc := (s.seq p t).pc + 1, blocked := none, ended := true } := by
  rw [actStepEnd_eq h, State.seq_of_seqs (State.seqs_noteEnd _ p p), State.seq_of_seqs (State.seqs_signalAtIssue _ p w p), State.seq_consume_modSeq hp hseqs]

/-! GROUP_BEGIN, and the choice between blocks. -/

theorem actGroupBegin_scanned {t : Sid} {w next : Nat} {heads : List Nat}
    (h : s.scanGroup p t ((s.program p t).2 + 1) ((s.seq p t).pc + 1) ((s.seq p t).pc + 1) (siOperand w) [] = some (heads, next)) :
    actGroupBegin p t s w =
      (((s.consume p t w).modSeq p t fun q => { q with group := some { heads := heads, ran := [], cur := none, next := next } }).signalAtIssue p w).selectBlock p t := by
  simp only [actGroupBegin, h]

theorem State.selectBlock_ready {t : Sid} {g : Group} {i h : Nat} (hgroup : (s.seq p t).group = some g) (hcur : g.cur = none)
    (hleft : g.ran.length ≠ g.heads.length) (hready : s.readyBlock p t g = some (i, h)) :
    s.selectBlock p t = s.modSeq p t fun q => { q with group := some { g with cur := some i }, pc := h, blocked := none } := by
  simp only [State.selectBlock, hgroup, hcur, Option.isSome_none, Bool.false_eq_true, ↓reduceIte, if_neg hleft, hready]

end

/-- Settles O18: each word issues, and does what its own part does. -/
theorem ctrlCommandsComplete : Obligations.CtrlCommandsComplete := by
  intro r p f w s t
  refine ⟨fun h => ?nop, fun h hn => ?loopBegin, fun h hn => ?microLoop, fun hs h => ?loopEnd, fun heads next h hscan => ?groupBegin, fun h => ?blockEnd,
    fun hs h => ?passEnd, fun hs h hstat => ?stepEnd, fun g i k => ?readyBlock⟩
  case nop => exact answer_issueRow h actNop
  case loopBegin =>
    refine (answer_issueRow h actLoopBegin).trans ?_
    simp only [actLoopBegin, if_neg hn]
    rfl
  case microLoop =>
    refine (answer_issueRow h actLoopBegin).trans ?_
    simp only [actLoopBegin, if_pos hn]
    rfl
  case loopEnd =>
    have hframe := RunOnly.actLoopEnd s p t w
    have hseq := State.seq_actLoopEnd (t := t) (w := w) (State.length_of_shaped hs h.1) (State.seqs_of_shaped hs h.1)
    refine ⟨_, answer_issueRow h actLoopEnd, hframe.mem, hframe.hearths, fun a n l hl => ⟨fun hn => ?_, fun hn => ?_⟩⟩
    · rw [hseq, Seq.turn_again (q := { s.seq p t with pc := (s.seq p t).pc + 1, blocked := none }) hl hn]
      exact ⟨rfl, rfl⟩
    · rw [hseq, Seq.turn_last (q := { s.seq p t with pc := (s.seq p t).pc + 1, blocked := none }) hl hn]
      exact ⟨rfl, rfl⟩
  case groupBegin => exact (answer_issueRow h actGroupBegin).trans (congrArg _ (actGroupBegin_scanned hscan))
  case blockEnd => exact answer_issueRow h actBlockEnd
  case passEnd =>
    have hseq := State.seq_actPassEnd (t := t) (w := w) (State.length_of_shaped hs h.1) (State.seqs_of_shaped hs h.1)
    refine ⟨_, answer_issueRow h actPassEnd, ?_, ?_, (RunOnly.actPassEnd s p t w).mem⟩ <;> rw [hseq]
  case stepEnd =>
    have hseq := State.seq_actStepEnd (w := w) (State.length_of_shaped hs h.1) (State.seqs_of_shaped hs h.1) hstat
    exact ⟨_, answer_issueRow h actStepEnd, by rw [hseq], (RunOnly.actStepEnd hstat w).mem⟩
  case readyBlock =>
    intro v hp hruns hgroup hcur hleft hready
    refine answer_of_ok (decide_eq_true hp) ?_
    exact (if_pos hruns).trans (State.selectBlock_ready hgroup hcur hleft hready)

end Sys2Proof.Machine
end

section
/-! PROOF. The instructions that name a descriptor, the queue and scale instructions, and completions (R32, R53, R62, R105, R145, R186). -/

namespace Sys2Proof.Machine

/-! ## A launch on an engine that has no queues -/

/-- A word of class TEMPER that names the descriptor at 8192. -/
def launchWord : Nat := pack [(4, 2), (6, 0), (54, 0), (64, 8192)]

/-- A launch of a program of one word at 12288, one vector of one element, on hearth 0. -/
def launchDesc : Nat := pack [(64, 12288), (7, 1), (11, 1), (15, 0), (22, 0), (22, 0), (16, 1), (8, 0), (9, 1), (338, 0)]

/-- A running partition whose forward stream has come to `launchWord`, in a module whose temper engines have no queue at all: `State.shaped` counts the
engines, but nothing says how many queues an engine has. -/
def noQueues : State :=
  { State.reset with
    idValid := true, tempers := List.replicate 256 { queues := [] }
    mem := Memory.writeBytes (Memory.writeBytes [] 4096 (leBytes 16 launchWord)) 8192 (leBytes 64 launchDesc)
    parts := updAt State.reset.parts 0 fun q => { q with st := .active, job := some { streams := [(4096, 1)] } } }

/-- Reads that find no error, where no write-back waits, leave the state as it was. -/
theorem State.fetched_noErrors {s : State} (h : s.scrub.wbacks = []) (p : Nat) (t : Sid) : s.fetched p ⟨t, ⟨[], []⟩⟩ = s := by
  simp [State.fetched, State.meet, State.each, h]

theorem noQueues_issues : noQueues.issues 0 .fwd 2 0 launchWord := by
  have hgroup : (noQueues.seq 0 .fwd).group = none := by decide +kernel
  refine ⟨by decide, by decide +kernel, fun g hg => ?_, by decide +kernel, by decide +kernel, by decide +kernel, by decide +kernel, by decide +kernel,
    by decide +kernel, by decide +kernel⟩
  rw [hgroup] at hg
  cases hg

theorem noQueues_names : noQueues.names 0 launchWord launchDesc := by
  unfold State.names
  decide +kernel

/-- The launch issues, and leaves nothing at the engine. -/
theorem noQueues_launched : ((actTemper 0 .fwd noQueues launchWord).temper 0).queues = [] := by decide +kernel

/-- Refutes O19: the clause on TEMPER.RUN would have the queue of every engine named grow by one entry, in a state in which the engine need not have that
queue. In `noQueues` the launch issues, its descriptor unmarked and sound, and the engine of hearth 0 holds as little after it as before. -/
theorem not_descriptorCommandsComplete : ¬ Obligations.DescriptorCommandsComplete := by
  intro h
  obtain ⟨-, htemper, -⟩ := h noQueues 0 ⟨.fwd, ⟨[], []⟩⟩ launchWord launchDesc
  have hclean : noQueues.fetched 0 ⟨.fwd, ⟨[], []⟩⟩ = noQueues := State.fetched_noErrors rfl 0 .fwd
  simp only [hclean] at htemper
  obtain ⟨v, hexec, -, -, -, hgrows⟩ := htemper noQueues_issues noQueues_names (by decide +kernel) (by decide +kernel) (by decide +kernel)
  have hissue := answer_issueRow (r := noQueues) (f := ⟨.fwd, ⟨[], []⟩⟩) (hclean.symm ▸ noQueues_issues) actTemper
  rw [hclean] at hissue
  have hv : actTemper 0 .fwd noQueues launchWord = v := Host.Outcome.next.inj (hissue.symm.trans hexec)
  have hlen := hgrows 0 (by decide +kernel) (by decide +kernel)
  rw [← hv, noQueues_launched] at hlen
  exact absurd hlen (by decide +kernel)


/-! ## The queue and scale instructions (R53, R137, R138) -/

section
variable {s u : State} {p : Nat} {t : Sid} {w : Nat}

/-- A load reads memory and the valid pages of the hearths, and nothing else. -/
theorem RunOnly.load (h : RunOnly s u) (la n : Nat) : u.load la n = s.load la n := by
  rw [h.frame]
  rfl

theorem State.load_modActq (s : State) (p i : Nat) (f : ActQ → ActQ) (la n : Nat) : (s.modActq p i f).load la n = s.load la n := rfl

theorem actPush_credited {i : Nat} {x : ActQ} (hqueue : (s.part p).queueFor t false (siOperand w % 256) = some (i, x))
    (hsrc : s.reach p (siOperand w / 4096 * 4096) (aqPages x.desc * 4096) [0] = true) (hcredit : 0 < x.credits) :
    actPush p t s w =
      let src := gLocal (siOperand w / 4096 * 4096)
      let dst := slotAddr x.desc x.pushes
      let len := aqPages x.desc * 4096
      let u := ((s.consume p t w).openInsn p t w 0).modActq p i fun y => { y with credits := y.credits - 1, writing := y.writing + 1, pushes := y.pushes + 1 }
      if u.ownRange p dst len [0] = true then u.saveMarked (gLocal dst) (u.load src len) (u.byteMarks src len)
      else (u.remoteWrite p dst (u.load src len) (u.byteMarks src len) (.push (aqId x.desc) (s.part p).run.nextInsn)).1 := by
  simp only [actPush, hqueue, hsrc, if_neg hcredit.ne', Bool.not_true, Bool.false_eq_true, ↓reduceIte]

theorem actPop_full {i : Nat} {x : ActQ} (hqueue : (s.part p).queueFor t true (siOperand w) = some (i, x)) (hfull : 0 < x.full) :
    actPop p t s w =
      ((s.consume p t w).modActq p i fun y => { y with full := y.full - 1, popped := y.popped + 1, pops := y.pops + 1 }).signalAtIssue p w := by
  simp only [actPop, hqueue, if_neg hfull.ne']

theorem actRelease_popped {i : Nat} {x : ActQ} (hqueue : (s.part p).queueFor t true (siOperand w) = some (i, x)) (hpopped : 0 < x.popped) :
    actRelease p t s w =
      (((s.consume p t w).modActq p i fun y => { y with popped := y.popped - 1, returning := y.returning + 1, releases := y.releases + 1 }).send p
        (queueMsg x.desc (s.part p).run.epoch false) (.credit (aqId x.desc))).signalAtIssue p w := by
  have hepoch : ((s.consume p t w).part p).run.epoch = (s.part p).run.epoch :=
    State.consume_reads Run.epoch (fun _ _ => rfl) (fun _ _ => rfl) (fun _ _ => rfl) s p t w p
  simp only [actRelease, hqueue, if_neg hpopped.ne', hepoch]

/-- A pyrometer changed as a word issues. -/
theorem RunOnly.pyro_issue (h : RunOnly s u) (hp : p < s.parts.length) (w : Nat) (f : Pyro → Pyro) :
    (((u.modPyro p f).signalAtIssue p w).part p).pyro = f (s.part p).pyro := by
  have hpyro : ((u.modPyro p f).part p).pyro = f (u.part p).pyro := congrArg Part.pyro (State.part_modPart_self (h.length.symm ▸ hp) _)
  rw [((RunOnly.refl _).signalAtIssue p w).pyro, hpyro, h.pyro]

/-- The entry of a tensor takes a new configuration at the next step. -/
def Pyro.retrack (q : Pyro) (d : Nat) : Pyro := match q.find (trTensor d) with
  | some (i, _) => q.modTrack i fun x => { x with next := some d }
  | none => q

theorem Pyro.retrack_found {q : Pyro} {d i : Nat} {x : Track} (h : q.find (trTensor d) = some (i, x)) :
    q.retrack d = q.modTrack i fun x => { x with next := some d } := by
  simp only [Pyro.retrack, h]

theorem actTrack_allowed {d : Nat} (hdesc : s.names p w d) (hallow : s.trackChange p d = true) :
    actTrack p t s w = ((s.consume p t w).modPyro p fun q => q.retrack d).signalAtIssue p w := by
  have hdesc : s.readDesc p w = some d := hdesc
  simp only [actTrack, hdesc, hallow, ↓reduceIte]
  rfl

theorem actSample_allowed {d : Nat} (hdesc : s.names p w d) (hallow : s.sampleOk p d = true) :
    actSample p t s w = (((s.consume p t w).modRun p fun r => { r with nextInsn := (s.part p).run.nextInsn + 1 }).modPyro p fun q =>
      { q with samples := q.samples ++ [⟨d, 0, (s.part p).run.nextInsn⟩] }).signalAtIssue p w := by
  have hdesc : s.readDesc p w = some d := hdesc
  simp only [actSample, hdesc, hallow, ↓reduceIte]

/-- The reserved bit of the flag word is set while the word is not taken. -/
def State.raiseFlag (s : State) (p : Nat) : State :=
  if (s.part p).run.flagTaken.isNone then s.modRun p fun r => { r with flagWord := r.flagWord ||| 32 } else s

theorem actScaleFlag_eq (p : Nat) (t : Sid) (s : State) (w : Nat) : actScaleFlag p t s w = ((s.consume p t w).raiseFlag p).signalAtIssue p w := rfl

theorem RunOnly.raiseFlag {a : State} (h : RunOnly a s) (p : Nat) : RunOnly a (s.raiseFlag p) := by
  unfold State.raiseFlag
  split_ifs
  · exact h.modRun p _
  · exact h

theorem State.flagWord_raiseFlag (hp : p < s.parts.length) :
    ((s.raiseFlag p).part p).run.flagWord = if (s.part p).run.flagTaken = none then (s.part p).run.flagWord ||| 32 else (s.part p).run.flagWord := by
  simp only [State.raiseFlag, Option.isNone_iff_eq_none]
  split_ifs
  · rw [State.run_modRun_self hp]
  · rfl

theorem State.flagWord_actScaleFlag (hp : p < s.parts.length) :
    ((actScaleFlag p t s w).part p).run.flagWord = if (s.part p).run.flagTaken = none then (s.part p).run.flagWord ||| 32 else (s.part p).run.flagWord := by
  have htaken : ((s.consume p t w).part p).run.flagTaken = (s.part p).run.flagTaken :=
    State.consume_reads Run.flagTaken (fun _ _ => rfl) (fun _ _ => rfl) (fun _ _ => rfl) s p t w p
  have hword : ((s.consume p t w).part p).run.flagWord = (s.part p).run.flagWord :=
    State.consume_reads Run.flagWord (fun _ _ => rfl) (fun _ _ => rfl) (fun _ _ => rfl) s p t w p
  rw [actScaleFlag_eq, State.signalAtIssue_reads Run.flagWord (fun _ _ => rfl), State.flagWord_raiseFlag (((RunOnly.refl s).consume p t w).length.symm ▸ hp),
    htaken, hword]

end

/-- Settles O20: each word issues; a PUSH reads its pages in a state whose memory the issue has not touched. -/
theorem queueAndScaleCommandsComplete : Obligations.QueueAndScaleCommandsComplete := by
  intro r p f w s t
  refine ⟨fun i x h hqueue hsrc hcredit => ?push, fun i x h hqueue hfull => ?pop, fun i x h hqueue hpopped => ?release,
    fun d i x h hdesc hallow hfind => ?track, fun d h hdesc hallow => ?sample, fun h => ?scaleFlag⟩
  case push =>
    refine ⟨(answer_issueRow h actPush).trans (congrArg _ (actPush_credited hqueue hsrc hcredit)), ?_⟩
    exact (State.load_modActq _ p i _ _ _).trans ((((RunOnly.refl s).consume p t w).openInsn p t w 0).load _ _)
  case pop => exact (answer_issueRow h actPop).trans (congrArg _ (actPop_full hqueue hfull))
  case release => exact (answer_issueRow h actRelease).trans (congrArg _ (actRelease_popped hqueue hpopped))
  case track =>
    refine ⟨_, (answer_issueRow h actTrack).trans (congrArg _ (actTrack_allowed hdesc hallow)), ?_, fun hp hi => ?_⟩
    · exact ((RunOnly.refl _).signalAtIssue p w).mem.trans ((RunOnly.refl s).consume p t w).mem
    · rw [((RunOnly.refl s).consume p t w).pyro_issue hp w, Pyro.retrack_found hfind, Pyro.modTrack, getD_updAt_self _ _ _ _ hi]
      exact ⟨rfl, rfl⟩
  case sample =>
    refine ⟨_, (answer_issueRow h actSample).trans (congrArg _ (actSample_allowed hdesc hallow)), ?_, fun hp => ?_⟩
    · exact ((RunOnly.refl _).signalAtIssue p w).mem.trans ((RunOnly.refl s).consume p t w).mem
    · exact congrArg Pyro.samples ((((RunOnly.refl s).consume p t w).modRun p _).pyro_issue hp w _)
  case scaleFlag =>
    refine ⟨_, answer_issueRow h actScaleFlag, ?_, fun hp => State.flagWord_actScaleFlag hp⟩
    exact ((((RunOnly.refl s).consume p t w).raiseFlag p).signalAtIssue p w).mem

/-! ## Completions (R32, R35, R53, R62, R105, R145, R186) -/

section
variable {s : State} {p : Nat} {t : Sid} {n : Nat} {o : OutInsn}

/-- An outstanding instruction of a class, its work done, completes. -/
theorem State.completeIf_done {c : Nat} {done : OutInsn → Bool} (hout : s.outInsn p t n = some o) (hcls : o.cls = c) (hdone : done o = true)
    (after : State → OutInsn → State) : s.completeIf p t n c done after = after (s.complete p t n) o := by
  simp only [State.completeIf, hout, hcls, hdone, decide_true, Bool.and_self, ↓reduceIte]

/-- Nothing of a list holds an instruction. -/
theorem all_not_of_forall {l : List Nat} {holds : Nat → Bool} (h : ∀ x ∈ l, holds x = false) : (l.all fun x => !holds x) = true :=
  List.all_eq_true.2 fun x hx => by rw [h x hx]; rfl

/-- The number of a condition in the record of R35 (log entry 119). -/
def Block.number : Block → Nat
  | .token => 0
  | .credit => 1
  | .slot => 2
  | .full => 3
  | .stat => 4

theorem doStreamHang_hung {b : Block} {k : Nat} (hblocked : (s.seq p t).blocked = some (b, k)) (hstill : s.stillBlocked p t b = true)
    (hruns : s.seqRuns p t = true) (hlimit : s.waitLimit p < s.tick - k) :
    doStreamHang p t s = (s.modSeq p t fun q => { q with blocked := some (b, s.tick) }).raise
      { recPart p 3 0x22 with layer := siLayer ((s.fetch p t (s.seq p t).pc).getD 0), detail := pack [(4, sidIx t), (4, b.number)] } := by
  simp only [doStreamHang, hblocked, hstill, hruns, hlimit, decide_true, Bool.and_self, Bool.not_true, Bool.false_eq_true, ↓reduceIte]
  rfl

theorem doStreamHang_freed {b : Block} {k : Nat} (hblocked : (s.seq p t).blocked = some (b, k)) (hstill : s.stillBlocked p t b = false) :
    doStreamHang p t s = s.unblock p t := by
  simp only [doStreamHang, hblocked, hstill, Bool.not_false, ↓reduceIte]

end

/-- Settles O21: the engine of each class says whether its instruction is done; a stream blocked is either recorded or free again. -/
theorem completionCommandsComplete : Obligations.CompletionCommandsComplete := by
  intro s p t n o hp hout
  have hok : okPart p = true := decide_eq_true hp
  refine ⟨fun hc hdone => ?hearth, fun hc hdone => ?temper, fun hc hdone => ?tongs, fun hc hdone => ?coll, fun hc hdone => ?push,
    fun b k hblocked hstill hruns hlimit => ?hung, fun b k hblocked hstill => ?freed⟩
  case hearth => exact answer_of_ok hok (State.completeIf_done hout hc (all_not_of_forall hdone) _)
  case temper => exact answer_of_ok hok (State.completeIf_done hout hc (all_not_of_forall hdone) _)
  case tongs => exact answer_of_ok hok (State.completeIf_done hout hc hdone _)
  case coll =>
    refine answer_of_ok hok (State.completeIf_done hout hc ?_ _)
    cases hop : (s.part p).coll.op o.id with
    | none => rfl
    | some k => simpa only [Bool.or_eq_true] using hdone k hop
  case push => exact answer_of_ok hok (State.completeIf_done hout hc hdone _)
  case hung => exact answer_of_ok hok (doStreamHang_hung hblocked hstill hruns hlimit)
  case freed => exact answer_of_ok hok (doStreamHang_freed hblocked hstill)

end Sys2Proof.Machine
end

section
/-! PROOF. What a step boundary leaves of the engines, and the events of a held boundary (R43-R45, R48, R49, R51, R67, R120, R173). -/

namespace Sys2Proof.Machine

/-! ## Folds over a list of units -/

section
variable {α β : Type}

/-- What every step of a fold leaves as it was, the fold leaves as it was. -/
theorem foldl_reads {γ : Type} (π : γ → β) {f : γ → α → γ} {l : List α} (hf : ∀ t, ∀ x ∈ l, π (f t x) = π t) (s : γ) : π (l.foldl f s) = π s :=
  List.foldlRecOn (motive := fun t => π t = π s) l f rfl fun t ht x hx => (hf t x hx).trans ht

theorem State.each_reads (π : State → β) {f : State → α → State} {l : List α} (hf : ∀ t, ∀ x ∈ l, π (f t x) = π t) (s : State) : π (s.each l f) = π s :=
  foldl_reads π hf s

/-- What a fold's step on one of the elements brings about, and every step keeps, holds after the fold. -/
theorem State.each_reaches {P : State → Prop} {f : State → α → State} {y : α} (hset : ∀ t, P (f t y)) (hkeep : ∀ t x, P t → P (f t x)) {l : List α}
    (hy : y ∈ l) (s : State) : P (s.each l f) := by
  induction l generalizing s with
  | nil => exact absurd hy List.not_mem_nil
  | cons x l ih =>
    rcases List.mem_cons.1 hy with rfl | hy
    · exact List.foldlRecOn l f (hset s) fun t ht z _ => hkeep t z ht
    · exact ih hy (f s x)

end

/-! ## Actions 1 and 2 (Table 02-5) -/

section
variable {s : State} {p : Nat}

/-- The record of a counter that is not zero at the boundary. -/
def State.tokenRec (s : State) (p : Nat) (x : Nat × Nat) : State :=
  if x.2 = 0 then s else s.raise { recPart p sevDef 0x24 with detail := pack [(16, x.2), (8, x.1)] }

theorem State.tokenAction_eq (s : State) (p : Nat) :
    s.tokenAction p = (s.each (enum (s.part p).run.tokens) fun u x => u.tokenRec p x).modRun p fun r => { r with tokens := List.replicate 128 0 } := rfl

theorem RunOnly.tokenRec {a : State} (h : RunOnly a s) (p : Nat) (x : Nat × Nat) : RunOnly a (s.tokenRec p x) := by
  unfold State.tokenRec
  split_ifs
  · exact h
  · exact h.raise _

/-- A fold moves runs alone where its steps do. -/
theorem RunOnly.each {α : Type} {a : State} {f : State → α → State} (hf : ∀ t x, RunOnly a t → RunOnly a (f t x)) :
    ∀ (l : List α) {s : State}, RunOnly a s → RunOnly a (s.each l f)
  | [], _, h => h
  | x :: l, s, h => RunOnly.each hf l (hf s x h)

theorem RunOnly.tokenAction (s : State) (p : Nat) : RunOnly s (s.tokenAction p) := by
  rw [State.tokenAction_eq]
  exact (RunOnly.each (fun _ x h => h.tokenRec p x) _ (RunOnly.refl s)).modRun p _

theorem State.tokens_tokenAction (hp : p < s.parts.length) : ((s.tokenAction p).part p).run.tokens = List.replicate 128 0 := by
  have hlen := (RunOnly.each (fun _ x h => h.tokenRec p x) (enum (s.part p).run.tokens) (RunOnly.refl s)).length
  rw [State.tokenAction_eq, State.run_modRun_self (hlen.symm ▸ hp)]

/-- Hearth and temper engine of one index emptied. -/
def State.emptyEngine (s : State) (h : Nat) : State := (s.modHearth h Hearth.boundary).modTemper h Temper.boundary

/-- The open chains of a partition's hearths recorded. -/
def State.recordChains (s : State) (p : Nat) : State :=
  s.each ((s.hearthsOf p).filter fun h => (s.hearth h).chain.isSome) fun s h => s.raise (recHearth p h sevDef 0x28)

theorem RunOnly.recordChains (s : State) (p : Nat) : RunOnly s (s.recordChains p) := RunOnly.each (fun _ _ h => h.raise _) _ (RunOnly.refl s)

theorem State.emptyAction_eq (s : State) (p : Nat) :
    s.emptyAction p = ((s.recordChains p).each (s.hearthsOf p) State.emptyEngine).arenaBoundary p := by
  have hn : (s.recordChains p).hearthsOf p = s.hearthsOf p := by simp only [State.hearthsOf, (RunOnly.recordChains s p).nparts]
  rw [← hn]
  rfl

theorem State.record_reads (s : State) (own type unit part len data : Nat) :
    (s.record own type unit part len data).mem = s.mem ∧ (s.record own type unit part len data).hearths = s.hearths ∧
      (s.record own type unit part len data).tempers = s.tempers := by
  unfold State.record
  dsimp only
  split_ifs <;> exact ⟨rfl, rfl, rfl⟩

/-- The arena's part of action 2 touches no memory and no engine. -/
theorem State.arenaBoundary_reads (s : State) (p : Nat) :
    (s.arenaBoundary p).mem = s.mem ∧ (s.arenaBoundary p).hearths = s.hearths ∧ (s.arenaBoundary p).tempers = s.tempers := by
  unfold State.arenaBoundary
  split
  · exact ⟨rfl, rfl, rfl⟩
  · dsimp only
    split_ifs
    · exact State.record_reads _ _ _ _ _ _ _
    · exact State.record_reads _ _ _ _ _ _ _
    · exact ⟨rfl, rfl, rfl⟩

/-- An emptied hearth: no valid page, no chain. -/
def Hearth.emptied (x : Hearth) : Prop := x.pages = [] ∧ x.chain = none

/-- An emptied temper engine: registers, temporaries, flags and programs cleared. -/
def Temper.emptied (x : Temper) : Prop := x.tregs = [] ∧ x.temps = [] ∧ x.flags = [0, 0, 0, 0] ∧ x.cur = [none, none, none, none]

/-! An engine that the module does not have reads as one that is empty, so that emptying needs no bound. -/

theorem State.hearth_emptyEngine_self (s : State) (h : Nat) : (s.emptyEngine h).hearth h = (s.hearth h).boundary :=
  getD_updAt_of_fix (f := Hearth.boundary) rfl s.hearths h

theorem State.temper_emptyEngine_self (s : State) (h : Nat) : (s.emptyEngine h).temper h = (s.temper h).boundary :=
  getD_updAt_of_fix (f := Temper.boundary) rfl s.tempers h

theorem State.hearth_emptyEngine_ne {h k : Nat} (hk : k ≠ h) (s : State) : (s.emptyEngine h).hearth k = s.hearth k := getD_updAt_ne _ _ _ _ _ hk

theorem State.temper_emptyEngine_ne {h k : Nat} (hk : k ≠ h) (s : State) : (s.emptyEngine h).temper k = s.temper k := getD_updAt_ne _ _ _ _ _ hk

theorem State.emptied_emptyEngine (s : State) (h : Nat) : ((s.emptyEngine h).hearth h).emptied ∧ ((s.emptyEngine h).temper h).emptied := by
  rw [State.hearth_emptyEngine_self, State.temper_emptyEngine_self]
  exact ⟨⟨rfl, rfl⟩, rfl, rfl, rfl, rfl⟩

/-- Emptying an engine, or another one, keeps it empty. -/
theorem State.emptied_stays {s : State} {h : Nat} (he : (s.hearth h).emptied ∧ (s.temper h).emptied) (k : Nat) :
    ((s.emptyEngine k).hearth h).emptied ∧ ((s.emptyEngine k).temper h).emptied := by
  by_cases hk : h = k
  · exact hk ▸ State.emptied_emptyEngine s h
  · rwa [State.hearth_emptyEngine_ne hk, State.temper_emptyEngine_ne hk]

theorem State.mem_emptyAction (s : State) (p : Nat) : (s.emptyAction p).mem = s.mem := by
  have hengine : ∀ (t : State) (h : Nat), (t.emptyEngine h).mem = t.mem := fun _ _ => rfl
  have hfold := State.each_reads State.mem (fun t h (_ : h ∈ s.hearthsOf p) => hengine t h) (s.recordChains p)
  rw [State.emptyAction_eq, (State.arenaBoundary_reads _ p).1, hfold, (RunOnly.recordChains s p).mem]

/-- The engines after action 2 are those after the fold over the partition's hearths. -/
theorem State.engines_emptyAction (s : State) (p h : Nat) :
    (s.emptyAction p).hearth h = ((s.recordChains p).each (s.hearthsOf p) State.emptyEngine).hearth h ∧
      (s.emptyAction p).temper h = ((s.recordChains p).each (s.hearthsOf p) State.emptyEngine).temper h := by
  obtain ⟨-, hhearths, htempers⟩ := State.arenaBoundary_reads ((s.recordChains p).each (s.hearthsOf p) State.emptyEngine) p
  rw [State.emptyAction_eq]
  exact ⟨congrArg (·.getD h {}) hhearths, congrArg (·.getD h {}) htempers⟩

theorem State.emptied_emptyAction {h : Nat} (hh : h ∈ s.hearthsOf p) : ((s.emptyAction p).hearth h).emptied ∧ ((s.emptyAction p).temper h).emptied := by
  rw [(State.engines_emptyAction s p h).1, (State.engines_emptyAction s p h).2]
  exact State.each_reaches (P := fun t => (t.hearth h).emptied ∧ (t.temper h).emptied) (fun t => State.emptied_emptyEngine t h)
    (fun t k ht => State.emptied_stays ht k) hh _

theorem State.emptyAction_others {h : Nat} (hh : h ∉ s.hearthsOf p) : (s.emptyAction p).hearth h = s.hearth h ∧ (s.emptyAction p).temper h = s.temper h := by
  have hne : ∀ k ∈ s.hearthsOf p, h ≠ k := fun k hk e => hh (e ▸ hk)
  rw [(State.engines_emptyAction s p h).1, (State.engines_emptyAction s p h).2,
    State.each_reads (fun t => t.hearth h) (fun t k hk => State.hearth_emptyEngine_ne (hne k hk) t),
    State.each_reads (fun t => t.temper h) (fun t k hk => State.temper_emptyEngine_ne (hne k hk) t)]
  exact ⟨congrArg (·.getD h {}) (RunOnly.recordChains s p).hearths, congrArg (·.getD h {}) (RunOnly.recordChains s p).tempers⟩

end

/-- Settles O23: the token action moves the run and the hub alone; the engines' action empties each of the partition's engines and touches no other. -/
theorem boundaryEmptiesEngines : Obligations.BoundaryEmptiesEngines := by
  intro s p hs hp
  have htoken := RunOnly.tokenAction s p
  refine ⟨⟨State.tokens_tokenAction (State.length_of_shaped hs hp), htoken.mem, htoken.hearths⟩, State.mem_emptyAction s p, fun h hh _ => ?_,
    fun h hh => State.emptyAction_others hh⟩
  obtain ⟨⟨hpages, hchain⟩, htregs, htemps, hflags, hcur⟩ := State.emptied_emptyAction hh
  exact ⟨hpages, hchain, fun k => by rw [htregs]; rfl, htemps, hflags, hcur⟩


/-! ## The events of a held boundary (R43, R48, R49, R51, R173) -/

section
variable {s : State} {p : Nat}

theorem doDrainTimeout_due {t k : Nat} (hended : s.allEnded p = true) (hend : (s.part p).run.endTick = some t) (hbal : s.unbalanced p = some k)
    (hlate : ticksMs (jpDrainMs (s.params p)) < s.tick - t) :
    doDrainTimeout p s = (s.modRun p fun r => { r with endTick := some s.tick }).raise { recPart p sevPart 0x23 with detail := k } := by
  simp only [doDrainTimeout, hended, hend, hbal, if_pos hlate, Bool.not_true, Bool.false_eq_true, ↓reduceIte]

/-- A refreshed partition comes to the anchor reduction of its flag group, at a member with its wait begun; without a group its hold ends. -/
def State.reachAnchor (s : State) (p : Nat) : State := match s.flagGroup p with
  | some g => (if cgRank g = 0 then s else s.modColl p fun c => { c with anchorFrom := some s.tick }).barrierReach p g 1 0
  | none => (s.modColl p fun c => { c with anchorFrom := none }).unhold p .refresh

theorem doImageRefreshDone_acked (hhold : (s.part p).run.holds.contains .refresh = true) (hstage : (s.part p).imageStage = 3) (hpend : (s.part p).imagePend = 0)
    (hrestore : (s.part p).restore = none) (hroll : (s.part p).run.holds.contains .rollback = false) (hgather : (s.part p).run.holds.contains .gather = false)
    (hfence : (s.part p).fenced = false) :
    doImageRefreshDone p s = (s.modPart p fun q => { q with imageStage := 0, imageValid := true }).reachAnchor p := by
  simp only [doImageRefreshDone, hhold, hstage, hpend, hrestore, hroll, hgather, hfence, Option.isNone_none, Bool.not_false, and_self, ↓reduceIte]
  rfl

/-- The members of the anchor reduction that its root has heard. -/
def Coll.anchorHeard (c : Coll) (g : Nat) : List Nat := match c.barriers.find? fun b => b.group == cgId g && b.sub == 1 with
  | some b => b.heard
  | none => []

theorem State.anchor_due {t : Nat} (hhold : (s.part p).run.holds.contains .refresh = true) (hlate : s.waitLimit p < s.tick - t) :
    ¬(!(s.part p).run.holds.contains .refresh ∨ s.tick - t ≤ s.waitLimit p) := by
  simp only [hhold, Bool.not_true, Bool.false_eq_true, false_or, Nat.not_le.2 hlate, not_false_eq_true]

section
variable {t g : Nat} (hfrom : (s.part p).coll.anchorFrom = some t) (hgroup : s.flagGroup p = some g) (hhold : (s.part p).run.holds.contains .refresh = true)
  (hlate : s.waitLimit p < s.tick - t)
include hfrom hgroup hhold hlate

theorem doAnchorTimeout_root (hrank : cgRank g = 0) :
    doAnchorTimeout p s = (s.modColl p fun c => { c with anchorFrom := some s.tick }).each
      ((List.range (cgN g)).filter fun r => !((s.part p).coll.anchorHeard g).contains r && r != 0) fun s r => s.declareLost p (s.member g r).1 := by
  have hdue := State.anchor_due hhold hlate
  simp only [doAnchorTimeout, hfrom, hgroup, if_neg hdue, hrank, ne_eq, not_true_eq_false, ↓reduceIte]
  rfl

theorem doAnchorTimeout_member (hrank : cgRank g ≠ 0) (hstage : (s.part p).imageStage = 0) :
    doAnchorTimeout p s = (s.modColl p fun c => { c with anchorFrom := some s.tick }).declareLost p (s.member g 0).1 := by
  have hdue := State.anchor_due hhold hlate
  simp only [doAnchorTimeout, hfrom, hgroup, if_neg hdue, if_pos hrank, hstage, ↓reduceIte]

end

theorem doOuterBoundaryWorkDone_held (found : Found) (hhold : (s.part p).run.holds.contains .outerWork = true)
    (hroll : (s.part p).run.holds.contains .rollback = false) (hfence : (s.part p).fenced = false) :
    doOuterBoundaryWorkDone p found s =
      let r := (s.part p).run.round - 1
      let a := s.each (List.range (s.part p).outer.slabs.length) fun s j => s.slabBoundary p r found j
      let b := (((a.releaseSlot p r).initWords p [r + 2]).sealTest p (s.part p).run.step).modOuter p fun o => o.takeNext r
      ((b.roundRec p r).refreshNext p).unhold p .outerWork := by
  simp only [doOuterBoundaryWorkDone, hhold, hroll, hfence, Bool.not_true, Bool.false_eq_true, or_self, ↓reduceIte]

/-- A running partition at action 8 that nothing holds. -/
theorem State.unheld (h8 : (s.part p).run.atAction8 = true) (hst : (s.part p).st = .active ∨ (s.part p).st = .recovering) (hholds : (s.part p).run.holds = []) :
    ((s.part p).st == .active || (s.part p).st == .recovering) = true ∧ ((s.part p).run.stops = (s.part p).run.stopArmed) := by
  refine ⟨by simpa using hst, ?_⟩
  simp only [Run.stops, h8, hholds, List.all_nil, Bool.true_and, Bool.and_true]

section
variable (h8 : (s.part p).run.atAction8 = true) (hst : (s.part p).st = .active ∨ (s.part p).st = .recovering) (hholds : (s.part p).run.holds = [])
include h8 hst hholds

theorem State.goOn_starts (harmed : (s.part p).run.stopArmed = false) (hmay : s.mayStart p = true) (hhalt : s.power.haltN = true)
    (htarget : s.power.target ≠ 2) : s.goOn p = s.startStep p := by
  obtain ⟨hrunning, hstops⟩ := State.unheld h8 hst hholds
  simp only [State.goOn, hrunning, hstops, harmed, h8, hholds, hmay, hhalt, if_neg htarget, Bool.and_false, Bool.not_true, Bool.false_eq_true, List.isEmpty_nil,
    or_self, ↓reduceIte]

theorem State.goOn_stops (harmed : (s.part p).run.stopArmed = true) : s.goOn p = s.stopNow p := by
  obtain ⟨hrunning, hstops⟩ := State.unheld h8 hst hholds
  simp only [State.goOn, hrunning, hstops, harmed, Bool.and_self, ↓reduceIte]

end

end

/-- Settles O24: each event finds its conditions met, and does its own part. -/
theorem boundaryEventsComplete : Obligations.BoundaryEventsComplete := by
  intro s p hp
  have hok : okPart p = true := decide_eq_true hp
  refine ⟨fun t k hended hend hbal hlate => ?drain, fun hhold hstage hpend hrestore hroll hgather hfence => ?refresh,
    fun t g hfrom hgroup hrank hhold hlate => ?root, fun t g hfrom hgroup hrank hstage hhold hlate => ?member,
    fun x hhold hroll hfence => ?outerWork, fun h8 harmed hst hholds hmay hhalt htarget => ?starts, fun h8 harmed hst hholds => ?stops⟩
  case drain => exact answer_of_ok hok (doDrainTimeout_due hended hend hbal hlate)
  case refresh => exact answer_of_ok hok (doImageRefreshDone_acked hhold hstage hpend hrestore hroll hgather hfence)
  case root => exact answer_of_ok hok (doAnchorTimeout_root hfrom hgroup hhold hlate hrank)
  case member => exact answer_of_ok hok (doAnchorTimeout_member hfrom hgroup hhold hlate hrank hstage)
  case outerWork => exact answer_of_ok hok (doOuterBoundaryWorkDone_held x hhold hroll hfence)
  case starts => exact answer_of_ok hok (State.goOn_starts h8 hst hholds harmed hmay hhalt htarget)
  case stops => exact answer_of_ok hok (State.goOn_stops h8 hst hholds harmed)

end Sys2Proof.Machine
end

section
/-! PROOF. Pairing confirmations and queue messages (R53, R54, R152), and the events of the pyrometer (R39, R136, R138, R139, R210). -/

namespace Sys2Proof.Machine

/-! ## Pairing confirmations (R152) -/

section
variable {s : State} {p : Nat}

theorem doArenaLendTimeout_late {b m q : Nat} {rest : List (Nat × Nat × Nat)} (hmissing : s.unconfirmed p = (b, m, q) :: rest)
    (hhold : (s.part p).run.holds.contains .pairing = true) (hlate : s.waitLimit p < s.tick - (s.part p).run.holdFrom) :
    doArenaLendTimeout p s = (s.modRun p fun r => { r with holdFrom := s.tick }).raise { recPart p sevPart 0x55 with addr := m } := by
  simp only [doArenaLendTimeout, hmissing, hhold, hlate, and_self, ↓reduceIte]

theorem State.pairingHeard_borrowed {m q base : Nat} (hmine : (s.borrowed p).contains (base, m, q) = true) :
    s.pairingHeard p m q base =
      let w := s.modArena p fun r => { r with confirmed := setIns base r.confirmed }
      if (w.unconfirmed p).isEmpty then w.unhold p .pairing else w := if_pos hmine

theorem State.pairingHeard_lent {m q base : Nat} (hother : (s.borrowed p).contains (base, m, q) = false) (hlent : (s.lentOut p).contains (base, m, q) = true) :
    s.pairingHeard p m q base = s.send p (pairingMsg m q base) .none := by
  simp only [State.pairingHeard, hother, hlent, Bool.false_eq_true, ↓reduceIte]

end

/-! ## Messages that the transport accepts (R53, R54) -/

/-- The state in which a message of partition `p` has been taken on its channel, its buffer's errors recorded and its acknowledgement sent if due. -/
def State.messageTaken (s : State) (p : Nat) (k : HtPkt) : State := ((s.dataArrived p k).bufErrors p k).ackIfDue p k.srcModule k.srcPart

section
variable {s u : State} {k : HtPkt} {p : Nat}

theorem execPairingConfirm_accepted (hop : k.op = 2) (hbuf : k.bufBad = []) (htake : s.receive [6] k = (u, some p)) (base : Nat) :
    execPairingConfirm k base s = .next ((u.messageTaken p k).pairingHeard p k.srcModule k.srcPart base) := by
  refine answer_of_ok rfl ?_
  simp only [hop, htake, hbuf, ne_eq, not_true_eq_false, List.isEmpty_nil, Bool.not_true, Bool.false_eq_true, ↓reduceIte]
  rfl

section
variable {queue epoch i : Nat} {x : ActQ} {consumer : Bool} (hop : k.op = 1) (hbuf : k.bufBad = []) (htake : s.receive [6] k = (u, some p))
  (hqueue : ((u.messageTaken p k).part p).actq queue = some (i, x)) (hmod : aqMod x.desc = k.srcModule) (hpart : aqPart x.desc = k.srcPart)
  (hrole : aqConsumer x.desc = consumer)
include hop hbuf htake hqueue hmod hpart hrole

theorem State.queueEvent_current (hepoch : epochOlder epoch ((u.messageTaken p k).part p).run.epoch = false) (f : ActQ → ActQ) :
    s.queueEvent k queue epoch consumer f = ((u.messageTaken p k).modActq p i f).actMark p := by
  simp only [State.messageTaken] at hqueue hepoch ⊢
  simp only [State.queueEvent, hop, htake, hbuf, hqueue, hmod, hpart, hrole, hepoch, ne_eq, not_true_eq_false, or_self, List.isEmpty_nil, Bool.not_true,
    Bool.false_eq_true, ↓reduceIte]

theorem State.queueEvent_stale (hepoch : epochOlder epoch ((u.messageTaken p k).part p).run.epoch = true) (f : ActQ → ActQ) :
    s.queueEvent k queue epoch consumer f = ((u.messageTaken p k).modActq p i fun y => { y with stale := y.stale + 1 }).count .staleNotice := by
  simp only [State.messageTaken] at hqueue hepoch ⊢
  simp only [State.queueEvent, hop, htake, hbuf, hqueue, hmod, hpart, hrole, hepoch, ne_eq, not_true_eq_false, or_self, List.isEmpty_nil, Bool.not_true,
    Bool.false_eq_true, ↓reduceIte]

end

end

/-- Settles O32: a message that the transport accepts is taken on its channel, and then counted at the end of the queue, or the range, that it names. -/
theorem pairingAndQueueMessagesCount : Obligations.PairingAndQueueMessagesCount := by
  refine ⟨fun s p => ⟨fun b m q rest hp hmissing hhold hlate => ?missing, fun k base u hop hbuf htake => ⟨fun hmine => ?borrowed, fun hother hlent => ?lent⟩⟩,
    fun s u k p queue epoch i x hop hbuf htake hqueue hmod hpart => ⟨fun hrole hepoch => ?credit, fun hrole hepoch => ?full, fun hrole hepoch => ?stale⟩⟩
  case missing => exact answer_of_ok (decide_eq_true hp) (doArenaLendTimeout_late hmissing hhold hlate)
  case borrowed => exact (execPairingConfirm_accepted hop hbuf htake base).trans (congrArg _ (State.pairingHeard_borrowed hmine))
  case lent => exact (execPairingConfirm_accepted hop hbuf htake base).trans (congrArg _ (State.pairingHeard_lent hother hlent))
  case credit => exact answer_of_ok rfl (State.queueEvent_current hop hbuf htake hqueue hmod hpart hrole hepoch _)
  case full => exact answer_of_ok rfl (State.queueEvent_current hop hbuf htake hqueue hmod hpart hrole hepoch _)
  case stale => exact answer_of_ok rfl (State.queueEvent_stale hop hbuf htake hqueue hmod hpart hrole hepoch _)

/-! ## The pyrometer (R39, R136, R138, R139, R210) -/

section
variable {s : State} {p : Nat}

theorem doStepFlagTaken_due (hdue : s.flagDue p = true) :
    doStepFlagTaken p s =
      let t := s.modRun p fun r => { r with flagTaken := some (s.part p).run.flagWord }
      ((t.each ((t.part p).coll.ops.filter fun o => o.kind == 2 && !o.sent) fun t o => t.flagSend p o (s.part p).run.flagWord).abortsDue p).collSettle p := by
  simp only [doStepFlagTaken, hdue, Bool.not_true, Bool.false_eq_true, ↓reduceIte]

/-- Staging of the job that its flag roots leave to REDUCEs. -/
abbrev State.reduceRoom (s : State) (p : Nat) : Nat := ((s.part p).job.map (·.staging.2)).getD 0 - s.flagRootBytes p

section
variable {w : Nat} {o : CollOp} (htaken : (s.part p).run.flagTaken = some w) (hfence : (s.part p).fenced = false) (hst : (s.part p).st = .active)
  (hnext : ((s.part p).coll.ops.find? fun o => o.kind == 0 && !o.released && !o.abandoned && !o.done) = some o)
include htaken hfence hst hnext

theorem doReduceRelease_fits (x : Found) (hroom : (s.part p).coll.taken o + o.need ≤ s.reduceRoom p) :
    doReduceRelease p x s = (s.meet [(gLocal (cdSrc o.desc), 4 * cdCount o.desc)] x).releaseOp p o := by
  have hneed : ¬s.reduceRoom p < o.need := by omega
  simp only [doReduceRelease, htaken, hfence, hst, hnext, if_neg hneed, if_neg (Nat.not_lt.2 hroom), Option.isNone_some, bne_self_eq_false, Bool.or_self,
    Bool.false_eq_true, ↓reduceIte]

theorem doReduceRelease_neverFits (x : Found) (hroom : s.reduceRoom p < o.need) : doReduceRelease p x s = s.reduceNeverFits p o := by
  simp only [doReduceRelease, htaken, hfence, hst, hnext, if_pos hroom, Option.isNone_some, bne_self_eq_false, Bool.or_self, Bool.false_eq_true, ↓reduceIte]

end

theorem State.reduceNeverFits_outstanding {o : CollOp} {y : OutInsn} (hout : ((s.seq p .bwd).out.find? fun y => y.id == o.insn) = some y) :
    s.reduceNeverFits p o = (s.stopStream p .bwd).raise { recPart p sevPart 0x20 with layer := y.layer, addr := y.at_, detail := y.word } := by
  simp only [State.reduceNeverFits, hout, Option.map_some, Option.getD_some]

/-! A sampled position: its working and master addresses, and the state in which it has been read. -/

/-- The position of the next element that a SAMPLE checks. -/
abbrev State.sampleAt (s : State) (p : Nat) (x : SampleJob) : Nat := samplePos (jpSeed (s.params p)) (ssTensor x.desc) (s.part p).run.step x.next (ssCount x.desc)

/-- Its working address. -/
abbrev State.sampleWork (s : State) (p : Nat) (x : SampleJob) : Nat := ssWork x.desc + 2 * s.sampleAt p x

/-- The local address of its master. -/
abbrev State.sampleMaster (s : State) (p : Nat) (x : SampleJob) : Nat := gLocal (ssMaster x.desc) + s.sampleAt p x * ssStride x.desc

/-- Both have been read, and the SAMPLE goes on to its next position or ends. -/
abbrev State.sampleRead (s : State) (p : Nat) (x : SampleJob) (rest : List SampleJob) (e : Found) : State :=
  (s.meet [(s.sampleMaster p x, 4), (gLocal (s.sampleWork p x), 2)] e).modPyro p fun y =>
    { y with samples := if ssSamples x.desc ≤ x.next + 1 then rest else { x with next := x.next + 1 } :: rest }

/-- Is the element marked, or out of reach? -/
abbrev State.sampleLost (t s : State) (p : Nat) (x : SampleJob) : Bool :=
  t.unreached (s.sampleMaster p x) 4 || t.unreached (gLocal (s.sampleWork p x)) 2 || t.marked (s.sampleMaster p x) 4 || t.marked (gLocal (s.sampleWork p x)) 2

/-- The master's value in the working format. -/
abbrev State.sampleConv (t s : State) (p : Nat) (x : SampleJob) : Nat :=
  ((fmtOf (ssFmt x.desc)).enc .rne true (f32 (BitVec.ofNat 32 (t.word (s.sampleMaster p x) 4)))).1

section
variable {x : SampleJob} {rest : List SampleJob} (hsamples : (s.part p).pyro.samples = x :: rest) (e : Found)
  (hfree : s.commitOn p (s.sampleWork p x) = false)
include hsamples hfree

theorem doSamplePositionCheck_lost (hlost : (s.sampleRead p x rest e).sampleLost s p x = true) :
    doSamplePositionCheck p e s = ((s.sampleRead p x rest e).sampleSlag p samplerCheck (ssTensor x.desc) 1).modPyro p Pyro.flush := by
  simp only [doSamplePositionCheck, hsamples, hfree, Bool.false_eq_true, ↓reduceIte]
  exact if_pos hlost

theorem doSamplePositionCheck_compared (hlost : (s.sampleRead p x rest e).sampleLost s p x = false) :
    doSamplePositionCheck p e s =
      let t := s.sampleRead p x rest e
      if t.sampleConv s p x = t.word (gLocal (s.sampleWork p x)) 2 then t
      else t.driftFound p x.desc (s.sampleAt p x) (t.sampleConv s p x) (t.word (gLocal (s.sampleWork p x)) 2) := by
  simp only [doSamplePositionCheck, hsamples, hfree, Bool.false_eq_true, ↓reduceIte]
  exact if_neg (Bool.eq_false_iff.1 hlost)

end

end

/-- Settles O35: the flag word is taken when it is due; the next REDUCE is released where it fits, and stops its stream where it never can; a sampled
position is counted as marked, or compared. -/
theorem pyrometerEventsComplete : Obligations.PyrometerEventsComplete := by
  intro s p hp
  have hok : okPart p = true := decide_eq_true hp
  refine ⟨fun hdue => ?flag, fun w o x htaken hfence hst hnext => ⟨fun hroom => ?release, fun y hout hroom => ?neverFits⟩,
    fun x rest e hsamples hfree => ⟨fun hlost => ?lost, fun hlost => ?compared⟩⟩
  case flag => exact answer_of_ok hok (doStepFlagTaken_due hdue)
  case release => exact answer_of_ok hok (doReduceRelease_fits htaken hfence hst hnext x hroom)
  case neverFits =>
    exact answer_of_ok hok ((doReduceRelease_neverFits htaken hfence hst hnext x hroom).trans (State.reduceNeverFits_outstanding hout))
  case lost => exact answer_of_ok hok (doSamplePositionCheck_lost hsamples e hfree hlost)
  case compared => exact answer_of_ok hok (doSamplePositionCheck_compared hsamples e hfree hlost)

end Sys2Proof.Machine
end

section
/-! PROOF. The timed events of power, temperature and clocks (R49, R353, R362, R363, R369-R372, R382). -/

namespace Sys2Proof.Machine

/-! ## The tick of the cap (R353, R354) -/

/-- What the tick of the cap must leave to the rest of a step: memory, the cap, and the sum of blade power. -/
def State.capView (s : State) : List Host.Cell × Nat × Nat := (s.mem, s.power.cap, s.power.bladeSum)

/-- The part of it that stands in the power registers. -/
def Power.capView (w : Power) : Nat × Nat := (w.cap, w.bladeSum)

theorem State.capView_modPower {s : State} {f : Power → Power} (h : (f s.power).capView = s.power.capView) : (s.modPower f).capView = s.capView :=
  congrArg (Prod.mk s.mem) h

/-- Grants that move between dies show in neither. -/
theorem State.capView_regrant (s : State) (p : Nat) : (s.regrant p).capView = s.capView := by
  refine State.capView_modPower ?_
  rw [foldl_reads Power.capView (fun _ _ _ => by rfl), foldl_reads Power.capView (fun _ _ _ => by rfl)]

theorem State.capView_capPart (s : State) (p avg : Nat) : (s.capPart p avg).capView = s.capView := by
  unfold State.capPart
  dsimp only
  split_ifs <;> exact State.capView_regrant _ p

/-! What the loss of a PHY's PLL leaves: memory behind it out of reach, then its ports dark or its record written (R369). -/

/-- Memory behind a PHY that is not a port's is noted as lost. -/
def State.losePhy (s : State) (unit : Nat) : State := if 4 ≤ unit then s.modPower fun w => { w with lostMem := setIns unit w.lostMem } else s

/-- The records of the loss, and the ports of a bellows die dark. -/
def State.phyLost (s : State) (unit : Nat) : State :=
  if unit < 4 then (s.raise { recPart (bellowsPart s.nparts unit) sevDef 0x95 with unit := unitDevice, resClass := 6, resIndex := unit }).darkPorts unit
  else if unit < 6 then s.each (diePartsCru s.nparts (unit - 4)) fun s p => s.raise { recPart p sevPart 0x95 with unit := unitDevice, resClass := 3, resIndex := unit - 4 }
  else s.raise { recPart (stackPart s.nparts (unit - 6)) sevPart 0x95 with unit := unitDevice, resClass := 1, resIndex := unit - 6 }

section
variable {s : State} (hrow : s.power.row = 11)
include hrow

theorem State.running_of_row : s.running = true := beq_iff_eq.2 hrow

theorem doCapTick_running (x : CapIn) : ∃ t : State, doCapTick x s = t ∧ t.power.blade = x.blade ∧ t.power.bladeSum = s.power.bladeSum + x.blade ∧
    t.mem = s.mem ∧ t.power.cap = s.power.cap := by
  have hview := State.each_reads State.capView (f := fun s p => s.capPart p (s.partWatts x p)) (l := List.range s.nparts)
    (fun t p _ => State.capView_capPart t p _) s
  simp only [State.capView, Prod.mk.injEq] at hview
  obtain ⟨hmem, hcap, hsum⟩ := hview
  refine ⟨_, rfl, ?_⟩
  simp only [doCapTick, State.running_of_row hrow, Bool.not_true, Bool.false_eq_true, ↓reduceIte, State.modPower_power, State.modPower_mem, hmem, hcap, hsum,
    and_self]

/-! ## Temperatures and clocks (R369, R382) -/

theorem doThermalTick_running (l : List (Nat × Option Int)) : doThermalTick l s = s.each l fun s x => s.sensor x.1 x.2 := if_pos (State.running_of_row hrow)

theorem State.clockLoss_running : s.clockLoss = (s.modPower fun w => { w with vco := false }).raise (rec15 sevFatal 0x94 3) :=
  if_pos (State.running_of_row (s := s.modPower fun w => { w with vco := false }) hrow)

theorem doClockCheck_locked (hvco : s.power.vco = true) (ppm : Nat) (edge lock : Bool) :
    doClockCheck ppm edge lock s = if ppm ≤ 10000 ∧ edge = true ∧ lock = true then s else s.clockLoss := by
  have hup : ¬(s.power.row < 4 ∨ !s.power.vco) := by simp [hrow, hvco]
  rw [doClockCheck, if_neg hup]
  by_cases hgood : ppm ≤ 10000 ∧ edge = true ∧ lock = true
  · have hnone : ¬(10000 < ppm ∨ !edge ∨ !lock) := by obtain ⟨hppm, hedge, hlock⟩ := hgood; simp [hedge, hlock, hppm]
    rw [if_neg hnone, if_pos hgood]
  · have hsome : 10000 < ppm ∨ !edge ∨ !lock := by simpa [imp_iff_not_or] using hgood
    rw [if_pos hsome, if_neg hgood]

theorem doPhyPll_running (unit : Nat) : doPhyPll unit s = (s.losePhy unit).phyLost unit := by
  have hrun : (s.losePhy unit).running = true := by
    unfold State.losePhy
    split_ifs <;> exact State.running_of_row hrow
  have hlose : (if s.running ∧ 4 ≤ unit then s.modPower fun w => { w with lostMem := setIns unit w.lostMem } else s) = s.losePhy unit := by
    rw [State.running_of_row hrow, State.losePhy]
    simp only [true_and]
  rw [doPhyPll, hlose]
  simp only [hrun, Bool.not_true, Bool.false_eq_true, ↓reduceIte]
  rfl

theorem doPhyPll_bellows {b : Nat} (hb : b < 4) :
    doPhyPll b s = (s.raise { recPart (bellowsPart s.nparts b) sevDef 0x95 with unit := unitDevice, resClass := 6, resIndex := b }).darkPorts b := by
  rw [doPhyPll_running hrow, State.losePhy, if_neg (Nat.not_le.2 hb)]
  exact if_pos hb

theorem doPhyPll_crucible {k : Nat} (hk : k < 2) :
    doPhyPll (4 + k) s = (s.modPower fun w => { w with lostMem := setIns (4 + k) w.lostMem }).each (diePartsCru s.nparts k) fun s p =>
      s.raise { recPart p sevPart 0x95 with unit := unitDevice, resClass := 3, resIndex := k } := by
  have h4 : ¬4 + k < 4 := by omega
  have h6 : 4 + k < 6 := by omega
  rw [doPhyPll_running hrow, State.losePhy, if_pos (Nat.le_add_right 4 k)]
  simp only [State.phyLost, if_neg h4, if_pos h6, Nat.add_sub_cancel_left]
  rfl

theorem doPhyPll_base {k : Nat} (hk : 6 ≤ k) :
    doPhyPll k s = (s.modPower fun w => { w with lostMem := setIns k w.lostMem }).raise
      { recPart (stackPart s.nparts (k - 6)) sevPart 0x95 with unit := unitDevice, resClass := 1, resIndex := k - 6 } := by
  have h4 : 4 ≤ k := by omega
  rw [doPhyPll_running hrow, State.losePhy, if_pos h4]
  simp only [State.phyLost, if_neg (Nat.not_lt.2 h4), if_neg (Nat.not_lt.2 hk)]
  rfl

theorem doPhyPllRelock_locked (b : Nat) : doPhyPllRelock b true s = s.each [2 * b, 2 * b + 1] fun s q => s.modPort q fun y => { y with pllLost := false } :=
  if_pos ⟨State.running_of_row hrow, rfl⟩

/-! ## The hold-up bank and the persistent stores (R362, R363) -/

theorem doHoldupMeasure_due (hdue : s.power.cmeas = none ∨ s.power.holdTick + ticksSec 86400 ≤ s.tick) (uf mv : Nat) :
    doHoldupMeasure uf mv s =
      let t := s.modPower fun w => { w with cmeas := some uf, vbank := mv, holdTick := s.tick }
      if holdEnergy (some uf) 48000 < holdupFloor then t.raise (rec15 sevDef 0x9C 1) else t := by
  have hwait : ¬(!s.running ∨ (s.power.cmeas.isSome ∧ s.tick < s.power.holdTick + dayTicks)) := by
    rw [State.running_of_row hrow]
    rcases hdue with hnone | hday
    · simp [hnone]
    · simp [dayTicks, hday]
  exact if_neg hwait

theorem doPstoreRetry_due (hdue : s.power.retryTick + ticksSec 1 ≤ s.tick) : doPstoreRetry s = (s.modPower fun w => { w with retryTick := s.tick }).retryStores :=
  if_pos ⟨State.running_of_row hrow, hdue⟩

theorem doWearCounterWrite_due (hdue : s.power.hoursTick + ticksSec 3600 ≤ s.tick) :
    doWearCounterWrite s = (s.modPower fun w => { w with hours := w.hours + 1, hoursTick := s.tick }).persist .wear :=
  if_pos ⟨State.running_of_row hrow, hdue⟩

/-! ## Power states and HALT_N (R49, R370-R372) -/

theorem doIdleEntry_due (hstate : s.power.pstate = .p0) (htarget : s.power.target = 1) (hmoving : s.power.moving = none) (hidle : ∀ q ∈ s.parts, q.busy = false)
    (hdue : s.power.busyTick + ticksMs 10 ≤ s.tick) : doIdleEntry s = s.modPower fun w => { w with pstate := .p1 } := by
  have hall : (s.parts.all fun q => !q.busy) = true := List.all_eq_true.2 fun q hq => by rw [hidle q hq]; rfl
  simp only [doIdleEntry, State.running_of_row hrow, hstate, htarget, hmoving, hall, hdue, beq_self_eq_true, Option.isNone_none, decide_true, Bool.and_self, ↓reduceIte]

end

section
variable {s : State}

theorem doPowerTransitionDone_ready {x : PState} (hmoving : s.power.moving = some x) (hp2 : x = .p2 → s.allHeld = true) (hp3 : x = .p3 → s.allFree = true)
    (htested : s.power.pstate = .p3 → ∀ h ∈ s.hearths, h.testing = false) : doPowerTransitionDone s = s.enter x := by
  have hready : ¬((x = .p2 ∧ !s.allHeld) ∨ (x = .p3 ∧ !s.allFree) ∨ (s.power.pstate = .p3 ∧ s.hearths.any (·.testing))) := by
    rintro (⟨hx, hheld⟩ | ⟨hx, hfree⟩ | ⟨hstate, htesting⟩)
    · simp [hp2 hx] at hheld
    · simp [hp3 hx] at hfree
    · obtain ⟨h, hh, ht⟩ := List.any_eq_true.1 htesting
      rw [htested hstate h hh] at ht
      cases ht
  simp only [doPowerTransitionDone, hmoving, if_neg hready]

theorem doHalt_due {p : Nat} (hhold : (s.part p).run.holds.contains .halt = true) (h8 : (s.part p).run.atAction8 = true)
    (hdue : ticksSec 10 ≤ s.tick - (s.part p).run.haltTick) :
    doHalt p s = (s.modRun p fun r => { r with haltTick := s.tick }).notice p 1 (s.part p).run.step := if_pos ⟨hhold, h8, hdue⟩

end

/-- Settles O59: start-up has reached row 11, so that each event has its effect once it is due. -/
theorem powerEventsComplete : Obligations.PowerEventsComplete := by
  intro s hrow
  refine ⟨fun x => ?cap, fun l => ?thermal, fun ppm edge lock hvco => ?clock, fun b hb => ?bellows, fun k hk => ?crucible, fun k hk hk' => ?base,
    fun b hb => ?relock, fun uf mv hdue => ?holdup, fun hdue => ?retry, fun hdue => ?wear, fun hstate htarget hmoving hidle hdue => ?idle,
    fun x hmoving hp2 hp3 htested => ?transition, fun p hp hhold h8 hdue => ?halt⟩
  case cap =>
    obtain ⟨t, ht, hpost⟩ := doCapTick_running hrow x
    exact ⟨t, answer_of_ok rfl ht, hpost⟩
  case thermal => exact answer_of_ok rfl (doThermalTick_running hrow l)
  case clock =>
    refine answer_of_ok rfl ?_
    rw [doClockCheck_locked hrow hvco, State.clockLoss_running hrow]
    rfl
  case bellows =>
    have hphy : okPhy b = true := decide_eq_true (by omega)
    exact answer_of_ok hphy (doPhyPll_bellows hrow hb)
  case crucible =>
    have hphy : okPhy (4 + k) = true := decide_eq_true (by omega)
    exact answer_of_ok hphy (doPhyPll_crucible hrow hk)
  case base => exact answer_of_ok (decide_eq_true hk') (doPhyPll_base hrow hk)
  case relock => exact answer_of_ok (decide_eq_true hb) (doPhyPllRelock_locked hrow b)
  case holdup => exact answer_of_ok rfl (doHoldupMeasure_due hrow hdue uf mv)
  case retry => exact answer_of_ok rfl (doPstoreRetry_due hrow hdue)
  case wear => exact answer_of_ok rfl (doWearCounterWrite_due hrow hdue)
  case idle => exact answer_of_ok rfl (doIdleEntry_due hrow hstate htarget hmoving hidle hdue)
  case transition => exact answer_of_ok rfl (doPowerTransitionDone_ready hmoving hp2 hp3 htested)
  case halt => exact answer_of_ok (decide_eq_true hp) (doHalt_due hhold h8 hdue)

end Sys2Proof.Machine
end

section
/-! PROOF. The commands of jobs, inputs, apertures, layouts, routes, spares and rounds (R47, R49, R51, R177, R205, R206, R229, R234, R241, R340-R346). -/

namespace Sys2Proof.Machine

section
variable {s : State} {p : Nat} {args : List Byte}

/-! ## The own part of each command, on operands that it accepts -/

theorem runJobLoad_ok {t : State} (hat : s.manifestAt p (argNat args 0 8) = true) (hrouted : ((s.part p).fab.entry s.moduleId).isSome = true)
    (hload : s.loadJob p (argNat args 0 8) = some t) (hnone : (s.part p).job = none) (hready : (s.part p).st = .ready)
    (hspare : (s.part p).fab.entryState s.moduleId ≠ 3) : runJobLoad s p args = .ok (t.cipherless p) := by
  have hrouted : ((s.part p).fab.entry s.moduleId).isNone = false := Option.isNone_eq_false_iff.2 hrouted
  simp only [runJobLoad, hat, hrouted, hload, hnone, hready, hspare, Option.isSome_none, Bool.not_true, Bool.false_eq_true, ne_eq, not_true_eq_false, or_self,
    ↓reduceIte]

theorem State.wake_eq (s : State) :
    s.wake = if s.power.pstate = .p1 ∧ s.power.moving = none then { s with power := { s.power with moving := some .p0 } } else s := by
  simp only [State.wake, Option.isNone_iff_eq_none]
  rfl

theorem runJobStart_ok (hjob : (s.part p).job.isSome = true) (hready : (s.part p).st = .ready) (hid : s.idValid = true) (hp3 : s.power.pstate ≠ .p3) :
    runJobStart s p args = .ok (s.wake.startJob p) := by
  have hjob : (s.part p).job.isNone = false := Option.isNone_eq_false_iff.2 hjob
  simp only [runJobStart, hjob, hready, hid, hp3, Bool.not_true, Bool.false_eq_true, ne_eq, not_true_eq_false, or_self, ↓reduceIte]

theorem runJobStop_idle (hidle : (s.part p).job = none ∨ (s.part p).st = .ready) : runJobStop s p args = .ok s := by
  simp only [runJobStop, Option.isNone_iff_eq_none, if_pos hidle]

theorem runJobStop_armed (hrunning : ¬((s.part p).job = none ∨ (s.part p).st = .ready)) :
    runJobStop s p args =
      let u := s.modRun p fun r => { r with stopArmed := true }
      .ok (if (u.part p).run.stops then u.stopNow p else u) := by
  simp only [runJobStop, Option.isNone_iff_eq_none, if_neg hrunning]

theorem runJobUnload_ok (hready : (s.part p).st = .ready) : runJobUnload s p args = .ok (s.leaveJob p) := if_neg (not_not.2 hready)

theorem runAccSet_ok (hjob : (s.part p).job.isSome = true) (hlo : jpAccLo (s.params p) ≤ argNat args 0 2) (hhi : argNat args 0 2 ≤ jpAccHi (s.params p)) :
    runAccSet s p args = .ok (s.modRun p fun r => { r with accArmed := some (argNat args 0 2) }) := by
  have hjob : (s.part p).job.isNone = false := Option.isNone_eq_false_iff.2 hjob
  simp only [runAccSet, hjob, hlo, hhi, Bool.false_eq_true, and_self, ↓reduceIte]

section
variable (hjob : (s.part p).job.isSome = true) (htok : argNat args 0 1 ≤ 127) (hlo : 1 ≤ argNat args 1 1) (hhi : argNat args 1 1 ≤ 63)
include hjob htok hlo hhi

/-- An INPUT.POST with a token and a count in range goes by its step. -/
theorem runInputPost_ranged :
    runInputPost s p args =
      if argNat args 2 6 < (s.part p).run.step then .rejected s 2
      else if argNat args 2 6 = (s.part p).run.step ∧ s.inStep p then .ok (s.signalN p (argNat args 0 1) (argNat args 1 1))
      else if 16 ≤ (s.part p).run.posts.length then .busy s
      else .ok (s.modRun p fun r => { r with posts := r.posts ++ [⟨argNat args 0 1, argNat args 1 1, argNat args 2 6⟩] }) := by
  have hjob : (s.part p).job.isNone = false := Option.isNone_eq_false_iff.2 hjob
  have hcount : ¬(argNat args 1 1 = 0 ∨ 63 < argNat args 1 1) := by omega
  simp only [runInputPost, if_neg (Nat.not_lt.2 htok), if_neg hcount, hjob, Bool.false_eq_true, ↓reduceIte]

theorem runInputPost_later (hlater : (s.part p).run.step < argNat args 2 6) (hroom : (s.part p).run.posts.length < 16) :
    runInputPost s p args = .ok (s.modRun p fun r => { r with posts := r.posts ++ [⟨argNat args 0 1, argNat args 1 1, argNat args 2 6⟩] }) := by
  have hnow : ¬(argNat args 2 6 = (s.part p).run.step ∧ s.inStep p) := fun h => hlater.ne' h.1
  rw [runInputPost_ranged hjob htok hlo hhi, if_neg (Nat.not_lt.2 hlater.le), if_neg hnow, if_neg (Nat.not_le.2 hroom)]

theorem runInputPost_now (hnow : argNat args 2 6 = (s.part p).run.step) (hin : s.inStep p = true)
    (hfits : (s.part p).run.tokens.getD (argNat args 0 1) 0 + argNat args 1 1 ≤ 65535) :
    runInputPost s p args = .ok (s.modRun p fun r => { r with tokens := updAt r.tokens (argNat args 0 1) (· + argNat args 1 1) }) := by
  rw [runInputPost_ranged hjob htok hlo hhi, if_neg hnow.not_lt, if_pos ⟨hnow, hin⟩, State.signalN, if_neg (Nat.not_lt.2 hfits)]

end

theorem runApertureSet_ok (halign : argNat args 0 8 % 2 ^ 21 = 0) (hown : s.ownRange p (argNat args 0 8) (2 ^ 21) [0, 1, 2] = true) :
    runApertureSet s p args = .ok (s.modPart p fun q => { q with aperture := some (argNat args 0 8) }) := if_pos ⟨halign, hown⟩

theorem runMemSend_ok {m : Nat} (hlo : 1 ≤ argNat args 8 8) (hhi : argNat args 8 8 < 2 ^ 40) (hfirst : s.ownRange p (argNat args 0 8) 1 [0, 1, 2] = true)
    (hall : s.ownRange p (argNat args 0 8) (argNat args 8 8) [0, 1, 2] = true) (hhandle : s.handleOk (some p) (argNat args 16 8) (argNat args 8 8) = true) :
    runMemSend m s p args = .ok (s.addBg p
      { kind := .memSend, id := 0, src := argNat args 0 8, dst := argNat args 16 8, len := argNat args 8 8, cookie := bits (s.mbxHdr m) 511 448,
        tag := 2 * 2 ^ 28 + bits (s.mbxHdr m) 511 448 % 2 ^ 28 }) := by
  have hlen : ¬(argNat args 8 8 = 0 ∨ 2 ^ 40 ≤ argNat args 8 8 ∨ !s.ownRange p (argNat args 0 8) (argNat args 8 8) [0, 1, 2]) := by
    simp only [hall, Bool.not_true, Bool.false_eq_true, or_false]
    omega
  simp only [runMemSend, hfirst, if_neg hlen, hhandle, Bool.not_true, Bool.false_eq_true, ↓reduceIte]

/-- Data goes to one of the partition's own targets where its handle fits. -/
theorem memSendScope_none {n : Nat} (hhandle : s.handleOk (some p) (argNat args 16 8) n = true) : memSendScope s p args = none := by
  have hsome : (s.target (some p) (argNat args 16 8)).isNone = false := Option.isNone_eq_false_iff.2 (State.target_isSome_of_handleOk hhandle)
  simp only [memSendScope, hsome, Bool.false_eq_true, ↓reduceIte]

theorem runIngotEmit_ok (hjob : (s.part p).job.isSome = true) (hcfg : s.ingotBad p (argNat args 0 32) = none) :
    runIngotEmit s p args = .ok (s.modPart p fun q => { q with ingotNext := some (argNat args 0 32) }) := by
  have hjob : (s.part p).job.isNone = false := Option.isNone_eq_false_iff.2 hjob
  simp only [runIngotEmit, hcfg, hjob, Bool.false_eq_true, ↓reduceIte]

/-- An emission without a faulty field goes to one of the partition's own targets. -/
theorem ingotScope_none (hcfg : s.ingotBad p (argNat args 0 32) = none) : ingotScope s p args = none := by
  have hhandle : s.handleOk (some p) (igDest (argNat args 0 32)) (s.partBytes p (igMoments (argNat args 0 32))) = true := by
    simp only [State.ingotBad, firstBad_eq_none_iff, List.forall_mem_cons] at hcfg
    obtain ⟨-, -, -, -, hdest, -⟩ := hcfg
    exact hdest
  have hsome : (s.target (some p) (igDest (argNat args 0 32))).isNone = false := Option.isNone_eq_false_iff.2 (State.target_isSome_of_handleOk hhandle)
  simp only [ingotScope, hsome, Bool.false_eq_true, ↓reduceIte]

theorem runLayoutSet_ok {x : Manifest} (hkind : argNat args 0 1 ≤ 1) (hjob : (s.part p).job.isSome = true) (hat : s.manifestAt p (argNat args 8 8) = true)
    (hread : s.readManifest p (argNat args 8 8) = some x) (hlayout : (s.layoutOf p x).isSome = true) :
    runLayoutSet s p args = .ok (if argNat args 0 1 = 1 then s.forceLayout p x else s.armLayout p x false) := by
  have hjob : (s.part p).job.isNone = false := Option.isNone_eq_false_iff.2 hjob
  have hlayout : (s.layoutOf p x).isNone = false := Option.isNone_eq_false_iff.2 hlayout
  simp only [runLayoutSet, if_neg (Nat.not_lt.2 hkind), hat, hread, hjob, hlayout, Bool.not_true, Bool.false_eq_true, ↓reduceIte]

theorem runRouteLoad_ok {h : Nat} {es ms : List Nat} (hat : s.ownRange p (argNat args 0 8) 64 [0] = true) (hread : s.readRoutes p (argNat args 0 8) = some (h, es, ms))
    (hid : s.idValid = true) (hmine : ((s.part p).fab.load h es ms).entryState s.moduleId = 1) (hready : (s.part p).st = .ready) :
    runRouteLoad s p args = .ok (s.modFab p fun _ => (s.part p).fab.load h es ms) := by
  have hgood : ¬(!s.idValid ∨ !([1, 3].contains (((s.part p).fab.load h es ms).entryState s.moduleId))) := by simp [hid, hmine]
  simp only [runRouteLoad, hat, hread, if_neg hgood, hready, Bool.not_true, Bool.false_eq_true, ne_eq, not_true_eq_false, ↓reduceIte]

theorem runSpareAssume_ok {k e : Nat} (hspare : (s.part p).fab.entryState s.moduleId = 3) (hentry : (s.part p).fab.entry (argNat args 0 4) = some (k, e))
    (hlost : reState e = 2) (hcount : rePartCount e = s.nparts) (hparts : (entParts e).contains p = true)
    (hload : (({ s with moduleId := argNat args 0 4 } : State).loadJob p (s.asLost (argNat args 0 4) (argNat args 8 8))).isSome = true)
    (hready : (s.part p).st = .ready) (hnone : (s.part p).job = none) :
    runSpareAssume s p args =
      .ok ((s.modFab p fun f => { f with assuming := some (argNat args 0 4, s.asLost (argNat args 0 4) (argNat args 8 8)) }).announce p (argNat args 0 4) e) := by
  have hgood : ¬(reState e = 0 ∨ rePartCount e ≠ s.nparts ∨ !(entParts e).contains p) := by
    rw [hparts]
    simp [hlost, hcount]
  have hfree : ¬(reState e ≠ 2 ∨ (s.part p).st ≠ .ready ∨ (s.part p).job.isSome) := by simp [hlost, hready, hnone]
  have hload : (({ s with moduleId := argNat args 0 4 } : State).loadJob p (s.asLost (argNat args 0 4) (argNat args 8 8))).isNone = false :=
    Option.isNone_eq_false_iff.2 hload
  simp only [runSpareAssume, hspare, hentry, if_neg hgood, hload, if_neg hfree, ne_eq, not_true_eq_false, Bool.false_eq_true, ↓reduceIte]

theorem runRoundConfig_ready {il sl : List Nat} (hcfg : s.roundBad p (argNat args 0 64) = none) (harrays : s.roundArrays p (argNat args 0 64) = some (il, sl))
    (hready : (s.part p).st = .ready) :
    runRoundConfig s p args = .ok ((s.setRound p (argNat args 0 64) il sl).modOuter p fun o => { o with island := some (rcIsland (argNat args 0 64)) }) := by
  simp only [runRoundConfig, hcfg, harrays, hready, ↓reduceIte]

end

/-! ## The rows -/

section
variable {s : State} {m : Nat}

theorem State.isForced_eq_false (h : s.arg m 0 1 = 0) : s.isForced m = false := by
  have h : argNat (s.mbxArgs m) 0 1 = 0 := h
  simp [State.isForced, h]

theorem State.isForced_eq_true (h : s.arg m 0 1 = 1) : s.isForced m = true := beq_iff_eq.2 h

/-- A LAYOUT.SET that is not forced goes by the row of its command. -/
theorem exec_layoutSet (h : s.arg m 0 1 = 0) : exec (.layoutSet m) s = answer (okMbx m) (s.command m cmdLayoutSet runLayoutSet) := by
  have hexec : exec (.layoutSet m) s = answer (okMbx m) (if s.isForced m then s else s.command m cmdLayoutSet runLayoutSet) := rfl
  rw [hexec, if_neg (Bool.eq_false_iff.1 (State.isForced_eq_false h))]

theorem exec_layoutSetForced (h : s.arg m 0 1 = 1) : exec (.layoutSetForced m) s = answer (okMbx m) (s.command m cmdLayoutSet runLayoutSet) := by
  have hexec : exec (.layoutSetForced m) s = answer (okMbx m) (if s.isForced m then s.command m cmdLayoutSet runLayoutSet else s) := rfl
  rw [hexec, if_pos (State.isForced_eq_true h)]

end

/-- Settles O12: each command is let in, names nothing out of its scope, and its own part accepts its operands. -/
theorem jobCommandsComplete : Obligations.JobCommandsComplete := by
  intro s m p
  refine ⟨fun t h hat hrouted hload hnone hready hspare => ?jobLoad, fun h hjob hready hid hp3 => ?jobStart, fun h => ?jobStop, fun h hready => ?jobUnload,
    fun h hjob hlo hhi => ?accSet, fun h hjob htok hlo hhi hlater hroom => ?postLater, fun h hjob htok hlo hhi hnow hin hfits => ?postNow,
    fun h halign hown => ?apertureSet, fun h hlo hhi hfirst hall hhandle => ?memSend, fun h hjob hcfg => ?ingotEmit,
    fun x h hkind hjob hat hread hlayout => ?layoutSet, fun x h hkind hjob hat hread hlayout => ?layoutForced,
    fun k es ms h hat hread hid hmine hready => ?routeLoad, fun k e h hspare hentry hlost hcount hparts hload hready hnone => ?spareAssume,
    fun il sl h hcfg harrays hready => ?roundConfig⟩
  case jobLoad => exact answer_command_give h rfl (runJobLoad_ok hat hrouted hload hnone hready hspare)
  case jobStart =>
    rw [← State.wake_eq]
    exact answer_command_give h rfl (runJobStart_ok hjob hready hid hp3)
  case jobStop =>
    by_cases hidle : (s.part p).job = none ∨ (s.part p).st = .ready
    · rw [if_pos hidle]
      exact answer_command_give h rfl (runJobStop_idle hidle)
    · rw [if_neg hidle]
      dsimp only
      split_ifs with hstops
      · exact answer_command_give h rfl ((runJobStop_armed hidle).trans (congrArg Reply.ok (if_pos hstops)))
      · exact answer_command_give h rfl ((runJobStop_armed hidle).trans (congrArg Reply.ok (if_neg hstops)))
  case jobUnload => exact answer_command_give h rfl (runJobUnload_ok hready)
  case accSet => exact answer_command_give h rfl (runAccSet_ok hjob hlo hhi)
  case postLater => exact answer_command_give h rfl (runInputPost_later hjob htok hlo hhi hlater hroom)
  case postNow => exact answer_command_give h rfl (runInputPost_now hjob htok hlo hhi hnow hin hfits)
  case apertureSet => exact answer_command_give h rfl (runApertureSet_ok halign hown)
  case memSend => exact answer_command_give h (memSendScope_none hhandle) (runMemSend_ok hlo hhi hfirst hall hhandle)
  case ingotEmit => exact answer_command_give h (ingotScope_none hcfg) (runIngotEmit_ok hjob hcfg)
  case layoutSet =>
    have hforced : argNat (s.mbxArgs m) 0 1 ≠ 1 := hkind.trans_ne Nat.zero_ne_one
    rw [exec_layoutSet hkind]
    exact answer_command_give h rfl
      ((runLayoutSet_ok (hkind.le.trans zero_le_one) hjob hat hread hlayout).trans (congrArg Reply.ok (if_neg hforced)))
  case layoutForced =>
    rw [exec_layoutSetForced hkind]
    exact answer_command_give h rfl ((runLayoutSet_ok hkind.le hjob hat hread hlayout).trans (congrArg Reply.ok (if_pos hkind)))
  case routeLoad => exact answer_command_give h rfl (runRouteLoad_ok hat hread hid hmine hready)
  case spareAssume => exact answer_command_give h rfl (runSpareAssume_ok hspare hentry hlost hcount hparts hload hready hnone)
  case roundConfig => exact answer_command_give h rfl (runRoundConfig_ready hcfg harrays hready)

end Sys2Proof.Machine
end

section
/-! PROOF. The hearth's passes and billets (chapter 03), and the events of the fault hub (R61, R62, R67, R72, R73, R75, R169, R286, R325, R326, R328,
R331). -/

namespace Sys2Proof.Machine

/-! ## One hearth changed -/

section
variable {s : State} {h : Nat}

theorem State.hearth_lt_of_shaped (hs : s.shaped) (hh : h < 256) : h < s.hearths.length := by
  obtain ⟨-, hlen, -⟩ := hs
  rwa [hlen]

theorem State.hearth_modHearth_self (hh : h < s.hearths.length) (f : Hearth → Hearth) : (s.modHearth h f).hearth h = f (s.hearth h) :=
  getD_updAt_self f {} s.hearths h hh

theorem State.hearth_modHearth_ne {g : Nat} (hg : g ≠ h) (s : State) (f : Hearth → Hearth) : (s.modHearth h f).hearth g = s.hearth g :=
  getD_updAt_ne f {} s.hearths h g hg

end

/-! ## What a pass's reads and a billet's samples leave as they were -/

/-- Memory and the engines, which no error that a pass meets and no sample touches. -/
def State.engineView (s : State) : List Host.Cell × List Hearth × List Temper := (s.mem, s.hearths, s.tempers)

/-- The hub and the marks of SRAM words, which tell of the errors that a pass meets. -/
def State.errorView (s : State) : Hub × List Nat := (s.hub, s.wmarks)

theorem State.reads_of_engineView {s t : State} (h : t.engineView = s.engineView) : t.mem = s.mem ∧ t.hearths = s.hearths ∧ t.tempers = s.tempers := by
  simpa only [State.engineView, Prod.mk.injEq] using h

section
variable (s : State) (p h : Nat)

theorem State.engineView_addRbw (n : Nat) : (s.addRbw p n).engineView = s.engineView := by
  unfold State.addRbw
  split_ifs <;> rfl

theorem State.errorView_addRbw (n : Nat) : (s.addRbw p n).errorView = s.errorView := by
  unfold State.addRbw
  split_ifs <;> rfl

theorem State.engineView_splitCopies (l : List Nat) : (splitCopies p h l s).engineView = s.engineView := by
  unfold splitCopies
  exact State.each_reads State.engineView (fun _ _ _ => by rfl) s

theorem State.engineView_sramErrors (bad fixed : List Nat) : (sramErrors p h bad fixed s).engineView = s.engineView := by
  unfold sramErrors
  exact (State.each_reads State.engineView (fun _ _ _ => by rfl) _).trans (State.each_reads State.engineView (fun _ _ _ => by rfl) s)

theorem State.engineView_parityErrors (l : List Nat) : (parityErrors p h l s).engineView = s.engineView := by
  unfold parityErrors
  exact State.each_reads State.engineView (fun _ _ _ => by rfl) s

theorem State.engineView_sample (sampler tensor : Nat) (l : List Samp) : (s.sample p sampler tensor l).engineView = s.engineView := by
  unfold State.sample State.sampleWith
  dsimp only
  generalize (s.part p).pyro.find tensor = entry
  cases entry with
  | none => rfl
  | some t => dsimp only; split_ifs <;> rfl

end

/-! ## The pass whose turn it is (R61, R62, R67) -/

/-- The panels of both sides of a pass. -/
def State.passPanels (s : State) (h d : Nat) (bad fixed : List Nat) : List PanelRead :=
  readSide s h d (hpAOff d) (hpAPitch d) (hpASOff d) (hpAFmt d) (hpM d) bad fixed ++
    readSide s h d (hpBOff d) (hpBPitch d) (hpBSOff d) (hpBFmt d) (hpN d) bad fixed

/-- The errors of what a pass has read, recorded. -/
def State.tellPanels (s : State) (p h : Nat) (l : List PanelRead) : State :=
  sramErrors p h (l.flatMap (·.bad)).eraseDups (l.flatMap (·.fixed)).eraseDups (s.addRbw p (l.map (·.rbw)).sum)

/-- The state in which a pass has been read: the errors that it met recorded, and no hearth changed. -/
def State.readPass (s : State) (h d : Nat) (bad fixed split par : List Nat) : State :=
  let p := hearthPart s.nparts h
  let t := splitCopies p h (split.filter (passReads d)).eraseDups s
  parityErrors p h (activeAnvils d par) (t.tellPanels p h (t.passPanels h d bad fixed))

theorem State.engineView_readPass (s : State) (h d : Nat) (bad fixed split par : List Nat) : (s.readPass h d bad fixed split par).engineView = s.engineView := by
  rw [State.readPass, State.engineView_parityErrors, State.tellPanels, State.engineView_sramErrors, State.engineView_addRbw, State.engineView_splitCopies]

theorem activeAnvils_nil (d : Nat) : activeAnvils d [] = [] := by simp [activeAnvils]

/-- Where no word is in error, no panel meets one. -/
theorem State.passPanels_clean {s : State} {h d : Nat} {x : PanelRead} (hx : x ∈ s.passPanels h d [] []) : x.bad = [] ∧ x.fixed = [] := by
  rcases List.mem_append.1 hx with hx | hx <;>
  · obtain ⟨y, -, rfl⟩ := List.mem_map.1 hx
    exact ⟨rfl, rfl⟩

/-- A pass whose reads meet no error writes no record and no mark. -/
theorem State.errorView_readPass_clean (s : State) (h d : Nat) : (s.readPass h d [] [] [] []).errorView = s.errorView := by
  have hbad : (s.passPanels h d [] []).flatMap (·.bad) = [] := List.flatMap_eq_nil_iff.2 fun x hx => (State.passPanels_clean hx).1
  have hfixed : (s.passPanels h d [] []).flatMap (·.fixed) = [] := List.flatMap_eq_nil_iff.2 fun x hx => (State.passPanels_clean hx).2
  have hsplit : splitCopies (hearthPart s.nparts h) h (([] : List Nat).filter (passReads d)).eraseDups s = s := rfl
  rw [State.readPass, hsplit, activeAnvils_nil, State.tellPanels, hbad, hfixed]
  exact State.errorView_addRbw s _ _

section
variable (x : Hearth) (i : Nat) (e : PassEnt) (l : List (List W32 × Bool))

theorem Hearth.ran_queues : (x.ran i e l).queues = updAt x.queues i (·.drop 1) := by
  unfold Hearth.ran
  dsimp only
  split_ifs <;> rfl

variable {e}

/-- An emitting pass closes the chain and hands its set over. -/
theorem Hearth.ran_emits (hemit : hpEmit e.desc = true) : (x.ran i e l).chain = none ∧ (x.ran i e l).outSets.length = x.outSets.length + 1 := by
  simp [Hearth.ran, hemit]

/-- Any other keeps it open under its own source. -/
theorem Hearth.ran_stays (hemit : hpEmit e.desc = false) : (x.ran i e l).outSets = x.outSets ∧ ∃ f, (x.ran i e l).chain = some (i, f) := by
  simp [Hearth.ran, hemit]

end

section
variable {s : State} {h i : Nat} {e : PassEnt} (hst : (s.hearth h).st ≠ .offline) (hp0 : s.power.pstate = .p0) (hsets : (s.hearth h).outSets.length < 2)
  (hpick : (s.hearth h).pick = some (i, e)) (bad fixed split par : List Nat)
include hst hp0 hsets hpick

/-- A pass that the chain rules allow is read, and the hearth runs it for the cycles that it takes. -/
theorem doPassAccept_runs (hchain : chainBreaks (s.hearth h) e = false) : ∃ tick n l,
    doPassAccept h bad fixed split par s = (s.readPass h e.desc bad fixed split par).modHearth h fun x => (x.timed tick n e.desc).ran i e l := by
  simp only [doPassAccept, hst, hp0, hpick, hchain, if_neg (Nat.not_le.2 hsets), ne_eq, not_true_eq_false, or_self, Bool.false_eq_true, ↓reduceIte]
  exact ⟨_, _, _, rfl⟩

/-- One that breaks them is dropped with its record; that an open chain stays open is the model's choice (log entry 97). -/
theorem doPassAccept_breaks (hchain : chainBreaks (s.hearth h) e = true) : doPassAccept h bad fixed split par s =
    (s.modHearth h fun x => { x with queues := updAt x.queues i (·.drop 1) }).raise { recHearth (hearthPart s.nparts h) h sevPart 0x28 with layer := e.layer } := by
  simp only [doPassAccept, hst, hp0, hpick, hchain, if_neg (Nat.not_le.2 hsets), ne_eq, not_true_eq_false, or_self, ↓reduceIte]

end

/-- Settles O25: reading the pass leaves memory and every engine as it was; running it then changes its own hearth alone. -/
theorem passAcceptTakesQueueHead : Obligations.PassAcceptTakesQueueHead := by
  intro s h i e bad fixed split par hs hh hst hp0 hsets hpick
  have hok : okHearth h = true := decide_eq_true hh
  refine ⟨fun hchain => ?runs, fun hchain => answer_of_ok hok (doPassAccept_breaks hst hp0 hsets hpick bad fixed split par hchain)⟩
  obtain ⟨tick, n, l, hrun⟩ := doPassAccept_runs hst hp0 hsets hpick bad fixed split par hchain
  obtain ⟨hmem, hhearths, htempers⟩ := State.reads_of_engineView (State.engineView_readPass s h e.desc bad fixed split par)
  have hhearth : ∀ g, (s.readPass h e.desc bad fixed split par).hearth g = s.hearth g := fun g => congrArg (·.getD g {}) hhearths
  have hself := State.hearth_modHearth_self (hhearths ▸ State.hearth_lt_of_shaped hs hh) fun x => (x.timed tick n e.desc).ran i e l
  rw [hhearth] at hself
  refine ⟨_, answer_of_ok hok hrun, ?_, hmem, htempers, fun g hg => ?_, fun hemit => ?_, fun hemit => ?_, ?_⟩
  · exact (congrArg Hearth.queues hself).trans (Hearth.ran_queues _ i e l)
  · rw [State.hearth_modHearth_ne hg, hhearth]
  · rw [hself]
    exact Hearth.ran_emits _ i l hemit
  · rw [hself]
    exact Hearth.ran_stays _ i l hemit
  · rintro rfl rfl rfl rfl
    exact Prod.mk.inj (State.errorView_readPass_clean s h e.desc)

/-! ## Billets (R61, R72, R73) -/

/-- A billet takes a free slot at tick `t`; `sets` are the sets that remain to be transferred. -/
def Hearth.takeBillet (x : Hearth) (t : Nat) (b : Billet) (sets : List (List Billet)) : Hearth :=
  ({ x with outSets := sets, free := x.free - 1, bq := x.bq ++ [b] } : Hearth).watch t

/-- The slot comes off the free ones and goes to the full ones (R72). -/
theorem Hearth.book_takeBillet {x : Hearth} (hfree : 0 < x.free) (hbook : x.book = true) (t : Nat) (b : Billet) (sets : List (List Billet)) :
    (x.takeBillet t b sets).book = true := by
  simp only [Hearth.book, Hearth.slots, Hearth.takeBillet, Hearth.watch, beq_iff_eq, List.length_append, List.length_singleton] at hbook ⊢
  omega

/-- A billet that belongs to a tensor is sampled under it. -/
def State.sampleBillet (s : State) (h : Nat) (b : Billet) : State :=
  if b.tensor = 0xFFFF then s else s.sample (hearthPart s.nparts h) h b.tensor b.samples

theorem State.engineView_sampleBillet (s : State) (h : Nat) (b : Billet) : (s.sampleBillet h b).engineView = s.engineView := by
  unfold State.sampleBillet
  split_ifs
  · rfl
  · exact State.engineView_sample _ _ _ _ _

section
variable {s : State} {h : Nat} {b : Billet} {rest : List Billet} {sets : List (List Billet)} (hsets : (s.hearth h).outSets = (b :: rest) :: sets)
include hsets

theorem doBilletTransfer_free (hfree : 0 < (s.hearth h).free) : doBilletTransfer h s =
    (s.modHearth h fun x => x.takeBillet s.tick b (if rest = [] then sets else rest :: sets)).sampleBillet h b := by
  simp only [doBilletTransfer, hsets, if_neg hfree.ne', List.isEmpty_iff]
  rfl

theorem doBilletTransfer_full (hfree : (s.hearth h).free = 0) : doBilletTransfer h s = s := by
  simp only [doBilletTransfer, hsets, hfree, ↓reduceIte]

end

theorem doBilletStall_due {s : State} {h t : Nat} (hfrom : (s.hearth h).stallFrom = some t) (hfree : (s.hearth h).free = 0) (hout : (s.hearth h).xout = 0)
    (hlate : s.waitLimit (hearthPart s.nparts h) < s.tick - t) : doBilletStall h s =
      (s.modHearth h fun x => { x with stallFrom := some s.tick }).raise
        { recHearth (hearthPart s.nparts h) h sevPart 0x25 with detail := ((s.hearth h).bq.head?.map (·.tensor)).getD 0xFFFF } := by
  simp only [doBilletStall, hfrom, Hearth.stuck, hfree, hout, hlate, beq_self_eq_true, decide_true, Bool.and_self, ↓reduceIte]

/-- Settles O26: the billet's slot comes off the free ones and goes to the full ones; its samples reach the pyrometer alone. -/
theorem billetsKeepTheBook : Obligations.BilletsKeepTheBook := by
  intro s h hs hh
  have hok : okHearth h = true := decide_eq_true hh
  refine ⟨fun b rest sets hsets hfree => ?takes, fun b rest sets hsets hfree => answer_of_ok hok (doBilletTransfer_full hsets hfree),
    fun t hfrom hfree hout hlate => answer_of_ok hok (doBilletStall_due hfrom hfree hout hlate)⟩
  obtain ⟨hmem, hhearths, htempers⟩ := State.reads_of_engineView
    (State.engineView_sampleBillet (s.modHearth h fun x => x.takeBillet s.tick b (if rest = [] then sets else rest :: sets)) h b)
  have hself := (congrArg (·.getD h {}) hhearths).trans (State.hearth_modHearth_self (State.hearth_lt_of_shaped hs hh) _)
  refine ⟨_, answer_of_ok hok (doBilletTransfer_free hsets hfree), congrArg Hearth.free hself, congrArg Hearth.bq hself, congrArg Hearth.outSets hself,
    fun hbook => ?book, hmem, htempers, fun g hg => ?others, fun hnone => ?unsampled⟩
  case book => exact (congrArg Hearth.book hself).trans (Hearth.book_takeBillet hfree hbook s.tick b _)
  case others => exact (congrArg (·.getD g {}) hhearths).trans (State.hearth_modHearth_ne hg s _)
  case unsampled =>
    rw [State.sampleBillet, if_pos hnone]
    rfl

/-! ## The end of a discard and its limit (R75, R169, R325, R326) -/

section
variable {s : State} {p : Nat}

theorem doBooksRestored_draining (hfence : (s.part p).fenced = true) (hbooks : (s.part p).fab.booksClosed = true) (hst : (s.part p).st = .draining) :
    doBooksRestored p s = s.recoverPart p := by
  simp only [doBooksRestored, hfence, hbooks, hst, Bool.not_true, Bool.false_eq_true, or_self, ↓reduceIte]

theorem doBooksRestored_reset (hfence : (s.part p).fenced = true) (hbooks : (s.part p).fab.booksClosed = true) (hst : (s.part p).st = .reset)
    (htested : s.tested p = true) :
    doBooksRestored p s = s.modPart p fun q => { q with st := .ready, depth := 0, fenced := false, discardFrom := none } := by
  simp only [doBooksRestored, hfence, hbooks, hst, htested, Bool.not_true, Bool.false_eq_true, or_self, reduceCtorEq, and_self, ↓reduceIte]

theorem doDiscardTimeout_due {t : Nat} (hfrom : (s.part p).discardFrom = some t) (hfence : (s.part p).fenced = true) (hlate : ticksMs 100 < s.tick - t) :
    doDiscardTimeout p s = (s.modPart p fun q => { q with discardFrom := some s.tick }).raise (recPart p sevPart 0x82) := by
  simp only [doDiscardTimeout, hfrom, hfence, hlate, and_self, ↓reduceIte]

end

/-! ## Control-state faults, self-tests and the audit (R75, R286, R328, R331) -/

theorem doControlParity_smithMem (s : State) (double : Bool) : doControlParity (.smithMem double) s = s.smithError double := by
  cases double <;> simp [doControlParity]

section
variable {s : State} (hrow : s.power.row = 11)
include hrow

/-- An error in a smith memory that its code does not correct, or the watchdog's end: one FATAL record of class 13 (log entry 66). -/
theorem State.smithError_double : s.smithError true = s.raise { recDev sevFatal (Config.faultCode 331) with resClass := 13 } := by
  have hup : ¬s.power.row < 6 := by omega
  simp only [State.smithError, if_neg hup, State.fatalNow, State.running_of_row hrow, ↓reduceIte]

theorem State.smithError_single : s.smithError false = s.raiseMem { recDev sevCE 0x03 with resClass := 13 } := by
  have hup : ¬s.power.row < 6 := by omega
  simp only [State.smithError, if_neg hup, State.running_of_row hrow, Bool.false_eq_true, ↓reduceIte]

theorem doControlParity_hearth (h : Nat) : doControlParity (.hearth h) s = s.hearthParity h := by
  simp [doControlParity, State.running_of_row hrow]

theorem doControlParity_temper (h : Nat) : doControlParity (.temper h) s = s.hearthParity h := by
  simp [doControlParity, State.running_of_row hrow]

theorem doControlParity_temperProgram (h : Nat) (src : Src) : doControlParity (.temperProgram h src) s =
    s.raise { recHearth (hearthPart s.nparts h) h sevPart 0x30 with detail := srcIx src } := by
  simp [doControlParity, State.running_of_row hrow]

theorem doControlParity_cipherSched : doControlParity .cipherSched s = s.schedFault := by
  simp [doControlParity, State.running_of_row hrow]

theorem doControlParity_pyro (p : Nat) : doControlParity (.pyro p) s = s.raise (recPart p sevPart 0x30) := by
  simp only [doControlParity, State.running_of_row hrow, reduceCtorEq, or_self, Bool.not_true, Bool.false_eq_true, ↓reduceIte]
  rfl

theorem doBookAudit_due (hdue : s.hub.auditTick + ticksSec 1 ≤ s.tick) : doBookAudit s = (s.modHub fun h => { h with auditTick := s.tick }).audit :=
  if_pos ⟨State.running_of_row hrow, hdue⟩

end

theorem doSelftestDone_hearth {s : State} {h : Nat} (htesting : (s.hearth h).testing = true) (pass : Bool) : doSelftestDone true h pass s =
    (if pass then s.modHearth h fun x => { x with testing := false, st := .ready } else s.hearthFailed h).testsOver := by
  simp only [doSelftestDone, htesting, Bool.not_true, Bool.false_eq_true, ↓reduceIte]

theorem doSelftestDone_core {s : State} {k : Nat} (htesting : (s.cipher.cores.getD k {}).testing = true) (pass : Bool) : doSelftestDone false k pass s =
    (if pass then s.modCipher fun c => c.modCore k fun x => { x with testing := false } else s.coreFailed k).testsOver := by
  simp only [doSelftestDone, htesting, Bool.not_true, Bool.false_eq_true, ↓reduceIte]

/-- Settles O57: start-up has reached row 11, so that the hub runs and each event has its effect once its conditions are met. -/
theorem hubEventsComplete : Obligations.HubEventsComplete := by
  intro s hrow
  refine ⟨fun p hp hfence hbooks => ⟨fun hst => ?draining, fun hst htested => ?reset⟩, fun p t hp hfrom hfence hlate => ?discard,
    fun h hh => ⟨?hearth, ?temper, fun src => ?program⟩, ?scheduler, fun p hp => ?pyro, ?fatal, ?corrected, ?watchdog,
    fun h hh htesting => ⟨?hearthPasses, ?hearthFails⟩, fun k hk htesting => ⟨?corePasses, ?coreFails⟩, fun hdue => ?audit⟩
  case draining => exact answer_of_ok (decide_eq_true hp) (doBooksRestored_draining hfence hbooks hst)
  case reset => exact answer_of_ok (decide_eq_true hp) (doBooksRestored_reset hfence hbooks hst htested)
  case discard => exact answer_of_ok (decide_eq_true hp) (doDiscardTimeout_due hfrom hfence hlate)
  case hearth => exact answer_of_ok (decide_eq_true hh) (doControlParity_hearth hrow h)
  case temper => exact answer_of_ok (decide_eq_true hh) (doControlParity_temper hrow h)
  case program => exact answer_of_ok (decide_eq_true hh) (doControlParity_temperProgram hrow h src)
  case scheduler => exact answer_of_ok rfl (doControlParity_cipherSched hrow)
  case pyro => exact answer_of_ok (decide_eq_true hp) (doControlParity_pyro hrow p)
  case fatal => exact answer_of_ok rfl ((doControlParity_smithMem s true).trans (State.smithError_double hrow))
  case corrected => exact answer_of_ok rfl ((doControlParity_smithMem s false).trans (State.smithError_single hrow))
  case watchdog => exact answer_of_ok rfl (State.smithError_double hrow)
  case hearthPasses => exact answer_of_ok (decide_eq_true hh) (doSelftestDone_hearth htesting true)
  case hearthFails => exact answer_of_ok (decide_eq_true hh) (doSelftestDone_hearth htesting false)
  case corePasses => exact answer_of_ok (decide_eq_true hk) (doSelftestDone_core htesting true)
  case coreFails => exact answer_of_ok (decide_eq_true hk) (doSelftestDone_core htesting false)
  case audit => exact answer_of_ok rfl (doBookAudit_due hrow hdue)

end Sys2Proof.Machine
end

section
/-! PROOF. A temper engine's launches (chapter 05): the program image and the input are read, and a starving launch is recorded (R105-R107, R109). -/

namespace Sys2Proof.Machine

/-! ## What the reads of a program image leave as they were -/

/-- The partitions and the clock, which no error that a read of memory meets touches. -/
def State.bookView (s : State) : List Part × Nat := (s.parts, s.tick)

theorem State.bookView_flash (s : State) (k : Store) : (s.flash k).bookView = s.bookView := by
  cases k <;> rfl

theorem State.bookView_persist (s : State) (k : Store) : (s.persist k).bookView = s.bookView := by
  unfold State.persist
  split_ifs
  · exact State.bookView_flash s k
  · rfl
  · rfl

theorem State.bookView_logRow (s : State) (row : Nat) : (s.logRow row).bookView = s.bookView := by
  unfold State.logRow
  split_ifs
  · rfl
  · exact State.bookView_persist _ _

theorem State.bookView_remap (s : State) (die page : Nat) : (s.remap die page).bookView = s.bookView := by
  unfold State.remap
  dsimp only
  split_ifs <;> rfl

theorem State.bookView_repair (s : State) (la : Nat) : (s.repair la).bookView = s.bookView := by
  unfold State.repair
  split_ifs
  · exact State.bookView_logRow s _
  · exact State.bookView_remap s _ _

theorem State.bookView_raiseMem (s : State) (r : FaultRec) : (s.raiseMem r).bookView = s.bookView := rfl

theorem State.bookView_modScrub (s : State) (f : Scrub → Scrub) : (s.modScrub f).bookView = s.bookView := rfl

theorem State.bookView_memCorrected (s : State) (la : Nat) (rewritten : Bool) : (s.memCorrected la rewritten).bookView = s.bookView := by
  simp only [State.memCorrected, apply_ite State.bookView, State.bookView_repair, State.bookView_modScrub, State.bookView_raiseMem, ite_self]

theorem State.bookView_memUncorrectable (s : State) (la code : Nat) : (s.memUncorrectable la code).bookView = s.bookView :=
  State.bookView_repair _ _

theorem State.bookView_sramRead (s : State) (la : Nat) (ecc : Ecc) : (s.sramRead la ecc).bookView = s.bookView := by
  cases ecc with
  | uncorrectable =>
    unfold State.sramRead
    dsimp only
    split_ifs <;> rfl
  | clean | corrected | split => rfl

theorem State.bookView_readEcc (s : State) (la : Nat) (ecc : Ecc) : (s.readEcc la ecc).bookView = s.bookView := by
  unfold State.readEcc
  split
  · exact State.bookView_sramRead s la ecc
  · generalize (if ecc = .clean ∧ s.scrub.wbacks.contains (la / 64) = true then Ecc.corrected else ecc) = found
    cases found with
    | clean | split => rfl
    | corrected => exact State.bookView_memCorrected s la false
    | uncorrectable => exact State.bookView_memUncorrectable s la 0x02

theorem State.bookView_meet (s : State) (rs : List (Nat × Nat)) (x : Found) : (s.meet rs x).bookView = s.bookView :=
  (State.each_reads State.bookView (fun t _ _ => State.bookView_readEcc t _ _) _).trans
    (State.each_reads State.bookView (fun t _ _ => State.bookView_readEcc t _ _) s)

theorem State.tick_meet (s : State) (rs : List (Nat × Nat)) (x : Found) : (s.meet rs x).tick = s.tick := congrArg Prod.snd (State.bookView_meet s rs x)

/-- The tile-register ownership in force is the job's, which no read moves. -/
theorem State.ownWord_meet (s : State) (rs : List (Nat × Nat)) (x : Found) (p : Nat) : (s.meet rs x).ownWord p = s.ownWord p := by
  have hparts : (s.meet rs x).parts = s.parts := congrArg Prod.fst (State.bookView_meet s rs x)
  simp only [State.ownWord, State.part, hparts]

/-! ## Program images (R105, R107, R109) -/

/-- The program image that a launch names. -/
def State.image (s : State) (d : Nat) : List Nat := (chunks 8 (s.bytes (gLocal (tlProg d)) (8 * tlLen d))).map leNat

/-- The image has been read. -/
def State.readImage (s : State) (d : Nat) (x : Found) : State := s.meet [(gLocal (tlProg d), 8 * tlLen d)] x

/-- The first word of the image that is marked or not legal. -/
def State.badWord (s : State) (p : Nat) (src : Src) (d : Nat) (x : Found) : Option (Nat × Nat) :=
  (enum (s.image d)).find? fun (k, w) => (s.readImage d x).marked (gLocal (tlProg d) + 8 * k) 8 || !insnOk d (s.ownWord p) src w

/-- The launch has left its queue. -/
def State.takeLaunch (s : State) (h : Nat) (src : Src) : State := s.modTemper h fun y => { y with queues := updAt y.queues (srcIx src) (·.drop 1) }

/-- The launch is given up and its stream stopped, with a record of the word `w` (R105, R109). -/
def State.giveUp (s : State) (p h : Nat) (src : Src) (e : LaunchEnt) (w : Nat) : State :=
  let gone := s.modTemper h fun y => { y with failed := y.failed ++ [e.insn] }
  (match sidOfSrc src with | some t => gone.stopStream p t | none => gone).raise
    { recHearth p h sevPart 0x20 with layer := e.layer, addr := tlProg e.desc, detail := w }

section
variable {s : State} {h : Nat} {src : Src} {e : LaunchEnt} (x : Found)
  (hreach : s.reach (hearthPart s.nparts h) (tlProg e.desc) (8 * tlLen e.desc) [0] = true)
  (hidle : (s.temper h).cur.getD (srcIx src) none = none) (hhead : ((s.temper h).queues.getD (srcIx src) []).head? = some e)
include hreach hidle hhead

/-- Where the partition may reach the image, it is read, and the launch leaves its queue for the program buffer or is given up. -/
theorem doTemperProgramLoad_reached : doTemperProgramLoad h src x s =
    let taken := (s.readImage e.desc x).takeLaunch h src
    match s.badWord (hearthPart s.nparts h) src e.desc x with
    | some (_, w) => taken.giveUp (hearthPart s.nparts h) h src e w
    | none =>
      if extentOk e.desc (s.image e.desc) 0 && extentOk e.desc (s.image e.desc) 1 then
        taken.modTemper h fun y => { y with
          cur := updAt y.cur (srcIx src) fun _ => some { ent := e, prog := s.image e.desc, run := 0, input := none, waitFrom := s.tick } }
      else
        taken.giveUp (hearthPart s.nparts h) h src e
          (((s.image e.desc).find? fun w => tiOp w == 0x38 && tiImm w % 2 == (if extentOk e.desc (s.image e.desc) 0 then 1 else 0)).getD 0) := by
  rw [← State.tick_meet s [(gLocal (tlProg e.desc), 8 * tlLen e.desc)] x]
  simp only [State.badWord, ← State.ownWord_meet s [(gLocal (tlProg e.desc), 8 * tlLen e.desc)] x]
  simp only [doTemperProgramLoad, hidle, hhead, hreach, Bool.not_true, Bool.false_or, ↓reduceIte] <;>
  rfl

theorem doTemperProgramLoad_legal (hbad : s.badWord (hearthPart s.nparts h) src e.desc x = none) (h0 : extentOk e.desc (s.image e.desc) 0 = true)
    (h1 : extentOk e.desc (s.image e.desc) 1 = true) : doTemperProgramLoad h src x s =
      ((s.readImage e.desc x).takeLaunch h src).modTemper h fun y => { y with
        cur := updAt y.cur (srcIx src) fun _ => some { ent := e, prog := s.image e.desc, run := 0, input := none, waitFrom := s.tick } } := by
  simp only [doTemperProgramLoad_reached x hreach hidle hhead, hbad, h0, h1, Bool.and_self, ↓reduceIte]

theorem doTemperProgramLoad_illegal {k w : Nat} (hbad : s.badWord (hearthPart s.nparts h) src e.desc x = some (k, w)) :
    doTemperProgramLoad h src x s = ((s.readImage e.desc x).takeLaunch h src).giveUp (hearthPart s.nparts h) h src e w := by
  simp only [doTemperProgramLoad_reached x hreach hidle hhead, hbad]

end

theorem doTemperStarve_due {s : State} {h : Nat} {src : Src} {l : Launch} (hcur : (s.temper h).cur.getD (srcIx src) none = some l)
    (hkind : tlIn l.ent.desc = 1) (hwaits : l.input = none) (hlate : s.waitLimit (hearthPart s.nparts h) < s.tick - l.waitFrom) :
    doTemperStarve h src s = (s.modTemper h fun y => { y with cur := updAt y.cur (srcIx src) fun _ => some { l with waitFrom := s.tick } }).raise
      { recHearth (hearthPart s.nparts h) h sevPart 0x26 with layer := l.ent.layer, detail := pack [(4, srcIx src), (16, l.run)] } := by
  simp only [doTemperStarve, hcur, hkind, hwaits, hlate, Option.isNone_none, and_self, ↓reduceIte]

/-- Settles O27: the image's reads touch neither the job's registers nor the clock; the launch then leaves its queue for the program buffer, or is given
up with the first bad word in its record. A starving launch's record is the model's form (log entry 124). -/
theorem launchesLoadTheirProgram : Obligations.LaunchesLoadTheirProgram := by
  intro s h src x e hh p i prog m bad hreach taken
  have hok : okHearth h = true := decide_eq_true hh
  refine ⟨fun hidle hhead => ⟨fun hbad h0 h1 => ?legal, fun k w hbad => ?illegal⟩, fun l hcur hkind hwaits hlate => ?starves⟩
  case legal => exact answer_of_ok hok (doTemperProgramLoad_legal x hreach hidle hhead hbad h0 h1)
  case illegal => exact answer_of_ok hok (doTemperProgramLoad_illegal x hreach hidle hhead hbad)
  case starves => exact answer_of_ok hok (doTemperStarve_due hcur hkind hwaits hlate)

/-! ## One temper engine changed, and its tile registers -/

section
variable {s : State} {h : Nat}

theorem State.temper_lt_of_shaped (hs : s.shaped) (hh : h < 256) : h < s.tempers.length := by
  obtain ⟨-, -, hlen, -⟩ := hs
  rwa [hlen]

theorem State.temper_modTemper_self (hh : h < s.tempers.length) (f : Temper → Temper) : (s.modTemper h f).temper h = f (s.temper h) :=
  getD_updAt_self f {} s.tempers h hh

end

theorem assocGet_assocSet_ne {α : Type} {k j : Nat} (hj : j ≠ k) (v d : α) : ∀ l : List (Nat × α), assocGet j d (assocSet k v l) = assocGet j d l
  | [] => if_neg hj.symm
  | (i, w) :: l => by
    by_cases hi : i = k
    · have hij : ¬i = j := fun e => hj (e.symm.trans hi)
      simp only [assocSet, assocGet, if_pos hi, if_neg hij, if_neg hj.symm]
    · simp only [assocSet, assocGet, if_neg hi, assocGet_assocSet_ne hj v d l]

section
variable (x : Temper) (i : Nat) (l : Launch) (v : List Elem)

theorem Temper.cur_filled {x : Temper} {i : Nat} (hi : i < x.cur.length) : (x.filled i l v).cur.getD i none = some { l with input := some v } :=
  getD_updAt_self _ none x.cur i hi

theorem Temper.tregOf_filled_ne {k : Nat} (hk : k ≠ inputReg l.ent.desc l.run) : tregOf (x.filled i l v).tregs k = tregOf x.tregs k :=
  assocGet_assocSet_ne hk _ _ x.tregs

end

/-! ## A launch's input (R106) -/

/-- The head of the billet queue leaves it at tick `t`, and its slot is free again. -/
def Hearth.giveBillet (x : Hearth) (t : Nat) (rest : List Billet) : Hearth := ({ x with bq := rest, free := x.free + 1 } : Hearth).watch t

/-- The errors of a billet's words, recorded (R74). -/
def State.tellBillet (s : State) (p h : Nat) (bad fixed : List Nat) : State :=
  let t := s.each fixed fun s _ => s.raiseMem (recHearth p h sevCE 0x03)
  if bad.isEmpty then t else t.raiseMem (recHearth p h sevDef 0x04)

theorem State.engineView_tellBillet (s : State) (p h : Nat) (bad fixed : List Nat) : (s.tellBillet p h bad fixed).engineView = s.engineView := by
  have hfixed : (s.each fixed fun s _ => s.raiseMem (recHearth p h sevCE 0x03)).engineView = s.engineView :=
    State.each_reads State.engineView (fun _ _ _ => by rfl) s
  unfold State.tellBillet
  dsimp only
  split_ifs
  · exact hfixed
  · exact hfixed

/-- A launch with a run left, of an input kind, wants the input of its next run where it has none. -/
theorem Launch.wantsInput {l : Launch} (hinput : l.input = none) (hrun : l.run < tlRuns l.ent.desc) (hkind : tlIn l.ent.desc ≠ 0) :
    ¬(l.input.isSome = true ∨ tlRuns l.ent.desc ≤ l.run ∨ tlIn l.ent.desc = 0) := by
  simpa [hinput, hkind] using hrun

section
variable {s : State} {h : Nat} {src : Src} {l : Launch} (hcur : (s.temper h).cur.getD (srcIx src) none = some l) (hinput : l.input = none)
  (hrun : l.run < tlRuns l.ent.desc) (bad fixed split : List Nat)
include hcur hinput hrun

theorem doTemperInputLoad_billet {b : Billet} {rest : List Billet} (hkind : tlIn l.ent.desc = 1) (hbq : (s.hearth h).bq = b :: rest) (hsrc : b.src = src) :
    doTemperInputLoad h src bad fixed split s =
      ((s.modHearth h fun y => y.giveBillet s.tick rest).tellBillet (hearthPart s.nparts h) h bad (fixed ++ split)).modTemper h fun y =>
        y.filled (srcIx src) l (b.data.map fun w => (w, b.slag || !bad.isEmpty || !split.isEmpty)) := by
  simp only [doTemperInputLoad, hcur, if_neg (Launch.wantsInput hinput hrun (by omega)), if_pos hkind, hbq, if_pos hsrc] <;>
  rfl

/-- A vector is read from SRAM: the errors that the read meets are recorded, and no engine is changed before its register is filled. -/
theorem doTemperInputLoad_vector (hkind : tlIn l.ent.desc = 2) : ∃ (t : State) (v : List Elem), t.engineView = s.engineView ∧
    doTemperInputLoad h src bad fixed split s = t.modTemper h fun y => y.filled (srcIx src) l v := by
  have hvector : ¬tlIn l.ent.desc = 1 := by omega
  simp only [doTemperInputLoad, hcur, if_neg (Launch.wantsInput hinput hrun (by omega)), if_neg hvector]
  refine ⟨_, _, ?_, rfl⟩
  rw [State.engineView_sramErrors, State.engineView_addRbw, State.engineView_splitCopies]

end

/-- Settles O28: the billet leaves its queue, or the vector is read, and the errors met are recorded; filling the input's register then changes that
register and the launch alone. -/
theorem launchesLoadTheirInput : Obligations.LaunchesLoadTheirInput := by
  intro s h src bad fixed split l hs hh hcur hi hinput hrun
  have hok : okHearth h = true := decide_eq_true hh
  have hfilled : ∀ (t : State) (v : List Elem), t.tempers = s.tempers →
      ((t.modTemper h fun y => y.filled (srcIx src) l v).temper h).cur.getD (srcIx src) none = some { l with input := some v } ∧
      ∀ k, k ≠ inputReg l.ent.desc l.run → tregOf ((t.modTemper h fun y => y.filled (srcIx src) l v).temper h).tregs k = tregOf (s.temper h).tregs k := by
    intro t v ht
    have htemper : t.temper h = s.temper h := congrArg (·.getD h {}) ht
    rw [State.temper_modTemper_self (ht ▸ State.temper_lt_of_shaped hs hh), htemper]
    exact ⟨Temper.cur_filled l v hi, fun k hk => Temper.tregOf_filled_ne _ _ l v hk⟩
  refine ⟨fun b rest hkind hbq hsrc => ?billet, fun hkind => ?vector⟩
  case billet =>
    obtain ⟨hmem, hhearths, htempers⟩ := State.reads_of_engineView (State.engineView_tellBillet (s.modHearth h fun y => y.giveBillet s.tick rest)
      (hearthPart s.nparts h) h bad (fixed ++ split))
    have hself := (congrArg (·.getD h {}) hhearths).trans
      (State.hearth_modHearth_self (State.hearth_lt_of_shaped hs hh) fun y => y.giveBillet s.tick rest)
    obtain ⟨hfill, hothers⟩ := hfilled _ _ htempers
    exact ⟨_, answer_of_ok hok (doTemperInputLoad_billet hcur hinput hrun bad fixed split hkind hbq hsrc), congrArg Hearth.bq hself,
      congrArg Hearth.free hself, hfill, hothers, hmem⟩
  case vector =>
    obtain ⟨t, v, hview, hload⟩ := doTemperInputLoad_vector hcur hinput hrun bad fixed split hkind
    obtain ⟨hmem, hhearths, htempers⟩ := State.reads_of_engineView hview
    obtain ⟨hfill, hothers⟩ := hfilled t v htempers
    exact ⟨_, v, answer_of_ok hok hload, hfill, hhearths, hothers, hmem⟩

end Sys2Proof.Machine
end

section
/-! PROOF. Where the stores of a temper engine's run lie (chapter 05), and a byte of memory after a store to a hearth's SRAM (R45, R104, R113, R308). -/

namespace Sys2Proof.Machine

/-! ## Where a store lies (R104, R113) -/

theorem bits_lt (n hi lo : Nat) : bits n hi lo < 2 ^ (hi + 1 - lo) := Nat.mod_lt _ (Nat.two_pow_pos _)

section
variable {α β : Type}

theorem length_chunksFuel_le (n : Nat) : ∀ (fuel : Nat) (l : List α), (chunksFuel fuel n l).length ≤ fuel
  | 0, _ => le_rfl
  | _ + 1, [] => Nat.zero_le _
  | fuel + 1, _ :: _ => Nat.succ_le_succ (length_chunksFuel_le n fuel _)

theorem length_chunks_le (n : Nat) (l : List α) : (chunks n l).length ≤ l.length + 1 := length_chunksFuel_le n _ l

theorem length_le_of_mem_chunksFuel {n : Nat} {c : List α} : ∀ {fuel : Nat} {l : List α}, c ∈ chunksFuel fuel n l → c.length ≤ n
  | fuel + 1, x :: l, hc => by
    rcases List.mem_cons.1 hc with rfl | hc
    · exact List.length_take_le _ _
    · exact length_le_of_mem_chunksFuel hc

theorem length_flatMap_le {f : α → List β} {l : List α} {m : Nat} (hf : ∀ x ∈ l, (f x).length ≤ m) : (l.flatMap f).length ≤ l.length * m := by
  rw [List.length_flatMap]
  have hsum := List.sum_le_card_nsmul (l.map fun x => (f x).length) m (by simpa using hf)
  simpa using hsum

end

theorem length_leBytes : ∀ (k n : Nat), (leBytes k n).length = k
  | 0, _ => rfl
  | k + 1, _ => congrArg (· + 1) (length_leBytes k _)

theorem length_mxBlock_le (code : Nat) (rule : Bool) (rnds : List Rnd) (xs : List Fp) : (mxBlock code rule rnds xs).2.length ≤ xs.length := by
  unfold mxBlock
  split_ifs
  · simp
  · split
    · split_ifs
      · simp
      · simp
    · simp

theorem length_convertAll_scales_le (fmt cvt : Nat) (rule : Bool) (rnds : List Rnd) (xs : List W32) :
    (convertAll fmt cvt rule rnds xs).1.length ≤ xs.length + 1 := by
  have hblocks := length_chunks_le 32 xs
  unfold convertAll
  split_ifs
  · simp only [List.length_map, List.length_zip]
    omega
  · simp
  · simp

/-- Each value gives one code; blocks of 32 are counted as full ones. -/
theorem length_convertAll_codes_le (fmt cvt : Nat) (rule : Bool) (rnds : List Rnd) (xs : List W32) :
    (convertAll fmt cvt rule rnds xs).2.length ≤ (xs.length + 1) * 32 := by
  have hblocks := length_chunks_le 32 xs
  unfold convertAll
  split_ifs
  · refine (length_flatMap_le (m := 32) fun y hy => ?_).trans (Nat.mul_le_mul_right 32 ?_)
    · obtain ⟨⟨b, r⟩, hb, rfl⟩ := List.mem_map.1 hy
      have hb32 : b.length ≤ 32 := length_le_of_mem_chunksFuel (List.of_mem_zip hb).1
      exact (length_mxBlock_le _ _ _ _).trans ((List.length_map _).trans_le hb32)
    · simp only [List.length_map, List.length_zip]
      omega
  · simp only [List.length_map]
    omega
  · simp only [List.length_map, List.length_zip]
    omega

/-- A code takes at most four bytes. -/
theorem length_packCodes_le (w : Nat) (cs : List Nat) : (packCodes w cs).length ≤ (cs.length + 1) * 4 := by
  unfold packCodes
  split_ifs
  · simp only [List.length_map]
    omega
  · have h2 := length_flatMap_le (f := leBytes 2) (l := cs) fun x _ => (length_leBytes 2 x).le
    omega
  · have h4 := length_flatMap_le (f := leBytes 4) (l := cs) fun x _ => (length_leBytes 4 x).le
    omega
  · have hpairs := length_chunks_le 2 cs
    simp only [List.length_map]
    omega
  · have hfours := length_chunks_le 4 cs
    refine (length_flatMap_le (m := 3) fun c _ => ?_).trans (by omega)
    exact (List.length_take_le' _ _).trans (length_leBytes 3 _).le

/-! What a store writes (R113). -/

section
variable (ctx : SrCtx) (d tensor n imm : Nat) (a : List Elem)

/-- The elements that a store takes: all of the vector, or the head of each segment. -/
def storedElems : List (Nat × Elem) := (enum (a.take (tlVL d))).filter fun (e, _) => !imm.testBit 1 || e % 2 ^ tlSeg d == 0

/-- Their scale bytes and codes in the output's format. -/
def storedConv : List Nat × List (Nat × CvtEv) :=
  let o := tlOut d (imm % 2)
  let es := storedElems d imm a
  convertAll o.fmt o.cvt o.rule
    (srRnds o.cvt ctx.seed (outTensor d tensor (imm % 2)) ctx.step (tlOcc d) (tlElem d + n * es.length) es.length).1 (es.map (·.2.1))

/-- The bytes of the codes, and those of the blocks' scales. -/
def storedCodes : List Byte := packCodes (fmtBits (tlOut d (imm % 2)).fmt) ((storedConv ctx d tensor n imm a).2.map (·.1))
def storedScales : List Byte := (storedConv ctx d tensor n imm a).1.map (BitVec.ofNat 8)

theorem length_storedElems_lt : (storedElems d imm a).length < 2 ^ 11 :=
  calc (storedElems d imm a).length ≤ (enum (a.take (tlVL d))).length := List.length_filter_le _ _
    _ = (a.take (tlVL d)).length := length_enum _
    _ ≤ tlVL d := List.length_take_le _ _
    _ < 2 ^ 11 := bits_lt _ _ _

theorem length_storedCodes_le : (storedCodes ctx d tensor n imm a).length ≤ 2 ^ 20 := by
  have helems := length_storedElems_lt d imm a
  have hcodes : (storedConv ctx d tensor n imm a).2.length ≤ (((storedElems d imm a).map (·.2.1)).length + 1) * 32 := length_convertAll_codes_le _ _ _ _ _
  have hbytes : (storedCodes ctx d tensor n imm a).length ≤ _ := length_packCodes_le _ _
  rw [List.length_map] at hcodes hbytes
  omega

theorem length_storedScales_le : (storedScales ctx d tensor n imm a).length ≤ 2 ^ 20 := by
  have helems := length_storedElems_lt d imm a
  have hscales : (storedConv ctx d tensor n imm a).1.length ≤ ((storedElems d imm a).map (·.2.1)).length + 1 := length_convertAll_scales_le _ _ _ _ _
  rw [List.length_map] at hscales
  rw [storedScales, List.length_map]
  omega

end

/-- Every store of a run ends within 2^40 bytes of its hearth's SRAM, whatever its launch was checked for. -/
def TRun.storesFit (r : TRun) : Prop := ∀ x ∈ r.stores, x.1 + x.2.1.length ≤ 2 ^ 40

@[simp] theorem TRun.stores_put (r : TRun) (c : Nat) (v : List Elem) : (r.put c v).stores = r.stores := by
  unfold TRun.put
  split_ifs <;> rfl

@[simp] theorem TRun.stores_raiseFlags (r : TRun) (trapEn idx : Nat) (l : List (Nat × Nat)) : (r.raiseFlags trapEn idx l).stores = r.stores := rfl

section
variable (r : TRun) (ctx : SrCtx) (d tensor : Nat) (scale : Int) (n inReg idx : Nat)

/-- A store adds the bytes of its codes and, in an MX format, its blocks' scales. -/
theorem TRun.stores_store (imm : Nat) (a : List Elem) : ∃ marks marks' : List Bool, (r.store ctx d tensor n idx imm a).stores =
    r.stores ++ [((tlOut d (imm % 2)).off + n * (tlOut d (imm % 2)).pitch, storedCodes ctx d tensor n imm a, marks)] ++
      (if fmtMX (tlOut d (imm % 2)).fmt then [((tlOut d (imm % 2)).soff + 32 * n, storedScales ctx d tensor n imm a, marks')] else []) :=
  ⟨_, _, rfl⟩

theorem tlOut_lt (d k : Nat) : (tlOut d k).off < 2 ^ 22 ∧ (tlOut d k).pitch < 2 ^ 22 ∧ (tlOut d k).soff < 2 ^ 22 := by
  unfold tlOut
  split_ifs
  · exact ⟨bits_lt _ _ _, bits_lt _ _ _, bits_lt _ _ _⟩
  · exact ⟨bits_lt _ _ _, bits_lt _ _ _, bits_lt _ _ _⟩

variable {r n}

theorem TRun.storesFit_store (hn : n < 2 ^ 16) (hr : r.storesFit) (imm : Nat) (a : List Elem) : (r.store ctx d tensor n idx imm a).storesFit := by
  obtain ⟨marks, marks', hstores⟩ := TRun.stores_store r ctx d tensor n idx imm a
  have hcodes := length_storedCodes_le ctx d tensor n imm a
  have hscales := length_storedScales_le ctx d tensor n imm a
  obtain ⟨hoff, hpitch, hsoff⟩ := tlOut_lt d (imm % 2)
  intro x hx
  rw [hstores, List.mem_append, List.mem_append, List.mem_singleton] at hx
  rcases hx with (hx | rfl) | hx
  · exact hr x hx
  · have hrow : n * (tlOut d (imm % 2)).pitch ≤ 2 ^ 16 * 2 ^ 22 := Nat.mul_le_mul hn.le hpitch.le
    simp only
    omega
  · split_ifs at hx
    · obtain rfl := List.mem_singleton.1 hx
      simp only
      omega
    · exact absurd hx List.not_mem_nil

variable (r n)

/-- An instruction stores, or leaves the stores as they were. -/
theorem TRun.stores_insn (w : Nat) : (r.insn ctx d tensor scale n inReg idx w).stores = r.stores ∨
    ∃ imm a, r.insn ctx d tensor scale n inReg idx w = r.store ctx d tensor n idx imm a := by
  unfold TRun.insn
  extract_lets op imm vl va vb vc va2 vb2 pairs limit gathered permuted segs reduced v1 v2 fl first both
  have hboth : both.stores = r.stores := by
    simp only [both, first, apply_ite TRun.stores, TRun.stores_put, ite_self]
  split
  next => exact .inl rfl
  next =>
    split_ifs with hnop hstore hpair hgather hpermute hreduce
    · exact .inl rfl
    · exact .inr ⟨imm, va, rfl⟩
    · exact .inl (by rw [TRun.stores_raiseFlags, TRun.stores_put, TRun.stores_put])
    · exact .inl (by rw [TRun.stores_raiseFlags, TRun.stores_put])
    · exact .inl (by rw [TRun.stores_raiseFlags, TRun.stores_put])
    · exact .inl hboth
    · exact .inl (by rw [TRun.stores_raiseFlags, TRun.stores_put])

variable {r n}

theorem TRun.storesFit_insn (hn : n < 2 ^ 16) (hr : r.storesFit) (w : Nat) : (r.insn ctx d tensor scale n inReg idx w).storesFit := by
  rcases TRun.stores_insn r ctx d tensor scale n inReg idx w with hsame | ⟨imm, a, hstore⟩
  · intro x hx
    exact hr x (hsame ▸ hx)
  · rw [hstore]
    exact TRun.storesFit_store ctx d tensor idx hn hr imm a

theorem TRun.storesFit_program (hn : n < 2 ^ 16) (hr : r.storesFit) (prog : List Nat) (par : List (Nat × Nat × Nat)) :
    (TRun.program ctx d tensor scale n inReg prog par r).storesFit := by
  refine List.foldlRecOn (motive := TRun.storesFit) (enum prog) _ hr fun t ht x _ => ?_
  dsimp only
  split_ifs
  · exact ht
  · exact TRun.storesFit_insn ctx d tensor scale inReg _ hn (show (t.parityHits _ _ _).storesFit from ht) _

end

/-! ## A byte of memory after a store to SRAM (R45, R308) -/

/-- A byte of an SRAM page that is not valid reads zero. -/
theorem State.load_one (s : State) (a : Nat) :
    s.load a 1 = if a / 2 ^ 41 = 3 ∧ s.pageValid a = false then [0#8] else [Memory.read s.mem a] := by
  have hpieces : piecesOf a 1 = [(a, 1)] := by
    have hk : min 1 (4096 - a % 4096) = 1 := by omega
    simp [piecesOf, pagePieces, hk]
  unfold State.load
  by_cases hspace : a / 2 ^ 41 = 3
  · rw [if_pos hspace, hpieces, List.flatMap_singleton]
    simp only [State.bytes, Memory.readN_one]
    cases hv : s.pageValid a with
    | true => rw [if_pos rfl, if_neg (fun hno => Bool.noConfusion hno.2)]
    | false => rw [if_neg Bool.false_ne_true, if_pos ⟨hspace, rfl⟩, List.replicate_one]
  · rw [if_neg hspace, if_neg fun hno => hspace hno.1]
    exact Memory.readN_one s.mem a

theorem mem_pagePieces {x k : Nat} : ∀ {fuel a n : Nat}, (x, k) ∈ pagePieces fuel a n → a ≤ x ∧ x < a + n
  | 0, _, _, h => absurd h List.not_mem_nil
  | fuel + 1, a, n, h => by
    unfold pagePieces at h
    split_ifs at h with hn
    · exact absurd h List.not_mem_nil
    · rcases List.mem_cons.1 h with h | h
      · obtain ⟨rfl, -⟩ := Prod.mk.inj h
        omega
      · have hrest := mem_pagePieces h
        omega

theorem contains_setIns_ne {x k : Nat} (hk : k ≠ x) (l : List Nat) : (setIns x l).contains k = l.contains k := by
  induction l with
  | nil => simp [setIns, hk]
  | cons y ys ih =>
    unfold setIns
    split_ifs with hlt heq
    · simp [hk]
    · rfl
    · simp only [List.contains_cons, ih]

/-- An SRAM page made valid, and its bytes cleared. -/
theorem State.openPage_invalid {s : State} {b : Nat} (hb : s.pageValid b = false) :
    (s.openPage b).mem = Memory.clear s.mem (b / 4096 * 4096) 4096 ∧
    (s.openPage b).hearths = updAt s.hearths (b % 2 ^ 41 / sramBytes) fun y => { y with pages := setIns (b % 2 ^ 41 % sramBytes / 4096) y.pages } := by
  unfold State.openPage
  simp only [hb, Bool.false_eq_true, ↓reduceIte]
  exact ⟨rfl, rfl⟩

/-- Opening a page leaves every other page as valid as it was. -/
theorem State.pageValid_openPage {s : State} {a b : Nat} (ha : a / 2 ^ 41 = 3) (hb : b / 2 ^ 41 = 3) (hne : a / 4096 ≠ b / 4096) :
    (s.openPage b).pageValid a = s.pageValid a := by
  cases hv : s.pageValid b with
  | true => simp only [State.openPage, hv, ↓reduceIte]
  | false =>
    obtain ⟨-, hhearths⟩ := State.openPage_invalid hv
    simp only [State.pageValid, State.hearth, hhearths]
    rw [getD_updAt]
    split_ifs with hsame
    · obtain ⟨hsame, -⟩ := hsame
      have hpage : a % 2 ^ 41 % sramBytes / 4096 ≠ b % 2 ^ 41 % sramBytes / 4096 := by
        simp only [sramBytes] at hsame ⊢
        omega
      rw [hsame, contains_setIns_ne hpage]
    · rfl

/-- Every byte reads after a page is opened as it read before: those of the page as zero. -/
theorem State.load_openPage {s : State} {b : Nat} (hb : b / 2 ^ 41 = 3) (a : Nat) : (s.openPage b).load a 1 = s.load a 1 := by
  cases hv : s.pageValid b with
  | true => simp only [State.openPage, hv, ↓reduceIte]
  | false =>
    obtain ⟨hmem, -⟩ := State.openPage_invalid hv
    have hread := Memory.read_clear s.mem (b / 4096 * 4096) 4096 a
    rw [State.load_one, State.load_one, hmem, hread]
    by_cases hpage : a / 4096 = b / 4096
    · have hspace : a / 2 ^ 41 = 3 := by omega
      have hin : b / 4096 * 4096 ≤ a ∧ a < b / 4096 * 4096 + 4096 := by omega
      have hold : s.pageValid a = false := by
        have hsame : a % 2 ^ 41 / sramBytes = b % 2 ^ 41 / sramBytes ∧ a % 2 ^ 41 % sramBytes / 4096 = b % 2 ^ 41 % sramBytes / 4096 := by
          simp only [sramBytes]
          omega
        rw [← hv]
        simp only [State.pageValid, hsame]
      rw [if_pos hin, if_pos (⟨hspace, hold⟩ : a / 2 ^ 41 = 3 ∧ s.pageValid a = false)]
      exact ite_self _
    · have hout : ¬(b / 4096 * 4096 ≤ a ∧ a < b / 4096 * 4096 + 4096) := by omega
      rw [if_neg hout]
      by_cases hspace : a / 2 ^ 41 = 3
      · rw [State.pageValid_openPage hspace hb hpage]
      · simp only [hspace, false_and, ↓reduceIte]

section
variable (s : State) {la a : Nat} {bs : List Byte} (hout : ¬(la ≤ a ∧ a < la + bs.length))
include hout

theorem State.load_store_out (mk : Bool) : (s.store la bs mk).load a 1 = s.load a 1 := by
  have hvalid : (s.store la bs mk).pageValid a = s.pageValid a := by
    rw [State.store_frame]
    rfl
  rw [State.load_one, State.load_one, hvalid, State.store_read_out s la bs mk hout]

variable (hfits : 0 < bs.length → la + bs.length ≤ 2 ^ 43)
include hfits

theorem State.load_save_out (mk : Bool) : (s.save la bs mk).load a 1 = s.load a 1 := by
  unfold State.save
  split_ifs with hspace
  · rw [State.load_store_out _ hout mk]
    refine foldl_reads (fun t : State => t.load a 1) (fun t x hx => State.load_openPage ?_ a) s
    have hpiece := mem_pagePieces hx
    omega
  · exact State.load_store_out s hout mk

theorem State.load_saveMarked_out (mk : List Bool) : (s.saveMarked la bs mk).load a 1 = s.load a 1 := by
  unfold State.saveMarked
  split
  · refine State.each_reads (fun t : State => t.load a 1) (fun t g _ => State.load_save_out t ?_ ?_ _) s
    · rw [List.length_drop, List.length_take]
      omega
    · rw [List.length_drop, List.length_take]
      omega
  · exact State.load_save_out s hout hfits false

end

end Sys2Proof.Machine
end

section
/-! PROOF. A temper engine's runs execute (chapter 05): what their stores, samples and records leave as they were, and what the engine takes (R105, R109,
R113, R116, R119). -/

namespace Sys2Proof.Machine

/-! ## What a run's stores, samples and records leave as they were (R119) -/

/-- The temper engines, the clock and the billet queues, which no store touches. -/
def State.queueView (s : State) : List Temper × Nat × List (List Billet) := (s.tempers, s.tick, s.hearths.map (·.bq))

theorem map_updAt_of_same {α β : Type} {g : α → β} {f : α → α} (hf : ∀ x, g (f x) = g x) : ∀ (l : List α) (i : Nat), (updAt l i f).map g = l.map g
  | [], _ => rfl
  | x :: l, 0 => by simp only [updAt, List.map_cons, hf]
  | x :: l, i + 1 => by simp only [updAt, List.map_cons, map_updAt_of_same hf l i]

section
variable (s : State) (la : Nat) (bs : List Byte)

theorem State.queueView_openPage : (s.openPage la).queueView = s.queueView := by
  unfold State.openPage
  split_ifs
  · rfl
  · exact congrArg (fun q => (s.tempers, s.tick, q)) (map_updAt_of_same (fun _ => by rfl) s.hearths _)

theorem State.queueView_store (mk : Bool) : (s.store la bs mk).queueView = s.queueView := by
  rw [State.store_frame]
  rfl

theorem State.queueView_save (mk : Bool) : (s.save la bs mk).queueView = s.queueView := by
  unfold State.save
  split_ifs
  · exact (State.queueView_store _ la bs mk).trans (foldl_reads State.queueView (fun t x _ => State.queueView_openPage t x.1) s)
  · exact State.queueView_store s la bs mk

theorem State.queueView_saveMarked (mk : List Bool) : (s.saveMarked la bs mk).queueView = s.queueView := by
  unfold State.saveMarked
  split
  · exact State.each_reads State.queueView (fun t _ _ => State.queueView_save t _ _ _) s
  · exact State.queueView_save s la bs false

end

/-- Memory, the engines and the clock, which no sample and no record touches. -/
def State.clockView (s : State) : (List Host.Cell × List Hearth × List Temper) × Nat := (s.engineView, s.tick)

section
variable {s t : State} (hview : t.clockView = s.clockView)
include hview

theorem State.queueView_of_clockView : t.queueView = s.queueView := by
  obtain ⟨hengines, htick⟩ := Prod.mk.inj hview
  obtain ⟨-, hhearths, htempers⟩ := State.reads_of_engineView hengines
  simp only [State.queueView, hhearths, htempers, htick]

theorem State.load_of_clockView (a n : Nat) : t.load a n = s.load a n := by
  obtain ⟨hmem, hhearths, -⟩ := State.reads_of_engineView (Prod.mk.inj hview).1
  unfold State.load State.pageValid State.hearth State.bytes
  rw [hmem, hhearths]

end

section
variable (s : State) (p h : Nat)

theorem State.clockView_sample (sampler tensor : Nat) (l : List Samp) : (s.sample p sampler tensor l).clockView = s.clockView := by
  unfold State.sample State.sampleWith
  dsimp only
  generalize (s.part p).pyro.find tensor = entry
  cases entry with
  | none => rfl
  | some t => dsimp only; split_ifs <;> rfl

theorem State.clockView_runErrors (bad fixed : List Nat) (parity : Nat) : (runErrors p h bad fixed parity s).clockView = s.clockView :=
  (State.each_reads State.clockView (fun _ _ _ => by rfl) _).trans
    ((State.each_reads State.clockView (fun _ _ _ => by rfl) _).trans (State.each_reads State.clockView (fun _ _ _ => by rfl) s))

end

/-! ## What a finished run leaves (R105, R113, R116) -/

/-- The stores of a run, in order. -/
def State.applyStores (s : State) (h : Nat) (r : TRun) : State := s.each r.stores fun s x => s.saveMarked (sramAddr h x.1) x.2.1 x.2.2

/-- Its samples, and whether a rounding fell back from SR. -/
def State.applySamples (s : State) (p h : Nat) (r : TRun) : State :=
  let t := s.each r.samples fun s x => s.sample p (samplerTemper h) x.1 x.2
  if r.repro then t.modRun p fun q => { q with repro := true } else t

/-- The engine after the run of launch `l` of source `i` at tick `t`; a trap gives the launch up. -/
def Temper.ran (x : Temper) (i : Nat) (l : Launch) (r : TRun) (t : Nat) : Temper := { x with
  failed := if r.trap.isSome then x.failed ++ [l.ent.insn] else x.failed, tregs := r.tregs, temps := r.temps, flags := updAt x.flags i (· ||| r.flags)
  source := i, run := l.run
  pc := match r.trap with | some (_, k, _) => k | none => l.prog.length - 1
  cur := updAt x.cur i fun _ =>
    if l.run + 1 = tlRuns l.ent.desc || r.trap.isSome then none else some { l with run := l.run + 1, input := none, waitFrom := t } }

/-- A trap's record; the places in its detail are the model's (log entry 124). -/
def State.tellTrap (s : State) (p h i : Nat) (l : Launch) (r : TRun) : State := match r.trap with
  | some (k, idx, e) => s.raise { recHearth p h sevPart 0x27 with
      layer := l.ent.layer, detail := pack [(4, i), (4, k), (8, idx), (16, l.run), (32, e)] }
  | none => s

theorem applyRun_eq (p h i : Nat) (l : Launch) (r : TRun) (s : State) : applyRun p h i l.run l r s =
    let t := (s.applyStores h r).applySamples p h r
    (t.modTemper h fun x => x.ran i l r t.tick).tellTrap p h i l r := rfl

section
variable (s : State) (p h : Nat) (r : TRun)

theorem State.queueView_applyStores : (s.applyStores h r).queueView = s.queueView :=
  State.each_reads State.queueView (fun t _ _ => State.queueView_saveMarked t _ _ _) s

/-- No store of a run reaches beyond space 3. -/
theorem sramAddr_add_le {h off n : Nat} (hh : h < 256) (hfits : off + n ≤ 2 ^ 40) : sramAddr h off + n ≤ 2 ^ 43 := by
  simp only [sramAddr, localAddr, sramBytes]
  omega

theorem State.load_applyStores_out {h : Nat} {r : TRun} (hh : h < 256) (hfit : r.storesFit) {a : Nat}
    (hout : ∀ x ∈ r.stores, ¬(sramAddr h x.1 ≤ a ∧ a < sramAddr h x.1 + x.2.1.length)) : (s.applyStores h r).load a 1 = s.load a 1 :=
  State.each_reads (fun t : State => t.load a 1) (fun t x hx => State.load_saveMarked_out t (hout x hx) (fun _ => sramAddr_add_le hh (hfit x hx)) _) s

theorem State.clockView_applySamples : (s.applySamples p h r).clockView = s.clockView := by
  have hsamples : (s.each r.samples fun s x => s.sample p (samplerTemper h) x.1 x.2).clockView = s.clockView :=
    State.each_reads State.clockView (fun t x _ => State.clockView_sample t p _ _ _) s
  unfold State.applySamples
  dsimp only
  split_ifs
  · exact hsamples
  · exact hsamples

theorem State.clockView_tellTrap (i : Nat) (l : Launch) : (s.tellTrap p h i l r).clockView = s.clockView := by
  unfold State.tellTrap
  split <;> rfl

/-- The trap's record is the last to reach the hub. -/
theorem State.getLast_tellTrap {r : TRun} {k x e : Nat} (htrap : r.trap = some (k, x, e)) (i : Nat) (l : Launch) :
    (s.tellTrap p h i l r).hub.arriving.getLast? = some (s.stamp { recHearth p h sevPart 0x27 with
      layer := l.ent.layer, detail := pack [(4, i), (4, k), (8, x), (16, l.run), (32, e)] }) := by
  simp only [State.tellTrap, htrap, State.raise_hub, List.getLast?_concat]

/-- The engine takes what the run leaves, at the clock's time; the other engines and the billet queues stay. -/
theorem State.queueView_applyRun (i : Nat) (l : Launch) : (applyRun p h i l.run l r s).queueView =
    (updAt s.tempers h fun x => x.ran i l r s.tick, s.tick, s.hearths.map (·.bq)) := by
  have happlied : ((s.applyStores h r).applySamples p h r).queueView = s.queueView :=
    (State.queueView_of_clockView (State.clockView_applySamples _ p h r)).trans (State.queueView_applyStores s h r)
  simp only [State.queueView, Prod.mk.injEq] at happlied
  obtain ⟨htempers, htick, hbqs⟩ := happlied
  rw [applyRun_eq]
  refine (State.queueView_of_clockView (State.clockView_tellTrap _ p h r i l)).trans ?_
  simp only [State.queueView, State.modTemper, htempers, htick, hbqs]

theorem State.load_applyRun_out {h : Nat} {r : TRun} (hh : h < 256) (hfit : r.storesFit) {a : Nat}
    (hout : ∀ x ∈ r.stores, ¬(sramAddr h x.1 ≤ a ∧ a < sramAddr h x.1 + x.2.1.length)) (i : Nat) (l : Launch) :
    (applyRun p h i l.run l r s).load a 1 = s.load a 1 := by
  rw [applyRun_eq]
  calc _ = (((s.applyStores h r).applySamples p h r).modTemper h fun x => x.ran i l r _).load a 1 :=
        State.load_of_clockView (State.clockView_tellTrap _ p h r i l) a 1
    _ = (s.applyStores h r).load a 1 := State.load_of_clockView (State.clockView_applySamples _ p h r) a 1
    _ = s.load a 1 := State.load_applyStores_out s hh hfit hout

end

/-! ## The run that is ready (R105, R109) -/

/-- The launch of the source that is ready is in progress, with a run left. -/
theorem Temper.cur_of_ready {x : Temper} {i : Nat} {l : Launch} (hready : x.ready = some (i, l)) :
    x.cur.getD i none = some l ∧ l.run < tlRuns l.ent.desc := by
  obtain ⟨j, -, hj⟩ := List.exists_of_findSome?_eq_some hready
  split at hj
  next l' hcur =>
    split_ifs at hj with hruns
    obtain ⟨rfl, rfl⟩ := Prod.mk.inj (Option.some.inj hj)
    exact ⟨hcur, hruns.2⟩
  next => exact absurd hj (by simp)

theorem lt_length_of_getD_some {α : Type} {l : List (Option α)} {i : Nat} {x : α} (h : l.getD i none = some x) : i < l.length := by
  by_contra hge
  rw [List.getD_eq_default _ _ (Nat.le_of_not_lt hge)] at h
  exact absurd h (by simp)

/-- The program of launch `l` run on the engine's registers, those of the words `hit` marked. -/
def State.runOf (s : State) (h : Nat) (l : Launch) (hit : List Nat) (par : List (Nat × Nat × Nat)) : TRun :=
  let q := s.part (hearthPart s.nparts h)
  TRun.program ⟨(q.job.map fun j => bits j.params 511 448).getD 0, q.run.step⟩ l.ent.desc l.ent.tensor l.ent.scale l.run (inputReg l.ent.desc l.run) l.prog par
    { temps := List.replicate 16 (List.replicate (tlVL l.ent.desc) (f32Zero, false)), tregs := markRegs hit (s.temper h).tregs }

/-- The words listed that the launch's program reads. -/
def Launch.reads (l : Launch) (words : List Nat) : List Nat := words.filter (regRead l.ent.desc (inputReg l.ent.desc l.run) l.prog)

theorem State.storesFit_runOf (s : State) (h : Nat) {l : Launch} (hrun : l.run < tlRuns l.ent.desc) (hit : List Nat) (par : List (Nat × Nat × Nat)) :
    (s.runOf h l hit par).storesFit := by
  have hn : l.run < 2 ^ 16 := hrun.trans (bits_lt _ _ _)
  exact TRun.storesFit_program _ _ _ _ _ hn (fun _ hx => absurd hx List.not_mem_nil) _ _

/-- The errors that the run reads are recorded, and then what it leaves is applied. -/
theorem doTemperRun_ready {s : State} {h i : Nat} {l : Launch} (hp0 : s.power.pstate = .p0) (hready : (s.temper h).ready = some (i, l)) (bad : List Nat)
    (fixed : HeldErrs) (par : List (Nat × Nat × Nat)) :
    let p := hearthPart s.nparts h
    let r := s.runOf h l (l.reads (bad ++ fixed.split)) par
    doTemperRun h bad fixed par s =
      applyRun p h i l.run l r (runErrors p h (l.reads bad) (l.reads fixed.words ++ l.reads fixed.split) r.parity s) := by
  simp only [doTemperRun, hp0, hready, ↓reduceIte, Launch.reads, List.filter_append] <;>
  rfl

/-- Settles O29: the errors' records, the stores and the samples touch no engine's registers, queues or clock; the engine then takes what the run leaves,
and every byte outside the stores reads as before. The trap record's detail is the model's (log entry 124). -/
theorem temperRunExecutes : Obligations.TemperRunExecutes := by
  intro s h i l bad fixed par hs hh hp0 hready p hit r
  have hok : okHearth h = true := decide_eq_true hh
  obtain ⟨hcur, hrun⟩ := Temper.cur_of_ready hready
  have hi := lt_length_of_getD_some hcur
  have hexec := answer_of_ok hok (doTemperRun_ready hp0 hready bad fixed par)
  have herrors := State.clockView_runErrors s p h (l.reads bad) (l.reads fixed.words ++ l.reads fixed.split) r.parity
  have hqueues := State.queueView_of_clockView herrors
  have hleft := State.queueView_applyRun (runErrors p h (l.reads bad) (l.reads fixed.words ++ l.reads fixed.split) r.parity s) p h r i l
  simp only [State.queueView, Prod.mk.injEq] at hqueues hleft
  obtain ⟨htempers, htick, hbqs⟩ := hqueues
  obtain ⟨hengines, -, hqueue⟩ := hleft
  rw [htempers, htick] at hengines
  have hself := (congrArg (·.getD h {}) hengines).trans (getD_updAt_self _ {} s.tempers h (State.temper_lt_of_shaped hs hh))
  refine ⟨_, hexec, congrArg Temper.tregs hself, congrArg Temper.flags hself, ?launch, hqueue.trans hbqs, fun g hg => ?others, fun k x e htrap => ?trap,
    fun a hout => ?memory⟩
  case launch =>
    refine (congrArg (fun y : Temper => y.cur.getD i none) hself).trans ((getD_updAt_self _ none _ i hi).trans ?_)
    simp only [Bool.or_eq_true, decide_eq_true_eq]
  case others => exact (congrArg (·.getD g {}) hengines).trans (getD_updAt_ne _ {} s.tempers h g hg)
  case trap => exact ⟨_, State.getLast_tellTrap _ p h htrap i l, rfl, rfl, rfl, rfl, rfl, rfl⟩
  case memory =>
    exact (State.load_applyRun_out _ p hh (State.storesFit_runOf s h hrun _ par) hout i l).trans (State.load_of_clockView herrors a 1)

end Sys2Proof.Machine
end

section
/-! PROOF. The scale controller (chapter 06): the clamp into a format's range, and the want that each branch of the next exponent's rule puts to it
(R129, R133, R134). -/

namespace Sys2Proof.Machine

/-- The range of Table 06-2 is not empty: a format that is not controlled has the one exponent 0. -/
theorem fmtLo_le_fmtHi (f : Nat) : fmtLo f ≤ fmtHi f := by
  unfold fmtLo fmtHi
  split
  · decide
  · split <;> decide

namespace Track

/-! ### The clamp -/

@[simp] theorem settle_hold (t : Track) (want : Int) (quenched : Bool) : (t.settle want quenched).t.hold = t.hold := rfl

/-- Whatever is wanted, the clamp brings into the format's range. -/
theorem settle_eNext_mem_range (t : Track) (want : Int) (quenched : Bool) :
    fmtLo (trFmt t.cfg) ≤ (t.settle want quenched).t.eNext ∧ (t.settle want quenched).t.eNext ≤ fmtHi (trFmt t.cfg) :=
  ⟨le_min (le_max_right ..) (fmtLo_le_fmtHi _), min_le_right ..⟩

/-- The clamp lowers a want only to the upper limit, so what lies below both lies below the next exponent. -/
theorem le_settle_eNext {t : Track} {want b : Int} (quenched : Bool) (hwant : b ≤ want) (hhi : b ≤ fmtHi (trFmt t.cfg)) :
    b ≤ (t.settle want quenched).t.eNext :=
  le_min (hwant.trans (le_max_left ..)) hhi

/-! ### The branches of R129 -/

/-- The estimate of the step: the larger of the input and the decayed estimate (R129). -/
def nextEst (t : Track) : W32 := fmax t.amaxIn (fmul t.est (trDecay t.cfg))

/-- The exponent that the estimate alone asks for, before quench, hold and fall limit (R129). -/
def estWant (t : Track) : Int :=
  if (f32 t.nextEst).isZero then t.e else leastKFor t.nextEst (fmtMaxel (trFmt t.cfg)) + trHeadroom t.cfg

variable {t : Track}

/-- Under a quench the controller asks for at least quench_step more, and the hold begins. -/
theorem nextE_of_quenchDue (hq : t.quenchDue = true) :
    t.nextE = { t with est := t.nextEst, hold := trHold t.cfg, quenches := satTo 32 (t.quenches + 1) }.settle
      (max t.estWant (t.e + trQuenchStep t.cfg)) true :=
  if_pos hq

/-- While a hold lasts the controller asks for no less than the present exponent. -/
theorem nextE_of_hold (hq : t.quenchDue = false) (hhold : 0 < t.hold) :
    t.nextE = { t with est := t.nextEst, hold := t.hold - 1 }.settle (max t.estWant t.e) false :=
  (if_neg (Bool.eq_false_iff.mp hq)).trans (if_pos hhold)

/-- With neither, the controller asks for a fall of at most down_max. -/
theorem nextE_of_no_hold (hq : t.quenchDue = false) (hhold : t.hold = 0) :
    t.nextE = { t with est := t.nextEst }.settle (max t.estWant (t.e - trDownMax t.cfg)) false :=
  (if_neg (Bool.eq_false_iff.mp hq)).trans (if_neg hhold.not_gt)

/-- Every branch ends in the clamp. -/
theorem nextE_eNext_mem_range (t : Track) :
    fmtLo (trFmt t.cfg) ≤ t.nextE.t.eNext ∧ t.nextE.t.eNext ≤ fmtHi (trFmt t.cfg) := by
  cases hq : t.quenchDue with
  | true =>
    rw [nextE_of_quenchDue hq]
    exact settle_eNext_mem_range _ _ true
  | false =>
    rcases Nat.eq_zero_or_pos t.hold with hhold | hhold
    · rw [nextE_of_no_hold hq hhold]
      exact settle_eNext_mem_range _ _ false
    · rw [nextE_of_hold hq hhold]
      exact settle_eNext_mem_range _ _ false

end Track

/-- Settles O36: the range comes from the clamp that ends every branch, and each bound from the floor that its branch puts under the want. -/
theorem controllerBoundsExponent : Obligations.ControllerBoundsExponent := by
  intro t _ c
  obtain ⟨hlo, hhi⟩ := t.nextE_eNext_mem_range
  refine ⟨hlo, hhi, fun hq hhold he => ?hold, fun hq hhold he => ?fall, fun hq => ?quench⟩
  case hold =>
    simp only [c, Track.nextE_of_hold hq hhold]
    exact ⟨Track.le_settle_eNext _ (le_max_right ..) he, Track.settle_hold ..⟩
  case fall =>
    simp only [c, Track.nextE_of_no_hold hq hhold]
    exact Track.le_settle_eNext _ (le_max_right ..) ((Int.sub_le_self _ (Int.natCast_nonneg _)).trans he)
  case quench =>
    simp only [c, Track.nextE_of_quenchDue hq]
    exact ⟨Track.settle_hold .., Track.le_settle_eNext _ ((min_le_left ..).trans (le_max_right ..)) (min_le_right ..)⟩

end Sys2Proof.Machine
end

section
/-! PROOF. Bytes that a save leaves in memory read back whole, in a hearth's SRAM also across its pages and however their marks cut the save into lines
or words (R45, R308). -/

namespace Sys2Proof.Machine

/-! ## The cells of a range -/

theorem Memory.cells_append : ∀ (xs ys : List Byte) (a : Nat), Memory.cells a (xs ++ ys) = Memory.cells a xs ++ Memory.cells (a + xs.length) ys
  | [], _, _ => rfl
  | x :: xs, ys, a => by
    have hlen : a + (x :: xs).length = a + 1 + xs.length := by rw [List.length_cons]; omega
    simp only [List.cons_append, Memory.cells, Memory.cells_append xs ys (a + 1), hlen]
    split_ifs <;> rfl

/-- The cells of memory in the range `[a, a + n)`. -/
def Memory.within (m : List Host.Cell) (a n : Nat) : List Host.Cell := m.filter fun c => decide (a ≤ c.1) && decide (c.1 < a + n)

/-- The cells in the range of a byte string are those that the string makes. -/
def Memory.holds (m : List Host.Cell) (a : Nat) (bs : List Byte) : Prop := Memory.within m a bs.length = Memory.cells a bs

theorem Memory.within_cells (a : Nat) (bs : List Byte) : Memory.within (Memory.cells a bs) a bs.length = Memory.cells a bs :=
  List.filter_eq_self.2 fun c hc => by
    have hrange := Memory.mem_cells hc
    simp [hrange]

/-- A part of a range's cells. -/
theorem Memory.within_within {m : List Host.Cell} {a n b k : Nat} (hlo : a ≤ b) (hhi : b + k ≤ a + n) :
    Memory.within (Memory.within m a n) b k = Memory.within m b k := by
  unfold Memory.within
  rw [List.filter_filter]
  refine List.filter_congr fun c _ => ?_
  rw [Bool.eq_iff_iff]
  simp only [Bool.and_eq_true, decide_eq_true_eq]
  omega

/-- Cells that all lie outside a range. -/
theorem Memory.within_eq_nil {m : List Host.Cell} {a n : Nat} (hout : ∀ c ∈ m, ¬(a ≤ c.1 ∧ c.1 < a + n)) : Memory.within m a n = [] :=
  List.filter_eq_nil_iff.2 fun c hc => by simpa using hout c hc

theorem Memory.within_append (l m : List Host.Cell) (a n : Nat) : Memory.within (l ++ m) a n = Memory.within l a n ++ Memory.within m a n :=
  List.filter_append l m

namespace Memory

section
variable {m : List Host.Cell} {a : Nat} {xs ys : List Byte}

/-- What memory holds is what a read of it gives. -/
theorem holds.readN (h : holds m a xs) : Memory.readN m a xs.length = xs := by
  have hcells : m.filter (fun c => decide (a ≤ c.1) && decide (c.1 < a + xs.length)) = cells a xs := h
  rw [Memory.readN, hcells, fillFrom_cells]

theorem holds.left (h : holds m a (xs ++ ys)) : holds m a xs := by
  have hall : within m a (xs ++ ys).length = cells a (xs ++ ys) := h
  have hlen := List.length_append (as := xs) (bs := ys)
  have hys : within (cells (a + xs.length) ys) a xs.length = [] := within_eq_nil fun c hc => by
    have := mem_cells hc
    omega
  rw [holds, ← within_within (m := m) (a := a) (n := (xs ++ ys).length) (le_refl a) (by omega), hall, cells_append, within_append, within_cells, hys,
    List.append_nil]

theorem holds.right (h : holds m a (xs ++ ys)) : holds m (a + xs.length) ys := by
  have hall : within m a (xs ++ ys).length = cells a (xs ++ ys) := h
  have hlen := List.length_append (as := xs) (bs := ys)
  have hxs : within (cells a xs) (a + xs.length) ys.length = [] := within_eq_nil fun c hc => by
    have := mem_cells hc
    omega
  rw [holds, ← within_within (m := m) (a := a) (n := (xs ++ ys).length) (b := a + xs.length) (by omega) (by omega), hall, cells_append, within_append,
    within_cells, hxs, List.nil_append]

/-- A write right behind what memory holds makes it longer. -/
theorem holds.writeBytes (h : holds m a xs) (ys : List Byte) : holds (Memory.writeBytes m (a + xs.length) ys) a (xs ++ ys) := by
  have hlen := List.length_append (as := xs) (bs := ys)
  have hold : within (m.filter fun c => decide (c.1 < a + xs.length)) a (xs ++ ys).length = within m a xs.length := by
    unfold within
    rw [List.filter_filter]
    refine List.filter_congr fun c _ => ?_
    rw [Bool.eq_iff_iff]
    simp only [Bool.and_eq_true, decide_eq_true_eq]
    omega
  have hnew : within (cells (a + xs.length) ys) a (xs ++ ys).length = cells (a + xs.length) ys := List.filter_eq_self.2 fun c hc => by
    have := mem_cells hc
    simp only [Bool.and_eq_true, decide_eq_true_eq]
    omega
  have hpast : within (m.filter fun c => decide (a + xs.length + ys.length ≤ c.1)) a (xs ++ ys).length = [] := within_eq_nil fun c hc => by
    have := List.of_mem_filter hc
    simp only [decide_eq_true_eq] at this
    omega
  have hxs : within m a xs.length = cells a xs := h
  rw [holds, Memory.writeBytes, within_append, within_append, hold, hnew, hpast, hxs, cells_append, List.append_nil]

/-- Clearing another range leaves it. -/
theorem holds.clear (h : holds m a xs) {b n : Nat} (hout : ∀ x, a ≤ x → x < a + xs.length → ¬(b ≤ x ∧ x < b + n)) :
    holds (Memory.clear m b n) a xs := by
  have hxs : within m a xs.length = cells a xs := h
  rw [holds, ← hxs]
  unfold within Memory.clear
  rw [List.filter_filter]
  refine List.filter_congr fun c _ => ?_
  have hc := hout c.1
  rw [Bool.eq_iff_iff]
  simp only [Bool.and_eq_true, Bool.or_eq_true, decide_eq_true_eq]
  omega

end

theorem holds_nil (m : List Host.Cell) (a : Nat) : holds m a [] := within_eq_nil fun c _ => by rw [List.length_nil]; omega

end Memory

/-! ## Valid pages -/

theorem contains_setIns_self (x : Nat) (l : List Nat) : (setIns x l).contains x = true := by
  induction l with
  | nil => simp [setIns]
  | cons y ys ih =>
    unfold setIns
    split_ifs with hlt heq
    · simp
    · simp [heq]
    · simp only [List.contains_cons, ih, Bool.or_true]

theorem contains_setIns_of_contains {x k : Nat} {l : List Nat} (hk : l.contains k = true) : (setIns x l).contains k = true := by
  by_cases hx : k = x
  · rw [hx]
    exact contains_setIns_self x l
  · rw [contains_setIns_ne hx, hk]

/-- Addresses of one 4 KiB page of SRAM are valid together. -/
theorem State.pageValid_congr {a b : Nat} (hpage : a / 4096 = b / 4096) (s : State) : s.pageValid a = s.pageValid b := by
  have hsame : a % 2 ^ 41 / sramBytes = b % 2 ^ 41 / sramBytes ∧ a % 2 ^ 41 % sramBytes / 4096 = b % 2 ^ 41 % sramBytes / 4096 := by
    simp only [sramBytes]
    omega
  simp only [State.pageValid, hsame]

section
variable {s : State} {a b : Nat}

/-- A page that is valid stays so when another, or itself, is opened. -/
theorem State.pageValid_openPage_of_pageValid (ha : s.pageValid a = true) (b : Nat) : (s.openPage b).pageValid a = true := by
  cases hv : s.pageValid b with
  | true => simpa only [State.openPage, hv, ↓reduceIte] using ha
  | false =>
    obtain ⟨-, hhearths⟩ := State.openPage_invalid hv
    simp only [State.pageValid, State.hearth, hhearths, getD_updAt] at ha ⊢
    split_ifs with hsame
    · rw [hsame.1] at ha
      exact contains_setIns_of_contains ha
    · exact ha

/-- An opened page of a hearth that the module has is valid. -/
theorem State.pageValid_openPage_self (hb : b % 2 ^ 41 / sramBytes < s.hearths.length) : (s.openPage b).pageValid b = true := by
  cases hv : s.pageValid b with
  | true => simp only [State.openPage, hv, ↓reduceIte]
  | false =>
    obtain ⟨-, hhearths⟩ := State.openPage_invalid hv
    simp only [State.pageValid, State.hearth, hhearths, getD_updAt_self _ _ _ _ hb]
    exact contains_setIns_self _ _

end

theorem State.length_hearths_openPage (s : State) (b : Nat) : (s.openPage b).hearths.length = s.hearths.length := by
  unfold State.openPage
  split_ifs
  · rfl
  · exact length_updAt _ _ _

/-! ## Pieces of a range -/

/-- Every address of a range lies in the page of one of its pieces. -/
theorem exists_mem_pagePieces {x : Nat} : ∀ {fuel a n : Nat}, n + a % 4096 ≤ 4096 * fuel → a ≤ x → x < a + n →
    ∃ y ∈ pagePieces fuel a n, y.1 / 4096 = x / 4096
  | 0, a, n, hfuel, hlo, hhi => by omega
  | fuel + 1, a, n, hfuel, hlo, hhi => by
    have hn : n ≠ 0 := by omega
    simp only [pagePieces, hn, ↓reduceIte]
    by_cases hfirst : x < a + min n (4096 - a % 4096)
    · exact ⟨_, List.mem_cons_self, by dsimp only; omega⟩
    · obtain ⟨y, hy, hpage⟩ := exists_mem_pagePieces (x := x) (fuel := fuel) (a := a + min n (4096 - a % 4096)) (n := n - min n (4096 - a % 4096))
        (by omega) (by omega) (by omega)
      exact ⟨y, List.mem_cons_of_mem _ hy, hpage⟩

/-- The fuel of `piecesOf` is enough. -/
theorem piecesOf_fuel (a n : Nat) : n + a % 4096 ≤ 4096 * (n / 4096 + 2) := by omega

/-- A load gives as many bytes as it asks for. -/
theorem length_flatMap_pagePieces {read : Nat × Nat → List Byte} (hread : ∀ y, (read y).length = y.2) : ∀ {fuel a n : Nat},
    (0 < n → n + a % 4096 ≤ 4096 * fuel) → ((pagePieces fuel a n).flatMap read).length = n
  | 0, a, n, hfuel => by
    simp only [pagePieces, List.flatMap_nil, List.length_nil]
    omega
  | fuel + 1, a, n, hfuel => by
    unfold pagePieces
    split_ifs with hn
    · exact hn.symm
    · have hrest := length_flatMap_pagePieces hread (fuel := fuel) (a := a + min n (4096 - a % 4096)) (n := n - min n (4096 - a % 4096)) (by omega)
      rw [List.flatMap_cons, List.length_append, hread, hrest]
      dsimp only
      omega

theorem State.length_load (s : State) (la n : Nat) : (s.load la n).length = n := by
  unfold State.load
  split_ifs
  · refine length_flatMap_pagePieces (fun y => ?_) fun _ => piecesOf_fuel la n
    dsimp only
    split_ifs
    · exact Memory.length_readN _ _ _
    · exact List.length_replicate
  · exact Memory.length_readN _ _ _

/-! ## Bytes that stand in memory -/

/-- A byte string stands at an address: memory holds it, and its bytes in SRAM lie in valid pages. -/
structure State.stands (s : State) (la : Nat) (bs : List Byte) : Prop where
  holds : Memory.holds s.mem la bs
  valid : ∀ x, la ≤ x → x < la + bs.length → x / 2 ^ 41 = 3 → s.pageValid x = true

namespace State

section
variable {s : State} {la : Nat} {xs ys : List Byte}

theorem stands_nil (s : State) (la : Nat) : s.stands la [] where
  holds := Memory.holds_nil _ _
  valid x hlo hhi := by rw [List.length_nil] at hhi; omega

/-- Opening a page leaves what stands: the bytes that it clears were in no valid page. -/
theorem stands.openPage (h : s.stands la xs) {b : Nat} (hb : b / 2 ^ 41 = 3) : (s.openPage b).stands la xs where
  valid x hlo hhi hx := pageValid_openPage_of_pageValid (h.valid x hlo hhi hx) b
  holds := by
    cases hv : s.pageValid b with
    | true => simpa only [State.openPage, hv, ↓reduceIte] using h.holds
    | false =>
      obtain ⟨hmem, -⟩ := openPage_invalid hv
      rw [hmem]
      refine h.holds.clear fun x hlo hhi hin => ?_
      have hvalid := h.valid x hlo hhi (by omega)
      rw [pageValid_congr (by omega : x / 4096 = b / 4096), hv] at hvalid
      exact Bool.noConfusion hvalid

/-- A store right behind what stands, in pages that are valid, makes it longer. -/
theorem stands.store (h : s.stands la xs) (mk : Bool)
    (hvalid : ∀ x, la + xs.length ≤ x → x < la + xs.length + ys.length → x / 2 ^ 41 = 3 → s.pageValid x = true) :
    (s.store (la + xs.length) ys mk).stands la (xs ++ ys) where
  holds := by
    rw [store_mem]
    exact h.holds.writeBytes ys
  valid x hlo hhi hx := by
    have hsame : (s.store (la + xs.length) ys mk).pageValid x = s.pageValid x := by
      rw [store_frame]
      rfl
    rw [List.length_append] at hhi
    rw [hsame]
    by_cases hnew : x < la + xs.length
    · exact h.valid x hlo hnew hx
    · exact hvalid x (by omega) (by omega) hx

end

/-- The pages that a save to SRAM touches, opened. -/
def openPages (s : State) (la n : Nat) : State := (piecesOf la n).foldl (fun s (a, _) => s.openPage a) s

section
variable {s : State} {la n : Nat}

theorem length_hearths_openPages (s : State) (la n : Nat) : (s.openPages la n).hearths.length = s.hearths.length :=
  foldl_reads (fun t : State => t.hearths.length) (fun t x _ => length_hearths_openPage t x.1) s

/-- Every address of the range is valid once its pages are opened. -/
theorem pageValid_openPages {x : Nat} (hlo : la ≤ x) (hhi : x < la + n) (hx : x % 2 ^ 41 / sramBytes < s.hearths.length) :
    (s.openPages la n).pageValid x = true := by
  obtain ⟨y, hy, hpage⟩ := exists_mem_pagePieces (piecesOf_fuel la n) hlo hhi
  have hunit : y.1 % 2 ^ 41 / sramBytes = x % 2 ^ 41 / sramBytes := by
    simp only [sramBytes]
    omega
  refine each_reaches (P := fun t : State => x % 2 ^ 41 / sramBytes < t.hearths.length → t.pageValid x = true) (f := fun s (z : Nat × Nat) => s.openPage z.1)
    (fun t ht => ?_) (fun t z ih ht => ?_) hy s (by exact (length_hearths_openPages s la n).symm ▸ hx)
  · rw [← pageValid_congr hpage]
    exact pageValid_openPage_self (by rw [hunit, ← length_hearths_openPage t y.1]; exact ht)
  · exact pageValid_openPage_of_pageValid (ih (length_hearths_openPage t z.1 ▸ ht)) z.1

theorem stands.openPages {xs : List Byte} (h : s.stands la xs) {b : Nat} (hb : ∀ x, b ≤ x → x < b + n → x / 2 ^ 41 = 3) :
    (s.openPages b n).stands la xs :=
  List.foldlRecOn (motive := fun t : State => t.stands la xs) (piecesOf b n) _ h fun t ht y hy => ht.openPage (by
    obtain ⟨hlo, hhi⟩ := mem_pagePieces hy
    exact hb y.1 hlo hhi)

end

/-- A range lies in one space, and in SRAM that the module has. -/
def inSpace (la n : Nat) : Prop := la % 2 ^ 41 + n ≤ 2 ^ 41 ∧ (la / 2 ^ 41 = 3 → la % 2 ^ 41 + n ≤ 2 ^ 30)

theorem length_hearths_save (s : State) (la : Nat) (bs : List Byte) (mk : Bool) : (s.save la bs mk).hearths.length = s.hearths.length := by
  have hview := congrArg (fun v : List Temper × Nat × List (List Billet) => v.2.2.length) (queueView_save s la bs mk)
  simpa only [State.queueView, List.length_map] using hview

section
variable {s : State} {la : Nat} {xs ys : List Byte} (hs : s.hearths.length = 256)
include hs

/-- A save right behind what stands makes it longer. -/
theorem stands.save (h : s.stands la xs) (hspace : inSpace la (xs.length + ys.length)) (mk : Bool) : (s.save (la + xs.length) ys mk).stands la (xs ++ ys) := by
  obtain ⟨hone, hsram⟩ := hspace
  unfold State.save
  split_ifs with h3
  · have hin : ∀ x, la + xs.length ≤ x → x < la + xs.length + ys.length → x / 2 ^ 41 = 3 ∧ x % 2 ^ 41 / sramBytes < 256 := by
      intro x hlo hhi
      have hla : la / 2 ^ 41 = 3 := by omega
      have := hsram hla
      simp only [sramBytes]
      omega
    exact (h.openPages fun x hlo hhi => (hin x hlo hhi).1).store mk fun x hlo hhi _ => pageValid_openPages hlo hhi (hs ▸ (hin x hlo hhi).2)
  · refine h.store mk fun x hlo hhi hx => ?_
    omega

end

/-- The pieces of a load of what stands join to it. -/
theorem flatMap_pieces_of_stands {s : State} : ∀ {fuel la : Nat} {bs : List Byte}, (0 < bs.length → bs.length + la % 4096 ≤ 4096 * fuel) →
    s.stands la bs → (∀ x, la ≤ x → x < la + bs.length → x / 2 ^ 41 = 3) →
    ((pagePieces fuel la bs.length).flatMap fun (a, k) => if s.pageValid a then s.bytes a k else List.replicate k 0#8) = bs
  | 0, la, bs, hfuel, _, _ => by
    have hnil : bs = [] := List.length_eq_zero_iff.1 (by omega)
    rw [hnil]
    rfl
  | fuel + 1, la, bs, hfuel, h, h3 => by
    unfold pagePieces
    split_ifs with hn
    · rw [List.length_eq_zero_iff.1 hn]
      rfl
    · obtain ⟨k, hk⟩ : ∃ k, k = min bs.length (4096 - la % 4096) := ⟨_, rfl⟩
      have htake : (bs.take k).length = k := by rw [List.length_take]; omega
      have hdrop : (bs.drop k).length = bs.length - k := List.length_drop
      have hcut : s.stands la (bs.take k ++ bs.drop k) := by rwa [List.take_append_drop]
      have hfirst : s.bytes la k = bs.take k := by
        have hread := hcut.holds.left.readN
        rwa [htake] at hread
      have hrest : s.stands (la + k) (bs.drop k) :=
        ⟨by simpa only [htake] using hcut.holds.right, fun x hlo hhi hx => h.valid x (by omega) (by omega) hx⟩
      have ih := flatMap_pieces_of_stands (fuel := fuel) (by omega) hrest fun x hlo hhi => h3 x (by omega) (by omega)
      rw [hdrop] at ih
      dsimp only
      rw [← hk, List.flatMap_cons, ih, h.valid la (le_refl la) (by omega) (h3 la (le_refl la) (by omega)), if_pos rfl, hfirst, List.take_append_drop]

/-- What stands is what a load gives. -/
theorem stands.load {s : State} {la : Nat} {bs : List Byte} (h : s.stands la bs) (hspace : inSpace la bs.length) : s.load la bs.length = bs := by
  obtain ⟨hone, -⟩ := hspace
  unfold State.load
  split_ifs with h3
  · exact flatMap_pieces_of_stands (fun _ => piecesOf_fuel la bs.length) h fun x hlo hhi => by omega
  · exact h.holds.readN

/-! ## A save that its marks cut into lines or words (R308) -/

/-- The part of a save that lies in the `g`-th of the units of `u` bytes that it touches. -/
def saveUnit (u la : Nat) (bs : List Byte) (mk : List Bool) (s : State) (g : Nat) : State :=
  let lo := u * g - la % u
  let hi := min bs.length (u * (g + 1) - la % u)
  s.save (la + lo) ((bs.take hi).drop lo) (((mk.take hi).drop lo).any id)

section
variable {s : State} (hs : s.hearths.length = 256) {la : Nat} {bs : List Byte} (hspace : inSpace la bs.length) (mk : List Bool)
include hs hspace

/-- The bytes of the first `n` units stand once these are saved. -/
theorem stands_saveUnits {u : Nat} (hu : 0 < u) : ∀ n, n ≤ (la % u + bs.length + u - 1) / u →
    (s.each (List.range n) (saveUnit u la bs mk)).stands la (bs.take (u * n - la % u))
  | 0, _ => by
    rw [Nat.mul_zero, Nat.zero_sub, List.take_zero]
    exact stands_nil s la
  | n + 1, hn => by
    have ih := stands_saveUnits hu n (by omega)
    have hmul : u * (n + 1) = u * n + u := Nat.mul_succ u n
    have hmod : la % u < u := Nat.mod_lt _ hu
    have hcount : u * (n + 1) ≤ la % u + bs.length + u - 1 := (Nat.mul_le_mul_left u hn).trans (Nat.mul_div_le _ u)
    obtain ⟨lo, hlo⟩ : ∃ lo, lo = u * n - la % u := ⟨_, rfl⟩
    obtain ⟨hi, hhi⟩ : ∃ hi, hi = min bs.length (u * (n + 1) - la % u) := ⟨_, rfl⟩
    have hbefore : (bs.take lo).length = lo := by rw [List.length_take]; omega
    have hpart : ((bs.take hi).drop lo).length = hi - lo := by rw [List.length_drop, List.length_take]; omega
    have hjoin : bs.take lo ++ (bs.take hi).drop lo = bs.take (u * (n + 1) - la % u) := by
      have hlohi : min lo hi = lo := by omega
      have htake : (bs.take hi).take lo = bs.take lo := by rw [List.take_take, hlohi]
      rw [← htake, List.take_append_drop, hhi, List.take_eq_take_iff]
      omega
    have hlen : (s.each (List.range n) (saveUnit u la bs mk)).hearths.length = 256 :=
      (each_reads (fun t : State => t.hearths.length) (fun t g _ => length_hearths_save t _ _ _) s).trans hs
    have hnext := stands.save hlen (ys := (bs.take hi).drop lo) (hlo ▸ ih) (by
      obtain ⟨hone, hsram⟩ := hspace
      rw [hbefore, hpart]
      refine ⟨?_, fun h3 => ?_⟩
      · omega
      · have := hsram h3
        omega) (((mk.take hi).drop lo).any id)
    rw [hbefore, hjoin] at hnext
    unfold State.each at hnext ⊢
    rw [List.range_succ, List.foldl_append, List.foldl_cons, List.foldl_nil]
    subst hlo hhi
    exact hnext

/-- Bytes saved with their marks stand at their address. -/
theorem stands_saveMarked : (s.saveMarked la bs mk).stands la bs := by
  unfold State.saveMarked
  split
  case isFalse => exact stands.save hs (stands_nil s la) (by simpa only [List.length_nil, Nat.zero_add] using hspace) false
  case isTrue =>
    extract_lets u
    have hu : 0 < u := by
      simp only [u]
      split_ifs <;> decide
    have hall := stands_saveUnits hs hspace mk hu _ (le_refl ((la % u + bs.length + u - 1) / u))
    have hlast : bs.take (u * ((la % u + bs.length + u - 1) / u) - la % u) = bs := by
      refine List.take_of_length_le ?_
      have hdiv := Nat.div_add_mod (la % u + bs.length + u - 1) u
      have hmod := Nat.mod_lt (la % u + bs.length + u - 1) hu
      omega
    rw [hlast] at hall
    exact hall

/-- Bytes saved with their marks read back. -/
theorem load_saveMarked : (s.saveMarked la bs mk).load la bs.length = bs := (stands_saveMarked hs hspace mk).load hspace

end

end State

end Sys2Proof.Machine
end

section
/-! PROOF. A tongs engine's pieces (chapter 07): what a read of memory leaves as it was, and where a piece's bytes go (R147, R153, R157). -/

namespace Sys2Proof.Machine

/-! ## What a read of memory may move (R45, R304-R313, R363) -/

/-- From `s` to `t` nothing moved but what a read may: the runs of partitions, records, marks, the books of the scrubber, and writes to the persistent
stores. -/
structure ReadOnly (s t : State) : Prop where
  frame : t = { s with free := t.free, parts := t.parts, marks := t.marks, wmarks := t.wmarks, hub := t.hub, scrub := t.scrub, power := t.power }
  lostMem : t.power.lostMem = s.power.lostMem
  job : ∀ q, (t.part q).job = (s.part q).job

section
variable {a s t : State}

theorem ReadOnly.refl (s : State) : ReadOnly s s := ⟨rfl, rfl, fun _ => rfl⟩

theorem ReadOnly.raise (h : ReadOnly a s) (r : FaultRec) : ReadOnly a (s.raise r) := ⟨by rw [h.frame]; rfl, h.lostMem, h.job⟩

theorem ReadOnly.raiseMem (h : ReadOnly a s) (r : FaultRec) : ReadOnly a (s.raiseMem r) := ⟨by rw [h.frame]; rfl, h.lostMem, h.job⟩

theorem ReadOnly.modHub (h : ReadOnly a s) (f : Hub → Hub) : ReadOnly a (s.modHub f) := ⟨by rw [h.frame]; rfl, h.lostMem, h.job⟩

theorem ReadOnly.modScrub (h : ReadOnly a s) (f : Scrub → Scrub) : ReadOnly a (s.modScrub f) := ⟨by rw [h.frame]; rfl, h.lostMem, h.job⟩

theorem ReadOnly.modPower (h : ReadOnly a s) {f : Power → Power} (hf : (f s.power).lostMem = s.power.lostMem) : ReadOnly a (s.modPower f) :=
  ⟨by rw [h.frame]; rfl, hf.trans h.lostMem, h.job⟩

theorem ReadOnly.marks (h : ReadOnly a s) (l : List Nat) : ReadOnly a { s with marks := l } := ⟨by rw [h.frame], h.lostMem, h.job⟩

theorem ReadOnly.wmarks (h : ReadOnly a s) (l : List Nat) : ReadOnly a { s with wmarks := l } := ⟨by rw [h.frame], h.lostMem, h.job⟩

theorem ReadOnly.modRun (h : ReadOnly a s) (p : Nat) (f : Run → Run) : ReadOnly a (s.modRun p f) :=
  ⟨by rw [h.frame]; rfl, h.lostMem, fun q => (State.modPart_reads Part.job (fun _ => by rfl) s p q).trans (h.job q)⟩

theorem ReadOnly.flash (h : ReadOnly a s) (k : Store) : ReadOnly a (s.flash k) := by
  unfold State.flash
  cases k with
  | faultHistory => exact h.modHub _
  | repairLog => exact h.modScrub _
  | wear => exact h.modPower rfl
  | counters | lifecycle => exact h

theorem ReadOnly.persist (h : ReadOnly a s) (k : Store) : ReadOnly a (s.persist k) := by
  unfold State.persist
  split_ifs
  · exact (h.flash k).modPower rfl
  · exact h
  · exact (h.modPower rfl).raise _

theorem ReadOnly.logRow (h : ReadOnly a s) (row : Nat) : ReadOnly a (s.logRow row) := by
  unfold State.logRow
  split_ifs
  · exact h
  · exact (h.modScrub _).persist _

theorem ReadOnly.remap (h : ReadOnly a s) (die page : Nat) : ReadOnly a (s.remap die page) := by
  unfold State.remap
  dsimp only
  split_ifs
  · exact h
  · exact h
  · exact (h.modScrub _).raise _
  · exact h.modScrub _

theorem ReadOnly.repair (h : ReadOnly a s) (la : Nat) : ReadOnly a (s.repair la) := by
  unfold State.repair
  split_ifs
  · exact h.logRow _
  · exact h.remap _ _

theorem ReadOnly.memCorrected (h : ReadOnly a s) (la : Nat) (rewritten : Bool) : ReadOnly a (s.memCorrected la rewritten) := by
  unfold State.memCorrected
  dsimp only
  split_ifs
  · exact h.raiseMem _
  · exact ((h.raiseMem _).modScrub _).repair la
  · exact (h.raiseMem _).modScrub _
  · exact ((h.raiseMem _).modScrub _).repair la
  · exact (h.raiseMem _).modScrub _

theorem ReadOnly.memUncorrectable (h : ReadOnly a s) (la code : Nat) : ReadOnly a (s.memUncorrectable la code) :=
  ((h.marks _).raiseMem _).repair la

theorem ReadOnly.sramRead (h : ReadOnly a s) (la : Nat) (ecc : Ecc) : ReadOnly a (s.sramRead la ecc) := by
  cases ecc with
  | clean => exact h
  | corrected => exact h.raiseMem _
  | split => exact (h.wmarks _).raiseMem _
  | uncorrectable =>
    unfold State.sramRead
    dsimp only
    split_ifs
    · exact h
    · exact (h.wmarks _).raiseMem _

theorem ReadOnly.readEcc (h : ReadOnly a s) (la : Nat) (ecc : Ecc) : ReadOnly a (s.readEcc la ecc) := by
  unfold State.readEcc
  split
  · exact h.sramRead la ecc
  · generalize (if ecc = .clean ∧ s.scrub.wbacks.contains (la / 64) = true then Ecc.corrected else ecc) = found
    cases found with
    | clean | split => exact h
    | corrected => exact h.memCorrected la false
    | uncorrectable => exact h.memUncorrectable la 0x02

theorem ReadOnly.addRbw (h : ReadOnly a s) (p n : Nat) : ReadOnly a (s.addRbw p n) := by
  unfold State.addRbw
  split_ifs
  · exact h
  · exact h.modRun p _

/-! What such a read leaves as it was. -/

section
variable (h : ReadOnly s t)
include h

theorem ReadOnly.hearths : t.hearths = s.hearths := by rw [h.frame]
theorem ReadOnly.tongs : t.tongs = s.tongs := by rw [h.frame]
theorem ReadOnly.nparts : t.nparts = s.nparts := by rw [h.frame]; rfl
theorem ReadOnly.load (la n : Nat) : t.load la n = s.load la n := by rw [h.frame]; rfl
theorem ReadOnly.remoteEnd (p g : Nat) : t.remoteEnd p g = s.remoteEnd p g := by rw [h.frame]; rfl
theorem ReadOnly.lentAt (p g n : Nat) : t.lentAt p g n = s.lentAt p g n := by simp only [State.lentAt, h.job]

theorem ReadOnly.arenaMeets (p g n : Nat) : t.arenaMeets p g n = s.arenaMeets p g n := by
  have hglobal : t.global = s.global := by rw [h.frame]; rfl
  simp only [State.arenaMeets, State.homeRanges, h.job, hglobal]

theorem ReadOnly.ownRange (p g n : Nat) (spaces : List Nat) : t.ownRange p g n spaces = s.ownRange p g n spaces := by
  have hmodule : t.moduleId = s.moduleId := by rw [h.frame]
  have hphy : t.phyOf = s.phyOf := by rw [h.frame]; rfl
  simp only [State.ownRange, State.unreached, h.lostMem, h.nparts, hmodule, hphy]

end

end

/-! ## An end in the partition's own memory (R21, R151, R152) -/

/-- A range that meets no arena home is not an arena range. -/
theorem State.arenaHolds_of_not_meets {s : State} {p g n : Nat} (hn : 0 < n) (hmeets : s.arenaMeets p g n = false) : s.arenaHolds p g n = false := by
  have hout : ∀ r ∈ s.homeRanges p, ¬(r.1 ≤ g ∧ g < r.2) := fun r hr hin => by
    have hno := List.any_eq_false.1 hmeets r hr
    simp only [Bool.and_eq_true, decide_eq_true_eq] at hno
    omega
  have hstay : ∀ fuel, runEnd (s.homeRanges p) fuel g = g
    | 0 => rfl
    | fuel + 1 => by
      have hnone : (s.homeRanges p).find? (fun r => r.1 ≤ g && g < r.2) = none :=
        List.find?_eq_none.2 fun r hr hin => hout r hr (by simpa using hin)
      rw [runEnd, hnone]
  simp only [State.arenaHolds, hstay, decide_eq_false_iff_not]
  omega

theorem gLocal_div (g : Nat) : gLocal g / 2 ^ 41 = gSpace g := by
  simp only [gLocal, gSpace, bits, Nat.shiftRight_eq_div_pow]
  omega

theorem gLocal_mod (g : Nat) : gLocal g % 2 ^ 41 = gOffset g := by
  simp only [gLocal, gOffset, bits, Nat.shiftRight_eq_div_pow]
  omega

/-- A byte that a partition owns lies in its space, and in SRAM below the end of the last hearth's. -/
theorem byteOwner_bound {n space off q : Nat} (h : byteOwner n space off = some q) : space ≤ 3 ∧ off < 2 ^ 41 ∧ (space = 3 → off < 2 ^ 30) := by
  unfold byteOwner at h
  split_ifs at h <;> omega

theorem State.inSpace_of_ownRange {s : State} {p g n : Nat} {spaces : List Nat} (hown : s.ownRange p g n spaces = true) :
    0 < n ∧ State.inSpace (gLocal g) n ∧ gLocal g + n ≤ 2 ^ 43 := by
  simp only [State.ownRange, Bool.and_eq_true, beq_iff_eq, decide_eq_true_eq] at hown
  obtain ⟨⟨⟨-, hn⟩, howner⟩, -⟩ := hown
  unfold rangeOwner at howner
  split at howner
  · next _ hlast =>
    have hspace := gLocal_div g
    have hoff := gLocal_mod g
    obtain ⟨h3, hend, hsram⟩ := byteOwner_bound hlast
    rw [State.inSpace, hspace, hoff]
    refine ⟨hn, ⟨by omega, fun h => ?_⟩, by omega⟩
    have := hsram h
    omega
  · exact absurd howner (Option.some_ne_none _).symm

/-- The state in which an own end has been read: a mark met, the errors found, and reads before writes counted. -/
def State.readOwn (s : State) (e p g n : Nat) (ecc : Ecc) : State :=
  let t := if s.loadMark (gLocal g) n then s.markedPiece p 5 e g else s
  (t.readEcc (gLocal g) ecc).addRbw p (s.rbwLines (gLocal g) n)

theorem ReadOnly.readOwn (s : State) (e p g n : Nat) (ecc : Ecc) : ReadOnly s (s.readOwn e p g n ecc) := by
  unfold State.readOwn
  dsimp only
  split_ifs
  · exact (((ReadOnly.refl s).raise _).readEcc _ ecc).addRbw p _
  · exact ((ReadOnly.refl s).readEcc _ ecc).addRbw p _

section
variable {s : State} {p g n : Nat} (hmeets : s.arenaMeets p g n = false) (hown : s.ownRange p g n [0, 1, 2, 3] = true)
  (hlent : (s.lentAt p g n).isNone = true)
include hmeets hown hlent

theorem State.readEnd_own (e : Nat) (ecc : Ecc) : s.readEnd e p g n ecc =
    (s.readOwn e p g n ecc, some ((s.readOwn e p g n ecc).load (gLocal g) n, (s.readOwn e p g n ecc).byteMarks (gLocal g) n)) := by
  have hholds := State.arenaHolds_of_not_meets (State.inSpace_of_ownRange hown).1 hmeets
  unfold State.readEnd
  dsimp only
  rw [if_neg (Bool.eq_false_iff.1 hholds), if_pos (by rw [hown, hlent]; rfl)]
  rfl

theorem State.writeEnd_own {bs : List Byte} (hlen : bs.length = n) (ms : List Bool) :
    s.writeEnd p g bs ms = (s.saveMarked (gLocal g) bs ms, true) := by
  subst hlen
  have hholds := State.arenaHolds_of_not_meets (State.inSpace_of_ownRange hown).1 hmeets
  unfold State.writeEnd
  dsimp only
  rw [if_neg (Bool.eq_false_iff.1 hholds), if_pos (by rw [hown, hlent]; rfl)]

end

/-! ## What a save leaves of the engines -/

theorem State.tongs_openPage (s : State) (la : Nat) : (s.openPage la).tongs = s.tongs := by
  unfold State.openPage
  split_ifs <;> rfl

theorem State.tongs_store (s : State) (la : Nat) (bs : List Byte) (mk : Bool) : (s.store la bs mk).tongs = s.tongs := by
  rw [State.store_frame]

theorem State.tongs_save (s : State) (la : Nat) (bs : List Byte) (mk : Bool) : (s.save la bs mk).tongs = s.tongs := by
  unfold State.save
  split_ifs
  · exact (State.tongs_store _ la bs mk).trans (foldl_reads State.tongs (fun t x _ => State.tongs_openPage t x.1) s)
  · exact State.tongs_store s la bs mk

theorem State.tongs_saveMarked (s : State) (la : Nat) (bs : List Byte) (mk : List Bool) : (s.saveMarked la bs mk).tongs = s.tongs := by
  unfold State.saveMarked
  split
  · exact State.each_reads State.tongs (fun t _ _ => State.tongs_save t _ _ _) s
  · exact State.tongs_save s la bs false

/-! ## A piece (R147, R148) -/

/-- An entry goes on by one piece, of which `sent` packets wait for an answer. -/
def State.pieceMoved (s u : State) (e p : Nat) (x : TEnt) (sent : Nat) : State :=
  u.modEnt e p x.src x.insn fun y => { y.advance (x.pieceLen s) (bellowsOf s.nparts p).length with pend := y.pend + sent }

/-- The bytes of a piece written at its destination, in state `u`, and whether it went: to a remote end as WRITEs. -/
def State.putPiece (s u : State) (e p : Nat) (x : TEnt) (bs : List Byte) (ms : List Bool) : State × Bool :=
  if u.remoteEnd p (x.dstAddr s) && !u.arenaHolds p (x.dstAddr s) bs.length then
    let w := u.remoteWrite p (x.dstAddr s) bs ms (.tongs e x.src x.insn)
    (s.pieceMoved w.1 e p x w.2, true)
  else
    let w := u.writeEnd p (x.dstAddr s) bs ms
    (if w.2 then s.pieceMoved w.1 e p x 0 else w.1, w.2)

/-- Destination bytes of an entry's next piece. -/
def TEnt.putLen (s : State) (x : TEnt) : Nat := x.pieceLen s / tdSize (tdSFmt x.desc) * tdSize (tdDFmt x.desc)

section
variable {s : State} {e p : Nat} {x : TEnt} (hnext : nextEnt (s.tongs.getD e []) p = some x) (ecc : Ecc)
include hnext

/-- A FILL piece puts zeros. -/
theorem doTongsPiece_fill (hop : x.op = 2) :
    doTongsPiece e p ecc s = (s.putPiece s e p x (List.replicate (x.putLen s) 0#8) (List.replicate (x.putLen s) false)).1 := by
  unfold doTongsPiece
  rw [hnext]
  dsimp only
  rw [if_neg (by omega), if_pos hop]
  rfl

/-- A COPY piece between equal formats puts what it reads of an own end. -/
theorem doTongsPiece_copy (hop : x.op = 0) (hconv : tdConv x.desc = false) (hremote : s.remoteEnd p x.srcAddr = false) {t u : State} {bs : List Byte}
    {ms : List Bool} (hread : s.readEnd e p x.srcAddr (x.pieceLen s) ecc = (t, some (bs, ms))) (hput : s.putPiece t e p x bs ms = (u, true)) :
    doTongsPiece e p ecc s = u := by
  have hsame : t.convertPiece e p x.desc x.row x.off bs ms = (t, bs, ms) := by
    unfold State.convertPiece
    rw [if_pos (by rw [hconv]; rfl)]
  unfold State.putPiece State.pieceMoved at hput
  unfold doTongsPiece
  rw [hnext]
  dsimp only
  rw [if_neg (by omega), if_neg (by omega), if_neg (by rw [hremote]; exact Bool.false_ne_true), hread]
  dsimp only
  rw [hsame]
  dsimp only
  rw [hput]

end

section
variable {s u : State} {e p n : Nat} {x : TEnt} {bs : List Byte} (hread : ReadOnly s u) (hlen : bs.length = n) (ms : List Bool)
  (hown : s.ownRange p (x.dstAddr s) n [0, 1, 2, 3] = true)
include hread hlen hown

/-- At an own end the bytes are saved. -/
theorem State.putPiece_own (hremote : s.remoteEnd p (x.dstAddr s) = false) (hmeets : s.arenaMeets p (x.dstAddr s) n = false)
    (hlent : (s.lentAt p (x.dstAddr s) n).isNone = true) :
    s.putPiece u e p x bs ms = (s.pieceMoved (u.saveMarked (gLocal (x.dstAddr s)) bs ms) e p x 0, true) := by
  have hput := State.writeEnd_own (s := u) ((hread.arenaMeets _ _ _).trans hmeets) ((hread.ownRange _ _ _ _).trans hown) (by rwa [hread.lentAt]) hlen ms
  unfold State.putPiece
  rw [hread.remoteEnd, hremote, hput]
  rfl

/-- The bytes saved read back, every other byte reads as before, and the engines are as the piece leaves them. -/
theorem State.pieceMoved_saved (hs : s.shaped) (t : State) (ht : t = s.pieceMoved (u.saveMarked (gLocal (x.dstAddr s)) bs ms) e p x 0) :
    t.load (gLocal (x.dstAddr s)) n = bs ∧ (∀ a, ¬(gLocal (x.dstAddr s) ≤ a ∧ a < gLocal (x.dstAddr s) + n) → t.load a 1 = s.load a 1) ∧
      t.tongs = (s.pieceMoved s e p x 0).tongs := by
  obtain ⟨-, hspace, hfits⟩ := State.inSpace_of_ownRange hown
  have hhearths : u.hearths.length = 256 := by
    obtain ⟨-, hcount, -⟩ := hs
    rw [hread.hearths, hcount]
  subst hlen ht
  refine ⟨State.load_saveMarked hhearths hspace ms, fun a hout => ?others, ?engines⟩
  case others => exact (State.load_saveMarked_out u hout (fun _ => hfits) ms).trans (hread.load a 1)
  case engines => exact congrArg (fun l => updAt l e _) ((State.tongs_saveMarked u _ bs ms).trans hread.tongs)

end

/-- To another partition or module the bytes go out as WRITEs, and the entry waits for them. -/
theorem State.putPiece_remote {s : State} {p : Nat} {x : TEnt} {bs : List Byte} (hremote : s.remoteEnd p (x.dstAddr s) = true)
    (hholds : s.arenaHolds p (x.dstAddr s) bs.length = false) (e : Nat) (ms : List Bool) :
    (s.putPiece s e p x bs ms).1 =
      let w := s.remoteWrite p (x.dstAddr s) bs ms (.tongs e x.src x.insn)
      s.pieceMoved w.1 e p x w.2 := by
  unfold State.putPiece
  rw [if_pos (by rw [hremote, hholds]; rfl)]

/-- Settles O30: a piece is put at its entry's destination, where a save of its bytes reads back and leaves every other byte. -/
theorem tongsPieceMovesBytes : Obligations.TongsPieceMovesBytes := by
  intro s e p x hs he hp hnext _ d k dst n moved
  have hok : ∀ ecc, (Instr.tongsPiece e p ecc).wf = true := fun _ => Bool.and_eq_true_iff.2 ⟨decide_eq_true he, decide_eq_true hp⟩
  refine ⟨fun hop hremote hmeets hown hlent ecc => ?fill,
    fun hop hconv hremote hmeets hown hlent hsrcRemote hsrcMeets hsrcOwn hsrcLent => ?copy, fun hop hn hremote hmeets ecc => ?remote⟩
  case fill =>
    have hput := State.putPiece_own (e := e) (bs := List.replicate n 0#8) (ReadOnly.refl s) List.length_replicate
      (List.replicate n false) hown hremote hmeets hlent
    have hdo := (doTongsPiece_fill hnext ecc hop).trans (congrArg Prod.fst hput)
    exact ⟨_, answer_of_ok (hok ecc) hdo, State.pieceMoved_saved (ReadOnly.refl s) List.length_replicate _ hown hs _ rfl⟩
  case copy =>
    have hread := ReadOnly.readOwn s e p x.srcAddr k .clean
    have hlen : (s.load (gLocal x.srcAddr) k).length = k := State.length_load _ _ _
    have hput := State.putPiece_own (e := e) hread hlen ((s.readOwn e p x.srcAddr k .clean).byteMarks (gLocal x.srcAddr) k) hown hremote hmeets hlent
    rw [← hread.load] at hput
    have hdo := doTongsPiece_copy hnext .clean hop hconv hsrcRemote (State.readEnd_own hsrcMeets hsrcOwn hsrcLent e .clean) hput
    refine ⟨_, answer_of_ok (hok .clean) hdo, ?_⟩
    rw [hread.load]
    exact State.pieceMoved_saved hread hlen _ hown hs _ rfl
  case remote =>
    have hholds := State.arenaHolds_of_not_meets hn hmeets
    have hput := State.putPiece_remote (bs := List.replicate n 0#8) hremote (by rwa [List.length_replicate]) e (List.replicate n false)
    exact answer_of_ok (hok ecc) ((doTongsPiece_fill hnext ecc hop).trans hput)

end Sys2Proof.Machine
end

section
/-! PROOF. The spill arena (chapter 07): fills, releases and write-backs, and the book of pool frames (R153, R154, R156). -/

namespace Sys2Proof.Machine

/-! ## Fills (R153) -/

/-- A fill has brought its last piece: the frame is clean, and one more move is counted. -/
def State.frameFilled (s : State) (p home : Nat) : State :=
  (s.modArena p fun r => r.modFrame home fun f => { f with st := .clean, next := 0 }).arenaMoved p

/-- A filling frame whose home is in the module's own crucible is copied at once. -/
theorem doArenaFill_homeLocal {s : State} {p a home : Nat} {f : Frame} (harena : s.arenaOf p = some a) (hframe : (s.part p).arena.find home = some f)
    (hfilling : f.st = .filling) (hlocal : s.homeLocal home = true) (bad fixed : List Nat) :
    doArenaFill p home bad fixed s = (s.copyFrame p (gLocal (home * frameBytes)) (poolAddr a f.pool) bad fixed).frameFilled p home := by
  unfold doArenaFill
  rw [harena, hframe]
  dsimp only
  rw [if_neg (not_not.2 hfilling), if_pos hlocal]
  rfl

/-! ## Write-backs (R153) -/

/-- A frame in write-back whose pages have all been sent and acknowledged. -/
def State.pagesLanded (s : State) (p : Nat) (f : Frame) : Bool :=
  f.st == .writeback && 512 ≤ f.next && !s.awaits p (fun o => match o with | .arenaOut h => h == f.home | _ => false)

/-- A frame in write-back with pages left to send. -/
def Frame.pagesLeft (f : Frame) : Bool := f.st == .writeback && f.next < 512

/-- No frame's pages have all landed where each one in write-back has pages left to send. -/
theorem State.find_pagesLanded_eq_none {s : State} {p : Nat} (hleft : ∀ g ∈ (s.part p).arena.frames, g.st = .writeback → g.next < 512) :
    (s.part p).arena.frames.find? (s.pagesLanded p) = none := by
  refine List.find?_eq_none.2 fun g hg hlanded => ?_
  simp only [State.pagesLanded, Bool.and_eq_true, beq_iff_eq, decide_eq_true_eq] at hlanded
  obtain ⟨⟨hst, hnext⟩, -⟩ := hlanded
  exact absurd (hleft g hg hst) hnext.not_gt

theorem find_pagesLeft_eq_none {l : List Frame} (hidle : ∀ g ∈ l, g.st ≠ .writeback) : l.find? Frame.pagesLeft = none := by
  refine List.find?_eq_none.2 fun g hg hleft => ?_
  simp only [Frame.pagesLeft, Bool.and_eq_true, beq_iff_eq] at hleft
  exact hidle g hg hleft.1

section
variable {s : State} {p a : Nat} {f : Frame} (harena : s.arenaOf p = some a) (bad fixed : List Nat)
include harena

/-- The write-back unit of an arena takes the first of its cases that applies. -/
theorem doArenaWriteback_eq : doArenaWriteback p bad fixed s =
    match (s.part p).arena.frames.find? (s.pagesLanded p) with
    | some f => (s.modArena p fun r => r.release f.home).arenaMoved p
    | none => match (s.part p).arena.frames.find? Frame.pagesLeft with
      | some f => s.sendPages p f.home
      | none => if 16 ≤ (s.part p).arena.free then s else match s.oldest p with
        | none => s
        | some f => if f.st = .clean then s.modArena p fun r => r.release f.home else s.writeBack p f bad fixed := by
  unfold doArenaWriteback
  rw [harena]
  rfl

theorem doArenaWriteback_landed (hfind : (s.part p).arena.frames.find? (s.pagesLanded p) = some f) :
    doArenaWriteback p bad fixed s = (s.modArena p fun r => r.release f.home).arenaMoved p := by
  rw [doArenaWriteback_eq harena, hfind]

theorem doArenaWriteback_pagesLeft (hnone : (s.part p).arena.frames.find? (s.pagesLanded p) = none)
    (hfind : (s.part p).arena.frames.find? Frame.pagesLeft = some f) : doArenaWriteback p bad fixed s = s.sendPages p f.home := by
  rw [doArenaWriteback_eq harena, hnone]
  dsimp only
  rw [hfind]

/-- With no write-back under way and fewer than 16 pool frames free, the least recently used frame not in use makes room. -/
theorem doArenaWriteback_oldest (hidle : ∀ g ∈ (s.part p).arena.frames, g.st ≠ .writeback) (hfree : (s.part p).arena.free < 16)
    (hold : s.oldest p = some f) : doArenaWriteback p bad fixed s =
      if f.st = .clean then s.modArena p fun r => r.release f.home else s.writeBack p f bad fixed := by
  have hlanded := State.find_pagesLanded_eq_none fun g hg hst => absurd hst (hidle g hg)
  rw [doArenaWriteback_eq harena, hlanded]
  dsimp only
  rw [find_pagesLeft_eq_none hidle]
  dsimp only
  rw [if_neg hfree.not_ge, hold]

end

/-! ## The book of pool frames (R154) -/

section
variable {r : Arena} {a : Nat}

theorem Arena.book_iff : r.book a = true ↔ r.free + r.frames.length = saPool a := beq_iff_eq

theorem Arena.book_release (hbook : r.book a = true) (home : Nat) : (r.release home).book a = true := by
  have hsplit := List.length_eq_length_filter_add (l := r.frames) (fun f => f.home == home)
  rw [Arena.book_iff] at hbook ⊢
  simp only [Arena.release, bne]
  omega

theorem Arena.book_modFrame (hbook : r.book a = true) (home : Nat) (g : Frame → Frame) : (r.modFrame home g).book a = true := by
  rw [Arena.book_iff] at hbook ⊢
  simpa only [Arena.modFrame, List.length_map] using hbook

theorem Arena.book_take {r' : Arena} {home k : Nat} {st : FrameSt} (hbook : r.book a = true) (hfree : 0 < r.free)
    (htake : r.take (saPool a) home st = some (r', k)) : r'.book a = true := by
  obtain ⟨j, -, hj⟩ := Option.map_eq_some_iff.1 htake
  obtain ⟨rfl, -⟩ := Prod.mk.inj hj
  rw [Arena.book_iff] at hbook ⊢
  simp only [List.length_append, List.length_singleton]
  omega

end

/-! ## A write-back that waits for a key (R156) -/

theorem doArenaStall_late {s : State} {p t : Nat} (hwait : (s.part p).arena.waitFrom = some t) (hlate : s.waitLimit p < s.tick - t) :
    doArenaStall p s =
      (s.modArena p fun r => { r with frames := r.frames.map fun f => { f with wait := f.wait.map fun _ => s.tick } }).raise
        (recPart p sevPart (Config.faultCode 156)) := by
  unfold doArenaStall
  rw [hwait]
  exact if_pos hlate

/-- Settles O31: a fill of the module's own crucible is copied whole, the write-back unit takes the first of its four cases that applies, and the
book counts a frame either as free or as listed. -/
theorem arenaKeepsItsBook : Obligations.ArenaKeepsItsBook := by
  intro s p a hp harena
  have hok : okPart p = true := decide_eq_true hp
  refine ⟨fun home f hframe hst hlocal bad fixed hwf => ?fill, fun f hidle hfree hold hst bad fixed hwf => ?clean,
    fun f hidle hfree hold hst bad fixed hwf => ?dirty, fun f bad fixed hwf hleft hfind => ?pages, fun f bad fixed hwf hfind => ?landed,
    fun r home hbook => Arena.book_release hbook home, fun r home g hbook => Arena.book_modFrame hbook home g,
    fun r r' home k st hbook hfree htake => Arena.book_take hbook hfree htake, fun t hwait hlate => ?stall⟩
  case fill => exact answer_of_ok hwf (doArenaFill_homeLocal harena hframe hst hlocal bad fixed)
  case clean => exact answer_of_ok hwf ((doArenaWriteback_oldest harena bad fixed hidle hfree hold).trans (if_pos hst))
  case dirty => exact answer_of_ok hwf ((doArenaWriteback_oldest harena bad fixed hidle hfree hold).trans (if_neg hst))
  case pages => exact answer_of_ok hwf (doArenaWriteback_pagesLeft harena bad fixed (State.find_pagesLanded_eq_none hleft) hfind)
  case landed => exact answer_of_ok hwf (doArenaWriteback_landed harena bad fixed hfind)
  case stall => exact answer_of_ok hok (doArenaStall_late hwait hlate)

end Sys2Proof.Machine
end

section
/-! PROOF. The background jobs of the smith and the host path that carries them (R150, R178, R182, R216, R217, R346). -/

namespace Sys2Proof.Machine

/-! ## Background pieces (R150, R178, R182, R346) -/

section
variable {s : State} {p k : Nat} {b : Bg} (ecc : Ecc) (hjob : s.bg p k = some b)
include hjob

section
variable (hfeeds : s.feeds p = true) (hsent : b.sent = false) (hretry : b.retryStep = none)
include hfeeds hsent hretry

theorem doBackgroundPieceFeed_memSend (hkind : b.kind = .memSend) : doBackgroundPieceFeed p k ecc s =
    (s.readEcc (gLocal b.src + b.fed) ecc).sendPiece p b fun s => (s.sendFail p b).dropBg p k := by
  simp [doBackgroundPieceFeed, hjob, hfeeds, hsent, hretry, hkind]

/-- A capture takes the next piece of the shard whose turn it is. -/
theorem doBackgroundPieceFeed_capture {d : Nat} (hkind : b.kind = .ingotCapture) (hshard : (s.shards p)[b.fed]? = some d) :
    doBackgroundPieceFeed p k ecc s = (s.readEcc (gLocal (udWork d)) ecc).captureShard p b b.fed := by
  have hlt : b.fed < (s.shards p).length := (List.getElem?_eq_some_iff.1 hshard).1
  simp only [doBackgroundPieceFeed, hjob, hfeeds, hsent, hretry, hkind, hshard, hlt, Bool.not_true, Bool.false_eq_true, Option.any_none, or_self, ↓reduceIte]

/-- A capture that has all shards closes its part. -/
theorem doBackgroundPieceFeed_seal (hkind : b.kind = .ingotCapture) (hall : b.fed = (s.shards p).length) :
    doBackgroundPieceFeed p k ecc s = s.sealPart p b := by
  have hnone : (s.shards p)[b.fed]? = none := List.getElem?_eq_none hall.ge
  simp only [doBackgroundPieceFeed, hjob, hfeeds, hsent, hretry, hkind, hnone, hall.ge.not_gt, Bool.not_true, Bool.false_eq_true, Option.any_none, or_self,
    ↓reduceIte]

end

/-! ## The host's answers (R182, R216, R217) -/

/-- The last byte of a job's transfer is acknowledged: the job ends, and an ingot part's staging is free. -/
theorem doHostTransferAck_sent (hsent : b.sent = true) : doHostTransferAck p k s =
    if b.kind = .ingotSend then ((s.dropBg p k).landed (p, k)).modPart p fun q => { q with ingotHeld := q.ingotHeld.filter fun h => h.1 != b.src }
    else (s.dropBg p k).landed (p, k) := by
  simp [doHostTransferAck, hjob, hsent]

end

theorem doHostWriteFail_connected {s : State} {q : Nat} (hup : (s.qp q).st = 1) : doHostWriteFail q s = s.qpError q := if_pos hup

theorem doHostRetransmit_connected {s : State} {q : Nat} (hup : (s.qp q).st = 1) :
    doHostRetransmit q s = s.each (s.qp q).unacked fun s x => s.writeFrame q x.2 := if_pos hup

/-- Settles O33: a job whose turn it is takes its next piece by its kind, a sent one ends when its transfer is acknowledged, and a connected QP
fails or sends again what it holds. -/
theorem backgroundCopiesProceed : Obligations.BackgroundCopiesProceed := by
  intro s p k b ecc hp hjob
  have hok : okPart p = true := decide_eq_true hp
  have hack : (Instr.hostTransferAck p k).wf = true := decide_eq_true (hp.trans (by decide))
  refine ⟨fun hfeeds hsent hretry hkind => ?memSend, fun d hfeeds hsent hretry hkind hshard => ?capture, fun hfeeds hsent hretry hkind hall => ?closes,
    fun hsent hkind => ?ackSend, fun hsent hkind => ?ackIngot, fun q hq hup => ?fail, fun q hq hup => ?retransmit⟩
  case memSend => exact answer_of_ok hok (doBackgroundPieceFeed_memSend ecc hjob hfeeds hsent hretry hkind)
  case capture => exact answer_of_ok hok (doBackgroundPieceFeed_capture ecc hjob hfeeds hsent hretry hkind hshard)
  case closes => exact answer_of_ok hok (doBackgroundPieceFeed_seal ecc hjob hfeeds hsent hretry hkind hall)
  case ackSend => exact answer_of_ok hack ((doHostTransferAck_sent hjob hsent).trans (if_neg (by rw [hkind]; decide)))
  case ackIngot => exact answer_of_ok hack ((doHostTransferAck_sent hjob hsent).trans (if_pos hkind))
  case fail => exact answer_of_ok (decide_eq_true hq) (doHostWriteFail_connected hup)
  case retransmit => exact answer_of_ok (decide_eq_true hq) (doHostRetransmit_connected hup)

end Sys2Proof.Machine
end

section
/-! PROOF. A shard's commit (chapter 08): its opening, its decision, its writes and its completion, and a retired update unit (R165, R166, R168). -/

namespace Sys2Proof.Machine

/-! ## The copies of a generation word (R167, R168) -/

section
variable (s : State) (d : Nat)

/-- Copy `k` stands 4 KiB above copy `k - 1`, so that no write of one meets another. -/
theorem State.word_writeCopy {w : Nat} (hw : w < 2 ^ 64) (j k : Nat) :
    (s.writeCopy d k w).word (genAddr d j) 8 = if j = k then w else s.word (genAddr d j) 8 := by
  have hlen : (leBytes 8 w).length = 8 := length_leBytes 8 w
  split_ifs with h
  · have hread := State.store_bytes s (genAddr d k) (leBytes 8 w) false
    rw [hlen] at hread
    rw [h, State.word, State.writeCopy, hread, leNat_leBytes 8 w hw]
  · have happart : genAddr d j + 8 ≤ genAddr d k ∨ genAddr d k + (leBytes 8 w).length ≤ genAddr d j := by
      simp only [genAddr, hlen]
      omega
    simp only [State.word, State.bytes, State.writeCopy, State.store_mem, Memory.readN_writeBytes_out _ _ _ _ _ happart]

theorem State.read_writeCopy_out (w : Nat) {k a : Nat} (hout : ¬(genAddr d k ≤ a ∧ a < genAddr d k + 8)) :
    Memory.read (s.writeCopy d k w).mem a = Memory.read s.mem a :=
  State.store_read_out s _ _ false (by rwa [length_leBytes])

theorem State.genCopies_writeGen {w : Nat} (hw : w < 2 ^ 64) : (s.writeGen d w).genCopies d = copies3 w := by
  have hwrite : s.writeGen d w = ((s.writeCopy d 0 w).writeCopy d 1 w).writeCopy d 2 w := rfl
  simp [hwrite, State.genCopies, State.word_writeCopy _ d hw, copies3]

/-- A voted word whose copies agree. -/
theorem vote3_copies3 {α : Type} [DecidableEq α] (a : α) : vote3 (copies3 a) = some (a, true) := by
  simp [vote3, copies3]

theorem State.read_writeGen_out (w : Nat) {a : Nat} (hout : ∀ k < 3, ¬(genAddr d k ≤ a ∧ a < genAddr d k + 8)) :
    Memory.read (s.writeGen d w).mem a = Memory.read s.mem a := by
  have hlt : ∀ k ∈ [0, 1, 2], k < 3 := by decide
  exact State.each_reads (fun t : State => Memory.read t.mem a) (fun t k hk => State.read_writeCopy_out t d w (hout k (hlt k hk))) s

end

/-! ## The opening (R165, R166, R304, R307) -/

section
variable {s : State} {u : Nat}

theorem doCommitOpen_noBuffer (hfull : (s.uunit u).bufferFree = false) (x : Found) : doCommitOpen u x s = s := by
  cases hqueue : (s.uunit u).queue with
  | nil => simp only [doCommitOpen, hqueue]
  | cons e rest => simp only [doCommitOpen, hqueue, hfull, Bool.not_false, true_or, or_true, ↓reduceIte]

section
variable {e : UEnt} {rest : List UEnt} {t v : State} {w : Nat} {x : Found} (hfree : (s.uunit u).bufferFree = true) (hqueue : (s.uunit u).queue = e :: rest)
  (honline : (s.uunit u).offline = false) (hbusy : s.shardBusy e.part e.desc = false) (hguard : s.guarded e.part e.desc = false)
  (hvote : (s.meet (s.commitReads e.part e.desc) x).voteGen e.part e.desc = (t, some w))
  (htaken : (t.modUnit u fun y => { y with queue := rest }).placeRedo e.part = v) (hopen : v.shardOpen e.part e.desc = true)
include hfree hqueue honline hbusy hguard hvote htaken hopen

/-- A word ahead of the partition's step: the record, and no commit. -/
theorem doCommitOpen_ahead {g : Nat} (hrank : sgRank w = some g) (hlate : (s.part e.part).run.step < g) :
    doCommitOpen u x s = v.raise { updRec e.part u sevPart 0x46 with addr := udGen e.desc } := by
  have hne : g ≠ (s.part e.part).run.step := by omega
  simp [doCommitOpen, hqueue, hfree, honline, hbusy, hguard, hvote, htaken, hopen, hrank, hlate, hne]

/-- A word behind the partition's step: passes 1 and 2 write the other generation, and the commit is open. -/
theorem doCommitOpen_behind (hne : sgRank w ≠ some (s.part e.part).run.step) (hbehind : ∀ g, sgRank w = some g → g < (s.part e.part).run.step)
    (hgrad : v.gradOpen e.part e.desc = true) (hslag : (v.form e.part e.desc (s.part e.part).run.step (sgActive w) (sgRank w) true).slag = false) :
    doCommitOpen u x s =
      let st := (s.part e.part).run.step
      let f := v.form e.part e.desc st (sgActive w) (sgRank w) true
      let fold := v.pendingFold e.part e.desc st (sgRank w)
      let z := ((v.writeState e.desc (1 - sgActive w) f).sampleCommit e.part (samplerUnit u) e.desc f).foldRec e.part f fold
      z.modUnit u fun y => { y with opn := y.opn ++ [{ ent := e, step := st, gen := 1 - sgActive w, buf := f.codes.map (·.1), bad := f.hold, redo := false,
                                                       flipped := false, merged := z.foldsPartial e.part fold }] } := by
  simp only [doCommitOpen, hqueue, hfree, honline, hbusy, hguard, hvote, htaken, hopen, hgrad, hslag, if_neg hne, Bool.not_true, Bool.false_eq_true, or_self,
    ↓reduceIte]
  refine if_neg ?_
  cases hrank : sgRank w with
  | none => exact Bool.false_ne_true
  | some g => simpa using (hbehind g hrank).le

end

/-! ## The decision and the writes (R165, R168) -/

section
variable {i : Nat} {o : Open} {k : Decision} (hfirst : firstWith s.decidable (s.uunit u).opn = some (i, o)) (hredo : o.redo = false)
  (hdecision : (s.part o.ent.part).run.decision = some k)
include hfirst hredo hdecision

/-- The commit of a step that is skipped is abandoned. -/
theorem doCommitDecision_skip (hskip : k.skip = true) :
    doCommitDecision u s = s.modUnit u fun y => { y with opn := updAt y.opn i fun _ => { o with decided := true } } := by
  simp [doCommitDecision, hfirst, hredo, hdecision, hskip]

/-- A shard with a bad element is held: the record, and the step outside the promise of R95. -/
theorem doCommitDecision_hold (hskip : k.skip = false) (hbad : o.bad = true) : doCommitDecision u s =
    ((s.modRun o.ent.part fun r => { r with repro := true }).raise
      { updRec o.ent.part u sevDef 0x40 with addr := udElem o.ent.desc, detail := udTensor o.ent.desc }).modUnit u fun y =>
        { y with opn := updAt y.opn i fun _ => { o with decided := true } } := by
  simp [doCommitDecision, hfirst, hredo, hdecision, hskip, hbad]

theorem doCommitDecision_apply (hskip : k.skip = false) (hbad : o.bad = false) : doCommitDecision u s = s.flipNext u i o := by
  simp [doCommitDecision, hfirst, hredo, hdecision, hskip, hbad]

end

section
variable {o : Open} (hmerged : o.merged = false) (u i : Nat)
include hmerged

theorem State.flipNext_copy (hflips : o.flips < 3) : s.flipNext u i o = (s.writeCopy o.ent.desc o.flips (mkGen o.step o.gen false)).modUnit u fun y =>
    { y with opn := updAt y.opn i fun _ => { o with flips := o.flips + 1, flipped := decide (1 ≤ o.flips) } } := by
  simp [State.flipNext, hmerged, hflips]

theorem State.flipNext_work (hflips : 3 ≤ o.flips) (hwork : s.workOpen o.ent.part o.ent.desc = true) :
    s.flipNext u i o = (s.writeWork o.ent.desc o.buf).modUnit u fun y => { y with opn := updAt y.opn i fun _ => { o with decided := true } } := by
  simp [State.flipNext, hmerged, hflips.not_gt, State.putWork, hwork]

end

theorem doCommitComplete_decided {i : Nat} {o : Open} (hfirst : firstWith (·.decided) (s.uunit u).opn = some (i, o)) :
    doCommitComplete u s = (s.modUnit u fun y => { y with opn := y.opn.eraseIdx i }).complete o.ent.part o.ent.stream o.ent.insn := by
  simp only [doCommitComplete, hfirst]

end

/-! ## The update units when a partition leaves its job (R166, R169, R231, R233) -/

/-- A unit without what one partition has in it. -/
def UUnit.without (p : Nat) (x : UUnit) : UUnit := { x with queue := x.queue.filter (fun e => e.part != p), opn := x.opn.filter fun o => o.ent.part != p }

section
variable (s : State) (p : Nat)

theorem State.units_voteRoot : (s.voteRoot p).units = s.units := by
  unfold State.voteRoot
  dsimp only
  split <;> rfl

theorem State.units_egress (q cls : Nat) (part : Option Nat) (bytes : Nat) (h : Heads) (x : Pkt) : (s.egress q cls part bytes h x).units = s.units := by
  unfold State.egress
  dsimp only
  split_ifs <;> rfl

theorem State.units_emitHall (k : HtPkt) (plane : Nat) : (s.emitHall p k plane).units = s.units := by
  unfold State.emitHall
  dsimp only
  split_ifs
  · rfl
  · rfl
  · rw [State.units_egress, State.units_voteRoot]

theorem State.units_heartbeats (code : Nat) : (s.heartbeats p code).units = s.units :=
  State.each_reads State.units (fun t _ _ => State.each_reads State.units (fun t _ _ => State.each_reads State.units
    (fun t _ _ => State.units_emitHall t p _ _) t) t) s

theorem State.units_stepRecEnd : (s.stepRecEnd p).units = s.units := by
  unfold State.stepRecEnd State.recordPart State.record
  split
  · dsimp only
    split_ifs <;> rfl
  · rfl

theorem State.units_noFaults : (s.noFaults p).units = s.units := State.each_reads State.units (fun t _ _ => State.modHearth_units t _ _) s

theorem State.units_leaveJob : (s.leaveJob p).units = s.units := by
  unfold State.leaveJob
  dsimp only
  split_ifs
  · rfl
  · rw [State.modPart_units, State.sendLeft, State.units_heartbeats, State.units_noFaults, State.units_stepRecEnd]

theorem State.units_dropRequests : (s.dropRequests p).units = s.units := State.each_reads State.units (fun t _ _ => State.modCipher_units t _) _

theorem State.units_updateDiscard : (s.updateDiscard p).units = s.units.map (UUnit.without p) := rfl

/-- A discard takes what a partition has in the units, and nothing else of them. -/
theorem State.units_localDiscard : (s.localDiscard p).units = s.units.map (UUnit.without p) := by
  unfold State.localDiscard
  dsimp only
  simp only [State.modPart_units, State.modFab_units, State.modRun_units, State.modColl_units, State.modPyro_units, State.modArena_units,
    State.units_dropRequests, State.units_updateDiscard]
  have hengines : (s.each (s.hearthsOf p) fun s h => (s.modHearth h Hearth.discard).modTemper h Temper.discard).units = s.units :=
    State.each_reads State.units (fun t h _ => (State.modTemper_units (t.modHearth h Hearth.discard) h _).trans (State.modHearth_units t h _)) s
  exact congrArg (List.map (UUnit.without p)) hengines

theorem State.units_dropOut : (s.dropOut p).units = s.units.map (UUnit.without p) := by
  rw [State.dropOut, State.units_leaveJob, State.units_localDiscard]

end

/-! ## A retired unit (R166) -/

/-- A unit that is OFFLINE and holds nothing. -/
structure UUnit.retired (x : UUnit) : Prop where
  offline : x.offline = true
  queue : x.queue = []
  opn : x.opn = []

theorem UUnit.retired.without {x : UUnit} (h : x.retired) (p : Nat) : (x.without p).retired :=
  ⟨h.offline, by simp [UUnit.without, h.queue], by simp [UUnit.without, h.opn]⟩

/-- What a search that starts with none finds is one of those it looks at. -/
theorem mem_of_foldl_eq_some {α : Type} {f : Option α → α → Option α} (hf : ∀ b x, f b x = b ∨ f b x = some x) {v : α} {l : List α}
    (h : l.foldl f none = some v) : v ∈ l := by
  have hall : ∀ v, l.foldl f none = some v → v ∈ l :=
    List.foldlRecOn (motive := fun b => ∀ v, b = some v → v ∈ l) l f (fun _ hv => absurd hv (Option.some_ne_none _).symm) fun b ih x hx v hv => by
      rcases hf b x with hb | hb
      · exact ih v (hb ▸ hv)
      · rw [hb] at hv
        exact Option.some.inj hv ▸ hx
  exact hall v h

section
variable {s : State} {u : Nat}

/-- A commit is placed in a unit that works. -/
theorem State.pickUnit_online {p v : Nat} (h : s.pickUnit p = some v) : (s.uunit v).offline = false := by
  have hmem := mem_of_foldl_eq_some (fun b x => by
    cases b with
    | none => exact .inr rfl
    | some y =>
      dsimp only
      split_ifs
      · exact .inr rfl
      · exact .inl rfl) h
  have hpick := List.of_mem_filter hmem
  simp only [Bool.and_eq_true, Bool.not_eq_true'] at hpick
  obtain ⟨⟨-, honline⟩, -⟩ := hpick
  exact honline

/-- So a retired unit stays empty when a waiting commit is placed. -/
theorem State.retired_placeRedo (h : (s.uunit u).retired) (p : Nat) : ((s.placeRedo p).uunit u).retired := by
  unfold State.placeRedo
  split
  case h_1 hredo hpick =>
    have hne : u ≠ _ := fun hu => Bool.noConfusion ((State.pickUnit_online hpick).symm.trans (hu ▸ h.offline))
    simpa only [State.uunit, State.modUnit_units, State.modPart_units, getD_updAt_ne _ _ _ _ _ hne] using h
  case h_2 => exact h

theorem State.retired_placeRedos {α : Type} (h : (s.uunit u).retired) (l : List α) (p : Nat) : ((s.each l fun s _ => s.placeRedo p).uunit u).retired :=
  List.foldlRecOn (motive := fun t : State => (t.uunit u).retired) l _ h fun _ ht _ _ => State.retired_placeRedo ht p

theorem State.retired_dropOut (h : (s.uunit u).retired) (p : Nat) : ((s.dropOut p).uunit u).retired := by
  have hunit : (s.dropOut p).uunit u = (s.uunit u).without p := by
    rw [State.uunit, State.units_dropOut]
    exact List.getD_map s.units {} (UUnit.without p)
  exact hunit ▸ h.without p

variable (hu : u < s.units.length)
include hu

theorem State.retired_of_units {t : State} (hunits : t.units = updAt s.units u fun _ => { offline := true }) : (t.uunit u).retired := by
  rw [State.uunit, hunits, getD_updAt_self _ _ _ _ hu]
  exact ⟨rfl, rfl, rfl⟩

/-- Whether its work finds another unit, or the partition leaves its job. -/
theorem doUpdateUnitRetired_retired (honline : (s.uunit u).offline = false) : ((doUpdateUnitRetired u s).uunit u).retired := by
  unfold doUpdateUnitRetired
  dsimp only
  rw [if_neg (Bool.eq_false_iff.1 honline)]
  split_ifs
  · exact State.retired_placeRedos (State.retired_of_units hu rfl) _ _
  · exact State.retired_dropOut (State.retired_of_units hu rfl) _

end

/-- Settles O34: each command of a commit makes the next of its steps, and a flip writes three copies that agree and no other byte. -/
theorem commitRunsInOrder : Obligations.CommitRunsInOrder := by
  refine ⟨fun s u hu => ?commit, fun s d w hw => ⟨?agree, fun a hout => State.read_writeGen_out s d w hout⟩⟩
  case agree => rw [State.genCopies_writeGen s d hw, vote3_copies3]
  have hok : okUnit u = true := decide_eq_true hu
  refine ⟨fun x hfull => ?noBuffer, fun e rest t w x hfree hqueue honline hbusy hguard hvote => ?opening,
    fun i o k hfirst hredo hdecision => ⟨fun hskip => ?skips, fun hskip hbad hmerged hflips => ?flips, fun hskip hbad hmerged hflips hwork => ?works,
      fun hskip hbad => ?holds⟩, fun i o hfirst => ?completes, fun honline => ?retires⟩
  case noBuffer => exact answer_of_ok hok (doCommitOpen_noBuffer hfull x)
  case opening =>
    intro v hopen st f fold z
    refine ⟨fun hne hbehind hgrad hslag => ?behind, fun g hrank hlate => ?ahead⟩
    case behind => exact answer_of_ok hok (doCommitOpen_behind hfree hqueue honline hbusy hguard hvote rfl hopen hne hbehind hgrad hslag)
    case ahead => exact answer_of_ok hok (doCommitOpen_ahead hfree hqueue honline hbusy hguard hvote rfl hopen hrank hlate)
  case skips => exact answer_of_ok hok (doCommitDecision_skip hfirst hredo hdecision hskip)
  case flips => exact answer_of_ok hok ((doCommitDecision_apply hfirst hredo hdecision hskip hbad).trans (State.flipNext_copy hmerged u i hflips))
  case works => exact answer_of_ok hok ((doCommitDecision_apply hfirst hredo hdecision hskip hbad).trans (State.flipNext_work hmerged u i hflips hwork))
  case holds => exact answer_of_ok hok (doCommitDecision_hold hfirst hredo hdecision hskip hbad)
  case completes => exact answer_of_ok hok (doCommitComplete_decided hfirst)
  case retires =>
    refine ⟨_, answer_of_ok hok rfl, fun hlen => ?_⟩
    obtain ⟨hoffline, hqueue, hopn⟩ := doUpdateUnitRetired_retired hlen honline
    exact ⟨hoffline, hqueue, hopn⟩

end Sys2Proof.Machine
end

section
/-! PROOF. Collectives (chapter 09): received segments, those of another epoch, the books of a DIRECT stage, and the timers (R185, R188, R190, R194, R196,
R198-R204, R209). -/

namespace Sys2Proof.Machine

/-! ## Segments heard (R188, R190, R198-R203, R209) -/

/-- Only the blocks of a contribution or a result can show what the receive buffer lost. -/
theorem Seg.marked_of_kind {x : Seg} (h : 1 < x.kind) (c : Nat) : x.marked c = x := if_pos (.inl h)

/-- A row that goes by the kind of what the packet brings knows the segment by that which is heard. -/
theorem ofKind_of_marked {x : Seg} {c k : Nat} (hk : (x.marked c).kind = k) (s : State) (p : Nat) : ofKind k x s p = true :=
  beq_iff_eq.2 ((Seg.marked_kind x c).symm.trans hk)

/-- The word that a FLAG brings to its root. -/
def Seg.flagWord (x : Seg) (sender : Nat) : FlagWord :=
  ⟨x.rank, leNat (x.body.take 2), leNat ((x.body.drop 2).take 2), leNat ((x.body.drop 4).take 4),
    (chunks 8 (x.body.drop 8)).map fun c => (BitVec.ofNat 32 (leNat (c.take 4)), BitVec.ofNat 32 (leNat (c.drop 4))),
    (senderMarks sender 40 (x.body.length - 8)).any id⟩

section
variable {s u : State} {pkt : HtPkt} {p : Nat} {x : Seg}

/-- The row of a segment heard: what its kind does with it, then the acknowledgement when it is due. -/
theorem answer_segEvent_of_hears (h : s.hears pkt p u x) {mine : Seg → State → Nat → Bool} {act : State → Nat → Nat → Seg → State} {t : State}
    (hmine : mine (segOf pkt.payload) s p = true) (hact : act u p (senderOf pkt) x = t) :
    answer true (s.segEvent pkt mine act) = .next (t.ackIfDue p pkt.srcModule pkt.srcPart) :=
  answer_of_ok rfl (hact ▸ State.segEvent_of_hears h act hmine)

theorem ofKind_of_hears (h : s.hears pkt p u x) {k : Nat} (hk : x.kind = k) : ofKind k (segOf pkt.payload) s p = true := by
  obtain ⟨-, rfl, -⟩ := h
  exact ofKind_of_marked hk s p

/-- A BARRIER is a request or an answer by what the packet brings, which nothing has marked. -/
theorem State.hears.segOf_barrier (h : s.hears pkt p u x) (hk : x.kind = 7) : segOf pkt.payload = x := by
  obtain ⟨-, rfl, -⟩ := h
  have hkind : 1 < (segOf pkt.payload).kind := by
    rw [Seg.marked_kind] at hk
    omega
  exact (Seg.marked_of_kind hkind _).symm

theorem State.takeGather_piece (hpiece : isRejoin x = false) (sender : Nat) : s.takeGather p sender x = s.keepSeg p sender x := by
  simp only [State.takeGather, hpiece, Bool.false_eq_true, false_and, ↓reduceIte]

theorem State.takeGather_rejoin (hrejoin : isRejoin x = true) (hhold : (s.part p).run.holds.contains .rejoin = true) (sender : Nat) :
    s.takeGather p sender x = (s.holdSeg p sender x.bytes).tryRejoin p := if_pos ⟨hrejoin, hhold⟩

section
variable {g : Nat} (hgroup : s.group p x.group = some g) (sender : Nat)
include hgroup

theorem State.takeFlag_open (hrank : cgRank g = 0) (hkept : (s.part p).coll.aborts.contains (cgId g, x.step, none) = false) (hstep : (s.part p).run.step ≤ x.step) :
    s.takeFlag p sender x = (s.rootAdd p g x.step x.occ (x.flagWord sender) false).collSettle p := by
  simp only [State.takeFlag, hgroup, hrank, hkept, hstep.not_gt, ne_eq, not_true_eq_false, Bool.false_eq_true, ↓reduceIte]
  rfl

theorem State.takeAbort_open (hrank : cgRank g = 0) (hstep : (s.part p).run.step ≤ x.step) :
    s.takeAbort p sender x = (s.rootAbort p g x.step (some (senderMod sender))).collSettle p := by
  simp only [State.takeAbort, hgroup, hrank, hstep.not_gt, ne_eq, not_true_eq_false, ↓reduceIte]

theorem State.takeBarrier_collected (hsub : (x.body.headD 0#8).toNat ≤ 2) (hrank : cgRank g = 0) :
    s.takeBarrier p sender x = s.barrierHeard p g (x.body.headD 0#8).toNat x.rank (leNat (x.body.drop 4)) x.epoch := by
  have hne : (x.body.headD 0#8).toNat ≠ 3 := by omega
  simp only [State.takeBarrier, hgroup, hsub, hrank, hne, and_self, ↓reduceIte]

theorem State.takeBarrier_rejoin (hsub : (x.body.headD 0#8).toNat = 3) :
    s.takeBarrier p sender x = s.modColl p fun c => { c with rejoins := c.rejoins ++ [(cgId g + 64 * x.epoch, x.rank)] } := by
  simp only [State.takeBarrier, hgroup, hsub, ↓reduceIte]

theorem State.takeAnswer_current (hsub : (x.body.headD 0#8).toNat ≠ 3) (hepoch : x.epoch = (s.part p).run.epoch) :
    s.takeAnswer p sender x = s.barrierAnswered p g (x.body.headD 0#8).toNat := by
  simp only [State.takeAnswer, hgroup, hsub, hepoch, ne_eq, not_true_eq_false, ↓reduceIte]

end

end

/-- Settles O37: a segment heard is its own row's, by its kind, and that row does with it what the operation or the root's book it is for asks. -/
theorem segmentsReachTheirOperation : Obligations.SegmentsReachTheirOperation := by
  intro s u pkt p x h
  refine ⟨fun hk fixed bad => ?contrib, fun hk k hpkt => ?result, fun hk k hpkt => ?stat, fun hk => ?decide, fun hk hpiece => ?piece,
    fun hk hrejoin hhold => ?rejoin, fun g k v hpkt hv hgroup hk hrank hkept hstep => ?flag,
    fun g hgroup => ⟨fun hk hrank hstep => ?abort, fun hk hreq hsub hrank => ?barrier, fun hk hreq hsub => ?asks, fun hk hans hsub hepoch => ?answer⟩⟩
  case contrib => exact answer_segEvent_of_hears h (ofKind_of_hears h hk) rfl
  case result =>
    subst hpkt
    exact answer_segEvent_of_hears h (ofKind_of_hears h hk) rfl
  case stat =>
    subst hpkt
    exact answer_segEvent_of_hears h (ofKind_of_hears h hk) rfl
  case decide => exact answer_segEvent_of_hears h (ofKind_of_hears h hk) rfl
  case piece => exact answer_segEvent_of_hears h (ofKind_of_hears h hk) (State.takeGather_piece hpiece _)
  case rejoin => exact answer_segEvent_of_hears h (ofKind_of_hears h hk) (State.takeGather_rejoin hrejoin hhold _)
  case flag =>
    subst hpkt hv
    exact ⟨x.flagWord (heldSender k (senderOf k.pkt)), rfl, rfl, rfl,
      answer_segEvent_of_hears h (ofKind_of_hears h hk) (State.takeFlag_open hgroup _ hrank hkept hstep)⟩
  case abort => exact answer_segEvent_of_hears h (ofKind_of_hears h hk) (State.takeAbort_open hgroup _ hrank hstep)
  case barrier =>
    exact answer_segEvent_of_hears h (by simp [h.segOf_barrier hk, hk, hreq]) (State.takeBarrier_collected hgroup _ hsub hrank)
  case asks =>
    exact answer_segEvent_of_hears h (by simp [h.segOf_barrier hk, hk, hreq]) (State.takeBarrier_rejoin hgroup _ hsub)
  case answer =>
    exact answer_segEvent_of_hears h (by simp [h.segOf_barrier hk, hk, hans]) (State.takeAnswer_current hgroup _ hsub hepoch)

/-! ## One operation changed, and what is read of it -/

/-- The operation of an instruction, once those of one instruction have been changed. -/
theorem Coll.op_modOp {f : CollOp → CollOp} (hf : ∀ o, (f o).insn = o.insn) (c : Coll) (k n : Nat) :
    (c.modOp k f).op n = (c.op n).map fun o => if o.insn == k then f o else o := by
  have hinsn : ((fun o => o.insn == n) ∘ fun o => if o.insn == k then f o else o) = fun o : CollOp => o.insn == n := by
    funext o
    dsimp only [Function.comp_apply]
    split_ifs
    · rw [hf]
    · rfl
  rw [Coll.op, Coll.modOp, List.find?_map, hinsn, Coll.op]

/-- A partition that the module does not have has no operations, so that the change needs no bound. -/
theorem State.coll_modOp_self (s : State) (p n : Nat) (f : CollOp → CollOp) : ((s.modOp p n f).part p).coll = (s.part p).coll.modOp n f :=
  congrArg Part.coll (getD_updAt_of_fix (f := fun q : Part => { q with coll := q.coll.modOp n f }) rfl s.parts p)

/-- What a change of operations does not touch of a partition. -/
theorem State.modOp_reads {α : Type} (π : Part → α) (hπ : ∀ q l, π { q with coll := { q.coll with ops := l } } = π q) (s : State) (p n : Nat) (f : CollOp → CollOp)
    (q : Nat) : π ((s.modOp p n f).part q) = π (s.part q) :=
  State.modPart_reads π (fun y => hπ y _) s p q

/-! ## Segments of another epoch (R204) -/

/-- An operation that one more stale segment was meant for. -/
def CollOp.missed (q : CollOp) : CollOp := { q with staleN := satTo 16 (q.staleN + 1) }

section
variable (s : State) (p : Nat) (x : Seg) (older : Bool)

/-- A segment dropped counts once; one of an older epoch, also on its operation. -/
theorem State.epochDrop_cases :
    (∃ o, older = true ∧ (s.part p).coll.forSeg x = some o ∧ s.epochDrop p x older = (s.count .staleEpoch).modOp p o.insn CollOp.missed) ∨
    ((older = true → (s.part p).coll.forSeg x = none) ∧ ∃ c, s.epochDrop p x older = s.count c) := by
  have hcount : ∀ c, (s.count c).part p = s.part p := fun _ => rfl
  unfold State.epochDrop
  simp only [hcount]
  split
  case h_1 o hseg => exact .inl ⟨o, rfl, hseg, rfl⟩
  case h_2 hnone =>
    refine .inr ⟨fun hold => ?_, _, rfl⟩
    exact Option.eq_none_iff_forall_ne_some.2 fun o hseg => hnone o hold hseg

theorem State.mem_epochDrop : (s.epochDrop p x older).mem = s.mem := by
  rcases s.epochDrop_cases p x older with ⟨o, -, -, hdrop⟩ | ⟨-, c, hdrop⟩ <;> rw [hdrop] <;> rfl

theorem State.epochDrop_reads {α : Type} (π : Part → α) (hπ : ∀ q l, π { q with coll := { q.coll with ops := l } } = π q) (q : Nat) :
    π ((s.epochDrop p x older).part q) = π (s.part q) := by
  rcases s.epochDrop_cases p x older with ⟨o, -, -, hdrop⟩ | ⟨-, c, hdrop⟩
  · rw [hdrop]
    exact State.modOp_reads π hπ _ p o.insn _ q
  · rw [hdrop]
    rfl

/-- The stale count of the operation that the segment names is all that moves of any. -/
theorem State.op_epochDrop (n : Nat) : ((s.epochDrop p x older).part p).coll.op n = ((s.part p).coll.op n).map fun q =>
    if older = true ∧ ((s.part p).coll.forSeg x).map (·.insn) = some q.insn then q.missed else q := by
  rcases s.epochDrop_cases p x older with ⟨o, hold, hseg, hdrop⟩ | ⟨hnone, c, hdrop⟩
  · rw [hdrop, State.coll_modOp_self, Coll.op_modOp (f := CollOp.missed) (fun _ => rfl)]
    refine congrArg (fun f => ((s.part p).coll.op n).map f) (funext fun q => ?_)
    simp only [hold, hseg, Option.map_some, Option.some.injEq, true_and, beq_iff_eq, @eq_comm _ o.insn]
  · have hkept : ∀ q : CollOp, ¬(older = true ∧ ((s.part p).coll.forSeg x).map (·.insn) = some q.insn) := fun q ⟨hold, hinsn⟩ => by
      rw [hnone hold] at hinsn
      exact Option.some_ne_none _ hinsn.symm
    rw [hdrop]
    simp only [if_neg (hkept _), Option.map_id']
    rfl

end

/-- A contribution of another epoch meets neither exemption of the epoch rule, so that it is dropped. -/
theorem State.segEvent_otherEpoch {s u v : State} {pkt : HtPkt} {p : Nat} (hop : pkt.op = 0 ∨ 2 < pkt.op) (hpart : pkt.dstPart = p)
    (htake : s.receive [6] pkt = (u, some p)) (hv : v = (u.dataArrived p pkt).bufErrors p pkt) (act : State → Nat → Nat → Seg → State) :
    let x := (segOf pkt.payload).marked (senderOf pkt)
    x.epoch ≠ (v.part p).run.epoch → x.kind = 0 →
      s.segEvent pkt (ofKind 0) act = (v.epochDrop p x (epochOlder x.epoch (v.part p).run.epoch)).ackIfDue p pkt.srcModule pkt.srcPart := by
  intro x hepoch hkind
  subst hpart hv
  have hmine : ofKind 0 (segOf pkt.payload) s pkt.dstPart = true := ofKind_of_marked hkind s pkt.dstPart
  have hother : ¬((pkt.type = 6 ∧ 1 ≤ pkt.op ∧ pkt.op ≤ 2) ∨ ((segOf pkt.payload).kind ≤ 7 ∧ (!ofKind 0 (segOf pkt.payload) s pkt.dstPart) = true)) := by
    simp only [hmine, Bool.not_true, Bool.false_eq_true, and_false, or_false]
    omega
  have hrejoin : isRejoin x = false := by simp [isRejoin, hkind]
  have hexempt : ¬((x.kind = 7 ∧ (x.body.headD 0#8).toNat = 2) ∨
      ((((u.dataArrived pkt.dstPart pkt).bufErrors pkt.dstPart pkt).part pkt.dstPart).run.holds.contains .rejoin = true ∧ isRejoin x = true)) := by
    simp [hkind, hrejoin]
  unfold State.segEvent
  simp only [if_neg hother, htake]
  rw [if_pos ⟨by rwa [Bool.not_eq_true', decide_eq_false_iff_not], hepoch⟩]

/-- Settles O38: the contribution is dropped, and a drop moves nothing but a count and the stale count of the operation that it names. -/
theorem segmentsOfOtherEpochsAreDropped : Obligations.SegmentsOfOtherEpochsAreDropped := by
  intro s u v pkt p fixed bad hop hpart htake hv x older hepoch hkind
  exact ⟨answer_of_ok rfl (State.segEvent_otherEpoch hop hpart htake hv _ hepoch hkind), State.mem_epochDrop v p x older,
    State.epochDrop_reads v p x older (fun q => q.coll.roots) (fun _ _ => rfl) p, State.epochDrop_reads v p x older Part.run (fun _ _ => rfl) p,
    State.op_epochDrop v p x older⟩

/-! ## The books of a DIRECT stage (R196) -/

/-- The runs of the collective source touch temper engines alone, and draw free values. -/
theorem State.collRuns_reads {α : Type} (π : State → α) (hπ : ∀ (t : State) h f n, π { t.modTemper h f with free := n } = π t) (s : State) (p : Nat) (fl : List Nat) :
    π (s.collRuns p fl) = π s := by
  unfold State.collRuns
  dsimp only
  split_ifs
  · rfl
  · exact State.each_reads π (fun t x _ => hπ t _ _ _) s

/-- From `s` to `t` memory and the operations of every partition are as they were. -/
structure OpsKept (s t : State) : Prop where
  mem : t.mem = s.mem
  ops : ∀ q, (t.part q).coll.ops = (s.part q).coll.ops

section
variable {a s : State}

theorem OpsKept.refl (s : State) : OpsKept s s := ⟨rfl, fun _ => rfl⟩

theorem OpsKept.collRuns (h : OpsKept a s) (p : Nat) (fl : List Nat) : OpsKept a (s.collRuns p fl) :=
  ⟨(State.collRuns_reads State.mem (fun _ _ _ _ => rfl) s p fl).trans h.mem,
    fun q => (State.collRuns_reads (fun t => (t.part q).coll.ops) (fun _ _ _ _ => rfl) s p fl).trans (h.ops q)⟩

theorem OpsKept.modColl (h : OpsKept a s) (p : Nat) {f : Coll → Coll} (hf : ∀ c, (f c).ops = c.ops) : OpsKept a (s.modColl p f) :=
  ⟨h.mem, fun q => (State.modPart_reads (fun y => y.coll.ops) (fun y => hf y.coll) s p q).trans (h.ops q)⟩

theorem OpsKept.modRun (h : OpsKept a s) (p : Nat) (f : Run → Run) : OpsKept a (s.modRun p f) :=
  ⟨h.mem, fun q => (State.modPart_reads (f := fun y => { y with run := f y.run }) (fun y => y.coll.ops) (fun _ => rfl) s p q).trans (h.ops q)⟩

theorem OpsKept.raise (h : OpsKept a s) (r : FaultRec) : OpsKept a (s.raise r) := ⟨h.mem, h.ops⟩

theorem OpsKept.ite {t : State} (c : Prop) [Decidable c] (h : OpsKept a s) (k : OpsKept a t) : OpsKept a (if c then s else t) := by
  split_ifs
  · exact h
  · exact k

theorem OpsKept.modRunIf (h : OpsKept a s) (c : Prop) [Decidable c] (p : Nat) (f : Run → Run) : OpsKept a (if c then s.modRun p f else s) :=
  .ite c (h.modRun p f) h

theorem OpsKept.raiseUnless (h : OpsKept a s) (c : Prop) [Decidable c] (r : FaultRec) : OpsKept a (if c then s else s.raise r) := .ite c h (h.raise r)

/-- One change of operations, made before what keeps them or after it. -/
theorem OpsKept.modOp (h : OpsKept a s) (p n : Nat) (f : CollOp → CollOp) : OpsKept (a.modOp p n f) (s.modOp p n f) where
  mem := h.mem
  ops q := by
    by_cases hq : q = p
    · rw [hq, State.coll_modOp_self, State.coll_modOp_self, Coll.modOp, Coll.modOp, h.ops]
    · have hother : ∀ t : State, (t.modOp p n f).part q = t.part q := fun t => getD_updAt_ne _ _ _ _ _ hq
      rw [hother, hother, h.ops]

end

/-- What the close of a DIRECT stage on axis `a` of operation `o` books: `q` becomes `r`. -/
structure DirectBooked (o : CollOp) (a : Nat) (q r : CollOp) : Prop where
  insn : r.insn = q.insn
  expected : r.expected = q.expected + cgDim o.group a
  received : r.received = q.received + (o.heard.filter fun h => h.2.1 == 0).length
  late : r.late = q.late + if cgCarry o.group then cgDim o.group a - o.heard.length else 0
  dropped : r.dropped = q.dropped + ((o.heard.filter fun h => h.2.1 == 1).length +
    ((cgDim o.group a - o.heard.length) - if cgCarry o.group then cgDim o.group a - o.heard.length else 0))

/-- A part that is not empty is booked on its operation; nothing else changes an operation, or memory. -/
theorem State.closeDirect_booked (s : State) (p : Nat) {o : CollOp} {a : Nat} (code : Nat) (hpart : (cgPart o.group o.desc a (cgMine o.group a)).2 ≠ 0) :
    ∃ f : CollOp → CollOp, (∀ q, DirectBooked o a q (f q)) ∧ OpsKept (s.modOp p o.insn f) (s.closeDirect p o a code) := by
  unfold State.closeDirect
  dsimp only
  rw [if_neg hpart]
  refine ⟨_, fun q => ?booked, ((((((OpsKept.refl s).collRuns p _).collRuns p _).modOp p o.insn _).modColl p ?carries).modRunIf _ p _).raiseUnless _ _⟩
  case booked => exact ⟨rfl, rfl, rfl, rfl, rfl⟩
  case carries => exact fun _ => rfl

/-- Contributions heard carried payload or were empty. -/
theorem length_payload_add_empty {α : Type} (l : List (Nat × Nat × α)) (h : ∀ x ∈ l, x.2.1 ≤ 1) :
    (l.filter fun x => x.2.1 == 0).length + (l.filter fun x => x.2.1 == 1).length = l.length := by
  have hempty : (l.filter fun x => x.2.1 == 1) = l.filter fun x => !(x.2.1 == 0) := List.filter_congr fun x hx => by
    have hle := h x hx
    rw [Bool.eq_iff_iff]
    simp only [beq_iff_eq, Bool.not_eq_true', beq_eq_false_iff_ne]
    omega
  rw [hempty, ← List.length_eq_length_filter_add]

/-- Books that were balanced stay so, as each of the d contributions is booked once. -/
theorem DirectBooked.balanced {o q r : CollOp} {a : Nat} (hbooked : DirectBooked o a q r) (hheard : o.heard.length ≤ cgDim o.group a)
    (hends : ∀ h ∈ o.heard, h.2.1 ≤ 1) (hbal : q.expected = q.received + q.late + q.dropped) : r.expected = r.received + r.late + r.dropped := by
  have hsplit := length_payload_add_empty o.heard hends
  rw [hbooked.expected, hbooked.received, hbooked.late, hbooked.dropped]
  split_ifs <;> omega

/-- Settles O39: the close books the stage on its operation, and what it books adds up to d. -/
theorem directStageBooksBalance : Obligations.DirectStageBooksBalance := by
  intro s p o a code _ _ hop hpart hheard hends hbal
  obtain ⟨f, hbooked, hkept⟩ := State.closeDirect_booked s p code hpart
  have hfound : ((s.closeDirect p o a code).part p).coll.op o.insn = some (f o) := by
    rw [Coll.op, hkept.ops, State.coll_modOp_self, ← Coll.op, Coll.op_modOp (fun q => (hbooked q).insn), hop]
    simp
  exact ⟨f o, hfound, (hbooked o).expected, (hbooked o).received, (hbooked o).late, (hbooked o).balanced hheard hends hbal, hkept.mem⟩

/-! ## The timers (R185, R194, R200, R201) -/

section
variable {s : State} {p n : Nat}

theorem doFlagRootTimeout_due {g : Nat} {r : RootFlag} (hgroup : s.group p n = some g) (hwait : cgWait g ≠ 0) (hmiss : cgFlagMiss g ≠ 0)
    (hroot : ((s.part p).coll.roots.find? fun r => r.group == n && !r.closed && (match r.taken with | some t => cgWait g ≤ s.tick - t | none => false)) = some r) :
    doFlagRootTimeout p n s = (s.rootClose p g r.step r.occ 0 0).collSettle p := by
  unfold doFlagRootTimeout
  rw [hgroup]
  dsimp only
  rw [if_neg (by simp [hwait, hmiss])]
  split
  case h_1 found hfind => rw [Option.some.inj (hfind.symm.trans hroot)]
  case h_2 hfind => exact absurd (hroot.symm.trans hfind) (Option.some_ne_none r)

theorem doDirectStageTimeout_due {o : CollOp} {a t : Nat} {rest : List Stage} (hop : (s.part p).coll.op n = some o) (hstages : o.stages = ⟨a, false⟩ :: rest)
    (htick : o.stageTick = some t) (hreleased : o.released = true) (hdone : o.done = false) (hdirect : cgDirect o.group a = true) (hwait : cgWait o.group ≠ 0)
    (hlate : cgWait o.group ≤ s.tick - t) (fixed bad : HeldErrs) :
    doDirectStageTimeout p ⟨n, fixed, bad⟩ s =
      let hit := markPairs (markedBy o.accum.length fixed bad) o.accum
      let v := (s.addErrors p o.accum.length fixed bad).modOp p n fun q => { q with accum := markPairs (markedBy o.accum.length fixed bad) q.accum }
      (State.advanceOp p n 8 ((v.closeDirect p { o with accum := hit } a 2).nextStage p n)).collSettle p := by
  simp only [doDirectStageTimeout, hop, hstages, htick, hreleased, hdone, hdirect, beq_eq_false_iff_ne.2 hwait, decide_eq_false hlate.not_gt, Bool.not_true,
    Bool.or_self, Bool.false_eq_true, ↓reduceIte]

theorem doGroupCfg_due (hhold : (s.part p).run.holds.contains .confirm = true) (hgroup : (s.group p n).isSome = true)
    (hopen : (s.part p).coll.confirmed.contains n = false) (hlate : s.waitLimit p < s.tick - (s.part p).coll.confirmFrom) :
    doGroupCfg p n s = (s.modColl p fun c => { c with confirmFrom := s.tick }).raise { recPart p sevPart 0x54 with detail := n } := by
  simp only [doGroupCfg, hhold, hgroup, hopen, hlate, Bool.not_false, and_self, ↓reduceIte]

end

/-- Settles O40: each timer finds its conditions met, and does its own part. -/
theorem collectiveTimersComplete : Obligations.CollectiveTimersComplete := by
  intro s p n hp
  have hok : okPart p = true := decide_eq_true hp
  refine ⟨fun g r t _ hgroup hwait hmiss hroot _ => ?root, fun l hl _ => ?decide, fun o a rest t fixed bad hop hstages htick hreleased hdone hdirect hwait hlate => ?stage,
    fun _ hhold hgroup hopen hlate => ?group⟩
  case root => exact answer_of_ok hok (doFlagRootTimeout_due hgroup hwait hmiss hroot)
  case decide => exact answer_of_ok hok (hl ▸ rfl)
  case stage => exact answer_of_ok hok (doDirectStageTimeout_due hop hstages htick hreleased hdone hdirect hwait hlate fixed bad)
  case group => exact answer_of_ok hok (doGroupCfg_due hhold hgroup hopen hlate)

end Sys2Proof.Machine
end

section
/-! PROOF. Hall transport (chapter 10): what sending a packet leaves as it was, the checks of a received packet, and accesses from outside (R219-R221, R229,
R237). -/

namespace Sys2Proof.Machine

/-! ## What sending packets leaves as it was (R215, R218, R222-R228) -/

@[simp] theorem Fabric.root_modChan (f : Fabric) (m q : Nat) (g : Chan → Chan) : (f.modChan m q g).root = f.root := by
  unfold Fabric.modChan
  split_ifs <;> rfl

/-- From `s` to `t` partition `p` sent and acknowledged packets: memory, its marks and valid pages, and the hub's queue are as they were; where the copies of
its root pointer agree, so that no read of them is recorded, the hub and the pointer are too. -/
structure Sending (p : Nat) (s t : State) : Prop where
  mem : t.mem = s.mem
  marks : t.marks = s.marks
  hearths : t.hearths = s.hearths
  queue : t.hub.queue = s.hub.queue
  voted : ∀ w, vote3 (s.part p).fab.root = some (w, true) → t.hub = s.hub ∧ (t.part p).fab.root = (s.part p).fab.root

section
variable {p : Nat} {a s : State}

theorem Sending.refl (p : Nat) (s : State) : Sending p s s := ⟨rfl, rfl, rfl, rfl, fun _ _ => ⟨rfl, rfl⟩⟩

/-- A change of partitions that keeps their root pointers. -/
theorem Sending.modPart (h : Sending p a s) (q : Nat) {f : Part → Part} (hf : ∀ x, (f x).fab.root = x.fab.root) : Sending p a (s.modPart q f) :=
  ⟨h.mem, h.marks, h.hearths, h.queue, fun w hw =>
    ⟨(h.voted w hw).1, (State.modPart_reads (fun x => x.fab.root) hf s q p).trans (h.voted w hw).2⟩⟩

theorem Sending.modFab (h : Sending p a s) (q : Nat) {f : Fabric → Fabric} (hf : ∀ x, (f x).root = x.root) : Sending p a (s.modFab q f) :=
  h.modPart q fun x => hf x.fab

theorem Sending.modChan (h : Sending p a s) (r m q : Nat) (g : Chan → Chan) : Sending p a (s.modFab r fun f => f.modChan m q g) :=
  h.modFab r fun f => f.root_modChan m q g

theorem Sending.modNet (h : Sending p a s) (f : Net → Net) : Sending p a (s.modNet f) := ⟨h.mem, h.marks, h.hearths, h.queue, h.voted⟩

theorem Sending.count (h : Sending p a s) (c : Ctr) : Sending p a (s.count c) := ⟨h.mem, h.marks, h.hearths, h.queue, h.voted⟩

theorem Sending.emit (h : Sending p a s) (o : Out) : Sending p a (s.emit o) := ⟨h.mem, h.marks, h.hearths, h.queue, h.voted⟩

theorem Sending.ite (h : Sending p a s) {t : State} (k : Sending p a t) (c : Prop) [Decidable c] : Sending p a (if c then s else t) := by
  split_ifs
  · exact h
  · exact k

theorem Sending.each {α : Type} {f : State → α → State} (hf : ∀ t x, Sending p a t → Sending p a (f t x)) (h : Sending p a s) (l : List α) :
    Sending p a (s.each l f) :=
  List.foldlRecOn l f h fun t ht x _ => hf t x ht

/-- Only a read that finds the copies of the root pointer at odds writes them and a record (R229). -/
theorem Sending.voteRoot (h : Sending p a s) : Sending p a (s.voteRoot p) := by
  unfold State.voteRoot
  dsimp only
  split
  case h_1 => exact h
  case h_2 w hw | h_3 hw =>
    refine ⟨h.mem, h.marks, h.hearths, h.queue, fun v hv => ?_⟩
    rw [(h.voted v hv).2, hv] at hw
    cases hw

theorem Sending.egress (h : Sending p a s) (q cls : Nat) (part : Option Nat) (bytes : Nat) (hs : Heads) (x : Pkt) :
    Sending p a (s.egress q cls part bytes hs x) := by
  unfold State.egress
  exact ((h.modNet _).count _).ite (h.modNet _) _

theorem Sending.emitHall (h : Sending p a s) (k : HtPkt) (plane : Nat) : Sending p a (s.emitHall p k plane) := by
  unfold State.emitHall
  exact h.ite ((h.emit _).ite (h.voteRoot.egress _ _ _ _ _ _) _) _

theorem Sending.fellBack (h : Sending p a s) (m : Nat) (fb : Bool) : Sending p a (s.fellBack p m fb) := by
  unfold State.fellBack
  split_ifs
  · exact h.modPart p fun _ => rfl
  · exact h

theorem Sending.launch (h : Sending p a s) (m q : Nat) (x : TxPkt) (avoid : Option Nat) : Sending p a (s.launch p m q x avoid) := by
  unfold State.launch
  split
  case h_1 => exact h
  case h_2 => exact ((h.fellBack _ _).modChan p m q _).emitHall _ _

theorem Sending.sendNow (h : Sending p a s) (k : HtPkt) : Sending p a (s.sendNow p k) := by
  unfold State.sendNow
  dsimp only
  split
  case h_1 => exact h.modFab p fun _ => rfl
  case h_2 => exact (h.fellBack _ _).emitHall _ _

theorem Sending.sendHeld (h : Sending p a s) (m : Nat) : Sending p a (s.sendHeld p m) := by
  unfold State.sendHeld
  exact Sending.each (fun _ k ht => ht.sendNow k) (h.modFab p fun _ => by rfl) _

theorem Sending.creditSent (h : Sending p a s) (o : Owner) : Sending p a (s.creditSent p o) := by
  unfold State.creditSent
  split
  case h_1 => exact h.modPart p fun _ => rfl
  case h_2 => exact h

theorem Sending.pump (h : Sending p a s) (m q : Nat) : Sending p a (s.pump p m q) := by
  unfold State.pump
  exact h.ite (Sending.each (fun _ x ht => (ht.launch m q x none).creditSent x.owner) ((h.sendHeld m).modChan p m q _) _) _

theorem Sending.send (h : Sending p a s) (k : HtPkt) (o : Owner) : Sending p a (s.send p k o) := by
  unfold State.send
  exact (h.modChan p _ _ _).pump _ _

theorem Sending.grantOne (h : Sending p a s) (i : Nat) : Sending p a (s.grantOne p i) := by
  unfold State.grantOne
  dsimp only
  split
  case h_1 => exact h
  case h_2 c _ =>
    split_ifs
    · exact h
    · exact Sending.send (h.modFab p fun f => by exact f.root_modChan _ _ _) _ _

theorem Sending.serveGrants (h : Sending p a s) : Sending p a (s.serveGrants p) := Sending.each (fun _ _ ht => ht.grantOne _) h _

theorem Sending.dataArrived (h : Sending p a s) (k : HtPkt) : Sending p a (s.dataArrived p k) := by
  unfold State.dataArrived
  dsimp only
  split_ifs
  · exact h
  · exact h
  · exact Sending.serveGrants (h.modFab p fun f => by exact f.root_modChan _ _ _)

theorem Sending.sendAck (h : Sending p a s) (m q : Nat) : Sending p a (s.sendAck p m q) := by
  unfold State.sendAck
  exact (h.modChan p m q _).sendNow _

theorem Sending.ackIfDue (h : Sending p a s) (m q : Nat) : Sending p a (s.ackIfDue p m q) := by
  unfold State.ackIfDue
  exact (h.sendAck m q).ite h _

theorem Sending.duplicate (h : Sending p a s) (k : HtPkt) : Sending p a (s.duplicate p k) := by
  unfold State.duplicate
  dsimp only
  split
  case h_1 => exact ((h.count _).sendNow _).sendAck _ _
  case h_2 => exact (h.count _).sendAck _ _

theorem Sending.renewChan (h : Sending p a s) (k : HtPkt) : Sending p a (s.renewChan p k) := by
  unfold State.renewChan
  dsimp only
  split_ifs
  · exact h.modFab p fun f => by exact f.root_modChan _ _ _
  · exact h

/-- What a module loads of its memory, after packets were sent. -/
theorem Sending.load (h : Sending p a s) (la n : Nat) : s.load la n = a.load la n := by
  unfold State.load State.pageValid State.hearth State.bytes
  rw [h.mem, h.hearths]

end

/-! ## The checks (R211, R219, R227, R229) -/

/-- Checks 4 to 6 of R219 and what follows them: the half of `State.receive` that partition `p` does on its own tables. -/
def State.receiveAt (v : State) (p : Nat) (k : HtPkt) : State × Option Nat :=
  let f := (v.part p).fab
  let c := f.chan k.srcModule k.srcPart
  if !f.senderOk v.moduleId k then ((v.count (.check 4)).packetBad p k.srcModule, none)
  else if k.routeGen ≠ f.genOf v.moduleId ∨ k.connGen ≠ c.connGen then (v.count (.check 5), none)
  else if !f.takes v.moduleId k.type then (v, none)
  else if !htReliable k.type then (v, some p)
  else if c.hasGot k.psn then (v.duplicate p k, none)
  else if 256 < psnAhead k.psn c.cum then (v, none)
  else if c.unsolicited k && decide (unsolBytes v.nparts < v.unsolHeld p + k.payload.length) then (v.count .unsolicited, none)
  else (v.modFab p fun f => f.modChan k.srcModule k.srcPart (Chan.accept v.tick k.psn k.ce), some p)

/-- Checks 1 to 3 name no partition's tables. -/
theorem State.receive_eq (s : State) (types : List Nat) (k : HtPkt) : s.receive types k =
    if k.type ≤ 0x0B ∧ !types.contains k.type then (s, none)
    else if k.vid ≠ 0 then (s.count .badTag, none)
    else if s.power.pstate = .p3 ∨ s.power.pstate = .p4 then (s.count .inP3, none)
    else if !s.hasNet ∧ !(k.loop && k.srcModule == s.moduleId) then (s, none)
    else if !k.udpOk ∨ k.icrc ≠ htIcrc k then (s.count (.check 1), none)
    else if !htFormOk k then ((s.count (.check 2)).packetBad 0 k.srcModule, none)
    else if !s.idValid ∨ k.dstModule ≠ s.moduleId ∨ s.nparts ≤ k.dstPart then (s.count (.check 3), none)
    else ((s.voteRoot k.dstPart).renewChan k.dstPart k).receiveAt k.dstPart k := rfl

section
variable {s : State} {types : List Nat} {k : HtPkt} (htype : types.contains k.type = true)
include htype

theorem not_foreign : ¬(k.type ≤ 0x0B ∧ !types.contains k.type) := fun h => by
  rw [htype] at h
  exact absurd h.2 (by decide)

theorem State.receive_tagged (hvid : k.vid ≠ 0) : s.receive types k = (s.count .badTag, none) := by
  rw [State.receive_eq, if_neg (not_foreign htype), if_pos hvid]

variable (hvid : k.vid = 0)
include hvid

theorem State.receive_asleep (hdown : s.power.pstate = .p3 ∨ s.power.pstate = .p4) : s.receive types k = (s.count .inP3, none) := by
  rw [State.receive_eq, if_neg (not_foreign htype), if_neg (not_not.2 hvid), if_pos hdown]

variable (hup : ¬(s.power.pstate = .p3 ∨ s.power.pstate = .p4)) (hnet : s.hasNet = true)
include hup hnet

/-- Past what comes before check 1. -/
theorem State.receive_awake : s.receive types k =
    if !k.udpOk ∨ k.icrc ≠ htIcrc k then (s.count (.check 1), none)
    else if !htFormOk k then ((s.count (.check 2)).packetBad 0 k.srcModule, none)
    else if !s.idValid ∨ k.dstModule ≠ s.moduleId ∨ s.nparts ≤ k.dstPart then (s.count (.check 3), none)
    else ((s.voteRoot k.dstPart).renewChan k.dstPart k).receiveAt k.dstPart k := by
  have hknown : ¬(!s.hasNet ∧ !(k.loop && k.srcModule == s.moduleId)) := fun h => by
    rw [hnet] at h
    exact absurd h.1 (by decide)
  rw [State.receive_eq, if_neg (not_foreign htype), if_neg (not_not.2 hvid), if_neg hup, if_neg hknown]

end

section
variable {v w : State} {p q : Nat} {k : HtPkt}

/-- A check that accepts has let the packet by. -/
theorem accepted_of_ite {c : Prop} [Decidable c] {a : State} {r : State × Option Nat} (h : (if c then (a, none) else r) = (w, some q)) :
    ¬c ∧ r = (w, some q) := by
  by_cases hc : c
  · cases (if_pos hc).symm.trans h
  · exact ⟨hc, (if_neg hc).symm.trans h⟩

/-- A packet accepted is noted on the partition's channel, where it is reliable, and everything else is as it was. -/
theorem State.receiveAt_some (h : v.receiveAt p k = (w, some q)) :
    q = p ∧ (w = v ∨ w = v.modFab p fun f => f.modChan k.srcModule k.srcPart (Chan.accept v.tick k.psn k.ce)) := by
  have hrel := (accepted_of_ite (accepted_of_ite (accepted_of_ite h).2).2).2
  by_cases hc : (!htReliable k.type) = true
  · obtain ⟨rfl, hq⟩ := Prod.mk.inj ((if_pos hc).symm.trans hrel)
    exact ⟨(Option.some.inj hq).symm, .inl rfl⟩
  · have hnew := (accepted_of_ite (accepted_of_ite (accepted_of_ite ((if_neg hc).symm.trans hrel)).2).2).2
    obtain ⟨rfl, hq⟩ := Prod.mk.inj hnew
    exact ⟨(Option.some.inj hq).symm, .inr rfl⟩

/-- A packet accepted has the form of its type, and the partition that it names accepts it. -/
theorem State.receive_some {s : State} {types : List Nat} (h : s.receive types k = (w, some p)) :
    htFormOk k = true ∧ p = k.dstPart ∧ ((s.voteRoot p).renewChan p k).receiveAt p k = (w, some p) := by
  rw [State.receive_eq] at h
  have hchecked := (accepted_of_ite (accepted_of_ite (accepted_of_ite (accepted_of_ite (accepted_of_ite h).2).2).2).2).2
  obtain ⟨hform, hdst⟩ := accepted_of_ite hchecked
  have hat := (accepted_of_ite hdst).2
  obtain ⟨rfl, -⟩ := State.receiveAt_some hat
  exact ⟨by simpa using hform, rfl, hat⟩

end

/-! ## Packets that the transport accepts -/

section
variable {s u : State} {types : List Nat} {k : HtPkt} {p : Nat}

/-- Taking a packet on its channel is sending for the books that `Sending` speaks of: at most an old channel is renewed and its number noted. -/
theorem Sending.receive {v : State} (h : s.receive types k = (v, some p)) : Sending p s v := by
  obtain ⟨-, -, hat⟩ := State.receive_some h
  obtain ⟨-, rfl | rfl⟩ := State.receiveAt_some hat
  · exact (Sending.refl p s).voteRoot.renewChan k
  · exact ((Sending.refl p s).voteRoot.renewChan k).modChan p _ _ _

/-- Only packets with an answer or a message in them have their payload read at once. -/
theorem State.bufErrors_of_type (s : State) (p : Nat) (h : k.type ≠ 2 ∧ k.type ≠ 3 ∧ k.type ≠ 6) : s.bufErrors p k = s := if_pos h

theorem State.gets.sending (h : s.gets types k p u) (htype : k.type ≠ 2 ∧ k.type ≠ 3 ∧ k.type ≠ 6) : Sending p s u := by
  obtain ⟨v, hv, rfl⟩ := h
  rw [State.bufErrors_of_type v p htype]
  exact Sending.receive hv

theorem State.gets.formOk (h : s.gets types k p u) : htFormOk k = true := by
  obtain ⟨v, hv, -⟩ := h
  exact (State.receive_some hv).1

variable (h : s.gets types k p u) {mine : HtPkt → Bool} {act : State → Nat → State} {t : State} (hmine : mine k = true) (hact : act u p = t)
include h hmine hact

/-- A packet of a reliable type has its effect, and is acknowledged when that is due. -/
theorem answer_packetEvent_reliable (hrel : htReliable k.type = true) :
    answer true (s.packetEvent types mine k act) = .next ((t.dataArrived p k).ackIfDue p k.srcModule k.srcPart) := by
  refine answer_of_ok rfl ?_
  rw [State.packetEvent_of_gets h act hmine, if_pos hrel, hact]

/-- One of another type has its effect. -/
theorem answer_packetEvent_unreliable (hrel : htReliable k.type = false) : answer true (s.packetEvent types mine k act) = .next t := by
  refine answer_of_ok rfl ?_
  rw [State.packetEvent_of_gets h act hmine, hrel]
  exact hact

end

theorem htReliable_of_type {k : HtPkt} {n : Nat} {b : Bool} (htype : k.type = n) (hn : htReliable n = b) : htReliable k.type = b := htype ▸ hn

theorem ofOp_of_op {k : HtPkt} {n : Nat} (hop : k.op = n) : ofOp n k = true := beq_iff_eq.2 hop

theorem ctlPkt_of_payload {k : HtPkt} {n : Nat} {bs : List Byte} (hop : k.op = n) (hbody : k.payload = bs) : ctlPkt n bs k = true := by
  rw [ctlPkt, hop, hbody, beq_self_eq_true, beq_self_eq_true]
  rfl

section
variable {v : State} {p : Nat} {k : HtPkt} (hsender : (v.part p).fab.senderOk v.moduleId k = true)

theorem State.receiveAt_badSender (h : (v.part p).fab.senderOk v.moduleId k = false) :
    v.receiveAt p k = ((v.count (.check 4)).packetBad p k.srcModule, none) := by
  rw [State.receiveAt, h]
  exact if_pos rfl

include hsender

theorem State.receiveAt_oldGeneration
    (h : k.routeGen ≠ (v.part p).fab.genOf v.moduleId ∨ k.connGen ≠ ((v.part p).fab.chan k.srcModule k.srcPart).connGen) :
    v.receiveAt p k = (v.count (.check 5), none) := by
  rw [State.receiveAt, hsender]
  exact (if_neg Bool.false_ne_true).trans (if_pos h)

variable (hroute : k.routeGen = (v.part p).fab.genOf v.moduleId) (hconn : k.connGen = ((v.part p).fab.chan k.srcModule k.srcPart).connGen)
include hroute hconn

/-- Past checks 4 and 5. -/
theorem State.receiveAt_known : v.receiveAt p k =
    let c := (v.part p).fab.chan k.srcModule k.srcPart
    if !(v.part p).fab.takes v.moduleId k.type then (v, none)
    else if !htReliable k.type then (v, some p)
    else if c.hasGot k.psn then (v.duplicate p k, none)
    else if 256 < psnAhead k.psn c.cum then (v, none)
    else if c.unsolicited k && decide (unsolBytes v.nparts < v.unsolHeld p + k.payload.length) then (v.count .unsolicited, none)
    else (v.modFab p fun f => f.modChan k.srcModule k.srcPart (Chan.accept v.tick k.psn k.ce), some p) := by
  have hsame : ¬(k.routeGen ≠ (v.part p).fab.genOf v.moduleId ∨ k.connGen ≠ ((v.part p).fab.chan k.srcModule k.srcPart).connGen) :=
    not_or.2 ⟨not_not.2 hroute, not_not.2 hconn⟩
  rw [State.receiveAt, hsender]
  exact (if_neg Bool.false_ne_true).trans (if_neg hsame)

theorem State.receiveAt_spare (h : (v.part p).fab.takes v.moduleId k.type = false) : v.receiveAt p k = (v, none) := by
  rw [State.receiveAt_known hsender hroute hconn, h]
  exact if_pos rfl

variable (htakes : (v.part p).fab.takes v.moduleId k.type = true)
include htakes

theorem State.receiveAt_unreliable (h : htReliable k.type = false) : v.receiveAt p k = (v, some p) := by
  rw [State.receiveAt_known hsender hroute hconn, htakes, h]
  exact (if_neg Bool.false_ne_true).trans (if_pos rfl)

variable (hrel : htReliable k.type = true)
include hrel

theorem State.receiveAt_again (h : ((v.part p).fab.chan k.srcModule k.srcPart).hasGot k.psn = true) : v.receiveAt p k = (v.duplicate p k, none) := by
  rw [State.receiveAt_known hsender hroute hconn, htakes, hrel]
  exact (if_neg Bool.false_ne_true).trans ((if_neg Bool.false_ne_true).trans (if_pos h))

variable (hnew : ((v.part p).fab.chan k.srcModule k.srcPart).hasGot k.psn = false)
  (hnear : psnAhead k.psn ((v.part p).fab.chan k.srcModule k.srcPart).cum ≤ 256)
include hnew hnear

/-- A packet not had before, within reach of the replay entries: taken unless it is data for which the buffer has no room. -/
theorem State.receiveAt_first : v.receiveAt p k =
    if ((v.part p).fab.chan k.srcModule k.srcPart).unsolicited k && decide (unsolBytes v.nparts < v.unsolHeld p + k.payload.length) then (v.count .unsolicited, none)
    else (v.modFab p fun f => f.modChan k.srcModule k.srcPart (Chan.accept v.tick k.psn k.ce), some p) := by
  rw [State.receiveAt_known hsender hroute hconn, htakes, hrel]
  exact (if_neg Bool.false_ne_true).trans ((if_neg Bool.false_ne_true).trans ((if_neg (Bool.eq_false_iff.1 hnew)).trans (if_neg hnear.not_gt)))

end

/-- Settles O41: the packet passes the checks before one, and fails that one; a repeat is only answered and acknowledged. -/
theorem packetChecksInOrder : Obligations.PacketChecksInOrder := by
  intro s types k htype
  refine ⟨State.receive_tagged htype, State.receive_asleep htype, fun hvid hp3 hp4 hnet => ?_⟩
  intro bad1 bad3 p v f c
  have hawake := State.receive_awake htype hvid (not_or.2 ⟨hp3, hp4⟩) hnet
  have hbad1 : (!k.udpOk ∨ k.icrc ≠ htIcrc k) ↔ bad1 := by rw [Bool.not_eq_true']
  have hbad3 : (!s.idValid ∨ k.dstModule ≠ s.moduleId ∨ s.nparts ≤ k.dstPart) ↔ bad3 := by rw [Bool.not_eq_true']
  refine ⟨fun h1 => ?marker, fun h1 h2 => ?form, fun h1 h2 h3 => ?dest, fun h1 h2 h3 => ?_⟩
  case marker => rw [hawake, if_pos (hbad1.2 h1)]
  case form => rw [hawake, if_neg (hbad1.not.2 h1), h2]; exact if_pos rfl
  case dest => rw [hawake, if_neg (hbad1.not.2 h1), h2, if_pos (hbad3.2 h3)]; exact if_neg Bool.false_ne_true
  have hat : s.receive types k = v.receiveAt p k := by
    rw [hawake, if_neg (hbad1.not.2 h1), h2, if_neg (hbad3.not.2 h3)]
    exact if_neg Bool.false_ne_true
  rw [hat]
  refine ⟨State.receiveAt_badSender, fun hsender => ⟨State.receiveAt_oldGeneration hsender, fun hroute hconn =>
    ⟨State.receiveAt_spare hsender hroute hconn, fun htakes => ⟨State.receiveAt_unreliable hsender hroute hconn htakes, fun hrel hgot => ?again,
      fun hrel hnew hnear => ?first⟩⟩⟩⟩
  case again =>
    have hsent : Sending p s (v.duplicate p k) := ((Sending.refl p s).voteRoot.renewChan k).duplicate k
    exact ⟨State.receiveAt_again hsender hroute hconn htakes hrel hgot, hsent.mem, hsent.marks⟩
  case first =>
    intro full
    have hfull : (c.unsolicited k && decide (unsolBytes v.nparts < v.unsolHeld p + k.payload.length)) = true ↔ full := by
      rw [Bool.and_eq_true, decide_eq_true_eq]
    rw [State.receiveAt_first hsender hroute hconn htakes hrel hnew hnear]
    exact ⟨fun h => if_pos (hfull.2 h), fun h => if_neg (hfull.not.2 h)⟩

/-! ## Accesses from outside (R220, R221, R237) -/

/-- Seal records are read where others have written them; memory is as the write left it. -/
theorem State.load_sealsLanded (s : State) (p la n a m : Nat) : (s.sealsLanded p la n).load a m = s.load a m := by
  have hseals : (s.loadSeals p).load a m = s.load a m := by
    unfold State.loadSeals
    dsimp only
    split
    · rfl
    · refine State.each_reads (fun t : State => t.load a m) (fun t j _ => ?_) s
      split_ifs <;> rfl
  unfold State.sealsLanded
  split
  · split_ifs
    · exact hseals
    · rfl
  · rfl

section
variable {u : State} {k : HtPkt} {p : Nat} (hlen : 0 < k.length)
include hlen

theorem State.takeWrite_outOfReach (hreach : u.targetOk p k.srcModule k.srcPart k.addr k.length [0, 1, 2, 3] = false) (fixed bad : List Nat) :
    u.takeWrite k fixed bad p = u.addrErr p k.addr := by
  rw [State.takeWrite, if_neg hlen.ne', hreach]
  exact if_neg Bool.false_ne_true

variable (hreach : u.targetOk p k.srcModule k.srcPart k.addr k.length [0, 1, 2, 3] = true)
include hreach

/-- In reach, a payload without errors is saved whole. -/
theorem State.takeWrite_saves : u.takeWrite k [] [] p =
    (u.save (gLocal k.addr) k.payload k.slag).sealsLanded p (gLocal k.addr) k.payload.length := by
  have hnone : linesHit (gLocal k.addr) k.payload.length [] = [] := by simp [linesHit]
  rw [State.takeWrite, if_neg hlen.ne', if_pos hreach]
  dsimp only
  rw [hnone]
  rfl

/-- The bytes are read back at the address, and every other byte reads as before. -/
theorem State.load_takeWrite (hhearths : u.hearths.length = 256) (hform : htFormOk k = true) :
    (u.takeWrite k [] [] p).load (gLocal k.addr) k.length = k.payload ∧
      ∀ a, ¬(gLocal k.addr ≤ a ∧ a < gLocal k.addr + k.length) → (u.takeWrite k [] [] p).load a 1 = u.load a 1 := by
  have hown : u.ownRange p k.addr k.length [0, 1, 2, 3] = true := (Bool.and_eq_true_iff.1 hreach).1
  have hbody : k.length = k.payload.length := by
    simp only [htFormOk, Bool.and_eq_true, beq_iff_eq] at hform
    exact hform.1.1.1.2
  obtain ⟨-, hspace, hfits⟩ := State.inSpace_of_ownRange hown
  rw [State.takeWrite_saves hlen hreach]
  rw [hbody] at hspace hfits ⊢
  have hstands := (State.stands_nil u (gLocal k.addr)).save hhearths (ys := k.payload) (by rwa [List.length_nil, Nat.zero_add]) k.slag
  refine ⟨?_, fun a hout => ?_⟩
  · rw [State.load_sealsLanded]
    exact hstands.load hspace
  · rw [State.load_sealsLanded]
    exact State.load_save_out u hout (fun _ => hfits) k.slag

end

/-- Settles O42: the write is done on the state as the packet was taken, and acknowledging it moves no byte. -/
theorem writesLand : Obligations.WritesLand := by
  intro s u k p hshaped htype hlen hgets
  have hsent : Sending p s u := hgets.sending (by rw [htype]; decide)
  have hrel := htReliable_of_type htype (b := true) rfl
  refine ⟨fun hreach => ?lands, fun hreach fixed bad => ⟨?refused, ?kept⟩⟩
  case lands =>
    obtain ⟨-, hhearths, -⟩ := hshaped
    obtain ⟨hin, hout⟩ := State.load_takeWrite hlen hreach (by rw [hsent.hearths, hhearths]) hgets.formOk
    have hack := ((Sending.refl p (u.takeWrite k [] [] p)).dataArrived k).ackIfDue k.srcModule k.srcPart
    refine ⟨_, answer_packetEvent_reliable hgets rfl rfl hrel, ?_, fun a ha => ?_⟩
    · rw [hack.load, hin]
    · rw [hack.load, hout a ha, hsent.load]
  case refused => exact answer_packetEvent_reliable hgets rfl (State.takeWrite_outOfReach hlen hreach fixed bad) hrel
  case kept =>
    have hack := ((Sending.refl p (u.addrErr p k.addr)).dataArrived k).ackIfDue k.srcModule k.srcPart
    exact hack.mem.trans hsent.mem

section
variable {u : State} {k : HtPkt} {p : Nat}

theorem State.takeRead_inReach (hreach : u.targetOk p k.srcModule k.srcPart k.addr k.aux [0, 1, 2, 3] = true) :
    u.takeRead k p =
      let v := u.meet [(gLocal k.addr, k.aux)] k.found
      (v.addRbw p (v.rbwLines (gLocal k.addr) k.aux)).respond p 2 k (v.load (gLocal k.addr) k.aux) (v.loadMark (gLocal k.addr) k.aux) := if_pos hreach

theorem State.takeRead_outOfReach (hreach : u.targetOk p k.srcModule k.srcPart k.addr k.aux [0, 1, 2, 3] = false) :
    u.takeRead k p = (u.addrErr p k.addr).respond p 2 k (List.replicate k.aux 0#8) true := if_neg (Bool.eq_false_iff.1 hreach)

/-- An atomic's word written, its old value kept for a repeat and answered. -/
def State.atomicDone (v : State) (k : HtPkt) (p new : Nat) : State :=
  let old := v.word (gLocal k.addr) 8
  ((v.store (gLocal k.addr) (leBytes 8 new) false).modFab p fun f => f.modChan k.srcModule k.srcPart fun c =>
    { c with atomics := (c.atomics ++ [({ psn := k.psn, old := old, slag := false } : Atomic)]).drop (c.atomics.length + 1 - 256) }).respond p 4 k (leBytes 8 old) false

theorem State.takeAtomic_unmarked (halign : k.addr % 8 = 0) (hreach : u.targetOk p k.srcModule k.srcPart k.addr 8 [0, 1, 2] = true)
    (hclean : (u.meet [(gLocal k.addr, 8)] k.found).marked (gLocal k.addr) 8 = false) (hbuf : k.bufBad = []) :
    u.takeAtomic k p =
      let v := u.meet [(gLocal k.addr, 8)] k.found
      v.atomicDone k p (atomicNew k.op (v.word (gLocal k.addr) 8) (leNat (k.payload.take 8)) (leNat ((k.payload.drop 8).take 8))) := by
  have hperforms : ¬(k.addr % 8 ≠ 0 ∨ !u.targetOk p k.srcModule k.srcPart k.addr 8 [0, 1, 2]) := by simp [halign, hreach]
  have hgood : ¬((u.meet [(gLocal k.addr, 8)] k.found).marked (gLocal k.addr) 8 ∨ !k.bufBad.isEmpty) := by simp [hclean, hbuf]
  exact (if_neg hperforms).trans (if_neg hgood)

end

/-- Settles O43: a read is answered from memory as it is after the errors met; an atomic of each op differs in the new value alone. -/
theorem readsAndAtomicsAnswer : Obligations.ReadsAndAtomicsAnswer := by
  intro s u k p ack la
  refine ⟨fun htype hgets hreach => ?read, fun htype hgets hreach => ?refused, fun htype hgets halign hreach => ?atomic⟩
  case read => exact answer_packetEvent_reliable hgets rfl (State.takeRead_inReach hreach) (htReliable_of_type htype rfl)
  case refused => exact answer_packetEvent_reliable hgets rfl (State.takeRead_outOfReach hreach) (htReliable_of_type htype rfl)
  case atomic =>
    intro v hclean hbuf old a b after
    have hrel := htReliable_of_type htype (b := true) rfl
    have hact := State.takeAtomic_unmarked halign hreach hclean hbuf
    refine ⟨fun hop => ?_, fun hop => ?_, fun hop => ?_⟩ <;> rw [hop] at hact <;>
      exact answer_packetEvent_reliable hgets (ofOp_of_op hop) hact hrel

end Sys2Proof.Machine
end

section
/-! PROOF. Acknowledgements, answers and grants of a channel (R222, R226-R228). -/

namespace Sys2Proof.Machine

section
variable (s : State) (k : HtPkt) (p : Nat)

/-- The outstanding packets that an ACK covers. -/
def State.covered : List TxPkt :=
  ((s.part p).fab.chan k.srcModule k.srcPart).out.filter (ackCovers (leNat (k.payload.take 4)) (leNat ((k.payload.drop 4).take 8)))

/-- These dropped from their channel, whose window the ACK steers. -/
def State.dropCovered : State := s.modFab p fun f =>
  ((s.covered k p).foldl (fun (f : Fabric) x => f.dropOut k.srcModule k.srcPart x) f).modChan k.srcModule k.srcPart
    (Chan.steerWindow s.tick f.window (s.covered k p).length (leNat ((k.payload.drop 12).take 2)))

theorem State.takeAck_eq : s.takeAck k p =
    ((if (s.covered k p).isEmpty then s.dropCovered k p else (s.dropCovered k p).modFab p fun f => f.endRollback k.srcModule k.srcPart).each (s.covered k p)
      fun t x => t.ownerDone p x.owner).pump p k.srcModule k.srcPart := rfl

variable {s k p}

theorem State.takeAck_nothing (hnone : s.covered k p = []) : s.takeAck k p = (s.dropCovered k p).pump p k.srcModule k.srcPart := by
  rw [State.takeAck_eq, hnone]
  rfl

theorem State.takeAck_some (hsome : s.covered k p ≠ []) : s.takeAck k p =
    (((s.dropCovered k p).modFab p fun f => f.endRollback k.srcModule k.srcPart).each (s.covered k p) fun t x => t.ownerDone p x.owner).pump p k.srcModule
      k.srcPart := by
  rw [State.takeAck_eq, if_neg (fun hnil => hsome (List.isEmpty_iff.1 hnil))]

/-! ## Answers (R222, R227, R261) -/

section
variable {x : TxPkt}

theorem State.takeAnswerPkt_read (htype : k.type = 2) (hout : ((s.part p).fab.chan k.srcModule k.srcPart).outAt 1 k.psn = some x) :
    s.takeAnswerPkt k p = ((((s.modFab p fun f => f.dropOut k.srcModule k.srcPart x).landRead p x.owner (padTo x.pkt.aux 0#8 (k.payload.take x.pkt.aux))
      (senderMarks (senderOf k) 0 x.pkt.aux))).serveGrants p).pump p k.srcModule k.srcPart := by
  unfold State.takeAnswerPkt
  rw [htype, hout]
  rfl

variable (htype : k.type = 4) (hout : ((s.part p).fab.chan k.srcModule k.srcPart).outAt 3 k.psn = some x)
include htype hout

/-- The result of an atomic is of use to none but the FETCH_ADD of a round word. -/
theorem State.takeAnswerPkt_atomic : s.takeAnswerPkt k p =
    ((match x.owner, k.slag with
      | .roundAdd r, true => (s.modFab p fun f => f.dropOut k.srcModule k.srcPart x).modOuter p fun o => { o with added := o.added.filter (· != r) }
      | _, _ => s.modFab p fun f => f.dropOut k.srcModule k.srcPart x).serveGrants p).pump p k.srcModule k.srcPart := by
  unfold State.takeAnswerPkt
  rw [htype, hout]
  rfl

theorem State.takeAnswerPkt_atomicGood (hslag : k.slag = false) :
    s.takeAnswerPkt k p = ((s.modFab p fun f => f.dropOut k.srcModule k.srcPart x).serveGrants p).pump p k.srcModule k.srcPart := by
  rw [State.takeAnswerPkt_atomic htype hout, hslag]
  cases x.owner <;> rfl

theorem State.takeAnswerPkt_atomicLost {r : Nat} (hslag : k.slag = true) (howner : x.owner = .roundAdd r) :
    s.takeAnswerPkt k p = (((s.modFab p fun f => f.dropOut k.srcModule k.srcPart x).modOuter p fun o => { o with added := o.added.filter (· != r) }).serveGrants p).pump
      p k.srcModule k.srcPart := by
  rw [State.takeAnswerPkt_atomic htype hout, hslag, howner]

end

/-- With no restore under way an answer of a read is used like any other; a gather that waited for it goes on. -/
theorem State.takeReadResp_noRestore (hnone : (s.part p).restore = none) : s.takeReadResp k p =
    let t := s.takeAnswerPkt k p
    if (t.part p).run.holds.contains .gather ∧ !(t.part p).run.holds.contains .rollback then t.roundLayout p else t := by
  unfold State.takeReadResp
  rw [hnone]
  rfl

theorem State.takeReturn_within (hle : 64 * k.aux ≤ ((s.part p).fab.chan k.srcModule k.srcPart).issued) : s.takeReturn k p =
    (s.modFab p fun f => { f.modChan k.srcModule k.srcPart fun c => { c with issued := c.issued - 64 * k.aux } with
      poolIssued := f.poolIssued - 64 * k.aux }).serveGrants p := by
  unfold State.takeReturn
  rw [Nat.min_eq_left hle]

end

/-- Settles O44: the transport has accepted the packet, so that its row takes it, on the outstanding packet that it answers or the books that it names. -/
theorem channelEventsComplete : Obligations.ChannelEventsComplete := by
  intro s u k p m q fin
  refine ⟨fun htype hgets => ?ack, fun x htype hgets hout hslag => ?atomic, fun x r htype hgets hout hslag howner => ?atomicLost,
    fun x htype hgets hnone hout => ?read, fun htype hgets => ?request, fun htype hgets => ?grant, fun htype hgets hle => ?ret⟩
  case ack =>
    have hrel := htReliable_of_type htype (b := false) rfl
    exact ⟨fun hnone => answer_packetEvent_unreliable hgets rfl (State.takeAck_nothing hnone) hrel,
      fun hsome => answer_packetEvent_unreliable hgets rfl (State.takeAck_some hsome) hrel⟩
  case atomic => exact answer_packetEvent_unreliable hgets rfl (State.takeAnswerPkt_atomicGood htype hout hslag) (htReliable_of_type htype rfl)
  case atomicLost => exact answer_packetEvent_unreliable hgets rfl (State.takeAnswerPkt_atomicLost htype hout hslag howner) (htReliable_of_type htype rfl)
  case read =>
    have hrel := htReliable_of_type htype (b := false) rfl
    have hact := State.takeReadResp_noRestore (k := k) hnone
    rw [State.takeAnswerPkt_read htype hout] at hact
    exact ⟨fun hagain => answer_packetEvent_unreliable hgets rfl (hact.trans (if_neg (by simpa using hagain))) hrel,
      fun hagain => answer_packetEvent_unreliable hgets rfl (hact.trans (if_pos (by simpa using hagain))) hrel⟩
  case request => exact answer_packetEvent_reliable hgets rfl rfl (htReliable_of_type htype rfl)
  case grant => exact answer_packetEvent_reliable hgets rfl rfl (htReliable_of_type htype rfl)
  case ret => exact answer_packetEvent_reliable hgets rfl (State.takeReturn_within hle) (htReliable_of_type htype rfl)

end Sys2Proof.Machine
end

section
/-! PROOF. The timers of channels, heartbeats, watched modules and links, and the packets of an island's losses (R222, R223, R227, R231-R236, R264, R265). -/

namespace Sys2Proof.Machine

/-! ## Channels (R222, R223, R227) -/

theorem State.fab_modFab_self {s : State} {p : Nat} (hp : p < s.parts.length) (f : Fabric → Fabric) : ((s.modFab p f).part p).fab = f (s.part p).fab :=
  congrArg Part.fab (State.part_modPart_self hp _)

@[simp] theorem Fabric.rto0_planeTimeout (f : Fabric) (self m pl : Nat) : (f.planeTimeout self m pl).rto0 = f.rto0 := by
  unfold Fabric.planeTimeout
  dsimp only
  split_ifs <;> rfl

section
variable {s : State} {p m q : Nat}

theorem doHtAckTimer_due {t : Nat} (hold : ((s.part p).fab.chan m q).oldest = some t) (hdue : t + ticksUs 2 ≤ s.tick) : doHtAckTimer p m q s = s.sendAck p m q := by
  rw [doHtAckTimer, hold]
  exact if_pos hdue

theorem doGrantIdleTimeout_due (hgrant : 0 < ((s.part p).fab.chan m q).grant) (hdue : ((s.part p).fab.chan m q).grantTick + ticksUs 100 ≤ s.tick) :
    doGrantIdleTimeout p m q s = (s.modFab p fun f => f.modChan m q fun c => { c with grant := 0, asked := 0 }).send p
      (((s.part p).fab.chan m q).packet 0x09 0 (((s.part p).fab.chan m q).grant / 64) []) .none :=
  if_neg (not_or.2 ⟨hgrant.ne', hdue.not_gt⟩)

/-- The timeout booked on the plane that the packet went by. -/
def State.planeLate (s : State) (p m : Nat) (x : TxPkt) : State := s.modFab p fun f => f.planeTimeout s.moduleId m x.plane

/-- The packet with one attempt more and twice the time. -/
def TxPkt.again (x : TxPkt) (now rto : Nat) : TxPkt := { x with attempts := x.attempts + 1, deadline := now + ticksUs (rto * 2 ^ (x.attempts + 1)) }

variable {psn : Nat} {x : TxPkt} (hfind : (((s.part p).fab.chan m q).out.find? fun y => y.pkt.psn == psn) = some x) (hdue : x.deadline ≤ s.tick)
  (hp : p < s.parts.length)
include hfind hdue hp

theorem doPacketTimeout_due : doPacketTimeout p m q psn s =
    let t := s.planeLate p m x
    if ((s.part p).fab.planeTimeout s.moduleId m x.plane).retryMax ≤ x.attempts then
      let l := t.declareLost p m
      if (((l.part p).fab.chan m q).out.any fun y => y == x) then (l.modFab p fun f => (f.dropOut m q x).endRollback m q).ownerLost p x.pkt x.owner else l
    else (t.modFab p fun f => f.modChan m q fun c =>
      { c with out := c.out.map fun y => if y.pkt.psn == psn then x.again s.tick (s.part p).fab.rto0 else y }).launch p m q (x.again s.tick (s.part p).fab.rto0) (some x.plane) := by
  have hfab : ((s.planeLate p m x).part p).fab = (s.part p).fab.planeTimeout s.moduleId m x.plane := State.fab_modFab_self hp _
  rw [← Fabric.rto0_planeTimeout (s.part p).fab s.moduleId m x.plane, ← hfab, doPacketTimeout, hfind]
  exact if_neg hdue.not_gt

/-- It goes out again while attempts are left. -/
theorem doPacketTimeout_resends (hleft : x.attempts < ((s.part p).fab.planeTimeout s.moduleId m x.plane).retryMax) : doPacketTimeout p m q psn s =
    ((s.planeLate p m x).modFab p fun f => f.modChan m q fun c =>
      { c with out := c.out.map fun y => if y.pkt.psn == psn then x.again s.tick (s.part p).fab.rto0 else y }).launch p m q (x.again s.tick (s.part p).fab.rto0) (some x.plane) :=
  (doPacketTimeout_due hfind hdue hp).trans (if_neg hleft.not_ge)

variable (hspent : ((s.part p).fab.planeTimeout s.moduleId m x.plane).retryMax ≤ x.attempts)
include hspent

/-- Then its module is lost, and with it the packet where the loss has not taken it already. -/
theorem doPacketTimeout_loses : doPacketTimeout p m q psn s =
    let l := (s.planeLate p m x).declareLost p m
    if (((l.part p).fab.chan m q).out.any fun y => y == x) then (l.modFab p fun f => (f.dropOut m q x).endRollback m q).ownerLost p x.pkt x.owner else l :=
  (doPacketTimeout_due hfind hdue hp).trans (if_pos hspent)

end

/-! ## Heartbeats (R231) -/

/-- The tick, how many partitions there are, and their runs. -/
def State.runView (s : State) : Nat × Nat × (Nat → Run) := (s.tick, s.parts.length, fun q => (s.part q).run)

theorem State.runView_modFab (s : State) (p : Nat) (f : Fabric → Fabric) : (s.modFab p f).runView = s.runView :=
  Prod.ext rfl <| Prod.ext (length_updAt _ _ _) (funext fun q => State.modPart_reads Part.run (fun _ => by rfl) s p q)

theorem State.runView_raise (s : State) (r : FaultRec) : (s.raise r).runView = s.runView := rfl

theorem State.runView_voteRoot (s : State) (p : Nat) : (s.voteRoot p).runView = s.runView := by
  unfold State.voteRoot
  dsimp only
  split
  · rfl
  · rw [State.runView_raise, State.runView_modFab]
  · rw [State.runView_raise, State.runView_modFab]

theorem State.runView_emitHall (s : State) (p : Nat) (k : HtPkt) (plane : Nat) : (s.emitHall p k plane).runView = s.runView := by
  have hegress : ∀ (t : State) q cls part bytes h x, (t.egress q cls part bytes h x).runView = t.runView := fun t q cls part bytes h x => by
    unfold State.egress
    dsimp only
    split_ifs <;> rfl
  unfold State.emitHall
  dsimp only
  split_ifs
  · rfl
  · rfl
  · rw [hegress, State.runView_voteRoot]

theorem State.runView_heartbeats (s : State) (p code : Nat) : (s.heartbeats p code).runView = s.runView :=
  State.each_reads State.runView (fun t _ _ => State.each_reads State.runView (fun t _ _ => State.each_reads State.runView
    (fun t _ _ => State.runView_emitHall t p _ _) t) t) s

theorem Sending.heartbeats {p : Nat} {a s : State} (h : Sending p a s) (code : Nat) : Sending p a (s.heartbeats p code) :=
  Sending.each (fun _ _ h => Sending.each (fun _ _ h => Sending.each (fun _ _ h => h.emitHall _ _) h _) h _) h _

/-- The books of a partition after its heartbeats: the tick, and entries newly watched timed from it. -/
def Fabric.beaten (self now : Nat) (dark : Bool) (f : Fabric) : Fabric :=
  let w := f.watched self
  let f := { f with hbTick := now, heardAt := f.heardAt.filter (fun x => w.contains x.1), noPlane := if dark then some (f.noPlane.getD now) else none }
  (w.flatMap fun m => (List.range 8).map fun pl => (m, pl)).foldl (fun f (m, pl) => if (f.heard m pl).isNone then f.setHeard m pl now else f) f

theorem Fabric.beaten_reads (self now : Nat) (dark : Bool) (f : Fabric) : (f.beaten self now dark).root = f.root ∧ (f.beaten self now dark).hbTick = now := by
  have hfold := foldl_reads (fun f : Fabric => (f.root, f.hbTick)) (f := fun f (x : Nat × Nat) => if (f.heard x.1 x.2).isNone then f.setHeard x.1 x.2 now else f)
    (l := (f.watched self).flatMap fun m => (List.range 8).map fun pl => (m, pl)) (fun t x _ => by split_ifs <;> rfl)
    { f with hbTick := now, heardAt := f.heardAt.filter (fun x => (f.watched self).contains x.1), noPlane := if dark then some (f.noPlane.getD now) else none }
  exact Prod.mk.inj hfold

theorem doHeartbeatTimer_due {s : State} {p : Nat} (hjob : (s.part p).job.isSome = true) (hdue : (s.part p).fab.hbTick + (s.part p).fab.hbTicks ≤ s.tick) :
    doHeartbeatTimer p s =
      let t := s.heartbeats p (stateCode (s.part p).st)
      t.modFab p (Fabric.beaten t.moduleId t.tick (t.upPlanes p).isEmpty) :=
  if_neg (not_or.2 ⟨by rw [Option.isNone_eq_false_iff.2 hjob]; exact Bool.false_ne_true, hdue.not_gt⟩)

/-- Heartbeats move the books of their partition alone, and note the tick. -/
theorem doHeartbeatTimer_sends {s : State} {p : Nat} (hjob : (s.part p).job.isSome = true) (hdue : (s.part p).fab.hbTick + (s.part p).fab.hbTicks ≤ s.tick) :
    Sending p s (doHeartbeatTimer p s) ∧ (doHeartbeatTimer p s).runView = s.runView ∧
      (p < s.parts.length → ((doHeartbeatTimer p s).part p).fab.hbTick = s.tick) := by
  have hview := State.runView_heartbeats s p (stateCode (s.part p).st)
  have htick : (s.heartbeats p (stateCode (s.part p).st)).tick = s.tick := congrArg Prod.fst hview
  have hlength : (s.heartbeats p (stateCode (s.part p).st)).parts.length = s.parts.length := congrArg (fun v => v.2.1) hview
  rw [doHeartbeatTimer_due hjob hdue]
  dsimp only
  refine ⟨((Sending.refl p s).heartbeats _).modFab p fun f => (Fabric.beaten_reads _ _ _ f).1, (State.runView_modFab _ _ _).trans hview, fun hp => ?_⟩
  rw [State.fab_modFab_self (hp.trans_eq hlength.symm), (Fabric.beaten_reads _ _ _ _).2, htick]

/-! ## Watched modules and the island (R231-R233) -/

section
variable {s : State} {p id : Nat}

theorem doPlaneDown_silent {pl t : Nat} (hheard : (s.part p).fab.heard id pl = some t) (hjob : (s.part p).job.isSome = true)
    (hwatch : ((s.part p).fab.watched s.moduleId).contains id = true) (hdue : t + 3 * (s.part p).fab.hbTicks ≤ s.tick) : doPlaneDown p id pl s =
      s.modFab p fun f => { f with dead := if f.dead.contains (id - f.idBase, pl) then f.dead else f.dead ++ [(id - f.idBase, pl)] } := by
  rw [doPlaneDown, hheard]
  exact if_pos (by rw [hjob, hwatch, decide_eq_true hdue]; rfl)

theorem doPeerLost_silent (hwatch : ((s.part p).fab.watched s.moduleId).contains id = true) (hsilent : (s.part p).fab.silent s.tick id 5 = true) :
    doPeerLost p id s = s.declareLost p id := if_pos (by rw [hwatch, hsilent]; rfl)

theorem doIsolationTimeout_silent (hjob : (s.part p).job.isSome = true) (hwatch : (s.part p).fab.watched s.moduleId ≠ [])
    (hsilent : ∀ id ∈ (s.part p).fab.watched s.moduleId, (s.part p).fab.silent s.tick id 5 = true) : doIsolationTimeout p s = s.putOut p := by
  have hsome : ((s.part p).fab.watched s.moduleId).isEmpty = false := List.isEmpty_eq_false_iff.2 hwatch
  exact if_pos (by rw [hjob, hsome, List.all_eq_true.2 hsilent]; rfl)

theorem doLossHold_due (hrolling : (s.part p).fab.rolling = true) (hcoord : s.isCoordinator p = true) (hdue : (s.part p).fab.lossTick + ticksSec 10 ≤ s.tick) :
    doLossHold p s = (s.modFab p fun f => { f with lossTick := s.tick }).notice p 3
      ((enum ((s.part p).fab.lostList.take 12)).map fun (i, id) => id * 2 ^ (20 * i)).sum := by
  have hnow : ¬(!(s.part p).fab.rolling ∨ !s.isCoordinator p ∨ s.tick < (s.part p).fab.lossTick + ticksSec 10) := by
    rw [hrolling, hcoord]
    exact not_or.2 ⟨Bool.false_ne_true, not_or.2 ⟨Bool.false_ne_true, hdue.not_gt⟩⟩
  exact if_neg hnow

end

/-! ## Links (R223, R224, R236) -/

section
variable {s : State} {q k : Nat}

theorem doLinkDown_up (hup : ((s.port q).sub k).up = true) :
    doLinkDown q k s = ((s.modPort q fun y => y.modSub k fun z => { z with up := false }).resendSub q k).flap q k :=
  if_neg (by rw [hup]; exact Bool.false_ne_true)

theorem doLinkUp_trains (htrain : s.mayTrain q k = true) : doLinkUp q k s =
    (s.modPort q fun y => (y.modSub k fun z => { z with up := true }).rehome).each (List.range s.nparts) fun t p =>
      let v := if (t.upPlanes p).isEmpty then t else t.modFab p fun f => { f with noPlane := none }
      v.each (v.part p).fab.chans fun t c => t.pump p c.mod c.part :=
  if_neg (by rw [htrain]; exact Bool.false_ne_true)

theorem doLinkHoldExpiry_due {t : Nat} (hheld : ((s.port q).sub k).heldAt = some t) (hdue : t + ticksSec 2 ≤ s.tick) :
    doLinkHoldExpiry q k s = s.modPort q fun y => y.modSub k fun z => { z with heldAt := none } := by
  rw [doLinkHoldExpiry, hheld]
  exact if_pos hdue

end

/-- Settles O45: each timer is due, and does its own part; heartbeats leave what they do not write. -/
theorem hallTimersComplete : Obligations.HallTimersComplete := by
  refine ⟨fun s p m q hp hq => ?_, fun s q k hq hk => ?_⟩
  · intro f c
    have hok : okPart p = true := decide_eq_true hp
    refine ⟨fun t hold hdue => ?ack, fun hgrant hdue => ?grant, fun psn x hfind hdue hleft hlen => ?resend, fun psn x hfind hdue hspent hlen => ?lost,
      fun hjob hdue => ?beat, fun id pl t hpl hheard hjob hwatch hdue => ?plane, fun id hwatch hsilent => ?peer, fun hjob hwatch hsilent => ?isolated,
      fun hrolling hcoord hdue => ?hold⟩
    case ack => exact answer_of_ok hok (doHtAckTimer_due hold hdue)
    case grant => exact answer_of_ok hok (doGrantIdleTimeout_due hgrant hdue)
    case resend => exact answer_of_ok hok (doPacketTimeout_resends hfind hdue hlen hleft)
    case lost =>
      have hlost := doPacketTimeout_loses hfind hdue hlen hspent
      intro t
      have hany : ((t.part p).fab.chan m q).out.any (fun y => y == x) = true ↔ x ∈ ((t.part p).fab.chan m q).out := by
        rw [List.any_beq']
        exact List.contains_iff_mem
      exact ⟨fun hnot => answer_of_ok hok (hlost.trans (if_neg (hany.not.2 hnot))), fun hin => answer_of_ok hok (hlost.trans (if_pos (hany.2 hin)))⟩
    case beat =>
      obtain ⟨hsent, hview, hnoted⟩ := doHeartbeatTimer_sends hjob hdue
      exact ⟨_, answer_of_ok hok rfl, hsent.mem, hnoted, congrFun (congrArg (fun v => v.2.2) hview) p, hsent.queue, fun w hw => (hsent.voted w hw).1⟩
    case plane => exact answer_of_ok hok (doPlaneDown_silent hheard hjob hwatch hdue)
    case peer => exact answer_of_ok hok (doPeerLost_silent hwatch hsilent)
    case isolated => exact answer_of_ok hok (doIsolationTimeout_silent hjob hwatch hsilent)
    case hold => exact answer_of_ok hok (doLossHold_due hrolling hcoord hdue)
  · have hok : (okPort q && okSub k) = true := Bool.and_eq_true_iff.2 ⟨decide_eq_true hq, decide_eq_true hk⟩
    exact ⟨fun hup => answer_of_ok hok (doLinkDown_up hup), fun htrain => answer_of_ok hok (doLinkUp_trains htrain),
      fun t hheld hdue => answer_of_ok hok (doLinkHoldExpiry_due hheld hdue)⟩

/-! ## The packets of a loss (R231-R235, R264, R265) -/

section
variable {u : State} {k : HtPkt} {p : Nat}

/-- A heartbeat that does not say LEFT is noted, and what waited for its plane goes out. -/
theorem State.takeHeartbeat_sends (hcode : (k.payload.getD 10 0#8).toNat ≠ 0x80) : Sending p u (u.takeHeartbeat k p) := by
  unfold State.takeHeartbeat
  dsimp only
  rw [if_neg (fun h => hcode h.1)]
  exact Sending.pump ((Sending.refl p u).modFab p fun _ => by rfl) _ _

theorem State.takeRollback_heard {round c : Nat} (ids : List Nat) (hcoord : (u.part p).fab.coordinator = some c) (hle : k.srcModule ≤ c) :
    u.takeRollback k round ids p =
      (((u.sendAck p k.srcModule k.srcPart).modFab p fun f => { f with rollRound := round }).doRollback p ids).reannounce p := by
  rw [State.takeRollback, hcoord]
  exact if_neg hle.not_gt

theorem State.takeFence_job (hjob : (u.part p).job.isSome = true) : u.takeFence p = u.putOut p := if_pos hjob

variable (hnone : (u.part p).fab.assuming = none)
include hnone

theorem State.takeRouteUpd_member (lost gen loc spare : Nat) :
    u.takeRouteUpd k lost gen loc spare p = (u.modFab p fun f => f.learn lost gen loc spare).control p 4 k.srcModule k.srcPart [] .none := by
  rw [State.takeRouteUpd, hnone]
  exact if_neg (fun h => Bool.false_ne_true h.2)

theorem State.takeResume_member : u.takeResume p = u.resumeMember p := by
  rw [State.takeResume, hnone]

end

/-- Settles O46: the transport has accepted the packet, and its operation and payload are those of its row. -/
theorem islandPacketsComplete : Obligations.IslandPacketsComplete := by
  intro s u k p m q fin
  have hctl : k.type = 0x0B → htReliable k.type = true := fun htype => htReliable_of_type htype rfl
  refine ⟨fun htype hgets hcode => ?heartbeat, fun ids htype hgets hop hbody => ?loss, fun round ids c htype hgets hop hbody hcoord hle => ?rollback,
    fun htype hgets hop hjob => ?fence, fun lost htype hgets hop hbody => ?announce, fun lost gen loc spare htype hgets hop hbody hnone => ?routeUpd,
    fun htype hgets hop => ?routeAck, fun htype hgets hop hnone => ?resume⟩
  case heartbeat =>
    have hsent := hgets.sending (by rw [htype]; decide)
    have hbeat : Sending p u (u.takeHeartbeat k p) := State.takeHeartbeat_sends hcode
    refine ⟨_, answer_packetEvent_unreliable hgets rfl rfl (htReliable_of_type htype rfl), hbeat.mem.trans hsent.mem, hbeat.queue.trans hsent.queue,
      fun w hw => ?_⟩
    obtain ⟨hhub, hroot⟩ := hsent.voted w hw
    exact (hbeat.voted w (hroot ▸ hw)).1.trans hhub
  case loss => exact answer_packetEvent_reliable hgets (ctlPkt_of_payload hop hbody) rfl (hctl htype)
  case rollback => exact answer_packetEvent_reliable hgets (ctlPkt_of_payload hop hbody) (State.takeRollback_heard ids hcoord hle) (hctl htype)
  case fence => exact answer_packetEvent_reliable hgets (ofOp_of_op hop) (State.takeFence_job hjob) (hctl htype)
  case announce => exact answer_packetEvent_reliable hgets (ctlPkt_of_payload hop hbody) rfl (hctl htype)
  case routeUpd => exact answer_packetEvent_reliable hgets (ctlPkt_of_payload hop hbody) (State.takeRouteUpd_member hnone lost gen loc spare) (hctl htype)
  case routeAck => exact answer_packetEvent_reliable hgets (ofOp_of_op hop) rfl (hctl htype)
  case resume => exact answer_packetEvent_reliable hgets (ofOp_of_op hop) (State.takeResume_member hnone) (hctl htype)

end Sys2Proof.Machine
end

section
/-! PROOF. The routing table after a route update (R229, R230). -/

namespace Sys2Proof.Machine

/-! ## A table written in its other bank (R229, R230) -/

theorem assocGet_assocSet_self {α : Type} (k : Nat) (v d : α) : ∀ l : List (Nat × α), assocGet k d (assocSet k v l) = v
  | [] => if_pos rfl
  | (i, w) :: l => by
    unfold assocSet
    split_ifs with hi
    · exact if_pos rfl
    · exact (if_neg hi).trans (assocGet_assocSet_self k v d l)

section
variable {f : Fabric} (hbanks : f.banks.length = 2) (g : List (Nat × Nat) → List (Nat × Nat))
include hbanks

/-- The bank that becomes active holds the changed table. -/
theorem Fabric.bank_update : (f.update g).bank = g f.bank := by
  have hactive : (f.update g).activeBank = 1 - f.activeBank := by
    rw [Fabric.activeBank, Fabric.update, vote3_copies3]
    exact Nat.mod_eq_of_lt ((Nat.sub_le 1 _).trans_lt one_lt_two)
  rw [Fabric.bank, hactive]
  exact getD_updAt_self _ [] _ _ (hbanks ▸ (Nat.sub_le 1 _).trans_lt one_lt_two)

theorem Fabric.entry_update (id : Nat) : (f.update g).entry id = (f.entry id).map fun x => (x.1, assocGet x.1 0 (g f.bank)) := by
  have hbank := Fabric.bank_update hbanks g
  unfold Fabric.entry Fabric.entAt
  rw [hbank]
  show (if f.count ≠ 0 ∧ f.idBase ≤ id ∧ id < f.idBase + f.count then some (id - f.idBase, assocGet (id - f.idBase) 0 (g f.bank)) else none) = _
  split_ifs <;> rfl

end

/-- An entry stands at the distance of its ID from the first. -/
theorem Fabric.entry_some {f : Fabric} {id : Nat} {x : Nat × Nat} (h : f.entry id = some x) :
    x.1 + f.idBase = id ∧ x.2 = assocGet x.1 0 f.bank := by
  unfold Fabric.entry at h
  split_ifs at h with hin
  obtain rfl := Option.some.inj h
  exact ⟨Nat.sub_add_cancel hin.2.1, rfl⟩

/-! ## The fields of an entry (Table 10-6) -/

theorem pack_lt : ∀ fs : List (Nat × Nat), pack fs < 2 ^ (fs.map (·.1)).sum
  | [] => Nat.one_pos
  | (w, v) :: fs => by
    have hrest := pack_lt fs
    have hfirst : v % 2 ^ w < 2 ^ w := Nat.mod_lt _ (Nat.two_pow_pos w)
    calc v % 2 ^ w * 2 ^ (fs.map (·.1)).sum + pack fs
      _ < (v % 2 ^ w + 1) * 2 ^ (fs.map (·.1)).sum := by rw [Nat.succ_mul]; exact Nat.add_lt_add_left hrest _
      _ ≤ 2 ^ w * 2 ^ (fs.map (·.1)).sum := Nat.mul_le_mul_right _ hfirst
      _ = 2 ^ (w + (fs.map (·.1)).sum) := (pow_add ..).symm

section
variable {fs : List (Nat × Nat)} {w v hi lo : Nat}

theorem bits_pack_first (hlo : (fs.map (·.1)).sum = lo) (hhi : hi + 1 - lo = w) (hv : v < 2 ^ w) : bits (pack ((w, v) :: fs)) hi lo = v := by
  subst hlo hhi
  unfold bits pack
  rw [Nat.shiftRight_eq_div_pow, Nat.mul_comm, Nat.mul_add_div (Nat.two_pow_pos _), Nat.div_eq_of_lt (pack_lt fs), Nat.add_zero, Nat.mod_mod,
    Nat.mod_eq_of_lt hv]

theorem bits_pack_rest (hlo : lo ≤ hi) (hhi : hi < (fs.map (·.1)).sum) : bits (pack ((w, v) :: fs)) hi lo = bits (pack fs) hi lo := by
  obtain ⟨d, hd⟩ := Nat.exists_eq_add_of_lt hhi
  have hsum : (fs.map (·.1)).sum = d + (hi + 1 - lo) + lo := by
    have hwidth : hi + 1 - lo + lo = hi + 1 := Nat.sub_add_cancel (hlo.trans (Nat.le_succ hi))
    rw [hd, Nat.add_assoc d, hwidth, Nat.add_comm hi d, Nat.add_assoc]
  unfold bits
  rw [pack, hsum, pow_add, pow_add, Nat.shiftRight_eq_div_pow, Nat.shiftRight_eq_div_pow, ← Nat.mul_assoc, Nat.add_comm,
    Nat.add_mul_div_right _ _ (Nat.two_pow_pos lo), ← Nat.mul_assoc, Nat.add_mul_mod_self_right]

end

section
variable (e loc gen st : Nat)

theorem reLocator_reWith (h : loc < 2 ^ 32) : reLocator (reWith e loc gen st) = loc := bits_pack_first rfl rfl h

theorem reGen_reWith (h : gen < 2 ^ 16) : reGen (reWith e loc gen st) = gen := by
  unfold reGen reWith
  rw [bits_pack_rest (by decide) (by decide : 95 < 96)]
  exact bits_pack_first rfl rfl h

theorem reState_reWith (h : st < 2 ^ 3) : reState (reWith e loc gen st) = st := by
  unfold reState reWith
  rw [bits_pack_rest (by decide) (by decide : 79 < 96), bits_pack_rest (by decide) (by decide : 79 < 80)]
  exact bits_pack_first rfl rfl h

theorem rePartMask_reWith : rePartMask (reWith e loc gen st) = rePartMask e := by
  unfold rePartMask reWith
  rw [bits_pack_rest (by decide) (by decide : 76 < 96), bits_pack_rest (by decide) (by decide : 76 < 80), bits_pack_rest (by decide) (by decide : 76 < 77)]
  exact bits_pack_first rfl rfl (bits_lt e 76 73)

end

/-! ## The reroute -/

/-- What a route update makes of the table: the lost ID's entry at the spare's locator, the spare's own ABSENT. -/
def rerouted (i e loc gen j e' : Nat) (l : List (Nat × Nat)) : List (Nat × Nat) :=
  assocSet j (reWith e' (reLocator e') (reGen e') 0) (assocSet i (reWith e loc gen 1) l)

theorem Fabric.reroute_eq {f : Fabric} {lost spare i e j e' : Nat} (hlost : f.entry lost = some (i, e)) (hspare : f.entry spare = some (j, e')) (gen loc : Nat) :
    f.reroute lost gen loc spare = { f.update (rerouted i e loc gen j e') with
      chans := f.chans.filter (fun c => c.mod != lost), dead := f.dead.filter (fun x => x.1 != i), heardAt := f.heardAt.filter fun x => x.1 != lost } := by
  simp only [Fabric.reroute, hlost, hspare]
  rfl

/-- Settles O47: the other bank becomes active with two entries changed, at the indices of the lost ID and of the spare, which differ. -/
theorem rerouteNamesTheSpare : Obligations.RerouteNamesTheSpare := by
  intro f lost gen loc spare i j e e' hbanks _ hne hlost hspare hgen hloc g
  have hentry : ∀ id, g.entry id = (f.entry id).map fun x => (x.1, assocGet x.1 0 (rerouted i e loc gen j e' f.bank)) := fun id => by
    simp only [g, Fabric.reroute_eq hlost hspare]
    exact Fabric.entry_update hbanks _ id
  have hi : i + f.idBase = lost := (Fabric.entry_some hlost).1
  have hj : j + f.idBase = spare := (Fabric.entry_some hspare).1
  have hij : i ≠ j := fun h => hne (by rw [← hi, ← hj, h])
  refine ⟨⟨reWith e loc gen 1, ?lost, reState_reWith e loc gen 1 (by decide), reLocator_reWith e loc gen 1 hloc, reGen_reWith e loc gen 1 hgen,
    rePartMask_reWith e loc gen 1⟩, ?spare, fun id hl hs => ?others, ?chans⟩
  case lost =>
    rw [hentry, hlost, Option.map_some, rerouted, assocGet_assocSet_ne hij, assocGet_assocSet_self]
  case spare =>
    rw [Fabric.entryState, hentry, hspare, Option.map_some, rerouted, assocGet_assocSet_self]
    exact reState_reWith e' _ _ 0 (by decide)
  case others =>
    rw [hentry]
    cases hid : f.entry id with
    | none => rfl
    | some x =>
      obtain ⟨hx, hval⟩ := Fabric.entry_some hid
      have hxi : x.1 ≠ i := fun h => hl (by rw [← hx, ← hi, h])
      have hxj : x.1 ≠ j := fun h => hs (by rw [← hx, ← hj, h])
      rw [Option.map_some, rerouted, assocGet_assocSet_ne hxj, assocGet_assocSet_ne hxi, ← hval]
  case chans =>
    intro c hc
    simp only [g, Fabric.reroute_eq hlost hspare, List.mem_filter, bne_iff_ne] at hc
    exact hc.2

end Sys2Proof.Machine
end

section
/-! PROOF. The egress scheduler, and the books of a transport window (R215, R222, R226, R227, Table 10-5). -/

namespace Sys2Proof.Machine

/-! ## What a sub-interface sends next (R215) -/

theorem takeClass_cons (c : Nat) (x : Egr) (l : List Egr) :
    takeClass c (x :: l) = if x.cls = c then some (x, l) else (takeClass c l).map fun r => (r.1, x :: r.2) := rfl

theorem takeClass_some {c : Nat} {e : Egr} {l r : List Egr} (h : takeClass c l = some (e, r)) :
    e.cls = c ∧ ∃ a b, l = a ++ e :: b ∧ r = a ++ b ∧ ∀ x ∈ a, x.cls ≠ c := by
  induction l generalizing r with
  | nil => cases h
  | cons x l ih =>
    rw [takeClass_cons] at h
    by_cases hx : x.cls = c
    · cases (if_pos hx).symm.trans h
      exact ⟨hx, [], l, rfl, rfl, List.forall_mem_nil _⟩
    · obtain ⟨y, hrest, hy⟩ := Option.map_eq_some_iff.1 ((if_neg hx).symm.trans h)
      cases hy
      obtain ⟨hcls, a, b, rfl, hr, ha⟩ := ih hrest
      exact ⟨hcls, x :: a, b, rfl, congrArg (x :: ·) hr, List.forall_mem_cons.2 ⟨hx, ha⟩⟩

theorem takeClass_none {c : Nat} {l : List Egr} (h : takeClass c l = none) : ∀ x ∈ l, x.cls ≠ c := by
  induction l with
  | nil => exact List.forall_mem_nil _
  | cons x l ih =>
    rw [takeClass_cons] at h
    by_cases hx : x.cls = c
    · cases (if_pos hx).symm.trans h
    · exact List.forall_mem_cons.2 ⟨hx, ih (Option.map_eq_none_iff.1 ((if_neg hx).symm.trans h))⟩

/-- The first packet of its class leaves the queue of a sub-interface, which takes the line for its bytes. -/
structure Sub.Sends (k : Sub) (e : Egr) (k' : Sub) : Prop where
  queue : ∃ a b, k.queue = a ++ e :: b ∧ k'.queue = a ++ b ∧ ∀ x ∈ a, x.cls ≠ e.cls
  due : k'.due = k.due + e.bytes
  up : k'.up = k.up

theorem Sub.sends_of_takeClass {k : Sub} {c : Nat} {e : Egr} {l : List Egr} (h : takeClass c k.queue = some (e, l)) : k.Sends e (k.sent e l) := by
  obtain ⟨rfl, hqueue⟩ := takeClass_some h
  exact ⟨hqueue, rfl, rfl⟩

theorem Sub.sends_robin {w : List Nat} {e : Egr} {n : Nat} {k k' : Sub} (h : k.robin w n = some (e, k')) : k.Sends e k' := by
  induction n generalizing k with
  | zero => cases h
  | succ n ih =>
    have hturn (h : (k.nextTurn w).robin w n = some (e, k')) : k.Sends e k' := by
      obtain ⟨hqueue, hdue, hup⟩ := ih h
      exact ⟨hqueue, hdue, hup⟩
    unfold Sub.robin at h
    split at h
    case h_1 x l hx =>
      by_cases hleft : x.bytes ≤ k.deficit.getD k.turn 0
      · cases (if_pos hleft).symm.trans h
        obtain ⟨hqueue, hdue, hup⟩ := Sub.sends_of_takeClass hx
        exact ⟨hqueue, hdue, hup⟩
      · exact hturn ((if_neg hleft).symm.trans h)
    case h_2 => exact hturn h

/-- Transport control goes first; where there is none the packet is the first of its class all the same. -/
theorem Sub.sends_pick {w : List Nat} {k k' : Sub} {e : Egr} (h : k.pick w = some (e, k')) : k.Sends e k' ∧ (e.cls ≠ 0 → ∀ x ∈ k.queue, x.cls ≠ 0) := by
  unfold Sub.pick at h
  split at h
  case h_1 x l hctl =>
    obtain ⟨rfl, rfl⟩ := Prod.mk.inj (Option.some.inj h)
    exact ⟨Sub.sends_of_takeClass hctl, fun hne => absurd (takeClass_some hctl).1 hne⟩
  case h_2 hctl =>
    refine ⟨?_, fun _ => takeClass_none hctl⟩
    split at h
    case h_1 x hrobin =>
      obtain rfl := Option.some.inj h
      exact Sub.sends_robin hrobin
    case h_2 =>
      split at h
      case h_1 x l hqueue =>
        obtain ⟨rfl, rfl⟩ := Prod.mk.inj (Option.some.inj h)
        exact ⟨⟨[], l, hqueue, rfl, fun _ hm => nomatch hm⟩, rfl, rfl⟩
      case h_2 => cases h

theorem Sub.pick_isSome {w : List Nat} {k : Sub} (h : k.queue ≠ []) : ∃ e k', k.pick w = some (e, k') := by
  unfold Sub.pick
  split
  case h_1 e l _ => exact ⟨e, k.sent e l, rfl⟩
  case h_2 =>
    split
    case h_1 x _ => exact ⟨x.1, x.2, rfl⟩
    case h_2 =>
      split
      case h_1 e l _ => exact ⟨e, k.sent e l, rfl⟩
      case h_2 hnil => exact absurd hnil h

/-! ## The tokens of a window (R222, Table 10-5) -/

section
variable {c : Chan} {w : Nat}

theorem Chan.outstanding_lt_of_canSend {k : HtPkt} (h : c.canSend k = true) : c.out.length < c.win := by
  simp only [Chan.canSend, Bool.and_eq_true] at h
  have hfree : 0 < c.free := of_decide_eq_true h.1.1
  exact Nat.lt_of_sub_pos hfree

theorem Chan.withheld_eq (hout : c.out.length ≤ c.win) : c.withheld w = w - c.win := by
  rw [Chan.withheld, Chan.outstanding, Chan.free, Nat.sub_sub, Nat.add_sub_cancel' hout]

section
variable (now rto gen : Nat) (k : HtPkt) (o : Owner)

theorem Chan.length_out_firstSend : (c.firstSend now rto gen k o).out.length = c.out.length + 1 := List.length_append

theorem Chan.win_firstSend : (c.firstSend now rto gen k o).win = c.win := rfl

theorem Chan.grant_firstSend_le : (c.firstSend now rto gen k o).grant ≤ c.grant := by
  unfold Chan.firstSend
  dsimp only
  split_ifs
  · exact Nat.sub_le _ _
  · exact le_rfl

end

/-- What sending keeps of a channel's window. -/
def Chan.within (cum : Nat) (c : Chan) : Prop := c.out.length ≤ c.win ∧ c.cum = cum

theorem Chan.within_firstSend {cum : Nat} (h : c.within cum) {k : HtPkt} (hsend : c.canSend k = true) (now rto gen : Nat) (o : Owner) :
    (c.firstSend now rto gen k o).within cum := by
  have hlt := Chan.outstanding_lt_of_canSend hsend
  refine ⟨?_, h.2⟩
  rw [Chan.length_out_firstSend, Chan.win_firstSend]
  exact hlt

theorem Chan.within_pass {now rto gen cum : Nat} : ∀ {l : List (HtPkt × Owner)} {held : Bool} {c : Chan} {kept : List (HtPkt × Owner)},
    c.within cum → (Chan.pass now rto gen l held c kept).within cum
  | [], _, _, _, h => h
  | (k, o) :: rest, held, c, kept, h => by
    unfold Chan.pass
    split_ifs with hsend
    · simp only [Bool.and_eq_true] at hsend
      exact Chan.within_pass (Chan.within_firstSend h hsend.2 now rto gen o)
    · exact Chan.within_pass h

theorem Chan.within_steer {cum : Nat} (h : c.within cum) : c.steer.within cum := by
  unfold Chan.steer
  split_ifs <;> exact h

theorem Chan.within_flow {cum : Nat} (h : c.within cum) (now rto gen : Nat) : (c.flow now rto gen).within cum :=
  Chan.within_pass (Chan.within_steer (Chan.within_pass h))

/-! ## Grants (R227) -/

theorem Chan.grantNow_bounds (c : Chan) (free : Nat) :
    c.grantNow free ≤ free ∧ c.grantNow free + c.issued ≤ max c.issued 0x100000 ∧ c.grantNow free % 64 = 0 := by
  have hle : c.grantNow free ≤ min (0x100000 - c.issued) free := (Nat.div_mul_le_self _ _).trans (min_le_right _ _)
  refine ⟨hle.trans (min_le_right _ _), ?_, Nat.mul_mod_left _ _⟩
  rw [max_comm, ← Nat.sub_add_eq_max]
  exact Nat.add_le_add_right (hle.trans (min_le_left _ _)) _

/-! ## Congestion marks (R226) -/

section
variable {now n ce : Nat}

theorem Chan.steerWindow_halves (hce : 0 < ce) (hdue : c.halved = 0 ∨ c.halved + ticksUs 16 ≤ now) :
    c.steerWindow now w n ce = { c with win := max 8 (c.win / 2), halved := now, clean := 0 } := (if_pos hce).trans (if_pos hdue)

theorem Chan.steerWindow_holds (hce : 0 < ce) (hdue : ¬(c.halved = 0 ∨ c.halved + ticksUs 16 ≤ now)) :
    c.steerWindow now w n ce = { c with clean := 0 } := (if_pos hce).trans (if_neg hdue)

theorem Chan.steerWindow_grows (hce : ¬0 < ce) (hworth : c.win ≤ c.clean + n) :
    c.steerWindow now w n ce = { c with clean := c.clean + n - c.win, win := min w (c.win + 1) } := (if_neg hce).trans (if_pos hworth)

theorem Chan.steerWindow_counts (hce : ¬0 < ce) (hworth : ¬c.win ≤ c.clean + n) :
    c.steerWindow now w n ce = { c with clean := c.clean + n } := (if_neg hce).trans (if_neg hworth)

theorem Chan.steerWindow_bounds (hlo : 8 ≤ c.win) (hhi : c.win ≤ w) : 8 ≤ (c.steerWindow now w n ce).win ∧ (c.steerWindow now w n ce).win ≤ w := by
  by_cases hce : 0 < ce
  · by_cases hdue : c.halved = 0 ∨ c.halved + ticksUs 16 ≤ now
    · rw [Chan.steerWindow_halves hce hdue]
      exact ⟨le_max_left _ _, max_le (hlo.trans hhi) ((Nat.div_le_self _ _).trans hhi)⟩
    · rw [Chan.steerWindow_holds hce hdue]
      exact ⟨hlo, hhi⟩
  · by_cases hworth : c.win ≤ c.clean + n
    · rw [Chan.steerWindow_grows hce hworth]
      exact ⟨le_min (hlo.trans hhi) (hlo.trans (Nat.le_succ _)), min_le_left _ _⟩
    · rw [Chan.steerWindow_counts hce hworth]
      exact ⟨hlo, hhi⟩

end

end

/-- Settles O48: a pick takes the first packet of its class, each send takes a free token, and an ACK moves the window in one of four ways. -/
theorem windowBooksBalance : Obligations.WindowBooksBalance := by
  refine ⟨fun w k => ⟨Sub.pick_isSome, fun e k' hpick => ?pick⟩, fun c now rto gen k o w hwin hout hsend => ?send,
    fun c now rto gen hout => Chan.within_flow ⟨hout, rfl⟩ now rto gen, Chan.grantNow_bounds,
    fun c k w hout hwin => ⟨Chan.withheld_eq hout, Chan.outstanding_lt_of_canSend⟩, fun now w n ce c hlo hhi => ⟨fun hce hdue => ?halves,
    fun hce hold hlate => ?holds, fun hce hworth => ?grows, fun hce hworth => ?counts, Chan.steerWindow_bounds hlo hhi⟩⟩
  case pick =>
    obtain ⟨⟨hqueue, hdue, hup⟩, hctl⟩ := Sub.sends_pick hpick
    exact ⟨hqueue, hctl, hdue, hup⟩
  case send =>
    have hlt := Chan.outstanding_lt_of_canSend hsend
    have hlen := Chan.length_out_firstSend (c := c) now rto gen k o
    have hheld : (c.firstSend now rto gen k o).withheld w = w - c.win := Chan.withheld_eq (by rw [hlen]; exact hlt)
    refine ⟨hlen, ?_, ?_, Chan.grant_firstSend_le now rto gen k o⟩
    · rw [Chan.free, Chan.free, hlen, Chan.win_firstSend, Nat.sub_add_eq]
    · rw [hheld, Chan.outstanding, Chan.free, hlen, Chan.win_firstSend, Nat.add_sub_cancel' hlt, Nat.add_sub_cancel' hwin]
  case halves => rw [Chan.steerWindow_halves hce hdue]; exact ⟨rfl, rfl⟩
  case holds => rw [Chan.steerWindow_holds hce (not_or.2 ⟨hold, hlate.not_ge⟩)]
  case grows => rw [Chan.steerWindow_grows hce.not_gt hworth]; exact ⟨rfl, rfl⟩
  case counts => rw [Chan.steerWindow_counts hce.not_gt hworth.not_ge]; exact ⟨rfl, rfl⟩

end Sys2Proof.Machine
end

section
/-! PROOF. The host path from the host (R211, R215, R216, R332-R334, R344, R345). -/

namespace Sys2Proof.Machine

theorem State.untagged_of_tag {v : Nat} (hv : v ≠ 0) (s : State) (act : State → State) : s.untagged v act = s.count .badTag := if_neg hv

theorem State.firstMarked_of_unmarked {s : State} {la n : Nat} (hclean : s.marked la n = false) : s.firstMarked la n = none := by
  unfold State.marked at hclean
  unfold State.firstMarked
  split_ifs at hclean ⊢ <;> rw [Option.map_eq_none_iff, List.find?_eq_none] <;> exact List.any_eq_false.1 hclean

/-! ## What a connected queue pair may do (R216, R333, R344, R345) -/

section
variable {s : State} {k : Nat} (hup : s.connected k = true)
include hup

theorem not_unconnected : ¬(!s.connected k) = true := by
  rw [hup]
  exact Bool.false_ne_true

theorem doMbxOwnWrite_open {m : Nat} (hopen : s.mbxOpen (s.qp k) m = true) (v : W32) : doMbxOwnWrite k m v s = s.ownWrite m v.toNat :=
  (if_neg (not_unconnected hup)).trans (if_neg (by rw [hopen]; exact Bool.false_ne_true))

theorem doMbxOwnWrite_closed {m : Nat} (hopen : s.mbxOpen (s.qp k) m = false) (v : W32) : doMbxOwnWrite k m v s = s.refuse k true :=
  (if_neg (not_unconnected hup)).trans (if_pos (by rw [hopen]; rfl))

section
variable {off : Nat} {data : List Byte}

theorem doHostRdmaWrite_open (hopen : s.rangeOpen k true off data.length = true) :
    doHostRdmaWrite k off data s = State.placeAll (data.length + 1) off data s :=
  (if_neg (not_unconnected hup)).trans (if_neg (by rw [hopen]; exact Bool.false_ne_true))

theorem doHostRdmaWrite_closed (hopen : s.rangeOpen k true off data.length = false) : doHostRdmaWrite k off data s = s.refuse k true :=
  (if_neg (not_unconnected hup)).trans (if_pos (by rw [hopen]; rfl))

theorem doApertureWrite_reached {p x g : Nat} (hdev : (s.qp k).dev = false) (hpart : (s.qp k).part = p) (hfits : x + data.length ≤ 0x200000)
    (hbase : (s.part p).aperture = some g) (hreach : s.reach p (g + x) data.length [0, 1, 2] = true) :
    doApertureWrite k p x data s = s.store (gLocal g + x) data false := by
  have hmay : ¬((s.qp k).dev ∨ (s.qp k).part ≠ p ∨ 0x200000 < x + data.length) := by
    rw [hdev]
    exact not_or.2 ⟨Bool.false_ne_true, not_or.2 ⟨not_not.2 hpart, hfits.not_gt⟩⟩
  have hplace : s.aperturePlace p x data = s.store (gLocal g + x) data false := by
    rw [State.aperturePlace, hbase]
    exact if_pos hreach
  exact ((if_neg (not_unconnected hup)).trans (if_neg hmay)).trans hplace

end

theorem doHostRdmaRead_clean {off n : Nat} (hopen : s.rangeOpen k false off n = true) (hclean : s.marked (localAddr 4 off) n = false) :
    doHostRdmaRead k off n s = (s.bookRead off n).each
      (mtuCut (s.qp k).mtu 0 ((List.range n).map fun i => s.hostByte (off + i))) fun t c => t.hostFrame k c.2.1.length (.hostReadData k c.2.1) := by
  have hnone := State.firstMarked_of_unmarked hclean
  unfold doHostRdmaRead
  rw [if_neg (not_unconnected hup), hopen]
  dsimp only
  rw [hclean, hnone]
  rfl

theorem doHostRateRecover_due (hdue : (s.qp k).cnpTick + ticksUs 50 ≤ s.tick) :
    doHostRateRecover k s = s.modQp k fun q => { q with rate := min 256 (q.rate + 16), cnpTick := s.tick } :=
  if_pos (by rw [hup, decide_eq_true hdue]; rfl)

end

/-! ## Connections (R216) -/

section
variable {s : State} {k : Nat} {r : CmReq} {b : Option Nat}

/-- The queue pairs with one of them free again. -/
def State.freeQp (s : State) (k : Nat) : Net := { s.net with qps := updAt s.net.qps k fun _ => {} }

/-- Has the binding of a request room for one queue pair more? -/
def State.cmRoom (s : State) (k : Nat) (b : Option Nat) : Bool := match b with
  | none => decide ((s.freeQp k).bound true 0 < 4)
  | some p => s.hasPart p && decide ((s.freeQp k).bound false p < 60 / s.nparts)

theorem State.cmRoom_iff : s.cmRoom k b = true ↔
    (b = none ∧ (s.freeQp k).bound true 0 < 4) ∨ ∃ p, b = some p ∧ s.hasPart p = true ∧ (s.freeQp k).bound false p < 60 / s.nparts := by
  cases b with
  | none => simp [State.cmRoom]
  | some p => simp [State.cmRoom]

/-- Is a request accepted? -/
def State.cmFits (s : State) (k : Nat) (r : CmReq) (b : Option Nat) : Bool :=
  r.reliable && [256, 512, 1024, 2048, 4096].contains r.mtu && s.net.allow.any (allowMatch r.source) && s.cmRoom k b

theorem State.cmFits_iff : s.cmFits k r b = true ↔ r.reliable = true ∧ r.mtu ∈ [256, 512, 1024, 2048, 4096] ∧
    (∃ e ∈ s.net.allow, allowMatch r.source e = true) ∧ s.cmRoom k b = true := by
  rw [State.cmFits, Bool.and_eq_true_iff, Bool.and_eq_true_iff, Bool.and_eq_true_iff, List.contains_iff_mem, List.any_eq_true, and_assoc, and_assoc]

theorem doHostCmRequest_eq (hnet : s.hasNet = true) (hfree : (s.qp k).st ≠ 1) (hp4 : s.power.pstate ≠ .p4) : doHostCmRequest k r b s =
    if s.cmFits k r b then
      ((s.modNet fun _ => s.freeQp k).modQp k fun _ =>
        { st := 1, source := r.source, dev := b.isNone, part := b.getD 0, cnpTick := s.tick, port := r.port, mtu := r.mtu }).hostFrame k 0 (.cmReply k true)
    else s.egress r.port 3 none 118 {} (.cmReply k false) := by
  have hmay : ¬(!s.hasNet ∨ (s.qp k).st = 1 ∨ s.power.pstate = .p4) := by
    rw [hnet]
    exact not_or.2 ⟨Bool.false_ne_true, not_or.2 ⟨hfree, hp4⟩⟩
  exact (if_neg hmay).trans (by cases b <;> rfl)

end

/-- Settles O49: an untagged frame of a connected queue pair is taken by its row, on the range or mailbox that it may reach; a tagged one is counted. -/
theorem hostPathComplete : Obligations.HostPathComplete := by
  refine ⟨fun s k hk hup => ?_, fun s k r b hk hport hnet hfree hp4 => ?_, fun s k v hk hv => ?_⟩
  · have hok : okQp k = true := decide_eq_true hk
    refine ⟨fun m v hm => ?own, fun off data hplain => ?register, fun off data => ?write, fun p x g data hp hdev hpart hfits hbase hreach => ?aperture,
      fun off n hopen hclean => ?read, answer_of_ok hok (if_pos hup), answer_of_ok hok (if_pos hup), answer_of_ok hok (if_pos hup),
      fun hdue => answer_of_ok hok (doHostRateRecover_due hup hdue)⟩
    case own =>
      have hokm : (okQp k && okMbx m) = true := Bool.and_eq_true_iff.2 ⟨hok, decide_eq_true hm⟩
      exact ⟨fun hopen => answer_of_ok hokm (doMbxOwnWrite_open hup hopen v), fun hopen => answer_of_ok hokm (doMbxOwnWrite_closed hup hopen v)⟩
    case register =>
      have hwrite : doRegisterWrite k off data s = doHostRdmaWrite k off data s := if_pos hplain
      exact ⟨fun hopen => answer_of_ok hok (hwrite.trans (doHostRdmaWrite_open hup hopen)),
        fun hopen => answer_of_ok hok (hwrite.trans (doHostRdmaWrite_closed hup hopen))⟩
    case write => exact ⟨fun hopen => answer_of_ok hok (doHostRdmaWrite_open hup hopen), fun hopen => answer_of_ok hok (doHostRdmaWrite_closed hup hopen)⟩
    case aperture =>
      have hokp : (okQp k && okPart p) = true := Bool.and_eq_true_iff.2 ⟨hok, decide_eq_true hp⟩
      exact answer_of_ok hokp (doApertureWrite_reached hup hdev hpart hfits hbase hreach)
    case read => exact answer_of_ok hok (doHostRdmaRead_clean hup hopen hclean)
  · have hok : (okQp k && decide (r.port < 8)) = true := Bool.and_eq_true_iff.2 ⟨decide_eq_true hk, decide_eq_true hport⟩
    have hreq := doHostCmRequest_eq (r := r) (b := b) hnet hfree hp4
    intro n room fits
    have hfits : s.cmFits k r b = true ↔ fits := by
      rw [State.cmFits_iff, State.cmRoom_iff]
      exact Iff.rfl
    exact ⟨fun h => answer_of_ok hok (hreq.trans (if_pos (hfits.2 h))), fun h => answer_of_ok hok (hreq.trans (if_neg (hfits.not.2 h)))⟩
  · have hok : okQp k = true := decide_eq_true hk
    have htag : ∀ act, s.untagged v act = s.count .badTag := State.untagged_of_tag hv s
    exact ⟨fun m w hm => answer_of_ok (Bool.and_eq_true_iff.2 ⟨hok, decide_eq_true hm⟩) (htag _), fun off data => answer_of_ok hok (htag _),
      fun off data => answer_of_ok hok (htag _), fun p x data hp => answer_of_ok (Bool.and_eq_true_iff.2 ⟨hok, decide_eq_true hp⟩) (htag _),
      fun off n => answer_of_ok hok (htag _), answer_of_ok hok (htag _), answer_of_ok hok (htag _), answer_of_ok hok (htag _),
      fun r b hport => answer_of_ok (Bool.and_eq_true_iff.2 ⟨hok, decide_eq_true hport⟩) (htag _)⟩

end Sys2Proof.Machine
end

section
/-! PROOF. The messages of the sideband (R214, R352, R378-R380, Tables 15-15 and 15-16). -/

namespace Sys2Proof.Machine

/-- A message answered: its completion code and data leave the module. -/
def State.reply (t : State) (cc : Nat) (data : List Byte) : State := t.emit (.sideband cc data)

section
variable {s : State} (hstandby : s.power.standby = true) (hup : s.smithUp = true) (hlife : s.sec.life ≠ .retired)
include hstandby hup hlife

/-- With the smith up every message is let in, and what its own part answers is sent. -/
theorem State.sb_answers {k : SbKind} {f : State → State × Nat × List Byte} {t : State} {cc : Nat} {data : List Byte} (hf : f s = (t, cc, data)) :
    s.sb k f = t.reply cc data := by
  rw [State.sb_of_up hstandby hup hlife, hf]
  rfl

theorem answer_sb {k : SbKind} {f : State → State × Nat × List Byte} {t : State} {cc : Nat} {data : List Byte} (hf : f s = (t, cc, data)) :
    answer true (s.sb k f) = .next (t.reply cc data) := answer_of_ok rfl (State.sb_answers hstandby hup hlife hf)

/-- A message that reads changes nothing but what is sent. -/
theorem answer_sbRead (k : SbKind) (cc : Nat) (data : List Byte) : answer true (s.sbRead k cc data) = .next (s.reply cc data) :=
  answer_sb hstandby hup hlife rfl

end

/-- Settles O55: the smith is up, so that each message is let in and its own part finds its operands in range. -/
theorem sidebandMessagesComplete : Obligations.SidebandMessagesComplete := by
  intro s hstandby hup hlife say
  have hread := fun (k : SbKind) (cc : Nat) (data : List Byte) => answer_sbRead hstandby hup hlife k cc data
  refine ⟨fun e hlo hhi => ?eid, hread .mctp _ _, hread .mctp _ _, hread .mctp _ _, hread .mctp _ _, fun t hlo hhi => ?tid, hread .base _ _, hread .base _ _,
    hread .base _ _, hread .base _ _, hread .watch _ _, fun r => hread .watch _ _, fun k hnum => ?sensor, fun k v hv => ?stateSensor, fun v hlo hhi => ?cap,
    hread .watch _ _, fun t ht hfree => ?target, hread .rest _ _, hread .base _ _, hread .base _ _, fun k last off piece x hlo hhi hstage => ?stage,
    fun hcommit => ?activate, fun planes loc port hjobs hloc hport hfits => ?netId, hread .rest _ _, fun l hlen hl => ?allow, hread .rest _ _,
    fun mctp => hread _ _ _⟩
  case eid =>
    have hok : eidOk e = true := by simp [eidOk, hlo, hhi]
    exact answer_sb hstandby hup hlife (if_pos hok)
  case tid =>
    have hok : tidOk t = true := by simp [tidOk, hlo, hhi]
    exact answer_sb hstandby hup hlife (if_pos hok)
  case sensor => exact answer_sb hstandby hup hlife (if_neg (by simp [hnum]))
  case stateSensor => exact answer_sb hstandby hup hlife (by rw [hv]; rfl)
  case cap =>
    have hok : capOk v = true := by simp [capOk, hlo, hhi]
    exact answer_sb hstandby hup hlife ((if_neg (not_not.2 rfl)).trans (if_pos hok))
  case target =>
    exact answer_sb hstandby hup hlife ((if_neg (not_not.2 rfl)).trans ((if_neg ht.not_gt).trans (if_neg (by rw [hfree]; exact Bool.false_ne_true))))
  case stage =>
    have hcomp : ¬(k = 0 ∨ 4 < k) := by omega
    exact answer_sb hstandby hup hlife ((if_neg hcomp).trans (by rw [hstage]; rfl))
  case activate =>
    have hcode : ccOf (s.fwCommit false).1 = 0 := by rw [hcommit]; rfl
    exact answer_sb hstandby hup hlife (congrArg (fun cc => ((s.fwCommit false).2, cc, [])) hcode)
  case netId =>
    have hidle : s.parts.any (·.job.isSome) = false := List.any_eq_false.2 fun q hq => by rw [hjobs q hq]; exact Bool.false_ne_true
    have hset : ¬(loc = 0 ∨ port = 0) := not_or.2 ⟨hloc, hport⟩
    exact answer_sb hstandby hup hlife ((if_neg (Bool.eq_false_iff.1 hidle)).trans ((if_neg hset).trans (if_neg (by rw [hfits]; exact Bool.false_ne_true))))
  case allow =>
    have hlens : ¬(16 < l.length ∨ l.any fun e => e.2 != 64 && e.2 != 128) := by
      refine not_or.2 ⟨hlen.not_gt, fun hany => ?_⟩
      obtain ⟨e, he, hbad⟩ := List.any_eq_true.1 hany
      obtain ⟨hwidth, -⟩ := hl e he
      rcases hwidth with hw | hw <;> simp [hw] at hbad
    have hfits : ¬(l.any fun e => decide (2 ^ 128 ≤ e.1)) = true := fun hany => by
      obtain ⟨e, he, hbad⟩ := List.any_eq_true.1 hany
      exact (hl e he).2.not_ge (of_decide_eq_true hbad)
    exact answer_sb hstandby hup hlife ((if_neg hlens).trans (if_neg hfits))

end Sys2Proof.Machine
end

section
/-! PROOF. Pins, standby power, the input and power-fails, and the side ports (R211, R214, R302, R352, R355, R357, R358, R366, R371, R374-R379, R383). -/

namespace Sys2Proof.Machine

/-! ## Input pins (R377, R378) -/

section
variable {s : State} (hstandby : s.power.standby = true)
include hstandby

theorem not_unpowered : ¬(!s.power.standby) = true := by
  rw [hstandby]
  exact Bool.false_ne_true

/-- The raw level noted. -/
def State.seePin (s : State) (k : Nat) (level : Bool) : State := s.modPower fun w => { w with raw := updAt w.raw k fun _ => level }

theorem State.rawChange_edge {k : Nat} {level : Bool} (hfree : s.power.forced.getD k false = false) (hhold : s.power.edgeHold.getD k 0 = 0)
    (hdiff : s.pin k ≠ level) : s.rawChange k level =
      ((s.seePin k level).setPin k level).modPower fun w => { w with edgeHold := updAt w.edgeHold k fun _ => ticksMs 1 } := by
  have hedge : ¬(s.power.forced.getD k false ∨ s.power.edgeHold.getD k 0 ≠ 0 ∨ s.pin k = level) := by
    rw [hfree]
    exact not_or.2 ⟨Bool.false_ne_true, not_or.2 ⟨not_not.2 hhold, hdiff⟩⟩
  exact (if_neg (not_unpowered hstandby)).trans (if_neg hedge)

theorem State.rawChange_noted {k : Nat} {level : Bool} (h : s.power.forced.getD k false = true ∨ s.power.edgeHold.getD k 0 ≠ 0 ∨ s.pin k = level) :
    s.rawChange k level = s.seePin k level := (if_neg (not_unpowered hstandby)).trans (if_pos h)

/-- What the statement asks of the row of an edge. -/
theorem answer_rawChange (k : Nat) (level : Bool) :
    (s.power.forced.getD k false = false → s.power.edgeHold.getD k 0 = 0 → s.pin k ≠ level → answer true (s.rawChange k level) =
      .next (((s.seePin k level).setPin k level).modPower fun w => { w with edgeHold := updAt w.edgeHold k fun _ => ticksMs 1 })) ∧
    (s.power.forced.getD k false = true ∨ s.power.edgeHold.getD k 0 ≠ 0 ∨ s.pin k = level → answer true (s.rawChange k level) = .next (s.seePin k level)) :=
  ⟨fun hfree hhold hdiff => answer_of_ok rfl (State.rawChange_edge hstandby hfree hhold hdiff), fun h => answer_of_ok rfl (State.rawChange_noted hstandby h)⟩

theorem doInputUnstable_forces {k : Nat} (hfree : s.power.forced.getD k false = false) : doInputUnstable k s =
    ((if s.pin k then s.setPin k false else s).modPower fun w => { w with forced := updAt w.forced k fun _ => true }).pinRec k sevDef 0 := by
  have hnow : ¬(!s.power.standby ∨ s.power.forced.getD k false) := by
    rw [hfree]
    exact not_or.2 ⟨not_unpowered hstandby, Bool.false_ne_true⟩
  exact if_neg hnow

end

theorem doInputUnstableRelease_forced {s : State} {k : Nat} (hforced : s.power.forced.getD k false = true) (v : Bool) : doInputUnstableRelease k v s =
    let t := s.modPower fun w => { w with forced := updAt w.forced k fun _ => false, raw := updAt w.raw k fun _ => v }
    (if t.pin k == v then t else t.setPin k v).pinRec k sevCE 1 := if_neg (by rw [hforced]; exact Bool.false_ne_true)

/-! ## The input and power-fails (R366, Table 16-6) -/

/-- What a write to the persistent stores leaves of a module that is off. -/
def State.offView (s : State) : List Host.Cell × List Instr × Life × Nat × PState := (s.mem, s.pending, s.sec.life, s.power.row, s.power.pstate)

theorem State.offView_persist (s : State) (k : Store) : (s.persist k).offView = s.offView := by
  unfold State.persist
  split_ifs
  · cases k <;> rfl
  · rfl
  · rfl

theorem State.offView_countReset (s : State) : s.countReset.offView = s.offView := by
  unfold State.countReset
  dsimp only
  split_ifs
  · exact State.offView_persist _ _
  · rfl

theorem State.offView_poweredOff (s : State) (standby : Bool) :
    (s.poweredOff standby).offView = ([], s.pending, s.sec.life, if standby then 1 else 0, .p4) := by
  cases standby <;> rfl

/-- The commands that wait, and the lifecycle state. -/
def State.keptView (s : State) : List Instr × Life := (s.pending, s.sec.life)

theorem State.keptView_flash (s : State) (k : Store) : (s.flash k).keptView = s.keptView := by cases k <;> rfl

/-- Whatever the bank lets be written first, a power-fail ends with the main domain off and its cause latched. -/
theorem State.powerFail_off {s : State} (hrow : 2 ≤ s.power.row) (c : PfCause) (r : FaultRec) :
    (s.powerFail c r).power.cause = some c ∧ ∃ up : Bool, (s.powerFail c r).offView = ([], s.pending, s.sec.life, if up then 1 else 0, .p4) := by
  unfold State.powerFail
  rw [if_neg hrow.not_gt]
  extract_lets e l ok1 history e1 ok2 repair e2 wear up off
  have hhistory : history.keptView = s.keptView := by
    simp only [history]
    split_ifs <;> rfl
  have hrepair : repair.keptView = history.keptView := by
    simp only [repair]
    split_ifs
    · exact State.keptView_flash history .repairLog
    · rfl
  have hwear : wear.keptView = repair.keptView := by
    simp only [wear]
    split_ifs
    · exact State.keptView_flash repair .wear
    · rfl
  obtain ⟨hpending, hlife⟩ := Prod.mk.inj (hwear.trans (hrepair.trans hhistory))
  have hoff : off.offView = ([], s.pending, s.sec.life, if up then 1 else 0, .p4) := by
    rw [State.offView_poweredOff, hpending, hlife]
  have hcount : (if up then off.countReset else off).offView = off.offView := by
    split_ifs
    · exact State.offView_countReset off
    · rfl
  exact ⟨rfl, up, hcount.trans hoff⟩

section
variable {s : State} {mv : Nat}

theorem doInputBandChange_fails (hlo : 35000 ≤ mv) (hband : mv < 38000 ∨ 52000 < mv) (hrow : 2 ≤ s.power.row) :
    doInputBandChange mv s = (s.modPower fun w => { w with millivolts := mv }).powerFail .input (rec15 sevFatal 0x92 0) := by
  unfold doInputBandChange
  dsimp only
  rw [if_pos hband, if_neg (fun h => hlo.not_gt h.1)]
  exact if_neg hrow.not_gt

theorem doInputBandChange_starts (hlo : 40000 ≤ mv) (hhi : mv ≤ 50000) :
    doInputBandChange mv s = (s.modPower fun w => { w with millivolts := mv }).tryStart := by
  have hin : ¬(mv < 38000 ∨ 52000 < mv) := by omega
  exact (if_neg hin).trans ((if_neg hlo.not_gt).trans (if_pos hhi))

/-! ## Standby and straps (R358) -/

theorem doStandbyUp_starts (hdown : s.power.standby = false) (hinput : 36000 ≤ s.power.millivolts) :
    doStandbyUp s = s.modPower fun w => { w with standby := true, row := 1, pstate := .p4, latched := false, standbyLeft := ticksMs 100 } :=
  if_neg (not_or.2 ⟨by rw [hdown]; exact Bool.false_ne_true, hinput.not_gt⟩)

variable (hstandby : s.power.standby = true)
include hstandby

theorem doSlotIdLatch_first (hopen : s.power.latched = false) (k : Nat) :
    doSlotIdLatch k s = s.modPower fun w => { w with straps := k % 64, latched := true } :=
  if_pos ⟨hstandby, by rw [hopen]; rfl⟩

theorem doStrapChange_later (hlatched : s.power.latched = true) {k : Nat} (hdiff : k % 64 ≠ s.power.straps) :
    doStrapChange k s = s.modPower fun w => { w with strapNoted := true } := if_pos ⟨hstandby, hlatched, hdiff⟩

end

/-! ## Neighbour discovery, pause frames and the debug ports (R211, R214, R302, R352, R379) -/

section
variable {s : State} {q k : Nat} (hup : s.subUp q k = true)
include hup

theorem doNeighborSolicitation_linkLocal : doNeighborSolicitation q k (linkLocal q k) s = s.emit (.neighborAdvert q k (linkLocal q k)) :=
  if_pos ⟨hup, .inl rfl⟩

theorem doNeighborSolicitation_plane (hnet : s.hasNet = true) : doNeighborSolicitation q k (s.planeAddr q) s = s.emit (.neighborAdvert q k (s.planeAddr q)) :=
  if_pos ⟨hup, .inr ⟨hnet, rfl⟩⟩

theorem doRouterAdvertisement_up (a : Nat) : doRouterAdvertisement q k a s = s.modPort q fun y => y.modSub k fun z => { z with router := a } := if_pos hup

theorem doPauseFrame_up : doPauseFrame q k s = s.count .pauseFrame := if_pos hup

end

/-- The level in force is D2 only once the root of trust runs. -/
theorem jtagSelect_eq (s : State) (k : Nat) : jtagSelect s.jtagLevel (s.power.pstate == .p3) k =
    if k ≤ 1 then k else if 6 ≤ s.power.row ∧ s.sec.level = 2 ∧ (s.power.pstate ≠ .p3 ∨ k ≤ 4) then k else 0 := by
  have hlevel : s.jtagLevel = 2 ↔ 6 ≤ s.power.row ∧ s.sec.level = 2 := by
    unfold State.jtagLevel
    split_ifs with hrow
    · exact iff_of_false (by decide) fun h => hrow.not_ge h.1
    · exact ⟨fun h => ⟨not_lt.1 hrow, h⟩, fun h => h.2⟩
  have hrest : (!(s.power.pstate == .p3)) = true ↔ s.power.pstate ≠ .p3 := by simp
  unfold jtagSelect
  simp only [hlevel, hrest, and_assoc]

section
variable {s : State} (hstandby : s.power.standby = true)
include hstandby

theorem doI3cDynamicAddress_powered (a : Nat) :
    doI3cDynamicAddress a s = (s.modSide fun x => { x with addr := a % 128 }).emit (.i3cId s.provisionalId) := if_pos hstandby

theorem doInBandInterruptEnable_powered (b : Bool) : doInBandInterruptEnable b s = s.modSide fun x => { x with ibi := b } := if_pos hstandby

theorem doJtagInstruction_loads (k : Nat) : doJtagInstruction ⟨k, true⟩ s = (s.modPower fun w => { w with trstN := true }).emit
    (.jtag (if k ≤ 1 then k else if 6 ≤ s.power.row ∧ s.sec.level = 2 ∧ (s.power.pstate ≠ .p3 ∨ k ≤ 4) then k else 0)) := by
  rw [← jtagSelect_eq]
  exact if_neg (not_unpowered hstandby)

theorem doJtagInstruction_held (k : Nat) : doJtagInstruction ⟨k, false⟩ s = s.modPower fun w => { w with trstN := false } := if_neg (not_unpowered hstandby)

end

/-- Settles O60: each row finds its conditions met and does its own part; what a power-fail leaves is that of the main domain turned off. -/
theorem pinsAndInputComplete : Obligations.PinsAndInputComplete := by
  refine ⟨fun s => ⟨fun hstandby => ?edges, fun b => ⟨rfl, rfl, rfl⟩, fun k hk hstandby hfree => ?unstable, fun k v hk hforced => ?release, fun hdown hinput => ?standby,
    fun k hstandby hopen => ?latch, fun k hstandby hlatched hdiff => ?strap, fun hrow => ?fails, fun mv hlo hhi => ?starts⟩,
    fun s => ⟨fun q k hq hk hup => ?ports, fun q k v a hq hk hv => ?tagged, fun hstandby => ?debug⟩⟩
  case edges =>
    intro seen edge takes
    exact ⟨answer_rawChange hstandby 0 true, answer_rawChange hstandby 0 false, answer_rawChange hstandby 1 false, answer_rawChange hstandby 1 true,
      answer_rawChange hstandby 2 false, answer_rawChange hstandby 2 true⟩
  case unstable => exact answer_of_ok (decide_eq_true hk) (doInputUnstable_forces hstandby hfree)
  case release => exact answer_of_ok (decide_eq_true hk) (doInputUnstableRelease_forced hforced v)
  case standby => exact answer_of_ok rfl (doStandbyUp_starts hdown hinput)
  case latch => exact answer_of_ok rfl (doSlotIdLatch_first hstandby hopen k)
  case strap => exact answer_of_ok rfl (doStrapChange_later hstandby hlatched hdiff)
  case fails =>
    refine ⟨fun die hdie => answer_of_ok (decide_eq_true hdie) rfl, answer_of_ok rfl rfl, answer_of_ok rfl (if_neg hrow.not_gt),
      fun mv hlo hband => answer_of_ok rfl (doInputBandChange_fails hlo hband hrow), fun c r => ?_⟩
    obtain ⟨hcause, up, hoff⟩ := State.powerFail_off hrow c r
    simp only [State.offView, Prod.mk.injEq] at hoff
    obtain ⟨hmem, hpending, hlife, hdown, hstate⟩ := hoff
    refine ⟨hcause, ?_, hstate, hmem, hpending, hlife⟩
    rw [hdown]
    split_ifs <;> decide
  case starts => exact answer_of_ok rfl (doInputBandChange_starts hlo hhi)
  case ports =>
    have hok : (okPort q && okSub k) = true := Bool.and_eq_true_iff.2 ⟨decide_eq_true hq, decide_eq_true hk⟩
    exact ⟨answer_of_ok hok (doNeighborSolicitation_linkLocal hup), fun hnet => answer_of_ok hok (doNeighborSolicitation_plane hup hnet),
      fun a => answer_of_ok hok (doRouterAdvertisement_up hup a), answer_of_ok hok (doPauseFrame_up hup)⟩
  case tagged =>
    have hok : (okPort q && okSub k) = true := Bool.and_eq_true_iff.2 ⟨decide_eq_true hq, decide_eq_true hk⟩
    exact ⟨answer_of_ok hok (State.untagged_of_tag hv s _), answer_of_ok hok (State.untagged_of_tag hv s _)⟩
  case debug =>
    exact ⟨fun a => answer_of_ok rfl (doI3cDynamicAddress_powered hstandby a), fun b => answer_of_ok rfl (doInBandInterruptEnable_powered hstandby b),
      fun k => answer_of_ok rfl (doJtagInstruction_loads hstandby k), fun k => answer_of_ok rfl (doJtagInstruction_held hstandby k)⟩

end Sys2Proof.Machine
end

section
/-! PROOF. The step: the command at the front of the queue, and the tick that passes when none waits (R215, R368, log entry 4). -/

namespace Sys2Proof.Machine

/-! ## What the ports send in a tick (R215) -/

theorem Sub.tick_sends_nothing {k : Sub} (hqueue : k.queue = []) (w : List Nat) (rate : Nat) : (k.tick w rate).1 = [] := by
  unfold Sub.tick
  simp only [hqueue, List.length_nil]
  split
  · rfl
  · rfl

theorem Port.tick_sends_nothing {x : Port} (hheld : x.held = []) (hqueues : ∀ k ∈ x.subs, k.queue = []) (cfg q : Nat) : (x.tick cfg q).1 = [] := by
  unfold Port.tick
  dsimp only
  rw [hheld, if_pos List.isEmpty_nil]
  split_ifs
  · rfl
  · refine List.flatMap_eq_nil_iff.2 fun a ha => ?_
    obtain ⟨k, hk, hsub⟩ := List.mem_map.1 (List.of_mem_zip ha).2
    have hsends : a.2.1 = [] := (congrArg Prod.fst hsub.symm).trans (Sub.tick_sends_nothing (hqueues k hk) _ _)
    exact List.map_eq_nil_iff.2 hsends

/-! ## The tick, part by part -/

/-- What one tick makes of the ports: each with what it sends. -/
def State.portTicks (s : State) : List (List Out × Port) := (enum s.net.ports).map fun x => x.2.tick s.cfgWord x.1

theorem State.portTicks_length (s : State) : s.portTicks.length = s.net.ports.length := by
  rw [State.portTicks, List.length_map, length_enum]

theorem State.portTicks_silent {s : State} (hports : ∀ x ∈ s.net.ports, x.held = [] ∧ ∀ k ∈ x.subs, k.queue = []) :
    s.portTicks.flatMap (·.1) = [] := by
  refine List.flatMap_eq_nil_iff.2 fun a ha => ?_
  obtain ⟨⟨q, x⟩, hx, rfl⟩ := List.mem_map.1 ha
  obtain ⟨hheld, hqueues⟩ := hports x (List.of_mem_zip hx).2
  exact Port.tick_sends_nothing hheld hqueues s.cfgWord q

/-- The state after the clock's tick while the root VCO is locked. -/
theorem State.clockTick_locked {s : State} (hvco : s.power.vco = true) : s.clockTick =
    { s with tick := (s.tick + 1) % 2 ^ 64, net := { s.net with ports := s.portTicks.map (·.2) }, out := s.out ++ s.portTicks.flatMap (·.1),
             power := { s.power with busyTick := if s.parts.any Part.busy then (s.tick + 1) % 2 ^ 64 else s.power.busyTick } } :=
  if_neg (by rw [hvco]; exact Bool.false_ne_true)

theorem State.clockTick_unlocked {s : State} (hvco : s.power.vco = false) : s.clockTick = s := if_pos (by rw [hvco]; rfl)

/-- A module that has started, with nothing for a tick to do but count: no grant withdrawn, no raw level other than its filtered one, and no unknown
opcode at the head of a context. -/
structure State.Quiet (s : State) : Prop where
  row : s.power.row = 11
  leaving : s.power.leaving.all (· == 0) = true
  raw : ∀ k < 3, s.power.raw.getD k true = s.pin k
  heads : ∀ ctx ∈ [none, some 0, some 1, some 2, some 3], s.unknownHead ctx = none

/-- The holds of the input filter and of standby run down by one tick. -/
def State.holdsDown (s : State) : State := s.modPower fun w => { w with edgeHold := w.edgeHold.map (· - 1), standbyLeft := w.standbyLeft - 1 }

theorem State.Quiet.clockTick {s : State} (h : s.Quiet) : s.clockTick.Quiet := by
  cases hvco : s.power.vco with
  | false => rwa [State.clockTick_unlocked hvco]
  | true => rw [State.clockTick_locked hvco]; exact ⟨h.row, h.leaving, h.raw, h.heads⟩

theorem State.Quiet.holdsDown {s : State} (h : s.Quiet) : s.holdsDown.Quiet := ⟨h.row, h.leaving, h.raw, h.heads⟩

theorem State.Quiet.grantAcks {s : State} (h : s.Quiet) : s.grantAcks = s := if_pos h.leaving

theorem State.Quiet.filterTick {s : State} (h : s.Quiet) : s.filterTick = s.holdsDown := by
  have hnone : ((List.range 3).filter fun k => s.holdsDown.power.raw.getD k true != s.holdsDown.pin k) = [] :=
    List.filter_eq_nil_iff.2 fun k hk hne => bne_iff_ne.1 hne (h.holdsDown.raw k (List.mem_range.1 hk))
  unfold State.filterTick
  exact congrArg (fun l => s.holdsDown.each l fun s k => s.rawChange k (s.power.raw.getD k true)) hnone

theorem State.Quiet.nextRow {s : State} (h : s.Quiet) : s.nextRow = s := by
  unfold State.nextRow
  rw [h.row]
  rfl

theorem State.Quiet.refuseUnknown {s : State} (h : s.Quiet) (n : Nat) : s.refuseUnknown n = s := by
  cases n with
  | zero => rfl
  | succ n =>
    unfold State.refuseUnknown
    rw [List.findSome?_eq_none_iff.2 h.heads]

theorem idleTick_of_quiet {s : State} (h : s.Quiet) : idleTick s = s.clockTick.holdsDown := by
  unfold idleTick
  rw [h.clockTick.grantAcks, h.clockTick.filterTick, h.clockTick.holdsDown.nextRow, h.clockTick.holdsDown.refuseUnknown]

theorem step_idle {s : State} (hempty : s.pending = []) : step s = .next (idleTick s) := by
  unfold step
  rw [hempty]

/-- Settles O1: with no command waiting, a quiet module's tick is that of the clock and of the holds. -/
theorem stepRunsFrontCommand : Obligations.StepRunsFrontCommand := by
  refine ⟨fun c rest s => rfl, fun s hempty hrow hleaving hraw hheads => ?_⟩
  have hquiet : s.Quiet := ⟨hrow, hleaving, hraw, hheads⟩
  have hstep : step s = .next s.clockTick.holdsDown := (step_idle hempty).trans (congrArg _ (idleTick_of_quiet hquiet))
  refine ⟨fun hvco => ?unlocked, fun hvco => ⟨s.portTicks.map (·.2), s.portTicks.flatMap (·.1), ?length, ?locked, State.portTicks_silent⟩⟩
  case unlocked => rw [hstep, State.clockTick_unlocked hvco]; rfl
  case locked => rw [hstep, State.clockTick_locked hvco]; rfl
  case length => rw [List.length_map, State.portTicks_length]

end Sys2Proof.Machine
end

section
/-! PROOF. The wide area (chapter 11): segments as they are sent and taken, their timers, and the round words (R246-R256, R261, R262, R265). -/

namespace Sys2Proof.Machine

/-! ## Sending (R250, R256) -/

/-- Whether a segment of the own term of round `k` is staged, owed to an island, and neither outstanding nor acknowledged. -/
def State.segmentDue (s : State) (p isl slab seg c e j : Nat) (x : SlabSt) (k : Nat) : Bool :=
  let o := (s.part p).outer
  s.staged c j x k && jpRound0 (s.params p) ≤ k && oiFirst e ≤ k + 1 &&
    !(o.outs.any fun y => y.isl == isl && y.slab == slab && y.round == k && y.seg == seg) && !o.acked.contains (isl, slab, k, seg)

/-- A speaker whose terms an island takes, with room in the window toward that island's own speaker. -/
structure State.MaySend (s : State) (p isl slab seg c t e j : Nat) (x : SlabSt) : Prop where
  cfg : (s.part p).outer.cfg = some c
  island : (s.part p).outer.island_ isl = some (t, e)
  index : (s.part p).outer.slabIx slab = some j
  owned : (s.part p).outer.slabs[j]? = some x
  other : t ≠ rcOwn c
  enabled : oiEnabled e = true
  speaker : osSpeaker x.desc = true
  feeds : s.feeds p = true
  inSlab : seg < slabSegs (rcFmt c) (osCount x.desc)
  window : ((s.part p).outer.outs.filter fun y => y.isl == isl && s.speaker e y.slab == s.speaker e slab).length <
    ((s.part p).outer.dest isl (s.speaker e slab).1 (s.speaker e slab).2).win

theorem doOuterSend_due {s u : State} {p isl slab seg c t e j k n : Nat} {x : SlabSt} {found : Found} (hmay : s.MaySend p isl slab seg c t e j x)
    (hdue : (([(s.part p).run.openRound - 2, (s.part p).run.openRound - 1].eraseDups.filter fun k => k + 1 ≤ (s.part p).run.openRound).find?
      (s.segmentDue p isl slab seg c e j x)) = some k)
    (hsent : (s.meet [(s.part p).outer.segRange j k seg x] found).dataSegment p j e (s.speaker e slab).1 (s.speaker e slab).2 k seg x = (u, some n)) :
    doOuterSend p isl slab seg found s =
      (u.roundCount p (if (s.part p).outer.again.contains (isl, slab, k, seg) then rsResent else rsSent) 1).modOuter p fun o =>
        let z := (u.part p).outer.dest isl (s.speaker e slab).1 (s.speaker e slab).2
        { o with
          again := o.again.filter (· != (isl, slab, k, seg))
          outs := o.outs ++ [{ isl := isl, slab := slab, round := k, seg := seg, first := u.tick, last := u.tick, timer := u.tick + z.rto, rto := z.rto, plane := z.plane }] } := by
  have hnow : ¬(!s.feeds p ∨ t = rcOwn c ∨ !oiEnabled e ∨ !osSpeaker x.desc ∨ slabSegs (rcFmt c) (osCount x.desc) ≤ seg ∨
      ((s.part p).outer.dest isl (s.speaker e slab).1 (s.speaker e slab).2).win ≤
        ((s.part p).outer.outs.filter fun y => y.isl == isl && s.speaker e y.slab == s.speaker e slab).length) := by
    simp [hmay.feeds, hmay.other, hmay.enabled, hmay.speaker, hmay.inSlab, hmay.window]
  unfold doOuterSend
  dsimp only
  rw [hmay.cfg, hmay.island, hmay.index]
  dsimp only
  rw [hmay.owned]
  refine (if_neg hnow).trans ?_
  unfold State.segmentDue at hdue
  dsimp only at hdue ⊢
  rw [hdue]
  dsimp only
  rw [hsent]

/-! ## Reception (R247, R249, R256, R265) -/

section
variable {s u : State} {x : OuterSeg} {v : OuterIn}

theorem State.holdsRound_iff {p r : Nat} : s.holdsRound p r = true ↔ r ≤ (s.part p).run.openRound ∧ (s.part p).run.openRound ≤ r + 2 := by
  rw [State.holdsRound, Bool.and_eq_true, decide_eq_true_eq, decide_eq_true_eq]

/-- A segment of a round held, from the speaker of its slab, that no receive state has yet, is accepted and placed. -/
theorem State.takeOuterData_places {j : Nat} {sl : SlabSt} (hix : (u.part v.p).outer.slabIx x.slab = some j) (hslab : (u.part v.p).outer.slabs[j]? = some sl)
    (hheld : u.holdsRound v.p x.round = true) (hfrom : u.speaker v.e x.slab = (x.srcModule, x.srcPart)) (hspeaker : osSpeaker sl.desc = true)
    (hfirst : oiFirst v.e ≤ x.round)
    (hnew : ∀ y ∈ (u.part v.p).outer.rxs, y.isl = x.srcIsland → y.mod = x.srcModule → y.slab = x.slab → y.round = x.round → y.got.contains x.segIndex = false) :
    u.takeOuterData x v =
      (u.accepted v.p v.e v.k x.srcModule x.srcPart).placeData v.p j v.e x v.body (((u.part v.p).outer.island_ x.srcIsland).elim 0 (·.1)) sl := by
  obtain ⟨hopen, hpast⟩ := State.holdsRound_iff.1 hheld
  have hright : ¬(u.speaker v.e x.slab ≠ (x.srcModule, x.srcPart) ∨ !osSpeaker sl.desc ∨ x.round < oiFirst v.e) := by
    simp [hfrom, hspeaker, hfirst]
  have hnone : ((u.part v.p).outer.rxs.find? fun y =>
      y.isl == x.srcIsland && y.mod == x.srcModule && y.slab == x.slab && y.round == x.round && y.got.contains x.segIndex) = none := by
    refine List.find?_eq_none.2 fun y hy hgot => ?_
    simp only [Bool.and_eq_true, beq_iff_eq] at hgot
    obtain ⟨⟨⟨⟨hisl, hmod⟩, hslab⟩, hround⟩, hseg⟩ := hgot
    exact Bool.false_ne_true ((hnew y hy hisl hmod hslab hround).symm.trans hseg)
  unfold State.takeOuterData
  dsimp only
  rw [if_neg hopen.not_gt, if_neg hpast.not_gt, hix]
  dsimp only
  rw [hslab]
  refine (if_neg hright).trans ?_
  rw [hnone]

/-- A segment that passes checks 1-7 is its own row's to take. -/
theorem answer_received {type : Nat} {act : OuterIn → State → State} {t : State} (hheard : s.outerReceive type x = (u, some v)) (hact : act v u = t) :
    answer true (match s.outerReceive type x with
      | (s, none) => s
      | (s, some v) => act v s) = .next t := by
  rw [hheard]
  exact congrArg _ hact

end

/-! ## Timers toward a destination (R248-R252, R265) -/

section
variable {s : State} {p : Nat}

theorem doOuterAckTimer_due {m slab round t e i : Nat} {y : OuterRx}
    (hfind : ((s.part p).outer.rxs.find? fun y => y.mod == m && y.slab == slab && y.round == round && y.oldest.isSome) = some y) (hold : y.oldest = some t)
    (hisl : (s.part p).outer.island_ y.isl = some (i, e)) (hdue : t + ticksMs 1 ≤ s.tick) : doOuterAckTimer p m slab round s = s.ackRx p e y := by
  unfold doOuterAckTimer
  dsimp only
  rw [hfind]
  dsimp only
  rw [hold, hisl]
  exact if_pos hdue

section
variable {isl slab round seg i e : Nat} {y : OutSeg}
  (hfind : ((s.part p).outer.outs.find? fun y => y.isl == isl && y.slab == slab && y.round == round && y.seg == seg) = some y)
  (hisl : (s.part p).outer.island_ isl = some (i, e))
include hfind hisl

theorem doReorderLoss_due {t : Nat} (hlater : y.laterAck = some t)
    (hdue : t + ((s.part p).outer.dest isl (s.speaker e slab).1 (s.speaker e slab).2).reo ≤ s.tick) : doReorderLoss p isl slab round seg s = s.resendOuter p y := by
  unfold doReorderLoss
  dsimp only
  rw [hfind, hisl]
  dsimp only
  rw [hlater]
  exact if_pos hdue

/-- A segment's timer toward a speaker doubled, up to 4 s. -/
def State.doubleTimer (v : State) (isl e : Nat) (to_ : Nat × Nat) (w : OutSeg) : OutSeg :=
  if w.isl == isl && v.speaker e w.slab == to_ then { w with rto := min (ticksSec 4) (2 * w.rto), timer := v.tick + min (ticksSec 4) (2 * w.rto) } else w

/-- The probe is counted and noted with the destination, and every timer toward the destination is doubled. -/
theorem doOuterRtoExpiry_due {u : State} {n : Nat} (hdue : y.timer ≤ s.tick)
    (hsent : s.sendOuter p e (s.speaker e slab).1 (s.speaker e slab).2
      { type := 2, fmt := rcFmt ((s.part p).outer.cfg.getD 0), round := round, slab := slab, segIndex := seg } [] = (u, some n)) :
    doOuterRtoExpiry p isl slab round seg s =
      let v := (u.roundCount p rsProbes 1).modDest p isl (s.speaker e slab).1 (s.speaker e slab).2 fun d => { d with probes := d.probes ++ [(slab, n, u.tick)] }
      v.modOuter p fun o => { o with outs := o.outs.map (v.doubleTimer isl e (s.speaker e slab)) } := by
  unfold doOuterRtoExpiry
  dsimp only
  rw [hfind, hisl]
  refine (if_neg hdue.not_gt).trans ?_
  rw [hsent]
  rfl

end

theorem doHelloTimer_first {isl slab c t e j : Nat} (hcfg : (s.part p).outer.cfg = some c) (hisl : (s.part p).outer.island_ isl = some (t, e))
    (hix : (s.part p).outer.slabIx slab = some j) (hother : t ≠ rcOwn c) (henabled : oiEnabled e = true)
    (hspeaker : (((s.part p).outer.slabs[j]?).any fun x => osSpeaker x.desc) = true)
    (hnever : ((s.part p).outer.dest isl (s.speaker e slab).1 (s.speaker e slab).2).helloAt = none) :
    doHelloTimer p isl slab s = s.sendHello p j e (s.speaker e slab).1 (s.speaker e slab).2 true := by
  unfold doHelloTimer
  dsimp only
  rw [hcfg, hisl, hix]
  dsimp only
  rw [hnever]
  exact if_neg (by simp [hother, henabled, hspeaker])

theorem doGraceWindowClose_due {isl g t n k : Nat} (hfind : ((s.part p).outer.grace.find? fun g => g.1 == isl) = some (g, t, n, k)) (hheard : 64 ≤ n)
    (hdue : t + (s.part p).outer.srttTo isl ≤ s.tick) :
    doGraceWindowClose p isl s = s.modOuter p fun o => { o with grace := o.grace.filter fun g => g.1 != isl } := by
  unfold doGraceWindowClose
  dsimp only
  rw [hfind]
  exact if_pos ⟨hheard, hdue⟩

/-! ## Round words (R261, R262) -/

/-- The round booked as added to. -/
def State.addBooked (s : State) (p round : Nat) : State := s.modOuter p fun o => { o with added := o.added.filter (fun r => round ≤ r + 2) ++ [round] }

theorem State.addBooked_contains (hp : p < s.parts.length) (round : Nat) : ((s.addBooked p round).part p).outer.added.contains round = true := by
  have hself : ((s.addBooked p round).part p).outer.added = (s.part p).outer.added.filter (fun r => round ≤ r + 2) ++ [round] :=
    congrArg (fun q : Part => q.outer.added) (State.part_modPart_self hp _)
  rw [hself]
  simp

/-- A word stored reads back. -/
theorem State.word_store (s : State) (la n w : Nat) (mk : Bool) (hw : w < 256 ^ n) : (s.store la (leBytes n w) mk).word la n = w := by
  have hread := State.store_bytes s la (leBytes n w) mk
  rw [length_leBytes] at hread
  rw [State.word, hread, leNat_leBytes n w hw]

theorem State.part_store (s : State) (la : Nat) (bs : List Byte) (mk : Bool) (q : Nat) : (s.store la bs mk).part q = s.part q := by
  rw [State.store_frame]
  rfl

section
variable {g : Nat} (hfenced : (s.part p).fenced = false) (hown : s.ownRange p g 8 [1, 2] = true)
include hfenced hown

/-- A word in the module's own memory is added to at once. -/
theorem doRoundWordAdd_own {round : Nat} (hplace : s.wordPlace p round = some g) (hclosed : round + 1 = (s.part p).run.openRound)
    (hnew : (s.part p).outer.added.contains round = false) (hsealed : (s.part p).outer.allSealed round = true) (hclean : s.marked (gLocal g) 8 = false) :
    doRoundWordAdd p round s = (s.addBooked p round).store (gLocal g) (leBytes 8 ((s.word (gLocal g) 8 + 1) % 2 ^ 64)) false := by
  have hnow : ¬(round + 1 ≠ (s.part p).run.openRound ∨ (s.part p).outer.added.contains round ∨ !(s.part p).outer.allSealed round ∨ (s.part p).fenced) := by
    rw [hclosed, hnew, hsealed, hfenced]
    simp
  have hstill : (s.addBooked p round).ownRange p g 8 [1, 2] = true := hown
  have hunmarked : ¬(s.addBooked p round).marked (gLocal g) 8 = true := by
    rw [show (s.addBooked p round).marked (gLocal g) 8 = false from hclean]
    exact Bool.false_ne_true
  unfold doRoundWordAdd
  refine (if_neg hnow).trans ?_
  rw [hplace]
  exact (if_pos hstill).trans (if_neg hunmarked)

theorem doRoundWordPoll_own (hplace : s.wordPlace p (s.part p).run.waitRound = some g) (hheld : (s.part p).run.holds.contains .roundWord = true) :
    doRoundWordPoll p s = s.landRead p .roundRead (s.bytes (gLocal g) 8) (s.byteMarks (gLocal g) 8) := by
  have hnow : ¬(!(s.part p).run.holds.contains .roundWord ∨ (s.part p).fenced) := by
    rw [hheld, hfenced]
    simp
  unfold doRoundWordPoll
  refine (if_neg hnow).trans ?_
  rw [hplace]
  exact if_pos hown

end

/-- The terms on time of the first slab that a round's seals lack, the own one among them; 0 where every slab is sealed (Table 15-13). -/
def Outer.onTime (o : Outer) (rho : Nat) : Nat := match o.slabs.find? fun x => !x.seals.any fun r => slRound r == rho with
  | some x => 1 + (o.islands.filter fun e => oiEnabled e && o.complete (oiIsland e) (osSlab x.desc) rho).length
  | none => 0

theorem doRoundHold_due (hheld : (s.part p).run.holds.contains .roundWord = true) (hcoord : s.isCoordinator p = true)
    (hdue : (s.part p).run.holdTick + ticksSec 10 ≤ s.tick) : doRoundHold p s =
      (s.modRun p fun r => { r with holdTick := s.tick }).notice p 2
        (pack [(32, (s.part p).run.waitRound), (16, (s.part p).outer.onTime (s.part p).run.waitRound), (192, 0)]) := by
  have hnow : ¬(!(s.part p).run.holds.contains .roundWord ∨ !s.isCoordinator p ∨ s.tick < (s.part p).run.holdTick + ticksSec 10) := by
    rw [hheld, hcoord]
    simp [hdue]
  exact if_neg hnow

end

/-- Settles O51: a segment due goes out and one heard is taken by its own row, each timer is due, and a round word in the module's own memory is added to
and read there. -/
theorem outerRoundsComplete : Obligations.OuterRoundsComplete := by
  refine ⟨?send, fun s u x v => ⟨?data, ?ack, ?probe, ?hello⟩, fun s p hp => ?timers⟩
  case send =>
    intro s p isl slab seg c t e j k x found hp hcfg hisl hix hslab hother henabled hspeaker hfeeds hseg o r to_ hwin hdue u n hsent
    exact answer_of_ok (decide_eq_true hp) (doOuterSend_due ⟨hcfg, hisl, hix, hslab, hother, henabled, hspeaker, hfeeds, hseg, hwin⟩ hdue hsent)
  case data =>
    exact fun c j sl hheard hcfg hix hslab hheld hfrom hspeaker hfirst hnew =>
      answer_received (act := fun v s => s.takeOuterData x v) hheard (State.takeOuterData_places hix hslab hheld hfrom hspeaker hfirst hnew)
  case ack => exact fun hheard _ => answer_received (act := fun v s => s.takeOuterAck x v) hheard rfl
  case probe => exact fun hheard _ => answer_received (act := fun v s => s.takeProbe x v) hheard rfl
  case hello => exact fun hheard => answer_received (act := fun v s => s.takeHello x v) hheard rfl
  case timers =>
    have hok : okPart p = true := decide_eq_true hp
    intro o
    refine ⟨fun m slab round y t e i hfind hold hisl hdue => ?ackTimer, fun isl slab round seg y i e hfind hisl => ⟨fun t hlater hdue => ?reorder,
      fun u n hdue hsent => ?rto⟩, fun isl slab c t e j hcfg hisl hix hother henabled hspeaker hnever => ?helloTimer,
      fun isl g t n k hfind hheard hdue => ?grace, fun hfenced => ⟨fun round g hplace hclosed hnew hsealed hown hclean => ?add, fun g hplace hheld hown => ?poll⟩,
      fun hheld hcoord hdue => ?hold⟩
    case ackTimer => exact answer_of_ok hok (doOuterAckTimer_due hfind hold hisl hdue)
    case reorder => exact answer_of_ok hok (doReorderLoss_due hfind hisl hlater hdue)
    case rto => exact answer_of_ok hok (doOuterRtoExpiry_due hfind hisl hdue hsent)
    case helloTimer => exact answer_of_ok hok (doHelloTimer_first hcfg hisl hix hother henabled hspeaker hnever)
    case grace => exact answer_of_ok hok (doGraceWindowClose_due hfind hheard hdue)
    case add =>
      refine ⟨_, answer_of_ok hok (doRoundWordAdd_own hfenced hown hplace hclosed hnew hsealed hclean), State.word_store _ _ 8 _ _ (Nat.mod_lt _ (by decide)),
        fun hlen => ?_, fun a hout => State.store_read_out _ _ _ _ (by rwa [length_leBytes])⟩
      rw [State.part_store]
      exact State.addBooked_contains hlen round
    case poll => exact answer_of_ok hok (doRoundWordPoll_own hfenced hown hplace hheld)
    case hold => exact ⟨_, answer_of_ok hok (doRoundHold_due hheld hcoord hdue)⟩

end Sys2Proof.Machine
end

section
/-! PROOF. The control interface: the completion of a command, its checks in order, what a module reset leaves, and the
ownership word (R327, R332-R335, R337, R355). -/

-- A worker thread for each theorem would not fit the memory in which the text is checked whole.
set_option Elab.async false

namespace Sys2Proof.Machine

/-! ## Fields of a number -/

theorem testBit_bits (n hi lo i : Nat) : (bits n hi lo).testBit i = (decide (i < hi + 1 - lo) && n.testBit (lo + i)) := by
  rw [bits, Nat.testBit_mod_two_pow, Nat.testBit_shiftRight]

section
variable {n hi lo v : Nat}

/-- A number with a field set: what lies above the field, the field, and what lies below it. -/
theorem setField_eq : setField n hi lo v = 2 ^ lo * (2 ^ (hi + 1 - lo) * (n >>> lo / 2 ^ (hi + 1 - lo)) + v % 2 ^ (hi + 1 - lo)) + n % 2 ^ lo := by
  have hlow : 2 ^ lo * (n >>> lo) + n % 2 ^ lo = n := by rw [Nat.shiftRight_eq_div_pow, Nat.div_add_mod]
  have hfield : 2 ^ (hi + 1 - lo) * (n >>> lo / 2 ^ (hi + 1 - lo)) + bits n hi lo = n >>> lo := Nat.div_add_mod _ _
  have hsplit := congrArg (2 ^ lo * ·) hfield
  simp only [Nat.mul_add] at hsplit ⊢
  rw [setField, Nat.mul_comm (bits n hi lo), Nat.mul_comm (v % _)]
  omega

theorem testBit_setField (hlo : lo ≤ hi) (i : Nat) : (setField n hi lo v).testBit i = if lo ≤ i ∧ i ≤ hi then v.testBit (i - lo) else n.testBit i := by
  rw [setField_eq, Nat.testBit_two_pow_mul_add _ (Nat.mod_lt _ (Nat.two_pow_pos lo))]
  by_cases hbelow : i < lo
  · rw [if_pos hbelow, if_neg (by omega), Nat.testBit_mod_two_pow, decide_eq_true hbelow, Bool.true_and]
  rw [if_neg hbelow, Nat.testBit_two_pow_mul_add _ (Nat.mod_lt _ (Nat.two_pow_pos _))]
  by_cases hin : i - lo < hi + 1 - lo
  · rw [if_pos hin, if_pos (by omega), Nat.testBit_mod_two_pow, decide_eq_true hin, Bool.true_and]
  · rw [if_neg hin, if_neg (by omega), ← Nat.shiftRight_eq_div_pow, Nat.testBit_shiftRight, Nat.testBit_shiftRight]
    congr 1
    omega

/-- The field set reads as set. -/
theorem bits_setField_same (hlo : lo ≤ hi) : bits (setField n hi lo v) hi lo = v % 2 ^ (hi + 1 - lo) := by
  refine Nat.eq_of_testBit_eq fun i => ?_
  rw [testBit_bits, testBit_setField hlo, Nat.testBit_mod_two_pow]
  by_cases hi' : i < hi + 1 - lo
  · rw [if_pos (by omega), Nat.add_sub_cancel_left]
  · rw [decide_eq_false hi', Bool.false_and, Bool.false_and]

/-- A field beside it reads as before. -/
theorem bits_setField_other {hi' lo' : Nat} (hlo : lo ≤ hi) (hout : hi' < lo ∨ hi < lo') : bits (setField n hi lo v) hi' lo' = bits n hi' lo' := by
  refine Nat.eq_of_testBit_eq fun i => ?_
  rw [testBit_bits, testBit_bits, testBit_setField hlo]
  by_cases hin : i < hi' + 1 - lo'
  · rw [if_neg (by omega)]
  · rw [decide_eq_false hin, Bool.false_and, Bool.false_and]

theorem bit_setField_same : bit (setField n lo lo v) lo = v.testBit 0 := by
  rw [bit, testBit_setField le_rfl, if_pos ⟨le_rfl, le_rfl⟩, Nat.sub_self]

theorem bit_setField_other {k : Nat} (hlo : lo ≤ hi) (hout : k < lo ∨ hi < k) : bit (setField n hi lo v) k = bit n k := by
  rw [bit, bit, testBit_setField hlo, if_neg (by omega)]

/-- A field set within a width stays within it. -/
theorem setField_lt {w : Nat} (hlo : lo ≤ hi) (hhi : hi < w) (hn : n < 2 ^ w) : setField n hi lo v < 2 ^ w := by
  refine Nat.lt_pow_two_of_testBit _ fun i hi' => ?_
  rw [testBit_setField hlo, if_neg (by omega)]
  exact Nat.testBit_lt_two_pow (hn.trans_le (Nat.pow_le_pow_right (by decide) hi'))

end

theorem leNat_lt : ∀ l : List Byte, leNat l < 256 ^ l.length
  | [] => Nat.one_pos
  | b :: l => by
    have hl := leNat_lt l
    have hb := b.isLt
    rw [leNat, List.length_cons, Nat.pow_succ]
    omega

/-! ## What a completion writes (R332, R335) -/

/-- As many numbers as 64 bytes spell, 512 bits do. -/
theorem pow_header : 256 ^ 64 = 2 ^ 512 := by rw [show 256 = 2 ^ 8 from rfl, show 512 = 8 * 64 from rfl, Nat.pow_mul]

theorem State.mbxHdr_lt (s : State) (m : Nat) : s.mbxHdr m < 2 ^ 512 := by
  have h := leNat_lt (s.get4 (mbxBase m) 64)
  rw [State.get4, Memory.length_readN] at h
  exact h.trans_eq pow_header

/-- The response of a command in its place: inline, or in the bulk buffer. -/
def State.putResp (s : State) (m : Nat) (resp : List Byte) : State :=
  if resp.isEmpty then s else if 4032 < resp.length then s.put4 (bulkBase m) resp else s.put4 (mbxBase m + 0x40) resp

/-- A header at completion: step_seen, status, resp_len, resp_bulk, err_off and the ownership word written. -/
def finishedHdr (h step status len off : Nat) : Nat :=
  setField (setField (setField (setField (setField (setField h 447 400 step) 359 352 status) 335 320 len) 318 318 (b01 (decide (4032 < len)))) 317 302 off) 31 0 3

section
variable {h step status len off hi lo : Nat}

/-- The fields that a completion does not write: target, opcode, version, argument lengths, cookie and reserved bits. -/
theorem bits_finishedHdr_other (hout : 447 < lo ∨ (359 < lo ∧ hi < 400) ∨ (335 < lo ∧ hi < 352) ∨ (31 < lo ∧ hi < 302)) :
    bits (finishedHdr h step status len off) hi lo = bits h hi lo := by
  simp (disch := omega) only [finishedHdr, bits_setField_other]

theorem finishedHdr_step : bits (finishedHdr h step status len off) 447 400 = step % 2 ^ 48 := by
  simp (disch := omega) only [finishedHdr, bits_setField_other, bits_setField_same, Nat.reduceAdd, Nat.reduceSub]

theorem finishedHdr_status (hst : status < 256) : bits (finishedHdr h step status len off) 359 352 = status := by
  simp (disch := omega) only [finishedHdr, bits_setField_other, bits_setField_same, Nat.mod_eq_of_lt]

theorem finishedHdr_len (hlen : len < 65536) : bits (finishedHdr h step status len off) 335 320 = len := by
  simp (disch := omega) only [finishedHdr, bits_setField_other, bits_setField_same, Nat.mod_eq_of_lt]

theorem finishedHdr_off (hoff : off < 65536) : bits (finishedHdr h step status len off) 317 302 = off := by
  simp (disch := omega) only [finishedHdr, bits_setField_other, bits_setField_same, Nat.mod_eq_of_lt]

theorem finishedHdr_own : mhOwn (finishedHdr h step status len off) = 3 := bits_setField_same (by omega)

theorem testBit_b01 (b : Bool) : (b01 b).testBit 0 = b := by cases b <;> rfl

theorem finishedHdr_bulk : bit (finishedHdr h step status len off) 318 = decide (4032 < len) := by
  simp (disch := omega) only [finishedHdr, bit_setField_other, bit_setField_same, testBit_b01]

theorem finishedHdr_argBulk : bit (finishedHdr h step status len off) 319 = bit h 319 := by
  simp (disch := omega) only [finishedHdr, bit_setField_other]

theorem finishedHdr_lt (hh : h < 2 ^ 512) : finishedHdr h step status len off < 2 ^ 512 := by
  unfold finishedHdr
  exact setField_lt (by omega) (by omega) (setField_lt (by omega) (by omega) (setField_lt (by omega) (by omega) (setField_lt (by omega) (by omega)
    (setField_lt (by omega) (by omega) (setField_lt (by omega) (by omega) hh)))))

end

section
variable (s : State) (m : Nat) (resp : List Byte)

/-- A response moves memory alone. -/
theorem State.putResp_frame : s.putResp m resp = { s with mem := (s.putResp m resp).mem } := by
  unfold State.putResp
  split_ifs <;> rfl

variable {m}

/-- The header lies outside both places of a response. -/
theorem State.mbxHdr_putResp (hm : m < 64) : (s.putResp m resp).mbxHdr m = s.mbxHdr m := by
  unfold State.putResp
  split_ifs with _ hbulk
  · rfl
  · exact congrArg leNat (Memory.readN_writeBytes_out _ _ _ _ _ (.inl (by simp only [localAddr, mbxBase, bulkBase]; omega)))
  · exact congrArg leNat (Memory.readN_writeBytes_out _ _ _ _ _ (.inl (by simp only [localAddr]; omega)))

theorem State.mbxFor_putResp (hm : m < 64) : (s.putResp m resp).mbxFor m = s.mbxFor m := by
  have hnp : (s.putResp m resp).nparts = s.nparts := by rw [State.putResp_frame]; rfl
  rw [State.mbxFor, State.mbxHdr_putResp s resp hm, hnp]
  rfl

theorem State.part_putResp (p : Nat) : (s.putResp m resp).part p = s.part p := by rw [State.putResp_frame]; rfl

/-- A completion: the response, then the header, then the smith's books. -/
theorem State.finishMbx_eq (hm : m < 64) (st off : Nat) : s.finishMbx m st resp off =
    { (s.putResp m resp).putHdr m (finishedHdr (s.mbxHdr m) (s.part (s.mbxFor m)).run.step st resp.length off) with
      observed := s.observed.filter (· != m), smithOwns := s.smithOwns.filter (· != m) } := by
  have hobs : (s.putResp m resp).observed = s.observed := by rw [State.putResp_frame]
  have hown : (s.putResp m resp).smithOwns = s.smithOwns := by rw [State.putResp_frame]
  rw [← State.mbxHdr_putResp s resp hm, ← State.mbxFor_putResp s resp hm, ← State.part_putResp s resp, ← hobs, ← hown]
  rfl

/-- A completion moves memory and the smith's books alone. -/
theorem State.finishMbx_frame (m st off : Nat) : s.finishMbx m st resp off =
    { s with mem := (s.finishMbx m st resp off).mem, observed := s.observed.filter (· != m), smithOwns := s.smithOwns.filter (· != m) } := by
  unfold State.finishMbx
  dsimp only
  split_ifs <;> rfl

theorem State.mbxHdr_putHdr (m : Nat) {h : Nat} (hh : h < 2 ^ 512) : (s.putHdr m h).mbxHdr m = h := by
  have hread := State.put4_get4 s (mbxBase m) (leBytes 64 h)
  rw [length_leBytes] at hread
  rw [State.mbxHdr, State.putHdr, hread, leNat_leBytes 64 h (hh.trans_eq pow_header.symm)]

theorem State.mbxHdr_finishMbx (hm : m < 64) (st off : Nat) :
    (s.finishMbx m st resp off).mbxHdr m = finishedHdr (s.mbxHdr m) (s.part (s.mbxFor m)).run.step st resp.length off := by
  rw [State.finishMbx_eq s resp hm]
  exact State.mbxHdr_putHdr _ m (finishedHdr_lt (s.mbxHdr_lt m))

theorem State.own_finishMbx (hm : m < 64) (st off : Nat) : (s.finishMbx m st resp off).own m = 3 := by
  rw [State.own, State.mbxHdr_finishMbx s resp hm, finishedHdr_own]

/-- The header's bytes lie outside those of the response. -/
theorem State.get4_finishMbx_resp (hm : m < 64) (st off : Nat) {a : Nat} (ha : mbxBase m + 64 ≤ a) (n : Nat) :
    (s.finishMbx m st resp off).get4 a n = (s.putResp m resp).get4 a n := by
  rw [State.finishMbx_eq s resp hm]
  exact Memory.readN_writeBytes_out _ _ _ _ _ (.inr (by rw [length_leBytes]; simp only [localAddr]; omega))

/-- The response reads back from its place. -/
theorem State.resp_finishMbx (hm : m < 64) (st off : Nat) : if 4032 < resp.length then (s.finishMbx m st resp off).get4 (bulkBase m) resp.length = resp
    else (s.finishMbx m st resp off).get4 (mbxBase m + 0x40) resp.length = resp := by
  have hne : 4032 < resp.length → resp.isEmpty = false := fun h => by cases resp <;> simp_all
  split_ifs with hbulk
  · rw [State.get4_finishMbx_resp s resp hm st off (by simp only [mbxBase, bulkBase]; omega), State.putResp, if_neg (by simp [hne hbulk]), if_pos hbulk, State.put4_get4]
  · rw [State.get4_finishMbx_resp s resp hm st off le_rfl, State.putResp, if_neg hbulk]
    split_ifs with hempty
    · rw [List.isEmpty_iff.1 hempty]
      exact List.eq_nil_of_length_eq_zero (Memory.length_readN _ _ _)
    · rw [State.put4_get4]

/-- Bytes outside the mailbox and its bulk buffer read as before. -/
theorem State.read_finishMbx_out (hm : m < 64) (hlen : resp.length ≤ 16384) (st off : Nat) {a : Nat}
    (hbox : ¬(localAddr 4 (mbxBase m) ≤ a ∧ a < localAddr 4 (mbxBase m + 0x1000))) (hbuf : ¬(localAddr 4 (bulkBase m) ≤ a ∧ a < localAddr 4 (bulkBase m + 0x4000))) :
    Memory.read (s.finishMbx m st resp off).mem a = Memory.read s.mem a := by
  simp only [localAddr] at hbox hbuf
  have hresp : Memory.read (s.putResp m resp).mem a = Memory.read s.mem a := by
    unfold State.putResp
    split_ifs
    · rfl
    · exact Memory.read_writeBytes_out _ _ _ _ (by simp only [localAddr]; omega)
    · exact Memory.read_writeBytes_out _ _ _ _ (by simp only [localAddr]; omega)
  rw [State.finishMbx_eq s resp hm, ← hresp]
  exact Memory.read_writeBytes_out _ _ _ _ (by rw [length_leBytes]; simp only [localAddr]; omega)

end

/-- Settles O9: the completion writes its response outside the header, and then the header, whose fields lie beside one another. -/
theorem completionWritesMailbox : Obligations.CompletionWritesMailbox := by
  intro s m st off resp hm hst hoff hlen t h
  have hhdr : t.mbxHdr m = finishedHdr h (s.part (s.mbxFor m)).run.step st resp.length off := State.mbxHdr_finishMbx s resp hm st off
  refine ⟨?header, State.resp_finishMbx s resp hm st off, fun a => State.read_finishMbx_out s resp hm hlen st off, State.finishMbx_frame s resp m st off⟩
  case header =>
    rw [hhdr]
    exact ⟨State.own_finishMbx s resp hm st off, finishedHdr_status hst, finishedHdr_len (by omega), finishedHdr_off hoff, finishedHdr_bulk, finishedHdr_step,
      bits_finishedHdr_other (by omega), bits_finishedHdr_other (by omega), bits_finishedHdr_other (by omega), bits_finishedHdr_other (by omega),
      bits_finishedHdr_other (by omega), finishedHdr_argBulk, bits_finishedHdr_other (by omega)⟩

/-! ## The checks of a command (R335) -/

section
variable {s : State} {m : Nat} {c : Cmd} {body : State → Nat → List Byte → Reply} {scope : Scope}

theorem State.command_notPosted (h : s.own m ≠ 1 ∨ m ∉ s.observed) : s.command m c body scope = s := by
  refine State.command_idle ?_ body scope
  have hhead : s.atHead m = false := by
    simp only [State.atHead, Bool.and_eq_false_iff, beq_eq_false_iff_ne, List.contains_eq_mem, decide_eq_false_iff_not]
    exact .inl h
  rw [hhead, Bool.false_and]

/-- A command whose turn has come goes through the checks. -/
theorem State.command_of_head (hhead : s.atHead m = true) (hop : mhOpcode (s.mbxHdr m) = c.op) : s.command m c body scope = s.checked m c body scope :=
  if_pos (by rw [hhead, hop, beq_self_eq_true, Bool.and_self])

/-! The check that fails answers; the ones before it have passed. -/

theorem State.checked_marked (hmark : s.mbxMarked m = true) :
    s.checked m c body scope = (s.slagBite 0 (s.global (localAddr 4 (mbxBase m)))).finishMbx m stREJECTED [] 0xFFFF := if_pos hmark

variable (hmark : s.mbxMarked m = false)
include hmark

theorem State.checked_limited (hlim : (s.sec.limited && !c.limited) = true) : s.checked m c body scope = s.finishMbx m stUNSUPPORTED [] 0xFFFF := by
  simp [State.checked, hmark, hlim]

variable (hlim : (s.sec.limited && !c.limited) = false)
include hlim

theorem State.checked_version (hver : mhVer (s.mbxHdr m) ≠ 1) : s.checked m c body scope = s.finishMbx m stVERSION [] 0xFFFF := by
  simp [State.checked, hmark, hlim, hver]

variable (hver : mhVer (s.mbxHdr m) = 1)
include hver

theorem State.checked_target (htarget : s.scopeOk m c = false) : s.checked m c body scope = s.finishMbx m stREJECTED [] 0xFFFF := by
  simp [State.checked, hmark, hlim, hver, htarget]

variable (htarget : s.scopeOk m c = true)
include htarget

theorem State.checked_scope {off : Nat} (hscope : scope s (s.mbxFor m) (s.mbxArgs m) = some off) :
    s.checked m c body scope = s.finishMbx m stREJECTED [] off := by
  simp [State.checked, hmark, hlim, hver, htarget, hscope]

variable (hscope : scope s (s.mbxFor m) (s.mbxArgs m) = none)
include hscope

theorem State.checked_forbidden (hforbid : s.sec.forbids c.op = true) : s.checked m c body scope = s.finishMbx m stDENIED [] 0xFFFF := by
  simp [State.checked, hmark, hlim, hver, htarget, hscope, hforbid]

variable (hforbid : s.sec.forbids c.op = false)
include hforbid

theorem State.checked_header (hhdr : hdrOk (s.mbxHdr m) c = false) : s.checked m c body scope = s.finishMbx m stREJECTED [] 0xFFFF := by
  simp [State.checked, hmark, hlim, hver, htarget, hscope, hforbid, hhdr]

theorem State.checked_zeros (hhdr : hdrOk (s.mbxHdr m) c = true) (hzeros : zerosOk c.zeros (s.mbxArgs m) = false) :
    s.checked m c body scope = s.finishMbx m stREJECTED [] c.zeros.1 := by
  simp [State.checked, hmark, hlim, hver, htarget, hscope, hforbid, hhdr, hzeros]

end

/-- Settles O10: each check answers once the ones before it have passed. -/
theorem commandChecksInOrder : Obligations.CommandChecksInOrder := by
  intro s m c body scope
  refine ⟨State.command_notPosted, fun hhead hop => ?_⟩
  rw [State.command_of_head hhead hop]
  exact ⟨State.checked_marked, fun hmark => ⟨State.checked_limited hmark, fun hlim => ⟨State.checked_version hmark hlim, fun hver =>
    ⟨State.checked_target hmark hlim hver, fun off htarget => State.checked_scope hmark hlim hver htarget, fun htarget hscope =>
      ⟨State.checked_forbidden hmark hlim hver htarget hscope, fun hforbid =>
        ⟨State.checked_header hmark hlim hver htarget hscope hforbid, State.checked_zeros hmark hlim hver htarget hscope hforbid⟩⟩⟩⟩⟩⟩

/-! ## What a module reset leaves (R355) -/

/-- Memory without a cell in a range reads blank there. -/
theorem State.get4_blank {s : State} {off n : Nat} (h : ∀ c ∈ s.mem, ¬(localAddr 4 off ≤ c.1 ∧ c.1 < localAddr 4 off + n)) : s.get4 off n = List.replicate n 0#8 := by
  have hnone : (s.mem.filter fun c => localAddr 4 off ≤ c.1 && c.1 < localAddr 4 off + n) = [] :=
    List.filter_eq_nil_iff.2 fun c hc hin => h c hc (by simpa using hin)
  rw [State.get4, Memory.readN, hnone, Memory.fillFrom_nil]
  rfl

/-- The boot chain and row 6 move the root of trust and the power registers alone. -/
theorem State.startUp_frame (s : State) : s.startUp = { s with sec := s.startUp.sec, power := s.startUp.power } := by
  unfold State.startUp
  split_ifs <;> rfl

theorem State.startUp_cap (s : State) : s.startUp.power.cap = s.power.cap := by
  unfold State.startUp
  split_ifs <;> rfl

theorem State.moduleReset_frame (s : State) (rails : Bool) :
    s.moduleReset rails = { s.cleared rails with sec := (s.moduleReset rails).sec, power := (s.moduleReset rails).power } := by
  cases rails with
  | false => rfl
  | true => exact State.startUp_frame _

/-- No byte of space 4 is kept. -/
theorem State.mem_cleared_lt {s : State} {rails : Bool} {c : Host.Cell} (h : c ∈ (s.cleared rails).mem) : c.1 < 3 * 2 ^ 41 := by
  cases rails with
  | false => cases h
  | true =>
    have hkept : c ∈ s.mem.filter fun c => decide (c.1 < 3 * 2 ^ 41) := h
    exact of_decide_eq_true (List.mem_filter.1 hkept).2

theorem State.get4_moduleReset (s : State) (rails : Bool) (off n : Nat) : (s.moduleReset rails).get4 off n = List.replicate n 0#8 := by
  refine State.get4_blank fun c hc hin => ?_
  rw [State.moduleReset_frame] at hc
  have hlow : c.1 < 3 * 2 ^ 41 := State.mem_cleared_lt hc
  simp only [localAddr] at hin
  omega

theorem State.own_moduleReset (s : State) (rails : Bool) (m : Nat) : (s.moduleReset rails).own m = 0 := by
  have hhdr : (s.moduleReset rails).mbxHdr m = 0 := by
    rw [State.mbxHdr, State.get4_moduleReset]
    exact leNat_replicate_blank 64
  rw [State.own, hhdr]
  rfl

theorem State.cap_moduleReset (s : State) (rails : Bool) : (s.moduleReset rails).power.cap = 4400 := by
  cases rails with
  | false => rfl
  | true => exact State.startUp_cap _

/-- No partition holds anything after a reset; the first is in RESET. -/
theorem State.part_cleared (s : State) (rails : Bool) (p : Nat) : (s.cleared rails).part p = { st := .reset } ∨ (s.cleared rails).part p = {} := by
  match p with
  | 0 => exact .inl rfl
  | 1 => exact .inr rfl
  | 2 => exact .inr rfl
  | 3 => exact .inr rfl
  | p + 4 => exact .inr rfl

theorem State.streams_cleared (s : State) (rails : Bool) (k : Nat) : ((s.cleared rails).streams.getD k {}).configured = false := by
  have hidle : (s.cleared rails).streams.getD k {} = {} := by
    change (List.replicate 5 ({} : TStream)).getD k {} = {}
    rw [List.getD_eq_getElem?_getD, List.getElem?_replicate]
    split_ifs <;> rfl
  rw [hidle]
  rfl

/-- Settles O8: what a reset clears it clears before the boot chain runs, which moves none of it. -/
theorem moduleResetControlInterface : Obligations.ModuleResetControlInterface := by
  intro s rails t
  have hframe : t = { s.cleared rails with sec := t.sec, power := t.power } := State.moduleReset_frame s rails
  refine ⟨fun m _ => ⟨State.get4_moduleReset s rails _ _, State.get4_moduleReset s rails _ _, State.own_moduleReset s rails m⟩, fun p => ?parts, ?streams,
    State.cap_moduleReset s rails, ?idValid, ?moduleId, ?planes, ?hasNet, ?allow, ?side, rfl, rfl⟩
  case parts =>
    have hpart : t.part p = (s.cleared rails).part p := by rw [hframe]; rfl
    rw [hpart]
    obtain h | h := State.part_cleared s rails p <;> rw [h] <;> exact ⟨rfl, rfl⟩
  case streams => rw [hframe]; exact State.streams_cleared s rails
  all_goals rw [hframe]; rfl

/-! ## The ownership word over memory that is not canonical -/

/-- A module whose memory is not in its canonical form: of the header of mailbox 0 a cell of its ownership word stands between two of its other bytes, so
that a read stops there. The header reads FREE with no argument bytes, and the line after it is marked. -/
def unsortedBox : State :=
  { State.reset with
    mem := [(localAddr 4 41, 1#8), (localAddr 4 0, 1#8), (localAddr 4 42, 1#8)]
    marks := [localAddr 4 64 / 64] }

/-- The mailbox as the host's write leaves it, posted and observed. -/
def unsortedPosted : State :=
  { unsortedBox.store (localAddr 4 (mbxBase 0)) (leBytes 4 1) false with observed := unsortedBox.observed ++ [0], smithOwns := setIns 0 unsortedBox.smithOwns }

theorem unsortedBox_free : unsortedBox.own 0 = 0 ∧ unsortedBox.mbxMarked 0 = false := by decide +kernel

/-- Its opcode, 0, is no command's, and no other context has a mailbox. -/
theorem unsortedPosted_heads : ∀ d ∈ [none, some 0, some 1, some 2, some 3], unsortedPosted.unknownHead d = if d = none then some 0 else none := by decide +kernel

theorem unsortedPosted_answered : ∀ d ∈ [none, some 0, some 1, some 2, some 3], (unsortedPosted.finishMbx 0 5 [] 0xFFFF).unknownHead d = none := by decide +kernel

/-- The write takes the cell away, so that an argument byte appears, which is marked: check 1 answers REJECTED. -/
theorem unsortedBox_rejected : bits ((unsortedBox.ownWrite 0 1).mbxHdr 0) 359 352 = stREJECTED := by decide +kernel

/-- Refutes O50: of an unknown opcode it says that the mailbox is answered UNSUPPORTED where its header and arguments carry no mark before the host's write, in
a state whose memory need not be canonical. In `unsortedBox` the write of the ownership word changes how the rest of the header reads; the arguments are then
marked, and the answer is REJECTED. -/
theorem not_ownershipWordRules : ¬ Obligations.OwnershipWordRules := by
  intro h
  obtain ⟨-, -, hposted, -⟩ := h unsortedBox 0 (by decide)
  obtain ⟨-, -, hunknown⟩ := hposted (.inl unsortedBox_free.1)
  obtain ⟨-, -, hstatus⟩ := hunknown none (by decide) unsortedPosted_heads unsortedBox_free.2 unsortedPosted_answered
  rw [unsortedBox_rejected] at hstatus
  exact absurd hstatus (by decide)

end Sys2Proof.Machine
end

section
/-! PROOF. The root of trust: who moves the lifecycle and the counters, and the key, security and SPDM commands
(R284, R285, R291-R303). -/

-- A worker thread for each theorem would not fit the memory in which the text is checked whole.
set_option Elab.async false

namespace Sys2Proof.Machine

/-! ## What a command leaves of the root of trust (R296, R297) -/

/-- The state that a command's answer leaves, before its completion is written. -/
def Reply.state : Reply → State
  | .keep t => t
  | .done t _ _ _ => t

/-- What is read of a state is as in one of two others. -/
def ReadsOneOf {β : Type} (π : State → β) (a b t : State) : Prop := π t = π a ∨ π t = π b

/-- What neither a completion nor a record moves, a command leaves as it was, or as its own part does. -/
theorem State.command_reads {β : Type} {π : State → β} {m : Nat} (hfinish : ∀ t st resp off, π (State.finishMbx t m st resp off) = π t)
    (hraise : ∀ t r, π (State.raise t r) = π t) (s : State) (c : Cmd) (body : State → Nat → List Byte → Reply) (scope : Scope) :
    ReadsOneOf π s (body s (s.mbxFor m) (s.mbxArgs m)).state (s.command m c body scope) := by
  have hrefused (st off : Nat) : ReadsOneOf π s (body s (s.mbxFor m) (s.mbxArgs m)).state (s.finishMbx m st [] off) := .inl (hfinish s _ _ _)
  unfold State.command
  refine iteInduction (fun _ => ?_) fun _ => .inl rfl
  unfold State.checked
  dsimp only
  refine iteInduction (fun _ => .inl ((hfinish _ _ _ _).trans (hraise s _))) fun _ => ?_
  iterate 7 refine iteInduction (fun _ => hrefused _ _) fun _ => ?_
  cases body s (s.mbxFor m) (s.mbxArgs m) with
  | keep t => exact .inr rfl
  | done t st resp off => exact iteInduction (fun _ => .inl (hfinish s _ _ _)) fun _ => .inr (hfinish t _ _ _)

theorem State.sec_finishMbx (s : State) (m st : Nat) (resp : List Byte) (off : Nat) : (s.finishMbx m st resp off).sec = s.sec := by rw [State.finishMbx_frame]

theorem State.parts_finishMbx (s : State) (m st : Nat) (resp : List Byte) (off : Nat) : (s.finishMbx m st resp off).parts = s.parts := by rw [State.finishMbx_frame]

theorem State.sec_command (s : State) (m : Nat) (c : Cmd) (body : State → Nat → List Byte → Reply) :
    (s.command m c body).sec = s.sec ∨ (s.command m c body).sec = (body s (s.mbxFor m) (s.mbxArgs m)).state.sec :=
  State.command_reads (fun t => State.sec_finishMbx t m) (fun _ _ => rfl) s c body noScope

theorem eq_of_answer_next {ok : Bool} {t u : State} (e : answer ok t = .next u) : u = t := by
  unfold answer at e
  split_ifs at e
  exact (Host.Outcome.next.inj e).symm

/-- FW.COMMIT moves the preferred bank and the counters, not the lifecycle state. -/
theorem runFwCommit_life (s : State) (p : Nat) (args : List Byte) : (runFwCommit s p args).state.sec.life = s.sec.life := by
  unfold runFwCommit State.fwCommit
  split_ifs <;> rfl

theorem State.arb_wipe (s : State) (d : Life) : (s.wipe d).sec.arb = s.sec.arb := by cases d <;> rfl

/-- LC.ADVANCE wipes, advances and resets; none of it touches the counters. -/
theorem runLcAdvance_arb (s : State) (p : Nat) (args : List Byte) : (runLcAdvance s p args).state.sec.arb = s.sec.arb := by
  unfold runLcAdvance
  dsimp only
  cases lifeOf (lcTarget (argNat args 0 128)) with
  | none => rfl
  | some d =>
    dsimp only
    split_ifs
    iterate 5 rfl
    exact (State.moduleReset_keeps (Keeps.refl _)).arb.trans (State.arb_wipe s d)

/-- Settles O7: every command but two keeps both; of these, each has its own part keep the other's field. -/
theorem lifecycleAndCountersGuarded : Obligations.LifecycleAndCountersGuarded := by
  intro c s t e
  by_cases hl : ∃ m, c = .lcAdvance m
  · obtain ⟨m, rfl⟩ := hl
    refine ⟨fun h => absurd rfl (h m), fun _ => ?_⟩
    rw [eq_of_answer_next e]
    obtain h | h := State.sec_command s m cmdLcAdvance runLcAdvance
    · rw [h]
    · rw [h, runLcAdvance_arb]
  by_cases hf : ∃ m, c = .fwCommit m
  · obtain ⟨m, rfl⟩ := hf
    refine ⟨fun _ => ?_, fun h => absurd rfl (h m)⟩
    rw [eq_of_answer_next e]
    obtain h | h := State.sec_command s m cmdFwCommit runFwCommit
    · rw [h]
    · rw [h, runFwCommit_life]
  · have hkeeps := exec_keeps (not_exists.mp hl) (not_exists.mp hf) e
    exact ⟨fun _ => hkeeps.life, fun _ => hkeeps.arb⟩

/-! ## The key commands in a module without partitions (R285) -/

/-- A KEY.OFFER of slot 0 posted in device mailbox 0 of a module that has no partition at all: `State.shaped` counts the partitions, but the statement does not
ask for it. -/
def noParts : State :=
  { ((({ State.reset with parts := [] } : State).put4 (mbxBase 0) (leBytes 64 (pack [(16, 0x8000), (16, 0x504), (8, 1), (8, 0), (16, 2), (16, 0), (1, 0), (319, 1)]))).put4
      (mbxBase 0 + 0x40) (leBytes 2 0)) with observed := [0], smithOwns := [0] }

theorem noParts_takes : noParts.takes 0 cmdKeyOffer := by
  unfold State.takes
  decide +kernel

theorem noParts_for : noParts.mbxFor 0 = 0 := by decide +kernel

theorem noParts_owns : noParts.ownSlot 0 (noParts.arg 0 0 2) = true := by decide +kernel

theorem runKeyOffer_parts (s : State) (p : Nat) (args : List Byte) : (runKeyOffer s p args).state.parts.length = s.parts.length := by
  unfold runKeyOffer
  dsimp only
  split_ifs
  · rfl
  · exact length_updAt _ _ _

/-- Refutes O13: the clause on KEY.OFFER would have the offers of the slot's partition grow by one, in a state in which that partition need not be there. In
`noParts` the command is let in and completes, and there is no partition for its offer to stand in. -/
theorem not_keyCommandsComplete : ¬ Obligations.KeyCommandsComplete := by
  intro h
  obtain ⟨-, -, -, -, hoffer, -⟩ := h noParts 0
  rw [noParts_for] at hoffer
  obtain ⟨t, resp, hexec, hgrows, -⟩ := hoffer noParts_takes noParts_owns (by decide)
  have hrow : answer (okMbx 0) (noParts.command 0 cmdKeyOffer runKeyOffer (slotScope false)) = .next (t.doneOK 0 resp) := hexec
  have hnone : t.parts.length = 0 := by
    rw [← State.parts_finishMbx t 0 stOK resp 0xFFFF]
    change (t.doneOK 0 resp).parts.length = 0
    rw [eq_of_answer_next hrow]
    obtain hsame | hbody := State.command_reads (π := fun s => s.parts.length) (fun t st resp off => congrArg _ (State.parts_finishMbx t 0 st resp off)) (fun _ _ => rfl)
      noParts cmdKeyOffer runKeyOffer (slotScope false)
    · exact hsame
    · exact hbody.trans (runKeyOffer_parts noParts _ _)
  have hoffers : (t.part 0).offers.length = 0 := by rw [State.part, List.eq_nil_of_length_eq_zero hnone]; rfl
  exact absurd (hoffers.symm.trans hgrows) (Nat.succ_ne_zero _).symm

/-! ## The commands of the root of trust (R293, R296-R301) -/

/-- A row of a mailbox command that is let in completes with the status that its own part answers. -/
theorem answer_command_done {s t : State} {m st off : Nat} {c : Cmd} {body : State → Nat → List Byte → Reply} {resp : List Byte} (h : s.takes m c)
    (hbody : body s (s.mbxFor m) (s.mbxArgs m) = .done t st resp off) : answer (okMbx m) (s.command m c body) = .next (t.finishMbx m st resp off) := by
  refine answer_of_ok (decide_eq_true h.1) ?_
  rw [State.command_of_takes h body, hbody]

section
variable {s : State} {p : Nat} {args : List Byte}

theorem runFwStage_piece {x : Sec} (hlen : 8 ≤ args.length) (hlo : 1 ≤ argNat args 0 1) (hhi : argNat args 0 1 ≤ 4) (hlast : argNat args 1 1 ≤ 1)
    (hstage : s.sec.stage (argNat args 0 1) (argNat args 4 4) (argNat args 1 1 == 1) (args.drop 8) = some (x, stOK)) :
    runFwStage s p args = .ok { s with sec := x } := by
  have hcls : ¬(argNat args 0 1 = 0 ∨ 4 < argNat args 0 1) := by omega
  simp only [runFwStage, if_neg (Nat.not_lt.2 hlen), if_neg hcls, if_neg (Nat.not_lt.2 hlast), hstage]
  rfl

theorem State.fwCommit_ok (himages : ∀ c ∈ [1, 2, 3, 4], ∃ i ∈ s.sec.bankOf !s.sec.bank, i.cls = c ∧ i.ok = true) (hidle : s.sec.staging = none)
    (hstore : s.canStore .counters = true) (raise : Bool) : s.fwCommit raise = (stOK, { s with sec := s.sec.commit raise }) := by
  have hall : ([1, 2, 3, 4].all fun c => (s.sec.bankOf !s.sec.bank).any fun i => i.cls == c && i.ok) = true := by
    simpa only [List.all_eq_true, List.any_eq_true, Bool.and_eq_true, beq_iff_eq] using himages
  simp only [State.fwCommit, hidle, Option.isSome_none, hall, hstore, Bool.false_eq_true, Bool.not_true, ↓reduceIte, State.modSec]

theorem runFwCommit_ok (hraise : argNat args 0 1 ≤ 1) (himages : ∀ c ∈ [1, 2, 3, 4], ∃ i ∈ s.sec.bankOf !s.sec.bank, i.cls = c ∧ i.ok = true)
    (hidle : s.sec.staging = none) (hstore : s.canStore .counters = true) :
    runFwCommit s p args = .ok { s with sec := s.sec.commit (argNat args 0 1 == 1) } := by
  simp only [runFwCommit, if_neg (Nat.not_lt.2 hraise), State.fwCommit_ok himages hidle hstore]
  rfl

theorem runDebugEnter_accepted (hform : tokenBad (argNat args 0 96) = none) (htoken : s.tokenOk (argNat args 0 96) (args.take 96) (args.drop 96) = true)
    (hfree : dtLevel (argNat args 0 96) = 2 → s.sec.life = .operational → s.allFree = true ∧ s.power.pstate ≠ .p2 ∧ s.power.pstate ≠ .p3) :
    runDebugEnter s p args = .ok (s.raiseLevel (dtLevel (argNat args 0 96))) := by
  have hbusy : ¬(dtLevel (argNat args 0 96) = 2 ∧ s.sec.life = .operational ∧ (!s.allFree ∨ s.power.pstate = .p2 ∨ s.power.pstate = .p3)) := by
    rintro ⟨hlevel, hlife, hbusy⟩
    obtain ⟨hall, hp2, hp3⟩ := hfree hlevel hlife
    rw [hall] at hbusy
    obtain h | h | h := hbusy
    · cases h
    · exact hp2 h
    · exact hp3 h
  simp only [runDebugEnter, hform, htoken, Bool.not_true, Bool.false_eq_true, ↓reduceIte, if_neg hbusy]

theorem runDebugEnter_refused (hform : tokenBad (argNat args 0 96) = none) (htoken : s.tokenOk (argNat args 0 96) (args.take 96) (args.drop 96) = false) :
    runDebugEnter s p args = .denied ((s.modSec fun x => { x with nonce := none }).raise { recDev sevDef 0xA0 with resClass := 13, resIndex := 1 }) := by
  simp only [runDebugEnter, hform, htoken, Bool.not_false, ↓reduceIte]

/-- The level rises at once, but for D2 in OPERATIONAL. -/
theorem State.raiseLevel_atOnce {level : Nat} (h : ¬(level = 2 ∧ s.sec.life = .operational)) :
    s.raiseLevel level = { s with sec := { s.sec with nonce := none, debug := level } } := if_neg h

/-- D2 in OPERATIONAL ends the sessions and zeroises every slot, and the fill begins. -/
theorem State.raiseLevel_fill (hlife : s.sec.life = .operational) :
    s.raiseLevel 2 = ({ s with sec := { s.sec with nonce := none, sessions := [], debugged := true, fill := some true } } : State).zeroSlots (List.range 512) :=
  if_pos ⟨rfl, hlife⟩

variable {d : Life}

section
variable (hdest : lifeOf (lcTarget (argNat args 0 128)) = some d) (hsigner : lcSigner (argNat args 0 128) ≤ 1) (hzero : bits (argNat args 0 128) 255 16 = 0)
include hdest hsigner hzero

theorem runLcAdvance_denied (hbad : lcUid (argNat args 0 128) ≠ deviceUid ∨ s.nonceIs (lcNonce (argNat args 0 128)) = false ∨
    Config.verify 4 (s.sec.keyOf (lcSigner (argNat args 0 128))) (args.take 128) (args.drop 128) = false) : runLcAdvance s p args = .denied s := by
  have hrefused : (transitionOk s.sec.life d (lcSigner (argNat args 0 128)) s.sec.returns && lcUid (argNat args 0 128) == deviceUid &&
      s.nonceIs (lcNonce (argNat args 0 128)) && Config.verify 4 (s.sec.keyOf (lcSigner (argNat args 0 128))) (args.take 128) (args.drop 128)) = false := by
    obtain h | h | h := hbad
    · simp [h]
    · simp [h]
    · simp [h]
  simp only [runLcAdvance, hdest, if_neg (Nat.not_lt.2 hsigner), hzero, ne_eq, not_true_eq_false, ↓reduceIte, hrefused, Bool.not_false]

theorem runLcAdvance_keep (hstep : transitionOk s.sec.life d (lcSigner (argNat args 0 128)) s.sec.returns = true) (huid : lcUid (argNat args 0 128) = deviceUid)
    (hnonce : s.nonceIs (lcNonce (argNat args 0 128)) = true)
    (hsig : Config.verify 4 (s.sec.keyOf (lcSigner (argNat args 0 128))) (args.take 128) (args.drop 128) = true)
    (hidle : ∀ q ∈ s.parts, q.busy = false) (hstore : s.canStore .lifecycle = true) :
    runLcAdvance s p args = .keep (((s.wipe d).modSec fun x => x.advance d (lcOdk (argNat args 0 128))).moduleReset true) := by
  have hbusy : s.parts.any Part.busy = false := List.any_eq_false.2 fun q hq => by rw [hidle q hq]; exact Bool.false_ne_true
  simp only [runLcAdvance, hdest, if_neg (Nat.not_lt.2 hsigner), hzero, ne_eq, not_true_eq_false, ↓reduceIte, hstep, huid, hnonce, hsig, hbusy, hstore,
    beq_self_eq_true, Bool.and_self, Bool.not_true, Bool.false_eq_true]

end

theorem Sec.lifeCopies_boot (x : Sec) : x.boot.lifeCopies = copies3 x.life := by
  unfold Sec.boot
  dsimp only
  split_ifs <;> rfl

/-- A reset writes the copies of the lifecycle anew. -/
theorem State.lifeCopies_moduleReset (s : State) : (s.moduleReset true).sec.lifeCopies = copies3 s.sec.life := by
  change (s.cleared true).startUp.sec.lifeCopies = copies3 s.sec.life
  unfold State.startUp
  split_ifs
  · rfl
  · exact Sec.lifeCopies_boot _

end

/-- Settles O14: each command is let in and its own part accepts its operands, or refuses its token; a reset after LC.ADVANCE keeps the new lifecycle state. -/
theorem securityCommandsComplete : Obligations.SecurityCommandsComplete := by
  intro s m
  refine ⟨fun h => ?spdmMsg, fun x h hlen hlo hhi hlast hstage => ?fwStage, fun h hraise himages hidle hstore => ?fwCommit, fun h => ?debugNonce,
    fun h hform htoken hlevel => ?enterAtOnce, fun h hform htoken hlevel hlife hfree hp2 hp3 => ?enterFill, fun h => ?debugExit,
    fun d h hdest hsigner hzero hstep huid hnonce hsig hidle hstore => ?lcAdvance, fun h hform htoken => ?enterDenied, fun d h hdest hsigner hzero hbad => ?lcDenied⟩
  case spdmMsg => exact answer_command_give h rfl rfl
  case fwStage => exact answer_command_give h rfl (runFwStage_piece hlen hlo hhi hlast hstage)
  case fwCommit => exact answer_command_give h rfl (runFwCommit_ok hraise himages hidle hstore)
  case debugNonce => exact answer_command_give h rfl rfl
  case enterAtOnce =>
    have hnot : ¬(dtLevel (s.arg m 0 96) = 2 ∧ s.sec.life = .operational) := by
      rintro ⟨htwo, hlife⟩
      obtain hone | hother := hlevel
      · omega
      · exact hother hlife
    rw [← State.raiseLevel_atOnce hnot]
    exact answer_command_give h rfl (runDebugEnter_accepted hform htoken fun htwo hlife => absurd ⟨htwo, hlife⟩ hnot)
  case enterFill =>
    rw [← State.raiseLevel_fill hlife, ← hlevel]
    exact answer_command_give h rfl (runDebugEnter_accepted hform htoken fun _ _ => ⟨hfree, hp2, hp3⟩)
  case debugExit => exact answer_command_give h rfl rfl
  case lcAdvance =>
    refine ⟨_, answer_command_keep h (runLcAdvance_keep hdest hsigner hzero hstep huid hnonce hsig hidle hstore), rfl, ?_, ?_⟩
    · exact (State.moduleReset_keeps (Keeps.refl _)).life
    · exact State.lifeCopies_moduleReset _
  case enterDenied => exact answer_command_done h (runDebugEnter_refused hform htoken)
  case lcDenied => exact answer_command_done h (runLcAdvance_denied hdest hsigner hzero hbad)

/-! ## SPDM requests (R291-R293, R303) -/

section
variable {x : Sec} {msg : List Byte}

/-- A message is sealed where a session opens it. -/
theorem Sec.unwrapMsg_sealed {y : Session} {b : List Byte} (hsession : x.sessions.find? (fun y => y.id == argNat msg 0 4) = some y)
    (hopen : Config.secOpen y.key (msg.drop 4) = some b) : x.unwrapMsg msg = (some y, b) := by
  simp only [Sec.unwrapMsg, hsession, Option.bind_some, hopen, Option.map_some]

theorem Sec.spdm_plain (hplain : x.unwrapMsg msg = (none, msg)) (via : Via) : x.spdm via msg = x.respond via none msg := by
  rw [Sec.spdm, hplain]

theorem Sec.spdm_sealed {y : Session} {b : List Byte} (hsealed : x.unwrapMsg msg = (some y, b)) (via : Via) : x.spdm via msg =
    ((x.respond via (some y) b).1.drew 1, leBytes 4 y.id ++ Config.secSeal y.key (x.respond via (some y) b).1.draws (x.respond via (some y) b).2) := by
  rw [Sec.spdm, hsealed]

/-! The responder, request by request. -/

variable {via : Via} {y : Option Session}

theorem Sec.respond_unanswered (hans : x.answers (rqCode msg) = false) : x.respond via y msg = (x, spdmError 7 (rqCode msg)) := if_pos (by rw [hans]; rfl)

variable (hans : x.answers (rqCode msg) = true)
include hans

theorem Sec.respond_getVersion (hc : rqCode msg = rqVersion) : x.respond via y msg = doVersion x msg := by
  rw [hc] at hans
  simp only [Sec.respond, hc, hans, Bool.not_true, Bool.false_eq_true, ↓reduceIte, ne_eq, not_true_eq_false, false_and]

variable (hver : argNat msg 0 1 = 0x13)
include hver

/-- Past the version check, requests of the negotiation come first. -/
theorem Sec.respond_versioned (hc : rqCode msg ≠ rqVersion) : x.respond via y msg =
    if rqCode msg = rqCapabilities then doCapabilities x msg
    else if rqCode msg = rqAlgorithms then doAlgorithms x msg
    else if !x.negotiated then (x, spdmError 4 0)
    else if rqCode msg = rqDigests then doDigests x msg
    else if rqCode msg = rqCertificate then doCertificate x msg
    else if rqCode msg = rqChallenge then doChallenge x msg
    else if rqCode msg = rqMeasurements then doMeasurements x msg
    else if rqCode msg = rqKeyExchange then doKeyExchange via x msg
    else if rqCode msg = rqFinish then doFinish x y msg
    else if rqCode msg = rqHeartbeat then doSessionBeat x y
    else doEndSession x y := by
  simp only [Sec.respond, hans, Bool.not_true, Bool.false_eq_true, ↓reduceIte, hver, ne_eq, not_true_eq_false, and_false, if_neg hc]

theorem Sec.respond_getCapabilities (hc : rqCode msg = rqCapabilities) : x.respond via y msg = doCapabilities x msg := by
  rw [Sec.respond_versioned hans hver (by rw [hc]; decide), if_pos hc]

theorem Sec.respond_negotiateAlgorithms (hc : rqCode msg = rqAlgorithms) : x.respond via y msg = doAlgorithms x msg := by
  rw [Sec.respond_versioned hans hver (by rw [hc]; decide), hc]
  rfl

variable (hneg : x.negotiated = true)
include hneg

/-- After the negotiation a request goes to its own part. -/
theorem Sec.respond_negotiated (hc : rqCode msg ∉ [rqVersion, rqCapabilities, rqAlgorithms]) : x.respond via y msg =
    if rqCode msg = rqDigests then doDigests x msg
    else if rqCode msg = rqCertificate then doCertificate x msg
    else if rqCode msg = rqChallenge then doChallenge x msg
    else if rqCode msg = rqMeasurements then doMeasurements x msg
    else if rqCode msg = rqKeyExchange then doKeyExchange via x msg
    else if rqCode msg = rqFinish then doFinish x y msg
    else if rqCode msg = rqHeartbeat then doSessionBeat x y
    else doEndSession x y := by
  simp only [List.mem_cons, List.not_mem_nil, or_false, not_or] at hc
  rw [Sec.respond_versioned hans hver hc.1, if_neg hc.2.1, if_neg hc.2.2, hneg]
  rfl

theorem Sec.respond_getDigests (hc : rqCode msg = rqDigests) : x.respond via y msg = doDigests x msg := by
  rw [Sec.respond_negotiated hans hver hneg (by rw [hc]; decide), hc]
  rfl

theorem Sec.respond_getCertificate (hc : rqCode msg = rqCertificate) : x.respond via y msg = doCertificate x msg := by
  rw [Sec.respond_negotiated hans hver hneg (by rw [hc]; decide), hc]
  rfl

theorem Sec.respond_challenge (hc : rqCode msg = rqChallenge) : x.respond via y msg = doChallenge x msg := by
  rw [Sec.respond_negotiated hans hver hneg (by rw [hc]; decide), hc]
  rfl

theorem Sec.respond_getMeasurements (hc : rqCode msg = rqMeasurements) : x.respond via y msg = doMeasurements x msg := by
  rw [Sec.respond_negotiated hans hver hneg (by rw [hc]; decide), hc]
  rfl

theorem Sec.respond_keyExchange (hc : rqCode msg = rqKeyExchange) : x.respond via y msg = doKeyExchange via x msg := by
  rw [Sec.respond_negotiated hans hver hneg (by rw [hc]; decide), hc]
  rfl

theorem Sec.respond_finish (hc : rqCode msg = rqFinish) : x.respond via y msg = doFinish x y msg := by
  rw [Sec.respond_negotiated hans hver hneg (by rw [hc]; decide), hc]
  rfl

theorem Sec.respond_heartbeat (hc : rqCode msg = rqHeartbeat) : x.respond via y msg = doSessionBeat x y := by
  rw [Sec.respond_negotiated hans hver hneg (by rw [hc]; decide), hc]
  rfl

theorem Sec.respond_endSession (hc : rqCode msg = rqEndSession) : x.respond via y msg = doEndSession x y := by
  rw [Sec.respond_negotiated hans hver hneg (by rw [hc]; decide), hc]
  rfl

end

/-! What each part answers, under its own conditions. -/

section
variable {x : Sec} {msg : List Byte}

theorem doAlgorithms_refused (h : offersOurs msg = false ∨ offersSession msg = false) : doAlgorithms x msg = (x, spdmError 7 rqAlgorithms) := by
  have hoffer : (offersOurs msg && offersSession msg) = false := by
    obtain h | h := h
    · rw [h, Bool.false_and]
    · rw [h, Bool.and_false]
  simp only [doAlgorithms, hoffer, Bool.false_eq_true, ↓reduceIte]

theorem doCertificate_part (hslot : argNat msg 2 1 % 16 = 0) (hoff : argNat msg 4 2 ≤ x.certs.length) : doCertificate x msg =
    (x, spdmRsp 0x02 0 0 (leBytes 2 ((x.certs.drop (argNat msg 4 2)).take (argNat msg 6 2)).length ++
      leBytes 2 (x.certs.length - argNat msg 4 2 - ((x.certs.drop (argNat msg 4 2)).take (argNat msg 6 2)).length) ++
      (x.certs.drop (argNat msg 4 2)).take (argNat msg 6 2))) := by
  have hgood : ¬(argNat msg 2 1 % 16 ≠ 0 ∨ x.certs.length < argNat msg 4 2) := by omega
  exact if_neg hgood

/-- The measurements that a CHALLENGE asks for, as one digest. -/
def Sec.sums (x : Sec) (kind : Nat) : List Byte := if kind = 0 then [] else shake256 ([1, 2, 3, 4, 5, 6, 7].flatMap x.block) 64

theorem doChallenge_slot0 (hslot : argNat msg 2 1 = 0) : doChallenge x msg =
    (x.drew 2, x.sign (spdmRsp 0x03 0 1 (shake256 x.certs 64 ++ leBytes 32 (Config.random (x.draws + 1)) ++ x.sums (argNat msg 3 1) ++ leBytes 2 0))) :=
  if_neg (not_not.2 hslot)

theorem doMeasurements_none (h : x.indices (argNat msg 3 1) = none) :
    doMeasurements x msg = (x, if x.life = .retired then spdmError 7 rqMeasurements else spdmError 1 0) := by
  simp only [doMeasurements, h]

/-- The response with the blocks of the indices asked for, before it is signed. -/
def Sec.measured (x : Sec) (l : List Nat) : List Byte :=
  spdmRsp 0x60 0 0 (leBytes 1 l.length ++ leBytes 3 (l.flatMap x.block).length ++ l.flatMap x.block ++ leBytes 32 (Config.random (x.draws + 1)) ++ leBytes 2 0)

theorem doMeasurements_some {l : List Nat} (hix : argNat msg 3 1 ≠ 0) (h : x.indices (argNat msg 3 1) = some l) :
    doMeasurements x msg = (x.drew 2, if argNat msg 2 1 % 2 = 1 then x.sign (x.measured l) else x.measured l) := by
  simp only [doMeasurements, h, if_neg hix]
  rfl

theorem doKeyExchange_full (hneg : x.negotiated = true) (hfull : 8 ≤ x.sessions.length) (via : Via) : doKeyExchange via x msg = (x, spdmError 3 0) := by
  simp only [doKeyExchange, hneg, Bool.not_true, Bool.false_eq_true, ↓reduceIte, if_pos hfull]

theorem doFinish_verified {y : Session} (h : Config.finishOk y.key msg = true) : doFinish x (some y) msg =
    ({ x with sessions := x.sessions.map fun z => if z.id = y.id then { z with open_ := true } else z }, spdmRsp 0x65 0 0 []) := by
  simp only [doFinish, h, ↓reduceIte, beq_iff_eq]

theorem doFinish_failed {y : Session} (h : Config.finishOk y.key msg = false) : doFinish x (some y) msg = (x, spdmError 6 0) := by
  simp only [doFinish, h, Bool.false_eq_true, ↓reduceIte]

theorem doSessionBeat_open {y : Session} (h : y.open_ = true) : doSessionBeat x (some y) = (x, spdmRsp 0x68 0 0 []) := if_pos h

theorem doSessionBeat_early {y : Session} (h : y.open_ = false) : doSessionBeat x (some y) = (x, spdmError 4 0) :=
  if_neg (by rw [Option.any_some, h]; exact Bool.false_ne_true)

theorem doEndSession_some (y : Session) : doEndSession x (some y) = ({ x with sessions := x.sessions.filter fun z => z.id ≠ y.id }, spdmRsp 0x6C 0 0 []) := by
  simp only [doEndSession, bne, ne_eq, decide_not, beq_eq_decide]

end

/-! The rows of the requests. -/

section
variable {s : State} {msg : List Byte} {mine : Nat → Bool}

/-- A request of another row is left to that row. -/
theorem answer_spdmEvent_other (hother : mine (s.msgCode msg) = false) (via : Via) : answer true (s.spdmEvent via msg mine) = .next s := by
  refine answer_of_ok rfl (if_pos ?_)
  rw [hother]
  rfl

theorem code_of_sealed {y : Session} {b : List Byte} {k : Nat} (hsealed : s.sec.unwrapMsg msg = (some y, b)) (hc : rqCode b ≠ k) : (s.msgCode msg == k) = false := by
  rw [State.msgCode, hsealed]
  exact beq_eq_false_iff_ne.2 hc

/-- In a mailbox a request is the SPDM.MSG that holds it. -/
theorem exec_mailbox_request {m : Nat} (hm : m < 4) (hargs : s.mbxArgs m = msg) (hmine : mine (s.msgCode msg) = true) :
    answer (Via.mailbox m).ok (s.spdmEvent (.mailbox m) msg mine) = exec (.spdmMsg m) s := by
  have hevent : s.spdmEvent (.mailbox m) msg mine = doSpdmMsg m s := by
    simp only [State.spdmEvent, hmine, Bool.not_true, Bool.false_eq_true, ↓reduceIte, hargs]
  have hok : (Via.mailbox m).ok = true := decide_eq_true hm
  have hbox : okMbx m = true := decide_eq_true (hm.trans (by decide))
  rw [hevent, hok]
  change answer true _ = answer (okMbx m) _
  rw [hbox]

variable (hstandby : s.power.standby = true) (hup : s.smithUp = true)
include hstandby hup

/-- The sideband answers while the smith is up. -/
theorem State.spdmEvent_sideband (hmine : mine (s.msgCode msg) = true) : s.spdmEvent .sideband msg mine =
    ({ s with sec := (s.sec.spdm .sideband msg).1 } : State).emit (.spdm .sideband (s.sec.spdm .sideband msg).2) := by
  have hup' : 6 ≤ s.power.row ∧ s.sec.romRecovery = false := by simpa [State.smithUp] using hup
  obtain ⟨hrow, hrom⟩ := hup'
  simp only [State.spdmEvent, hmine, hstandby, hrom, if_neg (Nat.not_lt.2 hrow), Bool.not_true, Bool.false_eq_true, ↓reduceIte]

theorem answer_plain_request {x : Sec} {out : List Byte} (hplain : s.sec.unwrapMsg msg = (none, msg)) (hmine : mine (rqCode msg) = true)
    (hrsp : s.sec.respond .sideband none msg = (x, out)) :
    answer true (s.spdmEvent .sideband msg mine) = .next (({ s with sec := x } : State).emit (.spdm .sideband out)) := by
  have hcode : s.msgCode msg = rqCode msg := by rw [State.msgCode, hplain]
  refine answer_of_ok rfl ?_
  rw [State.spdmEvent_sideband hstandby hup (by rwa [hcode]), Sec.spdm_plain hplain, hrsp]

theorem answer_sealed_request {x : Sec} {y : Session} {b out : List Byte} (hsealed : s.sec.unwrapMsg msg = (some y, b)) (hmine : mine (rqCode b) = true)
    (hrsp : s.sec.respond .sideband (some y) b = (x, out)) : answer true (s.spdmEvent .sideband msg mine) =
      .next (({ s with sec := x.drew 1 } : State).emit (.spdm .sideband (leBytes 4 y.id ++ Config.secSeal y.key x.draws out))) := by
  have hcode : s.msgCode msg = rqCode b := by rw [State.msgCode, hsealed]
  refine answer_of_ok rfl ?_
  rw [State.spdmEvent_sideband hstandby hup (by rwa [hcode]), Sec.spdm_sealed hsealed, hrsp]

end

/-- Settles O54: a request goes to the row of its code, which gives the responder's answer to it, in the clear or sealed as it came. -/
theorem spdmRequestsComplete : Obligations.SpdmRequestsComplete := by
  refine ⟨?sideband, fun s m msg hm hargs => ?mailbox⟩
  case mailbox =>
    have row : ∀ k, s.msgCode msg = k → answer (Via.mailbox m).ok (s.spdmEvent (.mailbox m) msg (· == k)) = exec (.spdmMsg m) s :=
      fun k hc => exec_mailbox_request hm hargs (beq_iff_eq.2 hc)
    exact ⟨row _, row _, row _, row _, row _, row _, row _, row _, row _, row _, row _, fun hunknown => exec_mailbox_request hm hargs (by rw [hunknown]; rfl)⟩
  intro s msg hstandby hup x c say
  have plainly : ∀ {k : Nat} {y : Sec} {out : List Byte}, x.unwrapMsg msg = (none, msg) → c = k → x.respond .sideband none msg = (y, out) →
      answer true (s.spdmEvent .sideband msg (· == k)) = .next (say y out) :=
    fun hplain hc hrsp => answer_plain_request hstandby hup hplain (beq_iff_eq.2 hc) hrsp
  refine ⟨fun hplain => ⟨fun hans hunknown => ?unknown, fun hans hc => ?version, fun hans hver => ⟨fun hc => ?capabilities,
      fun hc hours hsession => ?algorithms, fun hc hpoor => ?algorithmsRefused, fun hneg => ⟨fun hc => ?digests, fun hc hslot hoff => ?certificate,
        fun hc hslot => ?challenge, fun l hc hix hl => ?measurements, fun hc hnone => ?measurementsRefused, fun hc hroom => ?keyExchange, fun hc hfull => ?keyExchangeFull,
        fun hc => ?finishEarly, fun hc => ?heartbeatEarly, fun hc => ?endEarly⟩⟩⟩, fun y b hsession hopen hver hneg hans => ?sealed⟩
  case unknown => exact answer_plain_request hstandby hup hplain (by rw [hunknown]; rfl) (Sec.respond_unanswered hans)
  case version => exact plainly hplain hc (Sec.respond_getVersion hans hc)
  case capabilities => exact plainly hplain hc (Sec.respond_getCapabilities hans hver hc)
  case algorithms =>
    refine plainly hplain hc ((Sec.respond_negotiateAlgorithms hans hver hc).trans (if_pos ?_))
    rw [hours, hsession, Bool.and_self]
  case algorithmsRefused => exact plainly hplain hc ((Sec.respond_negotiateAlgorithms hans hver hc).trans (doAlgorithms_refused hpoor))
  case digests => exact plainly hplain hc (Sec.respond_getDigests hans hver hneg hc)
  case certificate => exact plainly hplain hc ((Sec.respond_getCertificate hans hver hneg hc).trans (doCertificate_part hslot hoff))
  case challenge =>
    exact ⟨x.sums (argNat msg 3 1), fun hnone => if_pos hnone, fun hsome => if_neg hsome,
      plainly hplain hc ((Sec.respond_challenge hans hver hneg hc).trans (doChallenge_slot0 hslot))⟩
  case measurements =>
    intro blocks body
    have hrow := plainly hplain hc ((Sec.respond_getMeasurements hans hver hneg hc).trans (doMeasurements_some hix hl))
    refine ⟨fun hsigned => ?_, fun hplainly => ?_⟩
    · rw [if_pos hsigned] at hrow
      exact hrow
    · rw [if_neg (by omega)] at hrow
      exact hrow
  case measurementsRefused => exact plainly hplain hc ((Sec.respond_getMeasurements hans hver hneg hc).trans (doMeasurements_none hnone))
  case keyExchange =>
    refine plainly hplain hc ((Sec.respond_keyExchange hans hver hneg hc).trans ?_)
    simp only [doKeyExchange, hneg, Bool.not_true, Bool.false_eq_true, ↓reduceIte, if_neg (Nat.not_le.2 hroom)]
  case keyExchangeFull => exact plainly hplain hc ((Sec.respond_keyExchange hans hver hneg hc).trans (doKeyExchange_full hneg hfull _))
  case finishEarly => exact plainly hplain hc (Sec.respond_finish hans hver hneg hc)
  case heartbeatEarly => exact plainly hplain hc (Sec.respond_heartbeat hans hver hneg hc)
  case endEarly => exact plainly hplain hc (Sec.respond_endSession hans hver hneg hc)
  case sealed =>
    intro sealed
    have hseal := Sec.unwrapMsg_sealed hsession hopen
    have row : ∀ {k : Nat} {z : Sec} {out : List Byte}, rqCode b = k → x.respond .sideband (some y) b = (z, out) →
        answer true (s.spdmEvent .sideband msg (· == k)) = .next (sealed z out) :=
      fun hc hrsp => answer_sealed_request hstandby hup hseal (beq_iff_eq.2 hc) hrsp
    refine ⟨fun hc => ⟨fun hok => ?finish, fun hbad => ?finishFailed⟩, fun hc => ⟨fun hop => ?heartbeat, fun hop => ?heartbeatClosed⟩,
      fun hc => ?endSession, fun hc => ?notFinish, fun hc => ?notHeartbeat, fun hc => ?notEnd⟩
    case finish => exact row hc ((Sec.respond_finish hans hver hneg hc).trans (doFinish_verified hok))
    case finishFailed => exact row hc ((Sec.respond_finish hans hver hneg hc).trans (doFinish_failed hbad))
    case heartbeat => exact row hc ((Sec.respond_heartbeat hans hver hneg hc).trans (doSessionBeat_open hop))
    case heartbeatClosed => exact row hc ((Sec.respond_heartbeat hans hver hneg hc).trans (doSessionBeat_early hop))
    case endSession => exact row hc ((Sec.respond_endSession hans hver hneg hc).trans (doEndSession_some y))
    case notFinish => exact answer_spdmEvent_other (mine := (· == rqFinish)) (code_of_sealed hseal hc) .sideband
    case notHeartbeat => exact answer_spdmEvent_other (mine := (· == rqHeartbeat)) (code_of_sealed hseal hc) .sideband
    case notEnd => exact answer_spdmEvent_other (mine := (· == rqEndSession)) (code_of_sealed hseal hc) .sideband

end Sys2Proof.Machine
end

section
/-! PROOF. The cipher engine: what a seal makes is opened again, and the use of a key slot (R272, R274, R275, R281). -/

-- A worker thread for each theorem would not fit the memory in which the text is checked whole.
set_option Elab.async false

namespace Sys2Proof.Machine

/-! ## Bytes as numbers -/

/-- Every number of a list is a byte. -/
def AllBytes (l : List Nat) : Prop := ∀ x ∈ l, x < 256

theorem allBytes_toNats (bs : List Byte) : AllBytes (toNats bs) := by
  intro x hx
  obtain ⟨b, -, rfl⟩ := List.mem_map.1 hx
  exact b.isLt

theorem toNats_toBytes {l : List Nat} (h : AllBytes l) : toNats (toBytes l) = l := by
  rw [toNats, toBytes, List.map_map]
  exact (List.map_congr_left fun x hx => Nat.mod_eq_of_lt (h x hx)).trans (List.map_id l)

theorem toBytes_toNats (bs : List Byte) : toBytes (toNats bs) = bs := by
  rw [toNats, toBytes, List.map_map]
  exact (List.map_congr_left fun b _ => BitVec.ofNat_toNat 8 b |>.trans (BitVec.setWidth_eq b)).trans (List.map_id bs)

theorem xor_lt_256 {a b : Nat} (ha : a < 256) (hb : b < 256) : a ^^^ b < 256 := Nat.xor_lt_two_pow (n := 8) ha hb

theorem length_xorList (a b : List Nat) : (xorList a b).length = min a.length b.length := by rw [xorList, List.length_map, List.length_zip]

theorem allBytes_xorList {a b : List Nat} (ha : AllBytes a) (hb : AllBytes b) : AllBytes (xorList a b) := by
  intro x hx
  obtain ⟨⟨y, z⟩, hyz, rfl⟩ := List.mem_map.1 hx
  obtain ⟨hy, hz⟩ := List.of_mem_zip hyz
  exact xor_lt_256 (ha y hy) (hb z hz)

/-- A mask taken off again leaves what it was put on. -/
theorem xorList_xorList_cancel : ∀ {b k : List Nat}, b.length ≤ k.length → xorList (xorList b k) k = b
  | [], _, _ => rfl
  | _ :: _, [], h => absurd h (by simp)
  | x :: b, y :: k, h => by
    have ih : xorList (xorList b k) k = b := xorList_xorList_cancel (Nat.le_of_succ_le_succ h)
    change (x ^^^ y ^^^ y) :: xorList (xorList b k) k = x :: b
    rw [ih, Nat.xor_xor_cancel_right]

/-! ## Pieces of a list -/

section
variable {α : Type} {n : Nat}

theorem chunksFuel_nil : ∀ f : Nat, chunksFuel f n ([] : List α) = []
  | 0 => rfl
  | _ + 1 => rfl

theorem chunksFuel_succ {l : List α} (f : Nat) (h : l ≠ []) : chunksFuel (f + 1) n l = l.take n :: chunksFuel f n (l.drop n) := by
  cases l with
  | nil => exact absurd rfl h
  | cons x xs => rfl

/-- Put together again, the pieces are the list. -/
theorem flatten_chunksFuel (hn : 0 < n) : ∀ (f : Nat) (l : List α), l.length ≤ f → (chunksFuel f n l).flatten = l
  | f, [], _ => by rw [chunksFuel_nil, List.flatten_nil]
  | f + 1, x :: xs, h => by
    have hdrop : ((x :: xs).drop n).length ≤ f := by simp only [List.length_drop, List.length_cons] at h ⊢; omega
    rw [chunksFuel_succ f (List.cons_ne_nil x xs), List.flatten_cons, flatten_chunksFuel hn f _ hdrop, List.take_append_drop]

theorem mem_of_mem_chunksFuel {y : α} : ∀ {f : Nat} {l b : List α}, b ∈ chunksFuel f n l → y ∈ b → y ∈ l
  | f, [], b, h, _ => by rw [chunksFuel_nil] at h; cases h
  | f + 1, x :: xs, b, h, hy => by
    rw [chunksFuel_succ f (List.cons_ne_nil x xs)] at h
    obtain rfl | h := List.mem_cons.1 h
    · exact List.mem_of_mem_take hy
    · exact List.mem_of_mem_drop (mem_of_mem_chunksFuel h hy)

/-- A list of `k` whole pieces has `k` pieces, each of `n` entries. -/
theorem chunksFuel_whole (hn : 0 < n) : ∀ {f k : Nat} {l : List α}, l.length = n * k → k ≤ f →
    (chunksFuel f n l).length = k ∧ ∀ b ∈ chunksFuel f n l, b.length = n
  | f, 0, l, h, _ => by
    obtain rfl : l = [] := List.eq_nil_of_length_eq_zero h
    rw [chunksFuel_nil]
    exact ⟨rfl, nofun⟩
  | f + 1, k + 1, l, h, hk => by
    have hlen : n + n * k = l.length := by rw [h, Nat.mul_succ, Nat.add_comm]
    have hne : l ≠ [] := by rintro rfl; rw [List.length_nil] at hlen; omega
    obtain ⟨hcount, hall⟩ := chunksFuel_whole hn (f := f) (k := k) (l := l.drop n) (by rw [List.length_drop]; omega) (Nat.le_of_succ_le_succ hk)
    rw [chunksFuel_succ f hne]
    exact ⟨by rw [List.length_cons, hcount], List.forall_mem_cons.2 ⟨by rw [List.length_take]; omega, hall⟩⟩

theorem flatten_chunks (hn : 0 < n) (l : List α) : (chunks n l).flatten = l := flatten_chunksFuel hn _ l (Nat.le_succ _)

theorem chunks_whole (hn : 0 < n) {k : Nat} {l : List α} (h : l.length = n * k) : (chunks n l).length = k ∧ ∀ b ∈ chunks n l, b.length = n :=
  chunksFuel_whole hn h (by rw [h]; nlinarith)

end

/-! ## The S-box and the round keys -/

theorem xtime_lt {a : Nat} (h : a < 256) : xtime a < 256 := by
  have hall : ∀ a < 256, xtime a < 256 := by decide +kernel
  exact hall a h

theorem gmul_lt {a : Nat} (h : a < 256) (b : Nat) : gmul a b < 256 := by
  refine (List.foldlRecOn (motive := fun z : Nat × Nat => z.1 < 256 ∧ z.2 < 256) (List.range 8) _ ⟨Nat.two_pow_pos 8, h⟩ fun z hz i _ => ⟨?_, xtime_lt hz.2⟩).1
  dsimp only
  split_ifs
  · exact xor_lt_256 hz.1 hz.2
  · exact hz.1

/-- One step of the power x^254: the square goes into the product. -/
def ginvStep (p : Nat × Nat) (_ : Nat) : Nat × Nat := let y := gmul p.2 p.2; (gmul p.1 y, y)

theorem ginv_eq (x : Nat) : ginv x = ((List.range 6).foldl ginvStep (gmul x x, gmul x x)).1 := by
  unfold ginv ginvStep
  with_reducible rfl

theorem ginvStep_lt {p : Nat × Nat} (h : p.1 < 256 ∧ p.2 < 256) (i : Nat) : (ginvStep p i).1 < 256 ∧ (ginvStep p i).2 < 256 := by
  simp only [ginvStep]
  exact ⟨gmul_lt h.1 _, gmul_lt h.2 _⟩

theorem ginv_lt {x : Nat} (h : x < 256) : ginv x < 256 := by
  have hfold : ∀ l : List Nat, (l.foldl ginvStep (gmul x x, gmul x x)).1 < 256 ∧ (l.foldl ginvStep (gmul x x, gmul x x)).2 < 256 := fun l =>
    List.foldlRecOn (motive := fun z : Nat × Nat => z.1 < 256 ∧ z.2 < 256) l ginvStep ⟨gmul_lt h x, gmul_lt h x⟩ fun _ hz i _ => ginvStep_lt hz i
  rw [ginv_eq]
  exact (hfold _).1

theorem rotl8_lt (x k : Nat) : rotl8 x k < 256 := Nat.mod_lt _ (by decide)

theorem sboxOf_lt {x : Nat} (h : x < 256) : sboxOf x < 256 :=
  xor_lt_256 (xor_lt_256 (xor_lt_256 (xor_lt_256 (xor_lt_256 (ginv_lt h) (rotl8_lt _ 1)) (rotl8_lt _ 2)) (rotl8_lt _ 3)) (rotl8_lt _ 4)) (by decide)

theorem sbox_lt (x : Nat) : sbox x < 256 := by
  rw [sbox, Array.getD_eq_getD_getElem?]
  cases he : sboxTable[x]? with
  | none => decide
  | some y =>
    have hy : y ∈ sboxTable := Array.mem_of_getElem? he
    rw [sboxTable, List.mem_toArray] at hy
    obtain ⟨i, hi, rfl⟩ := List.mem_map.1 hy
    exact sboxOf_lt (List.mem_range.1 hi)

theorem allBytes_map_sbox (l : List Nat) : AllBytes (l.map sbox) := by
  intro x hx
  obtain ⟨y, -, rfl⟩ := List.mem_map.1 hx
  exact sbox_lt y

/-- A word of the key schedule: four bytes. -/
def KeyWord (w : List Nat) : Prop := w.length = 4 ∧ AllBytes w

theorem KeyWord.xor {a b : List Nat} (ha : KeyWord a) (hb : KeyWord b) : KeyWord (xorList a b) :=
  ⟨by rw [length_xorList, ha.1, hb.1, Nat.min_self], allBytes_xorList ha.2 hb.2⟩

theorem KeyWord.map_sbox {a : List Nat} (ha : a.length = 4) : KeyWord (a.map sbox) := ⟨by rw [List.length_map, ha], allBytes_map_sbox a⟩

theorem KeyWord.nextWord {ws : List (List Nat)} (hlen : 8 ≤ ws.length) (hall : ∀ w ∈ ws, KeyWord w) (i : Nat) : KeyWord (nextWord i ws) := by
  have hlast : KeyWord (ws.headD []) := by
    cases ws with
    | nil => exact absurd hlen (by simp)
    | cons w ws => exact hall w List.mem_cons_self
  have hback : KeyWord (ws.getD 7 []) := by
    rw [List.getD_eq_getElem _ _ (by omega)]
    exact hall _ (List.getElem_mem _)
  unfold Machine.nextWord
  dsimp only
  split_ifs
  · refine hback.xor (KeyWord.xor (.map_sbox ?_) ⟨rfl, ?_⟩)
    · have hfour := hlast.1
      rw [List.length_append, List.length_drop, List.length_take, hfour]
      decide
    · exact List.forall_mem_cons.2 ⟨List.foldlRecOn (motive := (· < 256)) _ _ (by decide) fun _ hc _ _ => xtime_lt hc, by decide⟩
  · exact hback.xor (.map_sbox hlast.1)
  · exact hback.xor hlast

/-- The key schedule of so many steps, from at least eight words. -/
theorem keySchedule_words : ∀ (l : List Nat) (ws : List (List Nat)), 8 ≤ ws.length → (∀ w ∈ ws, KeyWord w) →
    (l.foldl (fun ws i => nextWord (i + 8) ws :: ws) ws).length = ws.length + l.length ∧ ∀ w ∈ l.foldl (fun ws i => nextWord (i + 8) ws :: ws) ws, KeyWord w
  | [], ws, _, hall => ⟨rfl, hall⟩
  | i :: l, ws, hlen, hall => by
    obtain ⟨hcount, hwords⟩ := keySchedule_words l (nextWord (i + 8) ws :: ws) (hlen.trans (Nat.le_succ _))
      (List.forall_mem_cons.2 ⟨KeyWord.nextWord hlen hall _, hall⟩)
    refine ⟨?_, hwords⟩
    rw [List.foldl_cons, hcount, List.length_cons, List.length_cons]
    omega

/-- Four words put together. -/
theorem KeyWord.flatten {l : List (List Nat)} (hlen : l.length = 4) (hall : ∀ w ∈ l, KeyWord w) : l.flatten.length = 16 ∧ AllBytes l.flatten := by
  refine ⟨?_, fun x hx => ?_⟩
  · rw [List.length_flatten, List.map_eq_replicate_iff.2 fun w hw => (hall w hw).1, hlen]
    rfl
  · obtain ⟨w, hw, hxw⟩ := List.mem_flatten.1 hx
    exact (hall w hw).2 x hxw

/-- The fifteenth round key of a 32-byte key is a block of bytes. -/
theorem roundKeys_last {key : List Nat} (hlen : key.length = 32) (hbytes : AllBytes key) :
    ((roundKeys key).getD 14 []).length = 16 ∧ AllBytes ((roundKeys key).getD 14 []) := by
  obtain ⟨hcount, hfour⟩ := chunks_whole (n := 4) (k := 8) (by decide) hlen
  obtain ⟨hsixty, hwords⟩ := keySchedule_words (List.range 52) (chunks 4 key).reverse (by rw [List.length_reverse, hcount])
    fun w hw => ⟨hfour w (List.mem_reverse.1 hw), fun x hx => hbytes x (mem_of_mem_chunksFuel (List.mem_reverse.1 hw) hx)⟩
  rw [List.length_reverse, hcount, List.length_range] at hsixty
  unfold roundKeys
  dsimp only
  generalize (List.range 52).foldl (fun ws i => nextWord (i + 8) ws :: ws) (chunks 4 key).reverse = ws at hsixty hwords ⊢
  obtain ⟨hfifteen, hgroups⟩ := chunks_whole (n := 4) (k := 15) (l := ws.reverse) (by decide) (by rw [List.length_reverse, hsixty])
  rw [List.getD_eq_getElem _ _ (by rw [List.length_map, hfifteen]; decide), List.getElem_map]
  have hmem := List.getElem_mem (l := chunks 4 ws.reverse) (n := 14) (by rw [hfifteen]; decide)
  exact KeyWord.flatten (hgroups _ hmem) fun w hw => hwords w (List.mem_reverse.1 (mem_of_mem_chunksFuel hmem hw))

/-! ## Counter mode and GCM -/

theorem length_shiftRows (s : List Nat) : (shiftRows s).length = 16 := by rw [shiftRows, List.length_map, List.length_range]

theorem allBytes_shiftRows {s : List Nat} (h : AllBytes s) : AllBytes (shiftRows s) := by
  intro x hx
  obtain ⟨i, -, rfl⟩ := List.mem_map.1 hx
  rw [List.getD_eq_getElem?_getD]
  cases he : s[(i + 4 * (i % 4)) % 16]? with
  | none => decide
  | some y => exact h y (List.mem_of_getElem? he)

/-- A block enciphered under a 32-byte key is a block of bytes. -/
theorem aesEnc_block {key : List Byte} (hlen : key.length = 32) (b : List Nat) :
    (aesEnc (roundKeys (toNats key)) b).length = 16 ∧ AllBytes (aesEnc (roundKeys (toNats key)) b) := by
  obtain ⟨hlast, hbytes⟩ := roundKeys_last (by rw [toNats, List.length_map, hlen]) (allBytes_toNats key)
  unfold aesEnc
  exact ⟨by rw [length_xorList, length_shiftRows, hlast, Nat.min_self], allBytes_xorList (allBytes_shiftRows (allBytes_map_sbox _)) hbytes⟩

/-- The blocks of a message under a stream of key blocks, from the `i`-th on. -/
def maskBlocks (K : Nat → List Nat) : Nat → List (List Nat) → List (List Nat)
  | _, [] => []
  | i, b :: bs => xorList b (K i) :: maskBlocks K (i + 1) bs

/-- The key block of counter mode for block `i`. -/
def ctrBlock (rk : List (List Nat)) (j0 i : Nat) : List Nat := aesEnc rk (beTo 16 (j0 / 2 ^ 32 * 2 ^ 32 + (j0 + i + 1) % 2 ^ 32))

theorem ctr32_eq (rk : List (List Nat)) (j0 : Nat) (d : List Nat) : ctr32 rk j0 d = (maskBlocks (ctrBlock rk j0) 0 (chunks 16 d)).flatten := by
  have hzip : ∀ (i : Nat) (l : List (List Nat)),
      ((List.range' i l.length).zip l).flatMap (fun (i, b) => xorList b (aesEnc rk (beTo 16 (j0 / 2 ^ 32 * 2 ^ 32 + (j0 + i + 1) % 2 ^ 32)))) =
        (maskBlocks (ctrBlock rk j0) i l).flatten := by
    intro i l
    induction l generalizing i with
    | nil => rfl
    | cons b l ih =>
      rw [List.length_cons, List.range'_succ, List.zip_cons_cons, List.flatMap_cons, ih]
      rfl
  rw [ctr32, List.range_eq_range', hzip]

section
variable {K : Nat → List Nat} (hK : ∀ i, (K i).length = 16)
include hK

/-- A message masked in blocks has the masked blocks for its pieces. -/
theorem chunksFuel_maskBlocks : ∀ (f i : Nat) (l : List Nat), chunksFuel f 16 (maskBlocks K i (chunksFuel f 16 l)).flatten = maskBlocks K i (chunksFuel f 16 l)
  | 0, _, _ => rfl
  | f + 1, i, [] => rfl
  | f + 1, i, x :: xs => by
    have ih := chunksFuel_maskBlocks f (i + 1) ((x :: xs).drop 16)
    rw [chunksFuel_succ f (List.cons_ne_nil x xs), maskBlocks, List.flatten_cons]
    have hblock : (xorList ((x :: xs).take 16) (K i)).length = min 16 (x :: xs).length := by rw [length_xorList, List.length_take, hK]; omega
    have hne : xorList ((x :: xs).take 16) (K i) ≠ [] := by
      intro he
      rw [he, List.length_nil, List.length_cons] at hblock
      omega
    rw [chunksFuel_succ f (List.append_ne_nil_of_left_ne_nil hne _)]
    rcases Nat.lt_or_ge (x :: xs).length 16 with hshort | hlong
    · have hrest : (maskBlocks K (i + 1) (chunksFuel f 16 ((x :: xs).drop 16))).flatten = [] := by
        rw [List.drop_eq_nil_of_le hshort.le, chunksFuel_nil]
        rfl
      rw [hrest] at ih ⊢
      rw [← ih, List.append_nil, List.take_of_length_le (by omega), List.drop_eq_nil_of_le (by omega)]
    · rw [List.take_left' (by omega), List.drop_left' (by omega), ih]

theorem maskBlocks_twice : ∀ (i : Nat) (bs : List (List Nat)), (∀ b ∈ bs, b.length ≤ 16) → maskBlocks K i (maskBlocks K i bs) = bs
  | _, [], _ => rfl
  | i, b :: bs, h => by
    rw [maskBlocks, maskBlocks, xorList_xorList_cancel ((h b List.mem_cons_self).trans_eq (hK i).symm),
      maskBlocks_twice (i + 1) bs fun c hc => h c (List.mem_cons_of_mem b hc)]

theorem length_maskBlocks : ∀ (i : Nat) (bs : List (List Nat)), (∀ b ∈ bs, b.length ≤ 16) → (maskBlocks K i bs).flatten.length = bs.flatten.length
  | _, [], _ => rfl
  | i, b :: bs, h => by
    rw [maskBlocks, List.flatten_cons, List.flatten_cons, List.length_append, List.length_append, length_xorList,
      length_maskBlocks (i + 1) bs fun c hc => h c (List.mem_cons_of_mem b hc), Nat.min_eq_left ((h b List.mem_cons_self).trans_eq (hK i).symm)]

end

theorem allBytes_maskBlocks {K : Nat → List Nat} (hK : ∀ i, AllBytes (K i)) : ∀ (i : Nat) (bs : List (List Nat)), (∀ b ∈ bs, AllBytes b) → AllBytes (maskBlocks K i bs).flatten
  | _, [], _ => nofun
  | i, b :: bs, h => by
    rw [maskBlocks, List.flatten_cons]
    intro x hx
    obtain hx | hx := List.mem_append.1 hx
    · exact allBytes_xorList (h b List.mem_cons_self) (hK i) x hx
    · exact allBytes_maskBlocks hK (i + 1) bs (fun c hc => h c (List.mem_cons_of_mem b hc)) x hx

section
variable {key : List Byte} (hlen : key.length = 32) (j0 : Nat)
include hlen

theorem allBytes_ctr32 {d : List Nat} (hd : AllBytes d) : AllBytes (ctr32 (roundKeys (toNats key)) j0 d) := by
  rw [ctr32_eq]
  exact allBytes_maskBlocks (fun i => (aesEnc_block hlen _).2) 0 _ fun b hb x hx => hd x (mem_of_mem_chunksFuel hb hx)

/-- Counter mode twice gives the message back. -/
theorem ctr32_twice (d : List Nat) : ctr32 (roundKeys (toNats key)) j0 (ctr32 (roundKeys (toNats key)) j0 d) = d := by
  have hK : ∀ i, (ctrBlock (roundKeys (toNats key)) j0 i).length = 16 := fun i => (aesEnc_block hlen _).1
  have hshort : ∀ b ∈ chunks 16 d, b.length ≤ 16 := fun b hb => length_le_of_mem_chunksFuel hb
  have hchunks : chunks 16 (maskBlocks (ctrBlock (roundKeys (toNats key)) j0) 0 (chunks 16 d)).flatten = maskBlocks (ctrBlock (roundKeys (toNats key)) j0) 0 (chunks 16 d) := by
    conv_lhs => rw [chunks]
    rw [length_maskBlocks hK 0 _ hshort, flatten_chunks (by decide)]
    exact chunksFuel_maskBlocks hK _ 0 d
  rw [ctr32_eq, ctr32_eq, hchunks, maskBlocks_twice hK 0 _ hshort, flatten_chunks (by decide)]

/-- What GCM seals it opens: the tag is over the same ciphertext, and counter mode undoes itself. -/
theorem gcmOpenBytes_sealBytes (iv aad d : List Byte) : gcmOpenBytes key iv aad (gcmSealBytes key iv aad d).1 (gcmSealBytes key iv aad d).2 = some d := by
  unfold gcmOpenBytes gcmSealBytes
  dsimp only
  rw [toNats_toBytes (allBytes_ctr32 hlen _ (allBytes_toNats d)), if_pos rfl, ctr32_twice hlen, toBytes_toNats]

end

/-! ## Use of a key slot (R274, R275, R281) -/

section
variable (a : Slot) (use : Nat)

/-- A charge raises the use, and may write the state word; nothing else. -/
theorem Slot.charge_frame : a.charge use = { a with used := a.used + use, words := (a.charge use).words } := by
  unfold Slot.charge
  dsimp only
  split_ifs <;> rfl

theorem Slot.used_charge : (a.charge use).used = a.used + use := by rw [Slot.charge_frame]

theorem Slot.limit_charge : (a.charge use).limit = a.limit := by rw [Slot.charge_frame]

theorem swState_swWith (w : Nat) {st : Nat} (hst : st < 8) : swState (swWith w st) = st := by
  unfold swState swWith
  exact bits_pack_first (by simp) (by norm_num) (by norm_num; exact hst)

/-- A state word with all three copies alike is read as it stands. -/
theorem Slot.word_copies3 (k : Slot) (w : Nat) : ({ k with words := copies3 w } : Slot).word = w := by
  rw [Slot.word, vote3_copies3]

theorem Slot.word_setState (k : Slot) (st : Nat) : (k.setState st).word = swWith k.word st := Slot.word_copies3 _ _

theorem Slot.state_setState (k : Slot) {st : Nat} (hst : st < 8) : (k.setState st).state = st := by
  rw [Slot.state, Slot.word_setState, swState_swWith _ hst]

variable {a use}

/-- Left with less than the smallest request's use, the slot is EXHAUSTED. -/
theorem Slot.charge_exhausts (h : a.limit - (a.used + use) < a.unitUse) : (a.charge use).state = 3 := by
  have hexhausted : a.charge use = ({ a with used := a.used + use } : Slot).setState 3 := if_pos h
  rw [hexhausted, Slot.state_setState _ (by decide)]

theorem Slot.words_charge (h : a.unitUse ≤ a.limit - (a.used + use)) : (a.charge use).words = a.words := by
  have hleft : a.charge use = { a with used := a.used + use } := if_neg (Nat.not_lt.2 h)
  rw [hleft]

end

/-- The slot of a request that starts: its use charged, and of a seal the counter raised. -/
def Slot.bound (a : Slot) (r : Nat) : Slot := { a.charge (cqUse r) with sendCtr := if cqOp r = 0 then (a.sendCtr + 1) % 2 ^ 64 else a.sendCtr }

/-- A request that binds a slot finds its use left there, and takes the counter of a seal as it stands. -/
theorem Cipher.bind_inr {c c' : Cipher} {x y : CReq} {k : Nat} (hfirst : x.slot = none)
    (hslot : (if cqCur x.raw then c.current (cqSlot x.raw) else some (cqSlot x.raw)) = some k) (h : c.bind x = .inr (c', y)) :
    cqUse x.raw ≤ (c.slots.getD k {}).remaining ∧ c' = c.modSlot k (fun a => a.bound x.raw) ∧
      y = { x with slot := some k, ctr := if cqOp x.raw = 0 then some (c.slots.getD k {}).sendCtr else none } := by
  unfold Cipher.bind at h
  rw [hfirst] at h
  dsimp only at h
  rw [hslot] at h
  dsimp only at h
  generalize c.slots.getD k {} = a at h ⊢
  by_cases hexhausted : a.state = 3
  · rw [if_pos hexhausted] at h
    cases h
  rw [if_neg hexhausted] at h
  by_cases hstate : !decide (a.state = 1 ∨ a.state = 2 ∧ cqOp x.raw = 1)
  · rw [if_pos hstate] at h
    cases h
  rw [if_neg hstate] at h
  by_cases hleft : a.remaining < cqUse x.raw
  · rw [if_pos hleft] at h
    cases h
  rw [if_neg hleft] at h
  injection h with h
  injection h with hc hy
  refine ⟨Nat.le_of_not_lt hleft, hc.symm.trans ?_, hy.symm.trans ?_⟩
  · simp only [Slot.bound]
  · simp only

/-- Settles O53: counter mode undoes itself, and of a start the slot bound is charged, its counter raised by a seal, and every other slot left alone. -/
theorem sealsAreOpened : Obligations.SealsAreOpened := by
  refine ⟨fun key iv aad d hkey => gcmOpenBytes_sealBytes hkey iv aad d, fun c c' x y k hfirst hslot hbind hk => ?_⟩
  obtain ⟨hleft, rfl, rfl⟩ := Cipher.bind_inr hfirst hslot hbind
  have hself : (c.modSlot k fun a => a.bound x.raw).slots.getD k {} = (c.slots.getD k {}).bound x.raw := getD_updAt_self _ _ _ _ hk
  have hused : ((c.slots.getD k {}).bound x.raw).used = (c.slots.getD k {}).used + cqUse x.raw := Slot.used_charge _ _
  have hlimit : ((c.slots.getD k {}).bound x.raw).limit = (c.slots.getD k {}).limit := Slot.limit_charge _ _
  rw [hself, hused, hlimit]
  refine ⟨rfl, rfl, fun hseal => ⟨if_pos hseal, if_pos hseal⟩, fun j hj => getD_updAt_ne _ _ _ _ _ hj, fun huse => ?within,
    ⟨fun hless => Slot.charge_exhausts hless, fun hmore => Slot.words_charge hmore⟩, rfl, rfl⟩
  case within =>
    rw [Slot.remaining] at hleft
    omega

end Sys2Proof.Machine
end

section
/-! PROOF. The fault hub: what it takes, and the record handled next (R319-R324). -/

-- A worker thread for each theorem would not fit the memory in which the text is checked whole.
set_option Elab.async false

namespace Sys2Proof.Machine

/-! ## The first entry that a test picks -/

/-- Where some entry passes the test, the search finds the first that does, at its index. -/
theorem findIdxFrom_exists {α : Type} {q : α → Bool} : ∀ (l : List α) (i : Nat), (∃ x ∈ l, q x = true) →
    ∃ (k : Nat) (x : α), findIdxFrom q i l = some (i + k, x) ∧ l[k]? = some x ∧ q x = true ∧ ∀ j y, j < k → l[j]? = some y → q y = false
  | [], _, h => by obtain ⟨x, hmem, _⟩ := h; cases hmem
  | a :: l, i, h => by
    by_cases ha : q a = true
    · exact ⟨0, a, if_pos ha, rfl, ha, fun j y hj => absurd hj (Nat.not_lt_zero j)⟩
    · have hlater : ∃ x ∈ l, q x = true := by
        obtain ⟨x, hmem, hx⟩ := h
        rcases List.mem_cons.1 hmem with rfl | hmem
        · exact absurd hx ha
        · exact ⟨x, hmem, hx⟩
      obtain ⟨k, x, hfind, hat, hx, hbefore⟩ := findIdxFrom_exists l (i + 1) hlater
      refine ⟨k + 1, x, ?_, hat, hx, fun j y hj hy => ?_⟩
      · rw [findIdxFrom, if_neg ha, hfind, Nat.add_assoc, Nat.add_comm 1]
      · cases j with
        | zero =>
          cases hy
          exact Bool.eq_false_iff.2 ha
        | succ j => exact hbefore j y (Nat.lt_of_succ_lt_succ hj) hy

theorem firstWith_exists {α : Type} {q : α → Bool} {l : List α} (h : ∃ x ∈ l, q x = true) :
    ∃ (k : Nat) (x : α), firstWith q l = some (k, x) ∧ l[k]? = some x ∧ q x = true ∧ ∀ j y, j < k → l[j]? = some y → q y = false := by
  obtain ⟨k, x, hfind, hrest⟩ := findIdxFrom_exists l 0 h
  rw [Nat.zero_add] at hfind
  exact ⟨k, x, hfind, hrest⟩

/-! ## What the parts of a take change -/

theorem State.alertUpdate_frame (s : State) :
    s.alertUpdate = { s with out := s.alertUpdate.out, hub := { s.hub with alert := s.hub.wantAlert, worst := s.hub.worstOpen } } := by
  unfold State.alertUpdate
  dsimp only
  split_ifs <;> rfl

/-- A record formed touches the streams, or the count of what was dropped. -/
theorem State.record_frame (s : State) (own type unit part len data : Nat) :
    s.record own type unit part len data = { s with streams := (s.record own type unit part len data).streams, counts := (s.record own type unit part len data).counts } := by
  unfold State.record
  dsimp only
  split_ifs <;> rfl

theorem State.hub_streamRec (s : State) (r : FaultRec) : (s.streamRec r).hub = s.hub := by
  rw [State.streamRec, State.record_frame]

theorem State.mem_streamRec (s : State) (r : FaultRec) : (s.streamRec r).mem = s.mem := by
  rw [State.streamRec, State.record_frame]

theorem State.streams_record (s : State) (own type unit part len data : Nat) : (s.record own type unit part len data).streams =
    if (s.streams.getD (if (s.streams.getD own {}).configured then own else 0) {}).configured = false then s.streams
    else if (s.streams.getD (if (s.streams.getD own {}).configured then own else 0) {}).mask.testBit type = false then s.streams
    else updAt s.streams (if (s.streams.getD own {}).configured then own else 0) fun t =>
      { t with queue := t.queue ++ [⟨type, unit, part, if s.idValid then s.moduleId else 0, s.tick, len, data⟩] } := by
  unfold State.record
  simp only [Bool.not_eq_true']
  rw [apply_ite State.streams, apply_ite State.streams]
  rfl

/-- What a record carries on stream 0 does not depend on the hub. -/
theorem State.streams_streamRec_modHub (s : State) (f : Hub → Hub) (r : FaultRec) : ((s.modHub f).streamRec r).streams = (s.streamRec r).streams :=
  (State.streams_record _ _ _ _ _ _ _).trans (State.streams_record s _ _ _ _ _ _).symm

/-- A record takes the first free entry. -/
theorem Hub.enqueue_free {h : Hub} (r : FaultRec) (hfree : none ∈ h.queue) :
    ∃ k : Nat, h.queue[k]? = some none ∧ h.enqueue r = { h with queue := updAt h.queue k fun _ => some r, free := h.free - 1 } := by
  obtain ⟨k, x, hfind, hat, hnone, -⟩ := firstWith_exists (q := fun e : Option FaultRec => e.isNone) ⟨none, hfree, rfl⟩
  rw [Option.isNone_iff_eq_none] at hnone
  subst hnone
  refine ⟨k, hat, ?_⟩
  rw [Hub.enqueue, hfind]

theorem Hub.take_free {h : Hub} (r : FaultRec) (hfree : none ∈ h.queue) :
    ∃ k : Nat, h.queue[k]? = some none ∧
      h.take r = { h with queue := updAt h.queue k fun _ => some { r with overflow := h.lost }, free := h.free - 1, lost := false } := by
  obtain ⟨k, hat, heq⟩ := Hub.enqueue_free { r with overflow := h.lost } hfree
  exact ⟨k, hat, by rw [Hub.take, heq]⟩

theorem State.hub_alertUpdate (s : State) : s.alertUpdate.hub = { s.hub with alert := s.hub.wantAlert, worst := s.hub.worstOpen } := by
  rw [State.alertUpdate_frame]

theorem State.mem_alertUpdate (s : State) : s.alertUpdate.mem = s.mem := by
  rw [State.alertUpdate_frame]

theorem State.streams_alertUpdate (s : State) : s.alertUpdate.streams = s.streams := by
  rw [State.alertUpdate_frame]

/-! ## A record taken (R319-R323) -/

section
variable {s : State} {r : FaultRec}

/-- The hub once a number is given out. -/
def Hub.numbered (h : Hub) : Hub := { h with seq := satTo 32 (h.seq + 1) }

theorem Hub.enqueue_frame (h : Hub) (r : FaultRec) : h.enqueue r = { h with queue := (h.enqueue r).queue, free := (h.enqueue r).free } := by
  unfold Hub.enqueue
  split <;> rfl

theorem Hub.takeLow_frame (h : Hub) (r : FaultRec) : h.takeLow r =
    { h with queue := (h.takeLow r).queue, free := (h.takeLow r).free, lost := (h.takeLow r).lost, uncounted := (h.takeLow r).uncounted } := by
  unfold Hub.takeLow
  split_ifs
  · rfl
  · rw [Hub.take, Hub.enqueue_frame]

/-- A record below UCE_PART: what the hub makes of it, and what stream 0 carries. -/
theorem State.takeRecord_low (hsev : r.sev ≤ 2) :
    (∃ a w, (s.takeRecord r).hub = { s.hub.numbered.takeLow { r with seq := s.hub.seq } with alert := a, worst := w }) ∧ (s.takeRecord r).mem = s.mem ∧
      (s.takeRecord r).streams = (s.streamRec { r with seq := s.hub.seq, overflow := s.hub.lost && 8 ≤ s.hub.free }).streams := by
  have htake : s.takeRecord r = (((s.modHub fun _ => s.hub.numbered).streamRec { r with seq := s.hub.seq, overflow := s.hub.lost && 8 ≤ s.hub.free }).modHub
      fun h => h.takeLow { r with seq := s.hub.seq }).alertUpdate := if_pos (Nat.lt_succ_of_le hsev)
  rw [htake, State.hub_alertUpdate, State.mem_alertUpdate, State.streams_alertUpdate, State.modHub_hub, State.hub_streamRec, State.modHub_mem,
    State.mem_streamRec, State.modHub_streams, State.streams_streamRec_modHub]
  exact ⟨⟨_, _, rfl⟩, rfl, rfl⟩

/-- A record of UCE_PART or UCE_DEV, with an entry free. -/
theorem State.takeRecord_high (hsev : 3 ≤ r.sev) (hfree : 0 < s.hub.free) :
    (∃ a w, (s.takeRecord r).hub =
        { s.hub.numbered.takeHigh { r with seq := s.hub.seq, preempt := s.hub.preempts r.sev, overflow := s.hub.lost } with alert := a, worst := w }) ∧
      (s.takeRecord r).streams = (s.streamRec { r with seq := s.hub.seq, preempt := s.hub.preempts r.sev, overflow := s.hub.lost }).streams := by
  have hroom : ¬ s.hub.free = 0 := Nat.pos_iff_ne_zero.1 hfree
  have htake : s.takeRecord r = ((s.modHub fun _ => s.hub.numbered).streamRec
      { r with seq := s.hub.seq, preempt := s.hub.preempts r.sev, overflow := s.hub.lost }).takeUce
        { r with seq := s.hub.seq, preempt := s.hub.preempts r.sev, overflow := s.hub.lost } := if_neg (Nat.not_lt.2 hsev)
  have hhub (g : FaultRec) : ((s.modHub fun _ => s.hub.numbered).streamRec g).hub = s.hub.numbered := by rw [State.hub_streamRec, State.modHub_hub]
  have huce (g : FaultRec) : ((s.modHub fun _ => s.hub.numbered).streamRec g).takeUce g =
      (((s.modHub fun _ => s.hub.numbered).streamRec g).modHub fun h => h.takeHigh g).alertUpdate := by
    have hfull : ¬ ((s.modHub fun _ => s.hub.numbered).streamRec g).hub.free = 0 := by rw [hhub]; exact hroom
    rw [State.takeUce, if_neg hfull]
    exact if_neg hfull
  rw [htake, huce, State.hub_alertUpdate, State.streams_alertUpdate, State.modHub_hub, hhub, State.modHub_streams, State.streams_streamRec_modHub]
  exact ⟨⟨_, _, rfl⟩, rfl⟩

/-- A record that is queued for handling waits for its dispatch, but for NEST_ESCALATE. -/
theorem Hub.takeHigh_eq (h : Hub) : h.takeHigh r = { h.take r with dispatch := if r.code = 0x81 then (h.take r).dispatch else (h.take r).dispatch ++ [r] } := by
  unfold Hub.takeHigh
  dsimp only
  split_ifs <;> rfl

/-- Whatever becomes of a record of low severity, it is numbered, and waits for no dispatch. -/
theorem State.takeRecord_low_keeps (hsev : r.sev ≤ 2) : (s.takeRecord r).hub.seq = satTo 32 (s.hub.seq + 1) ∧
    (s.takeRecord r).hub.arriving = s.hub.arriving ∧ (s.takeRecord r).mem = s.mem ∧ (s.takeRecord r).hub.dispatch = s.hub.dispatch := by
  obtain ⟨⟨a, w, hhub⟩, hmem, -⟩ := State.takeRecord_low (s := s) hsev
  rw [hhub, hmem, Hub.takeLow_frame]
  exact ⟨rfl, rfl, rfl, rfl⟩

/-- With at least 8 entries free it is queued, and written to stream 0. -/
theorem State.takeRecord_low_queued (hsev : r.sev ≤ 2) (hroom : 8 ≤ s.hub.free) (hnone : none ∈ s.hub.queue) :
    (∃ k : Nat, s.hub.queue[k]? = some none ∧
      (s.takeRecord r).hub.queue = updAt s.hub.queue k fun _ => some { r with seq := s.hub.seq, overflow := s.hub.lost }) ∧
    (s.takeRecord r).hub.free = s.hub.free - 1 ∧ (s.takeRecord r).hub.lost = false ∧ (s.takeRecord r).hub.uncounted = s.hub.uncounted ∧
    (s.takeRecord r).streams = (s.streamRec { r with seq := s.hub.seq, overflow := s.hub.lost }).streams := by
  obtain ⟨⟨a, w, hhub⟩, -, hstreams⟩ := State.takeRecord_low (s := s) hsev
  obtain ⟨k, hat, htake⟩ := Hub.take_free (h := s.hub.numbered) { r with seq := s.hub.seq } hnone
  have hlow : s.hub.numbered.takeLow { r with seq := s.hub.seq } = s.hub.numbered.take { r with seq := s.hub.seq } := if_neg (Nat.not_lt.2 hroom)
  rw [hhub, hstreams, hlow, htake, decide_eq_true hroom, Bool.and_true]
  exact ⟨⟨k, hat, rfl⟩, rfl, rfl, rfl, rfl⟩

/-- With fewer than 8 entries free it is counted by its code, and the next one queued carries overflow. -/
theorem State.takeRecord_low_counted (hsev : r.sev ≤ 2) (hfull : s.hub.free < 8) : (s.takeRecord r).hub.queue = s.hub.queue ∧
    (s.takeRecord r).hub.free = s.hub.free ∧ (s.takeRecord r).hub.lost = true ∧ (s.takeRecord r).hub.uncounted = countUp 32 r.code 1 s.hub.uncounted := by
  obtain ⟨⟨a, w, hhub⟩, -, -⟩ := State.takeRecord_low (s := s) hsev
  have hlow : s.hub.numbered.takeLow { r with seq := s.hub.seq } = { s.hub.numbered.countCode r.code with lost := true } := if_pos hfull
  rw [hhub, hlow]
  exact ⟨rfl, rfl, rfl, rfl⟩

/-- A record that needs handling is queued while an entry is free, and waits for its dispatch. -/
theorem State.takeRecord_high_queued (hsev : 3 ≤ r.sev) (hfree : 0 < s.hub.free) (hnone : none ∈ s.hub.queue) :
    (∃ k : Nat, s.hub.queue[k]? = some none ∧ (s.takeRecord r).hub.queue =
      updAt s.hub.queue k fun _ => some { r with seq := s.hub.seq, overflow := s.hub.lost, preempt := s.hub.preempts r.sev }) ∧
    (s.takeRecord r).hub.free = s.hub.free - 1 ∧
    (s.takeRecord r).hub.dispatch = (if r.code = 0x81 then s.hub.dispatch
      else s.hub.dispatch ++ [{ r with seq := s.hub.seq, overflow := s.hub.lost, preempt := s.hub.preempts r.sev }]) ∧
    (s.takeRecord r).streams = (s.streamRec { r with seq := s.hub.seq, overflow := s.hub.lost, preempt := s.hub.preempts r.sev }).streams := by
  obtain ⟨⟨a, w, hhub⟩, hstreams⟩ := State.takeRecord_high (s := s) hsev hfree
  obtain ⟨k, hat, htake⟩ := Hub.take_free (h := s.hub.numbered) { r with seq := s.hub.seq, overflow := s.hub.lost, preempt := s.hub.preempts r.sev } hnone
  rw [hhub, hstreams, Hub.takeHigh_eq, htake]
  exact ⟨⟨k, hat, rfl⟩, rfl, rfl, rfl⟩

end

/-! ## The oldest record raised, and the record handled next (R320-R324) -/

/-- The state whose hub has taken the oldest record off what was raised. -/
def State.popped (s : State) (rest : List FaultRec) : State := s.modHub fun h => { h with arriving := rest }

section
variable {s : State} {r : FaultRec} {rest : List FaultRec}

section
variable (hrow : s.power.row = 11) (harr : s.hub.arriving = r :: rest)
include hrow harr

theorem exec_faultRecord : exec .faultRecord s = .next (
    let t := s.popped rest
    if r.sev = 1 then
      if s.hub.ceTick.any fun x => x.1 == ceKey r && decide (s.tick < x.2 + ticksSec 1) then t.modHub fun h => h.countCode r.code
      else (t.modHub fun h => { h with ceTick := assocSet (ceKey r) s.tick h.ceTick }).takeRecord r
    else if r.sev = 5 then t.takeFatal r t.chain
    else t.takeRecord r) := by
  refine (answer_of_ok rfl ?_ : answer true (doFaultRecord s) = _)
  rw [doFaultRecord, harr]
  dsimp only
  rw [State.running_of_row hrow]
  rfl

/-- A CE record with none of its resource and code in the last second is taken, and noted. -/
theorem exec_faultRecord_fresh (hsev : r.sev = 1) (hfresh : ∀ x ∈ s.hub.ceTick, x.1 = ceKey r → x.2 + ticksSec 1 ≤ s.tick) :
    exec .faultRecord s = .next (((s.popped rest).modHub
      fun h => { h with ceTick := assocSet (ceKey r) s.tick h.ceTick }).takeRecord r) := by
  have hnone : ¬ (s.hub.ceTick.any fun x => x.1 == ceKey r && decide (s.tick < x.2 + ticksSec 1)) = true := by
    simp only [List.any_eq_true, Bool.and_eq_true, beq_iff_eq, decide_eq_true_eq, not_exists, not_and, Nat.not_lt]
    exact hfresh
  rw [exec_faultRecord hrow harr]
  dsimp only
  rw [if_pos hsev, if_neg hnone]

/-- A CE record within a second of one of its resource and code is counted only. -/
theorem exec_faultRecord_suppressed (hsev : r.sev = 1) (hrecent : ∃ x ∈ s.hub.ceTick, x.1 = ceKey r ∧ s.tick < x.2 + ticksSec 1) :
    exec .faultRecord s = .next ((s.popped rest).modHub fun h => h.countCode r.code) := by
  have hsome : (s.hub.ceTick.any fun x => x.1 == ceKey r && decide (s.tick < x.2 + ticksSec 1)) = true := by
    simp only [List.any_eq_true, Bool.and_eq_true, beq_iff_eq, decide_eq_true_eq]
    exact hrecent
  rw [exec_faultRecord hrow harr]
  dsimp only
  rw [if_pos hsev, if_pos hsome]

/-- A record above CE and below FATAL is taken as it comes. -/
theorem exec_faultRecord_taken (hlo : 2 ≤ r.sev) (hhi : r.sev < 5) :
    exec .faultRecord s = .next ((s.popped rest).takeRecord r) := by
  rw [exec_faultRecord hrow harr]
  dsimp only
  rw [if_neg (show r.sev ≠ 1 by omega), if_neg (show r.sev ≠ 5 by omega)]

theorem exec_faultRecord_fatal (hsev : r.sev = 5) : exec .faultRecord s = .next
    ((s.popped rest).takeFatal r (s.popped rest).chain) := by
  rw [exec_faultRecord hrow harr]
  dsimp only
  rw [if_neg (show r.sev ≠ 1 by omega), if_pos hsev]

end

/-- The record handled next is the first of the highest severity that waits. -/
theorem exec_faultDispatch (hwaits : s.hub.dispatch.contains r = true) (hmax : ∀ x ∈ s.hub.dispatch, x.sev ≤ r.sev) :
    ∃ (k : Nat) (q : FaultRec), s.hub.dispatch[k]? = some q ∧ q.sev = r.sev ∧ (∀ j x, j < k → s.hub.dispatch[j]? = some x → x.sev < q.sev) ∧
      exec .faultDispatch s = .next ((s.modHub fun h => { h with dispatch := h.dispatch.eraseIdx k }).handle q) := by
  have hmem : r ∈ s.hub.dispatch := List.contains_iff_mem.1 hwaits
  obtain ⟨k, q, hfind, hat, hhighest, hbefore⟩ := firstWith_exists (q := fun r : FaultRec => s.hub.dispatch.all fun x => x.sev ≤ r.sev)
    ⟨r, hmem, by simpa only [List.all_eq_true, decide_eq_true_eq] using hmax⟩
  simp only [List.all_eq_true, decide_eq_true_eq] at hhighest
  refine ⟨k, q, hat, Nat.le_antisymm (hmax q (List.mem_of_getElem? hat)) (hhighest r hmem), fun j x hj hx => ?_, ?_⟩
  · have hlower : ∃ y ∈ s.hub.dispatch, x.sev < y.sev := by simpa using hbefore j x hj hx
    obtain ⟨y, hy, hlt⟩ := hlower
    exact Nat.lt_of_lt_of_le hlt (hhighest y hy)
  · refine (answer_of_ok rfl ?_ : answer true (doFaultDispatch s) = _)
    rw [doFaultDispatch, nextDispatch, hfind]

end

/-- Settles O56: the hub takes the oldest record by its severity, and handles the first of the highest. -/
theorem hubTakesRecordsInOrder : Obligations.HubTakesRecordsInOrder := by
  intro s r rest hrow
  refine ⟨fun harr => ⟨exec_faultRecord_fresh hrow harr, exec_faultRecord_suppressed hrow harr, exec_faultRecord_taken hrow harr, fun hsev => ?low,
    fun hlo _ hfree hnone => ?high, exec_faultRecord_fatal hrow harr⟩, exec_faultDispatch⟩
  case low =>
    obtain ⟨hseq, harriving, hmem, hdispatch⟩ := State.takeRecord_low_keeps (s := s.popped rest) hsev
    refine ⟨hseq, harriving, hmem, hdispatch, fun hroom hnone => ?_, fun hfull => State.takeRecord_low_counted (s := s.popped rest) hsev hfull⟩
    obtain ⟨hqueue, hfree, hlost, huncounted, hstreams⟩ := State.takeRecord_low_queued (s := s.popped rest) hsev hroom hnone
    exact ⟨hqueue, hfree, hlost, huncounted, hstreams.trans (State.streams_streamRec_modHub _ _ _)⟩
  case high =>
    obtain ⟨hqueue, hfree, hdispatch, hstreams⟩ := State.takeRecord_high_queued (s := s.popped rest) hlo hfree hnone
    exact ⟨hqueue, hfree, hdispatch, hstreams.trans (State.streams_streamRec_modHub _ _ _)⟩

end Sys2Proof.Machine
end

section
/-! PROOF. Scrub reads, remaps, the local scrub, and telemetry (R311-R313, R317, R347-R350). -/

-- A worker thread for each theorem would not fit the memory in which the text is checked whole.
set_option Elab.async false

namespace Sys2Proof.Machine

/-! ## The scrubber (R311-R313) -/

section
variable {s : State}

theorem exec_scrubRead_hbm (hrow : s.power.row = 11) {k : Nat} (ecc : Ecc) (hk : k < 16) (hp : s.power.pstate ≠ .p3) (hon : bit s.scrub.cfg 11 = true) :
    exec (.scrubRead false k ecc) s = .next
      ((s.scrubLine (s.stackLine k (s.scrub.hbm.getD k 0)) ecc).modScrub fun x => { x with hbm := updAt x.hbm k fun i => (i + 1) % packLines }) := by
  refine (answer_of_ok (decide_eq_true hk) ?_ : answer (Instr.scrubRead false k ecc).wf (doScrubRead false k ecc s) = _)
  simp only [doScrubRead, State.running_of_row hrow, hp, hon, Bool.not_true, Bool.false_eq_true, ↓reduceIte, or_self]

theorem exec_scrubRead_crucible (hrow : s.power.row = 11) {k : Nat} (ecc : Ecc) (hk : k < 2) (hp : s.power.pstate ≠ .p3) (hon : bit s.scrub.cfg 10 = true) :
    exec (.scrubRead true k ecc) s = .next
      ((s.scrubLine (s.packLine (16 * k + s.scrub.cru.getD k 0 / packLines) (s.scrub.cru.getD k 0 % packLines)) ecc).modScrub
        fun x => { x with cru := updAt x.cru k fun i => (i + 1) % (16 * packLines) }) := by
  refine (answer_of_ok (decide_eq_true hk) ?_ : answer (Instr.scrubRead true k ecc).wf (doScrubRead true k ecc s) = _)
  simp only [doScrubRead, State.running_of_row hrow, hp, hon, Bool.not_true, Bool.false_eq_true, ↓reduceIte, or_self]

/-- The repair log written, or its write deferred, leaves the remap tables, memory and what was raised. -/
theorem State.persist_repairLog (s : State) : (s.persist .repairLog).scrub.remaps = s.scrub.remaps ∧ (s.persist .repairLog).mem = s.mem ∧
    s.hub.arriving.length ≤ (s.persist .repairLog).hub.arriving.length := by
  unfold State.persist
  split_ifs
  · exact ⟨rfl, rfl, le_rfl⟩
  · exact ⟨rfl, rfl, le_rfl⟩
  · refine ⟨rfl, rfl, ?_⟩
    simp [State.deferRec, State.raise]

/-- A remap entry of the page, pending, made active. -/
def Remap.done (page : Nat) (r : Remap) : Remap := if r.page == page && r.st == 1 then { r with st := 2 } else r

theorem Remap.st_done {page : Nat} {r : Remap} (hpage : (r.done page).page = page) : (r.done page).st ≠ 1 := by
  unfold Remap.done at hpage ⊢
  split_ifs at hpage ⊢ with hpending
  · exact Nat.succ_ne_self 1
  · simpa [hpage] using hpending

/-- A pending entry becomes active, with a record. -/
theorem exec_remapDone {die page : Nat} (hdie : die < 2) (hpending : ∃ r ∈ s.scrub.remaps.getD die [], r.page = page ∧ r.st = 1) :
    ∃ t : State, exec (.remapDone die page) s = .next t ∧
      (die < s.scrub.remaps.length → ∀ r ∈ t.scrub.remaps.getD die [], r.page = page → r.st ≠ 1) ∧ t.mem = s.mem ∧
        t.hub.arriving.length ≥ s.hub.arriving.length + 1 := by
  have hany : ¬ (!(s.scrub.remaps.getD die []).any fun r => r.page == page && r.st == 1) = true := by simpa using hpending
  refine ⟨_, answer_of_ok (decide_eq_true hdie) (if_neg hany), ?_⟩
  obtain ⟨hremaps, hmem, harriving⟩ := State.persist_repairLog ((s.modScrub fun x => { x with remaps := updAt x.remaps die fun t => t.map (·.done page) }).raise
    { recDev sevCE 0x07 with resClass := 3, resIndex := die, addr := s.global page })
  refine ⟨fun hlen r hr hpage => ?_, hmem, le_trans (by simp [State.raise]) harriving⟩
  have hget := (congrArg (fun l => l.getD die []) hremaps).trans (getD_updAt_self (fun t => t.map (·.done page)) [] s.scrub.remaps die hlen)
  have hmap : r ∈ (s.scrub.remaps.getD die []).map (·.done page) := (congrArg (r ∈ ·) hget).mp hr
  obtain ⟨q, -, rfl⟩ := List.mem_map.1 hmap
  exact Remap.st_done hpage

end

/-! ## The local scrub (R312) -/

section
variable (s : State)

theorem vote3_agree {α : Type} [DecidableEq α] {l : List α} {a : α} (h : vote3 l = some (a, true)) : l = copies3 a := by
  unfold vote3 at h
  split at h
  case h_1 x y z =>
    split_ifs at h with hxy
    · obtain ⟨rfl, hyz⟩ : x = a ∧ y = z := by simpa using h
      rw [← hyz, ← hxy, copies3]
    all_goals simp at h
  case h_2 => cases h

/-- What the walk's later parts leave alone. -/
def State.walkView (s : State) : Scrub × List Nat := (s.scrub, s.partCfg)

theorem State.walkView_voteRoot (p : Nat) : (s.voteRoot p).walkView = s.walkView := by
  unfold State.voteRoot
  dsimp only
  split <;> rfl

theorem walkView_doKeyFault (k : Nat) (e : KeyErr) : (doKeyFault k e s).walkView = s.walkView := by
  cases e with
  | readBack =>
    unfold doKeyFault
    dsimp only
    split_ifs <;> rfl
  | keyOne => rfl
  | wordOne => rfl
  | keyTwo => rfl
  | wordNone => rfl
  | counterTwo => rfl

theorem State.walkView_voteSlot (k : Nat) : (s.voteSlot k).walkView = s.walkView := by
  unfold State.voteSlot
  split
  · rfl
  · exact walkView_doKeyFault s k _
  · exact walkView_doKeyFault s k _

theorem State.walkView_voteVerdict : s.voteVerdict.walkView = s.walkView := by
  unfold State.voteVerdict
  split <;> rfl

/-- A machine repartitioned keeps its scrubber. -/
theorem State.scrub_testsOver (hrow : s.power.row = 11) : s.testsOver.scrub = s.scrub := by
  unfold State.testsOver
  rw [if_neg (by rw [hrow]; decide)]
  refine State.each_reads State.scrub (fun t p _ => ?_) s
  dsimp only
  split_ifs <;> rfl

theorem State.scrub_repartition (cfg : Nat) (hrow : s.power.row = 11) : (s.repartition cfg).scrub = s.scrub := by
  have hview := State.each_reads (fun t : State => (t.scrub, t.power.row)) (f := fun s m => s.finishMbx m stDISCARDED [] 0xFFFF)
    (l := (List.range 64).filter fun m => 4 ≤ m && s.smithHas m) (fun t m _ => by rw [State.finishMbx_frame]) s
  unfold State.repartition
  generalize s.each _ _ = t at hview ⊢
  obtain ⟨hscrub, hkept⟩ := Prod.mk.inj hview
  have hpower : (((t.partsFor cfg).testAll).modPower fun w => w.startGrants cfg).power.row = t.power.row := rfl
  rw [State.scrub_testsOver _ (hpower.trans (hkept.trans hrow))]
  exact hscrub

theorem State.scrub_voteCfg (hrow : s.power.row = 11) : s.voteCfg.scrub = s.scrub := by
  unfold State.voteCfg
  split
  · rfl
  · rfl
  · rw [State.raise_scrub, s.scrub_repartition 0 hrow]

/-- Copies that two of three agree on are made one. -/
theorem State.partCfg_voteCfg {w : Nat} {b : Bool} (hvote : vote3 s.partCfg = some (w, b)) : s.voteCfg.partCfg = copies3 w := by
  unfold State.voteCfg
  rw [hvote]
  cases b with
  | true => exact vote3_agree hvote
  | false => rfl

/-- The walk's words after the configuration word: each partition's root, the key slots, the verdict. -/
def State.voteRest : State :=
  ((s.each (List.range s.nparts) fun s p => s.voteRoot p).each (List.range 512) fun s k => s.voteSlot k).voteVerdict

theorem State.walkView_voteRest : s.voteRest.walkView = s.walkView := by
  rw [State.voteRest, State.walkView_voteVerdict, State.each_reads State.walkView fun t k _ => t.walkView_voteSlot k,
    State.each_reads State.walkView fun t p _ => t.walkView_voteRoot p]

theorem doLocalScrub_nil (hrow : s.power.row = 11) (hdue : s.scrub.walkTick + ticksSec 1 ≤ s.tick) :
    doLocalScrub [] s = (s.modScrub fun x => { x with walkTick := s.tick }).voteCfg.voteRest := by
  have hwalk : ¬ ((!s.running) = true ∨ s.tick < s.scrub.walkTick + ticksSec 1) := by
    rw [State.running_of_row hrow]
    exact not_or.2 ⟨Bool.false_ne_true, Nat.not_lt.2 hdue⟩
  rw [doLocalScrub, if_neg hwalk]
  rfl

/-- The walk ends at its second, with the configuration word's copies alike. -/
theorem exec_localScrub_nil (hrow : s.power.row = 11) (hdue : s.scrub.walkTick + ticksSec 1 ≤ s.tick) :
    ∃ t : State, exec (.localScrub []) s = .next t ∧ t.scrub.walkTick = s.tick ∧ ∀ w b, vote3 s.partCfg = some (w, b) → t.partCfg = copies3 w := by
  have hview := (s.modScrub fun x => { x with walkTick := s.tick }).voteCfg.walkView_voteRest
  obtain ⟨hscrub, hcfg⟩ := Prod.mk.inj hview
  have hwalked := hscrub.trans (State.scrub_voteCfg (s.modScrub fun x => { x with walkTick := s.tick }) hrow)
  exact ⟨_, answer_of_ok rfl (doLocalScrub_nil s hrow hdue), congrArg Scrub.walkTick hwalked, fun w b hvote => hcfg.trans (State.partCfg_voteCfg _ hvote)⟩

end

/-! ## Telemetry (R347-R350) -/

section
variable (b : Batch)

theorem Batch.batches_put (cons : Nat) (r : TRec) : (b.put cons r).str.batches = b.str.batches := by
  unfold Batch.put
  dsimp only
  split_ifs <;> rfl

theorem batches_batchFill (cons first : Nat) : ∀ (l : List TRec) (b : Batch), (batchFill cons first l b).1.str.batches = b.str.batches
  | [], _ => rfl
  | r :: rest, b => by
    rw [batchFill]
    split_ifs
    · rfl
    · rw [batches_batchFill cons first rest, Batch.batches_put]

/-- A batch filled numbers no batch: its stream is the one it began with, but for bytes, records and what was lost. -/
theorem TStream.batches_batch (t : TStream) (cons : Nat) : (t.batch cons).1.str.batches = t.batches := batches_batchFill _ _ _ _

end

section
variable (s : State)

/-- What a packet sent to the host leaves alone. -/
def State.telemView (s : State) : List TStream × List Host.Cell := (s.streams, s.mem)

theorem State.telemView_hostWrite (owner : Option Nat) (id : Nat × Nat) (h : Nat) (bs : List Byte) (tag : Option Nat) :
    (s.hostWrite owner id h bs tag).1.telemView = s.telemView := by
  have hframe (t : State) (k : Nat) (x : Pkt) : (t.writeFrame k x).telemView = t.telemView := by
    unfold State.writeFrame State.hostFrame State.egress
    dsimp only
    split_ifs <;> rfl
  unfold State.hostWrite
  split
  · split_ifs
    · exact State.each_reads State.telemView (fun t x _ => hframe t _ x) s
    · rfl
  · rfl

/-- A stream once its batch is on the way. -/
def Batch.sent (b : Batch) (rest : List TRec) : TStream :=
  { b.str with queue := rest, batches := (b.str.batches + 1) % 2 ^ 28, flying := b.str.flying + b.recs }

theorem State.telemView_writes (owner : Option Nat) (id : Nat × Nat) (ring prod : Nat) (runs : List (Nat × List Byte)) (bs : List Byte) (tag : Option Nat) :
    ((s.each runs fun s x => (s.hostWrite owner id (ring + x.1) x.2 none).1).hostWrite owner id prod bs tag).1.telemView = s.telemView := by
  rw [State.telemView_hostWrite, State.each_reads State.telemView fun t x _ => t.telemView_hostWrite _ _ _ _ _]

/-- A batch goes out of the queue, and is numbered. -/
theorem exec_telemBatch {k : Nat} (hk : k < 5) (hconf : (s.streams.getD k {}).configured = true) (hqueue : (s.streams.getD k {}).queue ≠ [])
    (hup : s.ringUp k (s.streams.getD k {}) = true) : ∃ t : State, exec (.telemBatch k) s = .next t ∧
      (k < s.streams.length → (t.streams.getD k {}).queue = ((s.streams.getD k {}).batch (leNat (s.get4 (consOff k) 8))).2 ∧
        (t.streams.getD k {}).batches = ((s.streams.getD k {}).batches + 1) % 2 ^ 28) ∧ t.mem = s.mem := by
  have hwork : ¬ ((!(s.streams.getD k {}).configured) = true ∨ (s.streams.getD k {}).queue.isEmpty = true) := by
    rw [hconf, List.isEmpty_iff]
    exact not_or.2 ⟨Bool.false_ne_true, hqueue⟩
  have hopen : ¬ (!s.ringUp k (s.streams.getD k {})) = true := by
    rw [hup]
    exact Bool.false_ne_true
  let x := (s.streams.getD k {}).batch (leNat (s.get4 (consOff k) 8))
  have hview := (s.modStream k fun _ => x.1.sent x.2).telemView_writes (streamOwner k) (4, k) (s.streams.getD k {}).ring (s.streams.getD k {}).prod
    x.1.runs (leBytes 8 x.1.str.count) (some x.1.str.batches)
  obtain ⟨hstreams, hmem⟩ := Prod.mk.inj hview
  refine ⟨_, answer_of_ok (decide_eq_true hk) ((if_neg hwork).trans (if_neg hopen)), fun hlen => ?_, hmem⟩
  have hsent := (congrArg (fun l => l.getD k {}) hstreams).trans (getD_updAt_self _ _ _ _ hlen)
  exact ⟨congrArg TStream.queue hsent, (congrArg TStream.batches hsent).trans (congrArg (fun n => (n + 1) % 2 ^ 28) (TStream.batches_batch _ _))⟩

/-- A record formed leaves memory, the hub, the supply and the clock. -/
def State.recView (s : State) : List Host.Cell × Hub × Power × Nat := (s.mem, s.hub, s.power, s.tick)

theorem State.recView_recordDev (type unit len data : Nat) : (s.recordDev type unit len data).recView = s.recView := by
  unfold State.recordDev
  rw [State.record_frame]
  rfl

theorem State.recView_countRec (kind index n : Nat) : (s.countRec kind index n).recView = s.recView := by
  unfold State.countRec
  split_ifs
  · rfl
  · exact State.recView_recordDev s _ _ _ _

/-- Each count of the second is formed, and starts again. -/
theorem exec_countRec (hrow : s.power.row = 11) (hdue : s.hub.countTick + ticksSec 1 ≤ s.tick) : ∃ t : State, exec .countRec s = .next t ∧
    t.hub = { s.hub with uncounted := [], evicted := 0, countTick := s.tick } ∧ t.mem = s.mem := by
  have hwork : ¬ ((!s.running) = true ∨ s.tick < s.hub.countTick + ticksSec 1) := by
    rw [State.running_of_row hrow]
    exact not_or.2 ⟨Bool.false_ne_true, Nat.not_lt.2 hdue⟩
  refine ⟨_, answer_of_ok rfl (if_neg hwork), ?_⟩
  dsimp only
  generalize hv : State.countRec _ 2 0 _ = v
  have hview : v.recView = s.recView := by
    rw [← hv, State.recView_countRec, State.each_reads State.recView fun t k _ => t.recView_countRec _ _ _,
      State.each_reads State.recView fun t x _ => t.recView_countRec _ _ _]
  obtain ⟨hmem, hhub, -, htick⟩ : v.mem = s.mem ∧ v.hub = s.hub ∧ v.power = s.power ∧ v.tick = s.tick := by
    simpa only [State.recView, Prod.mk.injEq] using hview
  rw [State.modHub_hub, hhub, htick]
  exact ⟨rfl, hmem⟩

/-- The power record of a period is formed, and its sums start again. -/
theorem exec_powerRec (hrow : s.power.row = 11) (hasked : (s.streams.getD 0 {}).powerMs ≠ 0)
    (hdue : ticksMs (s.streams.getD 0 {}).powerMs ≤ s.tick - s.power.recTick) : ∃ t : State, exec .powerRec s = .next t ∧
      t.power = { s.power with bladeSum := 0, bladeMax := 0, bladeN := 0, throttleTicks := 0, recTick := s.tick } ∧ t.mem = s.mem := by
  have hwork : ¬ ((!s.running) = true ∨ (s.streams.getD 0 {}).powerMs = 0 ∨ s.tick - s.power.recTick < ticksMs (s.streams.getD 0 {}).powerMs) := by
    rw [State.running_of_row hrow]
    exact not_or.2 ⟨Bool.false_ne_true, not_or.2 ⟨hasked, Nat.not_lt.2 hdue⟩⟩
  refine ⟨_, answer_of_ok rfl (if_neg hwork), ?_⟩
  dsimp only
  generalize hv : s.recordDev 0x09 unitDevice 2 _ = v
  have hview : v.recView = s.recView := by rw [← hv, State.recView_recordDev]
  obtain ⟨hmem, -, hpower, htick⟩ : v.mem = s.mem ∧ v.hub = s.hub ∧ v.power = s.power ∧ v.tick = s.tick := by
    simpa only [State.recView, Prod.mk.injEq] using hview
  rw [State.modPower_power, hpower, htick]
  exact ⟨rfl, hmem⟩

end

/-- Settles O58: the scrubber, the local scrub and telemetry, each event by its own rule. -/
theorem scrubAndTelemetryComplete : Obligations.ScrubAndTelemetryComplete := by
  intro s hrow
  exact ⟨fun _ ecc hk hp hon => exec_scrubRead_hbm hrow ecc hk hp hon, fun _ ecc hk hp hon => exec_scrubRead_crucible hrow ecc hk hp hon, fun _ => rfl,
    fun _ _ hdie hpending => exec_remapDone hdie hpending, exec_localScrub_nil s hrow, fun _ hk hconf hqueue hup => exec_telemBatch s hk hconf hqueue hup,
    exec_countRec s hrow, exec_powerRec s hrow⟩

end Sys2Proof.Machine
end
